-- ==== Sys2Proof/Word.lean ====
section
/-!
DEFINITION. The word types of the AV-880 and the operands a Garuf command carries.
-/

namespace Sys2Proof

/-- A 64-bit scalar register, address or doubleword (05_hart.md R143). -/
abbrev Word := BitVec 64

/-- A byte of memory (00_scope.md R1). -/
abbrev Byte := BitVec 8

/-- Where a Garuf command comes from and its operands (12_command.md R370). With `ring` the operands are those of
the COMMAND packet at the head of queue `q` of function `fn`, and the other fields are ignored; without it they are
the fields here, and the command comes from the function directly (log 6). -/
structure Cmd where
  /-- Issuing function: 0 the PF, 1 to 128 a VF. -/
  fn : BitVec 8
  /-- The operands come from a packet of queue `q`. -/
  ring : Bool
  /-- The queue of a packet. -/
  q : BitVec 6
  /-- OWNER, used by GATE_CREATE. -/
  owner : BitVec 5
  /-- Operand A. -/
  a : Word
  /-- Operand B. -/
  b : Word
  /-- Operand C. -/
  c : Word
  /-- Operand D. -/
  d : Word
  /-- SIGNAL address, 0 for none. -/
  signal : Word
  /-- REPLY address, 0 for none. -/
  reply : Word
deriving DecidableEq, Repr

end Sys2Proof
end

