-- ==== Sys2Proof/Syntax.lean ====
section
/-!
DEFINITION. The syntax of the AV-880: one constructor for each row of the opcode table. An
instruction's arguments are its encoded fields in ascending bit position (02_encoding.md R51); an event's
arguments say on what it acts (log 1).
-/

namespace Sys2Proof

/-- One constructor for each row of spec/opcode_table.json: 273 instructions with words, 85 events of the engines. -/
inductive Instr where
  /-- Element-wise vector add (R214). -/
  | vadd (d : BitVec 5) (a : BitVec 5) (b : BitVec 5) (m : BitVec 7)
  /-- Element-wise vector subtract (R214). -/
  | vsub (d : BitVec 5) (a : BitVec 5) (b : BitVec 5) (m : BitVec 7)
  /-- Element-wise vector multiply (R214). -/
  | vmul (d : BitVec 5) (a : BitVec 5) (b : BitVec 5) (m : BitVec 7)
  /-- High half of the element-wise integer product (R214). -/
  | vmulh (d : BitVec 5) (a : BitVec 5) (b : BitVec 5) (m : BitVec 7)
  /-- Element-wise vector divide (R214). -/
  | vdiv (d : BitVec 5) (a : BitVec 5) (b : BitVec 5) (m : BitVec 7)
  /-- Element-wise integer remainder (R214). -/
  | vrem (d : BitVec 5) (a : BitVec 5) (b : BitVec 5) (m : BitVec 7)
  /-- Element-wise minimum (R214). -/
  | vmin (d : BitVec 5) (a : BitVec 5) (b : BitVec 5) (m : BitVec 7)
  /-- Element-wise maximum (R214). -/
  | vmax (d : BitVec 5) (a : BitVec 5) (b : BitVec 5) (m : BitVec 7)
  /-- Element-wise bitwise AND (R214). -/
  | vand (d : BitVec 5) (a : BitVec 5) (b : BitVec 5) (m : BitVec 7)
  /-- Element-wise bitwise OR (R214). -/
  | vor (d : BitVec 5) (a : BitVec 5) (b : BitVec 5) (m : BitVec 7)
  /-- Element-wise bitwise XOR (R214). -/
  | vxor (d : BitVec 5) (a : BitVec 5) (b : BitVec 5) (m : BitVec 7)
  /-- Element-wise left shift (R214). -/
  | vshl (d : BitVec 5) (a : BitVec 5) (b : BitVec 5) (m : BitVec 7)
  /-- Element-wise logical right shift (R214). -/
  | vshr (d : BitVec 5) (a : BitVec 5) (b : BitVec 5) (m : BitVec 7)
  /-- Element-wise arithmetic right shift (R214). -/
  | vsra (d : BitVec 5) (a : BitVec 5) (b : BitVec 5) (m : BitVec 7)
  /-- Element-wise saturating add (R214). -/
  | vadds (d : BitVec 5) (a : BitVec 5) (b : BitVec 5) (m : BitVec 7)
  /-- Element-wise saturating subtract (R214). -/
  | vsubs (d : BitVec 5) (a : BitVec 5) (b : BitVec 5) (m : BitVec 7)
  /-- Element-wise multiply-accumulate into the destination (R214). -/
  | vmac (d : BitVec 5) (a : BitVec 5) (b : BitVec 5) (m : BitVec 7)
  /-- Element-wise negative multiply-accumulate (R214). -/
  | vnmac (d : BitVec 5) (a : BitVec 5) (b : BitVec 5) (m : BitVec 7)
  /-- Element-wise square root (R214). -/
  | vsqrt (d : BitVec 5) (a : BitVec 5) (m : BitVec 7)
  /-- Element-wise absolute value (R214). -/
  | vabs (d : BitVec 5) (a : BitVec 5) (m : BitVec 7)
  /-- Fused add-minimum min(c, a + b) (R215). -/
  | vaddmin (d : BitVec 5) (a : BitVec 5) (b : BitVec 5) (m : BitVec 7)
  /-- Select b where the mask is set, else a (R216). -/
  | vmerge (d : BitVec 5) (a : BitVec 5) (b : BitVec 5) (m : BitVec 7)
  /-- Copy a vector (R214). -/
  | vmv (d : BitVec 5) (a : BitVec 5) (m : BitVec 7)
  /-- Compare equal into a mask (R220). -/
  | vseq (d : BitVec 7) (a : BitVec 5) (b : BitVec 5) (m : BitVec 7)
  /-- Compare not equal into a mask (R220). -/
  | vsne (d : BitVec 7) (a : BitVec 5) (b : BitVec 5) (m : BitVec 7)
  /-- Compare less-than into a mask (R220). -/
  | vslt (d : BitVec 7) (a : BitVec 5) (b : BitVec 5) (m : BitVec 7)
  /-- Compare less-or-equal into a mask (R220). -/
  | vsle (d : BitVec 7) (a : BitVec 5) (b : BitVec 5) (m : BitVec 7)
  /-- Add a scalar to each element (R217). -/
  | vaddVs (d : BitVec 5) (a : BitVec 5) (s : BitVec 6) (m : BitVec 7)
  /-- Subtract a scalar from each element (R217). -/
  | vsubVs (d : BitVec 5) (a : BitVec 5) (s : BitVec 6) (m : BitVec 7)
  /-- Multiply each element by a scalar (R217). -/
  | vmulVs (d : BitVec 5) (a : BitVec 5) (s : BitVec 6) (m : BitVec 7)
  /-- Minimum of each element and a scalar (R217). -/
  | vminVs (d : BitVec 5) (a : BitVec 5) (s : BitVec 6) (m : BitVec 7)
  /-- Maximum of each element and a scalar (R217). -/
  | vmaxVs (d : BitVec 5) (a : BitVec 5) (s : BitVec 6) (m : BitVec 7)
  /-- Left shift each element by a scalar amount (R217). -/
  | vshlVs (d : BitVec 5) (a : BitVec 5) (s : BitVec 6) (m : BitVec 7)
  /-- Logical right shift by a scalar amount (R217). -/
  | vshrVs (d : BitVec 5) (a : BitVec 5) (s : BitVec 6) (m : BitVec 7)
  /-- Arithmetic right shift by a scalar amount (R217). -/
  | vsraVs (d : BitVec 5) (a : BitVec 5) (s : BitVec 6) (m : BitVec 7)
  /-- Multiply-accumulate with a scalar factor (R217). -/
  | vmacVs (d : BitVec 5) (a : BitVec 5) (s : BitVec 6) (m : BitVec 7)
  /-- Fused add-minimum with a scalar addend (R217). -/
  | vaddminVs (d : BitVec 5) (a : BitVec 5) (s : BitVec 6) (m : BitVec 7)
  /-- Broadcast a scalar to every element (R217). -/
  | vbcast (d : BitVec 5) (s : BitVec 6) (m : BitVec 7)
  /-- Scalar minus each element (R217). -/
  | vrsubVs (d : BitVec 5) (a : BitVec 5) (s : BitVec 6) (m : BitVec 7)
  /-- Add an immediate to each element (R218). -/
  | vaddVi (d : BitVec 5) (a : BitVec 5) (i : BitVec 12)
  /-- AND each element with an immediate (R218). -/
  | vandVi (d : BitVec 5) (a : BitVec 5) (i : BitVec 12)
  /-- OR each element with an immediate (R218). -/
  | vorVi (d : BitVec 5) (a : BitVec 5) (i : BitVec 12)
  /-- XOR each element with an immediate (R218). -/
  | vxorVi (d : BitVec 5) (a : BitVec 5) (i : BitVec 12)
  /-- Left shift by an immediate amount (R218). -/
  | vshlVi (d : BitVec 5) (a : BitVec 5) (i : BitVec 12)
  /-- Logical right shift by an immediate amount (R218). -/
  | vshrVi (d : BitVec 5) (a : BitVec 5) (i : BitVec 12)
  /-- Arithmetic right shift by an immediate amount (R218). -/
  | vsraVi (d : BitVec 5) (a : BitVec 5) (i : BitVec 12)
  /-- Immediate minus each element (R218). -/
  | vrsubVi (d : BitVec 5) (a : BitVec 5) (i : BitVec 12)
  /-- Write start + i × step into each element (R219). -/
  | vidx (d : BitVec 5) (s : BitVec 10) (p : BitVec 10)
  /-- Tree sum reduction into vd[0] (R226). -/
  | vredsum (d : BitVec 5) (a : BitVec 5) (b : BitVec 5) (m : BitVec 7)
  /-- Minimum reduction (R226). -/
  | vredmin (d : BitVec 5) (a : BitVec 5) (b : BitVec 5) (m : BitVec 7)
  /-- Maximum reduction (R226). -/
  | vredmax (d : BitVec 5) (a : BitVec 5) (b : BitVec 5) (m : BitVec 7)
  /-- Bitwise AND reduction (R226). -/
  | vredand (d : BitVec 5) (a : BitVec 5) (b : BitVec 5) (m : BitVec 7)
  /-- Bitwise OR reduction (R226). -/
  | vredor (d : BitVec 5) (a : BitVec 5) (b : BitVec 5) (m : BitVec 7)
  /-- Bitwise XOR reduction (R226). -/
  | vredxor (d : BitVec 5) (a : BitVec 5) (b : BitVec 5) (m : BitVec 7)
  /-- Inclusive additive scan with carry-out to vb[0] (R227). -/
  | vscan (d : BitVec 5) (a : BitVec 5) (b : BitVec 5) (m : BitVec 7)
  /-- Exclusive additive scan with carry-out to vb[0] (R227). -/
  | vscanx (d : BitVec 5) (a : BitVec 5) (b : BitVec 5) (m : BitVec 7)
  /-- Slide elements up by a scalar offset (R228). -/
  | vslideup (d : BitVec 5) (a : BitVec 5) (s : BitVec 6) (m : BitVec 7)
  /-- Slide elements down by a scalar offset (R228). -/
  | vslidedn (d : BitVec 5) (a : BitVec 5) (s : BitVec 6) (m : BitVec 7)
  /-- Slide up by one, inserting a scalar at element 0 (R228). -/
  | vslide1up (d : BitVec 5) (a : BitVec 5) (s : BitVec 6) (m : BitVec 7)
  /-- Slide down by one, inserting a scalar at the last element (R228). -/
  | vslide1dn (d : BitVec 5) (a : BitVec 5) (s : BitVec 6) (m : BitVec 7)
  /-- Permute by an index vector (R229). -/
  | vperm (d : BitVec 5) (a : BitVec 5) (b : BitVec 5) (m : BitVec 7)
  /-- Pack the mask-selected elements (R229). -/
  | vcompress (d : BitVec 5) (a : BitVec 5) (m : BitVec 7)
  /-- Spread consecutive elements to active positions (R229). -/
  | vexpand (d : BitVec 5) (a : BitVec 5) (m : BitVec 7)
  /-- Reverse element order (R229). -/
  | vrev (d : BitVec 5) (a : BitVec 5) (m : BitVec 7)
  /-- Interleave two vectors (R229). -/
  | vzip (d : BitVec 5) (a : BitVec 5) (b : BitVec 5) (m : BitVec 7)
  /-- De-interleave a vector (R229). -/
  | vunzip (d : BitVec 5) (a : BitVec 5) (m : BitVec 7)
  /-- Index of the nearest earlier active element with equal bits (R229). -/
  | vconflict (d : BitVec 5) (a : BitVec 5) (m : BitVec 7)
  /-- Element-wise type conversion under R91 (R221). -/
  | vcvt (d : BitVec 5) (a : BitVec 5) (t : BitVec 4) (f : BitVec 4) (m : BitVec 7)
  /-- Mask AND (R224). -/
  | mand (d : BitVec 7) (a : BitVec 7) (b : BitVec 7)
  /-- Mask OR (R224). -/
  | mor (d : BitVec 7) (a : BitVec 7) (b : BitVec 7)
  /-- Mask XOR (R224). -/
  | mxor (d : BitVec 7) (a : BitVec 7) (b : BitVec 7)
  /-- Mask AND NOT (R224). -/
  | mandn (d : BitVec 7) (a : BitVec 7) (b : BitVec 7)
  /-- Mask OR NOT (R224). -/
  | morn (d : BitVec 7) (a : BitVec 7) (b : BitVec 7)
  /-- Mask NAND (R224). -/
  | mnand (d : BitVec 7) (a : BitVec 7) (b : BitVec 7)
  /-- Mask NOR (R224). -/
  | mnor (d : BitVec 7) (a : BitVec 7) (b : BitVec 7)
  /-- Mask XNOR (R224). -/
  | mxnor (d : BitVec 7) (a : BitVec 7) (b : BitVec 7)
  /-- Mask copy (R224). -/
  | mmv (d : BitVec 7) (a : BitVec 7)
  /-- Mask complement (R224). -/
  | mnot (d : BitVec 7) (a : BitVec 7)
  /-- Set bits before the first set bit (R224). -/
  | msetbf (d : BitVec 7) (a : BitVec 7)
  /-- Set bits up to and including the first set bit (R224). -/
  | msetif (d : BitVec 7) (a : BitVec 7)
  /-- Set only the first set bit (R224). -/
  | msetof (d : BitVec 7) (a : BitVec 7)
  /-- Clear a mask (R224). -/
  | mclr (d : BitVec 7)
  /-- Set a mask to all ones (R224). -/
  | mset (d : BitVec 7)
  /-- Extract element s[b] to the SRQ (R225). -/
  | vext (a : BitVec 5) (b : BitVec 6)
  /-- Population count of a mask to the SRQ (R225). -/
  | mpop (m : BitVec 7)
  /-- Lowest set mask bit to the SRQ (R225). -/
  | mfind (m : BitVec 7)
  /-- Any-bit-set condition to the BQ (R225). -/
  | mbany (m : BitVec 7)
  /-- All-bits-set condition to the BQ (R225). -/
  | mball (m : BitVec 7)
  /-- Unit-stride vector load (R175). -/
  | vld (v : BitVec 5) (a : BitVec 6) (b : BitVec 6) (m : BitVec 7)
  /-- Unit-stride vector store (R175). -/
  | vst (v : BitVec 5) (a : BitVec 6) (b : BitVec 6) (m : BitVec 7)
  /-- Strided vector load (R175). -/
  | vlds (v : BitVec 5) (a : BitVec 6) (b : BitVec 6) (m : BitVec 7)
  /-- Strided vector store (R175). -/
  | vsts (v : BitVec 5) (a : BitVec 6) (b : BitVec 6) (m : BitVec 7)
  /-- Indexed vector load with a probe pass (R178). -/
  | vldx (v : BitVec 5) (a : BitVec 6) (i : BitVec 5) (m : BitVec 7)
  /-- Indexed vector store with a probe pass (R178). -/
  | vstx (v : BitVec 5) (a : BitVec 6) (i : BitVec 5) (m : BitVec 7)
  /-- Unit-stride first-fault load, trimming FFMASK (R180). -/
  | vldff (v : BitVec 5) (a : BitVec 6) (b : BitVec 6) (m : BitVec 7)
  /-- Strided first-fault load (R180). -/
  | vldsff (v : BitVec 5) (a : BitVec 6) (b : BitVec 6) (m : BitVec 7)
  /-- Vector load at base plus immediate (R175). -/
  | vldI (v : BitVec 5) (a : BitVec 6) (i : BitVec 12)
  /-- Vector store at base plus immediate (R175). -/
  | vstI (v : BitVec 5) (a : BitVec 6) (i : BitVec 12)
  /-- First-fault load at base plus immediate (R180). -/
  | vldffI (v : BitVec 5) (a : BitVec 6) (i : BitVec 12)
  /-- Bind a stream register to a load descriptor (R190). -/
  | tbindl (t : BitVec 4) (a : BitVec 6)
  /-- Bind a stream register to a store descriptor (R190). -/
  | tbinds (t : BitVec 4) (a : BitVec 6)
  /-- Unbind a stream and discard prefetched elements (R193). -/
  | tfree (t : BitVec 4)
  /-- Discard undelivered prefetched elements of a load stream (R193). -/
  | tflush (t : BitVec 4)
  /-- Deliver the next strip of a load stream (R191). -/
  | tget (v : BitVec 5) (t : BitVec 4) (m : BitVec 7)
  /-- Append a strip to a store stream (R192). -/
  | tsend (v : BitVec 5) (t : BitVec 4) (m : BitVec 7)
  /-- Start an asynchronous copy on a copy token (R195). -/
  | acopy (a : BitVec 6) (b : BitVec 6) (c : BitVec 6) (k : BitVec 4)
  /-- Wait for a copy token, acquiring or raising its fault (R197). -/
  | cwait (k : BitVec 4)
  /-- Write whether a copy token is not BUSY to the BQ (R198). -/
  | ctest (k : BitVec 4)
  /-- Read, check and load fabric node configuration blocks (R243). -/
  | fload (a : BitVec 6) (n : BitVec 8)
  /-- Start LOADED nodes and resume STOPPED ones (R244). -/
  | fstart (n : BitVec 8)
  /-- Stop RUNNING nodes at an iteration boundary (R244). -/
  | fstop (n : BitVec 8)
  /-- Wait for nodes, release them and pass the reconfiguration token (R245). -/
  | fdrain (n : BitVec 8)
  /-- Write fabric node status to the SRQ (R246). -/
  | fstat (n : BitVec 8)
  /-- Fabric gather through indices (R249). -/
  | fgather (v : BitVec 5) (i : BitVec 5) (a : BitVec 6) (m : BitVec 7)
  /-- Fabric scatter through indices (R249). -/
  | fscatter (v : BitVec 5) (i : BitVec 5) (a : BitVec 6) (m : BitVec 7)
  /-- Windowed gather with out-of-range indices giving zero (R247). -/
  | fwgather (v : BitVec 5) (i : BitVec 5) (a : BitVec 6) (m : BitVec 7)
  /-- Pre-combined vector atomic add (R252). -/
  | vamoadd (v : BitVec 5) (i : BitVec 5) (a : BitVec 6) (m : BitVec 7)
  /-- Pre-combined vector atomic minimum (R252). -/
  | vamomin (v : BitVec 5) (i : BitVec 5) (a : BitVec 6) (m : BitVec 7)
  /-- Pre-combined vector atomic maximum (R252). -/
  | vamomax (v : BitVec 5) (i : BitVec 5) (a : BitVec 6) (m : BitVec 7)
  /-- Fetch-add-scan on a counter (R254). -/
  | fas (v : BitVec 5) (i : BitVec 5) (a : BitVec 6) (m : BitVec 7)
  /-- Add into private copies of an accumulation window (R256). -/
  | awadd (v : BitVec 5) (i : BitVec 5) (k : BitVec 3) (m : BitVec 7)
  /-- Minimum into window copies (R256). -/
  | awmin (v : BitVec 5) (i : BitVec 5) (k : BitVec 3) (m : BitVec 7)
  /-- Maximum into window copies (R256). -/
  | awmax (v : BitVec 5) (i : BitVec 5) (k : BitVec 3) (m : BitVec 7)
  /-- Open an accumulation window (R255). -/
  | awopen (a : BitVec 6) (b : BitVec 6) (k : BitVec 3)
  /-- Fold window copies into memory and close the window (R257). -/
  | accmerge (k : BitVec 3)
  /-- Drop window copies and close the window (R257). -/
  | awdiscard (k : BitVec 3)
  /-- Read and check a chain block and hold it as the current chain (R276). -/
  | chform (a : BitVec 6)
  /-- Start a run of N elements through the chain (R277). -/
  | chrun (a : BitVec 6)
  /-- Wait until no run is attached (R279). -/
  | chwait
  /-- Break a standing run with cause 6 and set the pin (R280). -/
  | chbreak
  /-- Release the chain after its run detaches (R281). -/
  | chfree
  /-- Write chain status to the SRQ (R282). -/
  | chstat
  /-- Write a stage's progress index to the SRQ (R282). -/
  | chidx (a : BitVec 6)
  /-- Dequeue an element of an out-queue to the SRQ (R283). -/
  | qrd (x : BitVec 5)
  /-- Enqueue a scalar into an in-queue (R283). -/
  | qwr (x : BitVec 5) (a : BitVec 6)
  /-- Write a chaining queue's element count to the SRQ (R283). -/
  | qlen (x : BitVec 5)
  /-- Dense matrix multiply-accumulate (R303). -/
  | mmac (c : BitVec 4) (a : BitVec 6) (b : BitVec 6) (x : BitVec 6)
  /-- Multiply-accumulate with a sparse A (R303). -/
  | mmacsa (c : BitVec 4) (a : BitVec 6) (b : BitVec 6) (x : BitVec 6)
  /-- Multiply-accumulate with a sparse B (R303). -/
  | mmacsb (c : BitVec 4) (a : BitVec 6) (b : BitVec 6) (x : BitVec 6)
  /-- Load an accumulator tile (R308). -/
  | mldc (c : BitVec 4) (a : BitVec 6)
  /-- Store an accumulator tile with conversion (R308). -/
  | mstc (c : BitVec 4) (a : BitVec 6) (x : BitVec 6)
  /-- Zero an accumulator tile (R308). -/
  | mzero (c : BitVec 4)
  /-- Build the key-block skip mask (R310). -/
  | mskip (a : BitVec 6) (b : BitVec 6) (x : BitVec 6)
  /-- Request matrix units and return U (R300). -/
  | mshape (a : BitVec 6)
  /-- Prune a dense tile to an N:M sparse tile (R311). -/
  | mprune (a : BitVec 6) (b : BitVec 6) (x : BitVec 6)
  /-- Configure an operand node from a descriptor (R314). -/
  | mnode (c : BitVec 4) (a : BitVec 6)
  /-- Start an ARMED operand node (R314). -/
  | mfill (c : BitVec 4)
  /-- Wait for an operand node to be DONE and idle it (R314). -/
  | mwait (c : BitVec 4)
  /-- Scale accumulator rows by f32 factors (R309). -/
  | mscale (c : BitVec 4) (a : BitVec 6)
  /-- Write operand node and matrix status to the SRQ (R318). -/
  | mstat (c : BitVec 4)
  /-- Copy local bytes to peer memory on a link token (R404). -/
  | lput (a : BitVec 6) (b : BitVec 6) (c : BitVec 6) (k : BitVec 3)
  /-- Copy peer bytes to local memory on a link token (R404). -/
  | lget (a : BitVec 6) (b : BitVec 6) (c : BitVec 6) (k : BitVec 3)
  /-- Collective reduction step from a peer buffer (R405). -/
  | lcred (a : BitVec 6) (b : BitVec 6) (c : BitVec 6) (k : BitVec 3)
  /-- Collective gather step from a peer buffer (R405). -/
  | lcgat (a : BitVec 6) (b : BitVec 6) (c : BitVec 6) (k : BitVec 3)
  /-- Collective broadcast step into a peer buffer (R405). -/
  | lcbc (a : BitVec 6) (b : BitVec 6) (c : BitVec 6) (k : BitVec 3)
  /-- Wait for a link token, acquiring or raising its fault (R406). -/
  | lwait (k : BitVec 3)
  /-- Wait until no link token is BUSY (R406). -/
  | lfence
  /-- Write whether a link token is not BUSY to the BQ (R406). -/
  | ltest (k : BitVec 3)
  /-- Retire and raise E_TRAP with EPC at the next word (R167). -/
  | trap
  /-- Leave the handler, restoring held queues or resuming at EPC (R166). -/
  | tret
  /-- Wait until TIMER reaches s[a] (R167). -/
  | waitt (a : BitVec 6)
  /-- Raise E_BREAK, or enter debug halt when armed (R167). -/
  | brk
  /-- Post an addend to a gate as a release (R333). -/
  | gpost (a : BitVec 6) (b : BitVec 6)
  /-- Post an addend and set the gate payload (R333). -/
  | gpostPayload (d : BitVec 6) (a : BitVec 6) (b : BitVec 6)
  /-- Wait for a gate counter threshold and read the payload as an acquire (R335). -/
  | gwait (d : BitVec 6) (a : BitVec 6) (b : BitVec 6)
  /-- Post to a gate only if the toll admits it now (R334). -/
  | gtry (d : BitVec 6) (a : BitVec 6) (b : BitVec 6)
  /-- Read a gate counter as an acquire (R336). -/
  | gread (d : BitVec 6) (a : BitVec 6)
  /-- Open a gate handle with requested rights (R331). -/
  | gopen (d : BitVec 6) (a : BitVec 6) (b : BitVec 6)
  /-- Free a gate handle slot (R332). -/
  | gclose (a : BitVec 6)
  /-- Claim strips from a farm counter (R363). -/
  | fclaim (d : BitVec 6) (a : BitVec 6) (b : BitVec 6)
  /-- Drain, release and end the hart (R364). -/
  | fend
  /-- Decrement a signal as a release (R365). -/
  | sigdec (a : BitVec 6) (b : BitVec 6)
  /-- Wait until a signal is at most a threshold (R365). -/
  | sigwait (a : BitVec 6) (b : BitVec 6)
  /-- Place a packet into a hart queue of the function (R366). -/
  | launch (a : BitVec 6) (b : BitVec 6)
  /-- Compact add: s[d] := s[ld] + s[b] (R52). -/
  | cAdd (d : BitVec 6) (b : BitVec 6)
  /-- Compact subtract: s[d] := s[ld] - s[b] (R52). -/
  | cSub (d : BitVec 6) (b : BitVec 6)
  /-- Compact AND of s[ld] and s[b] into s[d] (R52). -/
  | cAnd (d : BitVec 6) (b : BitVec 6)
  /-- Compact OR of s[ld] and s[b] into s[d] (R52). -/
  | cOr (d : BitVec 6) (b : BitVec 6)
  /-- Compact XOR of s[ld] and s[b] into s[d] (R52). -/
  | cXor (d : BitVec 6) (b : BitVec 6)
  /-- Compact left shift of s[ld] by s[b] AND 63 (R52). -/
  | cShl (d : BitVec 6) (b : BitVec 6)
  /-- Compact add of a sign-extended 6-bit immediate to s[ld] (R52). -/
  | cAddi (d : BitVec 6) (i : BitVec 6)
  /-- 64-bit wrapping add of two scalar registers (R152). -/
  | add (d : BitVec 6) (a : BitVec 6) (b : BitVec 6)
  /-- 64-bit wrapping subtract (R152). -/
  | sub (d : BitVec 6) (a : BitVec 6) (b : BitVec 6)
  /-- Bitwise AND of two scalar registers (R152). -/
  | and (d : BitVec 6) (a : BitVec 6) (b : BitVec 6)
  /-- Bitwise OR of two scalar registers (R152). -/
  | or (d : BitVec 6) (a : BitVec 6) (b : BitVec 6)
  /-- Bitwise XOR of two scalar registers (R152). -/
  | xor (d : BitVec 6) (a : BitVec 6) (b : BitVec 6)
  /-- Left shift by b AND 63 (R152). -/
  | shl (d : BitVec 6) (a : BitVec 6) (b : BitVec 6)
  /-- Logical right shift by b AND 63 (R152). -/
  | shr (d : BitVec 6) (a : BitVec 6) (b : BitVec 6)
  /-- Arithmetic right shift by b AND 63 (R152). -/
  | sra (d : BitVec 6) (a : BitVec 6) (b : BitVec 6)
  /-- Set 1 if a < b as i64 (R152). -/
  | slt (d : BitVec 6) (a : BitVec 6) (b : BitVec 6)
  /-- Set 1 if a < b as n64 (R152). -/
  | sltn (d : BitVec 6) (a : BitVec 6) (b : BitVec 6)
  /-- Low 64 bits of the product (R152). -/
  | mul (d : BitVec 6) (a : BitVec 6) (b : BitVec 6)
  /-- High 64 bits of the signed product (R152). -/
  | mulh (d : BitVec 6) (a : BitVec 6) (b : BitVec 6)
  /-- High 64 bits of the natural product (R152). -/
  | mulhn (d : BitVec 6) (a : BitVec 6) (b : BitVec 6)
  /-- Signed division under R76, setting DZ on divide by zero (R152). -/
  | div (d : BitVec 6) (a : BitVec 6) (b : BitVec 6)
  /-- Natural division under R76 (R152). -/
  | divn (d : BitVec 6) (a : BitVec 6) (b : BitVec 6)
  /-- Signed remainder under R76 (R152). -/
  | rem (d : BitVec 6) (a : BitVec 6) (b : BitVec 6)
  /-- Natural remainder under R76 (R152). -/
  | remn (d : BitVec 6) (a : BitVec 6) (b : BitVec 6)
  /-- Add a sign-extended 12-bit immediate (R153). -/
  | addi (d : BitVec 6) (a : BitVec 6) (i : BitVec 12)
  /-- Set 1 if s[a] < immediate as i64 (R153). -/
  | slti (d : BitVec 6) (a : BitVec 6) (i : BitVec 12)
  /-- AND with a sign-extended immediate (R153). -/
  | andi (d : BitVec 6) (a : BitVec 6) (i : BitVec 12)
  /-- OR with a sign-extended immediate (R153). -/
  | ori (d : BitVec 6) (a : BitVec 6) (i : BitVec 12)
  /-- XOR with a sign-extended immediate (R153). -/
  | xori (d : BitVec 6) (a : BitVec 6) (i : BitVec 12)
  /-- Left shift by an immediate amount (R153). -/
  | shli (d : BitVec 6) (a : BitVec 6) (s : BitVec 6)
  /-- Logical right shift by an immediate amount (R153). -/
  | shri (d : BitVec 6) (a : BitVec 6) (s : BitVec 6)
  /-- Arithmetic right shift by an immediate amount (R153). -/
  | srai (d : BitVec 6) (a : BitVec 6) (s : BitVec 6)
  /-- Load a doubleword into s[d] (R154). -/
  | ld64 (d : BitVec 6) (a : BitVec 6) (i : BitVec 12)
  /-- Load a sign-extended word (R154). -/
  | ld32 (d : BitVec 6) (a : BitVec 6) (i : BitVec 12)
  /-- Load a sign-extended halfword (R154). -/
  | ld16 (d : BitVec 6) (a : BitVec 6) (i : BitVec 12)
  /-- Load a sign-extended byte (R154). -/
  | ld8 (d : BitVec 6) (a : BitVec 6) (i : BitVec 12)
  /-- Load a zero-extended word (R154). -/
  | ldn32 (d : BitVec 6) (a : BitVec 6) (i : BitVec 12)
  /-- Load a zero-extended halfword (R154). -/
  | ldn16 (d : BitVec 6) (a : BitVec 6) (i : BitVec 12)
  /-- Load a zero-extended byte (R154). -/
  | ldn8 (d : BitVec 6) (a : BitVec 6) (i : BitVec 12)
  /-- Load a word into f[d], zero-extended (R154). -/
  | fld32 (d : BitVec 5) (a : BitVec 6) (i : BitVec 12)
  /-- Load a doubleword into f[d] (R154). -/
  | fld64 (d : BitVec 5) (a : BitVec 6) (i : BitVec 12)
  /-- Store a doubleword from s[d] (R154). -/
  | st64 (d : BitVec 6) (a : BitVec 6) (i : BitVec 12)
  /-- Store the low word of s[d] (R154). -/
  | st32 (d : BitVec 6) (a : BitVec 6) (i : BitVec 12)
  /-- Store the low halfword of s[d] (R154). -/
  | st16 (d : BitVec 6) (a : BitVec 6) (i : BitVec 12)
  /-- Store the low byte of s[d] (R154). -/
  | st8 (d : BitVec 6) (a : BitVec 6) (i : BitVec 12)
  /-- Store the low word of f[d] (R154). -/
  | fst32 (d : BitVec 5) (a : BitVec 6) (i : BitVec 12)
  /-- Store f[d] as a doubleword (R154). -/
  | fst64 (d : BitVec 5) (a : BitVec 6) (i : BitVec 12)
  /-- Register jump and link, raising E_ALIGN on an odd target (R157). -/
  | jlr (d : BitVec 6) (a : BitVec 6) (i : BitVec 12)
  /-- Branch if equal (R155). -/
  | beq (a : BitVec 6) (b : BitVec 6) (o : BitVec 12)
  /-- Branch if not equal (R155). -/
  | bne (a : BitVec 6) (b : BitVec 6) (o : BitVec 12)
  /-- Branch if less than as i64 (R155). -/
  | blt (a : BitVec 6) (b : BitVec 6) (o : BitVec 12)
  /-- Branch if greater or equal as i64 (R155). -/
  | bge (a : BitVec 6) (b : BitVec 6) (o : BitVec 12)
  /-- Branch if less than as n64 (R155). -/
  | bltn (a : BitVec 6) (b : BitVec 6) (o : BitVec 12)
  /-- Branch if greater or equal as n64 (R155). -/
  | bgen (a : BitVec 6) (b : BitVec 6) (o : BitVec 12)
  /-- Subtract s[b] from s[a] and branch if the result is nonzero (R156). -/
  | sbnz (a : BitVec 6) (b : BitVec 6) (o : BitVec 12)
  /-- PC-relative jump (R157). -/
  | j (o : BitVec 20)
  /-- PC-relative jump writing the return address to s63 (R157). -/
  | jl (o : BitVec 20)
  /-- Drain the named queue, consume the oldest BQ entry and branch if it is 0 (R158). -/
  | bqz (q : BitVec 2) (o : BitVec 20)
  /-- Drain the named queue, consume the oldest BQ entry and branch if it is 1 (R158). -/
  | bqnz (q : BitVec 2) (o : BitVec 20)
  /-- Scalar floating-point add, rounded once (R159). -/
  | fadd (d : BitVec 5) (a : BitVec 5) (b : BitVec 5) (t : BitVec 1)
  /-- Scalar floating-point subtract (R159). -/
  | fsub (d : BitVec 5) (a : BitVec 5) (b : BitVec 5) (t : BitVec 1)
  /-- Scalar floating-point multiply (R159). -/
  | fmul (d : BitVec 5) (a : BitVec 5) (b : BitVec 5) (t : BitVec 1)
  /-- Scalar floating-point divide, correctly rounded (R159). -/
  | fdiv (d : BitVec 5) (a : BitVec 5) (b : BitVec 5) (t : BitVec 1)
  /-- Scalar floating-point square root (R159). -/
  | fsqrt (d : BitVec 5) (a : BitVec 5) (t : BitVec 1)
  /-- Scalar floating-point minimum under R93 (R159). -/
  | fmin (d : BitVec 5) (a : BitVec 5) (b : BitVec 5) (t : BitVec 1)
  /-- Scalar floating-point maximum under R93 (R159). -/
  | fmax (d : BitVec 5) (a : BitVec 5) (b : BitVec 5) (t : BitVec 1)
  /-- Fused multiply-add into f[d] (R159). -/
  | fmac (d : BitVec 5) (a : BitVec 5) (b : BitVec 5) (t : BitVec 1)
  /-- Floating-point equality compare into s[d] (R159). -/
  | feq (d : BitVec 6) (a : BitVec 5) (b : BitVec 5) (t : BitVec 1)
  /-- Floating-point less-than compare into s[d] (R159). -/
  | flt (d : BitVec 6) (a : BitVec 5) (b : BitVec 5) (t : BitVec 1)
  /-- Floating-point less-or-equal compare into s[d] (R159). -/
  | fle (d : BitVec 6) (a : BitVec 5) (b : BitVec 5) (t : BitVec 1)
  /-- Convert i64 in s[a] to floating point (R159). -/
  | fcvtF (d : BitVec 5) (a : BitVec 6) (t : BitVec 1)
  /-- Convert floating point to i64 under R91 (R159). -/
  | fcvtI (d : BitVec 6) (a : BitVec 5) (t : BitVec 1)
  /-- Convert between f32 and f64, narrowing under SAT and rsr (R160). -/
  | fcvtFf (d : BitVec 5) (a : BitVec 5) (t : BitVec 1)
  /-- Move f register bits to a scalar register (R159). -/
  | fmvSF (d : BitVec 6) (a : BitVec 5) (t : BitVec 1)
  /-- Move scalar register bits to an f register (R159). -/
  | fmvFS (d : BitVec 5) (a : BitVec 6) (t : BitVec 1)
  /-- Write a one-hot class mask of f[a] to s[d] (R159). -/
  | fclass (d : BitVec 6) (a : BitVec 5) (t : BitVec 1)
  /-- Atomic swap of a 64-bit word (R161). -/
  | amoswap (d : BitVec 6) (a : BitVec 6) (b : BitVec 6) (c : BitVec 3) (r : BitVec 2)
  /-- Atomic add to a 64-bit word (R161). -/
  | amoadd (d : BitVec 6) (a : BitVec 6) (b : BitVec 6) (c : BitVec 3) (r : BitVec 2)
  /-- Atomic AND to a 64-bit word (R161). -/
  | amoand (d : BitVec 6) (a : BitVec 6) (b : BitVec 6) (c : BitVec 3) (r : BitVec 2)
  /-- Atomic OR to a 64-bit word (R161). -/
  | amoor (d : BitVec 6) (a : BitVec 6) (b : BitVec 6) (c : BitVec 3) (r : BitVec 2)
  /-- Atomic signed maximum (R161). -/
  | amomax (d : BitVec 6) (a : BitVec 6) (b : BitVec 6) (c : BitVec 3) (r : BitVec 2)
  /-- Atomic natural maximum (R161). -/
  | amomaxn (d : BitVec 6) (a : BitVec 6) (b : BitVec 6) (c : BitVec 3) (r : BitVec 2)
  /-- Atomic compare-and-swap (R161). -/
  | amocas (d : BitVec 6) (a : BitVec 6) (b : BitVec 6) (c : BitVec 3) (r : BitVec 2)
  /-- Acquire load of a doubleword (R161). -/
  | ldaq (d : BitVec 6) (a : BitVec 6) (c : BitVec 3)
  /-- Release store of a doubleword after draining the queues (R161). -/
  | strl (a : BitVec 6) (b : BitVec 6) (c : BitVec 3)
  /-- Full fence at a scope, draining the issue queues (R125). -/
  | fence (c : BitVec 3)
  /-- Acquire fence at a scope (R125). -/
  | fenceAcq (c : BitVec 3)
  /-- Release fence at a scope (R125). -/
  | fenceRel (c : BitVec 3)
  /-- Sequentially consistent fence performing observed stores on every die of the scope (R125). -/
  | fenceSc (c : BitVec 3)
  /-- Wait until the named issue queues have drained (R162). -/
  | qdrain (q : BitVec 3)
  /-- Drain the named queue and move the oldest SRQ entry to s[d] (R162). -/
  | mvq (d : BitVec 6) (q : BitVec 2)
  /-- Read a state register (R163). -/
  | csrr (d : BitVec 6) (s : BitVec 12)
  /-- Write a state register field by field (R163). -/
  | csrw (a : BitVec 6) (s : BitVec 12)
  /-- Set bits of a state register, returning the old value (R163). -/
  | csrs (d : BitVec 6) (a : BitVec 6) (s : BitVec 12)
  /-- Clear bits of a state register, returning the old value (R163). -/
  | csrc (d : BitVec 6) (a : BitVec 6) (s : BitVec 12)
  /-- Apply the arbiter target to GRANT, set et and grant vl (R204). -/
  | setvl (d : BitVec 6) (a : BitVec 6) (i : BitVec 12)
  /-- Store selected registers to a state image (R387). -/
  | ctxsave (a : BitVec 6) (b : BitVec 6)
  /-- Load selected registers from a state image (R387). -/
  | ctxload (a : BitVec 6) (b : BitVec 6)
  /-- Read and optionally write one doubleword of held state (R388). -/
  | dbgwin (d : BitVec 6) (a : BitVec 6) (b : BitVec 6)
  /-- An engine fault on a queue entry stops the hart, holds the queues and enters the handler (R20). -/
  | engineTrap (slot : Fin 64) (queue : BitVec 2) (code : BitVec 8) (addr : Word)
  /-- After the queues drain, the hart takes its own trap at pc P (R165). -/
  | hartTrap (slot : Fin 64) (code : BitVec 8) (addr : Word)
  /-- The context engine stops a hart at its resumable boundaries for a pre-emption trigger (R376). -/
  | preEmption (slot : Fin 64) (trigger : BitVec 2)
  /-- The hart's context is written to a save slot, ending SAVED (R383). -/
  | contextSave (slot : Fin 64)
  /-- A saved hart is placed afresh and its context read back (R385). -/
  | contextRestore (part : BitVec 5) (saved : BitVec 16) (slot : Fin 64)
  /-- A free hart slot goes to the highest-priority waiting hart (R41). -/
  | hartAdmit (core : BitVec 4)
  /-- The placement engine places a queued task and writes its pitch (R358). -/
  | placement (seq : BitVec 32) (cores : List (BitVec 4)) (start : BitVec 4)
  /-- A write to NOTIFY makes the Crier scan the queue (R348). -/
  | notify (fn : BitVec 8) (q : BitVec 6)
  /-- The periodic scan of every queue at least every 100 µs takes valid packets (R350). -/
  | queueScan (fn : BitVec 8) (q : BitVec 6)
  /-- A LAUNCH packet is checked, accepted and queued for placement (R357). -/
  | launchPacket (fn : BitVec 8) (q : BitVec 6)
  /-- A SIGNAL packet decrements its signal by the amount (R353). -/
  | signalPacket (fn : BitVec 8) (q : BitVec 6)
  /-- A WAIT packet holds later packets until a doubleword meets a threshold (R353). -/
  | waitPacket (fn : BitVec 8) (q : BitVec 6)
  /-- The Crier re-reads a WAIT packet's doubleword at least every 10 µs (R353). -/
  | waitReread (fn : BitVec 8) (q : BitVec 6)
  /-- A NOP packet decrements its signal by 1 (R353). -/
  | nopPacket (fn : BitVec 8) (q : BitVec 6)
  /-- A held record is written once its event queue slot or queue becomes available (R367). -/
  | recordDeliver (fn : BitVec 8)
  /-- A faulted record write is retried at least every 100 µs (R367). -/
  | recordRetry (fn : BitVec 8)
  /-- Create a user-mode queue (R373). -/
  | queueCreate (cmd : Cmd)
  /-- Destroy a queue whose tasks have ended (R373). -/
  | queueDestroy (cmd : Cmd)
  /-- Resume a STOPPED queue at its RIDX (R373). -/
  | queueRestart (cmd : Cmd)
  /-- Create the function's event queue and deliver held records (R367). -/
  | evqCreate (cmd : Cmd)
  /-- Answer a record by restoring the context or refetching the node's tile (R373). -/
  | resume (cmd : Cmd)
  /-- Answer a record with action 1, aborting the task (R373). -/
  | resumeAbort (cmd : Cmd)
  /-- Pre-empt and discard every hart of a task and mark it ABORTED (R373). -/
  | taskAbort (cmd : Cmd)
  /-- Continue pending slot transfers of a partition on a core (R384). -/
  | resumeSave (cmd : Cmd)
  /-- Write a stage-1 or stage-2 root into the context descriptor (R373). -/
  | rootSet (cmd : Cmd)
  /-- Invalidate cached translations of a range (R112). -/
  | invalidate (cmd : Cmd)
  /-- Create a gate with its access list, counter and payload (R371). -/
  | gateCreate (cmd : Cmd)
  /-- Replace a gate's access list at one point in gate order (R343). -/
  | gateList (cmd : Cmd)
  /-- Write a gate's counter and payload (R373). -/
  | gateSet (cmd : Cmd)
  /-- Move a gate to REVOKED (R343). -/
  | gateRevoke (cmd : Cmd)
  /-- Return a gate to FREE (R373). -/
  | gateDelete (cmd : Cmd)
  /-- Freeze gates, save partitions and write a migration image (R393). -/
  | migrateOut (cmd : Cmd)
  /-- Recreate partitions from an image and thaw their gates (R394). -/
  | migrateIn (cmd : Cmd)
  /-- Write a partition's resource configuration (R411). -/
  | partSet (cmd : Cmd)
  /-- Record an export of a physical range between partitions (R416). -/
  | exportRange (cmd : Cmd)
  /-- EXPORT with zero bytes removes an export (R416). -/
  | exportRemove (cmd : Cmd)
  /-- Abort a VF's tasks, free handles, write completion bitmaps and post KIND 5 records (R419). -/
  | vfReset (cmd : Cmd)
  /-- Write a signed attestation report (R421). -/
  | attest (cmd : Cmd)
  /-- Set the package power limit and recompute ceilings (R429). -/
  | powerSet (cmd : Cmd)
  /-- Set the fabric watchdog limit and request timeout (R427). -/
  | limitSet (cmd : Cmd)
  /-- Write the package counters to memory (R428). -/
  | counters (cmd : Cmd)
  /-- DEBUG operation HALT puts the hart into debug halt (R391). -/
  | debugHalt (cmd : Cmd)
  /-- DEBUG operation RESUME restores held state and runs the hart (R392). -/
  | debugResume (cmd : Cmd)
  /-- DEBUG operation STEP runs one instruction and halts again (R392). -/
  | debugStep (cmd : Cmd)
  /-- DEBUG operation READ returns a window doubleword (R392). -/
  | debugRead (cmd : Cmd)
  /-- DEBUG operation WRITE writes a window doubleword under R389 (R392). -/
  | debugWrite (cmd : Cmd)
  /-- DEBUG operation ARM sets the hart's ARMED bit (R392). -/
  | debugArm (cmd : Cmd)
  /-- DEBUG operation DISARM clears the hart's ARMED bit (R392). -/
  | debugDisarm (cmd : Cmd)
  /-- Every 4,000 cycles each tolled entry's LEVEL refills by RATE (R327). -/
  | tollRefill
  /-- A post stalled on its toll is admitted once LEVEL reaches 256 (R327). -/
  | gpostAdmit (slot : Fin 64)
  /-- A waiting gwait completes once the counter reaches its threshold (R335). -/
  | gwaitWake (slot : Fin 64)
  /-- An uncorrectable error in a gate's state revokes it and posts a record (R346). -/
  | gateEccRevoke (gate : BitVec 12)
  /-- TIMER reaches a waiting waitt's target and it completes (R167). -/
  | waittExpire (slot : Fin 64)
  /-- A sigwait re-read finds the signal at or below its threshold (R365). -/
  | sigwaitMet (slot : Fin 64)
  /-- An asynchronous copy finishes and its token becomes DONE (R196). -/
  | copyComplete (slot : Fin 64) (k : BitVec 4)
  /-- A copy meets a fault and its token becomes FAULT (R199). -/
  | copyFault (slot : Fin 64) (k : BitVec 4)
  /-- A link operation finishes and its token becomes DONE (R404). -/
  | linkOpComplete (slot : Fin 64) (k : BitVec 3)
  /-- A link operation faults and its token becomes FAULT (R408). -/
  | linkOpFault (slot : Fin 64) (k : BitVec 3)
  /-- A standing chain breaks into temporal execution with a recorded cause (R284). -/
  | chainBreak (slot : Fin 64) (cause : BitVec 4) (stage : BitVec 6)
  /-- A temporal run re-forms its convoys at a strip boundary (R288). -/
  | chainReform (slot : Fin 64)
  /-- A run detaches when every stage reaches N and its accesses are performed (R278). -/
  | chainDetach (slot : Fin 64)
  /-- A fabric node's last iteration leaves stage 5 and it sends its finish token (R240). -/
  | nodeFinish (slot : Fin 64) (n : BitVec 3)
  /-- The bell token moves a blocked head token into a free escape slot (R259). -/
  | bellGrant (slot : Fin 64) (src n : BitVec 3) (inp : BitVec 2)
  /-- The fabric watchdog limit expires, stopping nodes and raising E_WATCHDOG (R260). -/
  | fabricWatchdog (slot : Fin 64)
  /-- An outstanding memory request reaches its timeout (R141). -/
  | requestTimeout (slot : Fin 64) (unit : BitVec 3) (k : BitVec 4) (addr : Word)
  /-- An operand node finishes filling a tile into a buffer and sets its full bit (R315). -/
  | nodeTileFill (slot : Fin 64) (o : BitVec 4)
  /-- A node's tile fetch faults; the node becomes HELD and a KIND 2 record is posted (R317). -/
  | operandNodeFault (slot : Fin 64) (o : BitVec 4)
  /-- An uncorrectable error without a requesting element stops the operation, posts a record and fences the partition (R140). -/
  | eccUncorrectable (part : BitVec 5) (addr : Word)
  /-- An uncorrectable error no partition owns stops every hart and reports through AER (R426). -/
  | internalUncorrectable
  /-- A lane link fails replay 16 times and goes down, breaking crossing chains (R398). -/
  | laneLinkDown (core : BitVec 4) (port : BitVec 2)
  /-- A retrained lane link reports up (R398). -/
  | laneLinkUp (core : BitVec 4) (port : BitVec 2)
  /-- A Ubeac port fails and traffic moves to other ports of the route (R410). -/
  | ubeacPortFail (port : BitVec 4)
  /-- Each millisecond at 95 °C lowers the thermal limit by 50 W (R429). -/
  | thermalThrottle
  /-- Each millisecond below 90 °C raises the thermal limit by 50 W (R429). -/
  | thermalRecover
  /-- A die at 105 °C aborts every task and resets the package (R429). -/
  | thermalTrip
  /-- Power-on, CXL reset, PF FLR or trip runs the bring-up steps (R424). -/
  | packageReset (romGood : Bool)
  /-- A VF Function Level Reset acts as VF_RESET with no reset area (R424). -/
  | vfFlr (fn : BitVec 8)
  /-- Board management writes the boot configuration over SMBus (R425). -/
  | bootConfiguration (words : List Word)
  /-- With no configuration 100 ms after power-on, the package takes number 0 and no routes (R425). -/
  | bootConfigTimeout
  /-- A request from a peer package arrives over the Ubeac Link and is served here: a load, a store performed on this package's dies, an RMW at the memory-side unit, or a collective flag increment (R401). -/
  | peerAccess (op : BitVec 4) (size : BitVec 2) (addr data expect : Word)
  /-- A host load or store reaches HBM4E through CXL.mem at host offset o, physical o (R420). -/
  | cxlMemAccess (write : Bool) (size : BitVec 2) (off data : Word)
  /-- A PCIe configuration request reaches the PF and is answered, with Configuration Request Retry Status until bring-up step 7 (R424). -/
  | configurationRequest
  /-- A lane-link transfer fails its CRC check and is replayed, counting towards the 16 consecutive failures that take the link down (R398). -/
  | laneLinkReplay (core : BitVec 4) (port : BitVec 2)
  /-- A Ubeac flit fails its CRC check and is replayed (R400). -/
  | flitReplay (port : BitVec 4)
  /-- An element of a bound load stream, prefetched from memory or delivered by a fabric node, arrives in the stream and releases a waiting tget (R194). -/
  | streamElementArrival (slot : Fin 64) (t : BitVec 4)
deriving DecidableEq, Repr

end Sys2Proof
end

