-- ==== Sys2Proof/WellFormed.lean ====
section
/-!
DEFINITION. Which terms of the syntax name an instruction the hart executes: the field values that 02_encoding.md
R48, R49, R55, R59 and R60 leave legal, and for an event, that the function, partition or port it names exists.
-/

namespace Sys2Proof

/-- A mask as a source or as the `?m` operand: m0 to m95 (02_encoding.md R48). -/
def maskOk (m : BitVec 7) : Bool := m.toNat < 96

/-- A mask as a destination: m1 to m95 (02_encoding.md R48). -/
def maskDstOk (m : BitVec 7) : Bool := 0 < m.toNat && m.toNat < 96

/-- A scope of format A: 7 is illegal (02_encoding.md R59). -/
def scopeOk (c : BitVec 3) : Bool := c.toNat < 7

/-- A type descriptor: RM 5 to 7 is illegal (02_encoding.md R55). -/
def typeOk (i : BitVec 12) : Bool := (i.extractLsb' 8 3).toNat < 5

/-- A state number of 02_encoding.md R60. -/
def stateNumOk (n : BitVec 12) : Bool := n.toNat < 15

/-- The queue mask of `qdrain` is nonzero (02_encoding.md R59). -/
def drainOk (q : BitVec 3) : Bool := q != 0

/-- The queue of `mvq`: 1 to 3 (02_encoding.md R59). -/
def mvqOk (q : BitVec 2) : Bool := q != 0

/-- The queue of `bqz` and `bqnz`: VIQ, PIQ, MIQ (05_hart.md R158). -/
def bqOk (q : BitVec 2) : Bool := q != 3

/-- A function: the PF or VF 1 to 128 (12_command.md R348). -/
def fnOk (fn : BitVec 8) : Bool := fn.toNat < 129

/-- A partition: 0 to 23 (15_partitions.md R411). -/
def partOk (p : BitVec 5) : Bool := p.toNat < 24

/-- A Ubeac port: 0 to 11 (14_link.md R399). -/
def portOk (p : BitVec 4) : Bool := p.toNat < 12

/-- A trigger of PRE_EMPTION: 0 priority, 1 power ceiling, 2 matrix ceiling (13_context.md R376). -/
def triggerOk (t : BitVec 2) : Bool := t != 3

/-- A command comes from a function that exists. -/
def cmdOk (c : Cmd) : Bool := fnOk c.fn

/-- The instruction or event is one the machine can carry out. -/
def Instr.wellFormed : Instr → Bool
  | .cAdd _ _ | .cSub _ _ | .cAnd _ _ | .cOr _ _ | .cXor _ _ | .cShl _ _ | .cAddi _ _ | .add _ _ _ | .sub _ _ _
  | .and _ _ _ | .or _ _ _ | .xor _ _ _ | .shl _ _ _ | .shr _ _ _ | .sra _ _ _ | .slt _ _ _ | .sltn _ _ _
  | .mul _ _ _ | .mulh _ _ _ | .mulhn _ _ _ | .div _ _ _ | .divn _ _ _ | .rem _ _ _ | .remn _ _ _ | .addi _ _ _
  | .slti _ _ _ | .andi _ _ _ | .ori _ _ _ | .xori _ _ _ | .shli _ _ _ | .shri _ _ _ | .srai _ _ _ | .ld64 _ _ _
  | .ld32 _ _ _ | .ld16 _ _ _ | .ld8 _ _ _ | .ldn32 _ _ _ | .ldn16 _ _ _ | .ldn8 _ _ _ | .fld32 _ _ _
  | .fld64 _ _ _ | .st64 _ _ _ | .st32 _ _ _ | .st16 _ _ _ | .st8 _ _ _ | .fst32 _ _ _ | .fst64 _ _ _ | .jlr _ _ _
  | .beq _ _ _ | .bne _ _ _ | .blt _ _ _ | .bge _ _ _ | .bltn _ _ _ | .bgen _ _ _ | .sbnz _ _ _ | .j _ | .jl _
  | .fadd _ _ _ _ | .fsub _ _ _ _ | .fmul _ _ _ _ | .fdiv _ _ _ _ | .fsqrt _ _ _ | .fmin _ _ _ _ | .fmax _ _ _ _
  | .fmac _ _ _ _ | .feq _ _ _ _ | .flt _ _ _ _ | .fle _ _ _ _ | .fcvtF _ _ _ | .fcvtI _ _ _ | .fcvtFf _ _ _
  | .fmvSF _ _ _ | .fmvFS _ _ _ | .fclass _ _ _ | .trap | .tret | .waitt _ | .brk | .vaddVi _ _ _ | .vandVi _ _ _
  | .vorVi _ _ _ | .vxorVi _ _ _ | .vshlVi _ _ _ | .vshrVi _ _ _ | .vsraVi _ _ _ | .vrsubVi _ _ _ | .vidx _ _ _
  | .vext _ _ | .vldI _ _ _ | .vstI _ _ _ | .vldffI _ _ _ | .tbindl _ _ | .tbinds _ _ | .tfree _ | .tflush _
  | .acopy _ _ _ _ | .cwait _ | .ctest _ | .fload _ _ | .fstart _ | .fstop _ | .fdrain _ | .fstat _ | .awopen _ _ _
  | .accmerge _ | .awdiscard _ | .chform _ | .chrun _ | .chwait | .chbreak | .chfree | .chstat | .chidx _ | .qrd _
  | .qwr _ _ | .qlen _ | .mmac _ _ _ _ | .mmacsa _ _ _ _ | .mmacsb _ _ _ _ | .mldc _ _ | .mstc _ _ _ | .mzero _
  | .mskip _ _ _ | .mshape _ | .mprune _ _ _ | .mnode _ _ | .mfill _ | .mwait _ | .mscale _ _ | .mstat _
  | .gpost _ _ | .gpostPayload _ _ _ | .gwait _ _ _ | .gtry _ _ _ | .gread _ _ | .gopen _ _ _ | .gclose _
  | .fclaim _ _ _ | .fend | .sigdec _ _ | .sigwait _ _ | .launch _ _ | .lput _ _ _ _ | .lget _ _ _ _
  | .lcred _ _ _ _ | .lcgat _ _ _ _ | .lcbc _ _ _ _ | .lwait _ | .lfence | .ltest _ | .ctxsave _ _ | .ctxload _ _
  | .dbgwin _ _ _ | .engineTrap _ _ _ _ | .hartTrap _ _ _ | .contextSave _ | .hartAdmit _ | .placement _ _ _
  | .tollRefill | .gpostAdmit _ | .gwaitWake _ | .gateEccRevoke _ | .waittExpire _ | .sigwaitMet _
  | .copyComplete _ _ | .copyFault _ _ | .linkOpComplete _ _ | .linkOpFault _ _ | .chainBreak _ _ _
  | .chainReform _ | .chainDetach _ | .nodeFinish _ _ | .bellGrant _ _ _ _ | .fabricWatchdog _
  | .requestTimeout _ _ _ _ | .nodeTileFill _ _ | .operandNodeFault _ _ | .internalUncorrectable
  | .laneLinkDown _ _ | .laneLinkUp _ _ | .thermalThrottle | .thermalRecover | .thermalTrip | .packageReset _
  | .bootConfiguration _ | .bootConfigTimeout | .peerAccess _ _ _ _ _ | .cxlMemAccess _ _ _ _
  | .configurationRequest | .laneLinkReplay _ _ | .streamElementArrival _ _ =>
      true
  | .bqz q _ | .bqnz q _ =>
      bqOk q
  | .amoswap _ _ _ c _ | .amoadd _ _ _ c _ | .amoand _ _ _ c _ | .amoor _ _ _ c _ | .amomax _ _ _ c _
  | .amomaxn _ _ _ c _ | .amocas _ _ _ c _ | .ldaq _ _ c | .strl _ _ c | .fence c | .fenceAcq c | .fenceRel c
  | .fenceSc c =>
      scopeOk c
  | .qdrain q =>
      drainOk q
  | .mvq _ q =>
      mvqOk q
  | .csrr _ s | .csrw _ s | .csrs _ _ s | .csrc _ _ s =>
      stateNumOk s
  | .setvl _ _ i =>
      typeOk i
  | .vadd _ _ _ m | .vsub _ _ _ m | .vmul _ _ _ m | .vmulh _ _ _ m | .vdiv _ _ _ m | .vrem _ _ _ m | .vmin _ _ _ m
  | .vmax _ _ _ m | .vand _ _ _ m | .vor _ _ _ m | .vxor _ _ _ m | .vshl _ _ _ m | .vshr _ _ _ m | .vsra _ _ _ m
  | .vadds _ _ _ m | .vsubs _ _ _ m | .vmac _ _ _ m | .vnmac _ _ _ m | .vsqrt _ _ m | .vabs _ _ m
  | .vaddmin _ _ _ m | .vmerge _ _ _ m | .vmv _ _ m | .vaddVs _ _ _ m | .vsubVs _ _ _ m | .vmulVs _ _ _ m
  | .vminVs _ _ _ m | .vmaxVs _ _ _ m | .vshlVs _ _ _ m | .vshrVs _ _ _ m | .vsraVs _ _ _ m | .vmacVs _ _ _ m
  | .vaddminVs _ _ _ m | .vbcast _ _ m | .vrsubVs _ _ _ m | .vredsum _ _ _ m | .vredmin _ _ _ m | .vredmax _ _ _ m
  | .vredand _ _ _ m | .vredor _ _ _ m | .vredxor _ _ _ m | .vscan _ _ _ m | .vscanx _ _ _ m | .vslideup _ _ _ m
  | .vslidedn _ _ _ m | .vslide1up _ _ _ m | .vslide1dn _ _ _ m | .vperm _ _ _ m | .vcompress _ _ m
  | .vexpand _ _ m | .vrev _ _ m | .vzip _ _ _ m | .vunzip _ _ m | .vconflict _ _ m | .vcvt _ _ _ _ m | .mpop m
  | .mfind m | .mbany m | .mball m | .vld _ _ _ m | .vst _ _ _ m | .vlds _ _ _ m | .vsts _ _ _ m | .vldx _ _ _ m
  | .vstx _ _ _ m | .vldff _ _ _ m | .vldsff _ _ _ m | .tget _ _ m | .tsend _ _ m | .fgather _ _ _ m
  | .fscatter _ _ _ m | .fwgather _ _ _ m | .vamoadd _ _ _ m | .vamomin _ _ _ m | .vamomax _ _ _ m | .fas _ _ _ m
  | .awadd _ _ _ m | .awmin _ _ _ m | .awmax _ _ _ m =>
      maskOk m
  | .vseq d _ _ m | .vsne d _ _ m | .vslt d _ _ m | .vsle d _ _ m =>
      maskOk m && maskDstOk d
  | .mand d a b | .mor d a b | .mxor d a b | .mandn d a b | .morn d a b | .mnand d a b | .mnor d a b | .mxnor d a b =>
      maskOk a && maskOk b && maskDstOk d
  | .mmv d a | .mnot d a | .msetbf d a | .msetif d a | .msetof d a =>
      maskOk a && maskDstOk d
  | .mclr d | .mset d =>
      maskDstOk d
  | .preEmption _ trigger =>
      triggerOk trigger
  | .contextRestore part _ _ | .eccUncorrectable part _ =>
      partOk part
  | .notify fn _ | .queueScan fn _ | .launchPacket fn _ | .signalPacket fn _ | .waitPacket fn _ | .waitReread fn _
  | .nopPacket fn _ | .recordDeliver fn | .recordRetry fn | .vfFlr fn =>
      fnOk fn
  | .queueCreate cmd | .queueDestroy cmd | .queueRestart cmd | .evqCreate cmd | .resume cmd | .resumeAbort cmd
  | .taskAbort cmd | .resumeSave cmd | .rootSet cmd | .invalidate cmd | .gateCreate cmd | .gateList cmd
  | .gateSet cmd | .gateRevoke cmd | .gateDelete cmd | .migrateOut cmd | .migrateIn cmd | .partSet cmd
  | .exportRange cmd | .exportRemove cmd | .vfReset cmd | .attest cmd | .powerSet cmd | .limitSet cmd
  | .counters cmd | .debugHalt cmd | .debugResume cmd | .debugStep cmd | .debugRead cmd | .debugWrite cmd
  | .debugArm cmd | .debugDisarm cmd =>
      cmdOk cmd
  | .ubeacPortFail port | .flitReplay port =>
      portOk port

end Sys2Proof
end

