-- ==== Sys2Proof/Decode.lean ====
section
/-!
DEFINITION. Instruction words: decoding (02_encoding.md R46 to R61), total on any bits and refusing by name, and after
it the encoder, written from the same formats (R51, R52, R57 to R60).
-/

namespace Sys2Proof

/-- Why a word raises `E_ILLEGAL` (02_encoding.md R61). -/
inductive DecodeError where
  /-- Major 0, 62 or 63. -/
  | unassignedMajor
  /-- A function value R57 to R60 leave unassigned. -/
  | unassignedFunction
  /-- A nonzero bit in a reserved or unused field (R50), or a fixed field with another value (R59). -/
  | reservedField
  /-- A field value R48, R49, R55, R59 or R60 exclude. -/
  | illegalField
  /-- A compact word with op 0 (R52). -/
  | compactZero
deriving DecidableEq, Repr

/-- Major 25, format V (02_encoding.md R57). -/
def decodeMajor25 (w : BitVec 32) : Except DecodeError Instr :=
  match (w.extractLsb' 29 3).toNat with
  | 0 => .ok (.vadd (w.extractLsb' 7 5) (w.extractLsb' 12 5) (w.extractLsb' 17 5) (w.extractLsb' 22 7))
  | 1 => .ok (.vsub (w.extractLsb' 7 5) (w.extractLsb' 12 5) (w.extractLsb' 17 5) (w.extractLsb' 22 7))
  | 2 => .ok (.vmul (w.extractLsb' 7 5) (w.extractLsb' 12 5) (w.extractLsb' 17 5) (w.extractLsb' 22 7))
  | 3 => .ok (.vmulh (w.extractLsb' 7 5) (w.extractLsb' 12 5) (w.extractLsb' 17 5) (w.extractLsb' 22 7))
  | 4 => .ok (.vdiv (w.extractLsb' 7 5) (w.extractLsb' 12 5) (w.extractLsb' 17 5) (w.extractLsb' 22 7))
  | 5 => .ok (.vrem (w.extractLsb' 7 5) (w.extractLsb' 12 5) (w.extractLsb' 17 5) (w.extractLsb' 22 7))
  | 6 => .ok (.vmin (w.extractLsb' 7 5) (w.extractLsb' 12 5) (w.extractLsb' 17 5) (w.extractLsb' 22 7))
  | _ => .ok (.vmax (w.extractLsb' 7 5) (w.extractLsb' 12 5) (w.extractLsb' 17 5) (w.extractLsb' 22 7))

/-- Major 26, format V (02_encoding.md R57). -/
def decodeMajor26 (w : BitVec 32) : Except DecodeError Instr :=
  match (w.extractLsb' 29 3).toNat with
  | 0 => .ok (.vand (w.extractLsb' 7 5) (w.extractLsb' 12 5) (w.extractLsb' 17 5) (w.extractLsb' 22 7))
  | 1 => .ok (.vor (w.extractLsb' 7 5) (w.extractLsb' 12 5) (w.extractLsb' 17 5) (w.extractLsb' 22 7))
  | 2 => .ok (.vxor (w.extractLsb' 7 5) (w.extractLsb' 12 5) (w.extractLsb' 17 5) (w.extractLsb' 22 7))
  | 3 => .ok (.vshl (w.extractLsb' 7 5) (w.extractLsb' 12 5) (w.extractLsb' 17 5) (w.extractLsb' 22 7))
  | 4 => .ok (.vshr (w.extractLsb' 7 5) (w.extractLsb' 12 5) (w.extractLsb' 17 5) (w.extractLsb' 22 7))
  | 5 => .ok (.vsra (w.extractLsb' 7 5) (w.extractLsb' 12 5) (w.extractLsb' 17 5) (w.extractLsb' 22 7))
  | 6 => .ok (.vadds (w.extractLsb' 7 5) (w.extractLsb' 12 5) (w.extractLsb' 17 5) (w.extractLsb' 22 7))
  | _ => .ok (.vsubs (w.extractLsb' 7 5) (w.extractLsb' 12 5) (w.extractLsb' 17 5) (w.extractLsb' 22 7))

/-- Major 27, format V (02_encoding.md R57). -/
def decodeMajor27 (w : BitVec 32) : Except DecodeError Instr :=
  match (w.extractLsb' 29 3).toNat with
  | 0 => .ok (.vmac (w.extractLsb' 7 5) (w.extractLsb' 12 5) (w.extractLsb' 17 5) (w.extractLsb' 22 7))
  | 1 => .ok (.vnmac (w.extractLsb' 7 5) (w.extractLsb' 12 5) (w.extractLsb' 17 5) (w.extractLsb' 22 7))
  | 2 => if w.extractLsb' 17 5 = 0#5 then .ok (.vsqrt (w.extractLsb' 7 5) (w.extractLsb' 12 5) (w.extractLsb' 22 7)) else .error .reservedField
  | 3 => if w.extractLsb' 17 5 = 0#5 then .ok (.vabs (w.extractLsb' 7 5) (w.extractLsb' 12 5) (w.extractLsb' 22 7)) else .error .reservedField
  | 4 => .ok (.vaddmin (w.extractLsb' 7 5) (w.extractLsb' 12 5) (w.extractLsb' 17 5) (w.extractLsb' 22 7))
  | 5 => .ok (.vmerge (w.extractLsb' 7 5) (w.extractLsb' 12 5) (w.extractLsb' 17 5) (w.extractLsb' 22 7))
  | 6 => if w.extractLsb' 17 5 = 0#5 then .ok (.vmv (w.extractLsb' 7 5) (w.extractLsb' 12 5) (w.extractLsb' 22 7)) else .error .reservedField
  | _ => .error .unassignedFunction

/-- Major 28, format VC (02_encoding.md R57). -/
def decodeMajor28 (w : BitVec 32) : Except DecodeError Instr :=
  match (w.extractLsb' 31 1).toNat with
  | 0 => .ok (.vseq (w.extractLsb' 7 7) (w.extractLsb' 14 5) (w.extractLsb' 19 5) (w.extractLsb' 24 7))
  | _ => .ok (.vsne (w.extractLsb' 7 7) (w.extractLsb' 14 5) (w.extractLsb' 19 5) (w.extractLsb' 24 7))

/-- Major 29, format VC (02_encoding.md R57). -/
def decodeMajor29 (w : BitVec 32) : Except DecodeError Instr :=
  match (w.extractLsb' 31 1).toNat with
  | 0 => .ok (.vslt (w.extractLsb' 7 7) (w.extractLsb' 14 5) (w.extractLsb' 19 5) (w.extractLsb' 24 7))
  | _ => .ok (.vsle (w.extractLsb' 7 7) (w.extractLsb' 14 5) (w.extractLsb' 19 5) (w.extractLsb' 24 7))

/-- Major 30, format VS (02_encoding.md R57). -/
def decodeMajor30 (w : BitVec 32) : Except DecodeError Instr :=
  match (w.extractLsb' 30 2).toNat with
  | 0 => .ok (.vaddVs (w.extractLsb' 7 5) (w.extractLsb' 12 5) (w.extractLsb' 17 6) (w.extractLsb' 23 7))
  | 1 => .ok (.vsubVs (w.extractLsb' 7 5) (w.extractLsb' 12 5) (w.extractLsb' 17 6) (w.extractLsb' 23 7))
  | 2 => .ok (.vmulVs (w.extractLsb' 7 5) (w.extractLsb' 12 5) (w.extractLsb' 17 6) (w.extractLsb' 23 7))
  | _ => .ok (.vminVs (w.extractLsb' 7 5) (w.extractLsb' 12 5) (w.extractLsb' 17 6) (w.extractLsb' 23 7))

/-- Major 31, format VS (02_encoding.md R57). -/
def decodeMajor31 (w : BitVec 32) : Except DecodeError Instr :=
  match (w.extractLsb' 30 2).toNat with
  | 0 => .ok (.vmaxVs (w.extractLsb' 7 5) (w.extractLsb' 12 5) (w.extractLsb' 17 6) (w.extractLsb' 23 7))
  | 1 => .ok (.vshlVs (w.extractLsb' 7 5) (w.extractLsb' 12 5) (w.extractLsb' 17 6) (w.extractLsb' 23 7))
  | 2 => .ok (.vshrVs (w.extractLsb' 7 5) (w.extractLsb' 12 5) (w.extractLsb' 17 6) (w.extractLsb' 23 7))
  | _ => .ok (.vsraVs (w.extractLsb' 7 5) (w.extractLsb' 12 5) (w.extractLsb' 17 6) (w.extractLsb' 23 7))

/-- Major 32, format VS (02_encoding.md R57). -/
def decodeMajor32 (w : BitVec 32) : Except DecodeError Instr :=
  match (w.extractLsb' 30 2).toNat with
  | 0 => .ok (.vmacVs (w.extractLsb' 7 5) (w.extractLsb' 12 5) (w.extractLsb' 17 6) (w.extractLsb' 23 7))
  | 1 => .ok (.vaddminVs (w.extractLsb' 7 5) (w.extractLsb' 12 5) (w.extractLsb' 17 6) (w.extractLsb' 23 7))
  | 2 => if w.extractLsb' 12 5 = 0#5 then .ok (.vbcast (w.extractLsb' 7 5) (w.extractLsb' 17 6) (w.extractLsb' 23 7)) else .error .reservedField
  | _ => .ok (.vrsubVs (w.extractLsb' 7 5) (w.extractLsb' 12 5) (w.extractLsb' 17 6) (w.extractLsb' 23 7))

/-- Major 33, format VI (02_encoding.md R57). -/
def decodeMajor33 (w : BitVec 32) : Except DecodeError Instr :=
  match (w.extractLsb' 29 3).toNat with
  | 0 => .ok (.vaddVi (w.extractLsb' 7 5) (w.extractLsb' 12 5) (w.extractLsb' 17 12))
  | 1 => .ok (.vandVi (w.extractLsb' 7 5) (w.extractLsb' 12 5) (w.extractLsb' 17 12))
  | 2 => .ok (.vorVi (w.extractLsb' 7 5) (w.extractLsb' 12 5) (w.extractLsb' 17 12))
  | 3 => .ok (.vxorVi (w.extractLsb' 7 5) (w.extractLsb' 12 5) (w.extractLsb' 17 12))
  | 4 => .ok (.vshlVi (w.extractLsb' 7 5) (w.extractLsb' 12 5) (w.extractLsb' 17 12))
  | 5 => .ok (.vshrVi (w.extractLsb' 7 5) (w.extractLsb' 12 5) (w.extractLsb' 17 12))
  | 6 => .ok (.vsraVi (w.extractLsb' 7 5) (w.extractLsb' 12 5) (w.extractLsb' 17 12))
  | _ => .ok (.vrsubVi (w.extractLsb' 7 5) (w.extractLsb' 12 5) (w.extractLsb' 17 12))

/-- Major 34, format VL (02_encoding.md R57). -/
def decodeMajor34 (w : BitVec 32) : Except DecodeError Instr :=
  .ok (.vidx (w.extractLsb' 7 5) (w.extractLsb' 12 10) (w.extractLsb' 22 10))

/-- Major 35, format V (02_encoding.md R57). -/
def decodeMajor35 (w : BitVec 32) : Except DecodeError Instr :=
  match (w.extractLsb' 29 3).toNat with
  | 0 => .ok (.vredsum (w.extractLsb' 7 5) (w.extractLsb' 12 5) (w.extractLsb' 17 5) (w.extractLsb' 22 7))
  | 1 => .ok (.vredmin (w.extractLsb' 7 5) (w.extractLsb' 12 5) (w.extractLsb' 17 5) (w.extractLsb' 22 7))
  | 2 => .ok (.vredmax (w.extractLsb' 7 5) (w.extractLsb' 12 5) (w.extractLsb' 17 5) (w.extractLsb' 22 7))
  | 3 => .ok (.vredand (w.extractLsb' 7 5) (w.extractLsb' 12 5) (w.extractLsb' 17 5) (w.extractLsb' 22 7))
  | 4 => .ok (.vredor (w.extractLsb' 7 5) (w.extractLsb' 12 5) (w.extractLsb' 17 5) (w.extractLsb' 22 7))
  | 5 => .ok (.vredxor (w.extractLsb' 7 5) (w.extractLsb' 12 5) (w.extractLsb' 17 5) (w.extractLsb' 22 7))
  | 6 => .ok (.vscan (w.extractLsb' 7 5) (w.extractLsb' 12 5) (w.extractLsb' 17 5) (w.extractLsb' 22 7))
  | _ => .ok (.vscanx (w.extractLsb' 7 5) (w.extractLsb' 12 5) (w.extractLsb' 17 5) (w.extractLsb' 22 7))

/-- Major 36, format VS (02_encoding.md R57). -/
def decodeMajor36 (w : BitVec 32) : Except DecodeError Instr :=
  match (w.extractLsb' 30 2).toNat with
  | 0 => .ok (.vslideup (w.extractLsb' 7 5) (w.extractLsb' 12 5) (w.extractLsb' 17 6) (w.extractLsb' 23 7))
  | 1 => .ok (.vslidedn (w.extractLsb' 7 5) (w.extractLsb' 12 5) (w.extractLsb' 17 6) (w.extractLsb' 23 7))
  | 2 => .ok (.vslide1up (w.extractLsb' 7 5) (w.extractLsb' 12 5) (w.extractLsb' 17 6) (w.extractLsb' 23 7))
  | _ => .ok (.vslide1dn (w.extractLsb' 7 5) (w.extractLsb' 12 5) (w.extractLsb' 17 6) (w.extractLsb' 23 7))

/-- Major 37, format V (02_encoding.md R57). -/
def decodeMajor37 (w : BitVec 32) : Except DecodeError Instr :=
  match (w.extractLsb' 29 3).toNat with
  | 0 => .ok (.vperm (w.extractLsb' 7 5) (w.extractLsb' 12 5) (w.extractLsb' 17 5) (w.extractLsb' 22 7))
  | 1 => if w.extractLsb' 17 5 = 0#5 then .ok (.vcompress (w.extractLsb' 7 5) (w.extractLsb' 12 5) (w.extractLsb' 22 7)) else .error .reservedField
  | 2 => if w.extractLsb' 17 5 = 0#5 then .ok (.vexpand (w.extractLsb' 7 5) (w.extractLsb' 12 5) (w.extractLsb' 22 7)) else .error .reservedField
  | 3 => if w.extractLsb' 17 5 = 0#5 then .ok (.vrev (w.extractLsb' 7 5) (w.extractLsb' 12 5) (w.extractLsb' 22 7)) else .error .reservedField
  | 4 => .ok (.vzip (w.extractLsb' 7 5) (w.extractLsb' 12 5) (w.extractLsb' 17 5) (w.extractLsb' 22 7))
  | 5 => if w.extractLsb' 17 5 = 0#5 then .ok (.vunzip (w.extractLsb' 7 5) (w.extractLsb' 12 5) (w.extractLsb' 22 7)) else .error .reservedField
  | 6 => if w.extractLsb' 17 5 = 0#5 then .ok (.vconflict (w.extractLsb' 7 5) (w.extractLsb' 12 5) (w.extractLsb' 22 7)) else .error .reservedField
  | _ => .error .unassignedFunction

/-- Major 38, format VX (02_encoding.md R57). -/
def decodeMajor38 (w : BitVec 32) : Except DecodeError Instr :=
  .ok (.vcvt (w.extractLsb' 7 5) (w.extractLsb' 12 5) (w.extractLsb' 17 4) (w.extractLsb' 21 4) (w.extractLsb' 25 7))

/-- Major 39, format M (02_encoding.md R57). -/
def decodeMajor39 (w : BitVec 32) : Except DecodeError Instr :=
  match (w.extractLsb' 28 4).toNat with
  | 0 => .ok (.mand (w.extractLsb' 7 7) (w.extractLsb' 14 7) (w.extractLsb' 21 7))
  | 1 => .ok (.mor (w.extractLsb' 7 7) (w.extractLsb' 14 7) (w.extractLsb' 21 7))
  | 2 => .ok (.mxor (w.extractLsb' 7 7) (w.extractLsb' 14 7) (w.extractLsb' 21 7))
  | 3 => .ok (.mandn (w.extractLsb' 7 7) (w.extractLsb' 14 7) (w.extractLsb' 21 7))
  | 4 => .ok (.morn (w.extractLsb' 7 7) (w.extractLsb' 14 7) (w.extractLsb' 21 7))
  | 5 => .ok (.mnand (w.extractLsb' 7 7) (w.extractLsb' 14 7) (w.extractLsb' 21 7))
  | 6 => .ok (.mnor (w.extractLsb' 7 7) (w.extractLsb' 14 7) (w.extractLsb' 21 7))
  | 7 => .ok (.mxnor (w.extractLsb' 7 7) (w.extractLsb' 14 7) (w.extractLsb' 21 7))
  | 8 => if w.extractLsb' 21 7 = 0#7 then .ok (.mmv (w.extractLsb' 7 7) (w.extractLsb' 14 7)) else .error .reservedField
  | 9 => if w.extractLsb' 21 7 = 0#7 then .ok (.mnot (w.extractLsb' 7 7) (w.extractLsb' 14 7)) else .error .reservedField
  | 10 => if w.extractLsb' 21 7 = 0#7 then .ok (.msetbf (w.extractLsb' 7 7) (w.extractLsb' 14 7)) else .error .reservedField
  | 11 => if w.extractLsb' 21 7 = 0#7 then .ok (.msetif (w.extractLsb' 7 7) (w.extractLsb' 14 7)) else .error .reservedField
  | 12 => if w.extractLsb' 21 7 = 0#7 then .ok (.msetof (w.extractLsb' 7 7) (w.extractLsb' 14 7)) else .error .reservedField
  | 13 => if w.extractLsb' 14 14 = 0#14 then .ok (.mclr (w.extractLsb' 7 7)) else .error .reservedField
  | 14 => if w.extractLsb' 14 14 = 0#14 then .ok (.mset (w.extractLsb' 7 7)) else .error .reservedField
  | _ => .error .unassignedFunction

/-- Major 40, format Q (02_encoding.md R57). -/
def decodeMajor40 (w : BitVec 32) : Except DecodeError Instr :=
  match (w.extractLsb' 25 7).toNat with
  | 0 => if w.extractLsb' 18 7 = 0#7 then .ok (.vext (w.extractLsb' 7 5) (w.extractLsb' 12 6)) else .error .reservedField
  | 1 => if w.extractLsb' 7 11 = 0#11 then .ok (.mpop (w.extractLsb' 18 7)) else .error .reservedField
  | 2 => if w.extractLsb' 7 11 = 0#11 then .ok (.mfind (w.extractLsb' 18 7)) else .error .reservedField
  | 3 => if w.extractLsb' 7 11 = 0#11 then .ok (.mbany (w.extractLsb' 18 7)) else .error .reservedField
  | 4 => if w.extractLsb' 7 11 = 0#11 then .ok (.mball (w.extractLsb' 18 7)) else .error .reservedField
  | _ => .error .unassignedFunction

/-- Major 42, format PM (02_encoding.md R57). -/
def decodeMajor42 (w : BitVec 32) : Except DecodeError Instr :=
  match (w.extractLsb' 31 1).toNat with
  | 0 => .ok (.vld (w.extractLsb' 7 5) (w.extractLsb' 12 6) (w.extractLsb' 18 6) (w.extractLsb' 24 7))
  | _ => .ok (.vst (w.extractLsb' 7 5) (w.extractLsb' 12 6) (w.extractLsb' 18 6) (w.extractLsb' 24 7))

/-- Major 43, format PM (02_encoding.md R57). -/
def decodeMajor43 (w : BitVec 32) : Except DecodeError Instr :=
  match (w.extractLsb' 31 1).toNat with
  | 0 => .ok (.vlds (w.extractLsb' 7 5) (w.extractLsb' 12 6) (w.extractLsb' 18 6) (w.extractLsb' 24 7))
  | _ => .ok (.vsts (w.extractLsb' 7 5) (w.extractLsb' 12 6) (w.extractLsb' 18 6) (w.extractLsb' 24 7))

/-- Major 44, format PX (02_encoding.md R57). -/
def decodeMajor44 (w : BitVec 32) : Except DecodeError Instr :=
  match (w.extractLsb' 30 2).toNat with
  | 0 => .ok (.vldx (w.extractLsb' 7 5) (w.extractLsb' 12 6) (w.extractLsb' 18 5) (w.extractLsb' 23 7))
  | 1 => .ok (.vstx (w.extractLsb' 7 5) (w.extractLsb' 12 6) (w.extractLsb' 18 5) (w.extractLsb' 23 7))
  | _ => .error .unassignedFunction

/-- Major 45, format PM (02_encoding.md R57). -/
def decodeMajor45 (w : BitVec 32) : Except DecodeError Instr :=
  match (w.extractLsb' 31 1).toNat with
  | 0 => .ok (.vldff (w.extractLsb' 7 5) (w.extractLsb' 12 6) (w.extractLsb' 18 6) (w.extractLsb' 24 7))
  | _ => .ok (.vldsff (w.extractLsb' 7 5) (w.extractLsb' 12 6) (w.extractLsb' 18 6) (w.extractLsb' 24 7))

/-- Major 46, format PI (02_encoding.md R57). -/
def decodeMajor46 (w : BitVec 32) : Except DecodeError Instr :=
  match (w.extractLsb' 30 2).toNat with
  | 0 => .ok (.vldI (w.extractLsb' 7 5) (w.extractLsb' 12 6) (w.extractLsb' 18 12))
  | 1 => .ok (.vstI (w.extractLsb' 7 5) (w.extractLsb' 12 6) (w.extractLsb' 18 12))
  | 2 => .ok (.vldffI (w.extractLsb' 7 5) (w.extractLsb' 12 6) (w.extractLsb' 18 12))
  | _ => .error .unassignedFunction

/-- Major 47, format PT (02_encoding.md R57). -/
def decodeMajor47 (w : BitVec 32) : Except DecodeError Instr :=
  match (w.extractLsb' 30 2).toNat with
  | 0 => if w.extractLsb' 23 7 = 0#7 ∧ w.extractLsb' 16 1 = 0#1 ∧ w.extractLsb' 7 5 = 0#5 then .ok (.tbindl (w.extractLsb' 12 4) (w.extractLsb' 17 6)) else .error .reservedField
  | 1 => if w.extractLsb' 23 7 = 0#7 ∧ w.extractLsb' 16 1 = 0#1 ∧ w.extractLsb' 7 5 = 0#5 then .ok (.tbinds (w.extractLsb' 12 4) (w.extractLsb' 17 6)) else .error .reservedField
  | 2 => if w.extractLsb' 16 14 = 0#14 ∧ w.extractLsb' 7 5 = 0#5 then .ok (.tfree (w.extractLsb' 12 4)) else .error .reservedField
  | _ => if w.extractLsb' 16 14 = 0#14 ∧ w.extractLsb' 7 5 = 0#5 then .ok (.tflush (w.extractLsb' 12 4)) else .error .reservedField

/-- Major 48, format PT (02_encoding.md R57). -/
def decodeMajor48 (w : BitVec 32) : Except DecodeError Instr :=
  match (w.extractLsb' 30 2).toNat with
  | 0 => if w.extractLsb' 16 7 = 0#7 then .ok (.tget (w.extractLsb' 7 5) (w.extractLsb' 12 4) (w.extractLsb' 23 7)) else .error .reservedField
  | 1 => if w.extractLsb' 16 7 = 0#7 then .ok (.tsend (w.extractLsb' 7 5) (w.extractLsb' 12 4) (w.extractLsb' 23 7)) else .error .reservedField
  | _ => .error .unassignedFunction

/-- Major 49, format PC (02_encoding.md R57). -/
def decodeMajor49 (w : BitVec 32) : Except DecodeError Instr :=
  match (w.extractLsb' 29 3).toNat with
  | 0 => .ok (.acopy (w.extractLsb' 7 6) (w.extractLsb' 13 6) (w.extractLsb' 19 6) (w.extractLsb' 25 4))
  | 1 => if w.extractLsb' 7 18 = 0#18 then .ok (.cwait (w.extractLsb' 25 4)) else .error .reservedField
  | 2 => if w.extractLsb' 7 18 = 0#18 then .ok (.ctest (w.extractLsb' 25 4)) else .error .reservedField
  | _ => .error .unassignedFunction

/-- Major 50, format FC (02_encoding.md R57). -/
def decodeMajor50 (w : BitVec 32) : Except DecodeError Instr :=
  match (w.extractLsb' 29 3).toNat with
  | 0 => if w.extractLsb' 21 8 = 0#8 then .ok (.fload (w.extractLsb' 7 6) (w.extractLsb' 13 8)) else .error .reservedField
  | 1 => if w.extractLsb' 21 8 = 0#8 ∧ w.extractLsb' 7 6 = 0#6 then .ok (.fstart (w.extractLsb' 13 8)) else .error .reservedField
  | 2 => if w.extractLsb' 21 8 = 0#8 ∧ w.extractLsb' 7 6 = 0#6 then .ok (.fstop (w.extractLsb' 13 8)) else .error .reservedField
  | 3 => if w.extractLsb' 21 8 = 0#8 ∧ w.extractLsb' 7 6 = 0#6 then .ok (.fdrain (w.extractLsb' 13 8)) else .error .reservedField
  | 4 => if w.extractLsb' 21 8 = 0#8 ∧ w.extractLsb' 7 6 = 0#6 then .ok (.fstat (w.extractLsb' 13 8)) else .error .reservedField
  | _ => .error .unassignedFunction

/-- Major 51, format FV (02_encoding.md R57). -/
def decodeMajor51 (w : BitVec 32) : Except DecodeError Instr :=
  match (w.extractLsb' 30 2).toNat with
  | 0 => .ok (.fgather (w.extractLsb' 7 5) (w.extractLsb' 12 5) (w.extractLsb' 17 6) (w.extractLsb' 23 7))
  | 1 => .ok (.fscatter (w.extractLsb' 7 5) (w.extractLsb' 12 5) (w.extractLsb' 17 6) (w.extractLsb' 23 7))
  | 2 => .ok (.fwgather (w.extractLsb' 7 5) (w.extractLsb' 12 5) (w.extractLsb' 17 6) (w.extractLsb' 23 7))
  | _ => .error .unassignedFunction

/-- Major 52, format FV (02_encoding.md R57). -/
def decodeMajor52 (w : BitVec 32) : Except DecodeError Instr :=
  match (w.extractLsb' 30 2).toNat with
  | 0 => .ok (.vamoadd (w.extractLsb' 7 5) (w.extractLsb' 12 5) (w.extractLsb' 17 6) (w.extractLsb' 23 7))
  | 1 => .ok (.vamomin (w.extractLsb' 7 5) (w.extractLsb' 12 5) (w.extractLsb' 17 6) (w.extractLsb' 23 7))
  | 2 => .ok (.vamomax (w.extractLsb' 7 5) (w.extractLsb' 12 5) (w.extractLsb' 17 6) (w.extractLsb' 23 7))
  | _ => .ok (.fas (w.extractLsb' 7 5) (w.extractLsb' 12 5) (w.extractLsb' 17 6) (w.extractLsb' 23 7))

/-- Major 53, format FW (02_encoding.md R57). -/
def decodeMajor53 (w : BitVec 32) : Except DecodeError Instr :=
  match (w.extractLsb' 30 2).toNat with
  | 0 => if w.extractLsb' 20 3 = 0#3 then .ok (.awadd (w.extractLsb' 7 5) (w.extractLsb' 12 5) (w.extractLsb' 17 3) (w.extractLsb' 23 7)) else .error .reservedField
  | 1 => if w.extractLsb' 20 3 = 0#3 then .ok (.awmin (w.extractLsb' 7 5) (w.extractLsb' 12 5) (w.extractLsb' 17 3) (w.extractLsb' 23 7)) else .error .reservedField
  | 2 => if w.extractLsb' 20 3 = 0#3 then .ok (.awmax (w.extractLsb' 7 5) (w.extractLsb' 12 5) (w.extractLsb' 17 3) (w.extractLsb' 23 7)) else .error .reservedField
  | _ => .error .unassignedFunction

/-- Major 54, format FS (02_encoding.md R57). -/
def decodeMajor54 (w : BitVec 32) : Except DecodeError Instr :=
  match (w.extractLsb' 29 3).toNat with
  | 0 => if w.extractLsb' 22 7 = 0#7 then .ok (.awopen (w.extractLsb' 7 6) (w.extractLsb' 13 6) (w.extractLsb' 19 3)) else .error .reservedField
  | 1 => if w.extractLsb' 22 7 = 0#7 ∧ w.extractLsb' 7 12 = 0#12 then .ok (.accmerge (w.extractLsb' 19 3)) else .error .reservedField
  | 2 => if w.extractLsb' 22 7 = 0#7 ∧ w.extractLsb' 7 12 = 0#12 then .ok (.awdiscard (w.extractLsb' 19 3)) else .error .reservedField
  | _ => .error .unassignedFunction

/-- Major 55, format CH (02_encoding.md R57). -/
def decodeMajor55 (w : BitVec 32) : Except DecodeError Instr :=
  match (w.extractLsb' 25 7).toNat with
  | 0 => if w.extractLsb' 19 6 = 0#6 ∧ w.extractLsb' 7 6 = 0#6 then .ok (.chform (w.extractLsb' 13 6)) else .error .reservedField
  | 1 => if w.extractLsb' 19 6 = 0#6 ∧ w.extractLsb' 7 6 = 0#6 then .ok (.chrun (w.extractLsb' 13 6)) else .error .reservedField
  | 2 => if w.extractLsb' 7 18 = 0#18 then .ok (.chwait) else .error .reservedField
  | 3 => if w.extractLsb' 7 18 = 0#18 then .ok (.chbreak) else .error .reservedField
  | 4 => if w.extractLsb' 7 18 = 0#18 then .ok (.chfree) else .error .reservedField
  | 5 => if w.extractLsb' 7 18 = 0#18 then .ok (.chstat) else .error .reservedField
  | 6 => if w.extractLsb' 19 6 = 0#6 ∧ w.extractLsb' 7 6 = 0#6 then .ok (.chidx (w.extractLsb' 13 6)) else .error .reservedField
  | 7 => if w.extractLsb' 12 13 = 0#13 then .ok (.qrd (w.extractLsb' 7 5)) else .error .reservedField
  | 8 => if w.extractLsb' 19 6 = 0#6 ∧ w.extractLsb' 12 1 = 0#1 then .ok (.qwr (w.extractLsb' 7 5) (w.extractLsb' 13 6)) else .error .reservedField
  | 9 => if w.extractLsb' 12 13 = 0#13 then .ok (.qlen (w.extractLsb' 7 5)) else .error .reservedField
  | _ => .error .unassignedFunction

/-- Major 56, format MX (02_encoding.md R57). -/
def decodeMajor56 (w : BitVec 32) : Except DecodeError Instr :=
  match (w.extractLsb' 29 3).toNat with
  | 0 => .ok (.mmac (w.extractLsb' 7 4) (w.extractLsb' 11 6) (w.extractLsb' 17 6) (w.extractLsb' 23 6))
  | 1 => .ok (.mmacsa (w.extractLsb' 7 4) (w.extractLsb' 11 6) (w.extractLsb' 17 6) (w.extractLsb' 23 6))
  | 2 => .ok (.mmacsb (w.extractLsb' 7 4) (w.extractLsb' 11 6) (w.extractLsb' 17 6) (w.extractLsb' 23 6))
  | 3 => if w.extractLsb' 17 12 = 0#12 then .ok (.mldc (w.extractLsb' 7 4) (w.extractLsb' 11 6)) else .error .reservedField
  | 4 => if w.extractLsb' 17 6 = 0#6 then .ok (.mstc (w.extractLsb' 7 4) (w.extractLsb' 11 6) (w.extractLsb' 23 6)) else .error .reservedField
  | 5 => if w.extractLsb' 11 18 = 0#18 then .ok (.mzero (w.extractLsb' 7 4)) else .error .reservedField
  | 6 => if w.extractLsb' 7 4 = 0#4 then .ok (.mskip (w.extractLsb' 11 6) (w.extractLsb' 17 6) (w.extractLsb' 23 6)) else .error .reservedField
  | _ => if w.extractLsb' 17 12 = 0#12 ∧ w.extractLsb' 7 4 = 0#4 then .ok (.mshape (w.extractLsb' 11 6)) else .error .reservedField

/-- Major 57, format MX (02_encoding.md R57). -/
def decodeMajor57 (w : BitVec 32) : Except DecodeError Instr :=
  match (w.extractLsb' 29 3).toNat with
  | 0 => if w.extractLsb' 7 4 = 0#4 then .ok (.mprune (w.extractLsb' 11 6) (w.extractLsb' 17 6) (w.extractLsb' 23 6)) else .error .reservedField
  | 1 => if w.extractLsb' 17 12 = 0#12 then .ok (.mnode (w.extractLsb' 7 4) (w.extractLsb' 11 6)) else .error .reservedField
  | 2 => if w.extractLsb' 11 18 = 0#18 then .ok (.mfill (w.extractLsb' 7 4)) else .error .reservedField
  | 3 => if w.extractLsb' 11 18 = 0#18 then .ok (.mwait (w.extractLsb' 7 4)) else .error .reservedField
  | 4 => if w.extractLsb' 17 12 = 0#12 then .ok (.mscale (w.extractLsb' 7 4) (w.extractLsb' 11 6)) else .error .reservedField
  | 5 => if w.extractLsb' 11 18 = 0#18 then .ok (.mstat (w.extractLsb' 7 4)) else .error .reservedField
  | _ => .error .unassignedFunction

/-- Major 60, format LK (02_encoding.md R57). -/
def decodeMajor60 (w : BitVec 32) : Except DecodeError Instr :=
  match (w.extractLsb' 28 4).toNat with
  | 0 => .ok (.lput (w.extractLsb' 7 6) (w.extractLsb' 13 6) (w.extractLsb' 19 6) (w.extractLsb' 25 3))
  | 1 => .ok (.lget (w.extractLsb' 7 6) (w.extractLsb' 13 6) (w.extractLsb' 19 6) (w.extractLsb' 25 3))
  | 2 => .ok (.lcred (w.extractLsb' 7 6) (w.extractLsb' 13 6) (w.extractLsb' 19 6) (w.extractLsb' 25 3))
  | 3 => .ok (.lcgat (w.extractLsb' 7 6) (w.extractLsb' 13 6) (w.extractLsb' 19 6) (w.extractLsb' 25 3))
  | 4 => .ok (.lcbc (w.extractLsb' 7 6) (w.extractLsb' 13 6) (w.extractLsb' 19 6) (w.extractLsb' 25 3))
  | 5 => if w.extractLsb' 7 18 = 0#18 then .ok (.lwait (w.extractLsb' 25 3)) else .error .reservedField
  | 6 => if w.extractLsb' 7 21 = 0#21 then .ok (.lfence) else .error .reservedField
  | 7 => if w.extractLsb' 7 18 = 0#18 then .ok (.ltest (w.extractLsb' 25 3)) else .error .reservedField
  | _ => .error .unassignedFunction

/-- The fields of a word that R57 sends to a queue (02_encoding.md R57). -/
def decodeQueuedFields (w : BitVec 32) : Except DecodeError Instr :=
  match (w.extractLsb' 1 6).toNat with
  | 25 => decodeMajor25 w
  | 26 => decodeMajor26 w
  | 27 => decodeMajor27 w
  | 28 => decodeMajor28 w
  | 29 => decodeMajor29 w
  | 30 => decodeMajor30 w
  | 31 => decodeMajor31 w
  | 32 => decodeMajor32 w
  | 33 => decodeMajor33 w
  | 34 => decodeMajor34 w
  | 35 => decodeMajor35 w
  | 36 => decodeMajor36 w
  | 37 => decodeMajor37 w
  | 38 => decodeMajor38 w
  | 39 => decodeMajor39 w
  | 40 => decodeMajor40 w
  | 42 => decodeMajor42 w
  | 43 => decodeMajor43 w
  | 44 => decodeMajor44 w
  | 45 => decodeMajor45 w
  | 46 => decodeMajor46 w
  | 47 => decodeMajor47 w
  | 48 => decodeMajor48 w
  | 49 => decodeMajor49 w
  | 50 => decodeMajor50 w
  | 51 => decodeMajor51 w
  | 52 => decodeMajor52 w
  | 53 => decodeMajor53 w
  | 54 => decodeMajor54 w
  | 55 => decodeMajor55 w
  | 56 => decodeMajor56 w
  | 57 => decodeMajor57 w
  | 60 => decodeMajor60 w
  | _ => .error .unassignedMajor

/-- A decoded word stands only when its fields hold legal values (02_encoding.md R61). -/
def checkFields (r : Except DecodeError Instr) : Except DecodeError Instr :=
  match r with
  | .ok i => if i.wellFormed then .ok i else .error .illegalField
  | .error e => .error e

/-- Decoding a word that goes to a queue. -/
def decodeQueued (w : BitVec 32) : Except DecodeError Instr :=
  if w.getLsbD 0 then checkFields (decodeQueuedFields w) else .error .unassignedFunction

/-- Major 24, format S (02_encoding.md R57). -/
def decodeMajor24 (w : BitVec 32) : Except DecodeError Instr :=
  match (w.extractLsb' 25 7).toNat with
  | 0 => if w.extractLsb' 7 18 = 0#18 then .ok (.trap) else .error .reservedField
  | 1 => if w.extractLsb' 7 18 = 0#18 then .ok (.tret) else .error .reservedField
  | 2 => if w.extractLsb' 19 6 = 0#6 ∧ w.extractLsb' 7 6 = 0#6 then .ok (.waitt (w.extractLsb' 13 6)) else .error .reservedField
  | 3 => if w.extractLsb' 7 18 = 0#18 then .ok (.brk) else .error .reservedField
  | _ => .error .unassignedFunction

/-- Major 58, format G (02_encoding.md R57). -/
def decodeMajor58 (w : BitVec 32) : Except DecodeError Instr :=
  match (w.extractLsb' 29 3).toNat with
  | 0 => if w.extractLsb' 25 1 = 1#1 then if w.extractLsb' 26 3 = 0#3 then .ok (.gpostPayload (w.extractLsb' 7 6) (w.extractLsb' 13 6) (w.extractLsb' 19 6)) else .error .reservedField
    else if w.extractLsb' 25 4 = 0#4 ∧ w.extractLsb' 7 6 = 0#6 then .ok (.gpost (w.extractLsb' 13 6) (w.extractLsb' 19 6)) else .error .reservedField
  | 1 => if w.extractLsb' 25 4 = 0#4 then .ok (.gwait (w.extractLsb' 7 6) (w.extractLsb' 13 6) (w.extractLsb' 19 6)) else .error .reservedField
  | 2 => if w.extractLsb' 25 4 = 0#4 then .ok (.gtry (w.extractLsb' 7 6) (w.extractLsb' 13 6) (w.extractLsb' 19 6)) else .error .reservedField
  | 3 => if w.extractLsb' 19 10 = 0#10 then .ok (.gread (w.extractLsb' 7 6) (w.extractLsb' 13 6)) else .error .reservedField
  | 4 => if w.extractLsb' 25 4 = 0#4 then .ok (.gopen (w.extractLsb' 7 6) (w.extractLsb' 13 6) (w.extractLsb' 19 6)) else .error .reservedField
  | 5 => if w.extractLsb' 19 10 = 0#10 ∧ w.extractLsb' 7 6 = 0#6 then .ok (.gclose (w.extractLsb' 13 6)) else .error .reservedField
  | _ => .error .unassignedFunction

/-- Major 59, format S (02_encoding.md R57). -/
def decodeMajor59 (w : BitVec 32) : Except DecodeError Instr :=
  match (w.extractLsb' 25 7).toNat with
  | 0 => .ok (.fclaim (w.extractLsb' 7 6) (w.extractLsb' 13 6) (w.extractLsb' 19 6))
  | 1 => if w.extractLsb' 7 18 = 0#18 then .ok (.fend) else .error .reservedField
  | 2 => if w.extractLsb' 7 6 = 0#6 then .ok (.sigdec (w.extractLsb' 13 6) (w.extractLsb' 19 6)) else .error .reservedField
  | 3 => if w.extractLsb' 7 6 = 0#6 then .ok (.sigwait (w.extractLsb' 13 6) (w.extractLsb' 19 6)) else .error .reservedField
  | 4 => if w.extractLsb' 7 6 = 0#6 then .ok (.launch (w.extractLsb' 13 6) (w.extractLsb' 19 6)) else .error .reservedField
  | _ => .error .unassignedFunction

/-- Decoding a word of the majors that hold the instructions that may wait on the clock, a gate or a signal. -/
def decodeWaiting (w : BitVec 32) : Except DecodeError Instr :=
  if w.getLsbD 0 then
    checkFields (match (w.extractLsb' 1 6).toNat with
      | 24 => decodeMajor24 w
      | 58 => decodeMajor58 w
      | 59 => decodeMajor59 w
      | _ => .error .unassignedMajor)
  else .error .unassignedFunction

noncomputable section

/-- Major 1, format S (02_encoding.md R57). -/
def decodeMajor1 (w : BitVec 32) : Except DecodeError Instr :=
  match (w.extractLsb' 25 7).toNat with
  | 0 => .ok (.add (w.extractLsb' 7 6) (w.extractLsb' 13 6) (w.extractLsb' 19 6))
  | 1 => .ok (.sub (w.extractLsb' 7 6) (w.extractLsb' 13 6) (w.extractLsb' 19 6))
  | 2 => .ok (.and (w.extractLsb' 7 6) (w.extractLsb' 13 6) (w.extractLsb' 19 6))
  | 3 => .ok (.or (w.extractLsb' 7 6) (w.extractLsb' 13 6) (w.extractLsb' 19 6))
  | 4 => .ok (.xor (w.extractLsb' 7 6) (w.extractLsb' 13 6) (w.extractLsb' 19 6))
  | 5 => .ok (.shl (w.extractLsb' 7 6) (w.extractLsb' 13 6) (w.extractLsb' 19 6))
  | 6 => .ok (.shr (w.extractLsb' 7 6) (w.extractLsb' 13 6) (w.extractLsb' 19 6))
  | 7 => .ok (.sra (w.extractLsb' 7 6) (w.extractLsb' 13 6) (w.extractLsb' 19 6))
  | 8 => .ok (.slt (w.extractLsb' 7 6) (w.extractLsb' 13 6) (w.extractLsb' 19 6))
  | 9 => .ok (.sltn (w.extractLsb' 7 6) (w.extractLsb' 13 6) (w.extractLsb' 19 6))
  | 10 => .ok (.mul (w.extractLsb' 7 6) (w.extractLsb' 13 6) (w.extractLsb' 19 6))
  | 11 => .ok (.mulh (w.extractLsb' 7 6) (w.extractLsb' 13 6) (w.extractLsb' 19 6))
  | 12 => .ok (.mulhn (w.extractLsb' 7 6) (w.extractLsb' 13 6) (w.extractLsb' 19 6))
  | 13 => .ok (.div (w.extractLsb' 7 6) (w.extractLsb' 13 6) (w.extractLsb' 19 6))
  | 14 => .ok (.divn (w.extractLsb' 7 6) (w.extractLsb' 13 6) (w.extractLsb' 19 6))
  | 15 => .ok (.rem (w.extractLsb' 7 6) (w.extractLsb' 13 6) (w.extractLsb' 19 6))
  | 16 => .ok (.remn (w.extractLsb' 7 6) (w.extractLsb' 13 6) (w.extractLsb' 19 6))
  | _ => .error .unassignedFunction

/-- Major 2, format I (02_encoding.md R57). -/
def decodeMajor2 (w : BitVec 32) : Except DecodeError Instr :=
  match (w.extractLsb' 31 1).toNat with
  | 0 => .ok (.addi (w.extractLsb' 7 6) (w.extractLsb' 13 6) (w.extractLsb' 19 12))
  | _ => .ok (.slti (w.extractLsb' 7 6) (w.extractLsb' 13 6) (w.extractLsb' 19 12))

/-- Major 3, format I (02_encoding.md R57). -/
def decodeMajor3 (w : BitVec 32) : Except DecodeError Instr :=
  match (w.extractLsb' 31 1).toNat with
  | 0 => .ok (.andi (w.extractLsb' 7 6) (w.extractLsb' 13 6) (w.extractLsb' 19 12))
  | _ => .ok (.ori (w.extractLsb' 7 6) (w.extractLsb' 13 6) (w.extractLsb' 19 12))

/-- Major 4, format I (02_encoding.md R57). -/
def decodeMajor4 (w : BitVec 32) : Except DecodeError Instr :=
  match (w.extractLsb' 31 1).toNat with
  | 0 => .ok (.xori (w.extractLsb' 7 6) (w.extractLsb' 13 6) (w.extractLsb' 19 12))
  | _ => if w.extractLsb' 27 4 = 0#4 then
      match (w.extractLsb' 25 2).toNat with
      | 0 => .ok (.shli (w.extractLsb' 7 6) (w.extractLsb' 13 6) (w.extractLsb' 19 6))
      | 1 => .ok (.shri (w.extractLsb' 7 6) (w.extractLsb' 13 6) (w.extractLsb' 19 6))
      | 2 => .ok (.srai (w.extractLsb' 7 6) (w.extractLsb' 13 6) (w.extractLsb' 19 6))
      | _ => .error .unassignedFunction
    else .error .reservedField

/-- Major 5, format I (02_encoding.md R57). -/
def decodeMajor5 (w : BitVec 32) : Except DecodeError Instr :=
  match (w.extractLsb' 31 1).toNat with
  | 0 => .ok (.ld64 (w.extractLsb' 7 6) (w.extractLsb' 13 6) (w.extractLsb' 19 12))
  | _ => .ok (.ld32 (w.extractLsb' 7 6) (w.extractLsb' 13 6) (w.extractLsb' 19 12))

/-- Major 6, format I (02_encoding.md R57). -/
def decodeMajor6 (w : BitVec 32) : Except DecodeError Instr :=
  match (w.extractLsb' 31 1).toNat with
  | 0 => .ok (.ld16 (w.extractLsb' 7 6) (w.extractLsb' 13 6) (w.extractLsb' 19 12))
  | _ => .ok (.ld8 (w.extractLsb' 7 6) (w.extractLsb' 13 6) (w.extractLsb' 19 12))

/-- Major 7, format I (02_encoding.md R57). -/
def decodeMajor7 (w : BitVec 32) : Except DecodeError Instr :=
  match (w.extractLsb' 31 1).toNat with
  | 0 => .ok (.ldn32 (w.extractLsb' 7 6) (w.extractLsb' 13 6) (w.extractLsb' 19 12))
  | _ => .ok (.ldn16 (w.extractLsb' 7 6) (w.extractLsb' 13 6) (w.extractLsb' 19 12))

/-- Major 8, format I (02_encoding.md R57). -/
def decodeMajor8 (w : BitVec 32) : Except DecodeError Instr :=
  match (w.extractLsb' 31 1).toNat with
  | 0 => .ok (.ldn8 (w.extractLsb' 7 6) (w.extractLsb' 13 6) (w.extractLsb' 19 12))
  | _ => if w.extractLsb' 12 1 = 0#1 then .ok (.fld32 (w.extractLsb' 7 5) (w.extractLsb' 13 6) (w.extractLsb' 19 12)) else .error .reservedField

/-- Major 9, format I (02_encoding.md R57). -/
def decodeMajor9 (w : BitVec 32) : Except DecodeError Instr :=
  match (w.extractLsb' 31 1).toNat with
  | 0 => if w.extractLsb' 12 1 = 0#1 then .ok (.fld64 (w.extractLsb' 7 5) (w.extractLsb' 13 6) (w.extractLsb' 19 12)) else .error .reservedField
  | _ => .ok (.st64 (w.extractLsb' 7 6) (w.extractLsb' 13 6) (w.extractLsb' 19 12))

/-- Major 10, format I (02_encoding.md R57). -/
def decodeMajor10 (w : BitVec 32) : Except DecodeError Instr :=
  match (w.extractLsb' 31 1).toNat with
  | 0 => .ok (.st32 (w.extractLsb' 7 6) (w.extractLsb' 13 6) (w.extractLsb' 19 12))
  | _ => .ok (.st16 (w.extractLsb' 7 6) (w.extractLsb' 13 6) (w.extractLsb' 19 12))

/-- Major 11, format I (02_encoding.md R57). -/
def decodeMajor11 (w : BitVec 32) : Except DecodeError Instr :=
  match (w.extractLsb' 31 1).toNat with
  | 0 => .ok (.st8 (w.extractLsb' 7 6) (w.extractLsb' 13 6) (w.extractLsb' 19 12))
  | _ => if w.extractLsb' 12 1 = 0#1 then .ok (.fst32 (w.extractLsb' 7 5) (w.extractLsb' 13 6) (w.extractLsb' 19 12)) else .error .reservedField

/-- Major 12, format I (02_encoding.md R57). -/
def decodeMajor12 (w : BitVec 32) : Except DecodeError Instr :=
  match (w.extractLsb' 31 1).toNat with
  | 0 => if w.extractLsb' 12 1 = 0#1 then .ok (.fst64 (w.extractLsb' 7 5) (w.extractLsb' 13 6) (w.extractLsb' 19 12)) else .error .reservedField
  | _ => .ok (.jlr (w.extractLsb' 7 6) (w.extractLsb' 13 6) (w.extractLsb' 19 12))

/-- Major 13, format B (02_encoding.md R57). -/
def decodeMajor13 (w : BitVec 32) : Except DecodeError Instr :=
  match (w.extractLsb' 31 1).toNat with
  | 0 => .ok (.beq (w.extractLsb' 7 6) (w.extractLsb' 13 6) (w.extractLsb' 19 12))
  | _ => .ok (.bne (w.extractLsb' 7 6) (w.extractLsb' 13 6) (w.extractLsb' 19 12))

/-- Major 14, format B (02_encoding.md R57). -/
def decodeMajor14 (w : BitVec 32) : Except DecodeError Instr :=
  match (w.extractLsb' 31 1).toNat with
  | 0 => .ok (.blt (w.extractLsb' 7 6) (w.extractLsb' 13 6) (w.extractLsb' 19 12))
  | _ => .ok (.bge (w.extractLsb' 7 6) (w.extractLsb' 13 6) (w.extractLsb' 19 12))

/-- Major 15, format B (02_encoding.md R57). -/
def decodeMajor15 (w : BitVec 32) : Except DecodeError Instr :=
  match (w.extractLsb' 31 1).toNat with
  | 0 => .ok (.bltn (w.extractLsb' 7 6) (w.extractLsb' 13 6) (w.extractLsb' 19 12))
  | _ => .ok (.bgen (w.extractLsb' 7 6) (w.extractLsb' 13 6) (w.extractLsb' 19 12))

/-- Major 16, format B (02_encoding.md R57). -/
def decodeMajor16 (w : BitVec 32) : Except DecodeError Instr :=
  match (w.extractLsb' 31 1).toNat with
  | 0 => .ok (.sbnz (w.extractLsb' 7 6) (w.extractLsb' 13 6) (w.extractLsb' 19 12))
  | _ => .error .unassignedFunction

/-- Major 17, format J (02_encoding.md R57). -/
def decodeMajor17 (w : BitVec 32) : Except DecodeError Instr :=
  match (w.extractLsb' 7 5).toNat with
  | 0 => .ok (.j (w.extractLsb' 12 20))
  | 1 => .ok (.jl (w.extractLsb' 12 20))
  | 4 => .ok (.bqz (w.extractLsb' 7 2) (w.extractLsb' 12 20))
  | 5 => .ok (.bqz (w.extractLsb' 7 2) (w.extractLsb' 12 20))
  | 6 => .ok (.bqz (w.extractLsb' 7 2) (w.extractLsb' 12 20))
  | 8 => .ok (.bqnz (w.extractLsb' 7 2) (w.extractLsb' 12 20))
  | 9 => .ok (.bqnz (w.extractLsb' 7 2) (w.extractLsb' 12 20))
  | 10 => .ok (.bqnz (w.extractLsb' 7 2) (w.extractLsb' 12 20))
  | _ => .error .unassignedFunction

/-- Major 18, format S (02_encoding.md R57). -/
def decodeMajor18 (w : BitVec 32) : Except DecodeError Instr :=
  match (w.extractLsb' 27 5).toNat with
  | 0 => if w.extractLsb' 26 1 = 0#1 ∧ w.extractLsb' 24 1 = 0#1 ∧ w.extractLsb' 18 1 = 0#1 ∧ w.extractLsb' 12 1 = 0#1 then .ok (.fadd (w.extractLsb' 7 5) (w.extractLsb' 13 5) (w.extractLsb' 19 5) (w.extractLsb' 25 1)) else .error .reservedField
  | 1 => if w.extractLsb' 26 1 = 0#1 ∧ w.extractLsb' 24 1 = 0#1 ∧ w.extractLsb' 18 1 = 0#1 ∧ w.extractLsb' 12 1 = 0#1 then .ok (.fsub (w.extractLsb' 7 5) (w.extractLsb' 13 5) (w.extractLsb' 19 5) (w.extractLsb' 25 1)) else .error .reservedField
  | 2 => if w.extractLsb' 26 1 = 0#1 ∧ w.extractLsb' 24 1 = 0#1 ∧ w.extractLsb' 18 1 = 0#1 ∧ w.extractLsb' 12 1 = 0#1 then .ok (.fmul (w.extractLsb' 7 5) (w.extractLsb' 13 5) (w.extractLsb' 19 5) (w.extractLsb' 25 1)) else .error .reservedField
  | 3 => if w.extractLsb' 26 1 = 0#1 ∧ w.extractLsb' 24 1 = 0#1 ∧ w.extractLsb' 18 1 = 0#1 ∧ w.extractLsb' 12 1 = 0#1 then .ok (.fdiv (w.extractLsb' 7 5) (w.extractLsb' 13 5) (w.extractLsb' 19 5) (w.extractLsb' 25 1)) else .error .reservedField
  | 4 => if w.extractLsb' 26 1 = 0#1 ∧ w.extractLsb' 18 7 = 0#7 ∧ w.extractLsb' 12 1 = 0#1 then .ok (.fsqrt (w.extractLsb' 7 5) (w.extractLsb' 13 5) (w.extractLsb' 25 1)) else .error .reservedField
  | 5 => if w.extractLsb' 26 1 = 0#1 ∧ w.extractLsb' 24 1 = 0#1 ∧ w.extractLsb' 18 1 = 0#1 ∧ w.extractLsb' 12 1 = 0#1 then .ok (.fmin (w.extractLsb' 7 5) (w.extractLsb' 13 5) (w.extractLsb' 19 5) (w.extractLsb' 25 1)) else .error .reservedField
  | 6 => if w.extractLsb' 26 1 = 0#1 ∧ w.extractLsb' 24 1 = 0#1 ∧ w.extractLsb' 18 1 = 0#1 ∧ w.extractLsb' 12 1 = 0#1 then .ok (.fmax (w.extractLsb' 7 5) (w.extractLsb' 13 5) (w.extractLsb' 19 5) (w.extractLsb' 25 1)) else .error .reservedField
  | 7 => if w.extractLsb' 26 1 = 0#1 ∧ w.extractLsb' 24 1 = 0#1 ∧ w.extractLsb' 18 1 = 0#1 ∧ w.extractLsb' 12 1 = 0#1 then .ok (.fmac (w.extractLsb' 7 5) (w.extractLsb' 13 5) (w.extractLsb' 19 5) (w.extractLsb' 25 1)) else .error .reservedField
  | 8 => if w.extractLsb' 26 1 = 0#1 ∧ w.extractLsb' 24 1 = 0#1 ∧ w.extractLsb' 18 1 = 0#1 then .ok (.feq (w.extractLsb' 7 6) (w.extractLsb' 13 5) (w.extractLsb' 19 5) (w.extractLsb' 25 1)) else .error .reservedField
  | 9 => if w.extractLsb' 26 1 = 0#1 ∧ w.extractLsb' 24 1 = 0#1 ∧ w.extractLsb' 18 1 = 0#1 then .ok (.flt (w.extractLsb' 7 6) (w.extractLsb' 13 5) (w.extractLsb' 19 5) (w.extractLsb' 25 1)) else .error .reservedField
  | 10 => if w.extractLsb' 26 1 = 0#1 ∧ w.extractLsb' 24 1 = 0#1 ∧ w.extractLsb' 18 1 = 0#1 then .ok (.fle (w.extractLsb' 7 6) (w.extractLsb' 13 5) (w.extractLsb' 19 5) (w.extractLsb' 25 1)) else .error .reservedField
  | 11 => if w.extractLsb' 26 1 = 0#1 ∧ w.extractLsb' 19 6 = 0#6 ∧ w.extractLsb' 12 1 = 0#1 then .ok (.fcvtF (w.extractLsb' 7 5) (w.extractLsb' 13 6) (w.extractLsb' 25 1)) else .error .reservedField
  | 12 => if w.extractLsb' 26 1 = 0#1 ∧ w.extractLsb' 18 7 = 0#7 then .ok (.fcvtI (w.extractLsb' 7 6) (w.extractLsb' 13 5) (w.extractLsb' 25 1)) else .error .reservedField
  | 13 => if w.extractLsb' 26 1 = 0#1 ∧ w.extractLsb' 18 7 = 0#7 ∧ w.extractLsb' 12 1 = 0#1 then .ok (.fcvtFf (w.extractLsb' 7 5) (w.extractLsb' 13 5) (w.extractLsb' 25 1)) else .error .reservedField
  | 14 => if w.extractLsb' 26 1 = 0#1 ∧ w.extractLsb' 18 7 = 0#7 then .ok (.fmvSF (w.extractLsb' 7 6) (w.extractLsb' 13 5) (w.extractLsb' 25 1)) else .error .reservedField
  | 15 => if w.extractLsb' 26 1 = 0#1 ∧ w.extractLsb' 19 6 = 0#6 ∧ w.extractLsb' 12 1 = 0#1 then .ok (.fmvFS (w.extractLsb' 7 5) (w.extractLsb' 13 6) (w.extractLsb' 25 1)) else .error .reservedField
  | 16 => if w.extractLsb' 26 1 = 0#1 ∧ w.extractLsb' 18 7 = 0#7 then .ok (.fclass (w.extractLsb' 7 6) (w.extractLsb' 13 5) (w.extractLsb' 25 1)) else .error .reservedField
  | _ => .error .unassignedFunction

/-- Major 19, format A (02_encoding.md R57). -/
def decodeMajor19 (w : BitVec 32) : Except DecodeError Instr :=
  match (w.extractLsb' 30 2).toNat with
  | 0 => .ok (.amoswap (w.extractLsb' 7 6) (w.extractLsb' 13 6) (w.extractLsb' 19 6) (w.extractLsb' 25 3) (w.extractLsb' 28 2))
  | 1 => .ok (.amoadd (w.extractLsb' 7 6) (w.extractLsb' 13 6) (w.extractLsb' 19 6) (w.extractLsb' 25 3) (w.extractLsb' 28 2))
  | 2 => .ok (.amoand (w.extractLsb' 7 6) (w.extractLsb' 13 6) (w.extractLsb' 19 6) (w.extractLsb' 25 3) (w.extractLsb' 28 2))
  | _ => .ok (.amoor (w.extractLsb' 7 6) (w.extractLsb' 13 6) (w.extractLsb' 19 6) (w.extractLsb' 25 3) (w.extractLsb' 28 2))

/-- Major 20, format A (02_encoding.md R57). -/
def decodeMajor20 (w : BitVec 32) : Except DecodeError Instr :=
  match (w.extractLsb' 30 2).toNat with
  | 0 => .ok (.amomax (w.extractLsb' 7 6) (w.extractLsb' 13 6) (w.extractLsb' 19 6) (w.extractLsb' 25 3) (w.extractLsb' 28 2))
  | 1 => .ok (.amomaxn (w.extractLsb' 7 6) (w.extractLsb' 13 6) (w.extractLsb' 19 6) (w.extractLsb' 25 3) (w.extractLsb' 28 2))
  | 2 => .ok (.amocas (w.extractLsb' 7 6) (w.extractLsb' 13 6) (w.extractLsb' 19 6) (w.extractLsb' 25 3) (w.extractLsb' 28 2))
  | _ => if w.extractLsb' 28 2 = 1#2 ∧ w.extractLsb' 19 6 = 0#6 then .ok (.ldaq (w.extractLsb' 7 6) (w.extractLsb' 13 6) (w.extractLsb' 25 3)) else .error .reservedField

/-- Major 21, format A (02_encoding.md R57). -/
def decodeMajor21 (w : BitVec 32) : Except DecodeError Instr :=
  match (w.extractLsb' 30 2).toNat with
  | 0 => if w.extractLsb' 28 2 = 2#2 ∧ w.extractLsb' 7 6 = 0#6 then .ok (.strl (w.extractLsb' 13 6) (w.extractLsb' 19 6) (w.extractLsb' 25 3)) else .error .reservedField
  | 1 => if w.extractLsb' 7 6 = 0#6 ∧ w.extractLsb' 13 6 = 0#6 ∧ w.extractLsb' 19 6 = 0#6 then
      match (w.extractLsb' 28 2).toNat with
      | 0 => .ok (.fence (w.extractLsb' 25 3))
      | 1 => .ok (.fenceAcq (w.extractLsb' 25 3))
      | 2 => .ok (.fenceRel (w.extractLsb' 25 3))
      | _ => .ok (.fenceSc (w.extractLsb' 25 3))
    else .error .reservedField
  | 2 => if w.extractLsb' 22 8 = 0#8 ∧ w.extractLsb' 7 12 = 0#12 then .ok (.qdrain (w.extractLsb' 19 3)) else .error .reservedField
  | _ => if w.extractLsb' 21 9 = 0#9 ∧ w.extractLsb' 13 6 = 0#6 then .ok (.mvq (w.extractLsb' 7 6) (w.extractLsb' 19 2)) else .error .reservedField

/-- Major 22, format I (02_encoding.md R57). -/
def decodeMajor22 (w : BitVec 32) : Except DecodeError Instr :=
  match (w.extractLsb' 31 1).toNat with
  | 0 => if w.extractLsb' 13 6 = 0#6 then .ok (.csrr (w.extractLsb' 7 6) (w.extractLsb' 19 12)) else .error .reservedField
  | _ => if w.extractLsb' 7 6 = 0#6 then .ok (.csrw (w.extractLsb' 13 6) (w.extractLsb' 19 12)) else .error .reservedField

/-- Major 23, format I (02_encoding.md R57). -/
def decodeMajor23 (w : BitVec 32) : Except DecodeError Instr :=
  match (w.extractLsb' 31 1).toNat with
  | 0 => .ok (.csrs (w.extractLsb' 7 6) (w.extractLsb' 13 6) (w.extractLsb' 19 12))
  | _ => .ok (.csrc (w.extractLsb' 7 6) (w.extractLsb' 13 6) (w.extractLsb' 19 12))

/-- Major 41, format I (02_encoding.md R57). -/
def decodeMajor41 (w : BitVec 32) : Except DecodeError Instr :=
  match (w.extractLsb' 31 1).toNat with
  | 0 => .ok (.setvl (w.extractLsb' 7 6) (w.extractLsb' 13 6) (w.extractLsb' 19 12))
  | _ => .error .unassignedFunction

/-- Major 61, format S (02_encoding.md R57). -/
def decodeMajor61 (w : BitVec 32) : Except DecodeError Instr :=
  match (w.extractLsb' 25 7).toNat with
  | 0 => if w.extractLsb' 7 6 = 0#6 then .ok (.ctxsave (w.extractLsb' 13 6) (w.extractLsb' 19 6)) else .error .reservedField
  | 1 => if w.extractLsb' 7 6 = 0#6 then .ok (.ctxload (w.extractLsb' 13 6) (w.extractLsb' 19 6)) else .error .reservedField
  | 2 => .ok (.dbgwin (w.extractLsb' 7 6) (w.extractLsb' 13 6) (w.extractLsb' 19 6))
  | _ => .error .unassignedFunction

/-- The fields of a 32-bit word by its major opcode (02_encoding.md R46, R57). -/
def decodeFields (w : BitVec 32) : Except DecodeError Instr :=
  match (w.extractLsb' 1 6).toNat with
  | 1 => decodeMajor1 w
  | 2 => decodeMajor2 w
  | 3 => decodeMajor3 w
  | 4 => decodeMajor4 w
  | 5 => decodeMajor5 w
  | 6 => decodeMajor6 w
  | 7 => decodeMajor7 w
  | 8 => decodeMajor8 w
  | 9 => decodeMajor9 w
  | 10 => decodeMajor10 w
  | 11 => decodeMajor11 w
  | 12 => decodeMajor12 w
  | 13 => decodeMajor13 w
  | 14 => decodeMajor14 w
  | 15 => decodeMajor15 w
  | 16 => decodeMajor16 w
  | 17 => decodeMajor17 w
  | 18 => decodeMajor18 w
  | 19 => decodeMajor19 w
  | 20 => decodeMajor20 w
  | 21 => decodeMajor21 w
  | 22 => decodeMajor22 w
  | 23 => decodeMajor23 w
  | 24 => decodeMajor24 w
  | 41 => decodeMajor41 w
  | 58 => decodeMajor58 w
  | 59 => decodeMajor59 w
  | 61 => decodeMajor61 w
  | _ => decodeQueuedFields w

/-- The fields of a compact word (02_encoding.md R52). -/
def decodeCompactFields (w : BitVec 16) : Except DecodeError Instr :=
  match (w.extractLsb' 1 3).toNat with
  | 1 => .ok (.cAdd (w.extractLsb' 4 6) (w.extractLsb' 10 6))
  | 2 => .ok (.cSub (w.extractLsb' 4 6) (w.extractLsb' 10 6))
  | 3 => .ok (.cAnd (w.extractLsb' 4 6) (w.extractLsb' 10 6))
  | 4 => .ok (.cOr (w.extractLsb' 4 6) (w.extractLsb' 10 6))
  | 5 => .ok (.cXor (w.extractLsb' 4 6) (w.extractLsb' 10 6))
  | 6 => .ok (.cShl (w.extractLsb' 4 6) (w.extractLsb' 10 6))
  | 7 => .ok (.cAddi (w.extractLsb' 4 6) (w.extractLsb' 10 6))
  | _ => .error .compactZero

/-- Decoding a 32-bit word. -/
def decode32 (w : BitVec 32) : Except DecodeError Instr := checkFields (decodeFields w)

/-- Decoding a compact word. -/
def decode16 (w : BitVec 16) : Except DecodeError Instr := checkFields (decodeCompactFields w)

/-- Bit 0 of the first halfword gives the length: 1 for a 32-bit word (02_encoding.md R46). -/
def isLong (h : BitVec 16) : Bool := h.getLsbD 0

/-- The words of an instruction, in memory order. -/
inductive Encoded where
  /-- A compact word. -/
  | half (w : BitVec 16)
  /-- A 32-bit word: its low halfword comes first. -/
  | full (w : BitVec 32)
deriving DecidableEq, Repr

/-- Decoding the words of an instruction. -/
def decode : Encoded → Except DecodeError Instr
  | .half w => if isLong w then .error .unassignedFunction else decode16 w
  | .full w => if w.getLsbD 0 then decode32 w else .error .unassignedFunction

/-- The bytes of the words, lowest address first (00_scope.md R1). -/
def Encoded.bytes : Encoded → List Byte
  | .half w => [w.extractLsb' 0 8, w.extractLsb' 8 8]
  | .full w => [w.extractLsb' 0 8, w.extractLsb' 8 8, w.extractLsb' 16 8, w.extractLsb' 24 8]

/-- Decoding bytes: the instruction at the front of the list and the bytes after it. -/
def decodeBytes : List Byte → Option (Except DecodeError Instr × List Byte)
  | b0 :: b1 :: rest =>
    if b0.getLsbD 0 then
      match rest with
      | b2 :: b3 :: rest' => some (decode (.full (b3 ++ b2 ++ b1 ++ b0)), rest')
      | _ => none
    else some (decode (.half (b1 ++ b0)), rest)
  | _ => none

/-- The instruction read from an instruction whose bits are `w`, numbered as spec/opcode_table.json numbers them.
Every word is 16 or 32 bits, so `nbits` adds nothing to `w`. -/
def decodeTableWord (nbits w : Nat) : Option Instr :=
  let w := w % 2 ^ nbits
  let bytes := [BitVec.ofNat 8 w, BitVec.ofNat 8 (w / 2 ^ 8), BitVec.ofNat 8 (w / 2 ^ 16), BitVec.ofNat 8 (w / 2 ^ 24)]
  match decodeBytes bytes with
  | some (.ok i, _) => some i
  | _ => none

/-- The words of an instruction: its fixed bits and fields from the high bit down; none for an event. -/
def encode : Instr → Option Encoded
  | .cAdd d b => some (.half (b ++ d ++ 2#4))
  | .cSub d b => some (.half (b ++ d ++ 4#4))
  | .cAnd d b => some (.half (b ++ d ++ 6#4))
  | .cOr d b => some (.half (b ++ d ++ 8#4))
  | .cXor d b => some (.half (b ++ d ++ 10#4))
  | .cShl d b => some (.half (b ++ d ++ 12#4))
  | .cAddi d i => some (.half (i ++ d ++ 14#4))
  | .add d a b => some (.full (0#7 ++ b ++ a ++ d ++ 3#7))
  | .sub d a b => some (.full (1#7 ++ b ++ a ++ d ++ 3#7))
  | .and d a b => some (.full (2#7 ++ b ++ a ++ d ++ 3#7))
  | .or d a b => some (.full (3#7 ++ b ++ a ++ d ++ 3#7))
  | .xor d a b => some (.full (4#7 ++ b ++ a ++ d ++ 3#7))
  | .shl d a b => some (.full (5#7 ++ b ++ a ++ d ++ 3#7))
  | .shr d a b => some (.full (6#7 ++ b ++ a ++ d ++ 3#7))
  | .sra d a b => some (.full (7#7 ++ b ++ a ++ d ++ 3#7))
  | .slt d a b => some (.full (8#7 ++ b ++ a ++ d ++ 3#7))
  | .sltn d a b => some (.full (9#7 ++ b ++ a ++ d ++ 3#7))
  | .mul d a b => some (.full (10#7 ++ b ++ a ++ d ++ 3#7))
  | .mulh d a b => some (.full (11#7 ++ b ++ a ++ d ++ 3#7))
  | .mulhn d a b => some (.full (12#7 ++ b ++ a ++ d ++ 3#7))
  | .div d a b => some (.full (13#7 ++ b ++ a ++ d ++ 3#7))
  | .divn d a b => some (.full (14#7 ++ b ++ a ++ d ++ 3#7))
  | .rem d a b => some (.full (15#7 ++ b ++ a ++ d ++ 3#7))
  | .remn d a b => some (.full (16#7 ++ b ++ a ++ d ++ 3#7))
  | .addi d a i => some (.full (0#1 ++ i ++ a ++ d ++ 5#7))
  | .slti d a i => some (.full (1#1 ++ i ++ a ++ d ++ 5#7))
  | .andi d a i => some (.full (0#1 ++ i ++ a ++ d ++ 7#7))
  | .ori d a i => some (.full (1#1 ++ i ++ a ++ d ++ 7#7))
  | .xori d a i => some (.full (0#1 ++ i ++ a ++ d ++ 9#7))
  | .shli d a s => some (.full (64#7 ++ s ++ a ++ d ++ 9#7))
  | .shri d a s => some (.full (65#7 ++ s ++ a ++ d ++ 9#7))
  | .srai d a s => some (.full (66#7 ++ s ++ a ++ d ++ 9#7))
  | .ld64 d a i => some (.full (0#1 ++ i ++ a ++ d ++ 11#7))
  | .ld32 d a i => some (.full (1#1 ++ i ++ a ++ d ++ 11#7))
  | .ld16 d a i => some (.full (0#1 ++ i ++ a ++ d ++ 13#7))
  | .ld8 d a i => some (.full (1#1 ++ i ++ a ++ d ++ 13#7))
  | .ldn32 d a i => some (.full (0#1 ++ i ++ a ++ d ++ 15#7))
  | .ldn16 d a i => some (.full (1#1 ++ i ++ a ++ d ++ 15#7))
  | .ldn8 d a i => some (.full (0#1 ++ i ++ a ++ d ++ 17#7))
  | .fld32 d a i => some (.full (1#1 ++ i ++ a ++ 0#1 ++ d ++ 17#7))
  | .fld64 d a i => some (.full (0#1 ++ i ++ a ++ 0#1 ++ d ++ 19#7))
  | .st64 d a i => some (.full (1#1 ++ i ++ a ++ d ++ 19#7))
  | .st32 d a i => some (.full (0#1 ++ i ++ a ++ d ++ 21#7))
  | .st16 d a i => some (.full (1#1 ++ i ++ a ++ d ++ 21#7))
  | .st8 d a i => some (.full (0#1 ++ i ++ a ++ d ++ 23#7))
  | .fst32 d a i => some (.full (1#1 ++ i ++ a ++ 0#1 ++ d ++ 23#7))
  | .fst64 d a i => some (.full (0#1 ++ i ++ a ++ 0#1 ++ d ++ 25#7))
  | .jlr d a i => some (.full (1#1 ++ i ++ a ++ d ++ 25#7))
  | .beq a b o => some (.full (0#1 ++ o ++ b ++ a ++ 27#7))
  | .bne a b o => some (.full (1#1 ++ o ++ b ++ a ++ 27#7))
  | .blt a b o => some (.full (0#1 ++ o ++ b ++ a ++ 29#7))
  | .bge a b o => some (.full (1#1 ++ o ++ b ++ a ++ 29#7))
  | .bltn a b o => some (.full (0#1 ++ o ++ b ++ a ++ 31#7))
  | .bgen a b o => some (.full (1#1 ++ o ++ b ++ a ++ 31#7))
  | .sbnz a b o => some (.full (0#1 ++ o ++ b ++ a ++ 33#7))
  | .j o => some (.full (o ++ 35#12))
  | .jl o => some (.full (o ++ 163#12))
  | .bqz q o => some (.full (o ++ 1#3 ++ q ++ 35#7))
  | .bqnz q o => some (.full (o ++ 2#3 ++ q ++ 35#7))
  | .fadd d a b t => some (.full (0#6 ++ t ++ 0#1 ++ b ++ 0#1 ++ a ++ 0#1 ++ d ++ 37#7))
  | .fsub d a b t => some (.full (2#6 ++ t ++ 0#1 ++ b ++ 0#1 ++ a ++ 0#1 ++ d ++ 37#7))
  | .fmul d a b t => some (.full (4#6 ++ t ++ 0#1 ++ b ++ 0#1 ++ a ++ 0#1 ++ d ++ 37#7))
  | .fdiv d a b t => some (.full (6#6 ++ t ++ 0#1 ++ b ++ 0#1 ++ a ++ 0#1 ++ d ++ 37#7))
  | .fsqrt d a t => some (.full (8#6 ++ t ++ 0#7 ++ a ++ 0#1 ++ d ++ 37#7))
  | .fmin d a b t => some (.full (10#6 ++ t ++ 0#1 ++ b ++ 0#1 ++ a ++ 0#1 ++ d ++ 37#7))
  | .fmax d a b t => some (.full (12#6 ++ t ++ 0#1 ++ b ++ 0#1 ++ a ++ 0#1 ++ d ++ 37#7))
  | .fmac d a b t => some (.full (14#6 ++ t ++ 0#1 ++ b ++ 0#1 ++ a ++ 0#1 ++ d ++ 37#7))
  | .feq d a b t => some (.full (16#6 ++ t ++ 0#1 ++ b ++ 0#1 ++ a ++ d ++ 37#7))
  | .flt d a b t => some (.full (18#6 ++ t ++ 0#1 ++ b ++ 0#1 ++ a ++ d ++ 37#7))
  | .fle d a b t => some (.full (20#6 ++ t ++ 0#1 ++ b ++ 0#1 ++ a ++ d ++ 37#7))
  | .fcvtF d a t => some (.full (22#6 ++ t ++ 0#6 ++ a ++ 0#1 ++ d ++ 37#7))
  | .fcvtI d a t => some (.full (24#6 ++ t ++ 0#7 ++ a ++ d ++ 37#7))
  | .fcvtFf d a t => some (.full (26#6 ++ t ++ 0#7 ++ a ++ 0#1 ++ d ++ 37#7))
  | .fmvSF d a t => some (.full (28#6 ++ t ++ 0#7 ++ a ++ d ++ 37#7))
  | .fmvFS d a t => some (.full (30#6 ++ t ++ 0#6 ++ a ++ 0#1 ++ d ++ 37#7))
  | .fclass d a t => some (.full (32#6 ++ t ++ 0#7 ++ a ++ d ++ 37#7))
  | .amoswap d a b c r => some (.full (0#2 ++ r ++ c ++ b ++ a ++ d ++ 39#7))
  | .amoadd d a b c r => some (.full (1#2 ++ r ++ c ++ b ++ a ++ d ++ 39#7))
  | .amoand d a b c r => some (.full (2#2 ++ r ++ c ++ b ++ a ++ d ++ 39#7))
  | .amoor d a b c r => some (.full (3#2 ++ r ++ c ++ b ++ a ++ d ++ 39#7))
  | .amomax d a b c r => some (.full (0#2 ++ r ++ c ++ b ++ a ++ d ++ 41#7))
  | .amomaxn d a b c r => some (.full (1#2 ++ r ++ c ++ b ++ a ++ d ++ 41#7))
  | .amocas d a b c r => some (.full (2#2 ++ r ++ c ++ b ++ a ++ d ++ 41#7))
  | .ldaq d a c => some (.full (13#4 ++ c ++ 0#6 ++ a ++ d ++ 41#7))
  | .strl a b c => some (.full (2#4 ++ c ++ b ++ a ++ 43#13))
  | .fence c => some (.full (4#4 ++ c ++ 43#25))
  | .fenceAcq c => some (.full (5#4 ++ c ++ 43#25))
  | .fenceRel c => some (.full (6#4 ++ c ++ 43#25))
  | .fenceSc c => some (.full (7#4 ++ c ++ 43#25))
  | .qdrain q => some (.full (512#10 ++ q ++ 43#19))
  | .mvq d q => some (.full (1536#11 ++ q ++ 0#6 ++ d ++ 43#7))
  | .csrr d s => some (.full (0#1 ++ s ++ 0#6 ++ d ++ 45#7))
  | .csrw a s => some (.full (1#1 ++ s ++ a ++ 45#13))
  | .csrs d a s => some (.full (0#1 ++ s ++ a ++ d ++ 47#7))
  | .csrc d a s => some (.full (1#1 ++ s ++ a ++ d ++ 47#7))
  | .trap => some (.full (49#32))
  | .tret => some (.full (33554481#32))
  | .waitt a => some (.full (128#13 ++ a ++ 49#13))
  | .brk => some (.full (100663345#32))
  | .setvl d a i => some (.full (0#1 ++ i ++ a ++ d ++ 83#7))
  | .vadd d a b m => some (.full (0#3 ++ m ++ b ++ a ++ d ++ 51#7))
  | .vsub d a b m => some (.full (1#3 ++ m ++ b ++ a ++ d ++ 51#7))
  | .vmul d a b m => some (.full (2#3 ++ m ++ b ++ a ++ d ++ 51#7))
  | .vmulh d a b m => some (.full (3#3 ++ m ++ b ++ a ++ d ++ 51#7))
  | .vdiv d a b m => some (.full (4#3 ++ m ++ b ++ a ++ d ++ 51#7))
  | .vrem d a b m => some (.full (5#3 ++ m ++ b ++ a ++ d ++ 51#7))
  | .vmin d a b m => some (.full (6#3 ++ m ++ b ++ a ++ d ++ 51#7))
  | .vmax d a b m => some (.full (7#3 ++ m ++ b ++ a ++ d ++ 51#7))
  | .vand d a b m => some (.full (0#3 ++ m ++ b ++ a ++ d ++ 53#7))
  | .vor d a b m => some (.full (1#3 ++ m ++ b ++ a ++ d ++ 53#7))
  | .vxor d a b m => some (.full (2#3 ++ m ++ b ++ a ++ d ++ 53#7))
  | .vshl d a b m => some (.full (3#3 ++ m ++ b ++ a ++ d ++ 53#7))
  | .vshr d a b m => some (.full (4#3 ++ m ++ b ++ a ++ d ++ 53#7))
  | .vsra d a b m => some (.full (5#3 ++ m ++ b ++ a ++ d ++ 53#7))
  | .vadds d a b m => some (.full (6#3 ++ m ++ b ++ a ++ d ++ 53#7))
  | .vsubs d a b m => some (.full (7#3 ++ m ++ b ++ a ++ d ++ 53#7))
  | .vmac d a b m => some (.full (0#3 ++ m ++ b ++ a ++ d ++ 55#7))
  | .vnmac d a b m => some (.full (1#3 ++ m ++ b ++ a ++ d ++ 55#7))
  | .vsqrt d a m => some (.full (2#3 ++ m ++ 0#5 ++ a ++ d ++ 55#7))
  | .vabs d a m => some (.full (3#3 ++ m ++ 0#5 ++ a ++ d ++ 55#7))
  | .vaddmin d a b m => some (.full (4#3 ++ m ++ b ++ a ++ d ++ 55#7))
  | .vmerge d a b m => some (.full (5#3 ++ m ++ b ++ a ++ d ++ 55#7))
  | .vmv d a m => some (.full (6#3 ++ m ++ 0#5 ++ a ++ d ++ 55#7))
  | .vseq d a b m => some (.full (0#1 ++ m ++ b ++ a ++ d ++ 57#7))
  | .vsne d a b m => some (.full (1#1 ++ m ++ b ++ a ++ d ++ 57#7))
  | .vslt d a b m => some (.full (0#1 ++ m ++ b ++ a ++ d ++ 59#7))
  | .vsle d a b m => some (.full (1#1 ++ m ++ b ++ a ++ d ++ 59#7))
  | .vaddVs d a s m => some (.full (0#2 ++ m ++ s ++ a ++ d ++ 61#7))
  | .vsubVs d a s m => some (.full (1#2 ++ m ++ s ++ a ++ d ++ 61#7))
  | .vmulVs d a s m => some (.full (2#2 ++ m ++ s ++ a ++ d ++ 61#7))
  | .vminVs d a s m => some (.full (3#2 ++ m ++ s ++ a ++ d ++ 61#7))
  | .vmaxVs d a s m => some (.full (0#2 ++ m ++ s ++ a ++ d ++ 63#7))
  | .vshlVs d a s m => some (.full (1#2 ++ m ++ s ++ a ++ d ++ 63#7))
  | .vshrVs d a s m => some (.full (2#2 ++ m ++ s ++ a ++ d ++ 63#7))
  | .vsraVs d a s m => some (.full (3#2 ++ m ++ s ++ a ++ d ++ 63#7))
  | .vmacVs d a s m => some (.full (0#2 ++ m ++ s ++ a ++ d ++ 65#7))
  | .vaddminVs d a s m => some (.full (1#2 ++ m ++ s ++ a ++ d ++ 65#7))
  | .vbcast d s m => some (.full (2#2 ++ m ++ s ++ 0#5 ++ d ++ 65#7))
  | .vrsubVs d a s m => some (.full (3#2 ++ m ++ s ++ a ++ d ++ 65#7))
  | .vaddVi d a i => some (.full (0#3 ++ i ++ a ++ d ++ 67#7))
  | .vandVi d a i => some (.full (1#3 ++ i ++ a ++ d ++ 67#7))
  | .vorVi d a i => some (.full (2#3 ++ i ++ a ++ d ++ 67#7))
  | .vxorVi d a i => some (.full (3#3 ++ i ++ a ++ d ++ 67#7))
  | .vshlVi d a i => some (.full (4#3 ++ i ++ a ++ d ++ 67#7))
  | .vshrVi d a i => some (.full (5#3 ++ i ++ a ++ d ++ 67#7))
  | .vsraVi d a i => some (.full (6#3 ++ i ++ a ++ d ++ 67#7))
  | .vrsubVi d a i => some (.full (7#3 ++ i ++ a ++ d ++ 67#7))
  | .vidx d s p => some (.full (p ++ s ++ d ++ 69#7))
  | .vredsum d a b m => some (.full (0#3 ++ m ++ b ++ a ++ d ++ 71#7))
  | .vredmin d a b m => some (.full (1#3 ++ m ++ b ++ a ++ d ++ 71#7))
  | .vredmax d a b m => some (.full (2#3 ++ m ++ b ++ a ++ d ++ 71#7))
  | .vredand d a b m => some (.full (3#3 ++ m ++ b ++ a ++ d ++ 71#7))
  | .vredor d a b m => some (.full (4#3 ++ m ++ b ++ a ++ d ++ 71#7))
  | .vredxor d a b m => some (.full (5#3 ++ m ++ b ++ a ++ d ++ 71#7))
  | .vscan d a b m => some (.full (6#3 ++ m ++ b ++ a ++ d ++ 71#7))
  | .vscanx d a b m => some (.full (7#3 ++ m ++ b ++ a ++ d ++ 71#7))
  | .vslideup d a s m => some (.full (0#2 ++ m ++ s ++ a ++ d ++ 73#7))
  | .vslidedn d a s m => some (.full (1#2 ++ m ++ s ++ a ++ d ++ 73#7))
  | .vslide1up d a s m => some (.full (2#2 ++ m ++ s ++ a ++ d ++ 73#7))
  | .vslide1dn d a s m => some (.full (3#2 ++ m ++ s ++ a ++ d ++ 73#7))
  | .vperm d a b m => some (.full (0#3 ++ m ++ b ++ a ++ d ++ 75#7))
  | .vcompress d a m => some (.full (1#3 ++ m ++ 0#5 ++ a ++ d ++ 75#7))
  | .vexpand d a m => some (.full (2#3 ++ m ++ 0#5 ++ a ++ d ++ 75#7))
  | .vrev d a m => some (.full (3#3 ++ m ++ 0#5 ++ a ++ d ++ 75#7))
  | .vzip d a b m => some (.full (4#3 ++ m ++ b ++ a ++ d ++ 75#7))
  | .vunzip d a m => some (.full (5#3 ++ m ++ 0#5 ++ a ++ d ++ 75#7))
  | .vconflict d a m => some (.full (6#3 ++ m ++ 0#5 ++ a ++ d ++ 75#7))
  | .vcvt d a t f m => some (.full (m ++ f ++ t ++ a ++ d ++ 77#7))
  | .mand d a b => some (.full (0#4 ++ b ++ a ++ d ++ 79#7))
  | .mor d a b => some (.full (1#4 ++ b ++ a ++ d ++ 79#7))
  | .mxor d a b => some (.full (2#4 ++ b ++ a ++ d ++ 79#7))
  | .mandn d a b => some (.full (3#4 ++ b ++ a ++ d ++ 79#7))
  | .morn d a b => some (.full (4#4 ++ b ++ a ++ d ++ 79#7))
  | .mnand d a b => some (.full (5#4 ++ b ++ a ++ d ++ 79#7))
  | .mnor d a b => some (.full (6#4 ++ b ++ a ++ d ++ 79#7))
  | .mxnor d a b => some (.full (7#4 ++ b ++ a ++ d ++ 79#7))
  | .mmv d a => some (.full (1024#11 ++ a ++ d ++ 79#7))
  | .mnot d a => some (.full (1152#11 ++ a ++ d ++ 79#7))
  | .msetbf d a => some (.full (1280#11 ++ a ++ d ++ 79#7))
  | .msetif d a => some (.full (1408#11 ++ a ++ d ++ 79#7))
  | .msetof d a => some (.full (1536#11 ++ a ++ d ++ 79#7))
  | .mclr d => some (.full (212992#18 ++ d ++ 79#7))
  | .mset d => some (.full (229376#18 ++ d ++ 79#7))
  | .vext a b => some (.full (0#14 ++ b ++ a ++ 81#7))
  | .mpop m => some (.full (1#7 ++ m ++ 81#18))
  | .mfind m => some (.full (2#7 ++ m ++ 81#18))
  | .mbany m => some (.full (3#7 ++ m ++ 81#18))
  | .mball m => some (.full (4#7 ++ m ++ 81#18))
  | .vld v a b m => some (.full (0#1 ++ m ++ b ++ a ++ v ++ 85#7))
  | .vst v a b m => some (.full (1#1 ++ m ++ b ++ a ++ v ++ 85#7))
  | .vlds v a b m => some (.full (0#1 ++ m ++ b ++ a ++ v ++ 87#7))
  | .vsts v a b m => some (.full (1#1 ++ m ++ b ++ a ++ v ++ 87#7))
  | .vldx v a i m => some (.full (0#2 ++ m ++ i ++ a ++ v ++ 89#7))
  | .vstx v a i m => some (.full (1#2 ++ m ++ i ++ a ++ v ++ 89#7))
  | .vldff v a b m => some (.full (0#1 ++ m ++ b ++ a ++ v ++ 91#7))
  | .vldsff v a b m => some (.full (1#1 ++ m ++ b ++ a ++ v ++ 91#7))
  | .vldI v a i => some (.full (0#2 ++ i ++ a ++ v ++ 93#7))
  | .vstI v a i => some (.full (1#2 ++ i ++ a ++ v ++ 93#7))
  | .vldffI v a i => some (.full (2#2 ++ i ++ a ++ v ++ 93#7))
  | .tbindl t a => some (.full (0#9 ++ a ++ 0#1 ++ t ++ 95#12))
  | .tbinds t a => some (.full (128#9 ++ a ++ 0#1 ++ t ++ 95#12))
  | .tfree t => some (.full (32768#16 ++ t ++ 95#12))
  | .tflush t => some (.full (49152#16 ++ t ++ 95#12))
  | .tget v t m => some (.full (0#2 ++ m ++ 0#7 ++ t ++ v ++ 97#7))
  | .tsend v t m => some (.full (1#2 ++ m ++ 0#7 ++ t ++ v ++ 97#7))
  | .acopy a b c k => some (.full (0#3 ++ k ++ c ++ b ++ a ++ 99#7))
  | .cwait k => some (.full (1#3 ++ k ++ 99#25))
  | .ctest k => some (.full (2#3 ++ k ++ 99#25))
  | .fload a n => some (.full (0#11 ++ n ++ a ++ 101#7))
  | .fstart n => some (.full (256#11 ++ n ++ 101#13))
  | .fstop n => some (.full (512#11 ++ n ++ 101#13))
  | .fdrain n => some (.full (768#11 ++ n ++ 101#13))
  | .fstat n => some (.full (1024#11 ++ n ++ 101#13))
  | .fgather v i a m => some (.full (0#2 ++ m ++ a ++ i ++ v ++ 103#7))
  | .fscatter v i a m => some (.full (1#2 ++ m ++ a ++ i ++ v ++ 103#7))
  | .fwgather v i a m => some (.full (2#2 ++ m ++ a ++ i ++ v ++ 103#7))
  | .vamoadd v i a m => some (.full (0#2 ++ m ++ a ++ i ++ v ++ 105#7))
  | .vamomin v i a m => some (.full (1#2 ++ m ++ a ++ i ++ v ++ 105#7))
  | .vamomax v i a m => some (.full (2#2 ++ m ++ a ++ i ++ v ++ 105#7))
  | .fas v i a m => some (.full (3#2 ++ m ++ a ++ i ++ v ++ 105#7))
  | .awadd v i k m => some (.full (0#2 ++ m ++ 0#3 ++ k ++ i ++ v ++ 107#7))
  | .awmin v i k m => some (.full (1#2 ++ m ++ 0#3 ++ k ++ i ++ v ++ 107#7))
  | .awmax v i k m => some (.full (2#2 ++ m ++ 0#3 ++ k ++ i ++ v ++ 107#7))
  | .awopen a b k => some (.full (0#10 ++ k ++ b ++ a ++ 109#7))
  | .accmerge k => some (.full (128#10 ++ k ++ 109#19))
  | .awdiscard k => some (.full (256#10 ++ k ++ 109#19))
  | .chform a => some (.full (0#13 ++ a ++ 111#13))
  | .chrun a => some (.full (64#13 ++ a ++ 111#13))
  | .chwait => some (.full (67108975#32))
  | .chbreak => some (.full (100663407#32))
  | .chfree => some (.full (134217839#32))
  | .chstat => some (.full (167772271#32))
  | .chidx a => some (.full (384#13 ++ a ++ 111#13))
  | .qrd x => some (.full (57344#20 ++ x ++ 111#7))
  | .qwr x a => some (.full (512#13 ++ a ++ 0#1 ++ x ++ 111#7))
  | .qlen x => some (.full (73728#20 ++ x ++ 111#7))
  | .mmac c a b x => some (.full (0#3 ++ x ++ b ++ a ++ c ++ 113#7))
  | .mmacsa c a b x => some (.full (1#3 ++ x ++ b ++ a ++ c ++ 113#7))
  | .mmacsb c a b x => some (.full (2#3 ++ x ++ b ++ a ++ c ++ 113#7))
  | .mldc c a => some (.full (12288#15 ++ a ++ c ++ 113#7))
  | .mstc c a x => some (.full (4#3 ++ x ++ 0#6 ++ a ++ c ++ 113#7))
  | .mzero c => some (.full (1310720#21 ++ c ++ 113#7))
  | .mskip a b x => some (.full (6#3 ++ x ++ b ++ a ++ 113#11))
  | .mshape a => some (.full (28672#15 ++ a ++ 113#11))
  | .mprune a b x => some (.full (0#3 ++ x ++ b ++ a ++ 115#11))
  | .mnode c a => some (.full (4096#15 ++ a ++ c ++ 115#7))
  | .mfill c => some (.full (524288#21 ++ c ++ 115#7))
  | .mwait c => some (.full (786432#21 ++ c ++ 115#7))
  | .mscale c a => some (.full (16384#15 ++ a ++ c ++ 115#7))
  | .mstat c => some (.full (1310720#21 ++ c ++ 115#7))
  | .gpost a b => some (.full (0#7 ++ b ++ a ++ 117#13))
  | .gpostPayload d a b => some (.full (1#7 ++ b ++ a ++ d ++ 117#7))
  | .gwait d a b => some (.full (16#7 ++ b ++ a ++ d ++ 117#7))
  | .gtry d a b => some (.full (32#7 ++ b ++ a ++ d ++ 117#7))
  | .gread d a => some (.full (3072#13 ++ a ++ d ++ 117#7))
  | .gopen d a b => some (.full (64#7 ++ b ++ a ++ d ++ 117#7))
  | .gclose a => some (.full (5120#13 ++ a ++ 117#13))
  | .fclaim d a b => some (.full (0#7 ++ b ++ a ++ d ++ 119#7))
  | .fend => some (.full (33554551#32))
  | .sigdec a b => some (.full (2#7 ++ b ++ a ++ 119#13))
  | .sigwait a b => some (.full (3#7 ++ b ++ a ++ 119#13))
  | .launch a b => some (.full (4#7 ++ b ++ a ++ 119#13))
  | .lput a b c k => some (.full (0#4 ++ k ++ c ++ b ++ a ++ 121#7))
  | .lget a b c k => some (.full (1#4 ++ k ++ c ++ b ++ a ++ 121#7))
  | .lcred a b c k => some (.full (2#4 ++ k ++ c ++ b ++ a ++ 121#7))
  | .lcgat a b c k => some (.full (3#4 ++ k ++ c ++ b ++ a ++ 121#7))
  | .lcbc a b c k => some (.full (4#4 ++ k ++ c ++ b ++ a ++ 121#7))
  | .lwait k => some (.full (5#4 ++ k ++ 121#25))
  | .lfence => some (.full (1610612857#32))
  | .ltest k => some (.full (7#4 ++ k ++ 121#25))
  | .ctxsave a b => some (.full (0#7 ++ b ++ a ++ 123#13))
  | .ctxload a b => some (.full (1#7 ++ b ++ a ++ 123#13))
  | .dbgwin d a b => some (.full (2#7 ++ b ++ a ++ d ++ 123#7))
  | .engineTrap _ _ _ _ | .hartTrap _ _ _ | .preEmption _ _ | .contextSave _ | .contextRestore _ _ _
  | .hartAdmit _ | .placement _ _ _ | .notify _ _ | .queueScan _ _ | .launchPacket _ _ | .signalPacket _ _
  | .waitPacket _ _ | .waitReread _ _ | .nopPacket _ _ | .recordDeliver _ | .recordRetry _ | .queueCreate _
  | .queueDestroy _ | .queueRestart _ | .evqCreate _ | .resume _ | .resumeAbort _ | .taskAbort _ | .resumeSave _
  | .rootSet _ | .invalidate _ | .gateCreate _ | .gateList _ | .gateSet _ | .gateRevoke _ | .gateDelete _
  | .migrateOut _ | .migrateIn _ | .partSet _ | .exportRange _ | .exportRemove _ | .vfReset _ | .attest _
  | .powerSet _ | .limitSet _ | .counters _ | .debugHalt _ | .debugResume _ | .debugStep _ | .debugRead _
  | .debugWrite _ | .debugArm _ | .debugDisarm _ | .tollRefill | .gpostAdmit _ | .gwaitWake _ | .gateEccRevoke _
  | .waittExpire _ | .sigwaitMet _ | .copyComplete _ _ | .copyFault _ _ | .linkOpComplete _ _ | .linkOpFault _ _
  | .chainBreak _ _ _ | .chainReform _ | .chainDetach _ | .nodeFinish _ _ | .bellGrant _ _ _ _
  | .fabricWatchdog _ | .requestTimeout _ _ _ _ | .nodeTileFill _ _ | .operandNodeFault _ _
  | .eccUncorrectable _ _ | .internalUncorrectable | .laneLinkDown _ _ | .laneLinkUp _ _ | .ubeacPortFail _
  | .thermalThrottle | .thermalRecover | .thermalTrip | .packageReset _ | .vfFlr _ | .bootConfiguration _
  | .bootConfigTimeout | .peerAccess _ _ _ _ _ | .cxlMemAccess _ _ _ _ | .configurationRequest
  | .laneLinkReplay _ _ | .flitReplay _ | .streamElementArrival _ _ => none

end

end Sys2Proof
end

