-- ==== Sys2Proof/Config.lean ====
section
/-!
DEFINITION. What the specification leaves open and the machine needs a value of: constants without a body, so that
nothing can be proved about them. Each is named in a log entry.
-/

namespace Sys2Proof.Config

/-- Cycles that pass in a step beyond the first, by the counter of free values (log 4). -/
opaque freeCycles : Nat → Nat

/-- Whether an access before an invalidation uses the old entry: 04_memory_model.md R112 allows either (log 7). -/
opaque usesOldEntry : Nat → Bool

/-- A value 13_context.md R381 and the other files leave without a rule, by the counter of free values (log 8). -/
opaque freeWord : Nat → Word

/-- Which of the stalls that may be lent the placement engine lends a chain that forms (09_chain.md R271; log 50): bit
16 × core + stall, by the counter of free values. -/
opaque lends : Nat → BitVec 256

/-- The SHA-256 digest of the Garuf ROM image (15_partitions.md R421; log 9). -/
opaque romDigest : BitVec 256

/-- The secret seed of the identity key, fused at manufacture (15_partitions.md R421; log 9). -/
opaque skSeed : BitVec 128

/-- The seed of the identity signatures' randomizers (15_partitions.md R421; log 9). -/
opaque skPrf : BitVec 128

/-- The public seed of the identity key (15_partitions.md R421; log 9). -/
opaque pkSeed : BitVec 128

end Sys2Proof.Config
end

