-- ==== Sys2Proof/Machine/State.lean ====
section
/-!
DEFINITION. The state of the package: every hart context, every engine's state, memory, and what the Crier keeps.
Plain data throughout. INVENTORY.md lists each field with its rule and reset value.
-/

namespace Sys2Proof.Machine

/-! ### Queues -/

/-- A decoupling-queue entry (13_context.md R382). `seq` is its place in program order across the queues (01_engines.md R15),
`started` says that it has been taken up (a multiply that holds its skip mask, an attached run), and `base` is where the stream
stood when it was (06_port.md R191); the three are the model's own (log 10). `raw` is the word of an entry that a save slot has
given a word that is no instruction, with `instr` as it was before (13_context.md R385), and `blocks` are the blocks that an
`fload` has read (08_gather_fabric.md R243). -/
structure Entry where
  instr : Instr
  raw : Option (BitVec 32)
  pc : Word
  vl : BitVec 32
  prog : BitVec 48
  et : Word
  aux : Word
  op0 : Word
  op1 : Word
  op2 : Word
  seq : Nat
  started : Bool
  base : Nat
  blocks : List (Vector Word 9)
deriving DecidableEq, Repr

/-- An SRQ or BQ entry: its value and the queue that produced it, 1 VIQ, 2 PIQ, 3 MIQ (13_context.md R382). -/
structure RetEntry where
  val : Word
  src : BitVec 2
deriving DecidableEq, Repr

/-- What an engine trap, a hart trap or a debug halt holds (01_engines.md R20; 05_hart.md R165; 13_context.md R391). `eiSet`
is the ei that trap entry wrote, to tell a written ei from an unchanged one (log 11), or the ei that a halt found; `queue` is
the queue whose head a halted hart restarts from ei (log 38). -/
structure Held where
  pc : Word
  ld : BitVec 6
  viq : List Entry
  piq : List Entry
  miq : List Entry
  srq : List RetEntry
  bq : List RetEntry
  queue : BitVec 2
  eiSet : Word
deriving DecidableEq, Repr

/-! ### Port engine -/

/-- An element on its way: its bits, or the cause and address of the fault it carries (08_gather_fabric.md R238). -/
structure Elem where
  val : Word
  fault : Option (BitVec 8 × Word)
deriving DecidableEq, Repr

/-- The kinds of a stream register (06_port.md R188, 13_context.md R380). -/
inductive StreamKind where
  | unbound
  | load
  | store
  | fabric
deriving DecidableEq, Repr

/-- A stream register (06_port.md R188, R189); `ahead` holds elements that have arrived and are not delivered, from
position `first` on. One whose fault, of code 0, has been raised is read again. -/
structure Stream where
  kind : StreamKind
  desc : Vector Word 5
  pos : Nat
  len : Nat
  first : Nat
  ahead : List Elem
  node : BitVec 3
deriving DecidableEq, Repr

/-- The states of a copy or link token (06_port.md R196). -/
inductive TokenState where
  | done
  | busy
  | fault
deriving DecidableEq, Repr

/-- A copy or link token (06_port.md R196, 14_link.md R403). `op` and `rm` say which link operation it carries and
the rounding it captured (14_link.md R404, R405). -/
structure Token where
  state : TokenState
  x : Nat
  cause : BitVec 8
  addr : Word
  dst : Word
  src : Word
  len : Word
  op : BitVec 4
  rm : BitVec 3
deriving DecidableEq, Repr

/-! ### Gather fabric -/

/-- The states of a configured node (08_gather_fabric.md R232). -/
inductive NodeState where
  | idle
  | loaded
  | running
  | stopped
  | done
deriving DecidableEq, Repr

/-- A fabric node (08_gather_fabric.md R232 to R241): its block, the iteration it runs next, the iterations of an
open tree group, what its router holds, the elements its stream has received, and a follow-on fault that `fdrain`
raises. `grows` says that its first block had FOLLOW = 1, and `due` is what a follow-on block that waits for its start adds to
its stream (R241). -/
structure FabricNode where
  state : NodeState
  block : Vector Word 9
  iter : Nat
  tree : List Elem
  routerStep : BitVec 2
  routerHeld : Option Elem
  watchdog : Bool
  owed : Option (BitVec 8 × Word)
  phys : BitVec 3
  grows : Bool
  due : Nat
deriving DecidableEq, Repr

/-- A token on a link (13_context.md R381): from node `src` to input `inp` of the router of `router` (0 O, 1 S, 2 D),
or from that router to node `src` (3). -/
structure FabricToken where
  src : BitVec 3
  router : BitVec 3
  inp : BitVec 2
  escape : Bool
  elem : Elem
deriving DecidableEq, Repr

/-- An accumulation window (08_gather_fabric.md R255, R256); `copies` lists the present words by 4096 × copy + word. -/
structure Window where
  isOpen : Bool
  base : Word
  bytes : Nat
  typ : BitVec 4
  op : BitVec 2
  copies : List (Nat × Word)
deriving DecidableEq, Repr

/-! ### Chain sequencer -/

/-- The states of a chain (09_chain.md R262). -/
inductive ChainState where
  | none
  | idle
  | standing
  | temporal
  | held
deriving DecidableEq, Repr

/-- The waiting elements of an edge queue or strip buffer, and their width (13_context.md R381). `depth` is the depth of a
queue inside a convoy, in element groups (09_chain.md R273); an edge of port 6 holds what a stage has sent to the queue
`consumer` and has found no room there yet (R266). -/
structure Edge where
  strip : Bool
  width : BitVec 7
  producer : Nat
  consumer : Nat
  port : BitVec 3
  first : Nat
  depth : Nat
  elems : List Word
deriving DecidableEq, Repr

/-- A hart's chain (09_chain.md R262, R263, R282, R283). `ran` says that a `chrun` has captured `et` (R283), and `stalls` are
the stalls that its stages occupy while it stands (R270); `lent` are the stalls of other cores that it has been lent, as core
and stall, and `links` the lane links that it crosses, or crossed when the last one failed (R271); `heldBy` is the function
whose record a HELD run waits for (R291), and `formedAt` is the lowest P where the run formed or re-formed last (R288). `plan`
lists the convoys of the standing formation, each as the elements of its lane rows and its slots (R270), and `classed` its port
stages that have a latency class (R272); `reformed` says that the formation is a re-forming of this run, `notBefore` is the
lowest P at which the run may re-form (R288, R292), `brokeAt` holds each P at the last break (R292), `occs` gives the
occupancy that a VAR = 0 multiply stage has formed with, and `units` are the matrix units that the hart held then
(10_matrix.md R320). -/
structure Chain where
  state : ChainState
  words : List (BitVec 32)
  n : Nat
  l : Nat
  et : Word
  g0 : Word
  p : List Nat
  edges : List Edge
  breaks : Nat
  reforms : Nat
  cause : BitVec 4
  slot : BitVec 6
  convoys : Nat
  pin : Bool
  scope : BitVec 3
  ran : Bool
  stalls : BitVec 16
  lent : List (Nat × Nat)
  links : BitVec 64
  heldBy : Option (BitVec 8)
  formedAt : Nat
  plan : List (Nat × List Nat)
  classed : List Nat
  reformed : Bool
  notBefore : Nat
  brokeAt : List Nat
  occs : List (Nat × Nat)
  units : BitVec 3
  q : Vector (List Word) 32
deriving DecidableEq, Repr

/-! ### Matrix engine -/

/-- The states of an operand node (10_matrix.md R314). -/
inductive OperandState where
  | idle
  | armed
  | running
  | held
  | done
deriving DecidableEq, Repr

/-- An operand node (10_matrix.md R313 to R318): `t` tiles filled, `used` tiles consumed, a timeout it owes to a
consumer, and while it is HELD the function whose record waits for RESUME (R317). -/
structure OperandNode where
  state : OperandState
  desc : Vector Word 8
  t : Nat
  used : Nat
  full : BitVec 4
  owed : Option (BitVec 8 × Word)
  heldBy : Option (BitVec 8)
deriving DecidableEq, Repr

/-! ### The hart -/

/-- How a gate has judged an instruction that waits at it (11_gate.md R330, R342, R343). -/
inductive GateVerdict where
  /-- A `gwait` whose threshold was met, with PAY as it was then. -/
  | met (pay : Word)
  /-- A check of R330 failed. -/
  | failed (code : BitVec 8) (addr : Word)
deriving DecidableEq, Repr

/-- An instruction that waits at a gate: the handle it names, whether it is a post, a `gwait`'s threshold, and the
verdict once it has one (11_gate.md R330, R342, R343). -/
structure GateWait where
  handle : Word
  post : Bool
  limit : Word
  verdict : Option GateVerdict
deriving DecidableEq, Repr

/-- What a hart slot is doing. -/
inductive HartRun where
  /-- No hart is resident. -/
  | absent
  /-- The hart runs. -/
  | running
  /-- In debug halt (13_context.md R391). -/
  | halted
  /-- Stopped in place for a record, not saved (16_device.md R431). -/
  | stopped
  /-- Stopped in place, its record answered (16_device.md R431). -/
  | answered
  /-- Pre-empted at its boundary, its save not yet written (13_context.md R377, R383). -/
  | preempted
deriving DecidableEq, Repr

/-- A hart's whole context, and what the engines keep for it. `asReturn` says that the context was saved by a trap that its
state already holds, so that it resumes as at trap return (04_memory_model.md R111); `dbg` is what a debug halt holds
(13_context.md R391). `target` and `unitTarget` are what the core's arbiters computed last, and `stallSince` and `unitSince`
when the hart last received a stall and a unit there (01_engines.md R26, 10_matrix.md R300); `lateStores` are the stores that
have timed out, oldest first, each with its queue (0 none) and address, and `late` is the address at which the hart's next load
or RMW there fails, and its cause (04_memory_model.md R141; 14_link.md R408); `leaving` are stalls that a `setvl` has given up,
each free once no VIQ entry below its number is left (07_lane.md R205); `unitsDue` says that the noted unit request is that of a
restore, not yet applied (10_matrix.md R322); `outer` is what a trap held, and its STATUS.HELD, while a record raised in its
handler holds the handler (05_hart.md R168; log 13); `gateWait` is what the hart waits for at a gate (11_gate.md R330);
`recordFn` is the function that a record of the hart concerns (12_command.md R368); `stepping` is 1 while a DEBUG STEP is still
to execute its instruction and 2 while its queues drain (13_context.md R392); `unperformed` are the scalar stores that have
executed and are not yet performed, oldest first, each with its address and the bytes it writes (04_memory_model.md R120; log
66); `wdogOwed` says that the fabric watchdog has
expired and no entry has raised it yet (08_gather_fabric.md R260). -/
structure Hart where
  run : HartRun
  asReturn : Bool
  s : Vector Word 64
  f : Vector Word 32
  v : Vector (BitVec 131072) 32
  m : Vector (BitVec 4096) 96
  c : Vector (BitVec 32768) 16
  vLive : BitVec 32
  mLive : BitVec 96
  cLive : BitVec 16
  pc : Word
  ld : BitVec 6
  status : Word
  cause : Word
  epc : Word
  ei : Word
  faddr : Word
  et : Word
  vl : Word
  grant : Word
  lease : Word
  vstat : Word
  ffmask : Word
  cmask : Word
  scope : Word
  rng : Word
  viq : List Entry
  piq : List Entry
  miq : List Entry
  srq : List RetEntry
  bq : List RetEntry
  nextSeq : Nat
  held : Held
  outer : Option (Held × Bool)
  dbg : Option Held
  streams : Vector Stream 16
  copies : Vector Token 16
  links : Vector Token 8
  fnodes : Vector FabricNode 8
  ftokens : List FabricToken
  bell : BitVec 32
  windows : Vector Window 8
  chain : Chain
  onodes : Vector OperandNode 16
  skip : BitVec 64
  skipV : Bool
  mreq : BitVec 2
  units : BitVec 3
  unitSince : Word
  unitTarget : BitVec 2
  stallSince : Word
  target : BitVec 5
  armed : Bool
  stepping : BitVec 2
  lateStores : List (BitVec 2 × Word)
  late : Option (Word × BitVec 8)
  unperformed : List (Word × List (Nat × Byte))
  leaving : List (Nat × Nat)
  unitsDue : Bool
  gateWait : Option GateWait
  wdogOwed : Bool
  fn : BitVec 8
  seq : BitVec 32
  index : BitVec 6
  handler : Word
  recordFn : BitVec 8
deriving DecidableEq, Repr

/-! ### Partitions, functions, tasks -/

/-- A partition's configuration (15_partitions.md R411); `raw` is the structure as last applied. -/
structure Partition where
  host : Bool
  vfs : BitVec 128
  pool : Word
  slots : BitVec 16
  sram0 : BitVec 96
  sram1 : BitVec 96
  c0 : BitVec 10
  clo0 : BitVec 10
  c1 : BitVec 10
  clo1 : BitVec 10
  tcm : Vector (BitVec 16) 16
  stalls : Vector (BitVec 16) 16
  banks : Vector (BitVec 256) 16
  raw : List Byte
deriving DecidableEq, Repr

/-- An export (15_partitions.md R416). -/
structure ExportRange where
  exporter : BitVec 5
  importer : BitVec 5
  base : Word
  bytes : Word
deriving DecidableEq, Repr

/-- Where a packet taken from a ring stands (12_command.md R351). -/
inductive PacketState where
  /-- Not yet processed. -/
  | fresh
  /-- An accepted LAUNCH, complete when its task ends. -/
  | launched (seq : BitVec 32)
  /-- A WAIT whose threshold is not yet met. -/
  | waiting
deriving DecidableEq, Repr

/-- A packet taken from a ring (12_command.md R352): its doublewords, and whether `launch` placed it. -/
structure Packet where
  dw : Vector Word 8
  state : PacketState
deriving DecidableEq, Repr

/-- A user-mode queue (12_command.md R349); `widx` counts the packets that `launch` has placed in a hart queue (R366). -/
structure UserQueue where
  num : BitVec 6
  ring : Word
  sz : BitVec 4
  ridxAddr : Word
  ridx : Word
  widx : Word
  hartKind : Bool
  pmin : BitVec 2
  stopped : Bool
  pending : List Packet
deriving DecidableEq, Repr

/-- An event queue (12_command.md R367); `faulted` while a record write is being retried. -/
structure EventQueue where
  ring : Word
  sz : BitVec 4
  vector : BitVec 11
  next : Nat
  faulted : Bool
deriving DecidableEq, Repr

/-- A function: its stage-1 root, queues and event queue (04_memory_model.md R106, 12_command.md R349, R367). -/
structure Func where
  root : Word
  queues : List UserQueue
  evq : Option EventQueue
deriving DecidableEq, Repr

/-- A record the Crier holds (12_command.md R367, R368), and the function it concerns. -/
structure HeldRecord where
  fn : BitVec 8
  dw : Vector Word 8
deriving DecidableEq, Repr

/-- A strip farm (12_command.md R363); `bad` says that its counter holds an uncorrectable error. -/
structure Farm where
  strips : Nat
  counter : Nat
  bad : Bool
deriving DecidableEq, Repr

/-- A tile region of a launch and its home (12_command.md R356, R358): core and first word. -/
structure TileRegion where
  base : Word
  bytes : Nat
  clus : Bool
  home : Option (BitVec 4 × Nat)
deriving DecidableEq, Repr

/-- A hart of a task that waits in a core's hart queue, and since when (01_engines.md R40, R41). -/
structure Waiter where
  seq : BitVec 32
  index : BitVec 6
  core : BitVec 4
  since : Word
deriving DecidableEq, Repr

/-- Where a hart of a task is. -/
inductive HartPlace where
  /-- Not placed. -/
  | unplaced
  /-- In the hart queue of a core (01_engines.md R40, R41). -/
  | queued (core : BitVec 4)
  /-- In a hart slot. -/
  | resident (slot : Fin 64)
  /-- In a save slot of its partition. -/
  | saved (idx : BitVec 16)
  /-- Ended. -/
  | ended
deriving DecidableEq, Repr

/-- A task (12_command.md R355 to R360). -/
structure Task where
  seq : BitVec 32
  fn : BitVec 8
  queue : BitVec 6
  part : BitVec 5
  prio : BitVec 2
  min : BitVec 5
  pref : BitVec 5
  entry : Word
  handler : Word
  args : Word
  signal : Word
  reply : Word
  status : BitVec 8
  why : BitVec 8
  start : Word
  finish : Word
  farms : Vector (Option Farm) 4
  tiles : List TileRegion
  cores : List (BitVec 4)
  places : List HartPlace
deriving DecidableEq, Repr

/-- The states of a save slot (13_context.md R379). -/
inductive SlotState where
  | saving
  | saved
  | savePending
  | restoring
  | restorePending
deriving DecidableEq, Repr

/-- What the context engine keeps of a save slot that is not FREE (13_context.md R378 to R385). `dest` is the hart slot a save
comes from or a restore goes to, `waiting` says that a record waits for RESUME (12_command.md R369), `since` is when the hart
began to wait for its restore, and `ctx` is the saved context; what the slot's layout has room for is read back from memory at
the restore (log 12). `got` lists what a pending restore has read, by offset (R384). -/
structure SaveSlot where
  part : BitVec 5
  idx : BitVec 16
  state : SlotState
  core : BitVec 4
  pend : Nat
  waiting : Bool
  since : Word
  dest : Fin 64
  ctx : Hart
  got : List (Nat × Word)
deriving DecidableEq, Repr

/-! ### Gates -/

/-- An access-list entry of a gate (11_gate.md R326). -/
structure GateEntry where
  valid : Bool
  part : BitVec 5
  post : Bool
  wait : Bool
  read : Bool
  te : Bool
  cap : BitVec 16
  rate : BitVec 16
  level : BitVec 24
deriving DecidableEq, Repr

/-- The states of a gate that is not FREE (11_gate.md R324). -/
inductive GateState where
  | active
  | frozen
  | revoked
deriving DecidableEq, Repr

/-- A gate that is not FREE (11_gate.md R325); `posts` lists the hart slots whose posts wait on the toll, in the order
in which they reached the gate (R327). -/
structure Gate where
  id : BitVec 12
  state : GateState
  ctr : Word
  pay : Word
  owner : BitVec 5
  list : List GateEntry
  posts : List (Fin 64)
deriving DecidableEq, Repr

/-- A slot of a gate-handle table (11_gate.md R328); `stale` once its gate has been FREE since it was opened. -/
structure HandleSlot where
  isOpen : Bool
  gate : BitVec 12
  rights : BitVec 3
  gen : BitVec 24
  stale : Bool
deriving DecidableEq, Repr

/-! ### The package -/

/-- A cached translation of 8 KiB of a page (04_memory_model.md R112): whose it is, where they lie, where they go, its
rights, and whether D was set. `span` and `span2` are the lowest address bit of the stage-1 and of the stage-2 leaf that gave
it, and so the sizes of their pages (R107). -/
structure CachedPage where
  fn : BitVec 8
  part : BitVec 5
  host : Bool
  task : BitVec 32
  page : Nat
  gpage : Nat
  loc : Nat
  tile : Bool
  r : Bool
  w : Bool
  x : Bool
  dirty : Bool
  span : Nat
  span2 : Nat
deriving DecidableEq, Repr

/-- The counters of 16_device.md R428. -/
structure Counters where
  ceSram : Word
  ceHbm : Word
  ceGate : Word
  ue : Word
  bell : Word
  power : Word
  tmax : BitVec 32
  slotAborts : BitVec 16
  trips : BitVec 16
  steps : BitVec 16
deriving DecidableEq, Repr

/-- What the package has sent to the outside, newest last. -/
inductive Sent where
  /-- An MSI-X message of a function (12_command.md R367). -/
  | msix (fn : BitVec 8) (vector : BitVec 11)
  /-- The answer to a peer's request, with the old value of an RMW (14_link.md R401); none when it is refused. -/
  | peer (answer : Option Word)
  /-- The data of a CXL.mem read (15_partitions.md R420). -/
  | cxl (data : Word)
  /-- A configuration request answered, or answered with Retry Status (16_device.md R424). -/
  | config (retry : Bool)
  /-- An uncorrectable internal error reported through AER (16_device.md R426). -/
  | aer
  /-- The reply of a command that came from the function directly (log 6). -/
  | reply (fn : BitVec 8) (status : BitVec 8) (value : Word)
  /-- What a read of a function's BAR0 gives (12_command.md R348). -/
  | bar (fn : BitVec 8) (value : Word)
  /-- What a read of the boot configuration gives (16_device.md R425). -/
  | boot (value : Word)
deriving DecidableEq, Repr

/-- What may come next from outside a hart's instruction stream (log 1). -/
inductive Input where
  /-- A row of the table: an event of an engine, of the Crier or of the outside. -/
  | event (i : Instr)
  /-- The hart of this slot moves next. -/
  | turn (slot : Fin 64)
  /-- The granule that holds this location takes an uncorrectable error (04_memory_model.md R140). -/
  | corrupt (loc : Nat)
  /-- A soft error is corrected and counted: 0 on-package SRAM, 1 HBM4E, 2 gate memory (16_device.md R426). -/
  | corrected (kind : BitVec 2)
  /-- The highest die temperature in m°C and the package power in mW (16_device.md R428). -/
  | reading (tmax : BitVec 32) (power : Word)
  /-- The host or a peer writes a byte of its own memory (04_memory_model.md R101). -/
  | outsideStore (loc : Nat) (b : Byte)
  /-- The engines of this slot's hart take entries, and its instruction stream stands still (01_engines.md R13). -/
  | engines (slot : Fin 64)
  /-- The hart of this slot moves next, and its engines take no entry in that turn (01_engines.md R13). -/
  | alone (slot : Fin 64)
  /-- As `alone`, and a scalar store of that turn is performed later (04_memory_model.md R120). -/
  | late (slot : Fin 64)
  /-- The head of one queue of this slot's hart, 1 VIQ, 2 PIQ, 3 MIQ, moves, and nothing else does (04_memory_model.md R120). -/
  | queue (slot : Fin 64) (q : BitVec 2)
  /-- The bell lets a blocked request of this slot's fabric work through the port to the cluster interconnect
  (08_gather_fabric.md R258, R259). -/
  | portBell (slot : Fin 64)
  /-- A peer refuses a request of this slot's hart at an address (14_link.md R408). -/
  | peerRefusal (slot : Fin 64) (addr : Word)
  /-- The counter of a farm of a task takes an uncorrectable error (12_command.md R363). -/
  | farmError (seq : BitVec 32) (f : BitVec 2)
  /-- A transfer over a lane link passes its check (14_link.md R398). -/
  | laneTransfer (core : BitVec 4) (port : BitVec 2)
  /-- Whether the ROM matches its digest at the next bring-up (16_device.md R424). -/
  | rom (good : Bool)
  /-- A read of 2^size bytes of a function's BAR0 (12_command.md R348). -/
  | barRead (fn : BitVec 8) (size : BitVec 2) (off : BitVec 16)
  /-- A write of 2^size bytes of a function's BAR0 (12_command.md R348). -/
  | barWrite (fn : BitVec 8) (size : BitVec 2) (off : BitVec 16)
  /-- A read of a doubleword of the boot configuration (16_device.md R425). -/
  | bootRead (i : Nat)
deriving DecidableEq, Repr

/-- What one entry or transfer keeps while it is worked on, and nothing keeps between steps: the one translation that it uses
of each page (04_memory_model.md R112), and its stores into granules that hold an uncorrectable error, each with the address
it is recorded under and the bits of the byte that it writes (04_memory_model.md R115, R140). -/
structure Work where
  pins : List CachedPage
  stores : List (Word × Nat × Byte × Byte)
deriving DecidableEq, Repr

/-- The package. `waiters` lists the harts that wait for a hart slot, in order of arrival (01_engines.md R41); `pfRecords` names
the harts whose last record went to the PF's event queue for want of one of their function, as task and hart (12_command.md
R367); `served` is the queue served last, as 64 × function + number (12_command.md R351); `romGood` says that the ROM matches
its digest (16_device.md R424). `engines` says that the engines take entries in this step (log 46), `storesWait` that a scalar
store of this step is performed later (log 66), and `work` is there only within a step. -/
structure State where
  time : Word
  mem : List Host.Cell
  ecc : List Nat
  tlb : List CachedPage
  harts : Vector Hart 64
  cur : Fin 64
  agenda : List Input
  free : Nat
  parts : Vector Partition 24
  exports : List ExportRange
  fenced : List (BitVec 5)
  roots2 : Vector Word 24
  funcs : Vector Func 129
  tasks : List Task
  waiters : List Waiter
  nextTask : BitVec 32
  saves : List SaveSlot
  records : List HeldRecord
  pfRecords : List (BitVec 32 × BitVec 6)
  served : Nat
  gates : List Gate
  handles : Vector (Vector HandleSlot 256) 24
  stallCeil : Vector Nat 16
  unitCeil : Vector Nat 16
  power : Nat
  thermal : Nat
  watchdog : Nat
  timeout : Nat
  counters : Counters
  pkg : BitVec 11
  routes : List (BitVec 11 × BitVec 12)
  staged : Option (List Word)
  ubeacUp : BitVec 12
  laneUp : BitVec 64
  laneReplays : Vector Nat 64
  up : Bool
  stopped : Bool
  romGood : Bool
  engines : Bool
  storesWait : Bool
  work : Option Work
  sent : List Sent
deriving DecidableEq, Repr

/-! ### Reset -/

/-- Nothing held. -/
def Held.empty : Held := ⟨0, 0, [], [], [], [], [], 0, 0⟩

/-- An unbound stream (12_command.md R360). -/
def Stream.reset : Stream := ⟨.unbound, Vector.replicate 5 0, 0, 0, 0, [], 0⟩

/-- A DONE token (06_port.md R196). -/
def Token.reset : Token := ⟨.done, 0, 0, 0, 0, 0, 0, 0, 0⟩

/-- An IDLE fabric node (12_command.md R360). -/
def FabricNode.reset : FabricNode := ⟨.idle, Vector.replicate 9 0, 0, [], 0, none, false, none, 0, false, 0⟩

/-- A closed window (12_command.md R360). -/
def Window.reset : Window := ⟨false, 0, 0, 0, 0, []⟩

/-- No chain (09_chain.md R262). -/
def Chain.reset : Chain :=
  { state := .none, words := [], n := 0, l := 0, et := 0, g0 := 0, p := [], edges := [], breaks := 0, reforms := 0,
    cause := 0, slot := 0, convoys := 0, pin := false, scope := 0, ran := false, stalls := 0, lent := [], links := 0, heldBy := none,
    formedAt := 0, plan := [], classed := [], reformed := false, notBefore := 0, brokeAt := [], occs := [], units := 0, q := Vector.replicate 32 [] }

/-- An IDLE operand node (10_matrix.md R314). -/
def OperandNode.reset : OperandNode := ⟨.idle, Vector.replicate 8 0, 0, 0, 0, none, none⟩

/-- A hart slot without a hart. Registers whose reset value the files do not give are zero (log 2). -/
def Hart.reset : Hart :=
  { run := .absent, asReturn := false, s := Vector.replicate 64 0, f := Vector.replicate 32 0, v := Vector.replicate 32 0,
    m := Vector.replicate 96 0, c := Vector.replicate 16 0, vLive := 0, mLive := 0, cLive := 0, pc := 0, ld := 0,
    status := 0, cause := 0, epc := 0, ei := 0, faddr := 0, et := 0, vl := 0, grant := 0, lease := 0, vstat := 0,
    ffmask := 0, cmask := 0, scope := 0, rng := 0, viq := [], piq := [], miq := [], srq := [], bq := [], nextSeq := 0,
    held := .empty, outer := none, dbg := none, streams := Vector.replicate 16 .reset, copies := Vector.replicate 16 .reset,
    links := Vector.replicate 8 .reset, fnodes := Vector.replicate 8 .reset, ftokens := [], bell := 0,
    windows := Vector.replicate 8 .reset, chain := .reset, onodes := Vector.replicate 16 .reset, skip := 0,
    skipV := false, mreq := 0, units := 0, unitSince := 0, unitTarget := 0, stallSince := 0, target := 0, armed := false, stepping := 0,
    lateStores := [], late := none, unperformed := [], leaving := [], unitsDue := false, gateWait := none, wdogOwed := false, fn := 0, seq := 0, index := 0, handler := 0, recordFn := 0 }

/-- The all-zero configuration (16_device.md R424). -/
def Partition.reset : Partition :=
  { host := false, vfs := 0, pool := 0, slots := 0, sram0 := 0, sram1 := 0, c0 := 0, clo0 := 0, c1 := 0, clo1 := 0,
    tcm := Vector.replicate 16 0, stalls := Vector.replicate 16 0, banks := Vector.replicate 16 0,
    raw := List.replicate 768 0 }

/-- A function without queues (16_device.md R424). -/
def Func.reset : Func := ⟨0, [], none⟩

/-- A free handle slot with GEN 0 (11_gate.md R328). -/
def HandleSlot.reset : HandleSlot := ⟨false, 0, 0, 0, false⟩

/-- Every counter zero (16_device.md R424 step 6). -/
def Counters.reset : Counters := ⟨0, 0, 0, 0, 0, 0, 0, 0, 0, 0⟩

/-- The package right after reset, with no boot configuration present (16_device.md R424, R425): memory zero, every
partition all-zero, every gate FREE, no queue, task, export or slot, the limits at 1,800 W, 2^20 and 2^24, every port
and lane link trained. The ceilings follow from 1,800 W (R430). -/
def State.reset : State :=
  { time := 0, mem := [], ecc := [], tlb := [], harts := Vector.replicate 64 .reset, cur := 0, agenda := [], free := 0,
    parts := Vector.replicate 24 .reset, exports := [], fenced := [], roots2 := Vector.replicate 24 0,
    funcs := Vector.replicate 129 .reset, tasks := [], waiters := [], nextTask := 0, saves := [], records := [], pfRecords := [], served := 0, gates := [],
    handles := Vector.replicate 24 (Vector.replicate 256 .reset), stallCeil := Vector.replicate 16 16,
    unitCeil := Vector.replicate 16 3, power := 1800, thermal := 1800, watchdog := 2 ^ 20, timeout := 2 ^ 24,
    counters := .reset, pkg := 0, routes := [], staged := none, ubeacUp := BitVec.allOnes 12,
    laneUp := BitVec.allOnes 64, laneReplays := Vector.replicate 64 0, up := true, stopped := false,
    romGood := true, engines := true, storesWait := false, work := none, sent := [] }

/-- Why the machine stops. -/
inductive Fault where
  /-- Raised by `step` when the package has stopped, on a ROM mismatch (16_device.md R424 step 1) or an uncorrectable
  error no partition owns (R426), and no input waits: only a package reset, an input, goes on. Safe: the package does
  nothing in that state. -/
  | packageStopped
deriving DecidableEq, Repr

/-- Why an instruction has no meaning here. -/
inductive Refusal where
  /-- Raised by `exec` for an instruction that is not modelled yet. Safe. -/
  | notModelled (mnemonic : String)
deriving DecidableEq, Repr

end Sys2Proof.Machine
end

