-- ==== Sys2Proof/Machine/Mem.lean ====
section
/-!
DEFINITION. Memory: the canonical list of bytes, the physical map, ownership, the two-stage translation, and accesses
of one element (04_memory_model.md R101 to R115, R140; 06_port.md R182 to R184; 14_link.md R399; 15_partitions.md R411
to R416).
-/

namespace Sys2Proof.Machine

/-! ### Bits -/

/-- A number as a word. -/
abbrev word (n : Nat) : Word := BitVec.ofNat 64 n

/-- Changing one place of a vector; a place outside it changes nothing. -/
def modAt (v : Vector α n) (i : Nat) (f : α → α) : Vector α n := if h : i < n then v.set i (f v[i]) else v

/-- The `n` bits of a word from bit `lo` up, as a number (00_scope.md R1). -/
def bits (w : Word) (lo n : Nat) : Nat := w.toNat / 2 ^ lo % 2 ^ n

/-- A word sign-extended from its low `n` bits (00_scope.md R5). -/
def sextWord (n : Nat) (x : Nat) : Word := BitVec.ofInt 64 (if x % 2 ^ n < 2 ^ (n - 1) then (x % 2 ^ n : Int) else (x % 2 ^ n : Int) - 2 ^ n)

/-- Putting an item into a sorted list, before the first it may stand before. -/
def insertBy (le : α → α → Bool) (x : α) : List α → List α
  | [] => [x]
  | y :: ys => if le x y then x :: y :: ys else y :: insertBy le x ys

/-- A list in order; items that may stand either way keep their order. -/
def sortBy (le : α → α → Bool) : List α → List α
  | [] => []
  | x :: xs => insertBy le x (sortBy le xs)

/-- The bytes of a value, lowest address first (00_scope.md R1). -/
def toBytes : Nat → Nat → List Byte
  | 0, _ => []
  | n + 1, x => BitVec.ofNat 8 x :: toBytes n (x / 256)

/-- The value of bytes, lowest address first (00_scope.md R1). -/
def ofBytes : List Byte → Nat
  | [] => 0
  | b :: bs => b.toNat + 256 * ofBytes bs

/-! ### The list of bytes -/

/-- Memory: locations and their bytes, in one canonical form. -/
abbrev Memory := List Host.Cell

/-- The canonical form: locations rise strictly and no byte is what an unlisted location reads as. -/
abbrev Memory.wf (m : Memory) : Prop := m.Pairwise (fun x y => x.1 < y.1) ∧ ∀ c ∈ m, c.2 ≠ 0

/-- A byte: zero where nothing is listed (16_device.md R424 step 3; log 3). -/
def Memory.read : Memory → Nat → Byte
  | [], _ => 0
  | (k, b) :: rest, a => if k = a then b else Memory.read rest a

/-- Writing a byte, keeping the canonical form. -/
def Memory.write : Memory → Nat → Byte → Memory
  | [], a, b => if b = 0 then [] else [(a, b)]
  | (k, c) :: rest, a, b =>
    if a < k then (if b = 0 then (k, c) :: rest else (a, b) :: (k, c) :: rest)
    else if a = k then (if b = 0 then rest else (a, b) :: rest)
    else (k, c) :: Memory.write rest a b

/-! ### The physical map -/

/-- Where a location lies (04_memory_model.md R101, R104): for a peer window, the package and its address. -/
inductive Level where
  | hbm (die off : Nat)
  | sram (die off : Nat)
  | tcm (core off : Nat)
  | peer (pkg off : Nat)
  | host
  | tile (core : Nat)
  | none
deriving DecidableEq, Repr

/-- Bytes that one pseudo-channel gives (15_partitions.md R413). -/
def channelBytes : Nat := 0x15554000

/-- A local address below 2^40 (04_memory_model.md R104, 15_partitions.md R413). -/
def localLevel (a : Nat) : Level :=
  if a < 0x3FFFC00000 then .hbm 0 a
  else if 0x4000000000 ≤ a ∧ a < 0x7FFFC00000 then .hbm 1 (a - 0x4000000000)
  else if 0x8000000000 ≤ a ∧ a < 0x8006000000 then .sram 0 (a - 0x8000000000)
  else if 0x8010000000 ≤ a ∧ a < 0x8016000000 then .sram 1 (a - 0x8010000000)
  else if 0x8100000000 ≤ a ∧ a < 0x8100800000 then .tcm ((a - 0x8100000000) / 0x80000) ((a - 0x8100000000) % 0x80000)
  else .none

/-- The first location of tile memory, which has no physical address (04_memory_model.md R105). -/
def tileBase : Nat := 2 ^ 52

/-- The location of a byte of tile memory (06_port.md R183): 256 banks of 24 KiB on each core. -/
def tileLoc (core bank row byte : Nat) : Nat := tileBase + core * 0x600000 + bank * 0x6000 + row * 4 + byte

/-- Where a location lies. -/
def levelOf (a : Nat) : Level :=
  if a < 2 ^ 40 then localLevel a
  else if a < 2 ^ 48 then .none
  else if a < 2 ^ 51 then .peer ((a - 2 ^ 48) / 2 ^ 40) ((a - 2 ^ 48) % 2 ^ 40)
  else if a < 2 ^ 52 then .host
  else if a < tileBase + 16 * 0x600000 then .tile ((a - tileBase) / 0x600000)
  else .none

/-- The ECC granule that holds a location: its first location and its size (04_memory_model.md R140). Host memory is
the host's own. -/
def granuleOf (a : Nat) : Option (Nat × Nat) :=
  match levelOf a with
  | .tile _ => some (a / 4 * 4, 4)
  | .tcm _ _ => some (a / 8 * 8, 8)
  | .hbm _ _ | .sram _ _ | .peer _ _ => some (a / 32 * 32, 32)
  | .host | .none => none

/-- The ports that lead to a package, of those that are up (14_link.md R399). -/
def State.portsTo (s : State) (pkg : Nat) : BitVec 12 :=
  match s.routes.find? (fun r => r.1.toNat == pkg) with
  | some r => r.2 &&& s.ubeacUp
  | none => 0

/-- Whether the route table names the package (14_link.md R399): where it gives it no port, the package is mapped, and no port
leads there (R408; log 64). -/
def State.routed (s : State) (pkg : Nat) : Bool := s.routes.any (fun r => r.1.toNat == pkg)

/-! ### Ownership -/

/-- The channels of a die that a partition owns: count and first (15_partitions.md R411). -/
def Partition.channels (p : Partition) (die : Nat) : Nat × Nat :=
  if die = 0 then (p.c0.toNat, p.clo0.toNat) else (p.c1.toNat, p.clo1.toNat)

/-- Where offset `off` of a die lies in the run of `n` channels from `a` on: its channel, the row there and the byte, in blocks of
256 bytes that go round the run's channels (15_partitions.md R413). -/
def runPlace (n a off : Nat) : Nat × Nat × Nat :=
  let q := (off - a * channelBytes) / 256
  (a + q % n, q / n, off % 256)

/-- Whether a partition owns a location of HBM4E, shared SRAM or TCM (15_partitions.md R411, R413, R415). -/
def Partition.owns (p : Partition) (l : Level) : Bool :=
  match l with
  | .hbm die off =>
    let (c, clo) := p.channels die
    clo * channelBytes ≤ off && off < (clo + c) * channelBytes
  | .sram die off => (if die = 0 then p.sram0 else p.sram1).getLsbD (off / 0x100000)
  | .tcm core off => (p.tcm[core]?.getD 0).getLsbD (off / 0x8000)
  | .tile _ | .peer _ _ | .host | .none => false

/-- Where offset `off` of a die's HBM4E lies: in the run of the partition that owns it, or in its own channel, which is a run where no
partition owns it; the top of a die's range is in no channel (15_partitions.md R413; log 51). -/
def State.hbmPlace (s : State) (die off : Nat) : Option (Nat × Nat × Nat) :=
  if 768 * channelBytes ≤ off then none
  else match s.parts.toList.find? (fun p => p.owns (.hbm die off)) with
    | some p => some (runPlace (p.channels die).1 (p.channels die).2 off)
    | none => some (runPlace 1 (off / channelBytes) off)

/-- The bank subset of a partition on a core, ascending (06_port.md R183, 15_partitions.md R411). -/
def Partition.subset (p : Partition) (core : Nat) : List Nat :=
  (List.range 256).filter (fun k => (p.banks[core]?.getD 0).getLsbD k)

/-- A partition by number. -/
def State.part (s : State) (p : BitVec 5) : Option Partition := s.parts[p.toNat]?

/-- The partition that owns a location (15_partitions.md R415). -/
def State.ownerOf (s : State) (a : Nat) : Option (BitVec 5) :=
  match levelOf a with
  | .tile core =>
    let bank := (a - tileBase) % 0x600000 / 0x6000
    ((List.range 24).find? (fun p => ((s.parts[p]?.getD .reset).banks[core]?.getD 0).getLsbD bank)).map (BitVec.ofNat 5)
  | l => ((List.range 24).find? (fun p => (s.parts[p]?.getD .reset).owns l)).map (BitVec.ofNat 5)

/-- The partition of a function (15_partitions.md R411, R417); the PF belongs to the host-mode partition (R414). -/
def State.partOfFn (s : State) (fn : BitVec 8) : Option (BitVec 5) :=
  ((List.range 24).find? (fun p =>
    let q := s.parts[p]?.getD .reset
    if fn = 0 then q.host else q.vfs.getLsbD (fn.toNat - 1))).map (BitVec.ofNat 5)

/-! ### Agents -/

/-- Who makes an access (04_memory_model.md R106, R116): host or guest mode, the partition, the core of a hart's agent,
the function whose stage-1 root applies, and the launch whose tile regions it may reach. -/
structure Agent where
  host : Bool
  part : BitVec 5
  core : Option (BitVec 4)
  fn : BitVec 8
  task : Option (BitVec 32)
deriving DecidableEq, Repr

/-- What an access needs (04_memory_model.md R109); a probe checks the rights of a store or an atomic and leaves D alone
(06_port.md R178). -/
inductive Access where
  | fetch
  | load
  | store
  | atomic
  | probeStore
  | probeAtomic
deriving DecidableEq, Repr

/-- Whether an access writes. -/
def Access.writes : Access → Bool
  | .store | .atomic => true
  | .fetch | .load | .probeStore | .probeAtomic => false

/-- A fault of an access: cause code (05_hart.md R149), FADDR, and the guest-physical address of R111, or for `E_ECC` the
location whose granule holds the error. -/
structure Fail where
  code : BitVec 8
  addr : Word
  gpa : Word
deriving DecidableEq, Repr

/-- A computation over the package that may meet a fault of an access. -/
abbrev Acc := EStateM Fail State

/-- The cause codes (05_hart.md R149). -/
def eIllegal : BitVec 8 := 0x01
/-- Misaligned access. -/
def eAlign : BitVec 8 := 0x02
/-- A failed check at issue. -/
def eOperand : BitVec 8 := 0x03
/-- `setvl` with no stall. -/
def eLease : BitVec 8 := 0x04
/-- No matching return entry. -/
def eQueue : BitVec 8 := 0x05
/-- `trap`. -/
def eTrap : BitVec 8 := 0x06
/-- `brk`. -/
def eBreak : BitVec 8 := 0x07
/-- RMW on host memory. -/
def eAtomic : BitVec 8 := 0x08
/-- Request timeout. -/
def eMemTimeout : BitVec 8 := 0x09
/-- Malformed sparse metadata. -/
def eMeta : BitVec 8 := 0x0A
/-- A gate right is missing. -/
def eGateAccess : BitVec 8 := 0x0B
/-- The gate is revoked. -/
def eGateRevoked : BitVec 8 := 0x0C
/-- The gate handle is not valid. -/
def eGateHandle : BitVec 8 := 0x0D
/-- The fabric watchdog. -/
def eWatchdog : BitVec 8 := 0x0E
/-- A link fault. -/
def eLink : BitVec 8 := 0x0F
/-- A stage-1 fault. -/
def ePage : BitVec 8 := 0x10
/-- A stage-2 fault. -/
def eHpage : BitVec 8 := 0x11
/-- Uncorrectable data. -/
def eEcc : BitVec 8 := 0x12
/-- A trap inside a handler. -/
def eDouble : BitVec 8 := 0x13

/-- Whether a location is mapped for an agent (04_memory_model.md R104, R109; 14_link.md R399; 15_partitions.md R414). -/
def State.mapped (s : State) (w : Agent) (a : Nat) : Bool :=
  let exported := s.exports.any (fun e => e.importer == w.part && e.base.toNat ≤ a && a < e.base.toNat + e.bytes.toNat)
  match levelOf a with
  | .hbm die off => w.host || ((s.part w.part).getD .reset).owns (.hbm die off) || exported
  | .sram die off => w.host || ((s.part w.part).getD .reset).owns (.sram die off) || exported
  | .tcm core off => (w.core.map BitVec.toNat == some core) && (w.host || ((s.part w.part).getD .reset).owns (.tcm core off))
  | .peer pkg off =>
    pkg != s.pkg.toNat && s.routed pkg && (match localLevel off with | .tcm _ _ => false | _ => true)
  | .host => true
  | .tile _ | .none => false

/-! ### Records -/

/-- A record (12_command.md R368). -/
def mkRecord (fn : BitVec 8) (seq : BitVec 32) (part : BitVec 5) (queue : BitVec 4) (src : BitVec 4) (code : BitVec 8)
    (kind : BitVec 7) (core : BitVec 4) (index : BitVec 6) (epc faddr ei d0 d1 d2 : Word) : HeldRecord :=
  { fn := fn,
    dw := #v[(seq ++ 0#3 ++ part ++ queue ++ src ++ code ++ kind ++ 1#1 : BitVec 64),
      (0#54 ++ core ++ index : BitVec 64), epc, faddr, ei, d0, d1, d2] }

/-- Posting a record: the Crier holds it until RECORD_DELIVER writes it to a ring (12_command.md R367). -/
def State.post (s : State) (r : HeldRecord) : State := { s with records := s.records ++ [r] }

/-- An uncorrectable error without a requesting element (04_memory_model.md R140): the record to the owning function, and the
fencing of the partition that owns the data. Data of this package that no partition owns stops the package (16_device.md R426);
of a peer's data the record names no partition, and what the peer fences is the peer's (14_link.md R408; log 67). -/
def State.eccRecord (s : State) (fn : BitVec 8) (a : Nat) (addr : Word) : State :=
  let record (p : BitVec 5) : State := s.post (mkRecord fn 0 p 0 0 eEcc 4 0 0 0 0 0 addr 0 0)
  match s.ownerOf a, levelOf a with
  | some p, _ => { record p with fenced := if s.fenced.contains p then s.fenced else p :: s.fenced }
  | none, .peer _ _ => record 31
  | none, _ => { s with stopped := true }

/-! ### Raw accesses -/

/-- Whether a location's granule holds an uncorrectable error. -/
def State.badAt (s : State) (a : Nat) : Bool :=
  match granuleOf a with
  | some (g, _) => s.ecc.contains g
  | none => false

/-- Counting an uncorrectable error (16_device.md R428). -/
def State.countUe (s : State) : State :=
  { s with counters := { s.counters with ue := if s.counters.ue = BitVec.allOnes 64 then s.counters.ue else s.counters.ue + 1 } }

/-- The bytes at locations, or `E_ECC` for the request at `addr`: an element with a bad byte anywhere gives its own address
(04_memory_model.md R140; log 61). -/
def readLocs (locs : List Nat) (addr : Word) : Acc (List Byte) := fun s =>
  match locs.find? s.badAt with
  | some a => .error ⟨eEcc, addr, word a⟩ s.countUe
  | none => .ok (locs.map (Memory.read s.mem)) s

/-- Whether the locations cover the whole granule. -/
def coversGranule (locs : List Nat) (g : Nat × Nat) : Bool := (List.range g.2).all (fun i => locs.contains (g.1 + i))

/-- Writing one byte at a location. -/
def State.setByte (s : State) (a : Nat) (b : Byte) : State := { s with mem := Memory.write s.mem a b }

/-- Writing bytes at locations (04_memory_model.md R140): a full overwrite of a bad granule clears it, and a partial
store into one writes none of its bytes there and is recorded. While an entry is worked on, its stores into bad granules
are kept, and are judged together at its end. -/
def State.writeLocs (s : State) (fn : BitVec 8) (addr : Word) (cells : List (Nat × Byte)) : State :=
  let locs := cells.map Prod.fst
  let bad := cells.filter (fun c => s.badAt c.1)
  match bad with
  | [] => cells.foldl (fun s c => s.setByte c.1 c.2) s
  | (a, _) :: _ => match s.work with
   | some k =>
    { cells.foldl (fun t c => if s.badAt c.1 then t else t.setByte c.1 c.2) s with
      work := some { k with stores := k.stores ++ bad.map (fun c => (addr, c.1, c.2, 0xFF)) } }
   | none =>
    let full (a : Nat) : Bool := match granuleOf a with | some g => coversGranule locs g | none => true
    let s' := cells.foldl (fun t c => if s.badAt c.1 && !full c.1 then t else t.setByte c.1 c.2) s
    let s' := { s' with ecc := s'.ecc.filter (fun g => !(locs.contains g && full g)) }
    if bad.any (fun c => !full c.1) then s'.countUe.eccRecord fn a addr else s'

/-- Writing the half of a byte that `mask` names (04_memory_model.md R115): the other half keeps its bits, and in a granule that
holds an uncorrectable error the half counts as a partial store (R140), judged with the entry's other stores at its end. -/
def State.writeHalf (s : State) (fn : BitVec 8) (addr : Word) (a : Nat) (mask x : Byte) : State :=
  if s.badAt a then match s.work with
    | some k => { s with work := some { k with stores := k.stores ++ [(addr, a, x, mask)] } }
    | none => s.countUe.eccRecord fn a addr
  else s.setByte a (Memory.read s.mem a &&& ~~~mask ||| x &&& mask)

/-- The byte that stores to a location in turn leave, and the bits of it that they write. -/
def storedByte (xs : List (Word × Nat × Byte × Byte)) (a : Nat) : Byte × Byte :=
  (xs.filter (fun x => x.2.1 == a)).foldl (fun (b, m) x => (b &&& ~~~x.2.2.2 ||| x.2.2.1 &&& x.2.2.2, m ||| x.2.2.2)) (0, 0)

/-- The end of an entry or a transfer: what it stored into each bad granule is judged as one store, which writes the granule
where it has written every bit of it, and its translations are dropped (04_memory_model.md R112, R140). -/
def State.closeWork (s : State) : State :=
  match s.work with
  | none => s
  | some k =>
    let granules := (k.stores.filterMap (fun x => granuleOf x.2.1)).eraseDups
    granules.foldl (fun s g =>
      let xs := k.stores.filter (fun x => granuleOf x.2.1 == some g)
      let addr := (xs.head?.map (·.1)).getD 0
      let cells := (List.range g.2).map (fun i => (g.1 + i, storedByte xs (g.1 + i)))
      if cells.all (fun c => c.2.2 == 0xFF) then s.writeLocs s.harts[s.cur].fn addr (cells.map (fun c => (c.1, c.2.1)))
      else s.countUe.eccRecord s.harts[s.cur].fn ((xs.head?.map (·.2.1)).getD g.1) addr) { s with work := none }

/-- Working as one entry or transfer: one translation serves each page, and stores into a bad granule count together
(04_memory_model.md R112, R140). -/
def working (m : EStateM ε State α) : EStateM ε State α := fun s =>
  if s.work.isSome then m s
  else match m { s with work := some ⟨[], []⟩ } with
    | .ok x s => .ok x s.closeWork
    | .error e s => .error e s.closeWork

/-- Working on a transfer, as `working` does. -/
def workingOn (f : State → α × State) (s : State) : α × State :=
  if s.work.isSome then f s
  else
    let (x, s) := f { s with work := some ⟨[], []⟩ }
    (x, s.closeWork)

/-! ### Translation -/

/-- A level of the walk: its lowest address bit, its width, and whether a leaf or a pointer is allowed
(04_memory_model.md R107). -/
structure WalkLevel where
  lo : Nat
  width : Nat
  leaf : Bool
  ptr : Bool
deriving DecidableEq, Repr

/-- The five levels (04_memory_model.md R107). -/
def walkLevels : List WalkLevel :=
  [⟨43, 13, false, true⟩, ⟨30, 13, true, true⟩, ⟨25, 5, true, true⟩, ⟨19, 6, true, true⟩, ⟨13, 6, true, false⟩]

/-- ADDR of a table entry: bits [51:8] (04_memory_model.md R108). -/
def pteAddr (e : Word) : Nat := bits e 8 44 * 256

/-- Whether a table entry is a leaf: any of R, W, X (04_memory_model.md R108). -/
def pteLeaf (e : Word) : Bool := bits e 1 3 != 0

/-- Whether a leaf is of the tile class. -/
def pteTile (e : Word) : Bool := bits e 4 2 == 1

/-- The checks on one entry (04_memory_model.md R108, R109): `next` is the size of the next table. -/
def pteOk (e : Word) (l : WalkLevel) (next : Nat) (stage1 : Bool) : Bool :=
  e.getLsbD 0 && bits e 52 12 == 0 &&
  if pteLeaf e then
    l.leaf && !(e.getLsbD 2 && !e.getLsbD 1) &&
    (if bits e 4 2 == 0 then pteAddr e % 2 ^ l.lo == 0
     else pteTile e && stage1 && l.lo ≤ 19 && !e.getLsbD 3 && pteAddr e == 0)
  else l.ptr && bits e 4 4 == 0 && pteAddr e % next == 0

/-- Whether a leaf gives an access its right (04_memory_model.md R109). -/
def pteRight (e : Word) : Access → Bool
  | .fetch => e.getLsbD 3
  | .load => e.getLsbD 1
  | .store | .probeStore => e.getLsbD 2
  | .atomic | .probeAtomic => e.getLsbD 1 && e.getLsbD 2

/-- The size of the table a pointer of this level names. -/
def nextTable : List WalkLevel → Nat
  | l :: _ => 8 * 2 ^ l.width
  | [] => 1

/-- The A and D bits an access sets (04_memory_model.md R110). -/
def adBits (acc : Access) : Word := if acc.writes then 0xC0 else 0x40

/-- The eight locations of a doubleword. -/
def dwLocs (a : Nat) : List Nat := (List.range 8).map (a + ·)

/-- Whether the link can serve a location (14_link.md R408). -/
def State.linkServes (s : State) (a : Nat) : Bool :=
  match levelOf a with
  | .peer pkg off => s.portsTo pkg != 0 && localLevel off != .none
  | _ => true

/-- Reading a table entry at a location, which must be mapped for the agent, whoever owns it (04_memory_model.md R104,
R109). -/
def readPte (w : Agent) (a : Nat) (f : Fail) : Acc Word := fun s =>
  if !s.mapped { w with host := true } a then .error f s
  else if !s.linkServes a then .error ⟨eLink, f.addr, 0⟩ s
  else match readLocs (dwLocs a) f.addr s with
    | .ok bs s => .ok (word (ofBytes bs)) s
    | .error e s => .error e s

/-- Setting A, and D for a write (04_memory_model.md R110). -/
def setAd (fn : BitVec 8) (a : Nat) (e : Word) (acc : Access) : Acc Unit := fun s =>
  if e &&& adBits acc = adBits acc then .ok () s
  else .ok () (s.writeLocs fn (word a) ((dwLocs a).zip (toBytes 8 (e ||| adBits acc).toNat)))

/-- A stage-2 walk of a guest-physical address (04_memory_model.md R106 to R110): where it leads, and the lowest address bit of
the leaf; `f` is the fault it raises. -/
def walk2 (w : Agent) (acc : Access) (gpa : Nat) (f : Fail) : List WalkLevel → Nat → Acc (Nat × Nat)
  | [], _ => throw f
  | l :: rest, table => do
    let loc := table + 8 * (gpa / 2 ^ l.lo % 2 ^ l.width)
    let e ← readPte w loc f
    if !pteOk e l (nextTable rest) false then throw f
    else if pteLeaf e then
      if !pteRight e acc then throw f
      else do
        setAd w.fn loc e acc
        pure (pteAddr e + gpa % 2 ^ l.lo, l.lo)
    else walk2 w acc gpa f rest (pteAddr e)

/-- A guest-physical address to a physical one (04_memory_model.md R106, R107, R111; 15_partitions.md R414): its bits from
52 up index nothing. -/
def stage2 (w : Agent) (acc : Access) (va : Word) (gpa : Nat) : Acc (Nat × Nat) := do
  let f : Fail := ⟨eHpage, va, word gpa⟩
  let s ← get
  match s.roots2[w.part.toNat]? with
  | none => throw f
  | some root => do
    let (pa, lo) ← walk2 w acc (gpa % 2 ^ 52) f walkLevels root.toNat
    let s ← get
    if s.mapped w pa then pure (pa, lo) else throw f

/-- Where a stage-1 table entry lies: through stage 2 for a guest (04_memory_model.md R106, R110). -/
def tableLoc (w : Agent) (acc : Access) (va : Word) (a : Nat) : Acc Nat := do
  if w.host then
    let s ← get
    if s.mapped w a then pure a else throw ⟨ePage, va, 0⟩
  else do
    let (pa, _) ← stage2 w acc va a
    pure pa

/-- Where a virtual page leads: a guest-physical address (physical in host mode), or the tile class. -/
inductive Target where
  | phys (a : Nat)
  | tile
deriving DecidableEq, Repr

/-- The tile regions an agent may reach (04_memory_model.md R105, R109). -/
def State.regionsOf (s : State) (w : Agent) : List TileRegion :=
  match w.task with
  | none => []
  | some seq => match s.tasks.find? (fun t => t.seq == seq) with
    | some t => t.tiles
    | none => []

/-- The location of a byte of a tile-class page (04_memory_model.md R105; 06_port.md R182, R183). -/
def State.tileByte (s : State) (w : Agent) (va : Nat) : Option Nat :=
  match (s.regionsOf w).find? (fun r => r.base.toNat ≤ va && va < r.base.toNat + r.bytes) with
  | none => none
  | some r => match r.home with
    | none => none
    | some (core, home) =>
      let subset := ((s.part w.part).getD .reset).subset core.toNat
      let wd := home + (va - r.base.toNat) / 4
      match subset[wd % subset.length]? with
      | none => none
      | some bank => if wd / subset.length < 6144 then some (tileLoc core.toNat bank (wd / subset.length) (va % 4)) else none

/-- A stage-1 walk (04_memory_model.md R106 to R110): the target, and the lowest address bit of the leaf that gave it. The leaf's
A and D are set before the final stage-2 walk or mapping check, also where that then fails (log 52). -/
def walk1 (w : Agent) (acc : Access) (va : Word) : List WalkLevel → Nat → Acc (Target × Nat)
  | [], _ => throw ⟨ePage, va, 0⟩
  | l :: rest, table => do
    let f : Fail := ⟨ePage, va, 0⟩
    let a := table + 8 * (va.toNat / 2 ^ l.lo % 2 ^ l.width)
    let loc ← tableLoc w .load va a
    let e ← readPte w loc f
    if !pteOk e l (nextTable rest) true then throw f
    else if pteLeaf e then
      if !pteRight e acc then throw f
      else do
        let s ← get
        if pteTile e && (s.tileByte w va.toNat).isNone then throw f
        else do
          if e &&& adBits acc ≠ adBits acc then
            let loc ← tableLoc w .atomic va a
            setAd w.fn loc e acc
          pure (if pteTile e then .tile else .phys (pteAddr e + va.toNat % 2 ^ l.lo), l.lo)
    else walk1 w acc va rest (pteAddr e)

/-- Whether a cached page is an agent's; task 0 stands for none. -/
def CachedPage.isOf (c : CachedPage) (w : Agent) : Bool :=
  c.fn == w.fn && c.part == w.part && c.host == w.host && c.task == w.task.getD 0

/-- Whether a cached page is this page of this agent (04_memory_model.md R112). -/
def CachedPage.isPage (c : CachedPage) (w : Agent) (va : Nat) : Bool := c.page == va / 0x2000 && c.isOf w

/-- Whether an address lies in the page of the stage-1 leaf that gave a cached page (04_memory_model.md R107, R112). -/
def CachedPage.covers (c : CachedPage) (w : Agent) (va : Nat) : Bool :=
  c.page * 0x2000 / 2 ^ c.span == va / 2 ^ c.span && c.isOf w

/-- Whether a guest-physical address lies in the page of the stage-2 leaf that gave a cached page of the agent's partition. -/
def CachedPage.covers2 (c : CachedPage) (w : Agent) (gpa : Nat) : Bool :=
  !c.host && !c.tile && c.part == w.part && c.gpage * 0x2000 / 2 ^ c.span2 == gpa / 2 ^ c.span2

/-- Whether a cached page has the rights of an access, and D for a write. -/
def CachedPage.grants (c : CachedPage) (acc : Access) : Bool :=
  match acc with
  | .fetch => c.x
  | .load => c.r
  | .store => c.w && c.dirty
  | .atomic => c.r && c.w && c.dirty
  | .probeStore => c.w
  | .probeAtomic => c.r && c.w

/-- Whether a cached page serves this access of this agent. -/
def CachedPage.serves (c : CachedPage) (w : Agent) (acc : Access) (va : Nat) : Bool := c.isPage w va && c.grants acc

/-- Stage 2 of a page. One entry or transfer uses one stage-2 leaf for all that it covers (04_memory_model.md R112;
06_port.md R177): where a page of the work in hand has come through that leaf, the address goes where that leaf leads, and a walk
only finds rights that it has not shown. -/
def stage2Kept (w : Agent) (acc : Access) (va : Word) (gpa : Nat) : Acc (Nat × Nat) := do
  let s ← get
  match s.work.bind (fun k => k.pins.find? (fun c => c.covers2 w gpa)) with
  | none => stage2 w acc va gpa
  | some c => do
    if !c.grants acc then
      let _ ← stage2 w acc va gpa
    let pa := c.loc + gpa - c.gpage * 0x2000
    let s ← get
    if s.mapped w pa then pure (pa, c.span2) else throw ⟨eHpage, va, word gpa⟩

/-- A page with the rights that an access needs, beside those that it has. -/
def CachedPage.shown (c : CachedPage) (acc : Access) : CachedPage :=
  { c with r := c.r || acc == .load || acc == .atomic || acc == .probeAtomic,
           w := c.w || acc.writes || acc == .probeStore || acc == .probeAtomic, x := c.x || acc == .fetch,
           dirty := c.dirty || acc.writes }

/-- A fresh walk of both stages, which leaves its page in the cache (04_memory_model.md R106, R112). -/
def walkBoth (w : Agent) (acc : Access) (va : Word) : Acc Target := do
  let s ← get
  let root := ((s.funcs[w.fn.toNat]?).getD .reset).root
  let (t, lo) ← walk1 w acc va walkLevels root.toNat
  let (out, lo2) ← match t with
    | .tile => pure (Target.tile, 13)
    | .phys gpa =>
      if w.host then do
        let s ← get
        if s.mapped w gpa then pure (Target.phys gpa, 13) else throw ⟨ePage, va, 0⟩
      else do
        let (pa, lo2) ← stage2Kept w acc va gpa
        pure (Target.phys pa, lo2)
  let page : CachedPage :=
    { fn := w.fn, part := w.part, host := w.host, task := w.task.getD 0, page := va.toNat / 0x2000,
      gpage := (match t with | .phys g => g / 0x2000 | .tile => 0),
      loc := (match out with | .phys p => p / 0x2000 * 0x2000 | .tile => 0),
      tile := (match out with | .tile => true | .phys _ => false),
      r := false, w := false, x := false, dirty := false, span := lo, span2 := lo2 }
  modify fun s => { s with tlb := page.shown acc :: s.tlb.filter (fun c => !(c.serves w acc va.toNat)) }
  pure out

/-- Whether a cached page and a fresh walk lead to the same place and the walk would write no table: it then makes no difference
which of them serves (04_memory_model.md R112). -/
def State.agrees (s : State) (w : Agent) (acc : Access) (va : Word) (c : CachedPage) : Bool :=
  match walkBoth w acc va s with
  | .ok (.phys pa) t => !c.tile && pa = c.loc + va.toNat % 0x2000 && t.mem == s.mem
  | .ok .tile t => c.tile && t.mem == s.mem
  | .error _ _ => false

/-- Where a cached page takes a byte. -/
def CachedPage.target (c : CachedPage) (w : Agent) (va : Word) : Acc Target := do
  let s ← get
  if c.tile then
    if (s.tileByte w va.toNat).isNone then throw ⟨ePage, va, 0⟩ else pure .tile
  else
    let pa := c.loc + va.toNat % 0x2000
    if s.mapped w pa then pure (.phys pa)
    else throw (if w.host then ⟨ePage, va, 0⟩ else ⟨eHpage, va, word (c.gpage * 0x2000 + va.toNat % 0x2000)⟩)

/-- Translation of one byte by a cached page or a walk: before an invalidation either entry may serve (04_memory_model.md
R112; log 7). -/
def translateNew (w : Agent) (acc : Access) (va : Word) : Acc Target := do
  let s ← get
  match s.tlb.find? (fun c => c.serves w acc va.toNat) with
  | none => walkBoth w acc va
  | some c => if s.agrees w acc va c || Config.usesOldEntry s.free then c.target w va else walkBoth w acc va

/-- The package with a page as the one that serves the entry in hand. -/
def State.pin (s : State) (c : CachedPage) : State :=
  match s.work with
  | none => s
  | some k => { s with work := some { k with pins := c :: k.pins.filter (· != c) } }

/-- A page with the rights of another, and the place it had. -/
def CachedPage.join (c d : CachedPage) : CachedPage :=
  { c with r := c.r || d.r, w := c.w || d.w, x := c.x || d.x, dirty := c.dirty || d.dirty }

/-- The page that has served an access is pinned. -/
def pinPage (w : Agent) (acc : Access) (va : Word) (at_ : Option CachedPage) : Acc Unit := fun s =>
  match s.tlb.find? (fun c => c.serves w acc va.toNat), at_ with
  | some d, some c =>
    let t : State := { s with work := s.work.map (fun k => { k with pins := k.pins.filter (· != c) }) }
    .ok () (t.pin (c.join d))
  | some d, none => .ok () (s.pin d)
  | none, _ => .ok () s

/-- Another 8 KiB of the page that a cached page lies in, as the same leaf gives them (04_memory_model.md R107, R112). -/
def CachedPage.beside (c : CachedPage) (w : Agent) (acc : Access) (va : Word) : Acc CachedPage :=
  let gpa := c.gpage * 0x2000 + va.toNat - c.page * 0x2000
  let d := { c with page := va.toNat / 0x2000, gpage := gpa / 0x2000 }
  if c.tile then pure { d with gpage := c.gpage }
  else if w.host then pure { d with loc := gpa / 0x2000 * 0x2000 }
  else do
    let (pa, lo2) ← stage2Kept w acc va gpa
    pure { d with loc := pa / 0x2000 * 0x2000, span2 := lo2 }

/-- Translation of one byte (04_memory_model.md R103 to R112). One entry or transfer uses one translation of a page, whatever the
size of its leaf: an access that needs more of the page than it has shown finds its rights, and sets A and D, by a walk, and
goes to the same place. -/
def translate (w : Agent) (acc : Access) (va : Word) : Acc Target := do
  if bits va 56 8 ≠ 0 then throw ⟨ePage, va, 0⟩
  else do
    let s ← get
    match s.work with
    | none => translateNew w acc va
    | some k =>
      match k.pins.find? (fun c => c.isPage w va.toNat) with
      | none => match k.pins.find? (fun c => c.covers w va.toNat) with
        | none => do
          let t ← translateNew w acc va
          pinPage w acc va none
          pure t
        | some c => do
          if !c.grants acc then
            let _ ← translateNew w acc va
          let d ← c.beside w acc va
          modify (·.pin (d.shown acc))
          d.target w va
      | some c =>
        if c.grants acc then c.target w va
        else do
          let _ ← translateNew w acc va
          pinPage w acc va (some c)
          c.target w va

/-- The locations of the bytes of an element that lies in one page (04_memory_model.md R104, R105; 14_link.md R408). -/
def locate (w : Agent) (acc : Access) (va : Word) (n : Nat) : Acc (List Nat) := do
  match ← translate w acc va with
  | .phys pa => do
    let s ← get
    if s.linkServes pa then pure ((List.range n).map (pa + ·)) else throw ⟨eLink, va, 0⟩
  | .tile => do
    let s ← get
    (List.range n).mapM fun i => match s.tileByte w (va.toNat + i) with
      | some a => pure a
      | none => throw ⟨ePage, va + word i, 0⟩

/-- Whether a location lies on a peer package. -/
def isPeer (a : Nat) : Bool := match levelOf a with
  | .peer _ _ => true
  | .hbm _ _ | .sram _ _ | .tcm _ _ | .host | .tile _ | .none => false

/-- A request of the hart that moves at the address where one is to fail: a load or an RMW that times out, or an access that
the peer refuses (04_memory_model.md R141; 14_link.md R408). It fails once. -/
def lateAt (w : Agent) (store : Bool) (locs : List Nat) (va : Word) (n : Nat) : Acc Unit := fun s =>
  let h := s.harts[s.cur]
  match h.late with
  | none => .ok () s
  | some (a, code) =>
    if w.core.isSome && w.task == some h.seq && decide ((a - va).toNat < n) &&
        (if code = eLink then locs.any isPeer else !store) then
      .error ⟨code, va, 0⟩ { s with harts := s.harts.set s.cur { h with late := none } }
    else .ok () s

/-- Loading an element that lies in one page. -/
def loadElem (w : Agent) (va : Word) (n : Nat) : Acc Nat := do
  let locs ← locate w .load va n
  lateAt w false locs va n
  let bs ← readLocs locs va
  pure (ofBytes bs)

/-- Storing an element that lies in one page. -/
def storeElem (w : Agent) (va : Word) (n : Nat) (x : Nat) : Acc Unit := do
  let locs ← locate w .store va n
  lateAt w true locs va n
  modify fun s => s.writeLocs w.fn va (locs.zip (toBytes n x))

/-- A scalar store: where the step defers its stores, its bytes wait to be written (04_memory_model.md R120; log 66). -/
def storeScalar (w : Agent) (va : Word) (n : Nat) (x : Nat) : Acc Unit := do
  let s ← get
  if s.storesWait then do
    let locs ← locate w .store va n
    lateAt w true locs va n
    modify fun s =>
      let h := s.harts[s.cur]
      { s with harts := s.harts.set s.cur { h with unperformed := h.unperformed ++ [(va, locs.zip (toBytes n x))] } }
  else storeElem w va n x

/-- The scalar stores of a hart that have executed are performed, in program order (04_memory_model.md R120). -/
def State.perform (s : State) (slot : Fin 64) : State :=
  match s.harts[slot].unperformed with
  | [] => s
  | xs =>
    let h := s.harts[slot]
    xs.foldl (fun s x => s.writeLocs h.fn x.1 x.2) { s with harts := s.harts.set slot { h with unperformed := [] } }

/-- An RMW of an element (04_memory_model.md R136, R137): `f` gives the new value, or none to write nothing. One that writes
nothing has translated as any RMW does, and has set D (log 53). -/
def rmwElem (w : Agent) (va : Word) (n : Nat) (f : Nat → Option Nat) : Acc Nat := do
  let locs ← locate w .atomic va n
  if locs.any (fun a => levelOf a = .host) then throw ⟨eAtomic, va, 0⟩
  else do
    lateAt w false locs va n
    let bs ← readLocs locs va
    match f (ofBytes bs) with
    | none => pure ()
    | some x => modify fun s => s.writeLocs w.fn va (locs.zip (toBytes n x))
    pure (ofBytes bs)

/-- Loading `n` doublewords from an 8-aligned address. -/
def loadDws (w : Agent) (va : Word) (n : Nat) : Acc (List Word) :=
  (List.range n).mapM fun i => do
    let x ← loadElem w (va + word (8 * i)) 8
    pure (word x)

/-- Storing doublewords at an 8-aligned address, in ascending order. -/
def storeDws (w : Agent) (va : Word) (xs : List Word) : Acc Unit :=
  xs.zipIdx.forM fun (x, i) => storeElem w (va + word (8 * i)) 8 x.toNat

/-- Runs an access and hands its fault back. -/
def tryAcc (a : Acc α) (s : State) : Except Fail α × State :=
  match a s with
  | .ok x s => (.ok x, s)
  | .error e s => (.error e, s)

end Sys2Proof.Machine
end

