-- ==== Sys2Proof/Machine/Arbiter.lean ====
section
/-!
DEFINITION. The lease arbiter and the unit arbiter of a core: their targets, which each hart applies at its own `setvl`
and `mshape` (01_engines.md R23 to R31; 10_matrix.md R300).
-/

namespace Sys2Proof.Machine

/-! ### Lease terms -/

/-- LEASE.PRIO (01_engines.md R23). -/
def Hart.prio (h : Hart) : Nat := bits h.lease 16 2
/-- LEASE.PREF. -/
def Hart.prefStalls (h : Hart) : Nat := bits h.lease 8 5
/-- LEASE.MIN. -/
def Hart.minStalls (h : Hart) : Nat := bits h.lease 0 5
/-- SCOPE.PART (04_memory_model.md R117). -/
def Hart.scopePart (h : Hart) : BitVec 5 := BitVec.ofNat 5 (bits h.scope 27 5)

/-- Cycles since a time, saturating (10_matrix.md R300; 01_engines.md R26). -/
def ageSince (now since : Word) : Nat := min (now - since).toNat (2 ^ 32 - 1)

/-- Whether a hart counts as resident for the arbiters: a hart that stands stopped in place does not (01_engines.md R30),
nor one that has been pre-empted. -/
def Hart.resident (h : Hart) : Bool := h.run == .running || h.run == .halted

/-- The resident harts of a core, by hart number. -/
def State.residents (s : State) (core : Nat) : List (Nat × Hart) :=
  ((List.range 4).filterMap (fun k => (s.harts[4 * core + k]?).map (fun h => (k, h)))).filter (fun x => x.2.resident)

/-- Putting harts back on a core. -/
def State.putHarts (s : State) (core : Nat) (hs : List (Nat × Hart)) : State :=
  { s with harts := hs.foldl (fun v x => modAt v (4 * core + x.1) (fun _ => x.2)) s.harts }

/-! ### Stalls -/

/-- The stalls a partition owns on a core (15_partitions.md R411). -/
def State.ownedStalls (s : State) (part : BitVec 5) (core : Nat) : BitVec 16 :=
  ((((s.part part).getD .reset).stalls)[core]?).getD 0

/-- The number of bits set. -/
def countBits (w : BitVec n) : Nat := ((List.range n).filter (fun i => w.getLsbD i)).length

/-- The partitions of some harts, each once. -/
def partsOf (hs : List (Nat × Hart)) : List (BitVec 5) := (hs.map (fun x => x.2.scopePart)).eraseDups

/-- One hart is served before another: priority, then age, then number (01_engines.md R26). -/
def stallFirst (now : Word) (x y : Nat × Hart) : Bool :=
  if x.2.prio != y.2.prio then x.2.prio < y.2.prio
  else if ageSince now x.2.stallSince != ageSince now y.2.stallSince then
    ageSince now y.2.stallSince < ageSince now x.2.stallSince
  else x.1 ≤ y.1

/-- One round of the computation: a spare stall goes to the first hart of the highest priority that may take one, and that
hart goes to the back of the round, behind every hart that has not been served since, whatever their ages (01_engines.md
R26, R31's example; DEDUCED, log 65). -/
def State.stallRound (s : State) (core ceiling : Nat) (hs : List (Nat × Hart)) : List (Nat × Hart) :=
  let given (p : Hart → Bool) : Nat := ((hs.filter (fun x => p x.2)).map (fun x => x.2.target.toNat)).sum
  let may (x : Nat × Hart) : Bool :=
    x.2.target.toNat < x.2.prefStalls &&
    given (fun h => h.scopePart == x.2.scopePart) < countBits (s.ownedStalls x.2.scopePart core)
  if ceiling ≤ given (fun _ => true) then hs
  else
    let level := ((hs.filter may).map (fun x => x.2.prio)).foldl min 4
    match hs.find? (fun x => may x && x.2.prio == level) with
    | none => hs
    | some first => hs.filter (fun x => x.1 != first.1) ++
        [(first.1, { first.2 with target := first.2.target + 1, stallSince := s.time })]

/-- The targets of a core's lease arbiter: the round starts with the harts by age (01_engines.md R26). -/
def State.arbitrateStalls (s : State) (core : Nat) : State :=
  let hs := (sortBy (stallFirst s.time) (s.residents core)).map
    (fun x => (x.1, { x.2 with target := BitVec.ofNat 5 x.2.minStalls }))
  let ceiling := min ((partsOf hs).map (fun p => countBits (s.ownedStalls p core))).sum ((s.stallCeil[core]?).getD 0)
  s.putHarts core ((List.range 16).foldl (fun hs _ => s.stallRound core ceiling hs) hs)

/-! ### Matrix units -/

/-- One requesting hart is served before another (10_matrix.md R300). -/
def unitFirst (now : Word) (x y : Nat × Hart) : Bool :=
  if x.2.prio != y.2.prio then x.2.prio < y.2.prio
  else if ageSince now x.2.unitSince != ageSince now y.2.unitSince then
    ageSince now y.2.unitSince < ageSince now x.2.unitSince
  else x.1 ≤ y.1

/-- The targets of a core's unit arbiter (10_matrix.md R300). -/
def State.arbitrateUnits (s : State) (core : Nat) : State :=
  let hs := s.residents core
  let order := sortBy (unitFirst s.time) (hs.filter (fun x => x.2.mreq != 0))
  let pool := min 3 ((s.unitCeil[core]?).getD 0)
  let first := order.take pool
  let targets := (first.foldl (fun (acc, pool) (k, h) =>
    let more := min pool (h.mreq.toNat - 1)
    (acc ++ [(k, 1 + more)], pool - more)) (([] : List (Nat × Nat)), pool - first.length)).1
  s.putHarts core (hs.map (fun (k, h) =>
    match targets.lookup k with
    | some t => (k, { h with unitTarget := BitVec.ofNat 2 t, unitSince := s.time })
    | none => (k, { h with unitTarget := 0 })))

/-! ### Ceilings -/

/-- The stall and matrix ceilings that the effective power limit gives (16_device.md R429, R430). -/
def State.budget (s : State) : Nat × Nat :=
  let w := min s.power s.thermal - 680
  (min 16 (w / 70), min 3 (3 * w / 1120))

/-- Whether a hart counts in the sums of MIN: one stopped in place does not (16_device.md R431). -/
def Hart.counted (h : Hart) : Bool := h.run == .running || h.run == .halted || h.run == .preempted

/-- The harts of a core that count, by hart number. -/
def State.countedOn (s : State) (core : Nat) : List (Nat × Hart) :=
  ((List.range 4).filterMap (fun k => (s.harts[4 * core + k]?).map (fun h => (k, h)))).filter (fun x => x.2.counted)

/-- The sum of MIN of some harts. -/
def sumMin (hs : List (Nat × Hart)) : Nat := (hs.map (fun x => x.2.minStalls)).sum

/-- A core's ceilings take effect once the sum of MIN fits, and below one matrix unit once no hart holds one
(01_engines.md R30; 10_matrix.md R301; 16_device.md R430). -/
def State.settle (s : State) (core : Nat) : State :=
  let (stalls, units) := s.budget
  let hs := s.countedOn core
  let s := if sumMin hs ≤ stalls then { s with stallCeil := modAt s.stallCeil core (fun _ => stalls) } else s
  if 1 ≤ units ∨ hs.all (fun x => x.2.units == 0) then { s with unitCeil := modAt s.unitCeil core (fun _ => units) } else s

/-- Both computations, when the pool, a ceiling or the set of resident harts of a core changes. -/
def State.arbitrate (s : State) (core : Nat) : State := ((s.settle core).arbitrateStalls core).arbitrateUnits core

/-- Whether a hart of a partition with this MIN fits beside the harts of a core that count (01_engines.md R25): the
core's condition, and the partition's. -/
def State.fits (s : State) (core : Nat) (part : BitVec 5) (min' : Nat) : Bool × Bool :=
  let hs := s.countedOn core
  (sumMin hs + min' ≤ min 16 (min ((s.stallCeil[core]?).getD 0) s.budget.1),
   sumMin (hs.filter (fun x => x.2.scopePart == part)) + min' ≤ countBits (s.ownedStalls part core))

end Sys2Proof.Machine
end

