-- ==== Sys2Proof/Machine/Mesh.lean ====
section
/-!
DEFINITION. The mesh of lane links, and the stalls of other cores that a chain is lent (14_link.md R396 to R398;
09_chain.md R271; 01_engines.md R29).
-/

namespace Sys2Proof.Machine

/-! ### The mesh -/

/-- The row and column of a core in the mesh (14_link.md R396). -/
def meshPlace (core : Nat) : Nat × Nat := (core % 8 / 4, 4 * (core / 8) + core % 4)

/-- The core at a row and column. -/
def meshCore (row col : Nat) : Nat := 8 * (col / 4) + 4 * row + col % 4

/-- The core and port at the far end of a port: 0 E, 1 W, 2 V, 3 X (14_link.md R396); none where the port is not present. -/
def meshPeer (core port : Nat) : Option (Nat × Nat) :=
  let (row, col) := meshPlace core
  if port = 0 then (if col % 4 < 3 then some (meshCore row (col + 1), 1) else none)
  else if port = 1 then (if 0 < col % 4 then some (meshCore row (col - 1), 0) else none)
  else if port = 2 then some (meshCore (1 - row) col, 2)
  else if col = 3 then some (meshCore row 4, 3)
  else if col = 4 then some (meshCore row 3, 3)
  else none

/-- The bits of both ends of a link. -/
def linkBits (core port : Nat) : BitVec 64 :=
  match meshPeer core port with
  | none => 0
  | some (c, p) => BitVec.twoPow 64 (4 * core + port) ||| BitVec.twoPow 64 (4 * c + p)

/-! ### Routes -/

/-- The ports of a core whose links are up, with the cores they lead to (14_link.md R398). -/
def hopsFrom (up : BitVec 64) (core : Nat) : List (Nat × Nat) :=
  (List.range 4).filterMap fun port => match meshPeer core port with
    | some (c, p) => if up.getLsbD (4 * core + port) && up.getLsbD (4 * c + p) then some (port, c) else none
    | none => none

/-- The number of hops from each core to one; 16 where no route is up. -/
def hopCounts (up : BitVec 64) (core : Nat) : List Nat :=
  (List.range 15).foldl (fun d _ => (List.range 16).map fun c =>
    (hopsFrom up c).foldl (fun best (_, x) => min best ((d[x]?).getD 16 + 1)) ((d[c]?).getD 16))
    ((List.range 16).map fun c => if c = core then 0 else 16)

/-- The hops from a core on, at most `fuel`, each to the lowest core that is nearer (14_link.md R397; log 50). -/
def routeHops (up : BitVec 64) (d : List Nat) : Nat → Nat → List (Nat × Nat)
  | 0, _ => []
  | fuel + 1, core =>
    let nearer := (hopsFrom up core).filter fun (_, x) => (d[x]?).getD 16 + 1 == (d[core]?).getD 16
    match (List.range 16).findSome? (fun c => nearer.find? (fun h => h.2 == c)) with
    | none => []
    | some (port, x) => (core, port) :: routeHops up d fuel x

/-- The route between two cores: the fewest hops, and among such routes the one through the lowest core numbers
(14_link.md R397; log 50). -/
def route (up : BitVec 64) (src dst : Nat) : List (Nat × Nat) :=
  if src = dst then [] else routeHops up (hopCounts up dst) 16 src

/-- The cycles that a route adds to an edge: 20 for a hop across the dies, else 4 (09_chain.md R272; 14_link.md R396). -/
def routeCycles (r : List (Nat × Nat)) : Nat := (r.map fun (_, port) => if port = 3 then 20 else 4).sum

/-- The links of a route. -/
def routeLinks (r : List (Nat × Nat)) : BitVec 64 := r.foldl (fun w (core, port) => w ||| linkBits core port) 0

/-! ### Lent stalls -/

/-- The cores of an instance of a scope around a core (04_memory_model.md R116). -/
def scopeCores (scope : Nat) (core : Nat) : List Nat :=
  (List.range 16).filter fun c =>
    if scope ≤ 1 then c == core else if scope = 2 then c / 4 == core / 4 else if scope = 3 then c / 8 == core / 8 else true

/-- Whether a stall of a core is lent to a chain (09_chain.md R271). -/
def State.lentOut (s : State) (core stall : Nat) : Bool := s.harts.any fun h => h.chain.lent.contains (core, stall)

/-- Whether an entry is a chain run that has been taken up (09_chain.md R277). -/
def Entry.isRun (e : Entry) : Bool :=
  e.started && (match e.instr with
    | .chrun _ => true
    | _ => false)

/-- Whether a stall that the hart has given up is still at work for earlier VIQ entries (07_lane.md R205, R230); a run that loses
one has broken, and uses it no more (09_chain.md R290). -/
def Hart.leaves (h : Hart) (stall : Nat) : Bool :=
  let held := match h.outer with
    | some (d, _) => d.viq
    | none => []
  let halted := match h.dbg with
    | some d => d.viq
    | none => []
  h.leaving.any fun (i, seq) => i == stall && (h.viq ++ h.held.viq ++ held ++ halted).any (fun e => !e.isRun && decide (e.seq < seq))

/-- Whether a hart of a core holds a stall of it, or has not let go of it yet (01_engines.md R24; 07_lane.md R205). -/
def State.stallHeld (s : State) (core stall : Nat) : Bool :=
  (List.range 4).any fun k => match s.harts[4 * core + k]? with
    | some g => g.run != .absent && (g.grant.getLsbD (16 + stall) || g.leaves stall)
    | none => false

/-- The stalls of other cores that a chain may be lent: its hart's partition owns them, its scope covers them, no hart
holds them, no chain has them, and lane links lead there (09_chain.md R271). -/
def State.lendable (s : State) (part : BitVec 5) (core scope : Nat) : List (Nat × Nat) :=
  let d := hopCounts s.laneUp core
  (scopeCores scope core).flatMap fun c =>
    if c = core ∨ 16 ≤ (d[c]?).getD 16 then []
    else ((List.range 16).filter fun i =>
      (s.ownedStalls part c).getLsbD i && !s.stallHeld c i && !s.lentOut c i).map fun i => (c, i)

/-- The stalls that the placement engine lends a chain now: any of those that it may (09_chain.md R271; log 50). -/
def State.lends (s : State) (part : BitVec 5) (core scope : Nat) : List (Nat × Nat) :=
  (s.lendable part core scope).filter fun (c, i) => (Config.lends s.free).getLsbD (16 * c + i)

/-- The links that a chain with lent stalls crosses: its route to each core that lends, and the routes of edges between
stages (14_link.md R397). -/
def lentLinks (up : BitVec 64) (core : Nat) (lent : List (Nat × Nat)) (edges : List (Nat × Nat)) : BitVec 64 :=
  (lent.map fun x => (core, x.1)).foldl (fun w (a, b) => w ||| routeLinks (route up a b))
    (edges.foldl (fun w (a, b) => w ||| routeLinks (route up a b)) 0)

end Sys2Proof.Machine
end

