-- ==== Sys2Proof/Machine/Task.lean ====
section
/-!
DEFINITION. Tasks, their pitches and signals, and the stopping of a queue (12_command.md R350, R358 to R361, R373).
-/

namespace Sys2Proof.Machine

/-- The Crier acting for a function (12_command.md R349): the PF is in host mode. -/
def State.fnAgent (s : State) (fn : BitVec 8) : Agent :=
  { host := fn = 0, part := (s.partOfFn fn).getD 31, core := none, fn := fn, task := none }

/-- A queue of a function. -/
def State.queue (s : State) (fn : BitVec 8) (q : BitVec 6) : Option UserQueue :=
  ((s.funcs[fn.toNat]?).getD .reset).queues.find? (fun u => u.num == q)

/-- Changing a function. -/
def State.modFn (s : State) (fn : BitVec 8) (f : Func → Func) : State :=
  { s with funcs := modAt s.funcs fn.toNat f }

/-- Changing a queue of a function. -/
def State.modQueue (s : State) (fn : BitVec 8) (q : BitVec 6) (f : UserQueue → UserQueue) : State :=
  s.modFn fn (fun g => { g with queues := g.queues.map (fun u => if u.num = q then f u else u) })

/-- A Crier access for a queue has faulted: the queue is STOPPED and a record of KIND 6 is posted (12_command.md R350,
R369, R432). -/
def State.stopQueue (s : State) (fn : BitVec 8) (q : BitVec 6) (e : Fail) : State :=
  (s.modQueue fn q (fun u => { u with stopped := true })).post
    (mkRecord fn 0 ((s.partOfFn fn).getD 31) 0 7 e.code 6 0 0 0 0 0 (q.setWidth 64) e.addr 0)

/-- A decrement of a signal by `a`, saturating at zero (12_command.md R361); a signal in host memory faults. -/
def signalDec (w : Agent) (addr : Word) (a : Nat) : Acc Unit := do
  let _ ← rmwElem w addr 8 (fun old => some (old - min old a))

/-- The pitch's doublewords (12_command.md R359). -/
def Task.pitch (t : Task) : List Word :=
  let nibble (h : Nat) : Nat := ((t.cores[h]?).getD 0).toNat
  let cores (d : Nat) : Word := word ((List.range 16).foldl (fun acc i => acc + nibble (16 * d + i) * 16 ^ i) 0)
  let home (r : Nat) : Nat := match t.tiles[r]? with
    | some ⟨_, _, _, some (core, h)⟩ => 2 ^ 31 + core.toNat * 2 ^ 24 + h % 2 ^ 21
    | _ => 0
  [(t.seq ++ 0#9 ++ BitVec.ofNat 7 t.cores.length ++ t.why ++ t.status : BitVec 64), t.start, t.finish, 0,
    cores 0, cores 1, cores 2, cores 3] ++
    (List.range 8).map (fun i => word (home (2 * i) + home (2 * i + 1) * 2 ^ 32))

/-- Writing the pitch at REPLY, if there is one (12_command.md R359). -/
def State.writePitch (s : State) (t : Task) : State :=
  if t.reply = 0 then s
  else match tryAcc (storeDws (s.fnAgent t.fn) t.reply t.pitch) s with
    | (.ok _, s) => s
    | (.error e, s) => s.stopQueue t.fn t.queue e

/-- Decrementing the task's signal (12_command.md R360, R361); one in host memory gives the pitch status BADPACKET. -/
def State.taskSignal (s : State) (t : Task) : State :=
  if t.signal = 0 then s
  else match tryAcc (signalDec (s.fnAgent t.fn) t.signal 1) s with
    | (.ok _, s) => s
    | (.error e, s) => (if e.code = eAtomic then s.writePitch { t with status := 0x10 } else s).stopQueue t.fn t.queue e

/-- Changing a task. -/
def State.modTask (s : State) (seq : BitVec 32) (f : Task → Task) : State :=
  { s with tasks := s.tasks.map (fun t => if t.seq = seq then f t else t) }

/-- A task by number. -/
def State.task (s : State) (seq : BitVec 32) : Option Task := s.tasks.find? (fun t => t.seq == seq)

/-- The hart of this slot no longer waits on a toll (11_gate.md R327). -/
def State.leaveTolls (s : State) (slot : Fin 64) : State :=
  { s with gates := s.gates.map (fun g => { g with posts := g.posts.filter (· != slot) }) }

/-- Freeing a hart slot with everything the hart held (12_command.md R364); the arbiters compute anew
(01_engines.md R26). -/
def State.freeSlot (s : State) (slot : Fin 64) : State :=
  ({ s with harts := s.harts.set slot .reset,
            gates := s.gates.map (fun g => { g with posts := g.posts.filter (· != slot) }) } : State).arbitrate (slot.val / 4)

/-- The LAUNCH packet of a task is complete (12_command.md R351). -/
def State.packetDone (s : State) (t : Task) : State :=
  s.modQueue t.fn t.queue (fun u => { u with pending := u.pending.filter (fun p => p.state != .launched t.seq) })

/-- Removing the task from the package: its homes and farms cease to exist, and no record of it waits (12_command.md R358,
R363). -/
def State.dropTask (s : State) (seq : BitVec 32) : State :=
  { s with tasks := s.tasks.filter (fun t => t.seq != seq), pfRecords := s.pfRecords.filter (fun x => x.1 != seq) }

/-- The end of a task with a status (12_command.md R360): the final pitch, then the signal. -/
def State.endTask (s : State) (seq : BitVec 32) (status : BitVec 8) : State :=
  match s.task seq with
  | none => s
  | some t =>
    let t := { t with status := status, why := 0, finish := s.time }
    (((s.writePitch t).taskSignal t).packetDone t).dropTask seq

/-- Whether every hart of a task has ended. -/
def Task.over (t : Task) : Bool := t.places.all (fun p => p == .ended)

/-- A hart of a task has ended; with the last one the task ends DONE (12_command.md R360, R364). -/
def State.hartEnded (s : State) (seq : BitVec 32) (index : BitVec 6) : State :=
  let s := s.modTask seq (fun t => { t with places := t.places.set index.toNat .ended })
  match s.task seq with
  | some t => if t.over then s.endTask seq 0x03 else s
  | none => s

/-- The slots of a task's resident harts. -/
def State.slotsOf (s : State) (seq : BitVec 32) : List (Fin 64) :=
  (List.finRange 64).filter (fun i => s.harts[i].run != .absent && s.harts[i].seq == seq)

/-- A saturating increment of a 16-bit counter (16_device.md R428). -/
def satInc16 (x : BitVec 16) : BitVec 16 := if x = BitVec.allOnes 16 then x else x + 1

end Sys2Proof.Machine
end

