-- ==== Sys2Proof/Machine/Save.lean ====
section
/-!
DEFINITION. The save area of a context and its transfer (13_context.md R378 to R385; 14_link.md R409).
-/

namespace Sys2Proof.Machine

/-! ### Bits of the layout -/

/-- Packing elements of `w` bits, element 0 lowest (07_lane.md R202). -/
def packBits (w : Nat) (xs : List Word) : Nat := xs.foldr (fun x acc => x.toNat % 2 ^ w + acc * 2 ^ w) 0

/-- `n` doublewords of a number, lowest first. -/
def dwordsOf (n x : Nat) : List Word := (List.range n).map (fun i => word (x / 2 ^ (64 * i)))

/-- The number that doublewords hold, lowest first. -/
def ofDwords (xs : List Word) : Nat := xs.foldr (fun x acc => x.toNat + acc * 2 ^ 64) 0

/-- A list cut or padded with zeros to `n` doublewords. -/
def padDws (n : Nat) (xs : List Word) : List Word := xs.take n ++ List.replicate (n - xs.length) 0

/-- The bits of a state register that are not reserved (01_engines.md R23, R24; 03_arithmetic.md R80, R88; 04_memory_model.md
R117; 05_hart.md R147 to R150; 06_port.md R181; 07_lane.md R206; 08_gather_fabric.md R251): a reserved bit reads as zero
(00_scope.md R4). -/
def csrBits (n : Nat) : Word :=
  match n with
  | 0 => 0xE0
  | 1 => 0x00FF00FF
  | 2 => 0x00FFFFFFFFFFFFFE
  | 3 => 0x0000FFFFFFFFFFFF
  | 5 => 0xFFF
  | 6 => 0xFFFFFFFF
  | 7 => 0xFFFF001F
  | 8 => 0x00031F1F
  | 9 => 0x7F
  | 10 => 0x80000000FFFFFFFF
  | 11 => 0x800000FFFFFFFFFF
  | 12 => 0xFFF00007
  | _ => BitVec.allOnes 64

/-- State register `n` (02_encoding.md R60), with TIMER given. -/
def Hart.stateReg (h : Hart) (time : Word) (n : Nat) : Word :=
  match n with
  | 0 => h.status
  | 1 => h.cause
  | 2 => h.epc
  | 3 => h.ei
  | 4 => h.faddr
  | 5 => h.et
  | 6 => h.vl
  | 7 => h.grant
  | 8 => h.lease
  | 9 => h.vstat
  | 10 => h.ffmask
  | 11 => h.cmask
  | 12 => h.scope
  | 13 => time
  | 14 => h.rng
  | _ => 0

/-- STATUS.TH (05_hart.md R147). -/
def Hart.th (h : Hart) : Bool := h.status.getLsbD 6

/-- STATUS.HELD (05_hart.md R147). -/
def Hart.heldBit (h : Hart) : Bool := h.status.getLsbD 5

/-! ### Queues -/

/-- The word of an instruction (02_encoding.md R51, R52). -/
def encodeWord (i : Instr) : Nat :=
  match encode i with
  | some (.full w) => w.toNat
  | some (.half w) => w.toNat
  | none => 0

/-- Progress as a written ei sets it: a value above vl counts as vl, and 1 marks an entry with vl 0 complete (01_engines.md
R12). -/
def Entry.clamp (e : Entry) (ei : Nat) : BitVec 48 := BitVec.ofNat 48 (min ei (max 1 e.vl.toNat))

/-- The eight doublewords of a queue entry (13_context.md R382); the positions of a chain run are its P values. -/
def Entry.dws (e : Entry) : List Word :=
  [(e.raw.map (BitVec.setWidth 64)).getD (word (encodeWord e.instr)), e.pc,
   word (e.vl.toNat + (if e.isRun then 0 else e.prog.toNat % 2 ^ 32) * 2 ^ 32), e.et, e.aux, e.op0, e.op1, e.op2]

/-- The queued instruction of a word, when it is one (13_context.md R389). -/
def instrOfWord (w : Word) : Option Instr :=
  match decodeQueued (w.setWidth 32) with
  | .ok i => some i
  | .error _ => none

/-- A queue entry read back as written (13_context.md R385); a word that is no instruction is kept as a word. -/
def Entry.ofDws (old : Entry) (ws : List Word) : Entry :=
  let g (i : Nat) : Word := (ws[i]?).getD 0
  { instr := (instrOfWord (g 0)).getD old.instr,
    raw := (match instrOfWord (g 0) with
      | some _ => none
      | none => some ((g 0).setWidth 32)), pc := g 1, vl := BitVec.ofNat 32 (bits (g 2) 0 32),
    prog := BitVec.ofNat 48 (bits (g 2) 32 32), et := g 3, aux := g 4, op0 := g 5, op1 := g 6, op2 := g 7,
    seq := old.seq, started := old.started, base := old.base, blocks := old.blocks }

/-- The two doublewords of a return entry (13_context.md R382). -/
def RetEntry.dws (e : RetEntry) : List Word := [e.val, e.src.setWidth 64]

/-- Five queues as a save area lays them out (13_context.md R380). -/
def queueDws (viq piq miq : List Entry) (srq bq : List RetEntry) : List Word :=
  padDws 256 (viq.flatMap Entry.dws) ++ padDws 256 (piq.flatMap Entry.dws) ++ padDws 128 (miq.flatMap Entry.dws) ++
    padDws 32 (srq.flatMap RetEntry.dws) ++ padDws 32 (bq.flatMap RetEntry.dws)

/-- Queue counts as HCNT and LCNT hold them (13_context.md R381). -/
def countDw (v p m s b : Nat) : Word := word (v + p * 2 ^ 8 + m * 2 ^ 16 + s * 2 ^ 24 + b * 2 ^ 32)

/-- The entries of one queue read back, `n` of them. -/
def entriesBack (old : List Entry) (n : Nat) (ws : List Word) : List Entry :=
  (List.range n).filterMap fun i =>
    let blank : Entry := ⟨.vadd 0 0 0 0, none, 0, 0, 0, 0, 0, 0, 0, 0, i, false, 0, []⟩
    let e := (old[i]?).getD blank
    some (e.ofDws ((ws.drop (8 * i)).take 8))

/-- The entries of one return queue read back. -/
def retsBack (n : Nat) (ws : List Word) : List RetEntry :=
  (List.range n).map fun i => ⟨(ws[2 * i]?).getD 0, ((ws[2 * i + 1]?).getD 0).setWidth 2⟩

/-! ### Sections -/

/-- The code of a token state (13_context.md R380). -/
def TokenState.code : TokenState → Nat
  | .done => 0
  | .busy => 1
  | .fault => 2

/-- A token's doublewords (13_context.md R380). -/
def Token.dws (t : Token) : List Word :=
  [word t.state.code, word t.x, t.cause.setWidth 64, t.addr, t.dst, t.src, t.len, 0]

/-- A token read back. -/
def Token.ofDws (old : Token) (ws : List Word) : Token :=
  let g (i : Nat) : Word := (ws[i]?).getD 0
  { old with state := (if bits (g 0) 0 2 = 1 then .busy else if bits (g 0) 0 2 = 2 then .fault else .done),
             x := (g 1).toNat, cause := (g 2).setWidth 8, addr := g 3, dst := g 4, src := g 5, len := g 6 }

/-- The code of a stream kind (13_context.md R380). -/
def StreamKind.code : StreamKind → Nat
  | .unbound => 0
  | .load => 1
  | .store => 2
  | .fabric => 3

/-- A stream's doublewords (13_context.md R380). -/
def Stream.dws (t : Stream) : List Word := t.desc.toList ++ [word t.pos, word t.kind.code, 0]

/-- The number of elements of a stream descriptor: absent dimensions count 1 (06_port.md R189). -/
def streamCount (desc : List Word) : Nat :=
  let dims := bits ((desc[1]?).getD 0) 4 2
  let c (i : Nat) : Nat := if i ≤ dims then bits ((desc[2 + i]?).getD 0) 32 32 else 1
  c 0 * c 1 * c 2

/-- A stream read back; prefetched elements are not saved (06_port.md R200). -/
def Stream.ofDws (old : Stream) (ws : List Word) : Stream :=
  let g (i : Nat) : Word := (ws[i]?).getD 0
  let kind : StreamKind := match bits (g 6) 0 2 with
    | 1 => .load
    | 2 => .store
    | 3 => .fabric
    | _ => .unbound
  { kind := kind, desc := #v[g 0, g 1, g 2, g 3, g 4], pos := (g 5).toNat,
    len := (if kind = .fabric then old.len else streamCount (ws.take 5)),
    first := (if kind = .fabric then old.first else (g 5).toNat),
    ahead := (if kind = .fabric then old.ahead else []), node := old.node }

/-- COUNT i of a fabric block (08_gather_fabric.md R233). -/
def blockCount (b : Vector Word 9) (i : Nat) : Nat := bits ((b[(1 + i / 2)]?).getD 0) (32 * (i % 2)) 32

/-- The counters of iteration `p` (08_gather_fabric.md R234). -/
def blockCounters (b : Vector Word 9) (p : Nat) : List Nat :=
  let c (i : Nat) : Nat := max 1 (blockCount b i)
  [p % c 0, p / c 0 % c 1, p / (c 0 * c 1) % c 2, p / (c 0 * c 1 * c 2) % c 3]

/-- The code of a node state (08_gather_fabric.md R246). -/
def NodeState.code : NodeState → Nat
  | .idle => 0
  | .loaded => 1
  | .running => 2
  | .stopped => 3
  | .done => 4

/-- A node's sixteen doublewords (13_context.md R380). -/
def FabricNode.dws (n : FabricNode) : List Word :=
  let ks := blockCounters n.block n.iter
  let g (i : Nat) : Nat := (ks[i]?).getD 0
  padDws 16 (n.block.toList ++ [word (g 0 + g 1 * 2 ^ 32), word (g 2 + g 3 * 2 ^ 32),
    word (n.state.code + n.phys.toNat * 8)])

/-- A node read back: its counters give its iteration. -/
def FabricNode.ofDws (old : FabricNode) (ws : List Word) : FabricNode :=
  let g (i : Nat) : Word := (ws[i]?).getD 0
  let b : Vector Word 9 := #v[g 0, g 1, g 2, g 3, g 4, g 5, g 6, g 7, g 8]
  let c (i : Nat) : Nat := max 1 (blockCount b i)
  let k (i : Nat) : Nat := bits (g (9 + i / 2)) (32 * (i % 2)) 32
  let st : NodeState := match bits (g 11) 0 3 with
    | 1 => .loaded
    | 2 => .running
    | 3 => .stopped
    | 4 => .done
    | _ => .idle
  let same := blockCounters b old.iter == [k 0, k 1, k 2, k 3]
  { old with state := st, block := b, phys := BitVec.ofNat 3 (bits (g 11) 3 3),
             iter := if same then old.iter else k 0 + c 0 * (k 1 + c 1 * (k 2 + c 2 * k 3)) }

/-- The element size of a window in bytes. -/
def Window.esz (w : Window) : Nat := if w.typ.toNat % 4 = 3 ∨ w.typ.toNat = 8 then 8 else 4

/-- The number of words of a window (08_gather_fabric.md R255). -/
def Window.words (w : Window) : Nat := w.bytes / w.esz

/-- A window's doublewords (13_context.md R380). -/
def Window.dws (w : Window) : List Word :=
  [w.base, word w.bytes, word (w.typ.toNat + w.op.toNat * 16 + w.isOpen.toNat * 64), 0]

/-- A window read back, without its copies. -/
def Window.ofDws (ws : List Word) : Window :=
  let g (i : Nat) : Word := (ws[i]?).getD 0
  { isOpen := bits (g 2) 6 1 = 1, base := g 0, bytes := (g 1).toNat, typ := BitVec.ofNat 4 (bits (g 2) 0 4),
    op := BitVec.ofNat 2 (bits (g 2) 4 2), copies := [] }

/-- Where window `k` starts in the window store: after the open windows of lower number (log 12). -/
def storeStart (ws : List Window) (k : Nat) : Nat := ((ws.take k).filter (·.isOpen)).foldl (fun n w => n + w.bytes) 0

/-- Copy `c` of the window store as 4096 units of 4 bytes, absent units zero, and their presence bits. -/
def storeUnits (ws : List Window) (c : Nat) : Nat × Nat :=
  ws.zipIdx.foldl (fun acc (w, k) =>
    if w.isOpen then
      w.copies.foldl (fun acc (key, v) =>
        if key / 4096 = c then
          let at_ := (storeStart ws k + key % 4096 * w.esz) / 4
          (acc.1 + v.toNat % 2 ^ (8 * w.esz) * 2 ^ (32 * at_), acc.2 + 2 ^ at_)
        else acc) acc
    else acc) (0, 0)

/-- The copies of window `k` read back from the store. -/
def copiesBack (ws : List Window) (k : Nat) (copy present : Nat → Nat) : List (Nat × Word) :=
  match ws[k]? with
  | none => []
  | some w =>
    if w.isOpen then
      (List.range 16).flatMap fun c => (List.range (w.bytes / w.esz)).filterMap fun x =>
        let at_ := (storeStart ws k + x * w.esz) / 4
        if present c / 2 ^ at_ % 2 = 1 then some (4096 * c + x, word (copy c / 2 ^ (32 * at_) % 2 ^ (8 * w.esz))) else none
    else []

/-- The fabric token records (13_context.md R381). -/
def tokenDws (ts : List FabricToken) : List Word :=
  ts.zipIdx.flatMap fun (t, i) =>
    let pos := ((ts.take i).filter (fun u => u.src == t.src && u.router == t.router && u.inp == t.inp)).length
    let fault := t.elem.fault
    [word (t.src.toNat + t.router.toNat * 8 + t.inp.toNat * 64 + t.escape.toNat * 256 + fault.isSome.toNat * 512 +
       (fault.map (fun f => f.1.toNat)).getD 0 * 1024 + pos * 2 ^ 18),
     (fault.map (fun f => f.2)).getD t.elem.val]

/-- A fabric token read back, with its position in its link's order. -/
def tokenBack (a b : Word) : Nat × FabricToken :=
  (bits a 18 46,
  { src := BitVec.ofNat 3 (bits a 0 3), router := BitVec.ofNat 3 (bits a 3 3), inp := BitVec.ofNat 2 (bits a 6 2),
    escape := bits a 8 1 = 1,
    elem := if bits a 9 1 = 1 then ⟨0, some (BitVec.ofNat 8 (bits a 10 8), b)⟩ else ⟨b, none⟩ })

/-- The fabric tokens read back, each link's in their order (13_context.md R381, R385). -/
def tokensBack (xs : List (Nat × FabricToken)) : List FabricToken := (sortBy (fun a b => a.1 ≤ b.1) xs).map (·.2)

/-- The code of an operand node state (10_matrix.md R318). -/
def OperandState.code : OperandState → Nat
  | .idle => 0
  | .armed => 1
  | .running => 2
  | .held => 3
  | .done => 4

/-- An operand node's sixteen doublewords (13_context.md R380). -/
def OperandNode.dws (o : OperandNode) : List Word :=
  padDws 16 (o.desc.toList ++ [word o.t, word o.state.code, o.full.setWidth 64])

/-- An operand node read back; a tile is consumed when its buffer is no longer full. -/
def OperandNode.ofDws (old : OperandNode) (ws : List Word) : OperandNode :=
  let g (i : Nat) : Word := (ws[i]?).getD 0
  let st : OperandState := match bits (g 9) 0 3 with
    | 1 => .armed
    | 2 => .running
    | 3 => .held
    | 4 => .done
    | _ => .idle
  let full : BitVec 4 := (g 10).setWidth 4
  let count := ((List.range 4).filter (fun i => full.getLsbD i)).length
  { old with state := st, desc := #v[g 0, g 1, g 2, g 3, g 4, g 5, g 6, g 7], t := (g 8).toNat, full := full,
             used := (g 8).toNat - count }

/-- The code of a chain state (09_chain.md R282). -/
def ChainState.code : ChainState → Nat
  | .none => 0
  | .idle => 1
  | .standing => 2
  | .temporal => 3
  | .held => 4

/-- The chain's state section (13_context.md R380). -/
def Chain.dws (c : Chain) : List Word :=
  padDws 8 [word (c.state.code + c.pin.toNat * 2 ^ 15), word c.n, word c.l, c.et, c.g0,
    word (c.breaks % 2 ^ 32 + c.reforms % 2 ^ 32 * 2 ^ 32), word (c.cause.toNat + c.slot.toNat * 16)] ++
  padDws 88 (c.p.map word) ++ (c.q.toList.map (fun q => word q.length))

/-- The chain block copy (13_context.md R380). -/
def Chain.blockDws (c : Chain) : List Word :=
  dwordsOf 128 (c.words.foldr (fun w acc => w.toNat + acc * 2 ^ 32) 0)

/-- The doublewords of an edge record (13_context.md R381). -/
def Edge.dws (e : Edge) : List Word :=
  let w := e.width.toNat
  let n := (w * e.elems.length + 127) / 128 * 2
  [word (e.producer % 64 + e.strip.toNat * 64 + e.consumer % 64 * 128 + e.port.toNat * 2 ^ 13 + w * 2 ^ 16 +
     e.elems.length * 2 ^ 32), word (e.first % 2 ^ 48)] ++ dwordsOf n (packBits w e.elems)

/-- Edge records read back, at most `fuel` of them. -/
def edgesBack : Nat → List Word → List Edge
  | fuel + 1, a :: b :: rest =>
    let w := bits a 16 7
    let count := bits a 32 32
    let n := (w * count + 127) / 128 * 2
    let x := ofDwords (rest.take n)
    ⟨bits a 6 1 = 1, BitVec.ofNat 7 w, bits a 0 6, bits a 7 6, BitVec.ofNat 3 (bits a 13 3), bits b 0 48, 0,
      (List.range count).map (fun i => word (x / 2 ^ (w * i) % 2 ^ w))⟩ :: edgesBack fuel (rest.drop n)
  | _, _ => []

/-- The header (13_context.md R381) with a slot state. -/
def headerDws (h : Hart) (time : Word) (state pend : Nat) : List Word :=
  padDws 32 [word (0x41454448 * 2 ^ 32 + 2 ^ 24 + state * 2 ^ 21 + h.index.toNat), h.seq.setWidth 64,
    word (h.armed.toNat * 2 ^ 49 + (h.run == .halted).toNat * 2 ^ 48 + h.cLive.toNat * 2 ^ 32 + h.vLive.toNat),
    word (h.mLive.toNat / 2), word (h.mLive.toNat / 2 ^ 65),
    if h.th then countDw h.held.viq.length h.held.piq.length h.held.miq.length h.held.srq.length h.held.bq.length else 0,
    countDw h.viq.length h.piq.length h.miq.length h.srq.length h.bq.length,
    word (h.ftokens.length % 2 ^ 16 + h.chain.edges.length % 2 ^ 24 * 2 ^ 16), h.skip,
    word (h.mreq.toNat + h.skipV.toNat * 8), time, word pend]

/-- The sections of a save area, in ascending offset, but for the header (13_context.md R380). -/
def saveSections (h : Hart) (time : Word) : List (Nat × List Word) :=
  let ws := h.windows.toList
  let isOpen := ws.any (·.isOpen)
  let live (b : Bool) (x : Nat × List Word) : List (Nat × List Word) := if b then [x] else []
  [(0x100, (h.s.set 0 0).toList), (0x300, h.f.toList),
   (0x400, (List.range 15).map (h.stateReg time) ++ [h.pc, h.ld.setWidth 64, h.held.pc, h.held.ld.setWidth 64, 0])] ++
  live h.th (0x800, queueDws h.held.viq h.held.piq h.held.miq h.held.srq h.held.bq) ++
  [(0x2000, queueDws h.viq h.piq h.miq h.srq h.bq),
   (0x3800, h.streams.toList.flatMap Stream.dws), (0x3C00, h.copies.toList.flatMap Token.dws),
   (0x4000, h.fnodes.toList.flatMap FabricNode.dws), (0x4400, ws.flatMap Window.dws),
   (0x4600, h.links.toList.flatMap Token.dws)] ++
  live (!h.ftokens.isEmpty) (0x4800, tokenDws h.ftokens) ++
  [(0x8000, h.onodes.toList.flatMap OperandNode.dws)] ++
  live (h.chain.state != .none) (0x9000, h.chain.blockDws) ++ [(0x9400, h.chain.dws)] ++
  live isOpen (0xA000, (List.range 16).flatMap (fun c => dwordsOf 64 (storeUnits ws c).2)) ++
  (List.range 32).flatMap (fun n => let q := (h.chain.q[n]?).getD []; live (!q.isEmpty) (0x10000 + 4096 * n, q)) ++
  live isOpen (0x30000, (List.range 16).flatMap (fun c => dwordsOf 2048 (storeUnits ws c).1)) ++
  (List.range 32).flatMap (fun n => live (h.vLive.getLsbD n) (0x70000 + 16384 * n, dwordsOf 2048 ((h.v[n]?).getD 0).toNat)) ++
  (List.range 95).flatMap (fun n => live (h.mLive.getLsbD (n + 1)) (0xF0000 + 512 * n, dwordsOf 64 ((h.m[n + 1]?).getD 0).toNat)) ++
  (List.range 16).flatMap (fun n => live (h.cLive.getLsbD n) (0x100000 + 4096 * n, dwordsOf 512 ((h.c[n]?).getD 0).toNat)) ++
  live (!h.chain.edges.isEmpty) (0x110000, h.chain.edges.flatMap Edge.dws)

/-- The sections of fixed place that a restore reads first, as offset and length. -/
def fixedSections : List (Nat × Nat) :=
  [(0, 32), (0x100, 64), (0x300, 32), (0x400, 20), (0x2000, 704), (0x3800, 128), (0x3C00, 128), (0x4000, 128),
   (0x4400, 32), (0x4600, 64), (0x8000, 256), (0x9400, 128)]

/-- Doubleword `i` of the section at an offset of an image. -/
def imgDws (img : List (Nat × List Word)) (off : Nat) : List Word := (img.lookup off).getD []

/-- The windows of an image. -/
def imgWindows (img : List (Nat × List Word)) : List Window :=
  (List.range 8).map (fun k => Window.ofDws (((imgDws img 0x4400).drop (4 * k)).take 4))

/-- The further sections that the fixed ones say are live (13_context.md R380, R381). -/
def liveSections (img : List (Nat × List Word)) : List (Nat × Nat) :=
  let hd (i : Nat) : Word := ((imgDws img 0)[i]?).getD 0
  let status := ((imgDws img 0x400)[0]?).getD 0
  let cs (i : Nat) : Word := ((imgDws img 0x9400)[i]?).getD 0
  let live (b : Bool) (x : Nat × Nat) : List (Nat × Nat) := if b then [x] else []
  let isOpen := (imgWindows img).any (·.isOpen)
  live (status.getLsbD 6) (0x800, 704) ++ live (bits (hd 7) 0 16 != 0) (0x4800, 2 * bits (hd 7) 0 16) ++
  live (bits (cs 0) 0 3 != 0) (0x9000, 128) ++ live isOpen (0xA000, 1024) ++
  (List.range 32).flatMap (fun n => live (cs (96 + n) != 0) (0x10000 + 4096 * n, min 512 (cs (96 + n)).toNat)) ++
  live isOpen (0x30000, 32768) ++
  (List.range 32).flatMap (fun n => live ((hd 2).getLsbD n) (0x70000 + 16384 * n, 2048)) ++
  (List.range 95).flatMap (fun n =>
    live (if n < 64 then (hd 3).getLsbD n else (hd 4).getLsbD (n - 64)) (0xF0000 + 512 * n, 64)) ++
  (List.range 16).flatMap (fun n => live ((hd 2).getLsbD (32 + n)) (0x100000 + 4096 * n, 512))

/-- The context that an image and the saved context give (13_context.md R385; log 12). -/
def restoreHart (ctx : Hart) (img : List (Nat × List Word)) : Hart :=
  let hd (i : Nat) : Word := ((imgDws img 0)[i]?).getD 0
  let sr (i : Nat) : Word := ((imgDws img 0x400)[i]?).getD 0 &&& csrBits i
  let cs (i : Nat) : Word := ((imgDws img 0x9400)[i]?).getD 0
  let piece (off n i : Nat) : List Word := ((imgDws img off).drop (n * i)).take n
  let cut (off d : Nat) : List Word := (imgDws img off).drop d
  let hc := hd 5
  let lc := hd 6
  let ws := imgWindows img
  let unit (off n c : Nat) : Nat := ofDwords (piece off n c)
  let mlive (n : Nat) : Bool := if n < 64 then (hd 3).getLsbD n else (hd 4).getLsbD (n - 64)
  let stages := bits (((imgDws img 0x9000)[0]?).getD 0) 0 6 + 1
  let blockLen := 1 + stages + 2 * bits (((imgDws img 0x9000)[0]?).getD 0) 6 6
  { ctx with
    s := Vector.ofFn (fun i => if i.val = 0 then 0 else ((imgDws img 0x100)[i.val]?).getD 0),
    f := Vector.ofFn (fun i => ((imgDws img 0x300)[i.val]?).getD 0),
    v := Vector.ofFn (fun i => if (hd 2).getLsbD i.val then BitVec.ofNat _ (unit (0x70000 + 16384 * i.val) 2048 0) else 0),
    m := Vector.ofFn (fun i => if 0 < i.val && mlive (i.val - 1) then BitVec.ofNat _ (unit (0xF0000 + 512 * (i.val - 1)) 64 0) else 0),
    c := Vector.ofFn (fun i => if (hd 2).getLsbD (32 + i.val) then BitVec.ofNat _ (unit (0x100000 + 4096 * i.val) 512 0) else 0),
    vLive := BitVec.ofNat 32 (bits (hd 2) 0 32), cLive := BitVec.ofNat 16 (bits (hd 2) 32 16),
    mLive := BitVec.ofNat 96 ((hd 3).toNat * 2 + (hd 4).toNat * 2 ^ 65),
    status := sr 0, cause := sr 1, epc := sr 2, ei := sr 3, faddr := sr 4, et := sr 5, vl := sr 6, grant := sr 7,
    lease := sr 8, vstat := sr 9, ffmask := sr 10, cmask := sr 11, scope := sr 12, rng := sr 14, pc := sr 15,
    ld := (sr 16).setWidth 6,
    held := { ctx.held with
      pc := sr 17, ld := (sr 18).setWidth 6,
      viq := entriesBack ctx.held.viq (bits hc 0 6) (imgDws img 0x800),
      piq := entriesBack ctx.held.piq (bits hc 8 6) (cut 0x800 256),
      miq := entriesBack ctx.held.miq (bits hc 16 5) (cut 0x800 512),
      srq := retsBack (bits hc 24 5) (cut 0x800 640), bq := retsBack (bits hc 32 5) (cut 0x800 672) },
    viq := entriesBack ctx.viq (bits lc 0 6) (imgDws img 0x2000),
    piq := entriesBack ctx.piq (bits lc 8 6) (cut 0x2000 256),
    miq := entriesBack ctx.miq (bits lc 16 5) (cut 0x2000 512),
    srq := retsBack (bits lc 24 5) (cut 0x2000 640), bq := retsBack (bits lc 32 5) (cut 0x2000 672),
    streams := Vector.ofFn (fun i => (ctx.streams[i]).ofDws (piece 0x3800 8 i.val)),
    copies := Vector.ofFn (fun i => (ctx.copies[i]).ofDws (piece 0x3C00 8 i.val)),
    links := Vector.ofFn (fun i => (ctx.links[i]).ofDws (piece 0x4600 8 i.val)),
    fnodes := Vector.ofFn (fun i => (ctx.fnodes[i]).ofDws (piece 0x4000 16 i.val)),
    ftokens := tokensBack ((List.range (bits (hd 7) 0 16)).map (fun i =>
      tokenBack (((imgDws img 0x4800)[2 * i]?).getD 0) (((imgDws img 0x4800)[2 * i + 1]?).getD 0))),
    windows := Vector.ofFn (fun i => { ((ws[i.val]?).getD .reset) with
      copies := copiesBack ws i.val (fun c => unit 0x30000 2048 c) (fun c => unit 0xA000 64 c) }),
    onodes := Vector.ofFn (fun i => (ctx.onodes[i]).ofDws (piece 0x8000 16 i.val)),
    skip := hd 8, skipV := (hd 9).getLsbD 3, mreq := (hd 9).setWidth 2, armed := (hd 2).getLsbD 49,
    index := BitVec.ofNat 6 (bits (hd 0) 0 6),
    chain := { ctx.chain with
      state := (match bits (cs 0) 0 3 with
        | 1 => .idle
        | 2 => .standing
        | 3 => .temporal
        | 4 => .held
        | _ => .none),
      pin := (cs 0).getLsbD 15, n := (cs 1).toNat, l := (cs 2).toNat, et := cs 3, g0 := cs 4,
      breaks := bits (cs 5) 0 32, reforms := bits (cs 5) 32 32, cause := BitVec.ofNat 4 (bits (cs 6) 0 4),
      slot := BitVec.ofNat 6 (bits (cs 6) 4 6),
      words := (if bits (cs 0) 0 3 = 0 then [] else
        (List.range blockLen).map (fun i => BitVec.ofNat 32 (bits (((imgDws img 0x9000)[i / 2]?).getD 0) (32 * (i % 2)) 32))),
      p := (if bits (cs 0) 0 3 = 0 then [] else (List.range stages).map (fun i => (cs (8 + i)).toNat)),
      edges := edgesBack (bits (hd 7) 16 24) (imgDws img 0x110000),
      q := Vector.ofFn (fun i => (imgDws img (0x10000 + 4096 * i.val)).take (cs (96 + i.val)).toNat) } }

/-! ### Transfers -/

/-- The engine's position in the partition's pool (13_context.md R378): guest-physical, or physical in host mode. -/
def State.slotBase (s : State) (part : BitVec 5) (idx : BitVec 16) : Nat :=
  ((s.part part).getD .reset).pool.toNat + idx.toNat * 2 ^ 23

/-- The context engine acting for a partition (13_context.md R378). -/
def State.poolAgent (s : State) (part : BitVec 5) (fn : BitVec 8) : Agent :=
  { host := ((s.part part).getD .reset).host, part := part, core := none, fn := fn, task := none }

/-- The locations of a doubleword of a pool. -/
def poolLocs (w : Agent) (acc : Access) (a : Nat) : Acc (List Nat) := do
  if w.host then do
    let s ← get
    if s.mapped w a then pure (dwLocs a) else throw ⟨eHpage, word a, word a⟩
  else do
    let (pa, _) ← stage2 w acc (word a) a
    pure (dwLocs pa)

/-- Whether doublewords at offsets `offs`, of which one at `off` covers a location, cover that location's whole granule. -/
def poolCovers (offs : List Nat) (off a : Nat) : Bool :=
  match granuleOf a with
  | some (g, n) => (List.range (n / 8)).all (fun i => offs.contains (off / 8 * 8 + g / 8 * 8 + 8 * i - a / 8 * 8))
  | none => true

/-- Writing the doubleword at an offset of a pool, of those at `offs`: one that would merge into a granule with an uncorrectable
error stops the transfer (04_memory_model.md R140; 13_context.md R384). -/
def poolStore (w : Agent) (base off : Nat) (offs : List Nat) (x : Word) : Acc Unit := do
  let va := word (base + off)
  let locs ← poolLocs w .store (base + off)
  fun s => match locs.find? (fun a => s.badAt a && !poolCovers offs off a) with
    | some a => .error ⟨eEcc, va, word a⟩ s.countUe
    | none => .ok () (s.writeLocs w.fn va (locs.zip (toBytes 8 x.toNat)))

/-- Reading a doubleword of a pool. -/
def poolLoad (w : Agent) (a : Nat) : Acc Word := do
  let locs ← poolLocs w .load a
  let bs ← readLocs locs (word a)
  pure (word (ofBytes bs))

/-- Writing some of the doublewords at offsets `offs`, in order; a fault says at which offset it stopped. -/
def poolStores (w : Agent) (base : Nat) (offs : List Nat) : List (Nat × Word) → State → Option (Nat × Fail) × State
  | [], s => (none, s)
  | (off, x) :: rest, s =>
    match poolStore w base off offs x s with
    | .ok _ s => poolStores w base offs rest s
    | .error e s => (some (off, e), s)

/-- Writing doublewords, in order, as one transfer. -/
def poolWrite (w : Agent) (base : Nat) (xs : List (Nat × Word)) (s : State) : Option (Nat × Fail) × State :=
  workingOn (poolStores w base (xs.map (·.1)) xs) s

/-- What a restore reads with: the package, the doublewords that an earlier attempt has read and this one has not come to,
and those it has read, newest first (13_context.md R384). -/
structure Reader where
  s : State
  old : List (Nat × Word)
  new : List (Nat × Word)

/-- A part of a restore: what it read, or the offset and fault at which it stopped. -/
abbrev Read (α : Type) := Except (Nat × Fail) α × Reader

/-- Reading the doubleword at an offset of a slot, once. -/
def poolDw (w : Agent) (base off : Nat) (r : Reader) : Read Word :=
  let fresh : Read Word := match poolLoad w (base + off) r.s with
    | .ok x s => (.ok x, { r with s := s, new := (off, x) :: r.new })
    | .error e s => (.error (off, e), { r with s := s })
  match r.old with
  | (o, x) :: rest => if o = off then (.ok x, { r with old := rest, new := (off, x) :: r.new }) else fresh
  | [] => fresh

/-- Reading one section; a fault says at which offset it stopped. -/
def poolSection (w : Agent) (base off : Nat) : Nat → Reader → Read (List Word)
  | 0, r => (.ok [], r)
  | n + 1, r =>
    match poolDw w base off r with
    | (.error e, r) => (.error e, r)
    | (.ok x, r) =>
      match poolSection w base (off + 8) n r with
      | (.ok xs, r) => (.ok (x :: xs), r)
      | (.error e, r) => (.error e, r)

/-- Reading sections in order. -/
def poolRead (w : Agent) (base : Nat) : List (Nat × Nat) → Reader → Read (List (Nat × List Word))
  | [], r => (.ok [], r)
  | (off, n) :: rest, r =>
    match poolSection w base off n r with
    | (.error e, r) => (.error e, r)
    | (.ok xs, r) =>
      match poolRead w base rest r with
      | (.ok img, r) => (.ok ((off, xs) :: img), r)
      | (.error e, r) => (.error e, r)

/-- The edge records of a slot: each record's header says how long it is (13_context.md R381). -/
def poolEdges (w : Agent) (base : Nat) : Nat → Nat → Reader → Read (List Word)
  | 0, _, r => (.ok [], r)
  | n + 1, off, r =>
    match poolSection w base off 2 r with
    | (.error e, r) => (.error e, r)
    | (.ok hd, r) =>
      let a := (hd[0]?).getD 0
      let len := (bits a 16 7 * bits a 32 32 + 127) / 128 * 2
      match poolSection w base (off + 16) len r with
      | (.error e, r) => (.error e, r)
      | (.ok xs, r) =>
        match poolEdges w base n (off + 16 + 8 * len) r with
        | (.ok rest, r) => (.ok (hd ++ xs ++ rest), r)
        | (.error e, r) => (.error e, r)

/-- The sections of a slot behind its header. -/
def poolBody (w : Agent) (base : Nat) (hd : List Word) (r : Reader) : Read (List (Nat × List Word)) :=
  match poolRead w base (fixedSections.drop 1) r with
  | (.error e, r) => (.error e, r)
  | (.ok img, r) =>
    let img := (0, hd) :: img
    match poolRead w base (liveSections img) r with
    | (.error e, r) => (.error e, r)
    | (.ok more, r) =>
      match poolEdges w base (bits ((hd[7]?).getD 0) 16 24) 0x110000 r with
      | (.error e, r) => (.error e, r)
      | (.ok es, r) => (.ok (img ++ more ++ [(0x110000, es)]), r)

/-- A whole image of a slot. -/
def poolImage (w : Agent) (base : Nat) (s : State) : Except (Nat × Fail) (List (Nat × List Word)) × State :=
  match poolSection w base 0 32 ⟨s, [], []⟩ with
  | (.error e, r) => (.error e, r.s)
  | (.ok hd, r) => match poolBody w base hd r with
    | (x, r) => (x, r.s)

/-- Changing a save slot. -/
def State.modSave (s : State) (part : BitVec 5) (idx : BitVec 16) (f : SaveSlot → SaveSlot) : State :=
  { s with saves := s.saves.map (fun v => if v.part = part ∧ v.idx = idx then f v else v) }

/-- A save slot that is not FREE. -/
def State.save (s : State) (part : BitVec 5) (idx : BitVec 16) : Option SaveSlot :=
  s.saves.find? (fun v => v.part == part && v.idx == idx)

/-- The lowest free slot of a partition (13_context.md R378). -/
def State.freeSave (s : State) (part : BitVec 5) : Option (BitVec 16) :=
  let n := ((s.part part).getD .reset).slots.toNat
  ((List.range n).find? (fun i => (s.save part (BitVec.ofNat 16 i)).isNone)).map (BitVec.ofNat 16)

/-- A header's first doubleword with a STATE (13_context.md R381). -/
def withSlotState (dw0 : Word) (code : Nat) : Word := (dw0 &&& ~~~(0xE00000 : Word)) ||| word (code * 2 ^ 21)

/-- What an uncorrectable error on an access to a slot leaves beside its count (04_memory_model.md R140). -/
def State.poolEcc (s : State) (fn : BitVec 8) (e : Fail) : State :=
  if e.code = eEcc then s.eccRecord fn e.gpa.toNat e.addr else s

/-- A save slot becomes FREE; its header says so, as far as it can be read and written (13_context.md R379). -/
def State.freeSaveSlot (s : State) (v : SaveSlot) : State :=
  let w := s.poolAgent v.part v.ctx.fn
  let base := s.slotBase v.part v.idx
  let s := { s with saves := s.saves.filter (fun u => !(u.part == v.part && u.idx == v.idx)) }
  match poolLoad w base s with
  | .ok x s => match poolWrite w base [(0, withSlotState x 0)] s with
    | (some (_, e), s) => s.poolEcc v.ctx.fn e
    | (none, s) => s
  | .error e _ => s.poolEcc v.ctx.fn e

/-- Discarding every hart of a task, wherever it is (12_command.md R373; 13_context.md R376, R395). -/
def State.discardHarts (s : State) (seq : BitVec 32) : State :=
  let s := (s.slotsOf seq).foldl (fun s i => s.freeSlot i) s
  let s := (s.saves.filter (fun v => v.ctx.seq == seq)).foldl (fun s v => s.freeSaveSlot v) s
  { s with waiters := s.waiters.filter (fun w => w.seq != seq) }

/-- Aborting a task as TASK_ABORT does (12_command.md R373): its final pitch has STATUS ABORTED. -/
def State.abortTask (s : State) (seq : BitVec 32) : State := (s.discardHarts seq).endTask seq 0x15

/-- The package stops: every task is aborted, with its final pitch and without a signal, no hart is left and none is saved, and the
PF reports the error (16_device.md R426; 12_command.md R360). -/
def State.stopAll (s : State) : State :=
  let s := s.tasks.foldl (fun s t => s.writePitch { t with status := 0x15, why := 0, finish := s.time }) s
  { s with harts := Vector.replicate 64 .reset, tasks := [], waiters := [], saves := [], stopped := true, sent := s.sent ++ [.aer],
           gates := s.gates.map (fun g => { g with posts := [] }) }

/-- A transfer has met a stage-2 fault (13_context.md R384): the record of KIND 3 to the PF, and the header's state and
PEND as far as it can be written: `dw0` is the header's first doubleword, where the transfer has it. An uncorrectable error in
the header aborts the task (04_memory_model.md R140). -/
def State.savePend (s : State) (v : SaveSlot) (state : SlotState) (dw0 : Option Word) (off : Nat) (e : Fail) : State :=
  let w := s.poolAgent v.part v.ctx.fn
  let base := s.slotBase v.part v.idx
  let s := s.modSave v.part v.idx (fun v => { v with state := state, pend := off })
  let (r, s) := poolWrite w base ((dw0.map fun x => (0, x)).toList ++ [(0x58, word off)]) s
  let pend (s : State) : State := s.post (mkRecord 0 v.ctx.seq v.part 0 8 eHpage 3 v.core v.ctx.index v.ctx.epc e.addr
    v.ctx.ei e.gpa (if state = .savePending then 0 else 1) 0)
  match r with
  | some (_, e) => if e.code = eEcc then (s.poolEcc v.ctx.fn e).abortTask v.ctx.seq else pend s
  | none => pend s

/-- Writing a save slot from an offset on (13_context.md R383): STATE := SAVING, the sections in ascending offset, the
header last. At its end the hart slot it came from is free. An uncorrectable error aborts the task and frees its slots (R384). -/
def State.runSave (s : State) (v : SaveSlot) (from_ : Nat) : State :=
  let w := s.poolAgent v.part v.ctx.fn
  let base := s.slotBase v.part v.idx
  let h := v.ctx
  let items := (saveSections h s.time).flatMap (fun (off, xs) => xs.zipIdx.map (fun (x, i) => (off + 8 * i, x)))
  let head := (headerDws h s.time 2 0).zipIdx.map (fun (x, i) => (8 * i, x))
  let first := if from_ = 0 then [(0, ((headerDws h s.time 1 0)[0]?).getD 0)] else []
  match (match poolWrite w base first s with
    | (none, s) => poolWrite w base (items.filter (fun (x : Nat × Word) => from_ ≤ x.1) ++ head) s
    | stopped => stopped) with
  | (none, s) =>
    let s := s.modSave v.part v.idx (fun v => { v with state := .saved, pend := 0 })
    let s := s.modTask h.seq (fun t => { t with places := t.places.set h.index.toNat (.saved v.idx) })
    s.freeSlot v.dest
  | (some (off, e), s) =>
    if e.code = eEcc then (s.poolEcc h.fn e).abortTask h.seq
    else s.savePend v .savePending (headerDws h s.time 3 0)[0]? (if off < 0x100 then (if from_ = 0 ∧ off = 0 then 0 else from_) else off) e

/-- The queues of a hart by number: 1 VIQ, 2 PIQ, 3 MIQ (05_hart.md R148). -/
def Hart.queueOf (h : Hart) (q : BitVec 2) : List Entry :=
  if q = 1 then h.viq else if q = 2 then h.piq else if q = 3 then h.miq else []

/-- Changing a queue of a hart. -/
def Hart.modQueueOf (h : Hart) (q : BitVec 2) (f : List Entry → List Entry) : Hart :=
  if q = 1 then { h with viq := f h.viq } else if q = 2 then { h with piq := f h.piq }
  else if q = 3 then { h with miq := f h.miq } else h

/-- Changing the entry at the head of a queue. -/
def modHead (f : Entry → Entry) : List Entry → List Entry
  | [] => []
  | e :: es => f e :: es

/-- The queues in program order of their heads. -/
def Hart.headOrder (h : Hart) : List (BitVec 2) :=
  let heads : List (Nat × BitVec 2) := [1, 2, 3].filterMap (fun q => ((h.queueOf q).head?).map (fun e => (e.seq, q)))
  (sortBy (fun a b => a.1 ≤ b.1) heads).map (·.2)

/-- The lowest P. -/
def Chain.minP (ch : Chain) : Nat := match ch.p with
  | [] => ch.n
  | p :: ps => ps.foldl min p

/-- A written ei of a held run: every P below it is raised to it, and what waits for the elements below it is dropped
(09_chain.md R287). -/
def Chain.raiseP (ch : Chain) (v : Nat) : Chain :=
  { ch with p := ch.p.map (fun p => max p v),
            edges := ch.edges.map (fun e =>
              if e.port = 6 then e else let d := v - e.first; { e with first := e.first + d, elems := e.elems.drop d }) }

/-- An entry with the vl that R12 of 01_engines.md counts its ei against: that of `accmerge` is the number of words of its window
(08_gather_fabric.md R257). -/
def Hart.sized (h : Hart) (e : Entry) : Entry :=
  match e.instr with
  | .accmerge k => let w := h.windows[k.toNat]'k.isLt
    if w.isOpen then { e with vl := BitVec.ofNat 32 w.words } else e
  | _ => e

/-- The head of queue `q` restarts from ei (01_engines.md R12, R21; 09_chain.md R287): a run raises its P values to it. The ei of
a `chform` is a word index, and left as trap entry wrote it, `kept`, it restarts the entry (02_encoding.md R68; log 11). -/
def Hart.restartHead (h : Hart) (q : BitVec 2) (kept : Option Word) : Hart :=
  match (h.queueOf q).head? with
  | none => h
  | some e =>
    if e.isRun then
      match h.chain.state with
      | .none | .idle => h
      | .standing | .temporal | .held => { h with chain := h.chain.raiseP (min h.ei.toNat h.chain.n) }
    else
      let again : Bool := match e.instr with
        | .chform _ => kept = some h.ei
        | _ => false
      h.modQueueOf q (modHead fun e => { e with prog := if again then 0 else (h.sized e).clamp h.ei.toNat })

/-- The queues, pc and `ld` of a halted hart, back where they were, the oldest head from ei (13_context.md R391, R392). A hart
halted inside a handler has the ei of its trap again (log 38). -/
def Hart.unhold (h : Hart) : Hart :=
  match h.dbg with
  | none => h
  | some d =>
    let back := { h with viq := d.viq, piq := d.piq, miq := d.miq, srq := d.srq, bq := d.bq, pc := d.pc, ld := d.ld, dbg := none }
    let back := back.restartHead d.queue none
    if h.th then { back with ei := d.eiSet } else back

/-- Holding the queues, the pc and `ld` of a hart for a debug halt: the position of the oldest head goes to ei, and every other
entry keeps its progress (13_context.md R391; 01_engines.md R20). -/
def Hart.hold (h : Hart) : Hart :=
  let q := (h.headOrder.head?).getD 0
  let at_ : Word := match (h.queueOf q).head? with
    | some e => if e.isRun then word h.chain.minP else e.prog.setWidth 64
    | none => h.ei
  let g := h.modQueueOf q (modHead fun e => { e with prog := 0 })
  { g with run := .halted, gateWait := none, dbg := some ⟨h.pc, h.ld, g.viq, g.piq, g.miq, h.srq, h.bq, q, h.ei⟩, ei := at_,
           viq := [], piq := [], miq := [], srq := [], bq := [], ld := 0 }

/-- A break of the chain (09_chain.md R284): counted, its cause kept, the run TEMPORAL, lent stalls back at their cores. The
links that it crossed are kept while one of them is the cause (R288). After cause 3 or 4, and where the run has just re-formed,
it re-forms at a later strip boundary (R288, R292), and so does a run in TEMPORAL that meets the cause at a boundary (R292). -/
def Hart.breakChain (h : Hart) (cause : BitVec 4) (slot : BitVec 6) : Hart :=
  match h.chain.state with
  | .standing | .held =>
    { h with chain := { h.chain with
        state := .temporal, breaks := min 65535 (h.chain.breaks + 1), cause := cause, slot := slot, lent := [],
        links := if cause = 7 then h.chain.links else 0, brokeAt := h.chain.p,
        notBefore := if cause = 3 ∨ cause = 4 ∨ (h.chain.reformed && h.chain.p.all (· == h.chain.formedAt))
          then (h.chain.minP / max 1 h.chain.l + 1) * h.chain.l else 0 } }
  | .temporal =>
    let p := h.chain.minP
    if h.chain.p.all (· == p) && p % max 1 h.chain.l = 0 then
      { h with chain := { h.chain with notBefore := max h.chain.notBefore (p + h.chain.l) } }
    else h
  | .none | .idle => h

/-- Whether an entry is a fabric access entry, which CMASK follows (08_gather_fabric.md R247, R251). -/
def Entry.isAccess (e : Entry) : Bool :=
  match e.instr with
  | .fgather _ _ _ _ | .fscatter _ _ _ _ | .fwgather _ _ _ _ | .vamoadd _ _ _ _ | .vamomin _ _ _ _ | .vamomax _ _ _ _
  | .fas _ _ _ _ | .awadd _ _ _ _ | .awmin _ _ _ _ | .awmax _ _ _ _ => true
  | _ => false

/-- CMASK of an entry that stopped at element `k` (08_gather_fabric.md R251). -/
def cmaskWord (k : Nat) : Word := word (2 ^ 63 + (2 ^ (k % 8) - 1) * 2 ^ 32 + k / 8 % 2 ^ 32)

/-- A fabric access entry at the head of queue `q` has stopped at element `k` (08_gather_fabric.md R251). -/
def Hart.stopAccess (h : Hart) (q : BitVec 2) (k : Nat) : Hart :=
  match (h.queueOf q).head? with
  | some e => if e.isAccess && e.raw.isNone then { h with cmask := cmaskWord k } else h
  | none => h

/-- What a pre-emption does to the work of a hart before its context is taken. -/
def Hart.atSave (h : Hart) : Hart :=
  (h.breakChain 2 0).stopAccess 1 ((h.viq.head?.map (·.prog.toNat)).getD 0)

/-- Taking a hart's context into a save slot (13_context.md R377, R378, R383): a run that stands breaks with cause 2
(09_chain.md R289), CMASK says how far the fabric access entry at the head of the VIQ has come (08_gather_fabric.md R251; log 68),
an instruction that waits at a gate is taken as not executed (05_hart.md R169), and none when the pool has
no free slot. -/
def State.saveHart (s : State) (slot : Fin 64) (waiting : Bool) : Option (State × SaveSlot) :=
  let h := s.harts[slot]
  let part := BitVec.ofNat 5 (bits h.scope 27 5)
  match s.freeSave part with
  | none => none
  | some idx =>
    let v : SaveSlot := { part := part, idx := idx, state := .saving, core := BitVec.ofNat 4 (slot.val / 4), pend := 0,
                          waiting := waiting, since := s.time, dest := slot,
                          ctx := { h.unhold.atSave with gateWait := none, leaving := [] }, got := [] }
    some ({ s with saves := s.saves ++ [v], harts := s.harts.set slot { h with run := .preempted } }, v)

/-- Whether the harts of a partition on a core are fenced (04_memory_model.md R140; 13_context.md R384). -/
def State.fencedOn (s : State) (part : BitVec 5) (core : BitVec 4) : Bool :=
  s.fenced.contains part ||
  s.saves.any (fun v => v.part == part && v.core == core && (v.state == .savePending || v.state == .restorePending))

end Sys2Proof.Machine
end

