-- ==== Sys2Proof/Machine/Ops.lean ====
section
/-!
DEFINITION. The operations every family shares: the hart that moves, its scalar registers, the retirement of an
instruction, accesses on the hart's behalf, and taking a trap and returning from one (01_engines.md R20 to R22;
02_encoding.md R53; 05_hart.md R143, R149, R165 to R168).
-/

namespace Sys2Proof.Machine

/-- The outcome of an instruction or event. -/
abbrev Out := Host.Outcome State Fault Refusal

/-! ### The hart -/

/-- The hart that moves. -/
def State.hart (s : State) : Hart := s.harts[s.cur]

/-- Putting the hart that moves back. -/
def State.setHart (s : State) (h : Hart) : State := { s with harts := s.harts.set s.cur h }

/-- A scalar register; s0 reads as zero (05_hart.md R143). -/
def Hart.sreg (h : Hart) (n : BitVec 6) : Word := if n = 0 then 0 else h.s[n.toNat]'n.isLt

/-- Writing a scalar register; a write to s0 is discarded (05_hart.md R143). -/
def Hart.setS (h : Hart) (n : BitVec 6) (x : Word) : Hart :=
  if n = 0 then h else { h with s := h.s.set n.toNat x n.isLt }

/-- A floating-point register (05_hart.md R144). -/
def Hart.freg (h : Hart) (n : BitVec 5) : Word := h.f[n.toNat]'n.isLt

/-- Writing a floating-point register. -/
def Hart.setF (h : Hart) (n : BitVec 5) (x : Word) : Hart := { h with f := h.f.set n.toNat x n.isLt }

/-- Retiring an instruction that writes s[d]: `ld` names d (02_encoding.md R53); `len` is its length in bytes. -/
def Hart.retireS (h : Hart) (len : Nat) (d : BitVec 6) (x : Word) : Hart :=
  { h.setS d x with pc := h.pc + word len, ld := d }

/-- Retiring an instruction that writes no scalar register: `ld` is 0 (02_encoding.md R53). -/
def Hart.retire (h : Hart) : Hart := { h with pc := h.pc + 4, ld := 0 }

/-- The hart as an agent (04_memory_model.md R106, R116, R117). -/
def Hart.agent (h : Hart) : Agent :=
  { host := h.scope.getLsbD 26, part := BitVec.ofNat 5 (bits h.scope 27 5), core := some (BitVec.ofNat 4 (bits h.scope 20 4)),
    fn := h.fn, task := some h.seq }

/-- The hart's partition. -/
def Hart.part (h : Hart) : BitVec 5 := BitVec.ofNat 5 (bits h.scope 27 5)

/-- The hart's core. -/
def Hart.core (h : Hart) : Nat := bits h.scope 20 4

/-- A run of the hart's chain is attached: its `chrun`, taken up, stands at the head of the VIQ (09_chain.md R277, R278). -/
def Hart.attached (h : Hart) : Bool :=
  match h.viq with
  | e :: _ => e.isRun
  | [] => false

/-- A scope code as it applies: in guest mode a code above 4 is clamped to 4 and sets STATUS.CLAMP (04_memory_model.md
R119). -/
def Hart.clampScope (h : Hart) (c : BitVec 3) : Hart × BitVec 3 :=
  if !h.scope.getLsbD 26 && 4 < c.toNat then ({ h with status := h.status ||| 0x80 }, 4) else (h, c)

/-! ### Computations that may stop -/

/-- Why an instruction or queue entry does not complete: a trap with its cause, raising engine, FADDR and position, or
a wait. -/
inductive Stop where
  | trap (code : BitVec 8) (src : BitVec 4) (addr : Option Word) (gpa : Word) (ei : Nat)
  | wait
deriving DecidableEq, Repr

/-- A computation over the package that may stop. -/
abbrev Run := EStateM Stop State

/-- The hart that moves. -/
def theHart : Run Hart := fun s => .ok s.hart s

/-- Changing the hart that moves. -/
def modHart (f : Hart → Hart) : Run Unit := fun s => .ok () (s.setHart (f s.hart))

/-- Stopping with a trap at element `ei`. -/
def trapAt (src : BitVec 4) (code : BitVec 8) (addr : Option Word) (ei : Nat) : Run α :=
  throw (.trap code src addr 0 ei)

/-- A failed check at issue (05_hart.md R149, code 0x03). -/
def operandTrap (src : BitVec 4) : Run α := trapAt src eOperand none 0

/-- An access for an engine; its fault is a trap at element `ei`. -/
def acc (src : BitVec 4) (ei : Nat) (a : Acc α) : Run α := fun s =>
  match a s with
  | .ok x s => .ok x s
  | .error e s => .error (.trap e.code src (some e.addr) e.gpa ei) s

/-- The outcome of the access itself, for a caller that judges its fault. -/
def tryRun (a : Acc α) : Run (Except Fail α) := fun s =>
  match a s with
  | .ok x s => .ok (.ok x) s
  | .error e s => .ok (.error e) s

/-- Waiting when a condition does not hold. -/
def waitUnless (b : Bool) : Run Unit := if b then pure () else throw .wait

/-! ### Traps -/

/-- A bit of a register set to a value. -/
def withBit (w : Word) (i : Nat) (b : Bool) : Word :=
  if b then w ||| BitVec.twoPow 64 i else w &&& ~~~ BitVec.twoPow 64 i

/-- STATUS with TH and HELD (05_hart.md R147). -/
def statusWith (w : Word) (th held : Bool) : Word := withBit (withBit w 6 th) 5 held

/-- CAUSE (05_hart.md R148). -/
def causeWord (src : BitVec 4) (queue : BitVec 2) (code : BitVec 8) : Word :=
  word (src.toNat * 2 ^ 20 + queue.toNat * 2 ^ 16 + code.toNat)

/-- A pc as EPC holds it (05_hart.md R150). -/
def epcWord (pc : Word) : Word := pc &&& 0x00FFFFFFFFFFFFFE

/-- Causes that go to a record, not to the handler (05_hart.md R149). -/
def toRecord (code : BitVec 8) : Bool := code == ePage || code == eHpage || code == eEcc || code == eDouble

/-- What a hart trap at `epc` does to the hart, but for the pc (05_hart.md R165). -/
def Hart.hartEntry (h : Hart) (epc : Word) (code : BitVec 8) (src : BitVec 4) (addr : Option Word) : Hart :=
  { h with epc := epcWord epc, cause := causeWord src 0 code, ei := 0, faddr := addr.getD h.faddr,
           held := { Held.empty with ld := h.ld, srq := h.srq, bq := h.bq }, srq := [], bq := [], ld := 0,
           status := statusWith h.status true false }

/-- What an engine trap on the head of a queue does to the hart, but for the pc (01_engines.md R20, 05_hart.md R165).
A run attached while an entry of another queue faults breaks with cause 8. -/
def Hart.engineEntry (h : Hart) (q : BitVec 2) (code : BitVec 8) (src : BitVec 4) (addr : Option Word) (ei : Nat) : Hart :=
  let h := if q = 1 then h else h.breakChain 8 0
  let h := h.modQueueOf q (modHead fun e => { e with prog := 0 })
  { h with epc := epcWord (((h.queueOf q).head?.map (·.pc)).getD h.pc), cause := causeWord src q code,
           ei := word (ei % 2 ^ 48), faddr := addr.getD h.faddr,
           held := { pc := h.pc, ld := h.ld, viq := h.viq, piq := h.piq, miq := h.miq, srq := h.srq, bq := h.bq,
                     queue := q, eiSet := word (ei % 2 ^ 48) },
           viq := [], piq := [], miq := [], srq := [], bq := [], ld := 0, status := statusWith h.status true true }

/-- The record of a hart (12_command.md R368, R369): `E_HPAGE` goes to the PF (04_memory_model.md R111). -/
def hartRecord (h : Hart) (slot : Fin 64) (code : BitVec 8) (src : BitVec 4) (queue : BitVec 2) (epc faddr ei d0 : Word) :
    HeldRecord :=
  mkRecord (if code = eHpage then 0 else h.fn) h.seq h.part (queue.setWidth 4) src code 1 (BitVec.ofNat 4 (slot.val / 4))
    h.index epc faddr ei d0 0 0

/-- Delivering a hart as a record (04_memory_model.md R111; 13_context.md R376): its context is saved, or it stops in
place where no slot is free (16_device.md R431), and the record is posted. What it has stored is performed before the save
(04_memory_model.md R133). -/
def State.parkForRecord (s : State) (h : Hart) (r : HeldRecord) : State :=
  let s := (s.setHart { h with recordFn := r.fn, gateWait := none }).perform s.cur
  let h := s.hart
  let s' := match s.saveHart s.cur true with
    | some (s', v) => s'.runSave v 0
    | none => (s.setHart { h with run := .stopped }).arbitrate (s.cur.val / 4)
  s'.post r

/-- Taking a trap whose effects on the hart are `entered`, from the hart `h` with its queues as they stand: to the
handler, to a record, or as a double trap, whose saved pc is `pc` (05_hart.md R149, R165, R168). Within a handler a cause
routed to a record sets EPC, CAUSE, ei, FADDR and the held queues as anywhere, over what the first trap holds
(04_memory_model.md R111; log 13). An instruction that waited on a toll waits no longer (11_gate.md R327). -/
def State.takeTrap (s : State) (h entered : Hart) (queue : BitVec 2) (code : BitVec 8) (src : BitVec 4) (pc : Word)
    (addr : Option Word) (gpa : Word) : State :=
  let s := if h.gateWait.isSome then s.leaveTolls s.cur else s
  let d0 : Word := if code = eHpage then gpa else 0
  if h.th then
    if toRecord code then
      s.parkForRecord { entered with asReturn := true, outer := some (h.held, h.heldBit) }
        (hartRecord h s.cur code src queue entered.epc entered.faddr entered.ei d0)
    else
      s.parkForRecord { h with asReturn := false, pc := pc }
        (hartRecord h s.cur eDouble src queue (epcWord pc) (addr.getD h.faddr) h.ei (code.setWidth 64))
  else if toRecord code ∨ h.handler = 0 then
    s.parkForRecord { entered with asReturn := true }
      (hartRecord h s.cur code src queue entered.epc entered.faddr entered.ei d0)
  else s.setHart { entered with pc := h.handler, gateWait := none }

/-- The oldest store that has timed out, of those in the queues that `p` names, and the hart without it (04_memory_model.md
R141). -/
def Hart.takeLate (h : Hart) (p : BitVec 2 → Bool) : Option (Word × Hart) :=
  match h.lateStores.findIdx? (fun x => p x.1) with
  | none => none
  | some i => (h.lateStores[i]?).map (fun x => (x.2, { h with lateStores := h.lateStores.eraseIdx i }))

/-- The store whose timeout comes before a trap: one that leads to a context save, for a record or a double trap, raises the oldest store that has
timed out in its place, and comes back when the instruction or entry executes again (04_memory_model.md R141; log 60). -/
def Hart.lateFirst (h : Hart) (code : BitVec 8) : Option (Word × Hart) :=
  if (toRecord code ∨ h.handler = 0 ∨ h.th) ∧ code ≠ eMemTimeout then h.takeLate (fun _ => true) else none

/-- A hart trap of an instruction at the pc, its queues drained (01_engines.md R22, 05_hart.md R165). With `past` the
instruction is `trap`, whose EPC lies after it (R167). -/
def State.takeHartTrap (s : State) (code : BitVec 8) (src : BitVec 4) (addr : Option Word) (gpa : Word) (past : Bool) : State :=
  let (code, addr, gpa, past, h) := match s.hart.lateFirst code with
    | some (a, h) => (eMemTimeout, some a, 0, false, h)
    | none => (code, addr, gpa, past, s.hart)
  let h := if past then { h with pc := h.pc + 4, ld := 0 } else h
  s.takeTrap h (h.hartEntry h.pc code src addr) 0 code src h.pc addr gpa

/-- The progress of an entry that stops at `ei`: a run's is its P values, and the word index of a `chform` is none. -/
def Entry.stopAt (e : Entry) (ei : Nat) : BitVec 48 :=
  match e.instr with
  | .chform _ => 0
  | _ => if e.isRun then 0 else e.clamp ei

/-- An engine trap on the head of queue `q` at position `ei` (01_engines.md R20); as a double trap it leaves the entry its
progress (05_hart.md R168), and a fabric access entry leaves CMASK (08_gather_fabric.md R251). -/
def State.takeEngineTrap (s : State) (q : BitVec 2) (code : BitVec 8) (src : BitVec 4) (addr : Option Word) (gpa : Word)
    (ei : Nat) : State :=
  let (code, addr, gpa, h) := match s.hart.lateFirst code with
    | some (a, h) => (eMemTimeout, some a, 0, h)
    | none => (code, addr, gpa, s.hart)
  let h := (h.stopAccess q ei).modQueueOf q (modHead h.sized)
  let pc := ((h.queueOf q).head?.map (·.pc)).getD h.pc
  let kept := h.modQueueOf q (modHead fun e => { e with prog := e.stopAt ei })
  s.takeTrap kept (h.engineEntry q code src addr ei) q code src pc addr gpa

/-- The queue that CAUSE names, none for a number that names none (05_hart.md R148). -/
def Hart.causeQueue (h : Hart) : BitVec 2 := if bits h.cause 16 4 < 4 then BitVec.ofNat 2 (bits h.cause 16 4) else 0

/-- Return from a trap, the handler's own queues drained (05_hart.md R166): the held queues or the held return entries
come back, and TH and HELD are clear. The head of the queue that CAUSE names restarts from ei (05_hart.md R148; 01_engines.md
R12, R21), and a chain run stands first in the VIQ. Where a record held a handler, the handler goes on, and its own trap is held
again (05_hart.md R168; log 13). -/
def Hart.trapReturn (h : Hart) : Hart :=
  let back := if h.heldBit then
      let h' := { h with viq := h.held.viq, piq := h.held.piq, miq := h.held.miq, srq := h.held.srq, bq := h.held.bq,
                         pc := h.held.pc }
      let h' := h'.restartHead h.causeQueue (some h.held.eiSet)
      { h' with viq := h'.viq.filter (·.isRun) ++ h'.viq.filter (fun e => !e.isRun) }
    else { h with srq := h.held.srq, bq := h.held.bq, pc := h.epc }
  match h.outer with
  | none => { back with ld := h.held.ld, status := statusWith h.status false false, held := .empty }
  | some (d, b) => { back with ld := h.held.ld, status := statusWith h.status true b, held := d, outer := none }

/-! ### Moving on another hart's behalf -/

/-- Running a change with another hart as the one that moves. -/
def State.onSlot (s : State) (slot : Fin 64) (f : State → State) : State :=
  { f { s with cur := slot } with cur := s.cur }

/-- The hart of a slot runs and is not fenced (04_memory_model.md R140; 13_context.md R384). -/
def State.runs (s : State) (slot : Fin 64) : Bool :=
  let h := s.harts[slot]
  h.run == .running && !(s.fencedOn h.part (BitVec.ofNat 4 (slot.val / 4)))

end Sys2Proof.Machine
end

