-- ==== Sys2Proof/Machine/Flags.lean ====
section
/-!
DEFINITION. The flags of VSTAT (03_arithmetic.md R94, R95; 07_lane.md R206). An operation answers its result with the
flags it raises, which are only ever added.
-/

namespace Sys2Proof.Machine

/-- The flags an operation raises, as bits of VSTAT. -/
abbrev Fl := Word

/-- Invalid. -/
def flNV : Fl := 0x01
/-- Division by zero. -/
def flDZ : Fl := 0x02
/-- Overflow. -/
def flOF : Fl := 0x04
/-- Underflow: tiny and inexact. -/
def flUF : Fl := 0x08
/-- Inexact. -/
def flNX : Fl := 0x10
/-- A value was clamped. -/
def flSATF : Fl := 0x20
/-- A reduction found no active element (07_lane.md R206). -/
def flEMPTY : Fl := 0x40

/-- A flag raised under a condition. -/
def flIf (b : Bool) (f : Fl) : Fl := if b then f else 0

/-- Adding flags to VSTAT; nothing is cleared (03_arithmetic.md R95). -/
def Hart.flag (h : Hart) (f : Fl) : Hart := { h with vstat := h.vstat ||| f }

end Sys2Proof.Machine
end

