-- ==== Sys2Proof/Machine/Fp.lean ====
section
/-!
DEFINITION. Number formats and exact arithmetic (03_arithmetic.md R75 to R93): a value is decoded, the operation is
exact, and the result is rounded once.
-/

namespace Sys2Proof.Machine

/-! ### Formats -/

/-- How a format uses its highest exponent (03_arithmetic.md R77). -/
inductive FmtKind where
  /-- Infinities and NaNs. -/
  | ieee
  /-- NaN only, at all ones: f8e4m3. -/
  | e4m3
  /-- Neither: f4e2m1. -/
  | e2m1
deriving DecidableEq, Repr

/-- A floating-point format (03_arithmetic.md R77). -/
structure Fmt where
  width : Nat
  frac : Nat
  bias : Nat
  kind : FmtKind
deriving DecidableEq, Repr

/-- f64. -/
def fmtF64 : Fmt := ⟨64, 52, 1023, .ieee⟩
/-- f32. -/
def fmtF32 : Fmt := ⟨32, 23, 127, .ieee⟩
/-- f16. -/
def fmtF16 : Fmt := ⟨16, 10, 15, .ieee⟩
/-- bf16. -/
def fmtBf16 : Fmt := ⟨16, 7, 127, .ieee⟩
/-- f8e4m3. -/
def fmtE4m3 : Fmt := ⟨8, 3, 7, .e4m3⟩
/-- f8e5m2. -/
def fmtE5m2 : Fmt := ⟨8, 2, 15, .ieee⟩
/-- f4e2m1. -/
def fmtE2m1 : Fmt := ⟨4, 1, 1, .e2m1⟩

/-- The rounding modes (03_arithmetic.md R86): `rsr` carries its 64-bit draw (R87). -/
inductive Rm where
  | rne
  | rtz
  | rup
  | rdn
  | rsr (z : Word)
deriving DecidableEq, Repr

/-- The mode of RM where `rsr` acts as `rne` (03_arithmetic.md R86). -/
def rmOf (rm : Nat) : Rm :=
  match rm with
  | 1 => .rtz
  | 2 => .rup
  | 3 => .rdn
  | _ => .rne

/-- The step of the generator (03_arithmetic.md R87, R88). -/
def rngStep : Word := 0x9E3779B97F4A7C15

/-- The draw of element `i` (03_arithmetic.md R87). -/
def draw (g : Word) (i : Nat) : Word :=
  let z := g + word (i + 1) * rngStep
  let z := (z ^^^ (z >>> 30)) * 0xBF58476D1CE4E5B9
  let z := (z ^^^ (z >>> 27)) * 0x94D049BB133111EB
  z ^^^ (z >>> 31)

/-- A decoded value: a finite one is mant × 2^exp. -/
inductive Fp where
  | nan (signalling : Bool)
  | inf (neg : Bool)
  | fin (neg : Bool) (mant : Nat) (exp : Int)
deriving DecidableEq, Repr

/-- The exponent field's width. -/
def Fmt.expBits (f : Fmt) : Nat := f.width - 1 - f.frac

/-- The exponent of the last place of a subnormal (03_arithmetic.md R77). -/
def Fmt.qmin (f : Fmt) : Int := 1 - (f.bias : Int) - (f.frac : Int)

/-- The significand and last-place exponent of the largest finite value (03_arithmetic.md R77). -/
def Fmt.maxFinite (f : Fmt) : Nat × Int :=
  match f.kind with
  | .ieee => (2 ^ (f.frac + 1) - 1, (f.bias : Int) - f.frac)
  | .e4m3 => (14, 5)
  | .e2m1 => (3, 1)

/-- The canonical NaN (03_arithmetic.md R83); f4e2m1 has none, and +0 stands for it (R90). -/
def Fmt.canonNan (f : Fmt) : Nat :=
  match f.kind with
  | .ieee => (2 ^ f.expBits - 1) * 2 ^ f.frac + 2 ^ (f.frac - 1)
  | .e4m3 => 0x7F
  | .e2m1 => 0

/-- The sign bit in place. -/
def Fmt.sign (f : Fmt) (neg : Bool) : Nat := if neg then 2 ^ (f.width - 1) else 0

/-- The infinity of a format that has one. -/
def Fmt.infBits (f : Fmt) (neg : Bool) : Nat := f.sign neg + (2 ^ f.expBits - 1) * 2 ^ f.frac

/-- Decoding a value (03_arithmetic.md R77, R83). -/
def Fmt.decode (f : Fmt) (x : Nat) : Fp :=
  let neg := x / 2 ^ (f.width - 1) % 2 = 1
  let e := x / 2 ^ f.frac % 2 ^ f.expBits
  let m := x % 2 ^ f.frac
  let finite : Fp := if e = 0 then .fin neg m f.qmin else .fin neg (2 ^ f.frac + m) (f.qmin + (e - 1 : Nat))
  match f.kind with
  | .ieee => if e = 2 ^ f.expBits - 1 then (if m = 0 then .inf neg else .nan (m < 2 ^ (f.frac - 1))) else finite
  | .e4m3 => if e = 15 ∧ m = 7 then .nan false else finite
  | .e2m1 => finite

/-- Encoding m × 2^q, where q is the last place of the result's binade or of the subnormals (03_arithmetic.md R77). -/
def Fmt.encodeFinite (f : Fmt) (neg : Bool) (m : Nat) (q : Int) : Nat :=
  if m < 2 ^ f.frac then f.sign neg + m
  else
    let l := m.log2
    let e := ((l : Int) - f.frac + q - f.qmin + 1).toNat
    f.sign neg + e * 2 ^ f.frac + (m * 2 ^ f.frac / 2 ^ l - 2 ^ f.frac)

/-! ### Rounding -/

/-- Whether a discarded part rounds away from zero (03_arithmetic.md R86, R87): `rem` of 2^shift, and whether more lies
below. -/
def roundsUp (rm : Rm) (neg : Bool) (m rem shift : Nat) (sticky : Bool) : Bool :=
  let inexact := rem != 0 || sticky
  match rm with
  | .rne => let half := 2 ^ shift / 2
            half < rem || (rem = half && (sticky || m % 2 = 1))
  | .rtz => false
  | .rup => inexact && !neg
  | .rdn => inexact && neg
  | .rsr z => inexact && 2 ^ 32 ≤ rem * 2 ^ 32 / 2 ^ shift + bits z 32 32

/-- The multiple of 2^q next to (mant + sticky) × 2^exp, and whether it is inexact. -/
def roundAt (rm : Rm) (neg : Bool) (mant : Nat) (exp q : Int) (sticky : Bool) : Nat × Bool :=
  if q ≤ exp then (mant * 2 ^ (exp - q).toNat, sticky)
  else
    let k := (q - exp).toNat
    let m := mant / 2 ^ k
    let rem := mant % 2 ^ k
    (if roundsUp rm neg m rem k sticky then m + 1 else m, rem != 0 || sticky)

/-- Whether m × 2^q exceeds a × 2^b. -/
def exceeds (m : Nat) (q : Int) (a : Nat) (b : Int) : Bool :=
  if b ≤ q then a < m * 2 ^ (q - b).toNat else a * 2 ^ (b - q).toNat < m

/-- What an overflow delivers (03_arithmetic.md R89). -/
def Fmt.overflow (f : Fmt) (rm : Rm) (sat : Bool) (neg : Bool) : Nat × Fl :=
  let (mm, mq) := f.maxFinite
  let top := f.encodeFinite neg mm mq
  let inf := match f.kind with | .ieee => f.infBits neg | .e4m3 => f.canonNan | .e2m1 => top
  if sat ∨ f.kind = .e2m1 then (top, flSATF ||| flNX)
  else
    let toInf := match rm with
      | .rne | .rsr _ => true
      | .rtz => false
      | .rup => !neg
      | .rdn => neg
    (if toInf then inf else top, flOF ||| flNX)

/-- Rounding (mant + sticky) × 2^exp, not zero, into a format (03_arithmetic.md R85 to R89). -/
def Fmt.round (f : Fmt) (rm : Rm) (sat : Bool) (neg : Bool) (mant : Nat) (exp : Int) (sticky : Bool) : Nat × Fl :=
  let top : Int := mant.log2 + exp
  let qu := top - f.frac
  let q := max qu f.qmin
  let (m, inexact) := roundAt rm neg mant exp q sticky
  let (mm, mq) := f.maxFinite
  if exceeds m q mm mq then f.overflow rm sat neg
  else
    let tiny := qu < f.qmin && exceeds (2 ^ f.frac) f.qmin (roundAt rm neg mant exp qu sticky).1 qu
    (f.encodeFinite neg m q, flIf inexact flNX ||| flIf (tiny && inexact) flUF)

/-- A zero of a sign. -/
def Fmt.zero (f : Fmt) (neg : Bool) : Nat := f.sign neg

/-- Rounding a signed exact value m × 2^exp; an exact zero takes the given sign. -/
def Fmt.roundInt (f : Fmt) (rm : Rm) (zeroNeg : Bool) (m : Int) (exp : Int) : Nat × Fl :=
  if m = 0 then (f.zero zeroNeg, 0) else f.round rm false (m < 0) m.natAbs exp false

/-- A quiet result: the canonical NaN with NV under a condition. -/
def Fmt.nanRes (f : Fmt) (nv : Bool) : Nat × Fl := (f.canonNan, flIf nv flNV)

/-! ### Operations -/

/-- Whether a value is a signalling NaN. -/
def Fp.isSnan : Fp → Bool
  | .nan s => s
  | .inf _ | .fin _ _ _ => false

/-- Whether a value is a NaN. -/
def Fp.isNan : Fp → Bool
  | .nan _ => true
  | .inf _ | .fin _ _ _ => false

/-- The sign flipped. -/
def Fp.negate : Fp → Fp
  | .nan s => .nan s
  | .inf n => .inf (!n)
  | .fin n m e => .fin (!n) m e

/-- A finite value as a signed integer at exponent `e`, which is not above its own. -/
def intAt (neg : Bool) (m : Nat) (exp e : Int) : Int :=
  let x : Int := m * 2 ^ (exp - e).toNat
  if neg then -x else x

/-- Addition (03_arithmetic.md R84, R85, R94). -/
def Fmt.add (f : Fmt) (rm : Rm) (a b : Fp) : Nat × Fl :=
  match a, b with
  | .nan s, y => f.nanRes (s || y.isSnan)
  | _, .nan s => f.nanRes s
  | .inf n, .inf k => if n = k then (f.infBits n, 0) else f.nanRes true
  | .inf n, .fin _ _ _ => (f.infBits n, 0)
  | .fin _ _ _, .inf n => (f.infBits n, 0)
  | .fin n m x, .fin k l y =>
    let e := min x y
    f.roundInt rm (if n = k then n else rm = .rdn) (intAt n m x e + intAt k l y e) e

/-- Multiplication (03_arithmetic.md R85, R94). -/
def Fmt.mul (f : Fmt) (rm : Rm) (a b : Fp) : Nat × Fl :=
  match a, b with
  | .nan s, y => f.nanRes (s || y.isSnan)
  | _, .nan s => f.nanRes s
  | .inf n, .inf k => (f.infBits (n != k), 0)
  | .inf n, .fin k m _ => if m = 0 then f.nanRes true else (f.infBits (n != k), 0)
  | .fin k m _, .inf n => if m = 0 then f.nanRes true else (f.infBits (n != k), 0)
  | .fin n m x, .fin k l y =>
    if m * l = 0 then (f.zero (n != k), 0) else f.round rm false (n != k) (m * l) (x + y) false

/-- Fused multiply-add a × b + c, rounded once (03_arithmetic.md R85). -/
def Fmt.fma (f : Fmt) (rm : Rm) (a b c : Fp) : Nat × Fl :=
  let snan := a.isSnan || b.isSnan || c.isSnan
  let sum (n : Bool) (m : Nat) (x : Int) : Nat × Fl := f.add rm (.fin n m x) c
  let infinite (n : Bool) : Nat × Fl := match c with
    | .nan s => f.nanRes s
    | .inf k => if n = k then (f.infBits n, 0) else f.nanRes true
    | .fin _ _ _ => (f.infBits n, 0)
  match a, b with
  | .nan _, _ => f.nanRes snan
  | _, .nan _ => f.nanRes snan
  | .inf n, .inf k => infinite (n != k)
  | .inf n, .fin k m _ => if m = 0 then f.nanRes true else infinite (n != k)
  | .fin k m _, .inf n => if m = 0 then f.nanRes true else infinite (n != k)
  | .fin n m x, .fin k l y => sum (n != k) (m * l) (x + y)

/-- Division, correctly rounded (03_arithmetic.md R85, R94). -/
def Fmt.div (f : Fmt) (rm : Rm) (a b : Fp) : Nat × Fl :=
  match a, b with
  | .nan s, y => f.nanRes (s || y.isSnan)
  | _, .nan s => f.nanRes s
  | .inf _, .inf _ => f.nanRes true
  | .inf n, .fin k _ _ => (f.infBits (n != k), 0)
  | .fin n _ _, .inf k => (f.zero (n != k), 0)
  | .fin n m x, .fin k l y =>
    if l = 0 then (if m = 0 then f.nanRes true else (f.infBits (n != k), flDZ))
    else if m = 0 then (f.zero (n != k), 0)
    else
      let j := f.frac + 6 + l.log2
      f.round rm false (n != k) (m * 2 ^ j / l) (x - y - j) (m * 2 ^ j % l != 0)

/-- The integer square root, bit by bit from bit `k` down. -/
def isqrt (k n : Nat) : Nat :=
  (List.range k).reverse.foldl (fun r i => if (r + 2 ^ i) * (r + 2 ^ i) ≤ n then r + 2 ^ i else r) 0

/-- Square root, correctly rounded (03_arithmetic.md R85, R94). -/
def Fmt.sqrt (f : Fmt) (rm : Rm) (a : Fp) : Nat × Fl :=
  match a with
  | .nan s => f.nanRes s
  | .inf n => if n then f.nanRes true else (f.infBits false, 0)
  | .fin n m x =>
    if m = 0 then (f.zero n, 0)
    else if n then f.nanRes true
    else
      let j := 2 * (f.frac + 4) + (if x % 2 = 0 then 0 else 1)
      let big := m * 2 ^ j
      let r := isqrt (big.log2 / 2 + 1) big
      f.round rm false false r ((x - j) / 2) (r * r != big)

/-- Exact comparison of values that are not NaNs: −0 and +0 are equal (03_arithmetic.md R92). -/
def Fp.cmp (a b : Fp) : Ordering :=
  match a, b with
  | .inf n, .inf k => if n = k then .eq else if n then .lt else .gt
  | .inf n, _ => if n then .lt else .gt
  | _, .inf k => if k then .gt else .lt
  | .fin n m x, .fin k l y => compare (intAt n m x (min x y)) (intAt k l y (min x y))
  | .nan _, _ => .eq
  | _, .nan _ => .eq

/-- Whether a is below b where −0 is below +0 (03_arithmetic.md R93). -/
def Fp.below (a b : Fp) : Bool :=
  match a.cmp b with
  | .lt => true
  | .gt => false
  | .eq => match a, b with
    | .fin n _ _, .fin k _ _ => n && !k
    | _, _ => false

/-- Equality test (03_arithmetic.md R92). -/
def fpEq (a b : Fp) : Bool × Fl :=
  (!a.isNan && !b.isNan && a.cmp b == .eq, flIf (a.isSnan || b.isSnan) flNV)

/-- Ordered tests (03_arithmetic.md R92). -/
def fpLt (a b : Fp) : Bool × Fl := (!a.isNan && !b.isNan && a.cmp b == .lt, flIf (a.isNan || b.isNan) flNV)

/-- Less or equal. -/
def fpLe (a b : Fp) : Bool × Fl := (!a.isNan && !b.isNan && a.cmp b != .gt, flIf (a.isNan || b.isNan) flNV)

/-- Minimum or maximum of two encoded values (03_arithmetic.md R93). -/
def Fmt.minmax (f : Fmt) (isMax : Bool) (x y : Nat) : Nat × Fl :=
  let a := f.decode x
  let b := f.decode y
  let nv := flIf (a.isSnan || b.isSnan) flNV
  if a.isNan && b.isNan then (f.canonNan, nv)
  else if a.isNan then (y, nv)
  else if b.isNan then (x, nv)
  else if isMax then (if a.below b then y else x, nv)
  else (if b.below a then y else x, nv)

/-! ### Integers -/

/-- A signed value of `w` bits. -/
def signedOf (w x : Nat) : Int := if x % 2 ^ w < 2 ^ (w - 1) then (x % 2 ^ w : Int) else (x % 2 ^ w : Int) - 2 ^ w

/-- The low `w` bits of an integer (03_arithmetic.md R75). -/
def wrapInt (w : Nat) (x : Int) : Nat := (x % 2 ^ w).toNat

/-- The range of an integer type. -/
def intRange (w : Nat) (signed : Bool) : Int × Int := if signed then (-2 ^ (w - 1), 2 ^ (w - 1) - 1) else (0, 2 ^ w - 1)

/-- Clamping into the range of a type, with SATF (03_arithmetic.md R75). -/
def clampInt (w : Nat) (signed : Bool) (x : Int) : Nat × Fl :=
  let (lo, hi) := intRange w signed
  if x < lo then (wrapInt w lo, flSATF) else if hi < x then (wrapInt w hi, flSATF) else (wrapInt w x, 0)

/-- Division and remainder (03_arithmetic.md R76): quotient, remainder, flag. -/
def intDiv (w : Nat) (signed : Bool) (x y : Nat) : Nat × Nat × Fl :=
  if y % 2 ^ w = 0 then (2 ^ w - 1, x % 2 ^ w, flDZ)
  else if signed then
    (wrapInt w ((signedOf w x).tdiv (signedOf w y)), wrapInt w ((signedOf w x).tmod (signedOf w y)), 0)
  else (x % 2 ^ w / (y % 2 ^ w), x % 2 ^ w % (y % 2 ^ w), 0)

/-! ### Element types -/

/-- An element type code (02_encoding.md R56). -/
abbrev Ty := Nat

/-- The width of a type in bits (03_arithmetic.md R78). -/
def tyWidth (t : Ty) : Nat :=
  match t with
  | 0 | 4 | 12 | 13 | 15 => 8
  | 1 | 5 | 10 | 11 => 16
  | 2 | 6 | 9 => 32
  | 3 | 7 | 8 => 64
  | 14 => 4
  | _ => 8

/-- i types. -/
def tySigned (t : Ty) : Bool := t < 4

/-- i and n types. -/
def tyInt (t : Ty) : Bool := t < 8

/-- The format of a floating-point type; scale8 is none (03_arithmetic.md R86). -/
def tyFmt (t : Ty) : Option Fmt :=
  match t with
  | 8 => some fmtF64
  | 9 => some fmtF32
  | 10 => some fmtF16
  | 11 => some fmtBf16
  | 12 => some fmtE4m3
  | 13 => some fmtE5m2
  | 14 => some fmtE2m1
  | _ => none

/-- scale8. -/
def tyScale (t : Ty) : Bool := t = 15

/-! ### Conversions -/

/-- Whether every value of a format is one of another (03_arithmetic.md R91): the wider row. -/
def Fmt.widerThan (dst src : Fmt) : Bool :=
  src.frac ≤ dst.frac && dst.qmin ≤ src.qmin &&
  (let (m, q) := src.maxFinite; let (mm, mq) := dst.maxFinite; !(exceeds m q mm mq))

/-- Whether a conversion may round stochastically (03_arithmetic.md R86). -/
def cvtStochastic (src dst : Ty) : Bool :=
  match tyFmt src, tyFmt dst with
  | some f, some g => f != g && !(g.widerThan f)
  | _, _ => false

/-- The pairs `vcvt` accepts (03_arithmetic.md R91). -/
def cvtOk (src dst : Ty) : Bool :=
  src = dst || (tyInt src && tyInt dst) || (tyInt src && (tyFmt dst).isSome) || ((tyFmt src).isSome && tyInt dst) ||
  ((tyFmt src).isSome && (tyFmt dst).isSome) || (tyScale src && (tyFmt dst).isSome) || ((tyFmt src).isSome && tyScale dst)

/-- A decoded value into a format (03_arithmetic.md R89 dst R91). -/
def Fmt.convert (f : Fmt) (rm : Rm) (sat : Bool) (a : Fp) : Nat × Fl :=
  match a with
  | .nan s => (f.canonNan, flIf (s || f.kind = .e2m1) flNV)
  | .inf n => match f.kind with
    | .ieee => (f.infBits n, 0)
    | .e4m3 => if sat then ((f.overflow rm true n).1, flNV) else (f.canonNan, flNV)
    | .e2m1 => ((f.overflow rm true n).1, flNV)
  | .fin n m e => if m = 0 then (f.zero n, 0) else f.round rm sat n m e false

/-- A floating-point value to an integer type (03_arithmetic.md R91). -/
def fpToInt (w : Nat) (signed : Bool) (rm : Rm) (a : Fp) : Nat × Fl :=
  let (lo, hi) := intRange w signed
  match a with
  | .nan _ => (0, flNV)
  | .inf n => (wrapInt w (if n then lo else hi), flNV)
  | .fin n m e =>
    let (r, inexact) := roundAt rm n m e 0 false
    let x : Int := if n then -(r : Int) else r
    if x < lo then (wrapInt w lo, flNV) else if hi < x then (wrapInt w hi, flNV) else (wrapInt w x, flIf inexact flNX)

/-- A floating-point value to scale8 (03_arithmetic.md R91). -/
def fpToScale (a : Fp) : Nat × Fl :=
  match a with
  | .nan _ => (255, flNV)
  | .inf _ => (255, flNX)
  | .fin _ m e =>
    if m = 0 then (0, flNX)
    else
      let l : Int := m.log2 + e
      let code := min 254 (max 0 (l + 127))
      (code.toNat, flIf (!(m = 2 ^ m.log2 && code = l + 127)) flNX)

/-- The value of a scale8 code (03_arithmetic.md R79). -/
def scaleVal (c : Nat) : Fp := if c = 255 then .nan false else .fin false 1 ((c : Int) - 127)

/-- Conversion of one element between accepted types (03_arithmetic.md R91): `rne` stands for `rsr` but where R86 lets
the conversion round stochastically. -/
def cvtElem (src dst : Ty) (rm : Rm) (sat : Bool) (x : Nat) : Nat × Fl :=
  let plain : Rm := match rm with | .rsr _ => .rne | r => r
  let w := tyWidth dst
  if src = dst then (x % 2 ^ w, 0)
  else match tyFmt src, tyFmt dst with
    | some f, some g => g.convert (if g.widerThan f then plain else rm) sat (f.decode x)
    | some f, none =>
      if tyInt dst then fpToInt w (tySigned dst) plain (f.decode x) else fpToScale (f.decode x)
    | none, some g =>
      if tyInt src then
        let v : Int := if tySigned src then signedOf (tyWidth src) x else (x % 2 ^ tyWidth src : Nat)
        if v = 0 then (g.zero false, 0) else g.round plain sat (v < 0) v.natAbs 0 false
      else if x % 256 = 255 then (g.canonNan, flIf (g.kind = .e2m1) flNV)
      else g.convert plain sat (scaleVal (x % 256))
    | none, none =>
      let v : Int := if tySigned src then signedOf (tyWidth src) x else (x % 2 ^ tyWidth src : Nat)
      if sat then clampInt w (tySigned dst) v else (wrapInt w v, 0)

end Sys2Proof.Machine
end

