-- ==== Sys2Proof/Machine/Operands.lean ====
section
/-!
DEFINITION. Operand forms of the engines: the fields of et, vector groups, mask spans, and the checks on them
(02_encoding.md R55, R56; 07_lane.md R202, R203, R207 to R210).
-/

namespace Sys2Proof.Machine

/-! ### et -/

/-- et.TYPE (03_arithmetic.md R80). -/
def etTy (et : Word) : Ty := bits et 0 4
/-- The group size 2^GROUP. -/
def etGroup (et : Word) : Nat := 2 ^ bits et 4 2
/-- TP: the tail is zeroed. -/
def etTp (et : Word) : Bool := et.getLsbD 6
/-- MP: inactive elements are zeroed. -/
def etMp (et : Word) : Bool := et.getLsbD 7
/-- RM. -/
def etRm (et : Word) : Nat := bits et 8 3
/-- SAT. -/
def etSat (et : Word) : Bool := et.getLsbD 11
/-- The element width sew (03_arithmetic.md R78). -/
def etSew (et : Word) : Nat := tyWidth (etTy et)

/-- Class I (07_lane.md R209). -/
def classI (t : Ty) : Bool := tyInt t
/-- Class F (07_lane.md R209). -/
def classF (t : Ty) : Bool := t = 8 || t = 9 || t = 10 || t = 11

/-! ### Vector groups -/

/-- Elements of `w` bits in one register (07_lane.md R202). -/
def perReg (w : Nat) : Nat := 131072 / w

/-- A vector register. -/
def Hart.vreg (h : Hart) (n : Nat) : Nat := ((h.v[n]?).getD 0).toNat

/-- Element `i` of the group at `vn`, of `w` bits (07_lane.md R202). -/
def Hart.velem (h : Hart) (w vn i : Nat) : Nat := h.vreg (vn + i / perReg w) / 2 ^ (i % perReg w * w) % 2 ^ w

/-- The first `n` elements of a group. -/
def Hart.velems (h : Hart) (w vn n : Nat) : List Nat := (List.range n).map (h.velem w vn)

/-- Elements packed into a number, element 0 lowest (07_lane.md R202). -/
def packElems (w : Nat) (xs : List Nat) : Nat := xs.foldr (fun x acc => x % 2 ^ w + acc * 2 ^ w) 0

/-- A register whose lowest elements are replaced. -/
def overlay (w : Nat) (old : BitVec 131072) (xs : List Nat) : BitVec 131072 :=
  let k := xs.length * w
  BitVec.ofNat 131072 (old.toNat / 2 ^ k * 2 ^ k + packElems w xs)

/-- Writing elements 0 up of the group at `vn`, over `g` registers; a register written becomes live
(13_context.md R381). Elements past the group, of a vl captured above E, are dropped (07_lane.md R202; log 63). -/
def Hart.setVelems (h : Hart) (w vn g : Nat) (xs : List Nat) : Hart :=
  (List.range g).foldl (fun h k =>
    let part := (xs.drop (k * perReg w)).take (perReg w)
    if part.isEmpty then h
    else { h with v := modAt h.v (vn + k) (fun r => overlay w r part), vLive := h.vLive ||| BitVec.twoPow 32 (vn + k) }) h

/-- A written group with its tail: under TP the tail is zero, up to the last element the group holds
(07_lane.md R207). -/
def withTail (tp : Bool) (w g : Nat) (xs : List Nat) : List Nat :=
  if tp && !xs.isEmpty then xs ++ List.replicate (g * perReg w - xs.length) 0 else xs

/-! ### Mask spans -/

/-- Registers of a mask span (07_lane.md R203). -/
def maskSpan (vl : Nat) : Nat := max 1 ((vl + 4095) / 4096)

/-- Bit `i` of the span at `mn`; m0 reads as ones (07_lane.md R203). -/
def Hart.mbit (h : Hart) (mn i : Nat) : Bool :=
  mn = 0 || ((h.m[mn + i / 4096]?).getD 0).getLsbD (i % 4096)

/-- The first `n` bits of a span. -/
def Hart.mbits (h : Hart) (mn n : Nat) : List Bool :=
  let regs := (List.range (maskSpan n)).map (fun k => ((h.m[mn + k]?).getD 0).toNat)
  (List.range n).map (fun i => mn = 0 || ((regs[i / 4096]?).getD 0).testBit (i % 4096))

/-- Bits packed, bit 0 lowest. -/
def packMask (xs : List Bool) : Nat := xs.foldr (fun b acc => b.toNat + acc * 2) 0

/-- Writing bits 0 up of the span at `mn`, over `k` registers. -/
def Hart.setMbits (h : Hart) (mn k : Nat) (xs : List Bool) : Hart :=
  (List.range k).foldl (fun h j =>
    let part := (xs.drop (j * 4096)).take 4096
    if part.isEmpty then h
    else { h with m := modAt h.m (mn + j) (fun r =>
                    BitVec.ofNat 4096 (r.toNat / 2 ^ part.length * 2 ^ part.length + packMask part)),
                  mLive := h.mLive ||| BitVec.twoPow 96 (mn + j) }) h

/-- A written span with its tail: under TP the tail bits are cleared (07_lane.md R207). -/
def withMaskTail (tp : Bool) (k : Nat) (xs : List Bool) : List Bool :=
  if tp && !xs.isEmpty then xs ++ List.replicate (4096 * k - xs.length) false else xs

/-! ### Checks -/

/-- A vector field is a multiple of its group size (07_lane.md R202). -/
def groupOk (vn g : Nat) : Bool := vn % g = 0

/-- A source span lies within m1 to m95, or is m0 (07_lane.md R203). -/
def spanOk (mn vl : Nat) : Bool := mn = 0 || mn + maskSpan vl ≤ 96

/-- A destination span lies within m1 to m95 (07_lane.md R203). -/
def dstSpanOk (mn vl : Nat) : Bool := 0 < mn && mn + maskSpan vl ≤ 96

/-- Two runs of registers share one. -/
def overlaps (a na b nb : Nat) : Bool := a < b + nb && b < a + na

/-- A destination may overlap a source only when the two are identical (07_lane.md R210). -/
def sameOrApart (a na b nb : Nat) : Bool := (a = b && na = nb) || !overlaps a na b nb

/-- Mask spans for the same rule; m0 is no span that is written. -/
def masksSameOrApart (d s vl : Nat) : Bool := s = 0 || sameOrApart d (maskSpan vl) s (maskSpan vl)

/-- The result of an element-wise instruction (07_lane.md R207) over the old elements and the pairs of source elements:
below `ei` an element is kept, an active one takes its value, an inactive one follows MP. The flags are those of the
active elements. -/
def elementwise (mp : Bool) (ei : Nat) (mask : List Bool) (old : List Nat) (srcs : List (Nat × Nat))
    (f : Nat → Nat → Nat → Nat → Nat × Fl) : List Nat × Fl :=
  let r := ((old.zip mask).zip srcs).zipIdx.map (fun (((c, b), x, y), i) =>
    if i < ei then (c, (0 : Fl)) else if b then f i x y c else (if mp then 0 else c, 0))
  (r.map (·.1), r.foldl (fun acc x => acc ||| x.2) 0)

end Sys2Proof.Machine
end

