-- ==== Sys2Proof/Machine/LaneOps.lean ====
section
/-!
DEFINITION. What the lane engine computes, over lists of elements (07_lane.md R214 to R229; 03_arithmetic.md R91 to
R98). A chain stage runs the same functions (01_engines.md R32).
-/

namespace Sys2Proof.Machine

/-! ### Element-wise arithmetic -/

/-- The element-wise operations of majors 25 to 27 and 30 to 33. -/
inductive ElemOp where
  | add
  | sub
  | mul
  | mulh
  | div
  | rem
  | min
  | max
  | and
  | or
  | xor
  | shl
  | shr
  | sra
  | adds
  | subs
  | mac
  | nmac
  | sqrt
  | abs
  | addmin
  | merge
  | mv
  | rsub
deriving DecidableEq, Repr

/-- The types an operation accepts (07_lane.md R209, R214, R217). -/
def ElemOp.accepts (op : ElemOp) (t : Ty) : Bool :=
  match op with
  | .add | .sub | .mul | .div | .min | .max | .mac | .nmac | .abs | .addmin | .rsub => classI t || classF t
  | .mulh | .rem | .shl | .shr | .sra | .adds | .subs => classI t
  | .sqrt => classF t
  | .and | .or | .xor | .merge | .mv => true

/-- Whether the operation reads the old destination element (02_encoding.md R66). -/
def ElemOp.readsDst : ElemOp → Bool
  | .mac | .nmac | .addmin => true
  | .add | .sub | .mul | .mulh | .div | .rem | .min | .max | .and | .or | .xor | .shl | .shr | .sra | .adds | .subs
  | .sqrt | .abs | .merge | .mv | .rsub => false

/-- Minimum or maximum of two integers of a type. -/
def intMinMax (isMax : Bool) (t : Ty) (a b : Nat) : Nat :=
  let w := tyWidth t
  let lt : Bool := if tySigned t then signedOf w a < signedOf w b else a % 2 ^ w < b % 2 ^ w
  if isMax then (if lt then b else a) else (if lt then a else b)

/-- Minimum or maximum of two elements (07_lane.md R214; 03_arithmetic.md R93). -/
def elemMinMax (isMax : Bool) (t : Ty) (a b : Nat) : Nat × Fl :=
  match tyFmt t with
  | some f => f.minmax isMax a b
  | none => (intMinMax isMax t a b, 0)

/-- The sum of two elements (07_lane.md R208). -/
def elemAdd (t : Ty) (rm : Rm) (a b : Nat) : Nat × Fl :=
  match tyFmt t with
  | some f => f.add rm (f.decode a) (f.decode b)
  | none => ((a + b) % 2 ^ tyWidth t, 0)

/-- The value of an integer element. -/
def elemInt (t : Ty) (x : Nat) : Int := if tySigned t then signedOf (tyWidth t) x else (x % 2 ^ tyWidth t : Nat)

/-- One element (07_lane.md R214 to R218): a and b the sources, c the old destination. -/
def elemOp (op : ElemOp) (t : Ty) (rm : Rm) (a b c : Nat) : Nat × Fl :=
  let w := tyWidth t
  let amount := b % 2 ^ w % w
  match op with
  | .add => elemAdd t rm a b
  | .sub => match tyFmt t with
    | some f => f.add rm (f.decode a) (f.decode b).negate
    | none => (wrapInt w ((a : Int) - b), 0)
  | .rsub => match tyFmt t with
    | some f => f.add rm (f.decode b) (f.decode a).negate
    | none => (wrapInt w ((b : Int) - a), 0)
  | .mul => match tyFmt t with
    | some f => f.mul rm (f.decode a) (f.decode b)
    | none => (a * b % 2 ^ w, 0)
  | .mulh => (wrapInt w (elemInt t a * elemInt t b / 2 ^ w), 0)
  | .div => match tyFmt t with
    | some f => f.div rm (f.decode a) (f.decode b)
    | none => let (q, _, fl) := intDiv w (tySigned t) a b; (q, fl)
  | .rem => let (_, r, fl) := intDiv w (tySigned t) a b; (r, fl)
  | .min => elemMinMax false t a b
  | .max => elemMinMax true t a b
  | .and => (a &&& b, 0)
  | .or => (a ||| b, 0)
  | .xor => (a ^^^ b, 0)
  | .shl => (a * 2 ^ amount % 2 ^ w, 0)
  | .shr => (a / 2 ^ amount, 0)
  | .sra => (wrapInt w (signedOf w a / 2 ^ amount), 0)
  | .adds => clampInt w (tySigned t) (elemInt t a + elemInt t b)
  | .subs => clampInt w (tySigned t) (elemInt t a - elemInt t b)
  | .mac => match tyFmt t with
    | some f => f.fma rm (f.decode a) (f.decode b) (f.decode c)
    | none => ((c + a * b) % 2 ^ w, 0)
  | .nmac => match tyFmt t with
    | some f => f.fma rm (f.decode a).negate (f.decode b) (f.decode c)
    | none => (wrapInt w ((c : Int) - a * b), 0)
  | .sqrt => match tyFmt t with
    | some f => f.sqrt rm (f.decode a)
    | none => (0, 0)
  | .abs => match tyFmt t with
    | some f =>
      let x := f.decode a
      if x.isNan then f.nanRes x.isSnan else (a % 2 ^ (w - 1), 0)
    | none => (if tySigned t then wrapInt w (signedOf w a).natAbs else a, 0)
  | .addmin =>
    let (s, fl) := elemAdd t rm a b
    let (r, fl') := elemMinMax false t c s
    (r, fl ||| fl')
  | .merge => (b, 0)
  | .mv => (a, 0)

/-! ### Compares -/

/-- The compares of majors 28 and 29. -/
inductive CmpOp where
  | eq
  | ne
  | lt
  | le
deriving DecidableEq, Repr

/-- One compare (07_lane.md R220; 03_arithmetic.md R92). -/
def cmpElem (op : CmpOp) (t : Ty) (a b : Nat) : Bool × Fl :=
  match tyFmt t with
  | some f =>
    let x := f.decode a
    let y := f.decode b
    match op with
    | .eq => fpEq x y
    | .ne => let (r, fl) := fpEq x y; (!r, fl)
    | .lt => fpLt x y
    | .le => fpLe x y
  | none =>
    let x := elemInt t a
    let y := elemInt t b
    match op with
    | .eq => (x == y, 0)
    | .ne => (x != y, 0)
    | .lt => (decide (x < y), 0)
    | .le => (decide (x ≤ y), 0)

/-! ### Mask operations -/

/-- The mask instructions of major 39. -/
inductive MaskOp where
  | and
  | or
  | xor
  | andn
  | orn
  | nand
  | nor
  | xnor
  | mv
  | not
  | setbf
  | setif
  | setof
  | clr
  | set
deriving DecidableEq, Repr

/-- Whether a mask instruction is cross-element (07_lane.md R224). -/
def MaskOp.cross : MaskOp → Bool
  | .setbf | .setif | .setof => true
  | .and | .or | .xor | .andn | .orn | .nand | .nor | .xnor | .mv | .not | .clr | .set => false

/-- Bit i of a mask instruction (07_lane.md R224): `first` is the first set bit of ma below vl. -/
def maskOp (op : MaskOp) (first : Option Nat) (i : Nat) (a b : Bool) : Bool :=
  match op with
  | .and => a && b
  | .or => a || b
  | .xor => a != b
  | .andn => a && !b
  | .orn => a || !b
  | .nand => !(a && b)
  | .nor => !(a || b)
  | .xnor => a == b
  | .mv => a
  | .not => !a
  | .setbf => match first with | some f => i < f | none => true
  | .setif => match first with | some f => i ≤ f | none => true
  | .setof => match first with | some f => i = f | none => false
  | .clr => false
  | .set => true

/-- The first set bit of a list. -/
def firstSet (xs : List Bool) : Option Nat := xs.findIdx? (· == true)

/-- A mask instruction over vl bits. -/
def maskRow (op : MaskOp) (a b : List Bool) : List Bool :=
  (a.zip b).zipIdx.map (fun ((x, y), i) => maskOp op (firstSet a) i x y)

/-! ### Reductions and scans -/

/-- The combining operations of reductions. -/
inductive RedOp where
  | sum
  | min
  | max
  | and
  | or
  | xor
deriving DecidableEq, Repr

/-- The types a reduction accepts (07_lane.md R226). -/
def RedOp.accepts (op : RedOp) (t : Ty) : Bool :=
  match op with
  | .sum | .min | .max => classI t || classF t
  | .and | .or | .xor => classI t

/-- One combining step, rounded once (03_arithmetic.md R97). -/
def redStep (op : RedOp) (t : Ty) (rm : Rm) (a b : Nat) : Nat × Fl :=
  match op with
  | .sum => elemAdd t rm a b
  | .min => elemMinMax false t a b
  | .max => elemMinMax true t a b
  | .and => (a &&& b, 0)
  | .or => (a ||| b, 0)
  | .xor => (a ^^^ b, 0)

/-- Combining where either may be absent (03_arithmetic.md R97). -/
def redComb (f : Nat → Nat → Nat × Fl) (a b : Option Nat) : Option Nat × Fl :=
  match a, b with
  | none, y => (y, 0)
  | x, none => (x, 0)
  | some x, some y => let (r, fl) := f x y; (some r, fl)

/-- One level of the tree: neighbours are combined (03_arithmetic.md R97). -/
def redLevel (f : Nat → Nat → Nat × Fl) : List (Option Nat) → List (Option Nat) × Fl
  | a :: b :: rest =>
    let (y, fl) := redComb f a b
    let (ys, fl') := redLevel f rest
    (y :: ys, fl ||| fl')
  | [a] => ([a], 0)
  | [] => ([], 0)

/-- The tree over `levels` levels: its root, absent when nothing is active (03_arithmetic.md R97). -/
def redTree (f : Nat → Nat → Nat × Fl) : Nat → List (Option Nat) → Option Nat × Fl
  | 0, ys => ((ys.head?).getD none, 0)
  | k + 1, ys =>
    let (zs, fl) := redLevel f ys
    let (r, fl') := redTree f k zs
    (r, fl ||| fl')

/-- The levels of a tree over n places: P is the smallest power of two that is at least max(n, 1). -/
def treeLevels (n : Nat) : Nat := if n ≤ 1 then 0 else (n - 1).log2 + 1

/-- A reduction (03_arithmetic.md R97): the result and its flags, EMPTY among them. -/
def reduce (f : Nat → Nat → Nat × Fl) (init : Nat) (xs : List Nat) (mask : List Bool) : Nat × Fl :=
  let ys := (xs.zip mask).map (fun (x, b) => if b then some x else none)
  match redTree f (treeLevels ys.length) ys with
  | (none, fl) => (init, fl ||| flEMPTY)
  | (some r, fl) => let (y, fl') := f init r; (y, fl ||| fl')

/-- A scan (03_arithmetic.md R98): what each element receives (none when inactive), the carry-out and the flags. -/
def scanList (f : Nat → Nat → Nat × Fl) (inclusive : Bool) : Nat → List (Nat × Bool) → List (Option Nat) × Nat × Fl
  | p, [] => ([], p, 0)
  | p, (x, b) :: rest =>
    if b then
      let (p', fl) := f p x
      let (ys, q, fl') := scanList f inclusive p' rest
      (some (if inclusive then p' else p) :: ys, q, fl ||| fl')
    else
      let (ys, q, fl') := scanList f inclusive p rest
      (none :: ys, q, fl')

/-! ### Slides and permutes -/

/-- The slides of major 36. -/
inductive SlideOp where
  | up
  | down
  | up1
  | down1
deriving DecidableEq, Repr

/-- Active element i of a slide; none leaves the old element whatever MP says (07_lane.md R228). -/
def slideElem (op : SlideOp) (a : List Nat) (vl : Nat) (sc : Word) (w i : Nat) : Option Nat :=
  match op with
  | .up => if sc.toNat ≤ i then some ((a[i - sc.toNat]?).getD 0) else none
  | .down => some (if sc.toNat < vl - i then (a[i + sc.toNat]?).getD 0 else 0)
  | .up1 => some (if i = 0 then sc.toNat % 2 ^ w else (a[i - 1]?).getD 0)
  | .down1 => some (if i + 1 = vl then sc.toNat % 2 ^ w else (a[i + 1]?).getD 0)

/-- The permutes of major 37 but `vcompress` and `vexpand`. -/
inductive PermOp where
  | perm
  | rev
  | zip
  | unzip
  | conflict
deriving DecidableEq, Repr

/-- The largest active j below i whose element has the same bits as element i, else i (07_lane.md R229). -/
def conflictOf (a : List Nat) (mask : List Bool) (i : Nat) : Nat :=
  let x := (a[i]?).getD 0
  let hits := (List.range i).filter (fun j => (mask[j]?).getD false && (a[j]?).getD 0 == x)
  (hits.getLast?).getD i

/-- Active element i of a permute (07_lane.md R229). -/
def permElem (op : PermOp) (a b : List Nat) (mask : List Bool) (vl i : Nat) : Nat :=
  match op with
  | .perm => let x := (b[i]?).getD 0; if x < vl then (a[x]?).getD 0 else 0
  | .rev => (a[vl - 1 - i]?).getD 0
  | .zip => if i % 2 = 0 then (a[i / 2]?).getD 0 else (b[i / 2]?).getD 0
  | .unzip => let hf := (vl + 1) / 2; if i < hf then (a[2 * i]?).getD 0 else (a[2 * (i - hf) + 1]?).getD 0
  | .conflict => conflictOf a mask i

/-- The active elements, in order: `vcompress` (07_lane.md R229). -/
def compressList (a : List Nat) (mask : List Bool) : List Nat := (a.zip mask).filterMap (fun (x, b) => if b then some x else none)

/-- `vexpand`: successive elements of a go to the active places (07_lane.md R229). -/
def expandList (mp : Bool) : List Nat → List (Nat × Bool) → List Nat
  | _, [] => []
  | a, (c, b) :: rest =>
    if b then (a.head?).getD 0 :: expandList mp (a.drop 1) rest
    else (if mp then 0 else c) :: expandList mp a rest

/-- A masked row: an active element takes its value, an inactive one follows MP. -/
def maskedRow (mp : Bool) (old : List Nat) (mask : List Bool) (f : Nat → Option Nat) : List Nat :=
  (old.zip mask).zipIdx.map (fun ((c, b), i) => if b then (f i).getD c else if mp then 0 else c)

end Sys2Proof.Machine
end

