-- ==== Sys2Proof/Machine/Lane.lean ====
section
/-!
DEFINITION. The lane engine: its queue entries over the hart's registers (07_lane.md R207 to R229). Every check is made
at issue and raises `E_OPERAND` with ei = 0 (R209).
-/

namespace Sys2Proof.Machine

/-! ### Entries -/

/-- A written ei has completed the entry (01_engines.md R12): vl or above, and 1 or above when vl is 0. -/
def Entry.skipped (e : Entry) : Bool := max 1 e.vl.toNat ≤ e.prog.toNat

/-- The elements of an entry. -/
def Entry.n (e : Entry) : Nat := e.vl.toNat

/-- A check at issue: an entry that a written ei has completed is let past it (01_engines.md R20, R21). -/
def checked (src : BitVec 4) (e : Entry) (ok : Bool) (body : Run Unit) : Run Unit :=
  if ok then body else if e.skipped then pure () else operandTrap src

/-- An entry into the SRQ, tagged with its queue (01_engines.md R13). -/
def pushSrq (q : BitVec 2) (x : Word) : Run Unit := modHart fun h => { h with srq := h.srq ++ [⟨x, q⟩] }

/-- An entry into the BQ. -/
def pushBq (q : BitVec 2) (b : Bool) : Run Unit := modHart fun h => { h with bq := h.bq ++ [⟨if b then 1 else 0, q⟩] }

/-- A vector source: a group, or one value for every element. -/
inductive VSrc where
  | reg (n : Nat)
  | lit (x : Nat)
deriving DecidableEq, Repr

/-- The elements of a source. -/
def VSrc.elems (h : Hart) (w n : Nat) : VSrc → List Nat
  | .reg r => h.velems w r n
  | .lit x => List.replicate n (x % 2 ^ w)

/-- The checks on a source group beside a destination group of the same size: the source's number is a multiple of
the group size as any group's is (07_lane.md R202, R209, R210; log 62). -/
def VSrc.ok (d g : Nat) : VSrc → Bool
  | .reg r => groupOk r g && sameOrApart d g r g
  | .lit _ => true

/-! ### Element-wise -/

/-- The effect of an element-wise instruction on the hart (07_lane.md R207, R214 to R218). -/
def Hart.laneElem (h : Hart) (e : Entry) (op : ElemOp) (d : Nat) (a b : VSrc) (m : Nat) : Hart :=
  let t := etTy e.et
  let w := tyWidth t
  let g := etGroup e.et
  let n := e.n
  let bits := h.mbits m n
  let srcs := (a.elems h w n).zip (b.elems h w n)
  let picked := if op = .merge then (srcs.zip bits).map (fun ((x, y), k) => (x, if k then y else x)) else srcs
  let mask := if op = .merge then List.replicate n true else bits
  let (xs, fl) := elementwise (etMp e.et) e.prog.toNat mask (h.velems w d n) picked
    (fun _ x y c => elemOp op t (rmOf (etRm e.et)) x y c)
  (h.setVelems w d g (withTail (etTp e.et) w g xs)).flag fl

/-- An element-wise instruction of majors 25 to 27 and 30 to 33, restricted to the types of `cls`. -/
def laneElem (e : Entry) (op : ElemOp) (cls : Ty → Bool) (d : Nat) (a b : VSrc) (m : Nat) : Run Unit :=
  let g := etGroup e.et
  checked 1 e (op.accepts (etTy e.et) && cls (etTy e.et) && groupOk d g && a.ok d g && b.ok d g && spanOk m e.n)
    (modHart fun h => h.laneElem e op d a b m)

/-- Any type. -/
def anyTy (_ : Ty) : Bool := true

/-- `vidx` (07_lane.md R219). -/
def laneIdx (e : Entry) (d : Nat) (start step : BitVec 10) : Run Unit :=
  let w := etSew e.et
  let g := etGroup e.et
  checked 1 e (classI (etTy e.et) && groupOk d g)
    (modHart fun h =>
      let xs := (h.velems w d e.n).zipIdx.map (fun (c, i) =>
        if i < e.prog.toNat then c else wrapInt w (start.toInt + i * step.toInt))
      h.setVelems w d g (withTail (etTp e.et) w g xs))

/-- A compare (07_lane.md R220). -/
def laneCmp (e : Entry) (op : CmpOp) (d a b m : Nat) : Run Unit :=
  let t := etTy e.et
  let w := tyWidth t
  let g := etGroup e.et
  let n := e.n
  checked 1 e ((classI t || classF t) && groupOk a g && groupOk b g && spanOk m n && dstSpanOk d n && masksSameOrApart d m n)
    (modHart fun h =>
      let (xs, fl) := elementwise (etMp e.et) e.prog.toNat (h.mbits m n) ((h.mbits d n).map Bool.toNat)
        ((h.velems w a n).zip (h.velems w b n)) (fun _ x y _ => let (r, fl) := cmpElem op t x y; (r.toNat, fl))
      let k := maskSpan n
      (h.setMbits d k (withMaskTail (etTp e.et) k (xs.map (· == 1)))).flag fl)

/-- The group sizes of a conversion: destination and source (07_lane.md R222). -/
def cvtGroups (et : Word) (dst src : Ty) : Nat × Nat :=
  let g := etGroup et
  let wd := tyWidth dst
  let ws := tyWidth src
  (if wd < ws then max 1 (g * wd / ws) else g, if ws < wd then max 1 (g * ws / wd) else g)

/-- `vcvt` (07_lane.md R221 to R223). -/
def laneCvt (e : Entry) (d a dst src m : Nat) : Run Unit :=
  let wd := tyWidth dst
  let ws := tyWidth src
  let (gd, gs) := cvtGroups e.et dst src
  let n := e.n
  checked 1 e (cvtOk src dst && etSew e.et == max wd ws && groupOk d gd && groupOk a gs && spanOk m n &&
      (if wd = ws then sameOrApart d gd a gs else !overlaps d gd a gs))
    (modHart fun h =>
      let xs := h.velems ws a n
      let (ys, fl) := elementwise (etMp e.et) e.prog.toNat (h.mbits m n) (h.velems wd d n) (xs.zip xs)
        (fun i x _ _ => cvtElem src dst (if etRm e.et = 4 then .rsr (draw e.aux i) else rmOf (etRm e.et)) (etSat e.et) x)
      (h.setVelems wd d gd (withTail (etTp e.et) wd gd ys)).flag fl)

/-! ### Masks and scalar results -/

/-- A mask instruction (07_lane.md R224). Those that are cross-element run whole or not at all (R211). -/
def laneMask (e : Entry) (op : MaskOp) (d a b : Nat) : Run Unit :=
  let n := e.n
  let k := maskSpan n
  let apart (s : Nat) : Bool := if op.cross then s = 0 || !overlaps d k s k else masksSameOrApart d s n
  checked 1 e (dstSpanOk d n && spanOk a n && spanOk b n && apart a && apart b)
    (if op.cross && e.skipped then pure ()
     else modHart fun h =>
      let row := maskRow op (h.mbits a n) (h.mbits b n)
      let ei := if op.cross then 0 else e.prog.toNat
      let out := ((h.mbits d n).zip row).zipIdx.map (fun ((c, x), i) => if i < ei then c else x)
      h.setMbits d k (withMaskTail (etTp e.et) k out))

/-- A scalar result into the SRQ (07_lane.md R211, R225): zero when a written ei completes the entry. -/
def laneSrq (e : Entry) (ok : Bool) (f : Hart → Word) : Run Unit :=
  if e.skipped then pushSrq 1 0
  else if !ok then operandTrap 1
  else do
    let h ← theHart
    pushSrq 1 (f h)

/-- A condition into the BQ (07_lane.md R211, R225). -/
def laneBq (e : Entry) (ok : Bool) (f : Hart → Bool) : Run Unit :=
  if e.skipped then pushBq 1 false
  else if !ok then operandTrap 1
  else do
    let h ← theHart
    pushBq 1 (f h)

/-- An element as a scalar: i types sign-extended, others zero-extended (07_lane.md R225). -/
def extWord (t : Ty) (x : Nat) : Word := if tySigned t then sextWord (tyWidth t) x else word x

/-- `vext` (07_lane.md R225). -/
def laneExt (e : Entry) (a : Nat) (idx : Word) : Run Unit :=
  laneSrq e (groupOk a (etGroup e.et) && idx.toNat < e.n) (fun h => extWord (etTy e.et) (h.velem (etSew e.et) a idx.toNat))

/-- `mpop` (07_lane.md R225). -/
def lanePop (e : Entry) (m : Nat) : Run Unit :=
  laneSrq e (spanOk m e.n) (fun h => word ((h.mbits m e.n).filter id).length)

/-- `mfind` (07_lane.md R225). -/
def laneFind (e : Entry) (m : Nat) : Run Unit :=
  laneSrq e (spanOk m e.n) (fun h => match firstSet (h.mbits m e.n) with | some i => word i | none => BitVec.allOnes 64)

/-- `mbany` (07_lane.md R225). -/
def laneAny (e : Entry) (m : Nat) : Run Unit := laneBq e (spanOk m e.n) (fun h => (h.mbits m e.n).any id)

/-- `mball` (07_lane.md R225). -/
def laneAll (e : Entry) (m : Nat) : Run Unit := laneBq e (spanOk m e.n) (fun h => (h.mbits m e.n).all id)

/-! ### Cross-element -/

/-- A cross-element instruction runs whole or, completed by a written ei, not at all (07_lane.md R210, R211): its
groups share no register. -/
def laneCross (e : Entry) (ok : Bool) (groups : List Nat) (m : Nat) (f : Hart → Hart) : Run Unit :=
  let g := etGroup e.et
  checked 1 e (ok && groups.all (groupOk · g) && spanOk m e.n && groups.Pairwise (fun a b => overlaps a g b g = false))
    (if e.skipped then pure () else modHart f)

/-- A reduction (07_lane.md R226). -/
def laneRed (e : Entry) (op : RedOp) (d a b m : Nat) : Run Unit :=
  let t := etTy e.et
  let w := tyWidth t
  laneCross e (op.accepts t) [d, a, b] m fun h =>
    let (r, fl) := reduce (redStep op t (rmOf (etRm e.et))) (h.velem w b 0) (h.velems w a e.n) (h.mbits m e.n)
    (h.setVelems w d (etGroup e.et) (withTail (etTp e.et) w (etGroup e.et) [r])).flag fl

/-- A scan (07_lane.md R227). -/
def laneScan (e : Entry) (inclusive : Bool) (d a b m : Nat) : Run Unit :=
  let t := etTy e.et
  let w := tyWidth t
  let g := etGroup e.et
  let n := e.n
  laneCross e (classI t || classF t) [d, a, b] m fun h =>
    let mask := h.mbits m n
    let (ys, p, fl) := scanList (redStep .sum t (rmOf (etRm e.et))) inclusive (h.velem w b 0) ((h.velems w a n).zip mask)
    let out := ((h.velems w d n).zip ys).map (fun (c, y) => y.getD (if etMp e.et then 0 else c))
    let h := h.setVelems w d g (withTail (etTp e.et) w g out)
    if mask.any id then (h.setVelems w b g [p]).flag fl else h.flag flEMPTY

/-- A slide (07_lane.md R228). -/
def laneSlide (e : Entry) (op : SlideOp) (d a m : Nat) (sc : Word) : Run Unit :=
  let w := etSew e.et
  let g := etGroup e.et
  laneCross e true [d, a] m fun h =>
    let xs := maskedRow (etMp e.et) (h.velems w d e.n) (h.mbits m e.n) (slideElem op (h.velems w a e.n) e.n sc w)
    h.setVelems w d g (withTail (etTp e.et) w g xs)

/-- A permute that reads vb only where its table says (07_lane.md R229). -/
def lanePerm (e : Entry) (op : PermOp) (d a b m : Nat) : Run Unit :=
  let w := etSew e.et
  let g := etGroup e.et
  let two := op = .perm ∨ op = .zip
  laneCross e (if op = .conflict then e.n ≤ 2 ^ w else true) (if two then [d, a, b] else [d, a]) m fun h =>
    let mask := h.mbits m e.n
    let xs := h.velems w a e.n
    let ys := h.velems w b e.n
    let out := maskedRow (etMp e.et) (h.velems w d e.n) mask (fun i => some (permElem op xs ys mask e.n i))
    h.setVelems w d g (withTail (etTp e.et) w g out)

/-- `vcompress` (07_lane.md R229): the elements after the last one written are tail. -/
def laneCompress (e : Entry) (d a m : Nat) : Run Unit :=
  let w := etSew e.et
  let g := etGroup e.et
  laneCross e true [d, a] m fun h =>
    let xs := compressList (h.velems w a e.n) (h.mbits m e.n)
    if e.n = 0 then h
    else h.setVelems w d g (if etTp e.et then xs ++ List.replicate (g * perReg w - xs.length) 0 else xs)

/-- `vexpand` (07_lane.md R229). -/
def laneExpand (e : Entry) (d a m : Nat) : Run Unit :=
  let w := etSew e.et
  let g := etGroup e.et
  laneCross e true [d, a] m fun h =>
    let out := expandList (etMp e.et) (h.velems w a e.n) ((h.velems w d e.n).zip (h.mbits m e.n))
    h.setVelems w d g (withTail (etTp e.et) w g out)

end Sys2Proof.Machine
end

