-- ==== Sys2Proof/Machine/FabricGraph.lean ====
section
/-!
DEFINITION. The configured graphs of the gather fabric: blocks and their checks, iterations, routers and tokens
(08_gather_fabric.md R231 to R241, R258, R259).
-/

namespace Sys2Proof.Machine

/-! ### Blocks -/

/-- The router word (08_gather_fabric.md R237). -/
def blockRouter (b : Vector Word 9) : Word := word (bits b[0] 32 32)
/-- FOLLOW. -/
def blockFollow (b : Vector Word 9) : Bool := b[0].getLsbD 23
/-- START. -/
def blockStart (b : Vector Word 9) : Bool := b[0].getLsbD 22
/-- PRED. -/
def blockPred (b : Vector Word 9) : Nat := bits b[0] 19 3
/-- DEPTH: counters in use minus one. -/
def blockDepth (b : Vector Word 9) : Nat := bits b[0] 17 2
/-- OUT: 1 to the node's router. -/
def blockOut (b : Vector Word 9) : Bool := b[0].getLsbD 16
/-- T: the stream of OUT = 0. -/
def blockT (b : Vector Word 9) : Nat := bits b[0] 12 4
/-- TYPE. -/
def blockTy (b : Vector Word 9) : Ty := bits b[0] 8 4
/-- Stage word `i` (08_gather_fabric.md R233, R235). -/
def blockStage (b : Vector Word 9) (i : Nat) : Word := word (bits ((b[(3 + i / 2)]?).getD 0) (32 * (i % 2)) 32)
/-- OP of a stage word. -/
def stageOpc (w : Word) : Nat := bits w 28 4
/-- CTR of a stage word. -/
def stageCtr (w : Word) : Nat := bits w 26 2
/-- IMM of a stage word. -/
def stageImm (w : Word) : Nat := bits w 0 26

/-- The iterations of a block (08_gather_fabric.md R234). -/
def blockIters (b : Vector Word 9) : Nat :=
  (List.range (blockDepth b + 1)).foldl (fun n i => n * blockCount b i) 1

/-- Whether the block has a TREE stage. -/
def blockTree (b : Vector Word 9) : Bool := stageOpc (blockStage b 5) = 6

/-- Whether the block has a RECV stage. -/
def blockRecv (b : Vector Word 9) : Bool := stageOpc (blockStage b 0) = 7

/-- The elements a block delivers (08_gather_fabric.md R235). -/
def blockOuts (b : Vector Word 9) : Nat := if blockTree b then (blockIters b + 15) / 16 else blockIters b

/-- The checks on a stage word at position `i` (08_gather_fabric.md R235). -/
def stageOk (b : Vector Word 9) (i : Nat) : Bool :=
  let w := blockStage b i
  let ctr := stageCtr w
  let imm := stageImm w
  match stageOpc w with
  | 0 | 3 | 4 => ctr = 0 && imm = 0
  | 1 => ctr ≤ blockDepth b
  | 2 => ctr = 0
  | 5 => ctr = 0 && imm / 2 ^ 12 = 0
  | 6 => i = 5 && ctr = 0 && imm / 4 = 0 && imm ≠ 3 && (classI (blockTy b) || classF (blockTy b))
  | 7 => i = 0 && ctr = 0 && imm = 0
  | _ => false

/-- The router operator (08_gather_fabric.md R237). -/
def routerOp (r : Word) : Nat := bits r 29 3
/-- DEC. -/
def routerDec (r : Word) : Nat := bits r 26 3
/-- SIDE. -/
def routerSide (r : Word) : Nat := bits r 23 3
/-- DA. -/
def routerDa (r : Word) : Nat := bits r 20 3
/-- DB. -/
def routerDb (r : Word) : Nat := bits r 17 3
/-- BUF. -/
def routerBuf (r : Word) : Nat := bits r 13 4
/-- Whether the operator uses SIDE. -/
def routerUsesSide (r : Word) : Bool := routerOp r = 2 || routerOp r = 4
/-- Whether the operator uses DEC. -/
def routerUsesDec (r : Word) : Bool := routerOp r != 0

/-- The checks on a router word (08_gather_fabric.md R237). -/
def routerOk (r : Word) : Bool :=
  routerOp r ≤ 4 && bits r 0 13 = 0 && (routerUsesDec r || routerDec r = 0) && (routerUsesSide r || routerSide r = 0) &&
  (routerOp r = 1 || routerDb r = 0) && (if routerOp r = 4 then 1 ≤ routerBuf r && routerBuf r ≤ 8 else routerBuf r = 0)

/-- The checks on a block (08_gather_fabric.md R236); `prev` is the block whose NEXT named it. -/
def blockOk (b : Vector Word 9) (prev : Option (Vector Word 9)) : Bool :=
  bits b[0] 24 8 = 2 && bits b[0] 0 8 = 0 && blockTy b != 14 &&
  (List.range 4).all (fun i => if i ≤ blockDepth b then blockCount b i != 0 else blockCount b i = 0) &&
  blockIters b < 2 ^ 48 && (List.range 6).all (stageOk b) &&
  (if blockOut b then blockT b = 0 && routerOk (blockRouter b) else blockRouter b = 0) &&
  (blockStart b || blockPred b = 0) && (blockFollow b || b[8] = 0) && b[8].toNat % 8 = 0 &&
  (match prev with
   | none => true
   | some p => blockOut p == blockOut b && blockT p == blockT b && blockTy p == blockTy b)

/-! ### Links -/

/-- A node of the hart. -/
def Hart.fnode (h : Hart) (n : Nat) : FabricNode := (h.fnodes[n]?).getD .reset

/-- Changing a node. -/
def Hart.modNode (h : Hart) (n : Nat) (f : FabricNode → FabricNode) : Hart := { h with fnodes := modAt h.fnodes n f }

/-- Whether a node has a router at work: a configured node whose OUT is 1, whether or not the node itself has started
(08_gather_fabric.md R237). -/
def FabricNode.routes (n : FabricNode) : Bool := n.state != .idle && blockOut n.block

/-- The tokens of one link, in order (08_gather_fabric.md R238). -/
def Hart.link (h : Hart) (src router inp : Nat) : List FabricToken :=
  h.ftokens.filter (fun t => t.src.toNat == src && t.router.toNat == router && t.inp.toNat == inp)

/-- The room of a link: four slots of the context, and the buffer of a merge arm (08_gather_fabric.md R237, R258); the
token in the escape slot takes none. -/
def Hart.linkRoom (h : Hart) (src router inp : Nat) : Bool :=
  let buf := if inp < 2 then routerBuf (blockRouter (h.fnode router).block) else 0
  ((h.link src router inp).filter (fun t => !t.escape)).length < 4 + buf

/-- Sending a token over a link. -/
def Hart.sendToken (h : Hart) (src router inp : Nat) (e : Elem) : Hart :=
  { h with ftokens := h.ftokens ++ [⟨BitVec.ofNat 3 src, BitVec.ofNat 3 router, BitVec.ofNat 2 inp, false, e⟩] }

/-- Taking the first token of a link. -/
def Hart.takeToken (h : Hart) (src router inp : Nat) : Option (Elem × Hart) :=
  match h.ftokens.findIdx? (fun t => t.src.toNat == src && t.router.toNat == router && t.inp.toNat == inp) with
  | none => none
  | some i => match h.ftokens[i]? with
    | none => none
    | some t => some (t.elem, { h with ftokens := h.ftokens.eraseIdx i })

/-- The router inputs a node's output reaches: its own router, and every router that names it (08_gather_fabric.md
R237). -/
def Hart.outLinks (h : Hart) (n : Nat) : List (Nat × Nat) :=
  (List.range 8).flatMap fun r =>
    let nd := h.fnode r
    let w := blockRouter nd.block
    if nd.state != .idle && blockOut nd.block then
      (if r = n then [(r, 0)] else []) ++ (if routerUsesSide w && routerSide w = n then [(r, 1)] else []) ++
      (if routerUsesDec w && routerDec w = n then [(r, 2)] else [])
    else []

/-- A router's output to a destination node: its link is input 3. -/
def Hart.toNode (h : Hart) (router dst : Nat) (e : Elem) : Option Hart :=
  if h.linkRoom dst router 3 then some (h.sendToken dst router 3 e) else none

/-- The bit of a decider: a faulted one decides 0 (log 14). -/
def deciderBit (d : Elem) : Bool := d.fault.isNone && d.val.getLsbD 0

/-- A data token under a decider that carries a fault (08_gather_fabric.md R238): it carries the decider's fault on, also where it
had one of its own (DESIGN CHOICE, log 14). -/
def underDecider (d x : Elem) : Elem := if d.fault.isSome then { x with fault := d.fault } else x

/-- One step of a router, if it can take one (08_gather_fabric.md R237, R238). `routerStep` says what a carry takes
next: 0 an O token, 1 a decider, 2 an S token. -/
def Hart.routerStep (h : Hart) (r : Nat) : Option Hart :=
  let nd := h.fnode r
  let w := blockRouter nd.block
  let dec := routerDec w
  let side := routerSide w
  let da := routerDa w
  match routerOp w with
  | 0 => match h.takeToken r r 0 with
    | none => none
    | some (x, h) => h.toNode r da x
  | 1 => match h.takeToken r r 0 with
    | none => none
    | some (x, h) => match h.takeToken dec r 2 with
      | none => none
      | some (d, h) => h.toNode r (if deciderBit d then routerDb w else da) (underDecider d x)
  | 2 =>
    let pending := nd.routerHeld
    let mark (x : Elem) : Elem := match pending with | some d => underDecider d x | none => x
    if nd.routerStep = 0 then match h.takeToken r r 0 with
      | none => none
      | some (x, h) => (h.toNode r da (mark x)).map (fun h => h.modNode r (fun n => { n with routerStep := 1, routerHeld := none }))
    else if nd.routerStep = 1 then match h.takeToken dec r 2 with
      | none => none
      | some (d, h) => some (h.modNode r (fun n => { n with routerStep := if deciderBit d then 2 else 0, routerHeld := some d }))
    else match h.takeToken side r 1 with
      | none => none
      | some (x, h) => (h.toNode r da (mark x)).map (fun h => h.modNode r (fun n => { n with routerStep := 1, routerHeld := none }))
  | 3 => match nd.routerHeld with
    | none => match h.takeToken r r 0 with
      | none => none
      | some (x, h) => some (h.modNode r (fun n => { n with routerHeld := some x }))
    | some v => match h.takeToken dec r 2 with
      | none => none
      | some (d, h) => (h.toNode r da (underDecider d v)).map (fun h =>
          if deciderBit d then h else h.modNode r (fun n => { n with routerHeld := none }))
  | _ =>
    if nd.routerStep = 0 then match h.takeToken dec r 2 with
      | none => none
      | some (d, h) => some (h.modNode r (fun n => { n with routerStep := if deciderBit d then 2 else 1, routerHeld := some d }))
    else
      let d := (nd.routerHeld).getD ⟨0, none⟩
      match (if nd.routerStep = 1 then h.takeToken r r 0 else h.takeToken side r 1) with
      | none => none
      | some (x, h) => (h.toNode r da (underDecider d x)).map (fun h =>
          h.modNode r (fun n => { n with routerStep := 0, routerHeld := none }))

/-! ### Iterations -/

/-- An access of a graph (08_gather_fabric.md R235, R239): the value, or the element's fault. -/
def graphLoad (w : Agent) (a : Word) (n : Nat) (s : State) : Elem × State :=
  if a.toNat % n ≠ 0 then (⟨0, some (eAlign, a)⟩, s)
  else match tryAcc (loadElem w a n) s with
    | (.ok x, s) => (⟨word x, none⟩, s)
    | (.error e, s) => (⟨0, some (e.code, e.addr)⟩, s)

/-- The value of one stage (08_gather_fabric.md R235); an element that carries a fault passes unchanged. -/
def stageStep (w : Agent) (b : Vector Word 9) (cnt : List Nat) (st : Word) (x : Elem) (s : State) : Elem × State :=
  let imm := stageImm st
  if x.fault.isSome then (x, s)
  else match stageOpc st with
    | 1 => (⟨x.val + word ((cnt[stageCtr st]?).getD 0) * sextWord 26 imm, none⟩, s)
    | 2 => (⟨x.val + sextWord 26 imm, none⟩, s)
    | 3 =>
      let (e, s) := graphLoad w (b[7] + 4 * x.val) 4 s
      (if e.fault.isSome then e else ⟨sextWord 32 e.val.toNat, none⟩, s)
    | 4 => graphLoad w (b[6] + x.val * word (tyWidth (blockTy b) / 8)) (tyWidth (blockTy b) / 8) s
    | 5 =>
      let n := if imm / 64 = 0 then 64 else imm / 64
      (⟨word (x.val.toNat / 2 ^ (imm % 64) % 2 ^ n), none⟩, s)
    | _ => (x, s)

/-- The output of a TREE group (08_gather_fabric.md R235, R238). -/
def treeOut (b : Vector Word 9) (xs : List Elem) : Elem :=
  match xs.find? (fun e => e.fault.isSome) with
  | some e => ⟨0, e.fault⟩
  | none =>
    let t := blockTy b
    let op : RedOp := match stageImm (blockStage b 5) with | 1 => .min | 2 => .max | _ => .sum
    let ys := xs.map (fun e => some (e.val.toNat % 2 ^ tyWidth t)) ++ List.replicate (16 - xs.length) none
    ⟨word (((redTree (redStep op t .rne) 4 ys).1).getD 0), none⟩

/-- An element arrives at the next position of a stream; below the stream's position nothing waits for it (06_port.md R191). -/
def Stream.arrive (t : Stream) (e : Elem) : Stream :=
  if t.first + t.ahead.length < t.pos then { t with first := t.first + 1 } else { t with ahead := t.ahead ++ [e] }

/-- An element to where a node's output goes: its stream, or the routers (08_gather_fabric.md R235, R237). -/
def Hart.nodeOut (h : Hart) (n : Nat) (e : Elem) : Hart :=
  let b := (h.fnode n).block
  if blockOut b then (h.outLinks n).foldl (fun h (r, i) => h.sendToken n r i e) h
  else { h with streams := modAt h.streams (blockT b) (fun t =>
           if t.kind = .fabric ∧ t.node.toNat = n then t.arrive e else t) }

/-- Lengthening the stream a node feeds (08_gather_fabric.md R241). -/
def Hart.growStream (h : Hart) (n k : Nat) : Hart :=
  let b := (h.fnode n).block
  if blockOut b then h
  else { h with streams := modAt h.streams (blockT b) (fun t =>
           if t.kind = .fabric ∧ t.node.toNat = n then { t with len := t.len + k } else t) }

/-- A LOADED node starts (08_gather_fabric.md R240): what its follow-on block delivers lengthens its stream then (R241). -/
def Hart.startNode (h : Hart) (n : Nat) : Hart :=
  (h.growStream n (h.fnode n).due).modNode n (fun m => { m with state := .running, due := 0 })

/-- The finish token of node `n` starts every node that waits for it (08_gather_fabric.md R240). -/
def Hart.finishToken (h : Hart) (n : Nat) : Hart :=
  (List.range 8).foldl (fun h m =>
    let b := (h.fnode m).block
    if (h.fnode m).state = .loaded ∧ blockStart b ∧ blockPred b = n then h.startNode m else h) h

/-- Reading a block (08_gather_fabric.md R233). -/
def readBlock (w : Agent) (a : Word) : Acc (Vector Word 9) := do
  let xs ← loadDws w a 9
  pure (Vector.ofFn (fun i => (xs[i.val]?).getD 0))

/-- A node's last iteration has left stage 5 (08_gather_fabric.md R240): the finish token, and without a follow-on block the
node is DONE. Of a node with FOLLOW = 1 each block sends the token at its end, and a node that becomes LOADED after a token was
sent waits for the next one (DESIGN CHOICE, log 69). -/
def State.nodeFinish (s : State) (n : Nat) : State :=
  let h := s.hart.finishToken n
  s.setHart (if blockFollow (h.fnode n).block then h else h.modNode n (fun m => { m with state := .done }))

/-- The follow-on block of a node whose loop has ended (08_gather_fabric.md R240, R241): it is fetched once the node's own
router has taken every token of the block before it, and the router goes on where it stood unless its operator changes (log 42).
A block that cannot be fetched, or fails its checks, sends an element with the cause, which needs room on the links. -/
def State.nodeFollow (s : State) (n : Nat) : Option State :=
  let h := s.hart
  let nd := h.fnode n
  let next := nd.block[8]
  let fail (s : State) (code : BitVec 8) : State :=
    let h := s.hart.modNode n (fun m => { m with state := .done, owed := some (code, next) })
    s.setHart ((h.growStream n 1).nodeOut n ⟨0, some (code, next)⟩)
  if blockOut nd.block && (!(h.link n n 0).isEmpty || (h.outLinks n).any (fun (r, i) => !h.linkRoom n r i)) then none
  else match tryAcc (readBlock h.agent next) s with
    | (.error e, s) => some (fail s e.code)
    | (.ok b, s) =>
      if !blockOk b (some nd.block) then some (fail s eOperand)
      else
        let same := routerOp (blockRouter b) = routerOp (blockRouter nd.block)
        let h := s.hart.modNode n (fun m =>
          { m with block := b, iter := 0, tree := [], state := if blockStart b then .loaded else .running,
                   due := if blockStart b then blockOuts b else 0, routerStep := if same then m.routerStep else 0, routerHeld := if same then m.routerHeld else none })
        some (s.setHart (if blockStart b then h else h.growStream n (blockOuts b)))

/-- One iteration of node `n`, or the change to its follow-on block, if it can take one (08_gather_fabric.md R231, R235, R240).
It receives the oldest token on its links, also where the router that sent it names the node no more (R238). -/
def State.nodeIter (s : State) (n : Nat) : Option State :=
  let h := s.hart
  let nd := h.fnode n
  let b := nd.block
  let links := h.outLinks n
  let sends := !blockTree b || nd.tree.length = 15 || nd.iter + 1 = blockIters b
  if nd.state != .running then none
  else if blockIters b ≤ nd.iter then s.nodeFollow n
  else if blockOut b && sends && links.any (fun (r, i) => !h.linkRoom n r i) then none
  else
    let feeder := (h.ftokens.find? (fun t => t.src.toNat == n && t.inp.toNat == 3)).map (·.router.toNat)
    let start : Option (Elem × Hart) :=
      if blockRecv b then (match feeder with | none => none | some r => h.takeToken n r 3) else some (⟨0, none⟩, h)
    match start with
    | none => none
    | some (x0, h) =>
      let cnt := blockCounters b nd.iter
      let (x, s) := (List.range 6).foldl (fun (x, s) i => stageStep h.agent b cnt (blockStage b i) x s) (x0, s.setHart h)
      let last := nd.iter + 1 = blockIters b
      let group := nd.tree ++ [x]
      let h := s.hart
      let h :=
        if blockTree b then
          if group.length = 16 ∨ last then
            (h.nodeOut n (treeOut b group)).modNode n (fun m => { m with iter := m.iter + 1, tree := [] })
          else h.modNode n (fun m => { m with iter := m.iter + 1, tree := group })
        else (h.nodeOut n ⟨word (x.val.toNat % 2 ^ tyWidth (blockTy b)), x.fault⟩).modNode n (fun m => { m with iter := m.iter + 1 })
      let s := s.setHart h
      some (if last then s.nodeFinish n else s)

/-- One round of the graph: each running node takes an iteration and each router a step, where they can. Answers
whether anything moved. -/
def State.fabricRound (s : State) : Bool × State :=
  (List.range 8).foldl (fun (moved, s) n =>
    let (moved, s) := match s.nodeIter n with
      | some s => (true, s)
      | none => (moved, s)
    if (s.hart.fnode n).routes then match s.hart.routerStep n with
      | some h => (true, s.setHart h)
      | none => (moved, s)
    else (moved, s)) (false, s)

/-- Rounds until a condition holds or nothing moves, at most `fuel` of them. -/
def State.fabricUntil (s : State) (p : Hart → Bool) : Nat → State
  | 0 => s
  | fuel + 1 =>
    if p s.hart then s
    else match s.fabricRound with
      | (true, s') => s'.fabricUntil p fuel
      | (false, s') => s'

/-- Whether the hart has a running node. -/
def Hart.fabricBusy (h : Hart) : Bool := h.fnodes.any (fun n => n.state = .running)

/-- The checks of `fstart` on the hart's LOADED nodes (08_gather_fabric.md R236). -/
def Hart.graphOk (h : Hart) : Bool :=
  (List.range 8).all fun n =>
    let nd := h.fnode n
    if nd.state != .loaded then true
    else
      let w := blockRouter nd.block
      let dests (r : Nat) : List Nat :=
        let m := h.fnode r
        if m.state != .idle && blockOut m.block then
          let v := blockRouter m.block
          if routerOp v = 1 then [routerDa v, routerDb v] else [routerDa v]
        else []
      let named := (if routerUsesDec w then [routerDec w] else []) ++ (if routerUsesSide w then [routerSide w] else [])
      (!blockRecv nd.block || ((List.range 8).filter (fun r => (dests r).contains n)).length = 1) &&
      (!blockOut nd.block ||
        ((named ++ dests n).all (fun m => (h.fnode m).state != .idle) && named.all (fun m => blockOut (h.fnode m).block) &&
         (dests n).all (fun m => blockRecv (h.fnode m).block)))

end Sys2Proof.Machine
end

