-- ==== Sys2Proof/Machine/Port.lean ====
section
/-!
DEFINITION. The port engine: vector loads and stores, first-fault loads, stream registers and asynchronous copies
(06_port.md R171 to R200; 04_memory_model.md R115).
-/

namespace Sys2Proof.Machine

/-! ### Elements -/

/-- The guest-physical address a held fault concerns (04_memory_model.md R111): an `E_HPAGE` is walked again for it, and
the walk leaves nothing behind (log 15). -/
def State.gpaOf (s : State) (w : Agent) (code : BitVec 8) (addr : Word) : Word :=
  if code = eHpage then
    match tryAcc (translate w .load addr) s with
    | (.error f, _) => f.gpa
    | (.ok _, _) => match tryAcc (translate w .probeStore addr) s with
      | (.error f, _) => f.gpa
      | (.ok _, _) => match tryAcc (translate w .store addr) s with
        | (.error f, _) => f.gpa
        | (.ok _, _) => 0
  else 0

/-- A trap for a cause that was held: its guest-physical address is found again. -/
def heldTrap (src : BitVec 4) (code : BitVec 8) (addr : Word) (ei : Nat) : Run α := fun s =>
  .error (.trap code src (some addr) (s.gpaOf s.hart.agent code addr) ei) s

/-- The alignment of an element (06_port.md R172). -/
def aligned (va : Word) (n : Nat) : Acc Unit := if va.toNat % n = 0 then pure () else throw ⟨eAlign, va, 0⟩

/-- Loading element `i` of `w` bits at its address; for w = 4 the address is that of the byte, and `i` says which
nibble (06_port.md R171, R172; 03_arithmetic.md R78). Of a misaligned element the alignment is judged before its translation
(log 54). -/
def loadAt (ag : Agent) (w : Nat) (va : Word) (i : Nat) : Acc Nat :=
  if w = 4 then do
    let b ← loadElem ag va 1
    pure (b / 16 ^ (i % 2) % 16)
  else do
    aligned va (w / 8)
    loadElem ag va (w / 8)

/-- Storing element `i` of `w` bits; a single nibble reads its byte and writes it back (04_memory_model.md R115). -/
def storeAt (ag : Agent) (w : Nat) (va : Word) (i : Nat) (x : Nat) : Acc Unit :=
  if w = 4 then do
    let locs ← locate ag .store va 1
    lateAt ag true locs va 1
    modify fun s => locs.foldl (fun s a => if i % 2 = 0 then s.writeHalf ag.fn va a 0x0F (BitVec.ofNat 8 (x % 16))
      else s.writeHalf ag.fn va a 0xF0 (BitVec.ofNat 8 (x % 16 * 16))) s
  else do
    aligned va (w / 8)
    storeElem ag va (w / 8) x

/-- The address of element `i` of a unit-stride form (06_port.md R171). -/
def unitAddr (w : Nat) (base : Word) (i : Nat) : Word := if w = 4 then base + word (i / 2) else base + word (i * (w / 8))

/-- The address of element `i` of a strided form. -/
def strideAddr (base stride : Word) (i : Nat) : Word := base + word i * stride

/-- The address of element `i` of an indexed form. -/
def indexAddr (h : Hart) (w vi : Nat) (base : Word) (i : Nat) : Word :=
  base + sextWord w (h.velem w vi i) * word (w / 8)

/-! ### Rows -/

/-- Elements in ascending order from `i` on, until one fails: the values of the elements done, and the one that failed
(06_port.md R175, R179). -/
def rowUntil (f : Nat → Nat → Acc Nat) (mp : Bool) : Nat → List (Bool × Nat) → Run (List Nat × Option (Nat × Fail))
  | _, [] => pure ([], none)
  | i, (b, c) :: rest => do
    if b then
      match ← tryRun (f i c) with
      | .error e => pure ([], some (i, e))
      | .ok x => do
        let (xs, r) ← rowUntil f mp (i + 1) rest
        pure (x :: xs, r)
    else do
      let (xs, r) ← rowUntil f mp (i + 1) rest
      pure ((if mp then 0 else c) :: xs, r)

/-- The probe pass (06_port.md R178): every active element from `i` on is checked, and the answer is the first that fails. -/
def probeUntil (f : Nat → Acc Unit) : Nat → List Bool → Run (Option (Nat × Fail))
  | _, [] => pure none
  | i, b :: rest => do
    if b then
      match ← tryRun (f i) with
      | .error e => do
        let _ ← probeUntil f (i + 1) rest
        pure (some (i, e))
      | .ok _ => probeUntil f (i + 1) rest
    else probeUntil f (i + 1) rest

/-- The trap of a failing element (06_port.md R179). -/
def failTrap (src : BitVec 4) (k : Nat) (e : Fail) : Run α := throw (.trap e.code src (some e.addr) e.gpa k)

/-- The causes that trim a first-fault load (06_port.md R180). -/
def trims (code : BitVec 8) : Bool := code == eAlign || code == ePage || code == eHpage || code == eLink

/-- FFMASK (06_port.md R181). -/
def ffWord (trim : Bool) (len : Nat) : Word := word (trim.toNat * 2 ^ 63 + len % 2 ^ 32)

/-- How a port access computes its addresses. -/
inductive PortForm where
  | unit
  | strided
  | indexed (vi : Nat)
deriving DecidableEq, Repr

/-- The address of element `i` of an entry (06_port.md R171): `base` and `step` are its captured operands. -/
def PortForm.addr (f : PortForm) (h : Hart) (w : Nat) (base step : Word) (i : Nat) : Word :=
  match f with
  | .unit => unitAddr w base i
  | .strided => strideAddr base step i
  | .indexed vi => indexAddr h w vi base i

/-- The checks at issue (06_port.md R173; 07_lane.md R203). -/
def PortForm.ok (f : PortForm) (load : Bool) (et : Word) (v m vl : Nat) : Bool :=
  let g := etGroup et
  groupOk v g && spanOk m vl &&
  match f with
  | .unit => true
  | .strided => etSew et != 4
  | .indexed vi => etSew et != 4 && groupOk vi g && (!load || sameOrApart v g vi g)

/-- The rights and alignment of element `i`, found by the probe (06_port.md R178). -/
def probeAt (ag : Agent) (a : Access) (w : Nat) (va : Word) : Acc Unit := do
  aligned va (w / 8)
  let _ ← locate ag a va (w / 8)

/-- The end of the part of a row that the probe lets be done. -/
def probeEnd (f : PortForm) (ag : Agent) (a : Access) (w ei : Nat) (addr : Nat → Word) (mask : List Bool) :
    Run (Option (Nat × Fail)) :=
  match f with
  | .indexed _ => probeUntil (fun i => probeAt ag a w (addr i)) ei (mask.drop ei)
  | .unit | .strided => pure none

/-- A vector load (06_port.md R175, R179); with `ff` a first-fault load (R180). -/
def portLoad (e : Entry) (f : PortForm) (ff : Bool) (v m : Nat) (base step : Word) : Run Unit :=
  checked 2 e (f.ok true e.et v m e.n) do
    let h ← theHart
    let w := etSew e.et
    let g := etGroup e.et
    let n := e.n
    let ei := e.prog.toNat
    let mask := h.mbits m n
    let old := h.velems w v n
    let addr := f.addr h w base step
    let probe ← probeEnd f h.agent .load w ei addr mask
    let stop := (probe.map (·.1)).getD n
    let (xs, fail) ← rowUntil (fun i _ => loadAt h.agent w (addr i) i) (etMp e.et) ei (((mask.zip old).take stop).drop ei)
    let row := old.take ei ++ xs
    match fail.or probe with
    | none => do
      modHart fun h => h.setVelems w v g (withTail (etTp e.et) w g row)
      if ff then modHart fun h => { h with ffmask := ffWord false n }
    | some (k, err) => do
      modHart fun h => h.setVelems w v g row
      let first := ei + ((firstSet (mask.drop ei)).getD 0)
      if ff && k != first && trims err.code then modHart fun h => { h with ffmask := ffWord true k }
      else failTrap 2 k err

/-- A vector store (06_port.md R175, R176, R178, R179). -/
def portStore (e : Entry) (f : PortForm) (v m : Nat) (base step : Word) : Run Unit :=
  checked 2 e (f.ok false e.et v m e.n) do
    let h ← theHart
    let w := etSew e.et
    let n := e.n
    let ei := e.prog.toNat
    let mask := h.mbits m n
    let addr := f.addr h w base step
    let probe ← probeEnd f h.agent .probeStore w ei addr mask
    let stop := (probe.map (·.1)).getD n
    let (_, fail) ← rowUntil (fun i x => do storeAt h.agent w (addr i) i x; pure 0) false ei
      (((mask.zip (h.velems w v n)).take stop).drop ei)
    match fail.or probe with
    | none => pure ()
    | some (k, err) => failTrap 2 k err

/-! ### Streams -/

/-- A stream register of the hart. -/
def Hart.stream (h : Hart) (t : BitVec 4) : Stream := h.streams[t.toNat]'t.isLt

/-- Changing a stream register. -/
def Hart.modStream (h : Hart) (t : BitVec 4) (f : Stream → Stream) : Hart :=
  { h with streams := h.streams.set t.toNat (f (h.stream t)) t.isLt }

/-- The element type of a bound stream (06_port.md R189; 08_gather_fabric.md R243). -/
def Stream.ty (t : Stream) : Ty := bits t.desc[1] 0 4

/-- The address of position `p` (06_port.md R189); a dimension above DIMS counts 1. -/
def Stream.addr (t : Stream) (p : Nat) : Word :=
  let dims := bits t.desc[1] 4 2
  let c (i : Nat) : Nat := if i ≤ dims then bits ((t.desc[2 + i]?).getD 0) 32 32 else 1
  let st (i : Nat) : Word := sextWord 32 (bits ((t.desc[2 + i]?).getD 0) 0 32)
  t.desc[0] + word (p % c 0) * st 0 + word (p / c 0 % c 1) * st 1 + word (p / (c 0 * c 1)) * st 2

/-- The checks on a descriptor (06_port.md R189). -/
def streamOk (d : List Word) : Bool :=
  let g (i : Nat) : Word := (d[i]?).getD 0
  let dims := bits (g 1) 4 2
  bits (g 1) 6 58 = 0 && dims != 3 && bits (g 1) 0 4 != 14 &&
  (List.range 3).all (fun i => i ≤ dims || g (2 + i) = 0) && streamCount d < 2 ^ 48

/-- `tbindl` and `tbinds` (06_port.md R190). -/
def streamBind (e : Entry) (t : BitVec 4) (kind : StreamKind) (a : Word) : Run Unit :=
  if e.skipped then pure ()
  else do
    modHart fun h => h.modStream t fun _ => .reset
    if a.toNat % 8 ≠ 0 then trapAt 2 eAlign (some a) 0
    else do
      let h ← theHart
      let d ← acc 2 0 (loadDws h.agent a 5)
      if !streamOk d then operandTrap 2
      else modHart fun h => h.modStream t fun _ =>
        { Stream.reset with kind := kind, desc := Vector.ofFn (fun i => (d[i.val]?).getD 0), len := streamCount d }

/-- `tfree` (06_port.md R193). -/
def streamFree (e : Entry) (t : BitVec 4) : Run Unit :=
  if e.skipped then pure () else modHart fun h => h.modStream t fun _ => .reset

/-- `tflush` (06_port.md R193): a load stream's prefetched elements go; elements of the gather fabric are delivered, not
fetched by the port engine, and stay (log 16). -/
def streamFlush (e : Entry) (t : BitVec 4) : Run Unit :=
  if e.skipped then pure ()
  else modHart fun h => h.modStream t fun st => if st.kind = .load then { st with first := st.pos, ahead := [] } else st

/-- Position `q` of a stream being read: its value, its fault, or a wait (06_port.md R191). A load stream's element whose fault
has been raised, code 0, is fetched again, and so is one below those that have arrived; an element below the position of a
fabric stream has gone (log 8). -/
def streamElem (t : BitVec 4) (w q : Nat) : Run (Except Fail Nat) := do
  let h ← theHart
  let st := h.stream t
  let got : Option Elem := if st.first ≤ q then st.ahead[q - st.first]? else none
  let fetch : Run (Except Fail Nat) := tryRun (loadAt h.agent w (st.addr q) q)
  match got with
  | some x =>
    match x.fault with
    | none => pure (.ok (x.val.toNat % 2 ^ w))
    | some (code, addr) =>
      if code = 0 then fetch
      else fun s => .ok (.error ⟨code, addr, s.gpaOf h.agent code addr⟩) s
  | none =>
    if st.kind = .load then fetch
    else if q < st.pos then fun s => .ok (.ok ((Config.freeWord s.free).toNat % 2 ^ w)) s
    else throw .wait

/-- Elements of a strip, until one fails or has not arrived: their values and the stop. -/
def stripUntil (t : BitVec 4) (w p0 : Nat) (mp : Bool) : Nat → List (Bool × Nat) → Run (List Nat × Option (Nat × Option Fail))
  | _, [] => pure ([], none)
  | i, (b, c) :: rest => do
    let r : Option (Except Fail Nat) ← fun s => match streamElem t w (p0 + i) s with
      | .ok r s => .ok (some r) s
      | .error _ s => .ok none s
    match r with
    | none => pure ([], some (i, none))
    | some (.error err) =>
      if b then pure ([], some (i, some err))
      else do
        let (xs, stop) ← stripUntil t w p0 mp (i + 1) rest
        pure ((if mp then 0 else c) :: xs, stop)
    | some (.ok x) => do
      let (xs, stop) ← stripUntil t w p0 mp (i + 1) rest
      pure ((if b then x else if mp then 0 else c) :: xs, stop)

/-- Moving a stream to position `p`: what has arrived below it goes. The next element that a load stream reads ahead is that of
`p`; a fabric stream's next one has its own position. -/
def Stream.moveTo (t : Stream) (p : Nat) : Stream :=
  let d := min (p - t.first) t.ahead.length
  let rest := t.ahead.drop d
  { t with pos := p, first := if t.kind = .load ∧ rest = [] then p else t.first + d, ahead := rest }

/-- The fault of the element at position `p` has been raised: what a load stream read ahead there is read again (06_port.md
R191, R194). -/
def Stream.raised (t : Stream) (p : Nat) : Stream :=
  if t.kind = .load ∧ t.first ≤ p then
    { t with ahead := t.ahead.mapIdx (fun i x => if i = p - t.first then { x with fault := x.fault.map (fun f => (0, f.2)) } else x) }
  else t

/-- The head of the PIQ keeps its progress. -/
def portProgress (i : Nat) : Run Unit := modHart fun h => { h with piq := modHead (fun e => { e with prog := BitVec.ofNat 48 i }) h.piq }

/-- The rounds of a graph that one step takes at most before it looks again. -/
def fabricFuel : Nat := 1024

/-- The position of a stream at the start of an entry, kept with the entry (06_port.md R191, R192). -/
def stripBase (e : Entry) (t : BitVec 4) : Run Nat := do
  if e.started then pure e.base
  else do
    let h ← theHart
    let p := (h.stream t).pos
    modHart fun h => { h with piq := modHead (fun e => { e with started := true, base := p }) h.piq }
    pure p

/-- `tget` (06_port.md R191, 08_gather_fabric.md R241). One that a written ei completes leaves p at p0 + n (log 55). -/
def streamGet (e : Entry) (v : Nat) (t : BitVec 4) (m : Nat) : Run Unit := do
  let w := etSew e.et
  let g := etGroup e.et
  let h ← theHart
  let st := h.stream t
  let okStream := (st.kind = .load ∨ st.kind = .fabric) ∧ tyWidth st.ty = w ∧ groupOk v g ∧ spanOk m e.n
  if !okStream then (if e.skipped then pure () else operandTrap 2)
  else do
    let p0 ← stripBase e t
    if st.kind = .fabric then
      fun s => .ok () (s.fabricUntil (fun h =>
        p0 + e.n ≤ (h.stream t).first + (h.stream t).ahead.length) fabricFuel)
    let h ← theHart
    let st := h.stream t
    let nodeDone := (h.fnode st.node.toNat).state = .done || !(h.fnode st.node.toNat).grows
    waitUnless (st.kind = .load || p0 + e.n ≤ st.len || nodeDone)
    let n := min e.n (st.len - p0)
    if e.skipped then modHart fun h => h.modStream t (·.moveTo (p0 + n))
    else if n = 0 then operandTrap 2
    else do
      let ei := min e.prog.toNat n
      let mask := h.mbits m n
      let old := h.velems w v n
      let (xs, stop) ← stripUntil t w p0 (etMp e.et) ei ((mask.zip old).drop ei)
      let row := old.take ei ++ xs
      match stop with
      | none => do
        modHart fun h => (h.modStream t (·.moveTo (p0 + n))).setVelems w v g (withTail (etTp e.et) w g row)
      | some (k, err) => do
        modHart fun h => (h.modStream t (·.moveTo (p0 + k))).setVelems w v g row
        match err with
        | some err => do
          modHart fun h => h.modStream t (·.raised (p0 + k))
          failTrap 2 k err
        | none => do
          portProgress k
          throw .wait

/-- `tsend` (06_port.md R192). One that a written ei completes leaves p at p0 + n (log 55). -/
def streamSend (e : Entry) (v : Nat) (t : BitVec 4) (m : Nat) : Run Unit := do
  let w := etSew e.et
  let h ← theHart
  let st := h.stream t
  let okStream := st.kind = .store ∧ tyWidth st.ty = w ∧ groupOk v (etGroup e.et) ∧ spanOk m e.n
  if !okStream then (if e.skipped then pure () else operandTrap 2)
  else do
    let p0 ← stripBase e t
    let n := min e.n (st.len - p0)
    if e.skipped then modHart fun h => h.modStream t (·.moveTo (p0 + n))
    else if n = 0 then operandTrap 2
    else do
      let ei := min e.prog.toNat n
      let (_, stop) ← rowUntil (fun i x => do storeAt h.agent w (st.addr (p0 + i)) (p0 + i) x; pure 0) false ei
        (((h.mbits m n).zip (h.velems w v n)).drop ei)
      match stop with
      | none => modHart fun h => h.modStream t (·.moveTo (p0 + n))
      | some (k, err) => do
        modHart fun h => h.modStream t (·.moveTo (p0 + k))
        failTrap 2 k err

/-! ### Copies -/

/-- A copy token of the hart. -/
def Hart.copy (h : Hart) (k : BitVec 4) : Token := h.copies[k.toNat]'k.isLt

/-- Changing a copy token. -/
def Hart.modCopy (h : Hart) (k : BitVec 4) (f : Token → Token) : Hart :=
  { h with copies := h.copies.set k.toNat (f (h.copy k)) k.isLt }

/-- Two byte ranges share a byte, modulo 2^64. -/
def rangesMeet (a b : Word) (n : Nat) : Bool := n != 0 && ((b - a).toNat < n || (a - b).toNat < n)

/-- `acopy` (06_port.md R195). -/
def copyStart (e : Entry) (k : BitVec 4) (dst src len : Word) : Run Unit :=
  if e.skipped then pure ()
  else if 2 ^ 40 ≤ len.toNat ∨ rangesMeet dst src len.toNat then operandTrap 2
  else do
    let h ← theHart
    waitUnless ((h.copy k).state != .busy)
    modHart fun h => h.modCopy k fun _ =>
      { Token.reset with state := if len = 0 then .done else .busy, dst := dst, src := src, len := len }

/-- A store that has timed out is raised once by an instruction that orders it: the oldest one first (04_memory_model.md
R141). -/
def lateTrap (src : BitVec 4) : Run Unit := do
  let h ← theHart
  match h.takeLate (fun _ => true) with
  | none => pure ()
  | some (a, h) => do
    modHart fun _ => h
    trapAt src eMemTimeout (some a) 0

/-- `cwait` (06_port.md R197); bit 0 of AUX is the retry mark (13_context.md R382), which an entry that finds BUSY loses. -/
def copyWait (e : Entry) (k : BitVec 4) : Run Unit :=
  if 1 ≤ e.prog.toNat then pure ()
  else do
    lateTrap 2
    let h ← theHart
    let tk := h.copy k
    match tk.state with
    | .done => pure ()
    | .busy => do
      modHart fun h => { h with piq := modHead (fun e => { e with aux := withBit e.aux 0 false }) h.piq }
      throw .wait
    | .fault =>
      if e.aux.getLsbD 0 then do
        modHart fun h => { (h.modCopy k fun t => { t with state := .busy }) with
          piq := modHead (fun e => { e with aux := withBit e.aux 0 false }) h.piq }
        throw .wait
      else do
        modHart fun h => { h with piq := modHead (fun e => { e with aux := withBit e.aux 0 true }) h.piq }
        heldTrap 2 tk.cause tk.addr 0

/-- `ctest` (06_port.md R198); an entry that a written ei has completed gives 0 (07_lane.md R211). -/
def copyTest (e : Entry) (k : BitVec 4) : Run Unit := do
  let h ← theHart
  pushBq 2 (!e.skipped && (h.copy k).state != .busy)

/-- Whether bytes `lo` to `len`, of which offset `x` lies at a location, cover its whole granule. -/
def copyCovers (a lo x len : Nat) : Bool :=
  match granuleOf a with
  | some (g, n) => lo + (a - g) ≤ x && x + n ≤ len + (a - g)
  | none => true

/-- One byte of a copy (06_port.md R195): one that would merge into a granule with an uncorrectable error stops it
(04_memory_model.md R140; 06_port.md R199), and so does a request that times out. -/
def copyByte (w : Agent) (t : Token) (x : Nat) : Acc Unit := do
  let b ← loadElem w (t.src + word x) 1
  let dst := t.dst + word x
  let locs ← locate w .store dst 1
  lateAt w false locs dst 1
  fun s => match locs.find? (fun a => s.badAt a && !copyCovers a t.x x t.len.toNat) with
    | some a => .error ⟨eEcc, dst, word a⟩ s.countUe
    | none => .ok () (s.writeLocs w.fn dst (locs.zip (toBytes 1 b)))

/-- A transfer that stops inside a granule with an uncorrectable error, which it would have overwritten whole, has written none of
it: how many bytes it takes back, so that what lies below its position is in memory (06_port.md R196, R199; 04_memory_model.md
R140; log 67). -/
def State.unstore (s : State) : Nat × State :=
  match s.work with
  | none => (0, s)
  | some k => match k.stores.getLast?.bind (fun x => granuleOf x.2.1) with
    | none => (0, s)
    | some g =>
      let inside := k.stores.filter (fun x => granuleOf x.2.1 == some g)
      if inside.length < g.2 then
        (inside.length, { s with work := some { k with stores := k.stores.filter (fun x => granuleOf x.2.1 != some g) } })
      else (0, s)

/-- Bytes of a copy from offset `x`, at most `fuel` of them: where it stands and the fault that stopped it. -/
def copyBytes (w : Agent) (t : Token) : Nat → Nat → State → (Nat × Option Fail) × State
  | x, 0, s => ((x, none), s)
  | x, fuel + 1, s =>
    match copyByte w t x s with
    | .ok _ s => copyBytes w t (x + 1) fuel s
    | .error e s =>
      let (n, s) := s.unstore
      ((x - n, some e), s)

/-- An uncorrectable error that stops a transfer of the hart, in its data or in a table: the record, and the fencing of the owner of
the data that holds it (04_memory_model.md R140; 06_port.md R199). -/
def State.eccAt (s : State) (e : Fail) : State := s.eccRecord s.hart.fn e.gpa.toNat e.addr

/-- A copy moves as far as it can (06_port.md R195, R196, R199): to its end, or to the byte that faults. An uncorrectable
byte is recorded at once and its owner fenced (04_memory_model.md R140). -/
def State.copyRun (s : State) (k : BitVec 4) : State :=
  let h := s.hart
  let t := h.copy k
  if t.state != .busy then s
  else
    let ((x, err), s) := workingOn (copyBytes h.agent t t.x (t.len.toNat - t.x)) s
    match err with
    | none => s.setHart (s.hart.modCopy k fun t => { t with state := .done, x := x })
    | some e =>
      let s := s.setHart (s.hart.modCopy k fun t => { t with state := .fault, x := x, cause := e.code, addr := e.addr })
      if e.code = eEcc then s.eccAt e else s

end Sys2Proof.Machine
end

