-- ==== Sys2Proof/Machine/Link.lean ====
section
/-!
DEFINITION. The link engine: link tokens, transfers and collective steps (14_link.md R402 to R409).
-/

namespace Sys2Proof.Machine

/-- A link token of the hart (14_link.md R403). -/
def Hart.linkTok (h : Hart) (k : BitVec 3) : Token := h.links[k.toNat]'k.isLt

/-- Changing a link token. -/
def Hart.modLink (h : Hart) (k : BitVec 3) (f : Token → Token) : Hart :=
  { h with links := h.links.set k.toNat (f (h.linkTok k)) k.isLt }

/-- The element type of a control word (14_link.md R405). -/
def linkTy (c : Word) : Ty := bits c 32 4
/-- OP of a control word. -/
def linkOpc (c : Word) : Nat := bits c 38 2
/-- COUNT of a control word. -/
def linkCount (c : Word) : Nat := bits c 0 32

/-- The checks of a collective step at issue (14_link.md R405). -/
def linkOk (op : BitVec 4) (dst src c : Word) : Bool :=
  let t := linkTy c
  bits c 40 24 = 0 && bits c 36 2 = 0 && (if op = 2 then linkOpc c != 3 else linkOpc c = 0) &&
  t != 14 && t != 15 && (op != 2 || classI t || classF t) && dst.toNat % 8 = 0 && src.toNat % 8 = 0 &&
  linkCount c * (tyWidth t / 8) < 2 ^ 40

/-- The start of a link operation (14_link.md R403 to R405): `op` is its f4. -/
def linkStart (e : Entry) (op : BitVec 4) (k : BitVec 3) (dst src len : Word) : Run Unit :=
  if e.skipped then pure ()
  else if (if op = 0 ∨ op = 1 then 2 ^ 40 ≤ len.toNat else linkOk op dst src len = false) then operandTrap 9
  else do
    let h ← theHart
    waitUnless ((h.linkTok k).state != .busy)
    modHart fun h => h.modLink k fun _ =>
      { Token.reset with state := if len = 0 ∧ (op = 0 ∨ op = 1) then .done else .busy, dst := dst, src := src, len := len,
                         op := op, rm := BitVec.ofNat 3 (etRm e.et) }

/-- The locations of an element on the side of the link it belongs to; elsewhere it stops the operation, before the link is asked
whether it serves the address (14_link.md R404). -/
def sideLocs (w : Agent) (a : Access) (peer : Bool) (va : Word) (n : Nat) : Acc (List Nat) := do
  if !peer then
    match ← translate w a va with
    | .phys pa => if isPeer pa then throw ⟨eOperand, va, 0⟩
    | .tile => pure ()
  let locs ← locate w a va n
  if locs.all (fun l => if peer then isPeer l else !isPeer l && levelOf l != .host) then pure locs
  else throw ⟨eOperand, va, 0⟩

/-- Loading an element on one side; with `rw` its page also needs W (14_link.md R405). A request that times out or is refused
stops the operation (04_memory_model.md R141; 14_link.md R408). -/
def sideLoad (w : Agent) (peer rw : Bool) (va : Word) (n : Nat) : Acc Nat := do
  let locs ← sideLocs w .load peer va n
  if rw then do
    let _ ← locate w .probeStore va n
  lateAt w false locs va n
  let bs ← readLocs locs va
  pure (ofBytes bs)

/-- Storing an element on one side, at byte `off` of a destination that runs from `lo` to `len`; with `rw` its page also needs R (14_link.md R405).
One that would merge into a granule with an uncorrectable error stops the operation (04_memory_model.md R140). -/
def sideStore (w : Agent) (peer rw : Bool) (va : Word) (lo off len n x : Nat) : Acc Unit := do
  let locs ← sideLocs w .store peer va n
  if rw then do
    let _ ← locate w .load va n
  lateAt w false locs va n
  fun s => match locs.zipIdx.find? (fun (a, i) => s.badAt a && !copyCovers a lo (off + i) len) with
    | some (a, _) => .error ⟨eEcc, va, word a⟩ s.countUe
    | none => .ok () (s.writeLocs w.fn va (locs.zip (toBytes n x)))

/-- The element size and count of an operation: bytes of `lput` and `lget`, elements of a collective step. -/
def Token.unit (t : Token) : Nat × Nat :=
  if t.op = 0 ∨ t.op = 1 then (1, t.len.toNat) else (tyWidth (linkTy t.len) / 8, linkCount t.len)

/-- Whether the destination is the peer's (14_link.md R404, R405). -/
def Token.dstPeer (t : Token) : Bool := t.op = 0 || t.op = 4

/-- Element `x` of an operation and the flags it raises (14_link.md R404, R405). -/
def linkElem (w : Agent) (t : Token) (x : Nat) : Acc Fl := do
  let n := t.unit.1
  let step := t.op != 0 && t.op != 1
  let len := t.unit.2 * n
  let a ← sideLoad w (!t.dstPeer) (step && !t.dstPeer) (t.src + word (x * n)) n
  let dst := t.dst + word (x * n)
  if t.op = 2 then do
    let old ← sideLoad w false false dst n
    let op : RedOp := if linkOpc t.len = 1 then .min else if linkOpc t.len = 2 then .max else .sum
    let (r, fl) := redStep op (linkTy t.len) (rmOf t.rm.toNat) old a
    sideStore w false false dst (t.x * n) (x * n) len n r
    pure fl
  else do
    sideStore w t.dstPeer (step && t.dstPeer) dst (t.x * n) (x * n) len n a
    pure 0

/-- The flag of a collective step (14_link.md R405): an RMW at the peer. -/
def linkFlag (w : Agent) (t : Token) : Acc Unit :=
  if t.op = 0 ∨ t.op = 1 then pure ()
  else do
    let f := (if t.dstPeer then t.dst else t.src) - 8
    let _ ← sideLocs w .atomic true f 8
    let _ ← rmwElem w f 8 (fun old => some ((old + 1) % 2 ^ 64))
    pure ()

/-- Elements of an operation from `x` on, at most `fuel`, then its flag. -/
def linkElems (w : Agent) (t : Token) : Nat → Nat → State → (Nat × Option Fail) × State
  | x, 0, s => match tryAcc (linkFlag w t) s with
    | (.ok _, s) => ((x, none), s)
    | (.error e, s) => ((x, some e), s)
  | x, fuel + 1, s =>
    match linkElem w t x s with
    | .ok fl s => linkElems w t (x + 1) fuel (s.setHart (s.hart.flag fl))
    | .error e s =>
      let (n, s) := s.unstore
      ((x - n / t.unit.1, some e), s)

/-- A link operation moves as far as it can (14_link.md R403 to R405, R408). -/
def State.linkRun (s : State) (k : BitVec 3) : State :=
  let h := s.hart
  let t := h.linkTok k
  if t.state != .busy then s
  else
    let ((x, err), s) := workingOn (linkElems h.agent t t.x (t.unit.2 - t.x)) s
    match err with
    | none => s.setHart (s.hart.modLink k fun t => { t with state := .done, x := x })
    | some e =>
      let s := s.setHart (s.hart.modLink k fun t => { t with state := .fault, x := x, cause := e.code, addr := e.addr })
      if e.code = eEcc then s.eccAt e else s

/-- `lwait` (14_link.md R406): as `cwait` (06_port.md R197). -/
def linkWait (e : Entry) (k : BitVec 3) : Run Unit :=
  if 1 ≤ e.prog.toNat then pure ()
  else do
    let h ← theHart
    let tk := h.linkTok k
    match tk.state with
    | .done => pure ()
    | .busy => do
      modHart fun h => { h with piq := modHead (fun e => { e with aux := withBit e.aux 0 false }) h.piq }
      throw .wait
    | .fault =>
      if e.aux.getLsbD 0 then do
        modHart fun h => { (h.modLink k fun t => { t with state := .busy }) with
          piq := modHead (fun e => { e with aux := withBit e.aux 0 false }) h.piq }
        throw .wait
      else do
        modHart fun h => { h with piq := modHead (fun e => { e with aux := withBit e.aux 0 true }) h.piq }
        heldTrap 9 tk.cause tk.addr 0

/-- `ltest` (14_link.md R406). -/
def linkTest (e : Entry) (k : BitVec 3) : Run Unit := do
  let h ← theHart
  pushBq 2 (!e.skipped && (h.linkTok k).state != .busy)

/-- `lfence` (14_link.md R406). -/
def linkFence (e : Entry) : Run Unit := do
  let h ← theHart
  waitUnless (e.skipped || h.links.all (fun t => t.state != .busy))

end Sys2Proof.Machine
end

