-- ==== Sys2Proof/Machine/Fabric.lean ====
section
/-!
DEFINITION. The instructions of the gather fabric: configuration, indexed access, vector atomics and accumulation
windows (08_gather_fabric.md R242 to R257).
-/

namespace Sys2Proof.Machine

/-! ### Configuration -/

/-- The nodes of a mask, ascending. -/
def maskNodes (nodes : BitVec 8) : List Nat := (List.range 8).filter (fun n => nodes.getLsbD n)

/-- Whether a configured node of the core occupies physical node `p` (08_gather_fabric.md R232). -/
def State.physBusy (s : State) (core p : Nat) : Bool :=
  (List.range 4).any fun k => match s.harts[4 * core + k]? with
    | some h => h.run != .absent && h.fnodes.any (fun n => n.state != .idle && n.phys.toNat = p)
    | none => false

/-- The physical nodes of the core that are free. -/
def State.physFree (s : State) (core : Nat) : List Nat := (List.range 8).filter (fun p => !s.physBusy core p)

/-- The states in which an `fdrain` finds a node at rest (08_gather_fabric.md R245). -/
def NodeState.drained : NodeState → Bool
  | .idle | .loaded | .stopped | .done => true
  | .running => false

/-- The states in which an `fload` may replace a node: a LOADED node is waited for (08_gather_fabric.md R243; log 42). -/
def NodeState.replaceable : NodeState → Bool
  | .idle | .stopped | .done => true
  | .loaded | .running => false

/-- Whether named nodes have come to rest: each is in such a state and no token is on the links of their routers. -/
def Hart.atRest (h : Hart) (p : NodeState → Bool) (ns : List Nat) : Bool :=
  ns.all (fun n => p (h.fnode n).state) && h.ftokens.all (fun t => !ns.contains t.router.toNat)

/-- Waiting until named nodes have come to rest, or until nothing more can move (04_memory_model.md R132;
08_gather_fabric.md R243, R245, R261). -/
def fabricRest (p : NodeState → Bool) (ns : List Nat) : Run Unit := fun s =>
  let s := s.fabricUntil (·.atRest p ns) fabricFuel
  if s.hart.atRest p ns then .ok () s
  else if ns.any (fun n => !p (s.hart.fnode n).state) then .error .wait s
  else match s.fabricRound with
    | (true, s') => .error .wait s'
    | (false, _) => .ok () s

/-- Dropping what is left on the links of named nodes when they are replaced or released. -/
def Hart.dropLinks (h : Hart) (ns : List Nat) : Hart :=
  { h with ftokens := h.ftokens.filter (fun t => !ns.contains t.router.toNat) }

/-- Making node `n` LOADED with a block, and binding the stream it feeds (08_gather_fabric.md R243). -/
def Hart.loadNode (h : Hart) (n phys : Nat) (b : Vector Word 9) : Hart :=
  let h := h.modNode n fun _ =>
    { FabricNode.reset with state := .loaded, block := b, phys := BitVec.ofNat 3 phys, grows := blockFollow b }
  if blockOut b then h
  else { h with streams := modAt h.streams (blockT b) fun _ =>
           { Stream.reset with kind := .fabric, desc := #v[0, word (blockTy b), 0, 0, 0], len := blockOuts b,
                               node := BitVec.ofNat 3 n } }

/-- A configuration instruction: an empty mask fails at issue (08_gather_fabric.md R242). -/
def fabricOp (e : Entry) (nodes : BitVec 8) (body : Run Unit) : Run Unit :=
  if e.skipped then pure () else if nodes = 0 then operandTrap 3 else body

/-- The streams that blocks deliver to. -/
def blockStreams (bs : List (Vector Word 9)) : List Nat := (bs.filter (fun b => !blockOut b)).map blockT

/-- The stream register of an instruction of the port engine. -/
def streamOf (i : Instr) : Option (BitVec 4) :=
  match i with
  | .tbindl t _ | .tbinds t _ | .tfree t | .tflush t | .tget _ t _ | .tsend _ t _ => some t
  | _ => none

/-- The blocks of an `fload`, each read once and kept with the entry (08_gather_fabric.md R243). -/
def fabricBlocks (e : Entry) (a : Word) (n : Nat) : Run (List (Vector Word 9)) :=
  if !e.blocks.isEmpty then pure e.blocks
  else do
    let h ← theHart
    let bs ← (List.range n).mapM fun i => acc 3 0 (readBlock h.agent (a + word (72 * i)))
    modHart fun h => { h with viq := modHead (fun e => { e with blocks := bs }) h.viq }
    pure bs

/-- `fload` (08_gather_fabric.md R243): it waits for the earlier entries of the PIQ on the streams that its blocks name
(01_engines.md R15). -/
def fabricLoad (e : Entry) (nodes : BitVec 8) (a : Word) : Run Unit :=
  fabricOp e nodes do
    let ns := maskNodes nodes
    if a.toNat % 8 ≠ 0 then trapAt 3 eAlign (some a) 0
    else do
      let bs ← fabricBlocks e a ns.length
      if bs.any (fun b => !blockOk b none) then do
        modHart fun h => { h with viq := modHead (fun e => { e with blocks := [] }) h.viq }
        operandTrap 3
      else do
        let blocks := ns.zip bs
        let h ← theHart
        waitUnless (h.piq.all (fun f => e.seq < f.seq || (match streamOf f.instr with
          | some t => !(blockStreams bs).contains t.toNat
          | none => true)))
        fabricRest (·.replaceable) ns
        let h ← theHart
        let s ← get
        let fresh := ns.filter (fun n => (h.fnode n).state = .idle)
        let free := s.physFree h.core
        waitUnless (fresh.length + 2 ≤ free.length)
        modHart fun h => blocks.foldl (fun h (n, b) =>
          let phys := match fresh.findIdx? (· == n) with
            | some i => (free[i]?).getD 0
            | none => (h.fnode n).phys.toNat
          h.loadNode n phys b) (h.dropLinks ns)

/-- `fstart` (08_gather_fabric.md R236, R244). A STOPPED node that goes on has its watchdog bit cleared (DESIGN CHOICE, log 69). -/
def fabricStart (e : Entry) (nodes : BitVec 8) : Run Unit :=
  fabricOp e nodes do
    let h ← theHart
    let ns := maskNodes nodes
    if ns.any (fun n => (h.fnode n).state = .idle ∨ (h.fnode n).state = .done) ∨ !h.graphOk then operandTrap 3
    else modHart fun h => ns.foldl (fun h n => h.modNode n fun m =>
      match m.state with
      | .loaded => if blockStart m.block then m else { m with state := .running }
      | .stopped => { m with state := .running, watchdog := false }
      | .idle | .running | .done => m) h

/-- `fstop` (08_gather_fabric.md R244). -/
def fabricStop (e : Entry) (nodes : BitVec 8) : Run Unit :=
  fabricOp e nodes (modHart fun h => (maskNodes nodes).foldl (fun h n => h.modNode n fun m =>
    if m.state = .running then { m with state := .stopped } else m) h)

/-- `fdrain` (08_gather_fabric.md R245): the release comes before a follow-on fault that is owed. Of several that are owed, that of
the lowest node is raised, and the others are lost with their nodes (DESIGN CHOICE, log 69). -/
def fabricDrain (e : Entry) (nodes : BitVec 8) : Run Unit :=
  fabricOp e nodes do
    let ns := maskNodes nodes
    fabricRest (·.drained) ns
    let h ← theHart
    let owed := ns.findSome? (fun n => (h.fnode n).owed)
    modHart fun h =>
      let h := ns.foldl (fun h n => h.modNode n fun _ => .reset) (h.dropLinks ns)
      { h with streams := h.streams.map (fun t => if t.kind = .fabric ∧ ns.contains t.node.toNat then .reset else t) }
    match owed with
    | none => pure ()
    | some (code, addr) => heldTrap 3 code addr 0

/-- The status word (08_gather_fabric.md R246). -/
def Hart.fabricStatus (h : Hart) (nodes : BitVec 8) : Word :=
  (maskNodes nodes).foldl (fun w n =>
    w + word ((h.fnode n).state.code * 2 ^ (3 * n) + (h.fnode n).watchdog.toNat * 2 ^ (24 + n))) (word (h.bell.toNat * 2 ^ 32))

/-- `fstat` (08_gather_fabric.md R246); an entry that a written ei has completed gives 0. -/
def fabricStat (e : Entry) (nodes : BitVec 8) : Run Unit :=
  if e.skipped then pushSrq 1 0
  else if nodes = 0 then operandTrap 3
  else do
    let h ← theHart
    pushSrq 1 (h.fabricStatus nodes)

/-! ### Indexed access -/

/-- A fabric access entry: a trap at element `k` leaves CMASK there, and completion leaves 0 (08_gather_fabric.md
R251). -/
def fabricAccess (body : Run Unit) : Run Unit := fun s =>
  match body s with
  | .ok _ s => .ok () (s.setHart { s.hart with cmask := 0 })
  | .error (.trap code src addr gpa ei) s => .error (.trap code src addr gpa ei) (s.setHart { s.hart with cmask := cmaskWord ei })
  | .error .wait s => .error .wait s

/-- A window descriptor: BASE and LEN (08_gather_fabric.md R247). An entry that restarts after a trap reads it again (DESIGN CHOICE,
log 69). -/
def readWindowDesc (a : Word) : Run (Word × Nat) := do
  if a.toNat % 8 ≠ 0 then trapAt 3 eAlign (some a) 0
  else do
    let h ← theHart
    let d ← acc 3 0 (loadDws h.agent a 2)
    let len := (d[1]?).getD 0
    if bits len 32 32 ≠ 0 then operandTrap 3 else pure ((d[0]?).getD 0, bits len 0 32)

/-- An index as a natural. -/
def natIndex (h : Hart) (w vi i : Nat) : Nat := h.velem w vi i

/-- The checks of a fabric access at issue (08_gather_fabric.md R247; 07_lane.md R203). -/
def fabricOk (et : Word) (v vi m vl : Nat) (dst : Bool) : Bool :=
  let g := etGroup et
  etSew et != 4 && groupOk v g && groupOk vi g && spanOk m vl && (!dst || sameOrApart v g vi g)

/-- The check step of a store or RMW: whether its read meets an error (08_gather_fabric.md R249). -/
def checkRead (w : Agent) (a : Access) (va : Word) (n : Nat) : Acc Unit := do
  let locs ← locate w a va n
  if a = .probeAtomic ∧ locs.any (fun l => levelOf l = .host) then throw ⟨eAtomic, va, 0⟩
  else do
    lateAt w false locs va n
    let _ ← readLocs locs va
    pure ()

/-- Probe and check of the active elements from `ei` on: the first that fails (08_gather_fabric.md R249). -/
def fabricProbe (f g : Nat → Acc Unit) (ei : Nat) (mask : List Bool) : Run (Option (Nat × Fail)) := do
  let p ← probeUntil f ei (mask.drop ei)
  let c ← probeUntil g ei ((mask.take ((p.map (·.1)).getD mask.length)).drop ei)
  pure (c.or p)

/-- A load of the fabric (08_gather_fabric.md R247, R249): `addr` gives an element's address, or none where it reads
as 0 without an access. -/
def fabricLoadRow (e : Entry) (v vi m : Nat) (base : Run (Hart → Nat → Option Word)) : Run Unit :=
  fabricAccess (checked 3 e (fabricOk e.et v vi m e.n true) do
    if e.skipped then pure ()
    else do
      let f ← base
      let h ← theHart
      let w := etSew e.et
      let g := etGroup e.et
      let ei := e.prog.toNat
      let mask := h.mbits m e.n
      let old := h.velems w v e.n
      let probe ← probeUntil (fun i => match f h i with
        | some a => probeAt h.agent .load w a
        | none => pure ()) ei (mask.drop ei)
      let stop := (probe.map (·.1)).getD e.n
      let (xs, fail) ← rowUntil (fun i _ => match f h i with
        | some a => loadAt h.agent w a i
        | none => pure 0) (etMp e.et) ei (((mask.zip old).take stop).drop ei)
      let row := old.take ei ++ xs
      match fail.or probe with
      | none => modHart fun h => h.setVelems w v g (withTail (etTp e.et) w g row)
      | some (k, err) => do
        modHart fun h => h.setVelems w v g row
        failTrap 3 k err)

/-- `fgather`. -/
def fabricGather (e : Entry) (v vi m : Nat) (base : Word) : Run Unit :=
  fabricLoadRow e v vi m (pure fun h i => some (indexAddr h (etSew e.et) vi base i))

/-- `fwgather`. -/
def fabricWgather (e : Entry) (v vi m : Nat) (a : Word) : Run Unit :=
  fabricLoadRow e v vi m do
    let (base, len) ← readWindowDesc a
    pure fun h i =>
      let x := natIndex h (etSew e.et) vi i
      if x < len then some (base + word (x * (etSew e.et / 8))) else none

/-- `fscatter` (08_gather_fabric.md R247, R249, R250). -/
def fabricScatter (e : Entry) (v vi m : Nat) (base : Word) : Run Unit :=
  fabricAccess (checked 3 e (fabricOk e.et v vi m e.n false) do
    let h ← theHart
    let w := etSew e.et
    let ei := e.prog.toNat
    let mask := h.mbits m e.n
    let addr := indexAddr h w vi base
    let probe ← fabricProbe (fun i => probeAt h.agent .probeStore w (addr i))
      (fun i => checkRead h.agent .probeStore (addr i) (w / 8)) ei mask
    let stop := (probe.map (·.1)).getD e.n
    let (_, fail) ← rowUntil (fun i x => do storeAt h.agent w (addr i) i x; pure 0) false ei
      (((mask.zip (h.velems w v e.n)).take stop).drop ei)
    match fail.or probe with
    | none => pure ()
    | some (k, err) => failTrap 3 k err)

/-! ### Vector atomics -/

/-- Folding the elements of one address of a group, lowest first (08_gather_fabric.md R252). -/
def preCombine (f : Nat → Nat → Nat × Fl) : List Nat → Nat × Fl
  | [] => (0, 0)
  | x :: xs => xs.foldl (fun (v, fl) y => let (r, fl') := f v y; (r, fl ||| fl')) (x, 0)

/-- The released elements of one group, address and value, combined by address, each address once. -/
def groupUpdates (f : Nat → Nat → Nat × Fl) (xs : List (Word × Nat)) : List (Word × Nat × Fl) :=
  (xs.map (·.1)).dedup.map (fun a => (a, preCombine f ((xs.filter (·.1 == a)).map (·.2))))

/-- One RMW of a vector atomic and its flags. -/
def vectorRmw (w : Agent) (sz : Nat) (f : Nat → Nat → Nat × Fl) (a : Word) (v : Nat) : Acc Fl := do
  let old ← rmwElem w a sz (fun old => some (f old v).1)
  pure (f old v).2

/-- `vamoadd`, `vamomin` and `vamomax` (08_gather_fabric.md R252). -/
def fabricAmo (e : Entry) (op : RedOp) (v vi m : Nat) (a : Word) : Run Unit :=
  fabricAccess (checked 3 e (fabricOk e.et v vi m e.n false && (classI (etTy e.et) || classF (etTy e.et))) do
    if e.skipped then pure ()
    else do
      let (base, len) ← readWindowDesc a
      let h ← theHart
      let t := etTy e.et
      let w := etSew e.et
      let ei := e.prog.toNat
      let mask := h.mbits m e.n
      let addr (i : Nat) : Word := base + word (natIndex h w vi i * (w / 8))
      let f := redStep op t (rmOf (etRm e.et))
      let probe ← fabricProbe
        (fun i => if len ≤ natIndex h w vi i then throw ⟨eOperand, h.faddr, 0⟩ else do
          probeAt h.agent .probeAtomic w (addr i)
          let locs ← locate h.agent .probeAtomic (addr i) (w / 8)
          if locs.any (fun l => levelOf l = .host) then throw ⟨eAtomic, addr i, 0⟩ else pure ())
        (fun i => checkRead h.agent .probeAtomic (addr i) (w / 8)) ei mask
      let stop := (probe.map (·.1)).getD e.n
      let xs := (((mask.zip (h.velems w v e.n)).zipIdx.take stop).drop ei).filterMap
        (fun ((b, x), i) => if b then some (i / 8, addr i, x) else none)
      ((xs.map (·.1)).dedup).forM fun g =>
        (groupUpdates f ((xs.filter (·.1 == g)).map (·.2))).forM fun (a, x, fl) => do
          let fl' ← acc 3 stop (vectorRmw h.agent (w / 8) f a x)
          modHart fun h => h.flag (fl ||| fl')
      match probe with
      | none => pure ()
      | some (k, err) => failTrap 3 k err)

/-- `fas` (08_gather_fabric.md R254). -/
def fabricFas (e : Entry) (v vi m : Nat) (a : Word) : Run Unit :=
  let t := etTy e.et
  let w := etSew e.et
  let g := etGroup e.et
  fabricAccess (checked 3 e (classI t && 32 ≤ w && groupOk v g && groupOk vi g && spanOk m e.n && !overlaps v g vi g) do
    if e.skipped then pure ()
    else if a.toNat % (w / 8) ≠ 0 then trapAt 3 eAlign (some a) 0
    else do
      let h ← theHart
      let mask := h.mbits m e.n
      let xs := h.velems w vi e.n
      let total := ((xs.zip mask).map (fun (x, b) => if b then x else 0)).sum
      let old ← acc 3 0 (rmwElem h.agent a (w / 8) (fun old => some ((old + total) % 2 ^ w)))
      let (ys, _, _) := scanList (fun p x => ((p + x) % 2 ^ w, 0)) false old (xs.zip mask)
      let out := ((h.velems w v e.n).zip ys).map (fun (c, y) => y.getD (if etMp e.et then 0 else c))
      modHart fun h => h.setVelems w v g (withTail (etTp e.et) w g out))

/-! ### Accumulation windows -/

/-- A window of the hart. -/
def Hart.window (h : Hart) (k : BitVec 3) : Window := h.windows[k.toNat]'k.isLt

/-- Changing a window. -/
def Hart.modWindow (h : Hart) (k : BitVec 3) (f : Window → Window) : Hart :=
  { h with windows := h.windows.set k.toNat (f (h.window k)) k.isLt }

/-- `awopen` (08_gather_fabric.md R255). -/
def windowOpen (e : Entry) (k : BitVec 3) (a n : Word) : Run Unit :=
  if e.skipped then pure ()
  else do
    let h ← theHart
    let t := etTy e.et
    let esz := etSew e.et / 8
    let inUse := (h.windows.toList.filter (·.isOpen)).foldl (fun n w => n + w.bytes) 0
    if (h.window k).isOpen || !(classI t || classF t) || !(esz = 4 || esz = 8) || n = 0 || 16384 < n.toNat ||
        n.toNat % esz != 0 || a.toNat % esz != 0 || 16384 < inUse + n.toNat then operandTrap 3
    else modHart fun h => h.modWindow k fun _ => ⟨true, a, n.toNat, BitVec.ofNat 4 t, 0, []⟩

/-- The code of an update's op (13_context.md R380). -/
def windowCode : RedOp → BitVec 2
  | .sum => 1
  | .min => 2
  | .max => 3
  | .and | .or | .xor => 0

/-- The operation of a code. -/
def windowOp (c : BitVec 2) : RedOp := if c = 2 then .min else if c = 3 then .max else .sum

/-- One update of a copy (08_gather_fabric.md R256). -/
def Window.update (w : Window) (f : Nat → Nat → Nat × Fl) (key x : Nat) : Window × Fl :=
  match w.copies.lookup key with
  | none => ({ w with copies := (key, word x) :: w.copies }, 0)
  | some old =>
    let (r, fl) := f old.toNat x
    ({ w with copies := (key, word r) :: w.copies.filter (fun c => c.1 != key) }, fl)

/-- `awadd`, `awmin` and `awmax` (08_gather_fabric.md R256). -/
def windowUpdate (e : Entry) (op : RedOp) (k : BitVec 3) (v vi m : Nat) : Run Unit :=
  fabricAccess (do
    let h ← theHart
    let win := h.window k
    let t := etTy e.et
    let w := etSew e.et
    checked 3 e (fabricOk e.et v vi m e.n false && win.isOpen && win.typ.toNat == t &&
        (win.op == 0 || win.op == windowCode op)) do
      if e.skipped then pure ()
      else do
        let ei := e.prog.toNat
        let mask := h.mbits m e.n
        let f := redStep op t (rmOf (etRm e.et))
        let bad := (List.range e.n).find? (fun i => ei ≤ i && (mask[i]?).getD false && win.words ≤ natIndex h w vi i)
        let xs := (((mask.zip (h.velems w v e.n)).zipIdx.take (bad.getD e.n)).drop ei)
        let (win', fl) := xs.foldl (fun (win, fl) ((b, x), i) =>
          if b then let (win, fl') := win.update f (4096 * (i % 16) + natIndex h w vi i) x; (win, fl ||| fl')
          else (win, fl)) (win, (0 : Fl))
        modHart fun h => (h.modWindow k fun _ => { win' with op := windowCode op }).flag fl
        match bad with
        | none => pure ()
        | some i => trapAt 3 eOperand none i)

/-- The folds of word `x`: each present copy in ascending order, one RMW each (08_gather_fabric.md R257). -/
def foldWord (e : Entry) (k : BitVec 3) (x : Nat) : Run Unit := do
  let h ← theHart
  let win := h.window k
  let a := win.base + word (x * win.esz)
  let present := (List.range 16).filter (fun c => (win.copies.lookup (4096 * c + x)).isSome)
  if present.isEmpty then pure ()
  else do
    let f := redStep (windowOp win.op) win.typ.toNat (rmOf (etRm e.et))
    acc 3 x (checkRead h.agent .probeAtomic a win.esz)
    present.forM fun c => do
      let fl ← acc 3 x (vectorRmw h.agent win.esz f a ((win.copies.lookup (4096 * c + x)).getD 0).toNat)
      modHart fun h => (h.modWindow k fun w =>
        { w with copies := w.copies.filter (fun p => p.1 != 4096 * c + x) }).flag fl

/-- `accmerge` (08_gather_fabric.md R257). -/
def windowMerge (e : Entry) (k : BitVec 3) : Run Unit := do
  let h ← theHart
  let win := h.window k
  if !win.isOpen then pure ()
  else do
    ((List.range win.words).drop e.prog.toNat).forM fun x => foldWord e k x
    modHart fun h => h.modWindow k fun _ => .reset

/-- `awdiscard` (08_gather_fabric.md R257). -/
def windowDiscard (e : Entry) (k : BitVec 3) : Run Unit :=
  if e.skipped then pure () else modHart fun h => h.modWindow k fun _ => .reset

end Sys2Proof.Machine
end

