-- ==== Sys2Proof/Machine/Matrix.lean ====
section
/-!
DEFINITION. The matrix engine: tile-shape grants, operands dense and sparse, multiplies, transfers, the skip mask,
prune and pack, and operand nodes (10_matrix.md R293 to R318; 03_arithmetic.md R99, R100).
-/

namespace Sys2Proof.Machine

/-! ### Accumulators -/

/-- The 1,024 elements of an accumulator, row by row (10_matrix.md R293). -/
def Hart.tile (h : Hart) (c : BitVec 4) : List Nat :=
  let x := (h.c[c.toNat]'c.isLt).toNat
  (List.range 1024).map (fun i => x / 2 ^ (32 * i) % 2 ^ 32)

/-- Writing an accumulator, which becomes live (13_context.md R381). -/
def Hart.setTile (h : Hart) (c : BitVec 4) (xs : List Nat) : Hart :=
  { h with c := h.c.set c.toNat (BitVec.ofNat 32768 (packElems 32 xs)) c.isLt,
           cLive := h.cLive ||| BitVec.twoPow 16 c.toNat }

/-! ### Units -/

/-- Whether the hart holds unit `u` (10_matrix.md R300). -/
def heldUnits (w : BitVec 3) : List Nat := (List.range 3).filter (fun u => w.getLsbD u)

/-- A mask of units. -/
def unitMask (us : List Nat) : BitVec 3 := us.foldl (fun w u => w ||| BitVec.twoPow 3 u) 0

/-- The units of the core that no hart holds. -/
def State.freeUnits (s : State) (core : Nat) : List Nat :=
  (List.range 3).filter (fun u => (List.range 4).all (fun k => match s.harts[4 * core + k]? with
    | some h => h.run = .absent || !h.units.getLsbD u
    | none => true))

/-- Noting a request; a new one makes the arbiter compute anew (10_matrix.md R300). -/
def State.requestUnits (s : State) (r : BitVec 2) : State :=
  if s.hart.mreq = r then s else (s.setHart { s.hart with mreq := r }).arbitrateUnits (s.cur.val / 4)

/-- The matrix stages among some slots of a block: those of majors 56 and 57 (02_encoding.md R65, R67). -/
def matrixSlots (ws : List (BitVec 32)) (cur : List Nat) : List Nat :=
  cur.filter (fun i => let maj := bits (((ws[1 + i]?).getD 0).setWidth 64) 8 6; maj = 56 || maj = 57)

/-- The units that the stages of a standing run occupy: in a convoy of c matrix stages each takes ⌊U / c⌋ of the units that the
hart held when the run formed, from the lowest on (10_matrix.md R320). -/
def Chain.unitsUsed (ch : Chain) : List Nat :=
  let own := heldUnits ch.units
  let u := own.length
  own.take ((ch.plan.map (fun (_, cur) => let c := (matrixSlots ch.words cur).length; if c = 0 then 0 else c * (u / c))).foldl max 0)

/-- The hart with other units: a standing run that loses one which a stage occupies breaks with cause 3 (10_matrix.md R320). -/
def Hart.setUnits (h : Hart) (us : List Nat) : Hart :=
  let h := if h.chain.unitsUsed.any (fun u => !us.contains u) then h.breakChain 3 0 else h
  { h with units := unitMask us }

/-- The units that a hart with a target takes up: it keeps its lowest ones, and takes the lowest free ones (10_matrix.md R300);
none while it holds no unit and finds none, or its target is 0. -/
def State.unitsFor (s : State) : Option (List Nat) :=
  let h := s.hart
  let own := heldUnits h.units
  let free := s.freeUnits (s.cur.val / 4)
  let target := h.unitTarget.toNat
  if 1 ≤ target && (!own.isEmpty || !free.isEmpty) then
    some (if target ≤ own.length then own.take target else own ++ free.take (target - own.length))
  else none

/-- A restore's request is applied once the hart's target and the free units let it be (10_matrix.md R322). -/
def State.unitsApply (s : State) : State :=
  if s.hart.unitsDue then
    match s.unitsFor with
    | some us => s.setHart { s.hart.setUnits us with unitsDue := false }
    | none => s
  else s

/-- Moving towards the target, if the hart holds a unit or finds one (10_matrix.md R300). -/
def moveUnits : Run Unit := do
  let s ← get
  match s.unitsFor with
  | some us => modHart (·.setUnits us)
  | none => throw .wait

/-- `mshape` (10_matrix.md R300); an entry that a written ei has completed gives 0. -/
def matrixShape (e : Entry) (a : Word) : Run Unit :=
  if e.skipped then pushSrq 3 0
  else do
    let r := BitVec.ofNat 2 (min a.toNat 3)
    fun s => .ok () (s.requestUnits r)
    modHart fun h => { h with unitsDue := false }
    if r = 0 then do
      modHart (·.setUnits [])
      pushSrq 3 0
    else do
      moveUnits
      let h ← theHart
      pushSrq 3 (word (heldUnits h.units).length)

/-- A matrix instruction while U = 0 (10_matrix.md R301, R320). -/
def haveUnit : Run Unit := do
  let h ← theHart
  if h.units = 0 then trapAt 5 eLease none 0 else pure ()

/-- An entry, or an element of a run, that needs a unit (10_matrix.md R301): after a restore it waits until the saved request
is applied (10_matrix.md R322). -/
def needUnit : Run Unit := do
  fun s => .ok () s.unitsApply
  let h ← theHart
  if h.units = 0 && h.unitsDue then throw .wait else haveUnit

/-! ### Operand nodes -/

/-- An operand node of the hart. -/
def Hart.onode (h : Hart) (n : BitVec 4) : OperandNode := h.onodes[n.toNat]'n.isLt

/-- Changing an operand node. -/
def Hart.modOnode (h : Hart) (n : BitVec 4) (f : OperandNode → OperandNode) : Hart :=
  { h with onodes := h.onodes.set n.toNat (f (h.onode n)) n.isLt }

/-- DIMS. -/
def nodeDims (d : Vector Word 8) : Nat := bits d[2] 36 2
/-- The depth D. -/
def nodeDepth (d : Vector Word 8) : Nat := bits d[2] 32 2 + 1
/-- TBYTES. -/
def nodeBytes (d : Vector Word 8) : Nat := bits d[2] 0 32
/-- COUNT of dimension `i`, 1 above DIMS (10_matrix.md R313). -/
def nodeCount (d : Vector Word 8) (i : Nat) : Nat :=
  if nodeDims d < i then 1 else bits ((d[3 + i / 2]?).getD 0) (32 * (i % 2)) 32
/-- The tiles T of a walk. -/
def nodeTiles (d : Vector Word 8) : Nat := nodeCount d 0 * nodeCount d 1 * nodeCount d 2
/-- The three counter values of tile `t`. -/
def nodeCounters (d : Vector Word 8) (t : Nat) : Nat × Nat × Nat :=
  (t % nodeCount d 0, t / nodeCount d 0 % nodeCount d 1, t / (nodeCount d 0 * nodeCount d 1))
/-- The address of tile `t` (10_matrix.md R313). -/
def nodeTileAddr (d : Vector Word 8) (t : Nat) : Word :=
  let (i, j, k) := nodeCounters d t
  d[0] + word i * d[5] + word j * d[6] + word k * d[7]
/-- The address of a buffer. -/
def nodeBufAddr (d : Vector Word 8) (b : Nat) : Word := d[1] + word (b * nodeBytes d)

/-- The checks on a descriptor (10_matrix.md R313). -/
def nodeOk (d : Vector Word 8) : Bool :=
  d[0].toNat % 32 = 0 && d[1].toNat % 32 = 0 && bits d[2] 38 26 = 0 && bits d[2] 34 2 = 0 && nodeDims d != 3 &&
  nodeBytes d % 32 = 0 && 32 ≤ nodeBytes d && nodeBytes d ≤ 2 ^ 20 && bits d[4] 32 32 = 0 &&
  (List.range 3).all (fun i =>
    let count := bits ((d[3 + i / 2]?).getD 0) (32 * (i % 2)) 32
    let stride := (d[5 + i]?).getD 0
    if nodeDims d < i then count = 0 && stride = 0 else count != 0 && stride.toNat % 32 = 0) &&
  nodeTiles d < 2 ^ 32

/-- All buffers lie within one `.tile` region of the launch (10_matrix.md R313). -/
def State.bufsHomed (s : State) (w : Agent) (d : Vector Word 8) : Bool :=
  (s.regionsOf w).any (fun r => r.base.toNat ≤ d[1].toNat && d[1].toNat + nodeDepth d * nodeBytes d ≤ r.base.toNat + r.bytes)

/-- `mnode` (10_matrix.md R314). The reconfiguration token is a full fence at core scope: the earlier entries of the other two
queues have finished (04_memory_model.md R132). -/
def nodeConfig (e : Entry) (n : BitVec 4) (a : Word) : Run Unit :=
  if e.skipped then pure ()
  else do
    let h ← theHart
    waitUnless ((h.onode n).state != .running && (h.onode n).state != .held && (h.viq ++ h.piq).all (fun f => e.seq < f.seq))
    if a.toNat % 8 ≠ 0 then trapAt 5 eAlign (some a) 0
    else do
      let xs ← acc 5 0 (loadDws h.agent a 8)
      let d : Vector Word 8 := Vector.ofFn (fun i => (xs[i.val]?).getD 0)
      let s ← get
      if !nodeOk d || !s.bufsHomed h.agent d then operandTrap 5
      else modHart fun h => h.modOnode n fun _ => ⟨.armed, d, 0, 0, 0, none, none⟩

/-- `mfill` (10_matrix.md R314). -/
def nodeFill (e : Entry) (n : BitVec 4) : Run Unit :=
  if e.skipped then pure ()
  else do
    let h ← theHart
    match (h.onode n).state with
    | .idle => operandTrap 5
    | .armed => modHart fun h => h.modOnode n fun o => { o with state := .running }
    | .running | .held | .done => pure ()

/-- `mwait` (10_matrix.md R314). -/
def nodeWait (e : Entry) (n : BitVec 4) : Run Unit :=
  if e.skipped then pure ()
  else do
    let h ← theHart
    match (h.onode n).state with
    | .idle => pure ()
    | .armed => operandTrap 5
    | .running | .held => throw .wait
    | .done => modHart fun h => h.modOnode n fun _ => .reset

/-- The code of an operand node's state (10_matrix.md R318). -/
def operandCode : OperandState → Nat
  | .idle => 0
  | .armed => 1
  | .running => 2
  | .held => 3
  | .done => 4

/-- `mstat` (10_matrix.md R318). -/
def nodeStat (e : Entry) (n : BitVec 4) : Run Unit := do
  let h ← theHart
  let o := h.onode n
  pushSrq 3 (if e.skipped then 0
    else word ((heldUnits h.units).length * 2 ^ 62 + operandCode o.state * 2 ^ 59 + o.full.toNat * 2 ^ 55 +
      h.skipV.toNat * 2 ^ 32 + (if o.state = .idle then 0 else o.used)))

/-- Setting the oldest full buffer of a node empty; the node is DONE after its last tile (10_matrix.md R314, R315). -/
def OperandNode.release (o : OperandNode) : OperandNode :=
  let b := o.used % nodeDepth o.desc
  if !o.full.getLsbD b then o
  else { o with full := o.full &&& ~~~ BitVec.twoPow 4 b, used := o.used + 1,
                state := if o.used + 1 = nodeTiles o.desc then .done else o.state }

/-! ### Operands of a multiply -/

/-- The classes of R294: 0 8-bit integer, 1 8-bit float, 2 4-bit float, 3 f16, 4 bf16. -/
def mulClass (t : Ty) : Option Nat :=
  if t = 0 ∨ t = 4 then some 0 else if t = 12 ∨ t = 13 then some 1 else if t = 14 then some 2
  else if t = 10 then some 3 else if t = 11 then some 4 else none

/-- Whether a class may, or must, carry scales (10_matrix.md R294). -/
def scaledOk (cls : Nat) (scaled : Bool) : Bool := if cls = 1 then true else if cls = 2 then scaled else !scaled

/-- Which operand of a multiply is sparse. -/
inductive Sparse where
  | none
  | a
  | b
deriving DecidableEq, Repr

/-- The control word of a multiply (10_matrix.md R303). -/
def mulKg (x : Word) : Nat := bits x 0 6 + 1
/-- ATYPE. -/
def mulAty (x : Word) : Ty := bits x 8 4
/-- BTYPE. -/
def mulBty (x : Word) : Ty := bits x 12 4
/-- SCALED. -/
def mulScaled (x : Word) : Bool := x.getLsbD 16
/-- TRS. -/
def mulTrs (x : Word) : Bool := x.getLsbD 17

/-- The checks on a control word (10_matrix.md R305). -/
def mulOk (sp : Sparse) (x : Word) : Bool :=
  bits x 18 46 = 0 && bits x 6 2 = 0 &&
  match sp with
  | .none => !mulTrs x && (mulClass (mulAty x)).isSome && mulClass (mulAty x) == mulClass (mulBty x) &&
      scaledOk ((mulClass (mulAty x)).getD 0) (mulScaled x)
  | .a => mulAty x = 0 && (mulClass (mulBty x)).isSome && scaledOk ((mulClass (mulBty x)).getD 0) (mulScaled x)
  | .b => mulBty x = 0 && (mulClass (mulAty x)).isSome && scaledOk ((mulClass (mulAty x)).getD 0) (mulScaled x)

/-- The bytes of a dense tile (10_matrix.md R296). -/
def denseBytes (t : Ty) (kg : Nat) (scaled : Bool) : Nat := 32 * (4 * kg * tyWidth t) + (if scaled then 32 * kg else 0)

/-- Whether an operand reference names a node (10_matrix.md R295). -/
def refNode (r : Word) : Bool := r.getLsbD 63
/-- The node of a reference. -/
def refNum (r : Word) : BitVec 4 := r.setWidth 4

/-- The checks of R305 on a reference: the cause and its FADDR, if it fails. `dense` is the size of a dense tile. -/
def refFault (h : Hart) (r : Word) (dense : Option Nat) : Option (BitVec 8 × Option Word) :=
  if refNode r then
    let o := h.onode (refNum r)
    if bits r 4 59 ≠ 0 ∨ o.state = .idle then some (eOperand, none)
    else match dense with
      | some n => if nodeBytes o.desc ≠ n then some (eOperand, none) else none
      | none => none
  else if r.toNat % 32 ≠ 0 then some (eAlign, some r) else none

/-- The base of an operand: a direct address, or the `k`-th oldest full buffer of its node (10_matrix.md R315). -/
def refBase (h : Hart) (r : Word) (k : Nat) : Option Word :=
  if refNode r then
    let o := h.onode (refNum r)
    let b := (o.used + k) % nodeDepth o.desc
    if o.used + k < o.t && o.full.getLsbD b then some (nodeBufAddr o.desc b) else none
  else some r

/-- Bytes read in ascending order. -/
def loadBytes (w : Agent) (va : Word) (n : Nat) : Acc (List Byte) :=
  (List.range n).mapM fun i => do
    let b ← loadElem w (va + word i) 1
    pure (BitVec.ofNat 8 b)

/-- Elements of `w` bits packed in bytes (10_matrix.md R296; 03_arithmetic.md R78). -/
def unpack (w n : Nat) (bs : List Byte) : List Nat :=
  let x := ofBytes bs
  (List.range n).map (fun i => x / 2 ^ (w * i) % 2 ^ w)

/-- A K-group of an operand: 32 lines of 32 positions, absent where nothing is stored; and the scale of each line. -/
structure Group where
  ty : Ty
  lines : List (List (Option Nat))
  scales : List Nat
deriving DecidableEq, Repr

/-- The scale codes of K-group `g`, where the operand carries them (10_matrix.md R296). -/
def loadScales (w : Agent) (base : Word) (scaled : Bool) (kg g : Nat) : Acc (List Nat) :=
  if scaled then (List.range 32).mapM (fun i => loadElem w (base + word (i * kg + g)) 1) else pure []

/-- A K-group of a dense tile (10_matrix.md R296). -/
def denseGroup (w : Agent) (base : Word) (t : Ty) (kg : Nat) (scaled : Bool) (g : Nat) : Acc Group := do
  let part := 4 * tyWidth t
  let lines ← (List.range 32).mapM fun i => do
    let bs ← loadBytes w (base + word (i * kg * part + g * part)) part
    pure ((unpack (tyWidth t) 32 bs).map some)
  let scales ← loadScales w (base + word (32 * kg * part)) scaled kg g
  pure ⟨t, lines, scales⟩

/-! ### Sparse tiles -/

/-- A sparse header (10_matrix.md R297). -/
def hdrRows (x : Nat) : Nat := x / 2 ^ 12 % 256
/-- VFMT. -/
def hdrVfmt (x : Nat) : Ty := x / 2 ^ 8 % 16
/-- KIND. -/
def hdrKind (x : Nat) : Nat := x / 2 ^ 6 % 4
/-- log2 M. -/
def hdrB (x : Nat) : Nat := x / 2 ^ 4 % 4 + 1
/-- M. -/
def hdrM (x : Nat) : Nat := 2 ^ hdrB x
/-- N. -/
def hdrN (x : Nat) : Nat := x % 16

/-- The sizes of a sparse tile's units (10_matrix.md R298): values of a line, row metadata, column metadata. -/
def sparseVb (x kg : Nat) : Nat := 32 * kg * hdrN x / hdrM x * tyWidth (hdrVfmt x) / 8
/-- Row metadata of a line. -/
def sparseRb (x kg : Nat) : Nat := 4 * ((32 * kg * hdrN x * hdrB x + 32 * hdrM x - 1) / (32 * hdrM x))
/-- Column metadata of a column. -/
def sparseCb (x : Nat) : Nat := 4 * ((32 * hdrN x * hdrB x + 32 * hdrM x - 1) / (32 * hdrM x))
/-- Where the row metadata starts. -/
def sparseRow (x kg : Nat) : Nat := 32 + 32 * sparseVb x kg
/-- Where the column metadata starts. -/
def sparseCol (x kg : Nat) : Nat := sparseRow x kg + 32 * sparseRb x kg
/-- Where the scale codes start. -/
def sparseScale (x kg : Nat) : Nat := sparseCol x kg + (if hdrKind x = 1 then 32 * kg * sparseCb x else 0)

/-- The checks on a header (10_matrix.md R299): `cls` is the class of the other operand, `tbytes` the node's size. -/
def headerOk (x kg : Nat) (cls : Option Nat) (scaled trs : Bool) (tbytes : Option Nat) : Bool :=
  x / 2 ^ 24 % 256 = ((x % 256) ^^^ (x / 2 ^ 8 % 256) ^^^ (x / 2 ^ 16 % 256)) && hdrN x != 0 && hdrN x ≤ hdrM x &&
  hdrKind x < 2 && x / 2 ^ 20 % 16 = 0 && (mulClass (hdrVfmt x)).isSome && mulClass (hdrVfmt x) == cls &&
  hdrRows x = kg && (match tbytes with
    | some n => n = sparseScale x kg + (if scaled then 32 * kg else 0)
    | none => true) &&
  (!trs || (hdrKind x = 1 && hdrRows x = 1))

/-- The indices of group `h` of a metadata unit (10_matrix.md R298). -/
def metaGroup (x : Nat) (unit h : Nat) : List Nat :=
  (List.range (hdrN x)).map (fun n => unit / 2 ^ ((h * hdrN x + n) * hdrB x) % hdrM x)

/-- Strictly increasing. -/
def rising (xs : List Nat) : Bool := xs.Pairwise (· < ·)

/-- The lines that column `k` of the row metadata keeps, within column group `h` (10_matrix.md R298). -/
def columnOf (x : Nat) (rows : List Nat) (k h : Nat) : List Nat :=
  (List.range (hdrM x)).filter (fun r => match rows[h * hdrM x + r]? with
    | some unit => (metaGroup x unit (k / hdrM x)).contains (k % hdrM x)
    | none => false)

/-- The metadata of a sparse tile, checked (10_matrix.md R299): each line's unit as a number. -/
def sparseMeta (w : Agent) (base : Word) (x kg : Nat) (skip : Word) : Acc (List Nat) := do
  let live (k : Nat) : Bool := !skip.getLsbD (k / 32)
  let rows ← (List.range 32).mapM fun i => do
    let bs ← loadBytes w (base + word (sparseRow x kg + i * sparseRb x kg)) (sparseRb x kg)
    pure (ofBytes bs)
  let cols ← (List.range (if hdrKind x = 1 then 32 * kg else 0)).mapM fun k => do
    let bs ← loadBytes w (base + word (sparseCol x kg + k * sparseCb x)) (sparseCb x)
    pure (ofBytes bs)
  let groups := 32 * kg / hdrM x
  let bad := rows.zipIdx.findSome? (fun (unit, i) =>
    ((List.range groups).find? (fun h => live (h * hdrM x) && !rising (metaGroup x unit h))).map (fun h => (i, h)))
  match bad with
  | some (i, h) =>
    throw ⟨eMeta, base + word (sparseRow x kg + i * sparseRb x kg + h * hdrN x * hdrB x / 32 * 4), 0⟩
  | none =>
    if cols.zipIdx.any (fun (unit, k) => live k && (List.range (32 / hdrM x)).any (fun h =>
        metaGroup x unit h != columnOf x rows k h)) then throw ⟨eMeta, base + word (sparseCol x kg), 0⟩
    else pure rows

/-- A K-group of a sparse tile, expanded (10_matrix.md R298); with `trs` its transpose. -/
def sparseGroup (w : Agent) (base : Word) (x kg : Nat) (rows : List Nat) (scaled trs : Bool) (g : Nat) : Acc Group := do
  let t := hdrVfmt x
  let per := 32 * hdrN x / hdrM x
  let part := per * tyWidth t / 8
  let lines ← rows.zipIdx.mapM fun (unit, i) => do
    let bs ← loadBytes w (base + word (32 + i * sparseVb x kg + g * part)) part
    let vals := unpack (tyWidth t) per bs
    let slots := (List.range (32 / hdrM x)).flatMap (fun h =>
      (metaGroup x unit (g * (32 / hdrM x) + h)).map (fun p => h * hdrM x + p))
    pure ((List.range 32).map (fun k => match slots.findIdx? (· == k) with
      | some n => vals[n]?
      | none => none))
  let scales ← loadScales w (base + word (sparseScale x kg)) scaled kg g
  let lines := if trs then (List.range 32).map (fun i => lines.map (fun l => (l[i]?).getD none)) else lines
  pure ⟨t, lines, scales⟩

/-! ### Multiply-accumulate -/

/-- What a K-group sums to (03_arithmetic.md R99, R100): with floats NaN, an infinity, or an exact value. -/
structure Sum where
  nan : Bool
  nv : Bool
  pos : Bool
  neg : Bool
  m : Int
  e : Int
deriving DecidableEq, Repr

/-- Adding one product to a sum. -/
def Sum.add (s : Sum) (p : Fp) : Sum :=
  match p with
  | .nan _ => { s with nan := true }
  | .inf n => if n then { s with neg := true } else { s with pos := true }
  | .fin n m x =>
    let e := min s.e x
    { s with m := s.m * 2 ^ (s.e - e).toNat + intAt n m x e, e := e }

/-- The exact product of two values, and whether it raises NV (03_arithmetic.md R100). -/
def fpProduct (a b : Fp) : Fp × Bool :=
  match a, b with
  | .nan s, y => (.nan false, s || y.isSnan)
  | _, .nan s => (.nan false, s)
  | .inf n, .inf k => (.inf (n != k), false)
  | .inf n, .fin k m _ => if m = 0 then (.nan false, true) else (.inf (n != k), false)
  | .fin k m _, .inf n => if m = 0 then (.nan false, true) else (.inf (n != k), false)
  | .fin n m x, .fin k l y => (.fin (n != k) (m * l) (x + y), false)

/-- A value times a scale of 2^(code - 127) (03_arithmetic.md R79, R100). -/
def fpScaled (a : Fp) (code : Nat) : Fp :=
  match a with
  | .fin n m x => .fin n m (x + code - 127)
  | .nan s => .nan s
  | .inf n => .inf n

/-- The sum of a group for one output element (03_arithmetic.md R99, R100). -/
def groupSum (fa fb : Fmt) (a b : List (Option Nat)) (sa sb : Option Nat) : Sum :=
  let z : Sum := ⟨sa == some 255 || sb == some 255, false, false, false, 0, 0⟩
  (a.zip b).foldl (fun s (x, y) => match x, y with
    | some x, some y =>
      let (p, nv) := fpProduct (fa.decode x) (fb.decode y)
      let s := s.add (fpScaled (fpScaled p (sa.getD 127)) (sb.getD 127))
      { s with nv := s.nv || nv }
    | _, _ => s) z

/-- Adding a group's sum to an accumulator element (03_arithmetic.md R99, R100). -/
def accumulate (rm : Rm) (old : Nat) (s : Sum) : Nat × Fl :=
  let c := fmtF32.decode old
  if s.nan || (s.pos && s.neg) then
    let (r, fl) := fmtF32.add rm c (.nan (s.nv || (s.pos && s.neg)))
    (r, fl)
  else if s.pos || s.neg then fmtF32.add rm c (.inf s.neg)
  else if s.m = 0 then (old, 0)
  else fmtF32.add rm c (.fin (s.m < 0) s.m.natAbs s.e)

/-- The integer sum of a group (03_arithmetic.md R100). -/
def groupInt (ta tb : Ty) (a b : List (Option Nat)) : Int :=
  (a.zip b).foldl (fun s (x, y) => match x, y with
    | some x, some y =>
      let v (t : Ty) (x : Nat) : Int := if tySigned t then signedOf 8 x else (x % 256 : Nat)
      s + v ta x * v tb y
    | _, _ => s) 0

/-- One K-group into an accumulator (10_matrix.md R303). -/
def mulGroup (rm : Rm) (a b : Group) (old : List Nat) : List Nat × Fl :=
  let r := old.zipIdx.map (fun (c, n) =>
    let i := n / 32
    let j := n % 32
    let la := (a.lines[i]?).getD []
    let lb := (b.lines[j]?).getD []
    match tyFmt a.ty, tyFmt b.ty with
    | some fa, some fb => accumulate rm c (groupSum fa fb la lb a.scales[i]? b.scales[j]?)
    | _, _ => (wrapInt 32 ((c : Int) + groupInt a.ty b.ty la lb), (0 : Fl)))
  (r.map (·.1), r.foldl (fun f x => f ||| x.2) 0)

/-- An operand ready for its groups: dense, or sparse with its header and metadata. -/
inductive Ready where
  | dense (base : Word) (t : Ty)
  | sparse (base : Word) (hdr : Nat) (rows : List Nat)
deriving DecidableEq, Repr

/-- A K-group of an operand. -/
def Ready.group (r : Ready) (w : Agent) (x : Word) (g : Nat) : Acc Group :=
  match r with
  | .dense base t => denseGroup w base t (mulKg x) (mulScaled x) g
  | .sparse base hdr rows => sparseGroup w base hdr (mulKg x) rows (mulScaled x) (mulTrs x) g

/-- Reading and checking a sparse operand before anything is accumulated (10_matrix.md R299, R306). -/
def readySparse (w : Agent) (base : Word) (x : Word) (other : Ty) (tbytes : Option Nat) (skip : Word) : Acc Ready := do
  let bs ← loadBytes w base 4
  let hdr := ofBytes bs
  if !headerOk hdr (mulKg x) (mulClass other) (mulScaled x) (mulTrs x) tbytes then throw ⟨eMeta, base, 0⟩
  else do
    let rows ← sparseMeta w base hdr (mulKg x) skip
    pure (.sparse base hdr rows)

/-- The size of a reference's node tiles. -/
def refBytes (h : Hart) (r : Word) : Option Nat := if refNode r then some (nodeBytes (h.onode (refNum r)).desc) else none

/-- The checks of R305 on both references. -/
def mulRefs (h : Hart) (sp : Sparse) (a b x : Word) : Option (BitVec 8 × Option Word) :=
  let dense (t : Ty) : Nat := denseBytes t (mulKg x) (mulScaled x)
  (refFault h a (if sp = .a then none else some (dense (mulAty x)))).or
    (refFault h b (if sp = .b then none else some (dense (mulBty x))))

/-- The node buffers a multiply empties when it completes (10_matrix.md R315). -/
def Hart.releaseRefs (h : Hart) (a b : Word) : Hart :=
  let h := if refNode a then h.modOnode (refNum a) (·.release) else h
  if refNode b then h.modOnode (refNum b) (·.release) else h

/-- The skip mask of a multiply, taken once and kept with an entry of the MIQ (10_matrix.md R303, R310). -/
def takeSkip (e : Entry) (live : Bool) : Run Word := do
  if e.started then pure e.aux
  else do
    let h ← theHart
    let skip := if h.skipV then h.skip else 0
    modHart fun h =>
      let q := if live then modHead (fun e => { e with started := true, aux := skip }) h.miq else h.miq
      { h with skipV := false, miq := q }
    pure skip

/-- A timeout that a node owes to the oldest entry that consumes from it (10_matrix.md R317). -/
def nodeOwes (r : Word) : Run Unit := do
  let h ← theHart
  match (if refNode r then (h.onode (refNum r)).owed else none) with
  | none => pure ()
  | some (code, addr) => do
    modHart fun h => h.modOnode (refNum r) fun o => { o with owed := none }
    heldTrap 5 code addr 0

/-- The checks of a multiply at issue, but for its unit (10_matrix.md R305). -/
def mulChecks (sp : Sparse) (a b x : Word) : Run Unit := do
  let h ← theHart
  if !mulOk sp x then operandTrap 5
  else match mulRefs h sp a b x with
    | some (code, addr) => trapAt 5 code addr 0
    | none => pure ()

/-- A multiply (10_matrix.md R303, R306): `live` says that the entry stands in the MIQ. -/
def matrixMul (e : Entry) (live : Bool) (sp : Sparse) (c : BitVec 4) (a b x : Word) : Run Unit :=
  if e.skipped then modHart fun h => h.releaseRefs a b
  else do
    needUnit
    mulChecks sp a b x
    let skip ← takeSkip e live
    if live then do
      nodeOwes a
      nodeOwes b
    let h ← theHart
    match refBase h a 0, refBase h b (if refNode a && refNode b && refNum a == refNum b then 1 else 0) with
    | some pa, some pb => do
      let ra ← if sp = .a then acc 5 0 (readySparse h.agent pa x (mulBty x) (refBytes h a) skip)
        else pure (Ready.dense pa (mulAty x))
      let rb ← if sp = .b then acc 5 0 (readySparse h.agent pb x (mulAty x) (refBytes h b) skip)
        else pure (Ready.dense pb (mulBty x))
      ((List.range (mulKg x)).drop e.prog.toNat).forM fun g => do
        if skip.getLsbD g then pure ()
        else do
          let ga ← acc 5 g (ra.group h.agent x g)
          let gb ← acc 5 g (rb.group h.agent x g)
          modHart fun h =>
            let (out, fl) := mulGroup (rmOf (etRm e.et)) ga gb (h.tile c)
            (h.setTile c out).flag fl
      modHart fun h => h.releaseRefs a b
    | _, _ => throw .wait

/-! ### Transfers -/

/-- `mzero` (10_matrix.md R308). -/
def matrixZero (e : Entry) (c : BitVec 4) : Run Unit :=
  if e.skipped then pure ()
  else do
    needUnit
    modHart fun h => h.setTile c (List.replicate 1024 0)

/-- An address that must be a multiple of `n` (10_matrix.md R305). -/
def matrixAlign (a : Word) (n : Nat) : Run Unit := if a.toNat % n = 0 then pure () else trapAt 5 eAlign (some a) 0

/-- `mldc` (10_matrix.md R308). -/
def matrixLoad (e : Entry) (c : BitVec 4) (a : Word) : Run Unit :=
  if e.skipped then pure ()
  else do
    needUnit
    matrixAlign a 32
    ((List.range 32).drop e.prog.toNat).forM fun i => do
      let h ← theHart
      let row ← acc 5 i ((List.range 32).mapM fun j => loadElem h.agent (a + word (128 * i + 4 * j)) 4)
      modHart fun h => let old := h.tile c; h.setTile c (old.take (32 * i) ++ row ++ old.drop (32 * i + 32))

/-- DTYPE. -/
def storeDst (x : Word) : Ty := bits x 0 4
/-- The source type that ISRC names (10_matrix.md R308). -/
def storeSrc (x : Word) : Ty := if x.getLsbD 4 then 2 else 9

/-- The checks on the conversion of `mstc` (10_matrix.md R308). -/
def storeOk (x : Word) : Bool :=
  bits x 5 59 = 0 && (if x.getLsbD 4 then [0, 1, 2, 4, 5, 6, 9].contains (storeDst x)
                      else [9, 10, 11, 12, 13, 14].contains (storeDst x))

/-- Every byte of some runs may be stored to, so that storing them does not fail. A fault that the rights of the bytes give comes
before one that setting a D bit or the link gives, and before it no D bit is set (04_memory_model.md R110, R141; 14_link.md R408;
log 71). -/
def mayStore (w : Agent) (runs : List (Word × Nat)) : Acc Unit := do
  let vas := runs.flatMap (fun (va, n) => (List.range n).map (fun i => va + word i))
  vas.forM fun va => do
    let _ ← locate w .probeStore va 1
    pure ()
  vas.forM fun va => do
    let locs ← locate w .store va 1
    lateAt w true locs va 1

/-- `mstc` (10_matrix.md R308): under `rsr` the draw of element (i, j) is 32i + j of the captured G. -/
def matrixStore (e : Entry) (c : BitVec 4) (a x : Word) : Run Unit :=
  if e.skipped then pure ()
  else do
    needUnit
    if !storeOk x then operandTrap 5
    else do
      matrixAlign a 32
      let w := tyWidth (storeDst x)
      ((List.range 32).drop e.prog.toNat).forM fun i => do
        let h ← theHart
        let row := (((h.tile c).drop (32 * i)).take 32).zipIdx.map (fun (v, j) =>
          cvtElem (storeSrc x) (storeDst x) (if etRm e.et = 4 then .rsr (draw e.aux (32 * i + j)) else rmOf (etRm e.et))
            (etSat e.et) v)
        let bytes := toBytes (4 * w) (packElems w (row.map (·.1)))
        let unit := max 1 (w / 8)
        let dst := a + word (i * 4 * w)
        acc 5 i (mayStore h.agent [(dst, 4 * w)])
        acc 5 i ((List.range (4 * w / unit)).forM fun j =>
          storeElem h.agent (dst + word (j * unit)) unit (ofBytes ((bytes.drop (j * unit)).take unit)))
        modHart fun h => h.flag (row.foldl (fun f r => f ||| r.2) 0)

/-- `mscale` (10_matrix.md R309). -/
def matrixScale (e : Entry) (c : BitVec 4) (a : Word) : Run Unit :=
  if e.skipped then pure ()
  else do
    needUnit
    matrixAlign a 32
    let h ← theHart
    let sg ← acc 5 0 ((List.range 32).mapM fun i => loadElem h.agent (a + word (4 * i)) 4)
    modHart fun h =>
      let out := (h.tile c).zipIdx.map (fun (v, n) =>
        if n / 32 < e.prog.toNat then (v, (0 : Fl))
        else fmtF32.mul (rmOf (etRm e.et)) (fmtF32.decode v) (fmtF32.decode ((sg[n / 32]?).getD 0)))
      (h.setTile c (out.map (·.1))).flag (out.foldl (fun f r => f ||| r.2) 0)

/-! ### The skip mask -/

/-- U + μ < m over the extended reals (10_matrix.md R310). -/
def sumBelow (u mu m : Fp) : Bool :=
  let lt (a b : Fp) : Bool := (fpLt a b).1
  match u, mu with
  | .nan _, _ => false
  | _, .nan _ => false
  | .inf a, .inf b => a = b && lt (.inf a) m
  | .inf a, .fin _ _ _ => lt (.inf a) m
  | .fin _ _ _, .inf b => lt (.inf b) m
  | .fin n x p, .fin k y q =>
    let e := min p q
    let s := intAt n x p e + intAt k y q e
    lt (.fin (s < 0) s.natAbs e) m

/-- `mskip` (10_matrix.md R310). -/
def matrixSkip (e : Entry) (a b x : Word) : Run Unit :=
  if e.skipped then pure ()
  else do
    needUnit
    if bits x 38 26 ≠ 0 then operandTrap 5
    else do
      matrixAlign a 4
      matrixAlign b 4
      let nb := bits x 32 6 + 1
      let h ← theHart
      let us ← acc 5 0 ((List.range nb).mapM fun g => loadElem h.agent (a + word (4 * g)) 4)
      let ms ← acc 5 0 ((List.range 32).mapM fun i => loadElem h.agent (b + word (4 * i)) 4)
      let mu := fmtF32.decode (bits x 0 32)
      let skip := us.zipIdx.foldl (fun (w : Word) (u, g) =>
        withBit w g (ms.all (fun m => sumBelow (fmtF32.decode u) mu (fmtF32.decode m)))) 0
      modHart fun h => { h with skip := skip, skipV := true }

/-! ### Prune and pack -/

/-- KGM + 1 of `mprune`. -/
def pruneKg (x : Word) : Nat := bits x 16 6 + 1
/-- ITYPE. -/
def pruneIty (x : Word) : Ty := bits x 12 4

/-- The header that `mprune` writes, without its CHECK byte: VFMT, KIND, MCODE and N come from the control word
(10_matrix.md R297, R311). -/
def pruneHdr (x : Word) : Nat := bits x 0 12 + pruneKg x * 2 ^ 12

/-- The checks of `mprune` (10_matrix.md R311). -/
def pruneOk (x : Word) : Bool :=
  let h := pruneHdr x
  bits x 22 42 = 0 && hdrN h != 0 && hdrN h ≤ hdrM h && hdrKind h < 2 &&
  (hdrKind h = 0 || (hdrM h = 2 && hdrN h = 1) || (hdrM h = 4 && (hdrN h = 1 || hdrN h = 2))) &&
  (mulClass (hdrVfmt h)).isSome && cvtOk (pruneIty x) (hdrVfmt h) && !tyScale (pruneIty x)

/-- The rank of an input value (10_matrix.md R311): NaN, infinity or finite, and the exact magnitude scaled to a
natural number. -/
def pruneRank (t : Ty) (x : Nat) : Nat × Nat :=
  match tyFmt t with
  | none => (0, (elemInt t x).natAbs)
  | some f => match f.decode x with
    | .nan _ => (2, 0)
    | .inf _ => (1, 0)
    | .fin _ m e => (0, m * 2 ^ (e - f.qmin).toNat)

/-- Whether one rank is above another. -/
def rankAbove (a b : Nat × Nat) : Bool := b.1 < a.1 || (a.1 = b.1 && b.2 < a.2)

/-- The positions that KIND 0 keeps of one group (10_matrix.md R311). -/
def keepRow (n : Nat) (ranks : List (Nat × Nat)) : List Nat :=
  (List.range ranks.length).filter (fun p =>
    let r := (ranks[p]?).getD (0, 0)
    ((List.range ranks.length).filter (fun q =>
      let z := (ranks[q]?).getD (0, 0)
      rankAbove z r || (!rankAbove r z && q < p))).length < n)

/-- The rows of M bits with N ones, ascending. -/
def rowMasks (m n : Nat) : List Nat :=
  (List.range (2 ^ m)).filter (fun x => ((List.range m).filter (fun i => x.testBit i)).length = n)

/-- The patterns of KIND 1 as lists of row masks: N ones in every row and every column (10_matrix.md R312). -/
def blockPatterns (m n : Nat) : List (List Nat) :=
  let all := (List.range m).foldl (fun ps _ => ps.flatMap (fun p => (rowMasks m n).map (fun r => p ++ [r]))) [[]]
  all.filter (fun p => (List.range m).all (fun c => (p.filter (fun r => r.testBit c)).length = n))

/-- The code of a pattern (10_matrix.md R312). -/
def patternCode (m : Nat) (p : List Nat) : Nat := p.foldr (fun r acc => r + acc * 2 ^ m) 0

/-- The key of a pattern over a block's ranks (10_matrix.md R312). -/
def patternKey (p : List Nat) (ranks : List (List (Nat × Nat))) : Nat × Nat × Nat :=
  let kept := (p.zip ranks).flatMap (fun (r, row) => (row.zipIdx.filter (fun (_, c) => r.testBit c)).map (·.1))
  ((kept.filter (fun k => k.1 = 2)).length, (kept.filter (fun k => k.1 = 1)).length,
   ((kept.filter (fun k => k.1 = 0)).map (·.2)).sum)

/-- Whether a key is above another. -/
def keyAbove (a b : Nat × Nat × Nat) : Bool :=
  b.1 < a.1 || (a.1 = b.1 && (b.2.1 < a.2.1 || (a.2.1 = b.2.1 && b.2.2 < a.2.2)))

/-- The pattern a block takes (10_matrix.md R312). -/
def bestPattern (m n : Nat) (ranks : List (List (Nat × Nat))) : List Nat :=
  ((blockPatterns m n).foldl (fun best p => match best with
    | none => some p
    | some q =>
      let kp := patternKey p ranks
      let kq := patternKey q ranks
      if keyAbove kp kq || (!keyAbove kq kp && patternCode m p < patternCode m q) then some p else some q) none).getD []

/-- The positions kept of each line of a band, group by group (10_matrix.md R311, R312). -/
def keepBand (hdr : Nat) (t : Ty) (lines : List (List Nat)) : List (List (List Nat)) :=
  let m := hdrM hdr
  let groups := ((lines.head?).getD []).length / m
  let rank (l h : Nat) : List (Nat × Nat) := ((((lines[l]?).getD []).drop (h * m)).take m).map (pruneRank t)
  if hdrKind hdr = 0 then
    (List.range lines.length).map (fun l => (List.range groups).map (fun h => keepRow (hdrN hdr) (rank l h)))
  else
    (List.range lines.length).map (fun l => (List.range groups).map (fun h =>
      let top := l / m * m
      let p := bestPattern m (hdrN hdr) ((List.range m).map (fun r => rank (top + r) h))
      (List.range m).filter (fun c => ((p[l % m]?).getD 0).testBit c)))

/-- Indices packed as a metadata unit (10_matrix.md R298). -/
def packMeta (b : Nat) (groups : List (List Nat)) : Nat := packElems b groups.flatten

/-- The lines of a band of the dense input. -/
def pruneBand (w : Agent) (x b : Word) (s : Nat) : Acc (List (List Nat)) := do
  let wd := tyWidth (pruneIty x)
  let n := 32 * pruneKg x
  let lb := n * wd / 8
  (List.range 4).mapM fun l => do
    let bs ← loadBytes w (b + word ((4 * s + l) * lb)) lb
    pure (unpack wd n bs)

/-- Runs of bytes stored in ascending order, once all of them may be: a fault leaves nothing stored (10_matrix.md R312). -/
def storeRuns (w : Agent) (xs : List (Word × List Byte)) : Acc Unit := do
  mayStore w (xs.map (fun (va, bs) => (va, bs.length)))
  xs.forM fun (va, bs) => bs.zipIdx.forM fun (x, i) => storeElem w (va + word i) 1 x.toNat

/-- The row metadata of the lines of a band that has been written, read back from the sparse tile (log 43). -/
def bandMeta (w : Agent) (a : Word) (hdr kg s : Nat) : Acc (List Nat) :=
  (List.range 4).mapM fun l => do
    let bs ← loadBytes w (a + word (sparseRow hdr kg + (4 * s + l) * sparseRb hdr kg)) (sparseRb hdr kg)
    pure (ofBytes bs)

/-- The column metadata of a tile of KIND 1, from its row metadata (10_matrix.md R298, R312). -/
def columnMeta (a : Word) (hdr kg : Nat) (rows : List Nat) : List (Word × List Byte) :=
  (List.range (32 * kg)).map fun k => (a + word (sparseCol hdr kg + k * sparseCb hdr),
    toBytes (sparseCb hdr) (packMeta (hdrB hdr) ((List.range (32 / hdrM hdr)).map (columnOf hdr rows k))))

/-- The header with its CHECK byte (10_matrix.md R297). -/
def withCheck (hdr : Nat) : Nat := hdr % 2 ^ 24 + ((hdr % 256) ^^^ (hdr / 2 ^ 8 % 256) ^^^ (hdr / 2 ^ 16 % 256)) * 2 ^ 24

/-- Step `s` of `mprune` below 8: the values and the row metadata of lines 4s to 4s + 3, stored as one (10_matrix.md R311,
R312). It answers their row metadata. -/
def pruneStep (e : Entry) (a b x : Word) (s : Nat) : Run (List Nat) := do
  let hdr := pruneHdr x
  let kg := pruneKg x
  let t := pruneIty x
  let vt := hdrVfmt hdr
  let h ← theHart
  let lines ← acc 5 s (pruneBand h.agent x b s)
  let keep := keepBand hdr t lines
  let vals := (lines.zip keep).map (fun (l, ks) =>
    ks.zipIdx.flatMap (fun (ps, g) => ps.map (fun p =>
      cvtElem t vt (rmOf (etRm e.et)) (etSat e.et) ((l[g * hdrM hdr + p]?).getD 0))))
  let rows := keep.map (packMeta (hdrB hdr))
  acc 5 s (storeRuns h.agent
    (vals.zipIdx.map (fun (vs, l) => (a + word (32 + (4 * s + l) * sparseVb hdr kg),
        toBytes (sparseVb hdr kg) (packElems (tyWidth vt) (vs.map (·.1))))) ++
     rows.zipIdx.map (fun (m, l) => (a + word (sparseRow hdr kg + (4 * s + l) * sparseRb hdr kg), toBytes (sparseRb hdr kg) m))))
  modHart fun h => h.flag ((vals.flatten).foldl (fun f r => f ||| r.2) 0)
  pure rows

/-- `mprune` (10_matrix.md R311, R312): bands of four lines, then the column metadata and the header. -/
def matrixPrune (e : Entry) (a b x : Word) : Run Unit :=
  if e.skipped then pure ()
  else do
    needUnit
    if !pruneOk x then operandTrap 5
    else do
      matrixAlign a 32
      matrixAlign b 32
      let hdr := pruneHdr x
      let kg := pruneKg x
      let ei := min 8 e.prog.toNat
      let new ← ((List.range 8).drop ei).mapM (pruneStep e a b x)
      let h ← theHart
      let cols ← if hdrKind hdr = 1 then do
          let done ← acc 5 8 ((List.range ei).mapM (bandMeta h.agent a hdr kg))
          pure (columnMeta a hdr kg (done.flatten ++ new.flatten))
        else pure []
      acc 5 8 (storeRuns h.agent (cols ++ [(a + 4, List.replicate 28 0), (a, toBytes 4 (withCheck hdr))]))

/-- vl of a matrix entry (10_matrix.md R306), from its control word. -/
def matrixVl (i : Instr) (x : Word) : Option Nat :=
  match i with
  | .mmac _ _ _ _ | .mmacsa _ _ _ _ | .mmacsb _ _ _ _ => some (mulKg x)
  | .mldc _ _ | .mstc _ _ _ | .mscale _ _ => some 32
  | .mprune _ _ _ => some 9
  | .mzero _ | .mskip _ _ _ | .mshape _ | .mnode _ _ | .mfill _ | .mwait _ | .mstat _ => some 1
  | _ => none

end Sys2Proof.Machine
end

