-- ==== Sys2Proof/Machine/Chain.lean ====
section
/-!
DEFINITION. The chain sequencer: blocks and their checks, convoys, the run strip by strip, breaks and re-forming, and
the chain instructions (02_encoding.md R63 to R69; 09_chain.md R262 to R292; 10_matrix.md R319).
-/

namespace Sys2Proof.Machine

/-! ### Stages -/

/-- The operations a stage may have (02_encoding.md R67). -/
inductive StageOp where
  | elem (op : ElemOp)
  | elemVs (op : ElemOp)
  | elemVi (op : ElemOp)
  | bcast
  | idx
  | cmp (op : CmpOp)
  | red (op : RedOp)
  | scan (inclusive : Bool)
  | slide (op : SlideOp)
  | perm (op : PermOp)
  | compress
  | expand
  | cvt
  | mask (op : MaskOp)
  | load (f : PortForm)
  | store (f : PortForm)
  | gather
  | scatter
  | wgather
  | amo (op : RedOp)
  | fas
  | aw (op : RedOp)
  | mul (sp : Sparse)
  | mldc
  | mstc
  | mzero
  | mskip
  | mprune
  | qrd
deriving DecidableEq, Repr

/-- A stage's operation by its MAJ and FN (02_encoding.md R57, R67). -/
def stageOp (maj fn : Nat) : Option StageOp :=
  match maj with
  | 25 => ([.elem .add, .elem .sub, .elem .mul, .elem .mulh, .elem .div, .elem .rem, .elem .min, .elem .max] : List StageOp)[fn]?
  | 26 => ([.elem .and, .elem .or, .elem .xor, .elem .shl, .elem .shr, .elem .sra, .elem .adds, .elem .subs] : List StageOp)[fn]?
  | 27 => ([.elem .mac, .elem .nmac, .elem .sqrt, .elem .abs, .elem .addmin, .elem .merge, .elem .mv] : List StageOp)[fn]?
  | 28 => ([.cmp .eq, .cmp .ne] : List StageOp)[fn]?
  | 29 => ([.cmp .lt, .cmp .le] : List StageOp)[fn]?
  | 30 => ([.elemVs .add, .elemVs .sub, .elemVs .mul, .elemVs .min] : List StageOp)[fn]?
  | 31 => ([.elemVs .max, .elemVs .shl, .elemVs .shr, .elemVs .sra] : List StageOp)[fn]?
  | 32 => ([.elemVs .mac, .elemVs .addmin, .bcast, .elemVs .rsub] : List StageOp)[fn]?
  | 33 => ([.elemVi .add, .elemVi .and, .elemVi .or, .elemVi .xor, .elemVi .shl, .elemVi .shr, .elemVi .sra,
            .elemVi .rsub] : List StageOp)[fn]?
  | 34 => if fn = 0 then some .idx else none
  | 35 => ([.red .sum, .red .min, .red .max, .red .and, .red .or, .red .xor, .scan true, .scan false] : List StageOp)[fn]?
  | 36 => ([.slide .up, .slide .down, .slide .up1, .slide .down1] : List StageOp)[fn]?
  | 37 => ([.perm .perm, .compress, .expand, .perm .rev, .perm .zip, .perm .unzip, .perm .conflict] : List StageOp)[fn]?
  | 38 => if fn = 0 then some .cvt else none
  | 39 => ([.mask .and, .mask .or, .mask .xor, .mask .andn, .mask .orn, .mask .nand, .mask .nor, .mask .xnor, .mask .mv,
            .mask .not, .mask .setbf, .mask .setif, .mask .setof, .mask .clr, .mask .set] : List StageOp)[fn]?
  | 42 => ([.load .unit, .store .unit] : List StageOp)[fn]?
  | 43 => ([.load .strided, .store .strided] : List StageOp)[fn]?
  | 44 => ([.load (.indexed 0), .store (.indexed 0)] : List StageOp)[fn]?
  | 45 => ([.load .unit, .load .strided] : List StageOp)[fn]?
  | 46 => ([.load .unit, .store .unit, .load .unit] : List StageOp)[fn]?
  | 51 => ([.gather, .scatter, .wgather] : List StageOp)[fn]?
  | 52 => ([.amo .sum, .amo .min, .amo .max, .fas] : List StageOp)[fn]?
  | 53 => ([.aw .sum, .aw .min, .aw .max] : List StageOp)[fn]?
  | 55 => if fn = 7 then some .qrd else none
  | 56 => ([.mul .none, .mul .a, .mul .b, .mldc, .mstc, .mzero, .mskip] : List StageOp)[fn]?
  | 57 => if fn = 0 then some .mprune else none
  | _ => none

/-- What a literal may hold (02_encoding.md R66). -/
inductive LitKind where
  | any
  | signed (bits : Nat)
  | below (n : Nat)
deriving DecidableEq, Repr

/-- Whether a literal is in range. -/
def LitKind.ok (k : LitKind) (x : Word) : Bool :=
  match k with
  | .any => true
  | .signed n => -2 ^ (n - 1) ≤ x.toInt && x.toInt < 2 ^ (n - 1)
  | .below n => x.toNat < n

/-- The literals of a stage, in ascending bit position of their fields (02_encoding.md R66). -/
def StageOp.lits (op : StageOp) (maj : Nat) : List LitKind :=
  match op with
  | .elem _ | .cmp _ | .red _ | .scan _ | .perm _ | .compress | .expand | .mask _ => []
  | .elemVs _ | .bcast | .slide _ | .gather | .scatter | .wgather | .amo _ | .fas => [.any]
  | .elemVi _ => [.signed 12]
  | .idx => [.signed 10, .signed 10]
  | .cvt => [.below 16, .below 16]
  | .load (.indexed _) | .store (.indexed _) => [.any]
  | .load _ | .store _ => if maj = 46 then [.any, .signed 12] else [.any, .any]
  | .aw _ => [.below 8]
  | .mul _ => [.below 16, .any, .any, .any]
  | .mldc => [.below 16, .any, .below 1, .below 1]
  | .mstc => [.below 16, .any, .below 1, .any]
  | .mzero => [.below 16, .below 1, .below 1, .below 1]
  | .mskip | .mprune => [.below 1, .any, .any, .any]
  | .qrd => [.below 32]

/-- Whether a stage reads port a (02_encoding.md R66). -/
def StageOp.readsA (op : StageOp) : Bool :=
  match op with
  | .elem _ | .elemVs _ | .elemVi _ | .cmp _ | .red _ | .scan _ | .slide _ | .perm _ | .compress | .expand | .cvt
  | .store _ | .gather | .scatter | .wgather | .amo _ | .fas | .aw _ => true
  | .load (.indexed _) => true
  | .mask op => op != .clr && op != .set
  | .load _ | .bcast | .idx | .mul _ | .mldc | .mstc | .mzero | .mskip | .mprune | .qrd => false

/-- Whether a stage reads port b (02_encoding.md R66). -/
def StageOp.readsB (op : StageOp) : Bool :=
  match op with
  | .elem op => op != .sqrt && op != .abs && op != .mv
  | .cmp _ | .red _ | .scan _ | .scatter | .amo _ | .aw _ => true
  | .perm op => op = .perm || op = .zip
  | .store (.indexed _) => true
  | .mask op => [MaskOp.and, .or, .xor, .andn, .orn, .nand, .nor, .xnor].contains op
  | .elemVs _ | .elemVi _ | .bcast | .idx | .slide _ | .compress | .expand | .cvt | .load _ | .store _ | .gather
  | .wgather | .fas | .mul _ | .mldc | .mstc | .mzero | .mskip | .mprune | .qrd => false

/-- Whether port c must have a producer (02_encoding.md R66). -/
def StageOp.needsC (op : StageOp) : Bool :=
  match op with
  | .elem op | .elemVs op => op.readsDst
  | _ => false

/-- What a stage sends on its data ports: elements, bits, or nothing (02_encoding.md R68; 09_chain.md R265). -/
inductive Sends where
  | vector
  | mask
  | nothing
deriving DecidableEq, Repr

/-- What a stage sends; updates of memory and of windows send nothing, as stores do (log 18). -/
def StageOp.sends (op : StageOp) : Sends :=
  match op with
  | .cmp _ | .mask _ => .mask
  | .store _ | .scatter | .amo _ | .aw _ => .nothing
  | .elem _ | .elemVs _ | .elemVi _ | .bcast | .idx | .red _ | .scan _ | .slide _ | .perm _ | .compress | .expand | .cvt
  | .load _ | .gather | .wgather | .fas | .mul _ | .mldc | .mstc | .mzero | .mskip | .mprune | .qrd => .vector

/-- Whether a stage has a vector destination field, so that port c may have a producer (02_encoding.md R66). -/
def StageOp.hasDst (op : StageOp) : Bool :=
  match op with
  | .elem _ | .elemVs _ | .elemVi _ | .bcast | .idx | .red _ | .scan _ | .slide _ | .perm _ | .compress | .expand | .cvt
  | .load _ | .gather | .wgather | .fas => true
  | .cmp _ | .mask _ | .store _ | .scatter | .amo _ | .aw _ | .mul _ | .mldc | .mstc | .mzero | .mskip | .mprune
  | .qrd => false

/-- The engine of a stage as CAUSE.SRC (05_hart.md R148). -/
def StageOp.src (op : StageOp) : BitVec 4 :=
  match op with
  | .load _ | .store _ => 2
  | .gather | .scatter | .wgather | .amo _ | .fas | .aw _ => 3
  | .mul _ | .mldc | .mstc | .mzero | .mskip | .mprune => 5
  | .qrd => 4
  | .elem _ | .elemVs _ | .elemVi _ | .bcast | .idx | .cmp _ | .red _ | .scan _ | .slide _ | .perm _ | .compress | .expand
  | .cvt | .mask _ => 1

/-- A memory stage sends completion tokens (02_encoding.md R66; 10_matrix.md R319). The updates of an accumulation window count as
memory stages with the rest of their majors, though they make no memory access (log 57). -/
def StageOp.memory (op : StageOp) : Bool := op.src = 2 || op.src = 3 || (op.src = 5 && op != .mzero)

/-- A cross-element stage works a whole strip at a time (09_chain.md R266; 08_gather_fabric.md R254). -/
def StageOp.cross (op : StageOp) : Bool :=
  match op with
  | .red _ | .scan _ | .slide _ | .perm _ | .compress | .expand | .fas => true
  | .mask op => op.cross
  | _ => false

/-- An indexed port stage. -/
def StageOp.indexed (op : StageOp) : Bool :=
  match op with
  | .load (.indexed _) | .store (.indexed _) => true
  | _ => false

/-- A stage of the matrix engine. -/
def StageOp.matrix (op : StageOp) : Bool := op.src = 5

/-! ### Blocks -/

/-- A stage of a parsed block: its operation, its consumers as port and slot, and its literals. -/
structure Stage where
  op : StageOp
  outs : List (Nat × Nat)
  lits : List Word
deriving DecidableEq, Repr

/-- A word of a block. -/
def blockWord (ws : List (BitVec 32)) (i : Nat) : Word := ((ws[i]?).getD 0).setWidth 64
/-- S. -/
def blockS (ws : List (BitVec 32)) : Nat := bits (blockWord ws 0) 0 6 + 1
/-- L. -/
def blockL (ws : List (BitVec 32)) : Nat := bits (blockWord ws 0) 6 6
/-- SCOPE. -/
def blockScope (ws : List (BitVec 32)) : Nat := bits (blockWord ws 0) 12 3
/-- The stage word of a slot (02_encoding.md R65). -/
def stageWord (ws : List (BitVec 32)) (s : Nat) : Word := blockWord ws (1 + s)
/-- MAJ. -/
def swMaj (w : Word) : Nat := bits w 8 6
/-- FN. -/
def swFn (w : Word) : Nat := bits w 3 5
/-- NL. -/
def swNl (w : Word) : Nat := bits w 0 3
/-- The consumers K0 and K1, those in use, as port and slot. -/
def swOuts (w : Word) : List (Nat × Nat) :=
  ([bits w 14 9, bits w 23 9].filter (· != 0x1FF)).map (fun k => (k / 64, k % 64))

/-- Where a slot's literals start (02_encoding.md R68). -/
def litStart (ws : List (BitVec 32)) (s : Nat) : Nat := ((List.range s).map (fun i => swNl (stageWord ws i))).sum

/-- The literals of a slot. -/
def slotLits (ws : List (BitVec 32)) (s : Nat) : List Word :=
  (List.range (swNl (stageWord ws s))).map (fun j =>
    let i := 1 + blockS ws + 2 * (litStart ws s + j)
    blockWord ws i + blockWord ws (i + 1) * word (2 ^ 32))

/-- The stages of a block whose checks hold. -/
def chainStages (ws : List (BitVec 32)) : List Stage :=
  (List.range (blockS ws)).filterMap (fun s =>
    let w := stageWord ws s
    (stageOp (swMaj w) (swFn w)).map (fun op => ⟨op, swOuts w, slotLits ws s⟩))

/-- XC of a block (02_encoding.md R64). -/
def blockXc (ws : List (BitVec 32)) : Bool := (blockWord ws 0).getLsbD 15

/-- The header's checks (02_encoding.md R64). -/
def headerWordOk (ws : List (BitVec 32)) : Bool :=
  bits (blockWord ws 0) 24 8 = 1 && bits (blockWord ws 0) 17 7 = 0 && blockScope ws != 7 && blockL ws ≤ 32

/-- The first group of checks on a slot (02_encoding.md R68). -/
def slotOk (ws : List (BitVec 32)) (s : Nat) : Bool :=
  let w := stageWord ws s
  match stageOp (swMaj w) (swFn w) with
  | none => false
  | some op =>
    let kinds := op.lits (swMaj w)
    swNl w = kinds.length && litStart ws s + swNl w ≤ blockL ws &&
    (kinds.zip (slotLits ws s)).all (fun (k, x) => k.ok x) &&
    [bits w 14 9, bits w 23 9].all (fun k =>
      k = 0x1FF || (k / 64 != 7 && (if k / 64 = 6 then k % 64 < 32 else s < k % 64 && k % 64 < blockS ws) &&
        (k / 64 != 4 || op.memory) && (op.sends != .nothing || k / 64 = 4 || k / 64 = 5))) &&
    !(bits w 14 9 = 0x1FF && bits w 23 9 != 0x1FF)

/-- The producers of a port of a slot, as slots in ascending order; a port named twice by one stage counts twice. -/
def producers (st : List Stage) (port slot : Nat) : List Nat :=
  st.zipIdx.flatMap (fun (x, p) => (x.outs.filter (· == (port, slot))).map (fun _ => p))

/-- The second group of checks on a slot (02_encoding.md R68). Of two producers of one port the later is at fault, at its own
slot's turn (log 56). -/
def slotFed (st : List Stage) (s : Nat) : Bool :=
  match st[s]? with
  | none => true
  | some x =>
    (!x.op.readsA || !(producers st 0 s).isEmpty) && (!x.op.readsB || !(producers st 1 s).isEmpty) &&
    (!x.op.needsC || !(producers st 2 s).isEmpty) && (x.op.hasDst || (producers st 2 s).isEmpty) &&
    x.outs.all (fun (port, slot) => match producers st port slot with
      | p :: rest => p = s && !(rest.contains s)
      | [] => true)

/-- The further checks of `chform` on a slot (09_chain.md R276). Of two `qrd` stages that name one queue the later slot fails
(DESIGN CHOICE, log 70). -/
def slotPorts (st : List Stage) (s : Nat) : Bool :=
  match st[s]? with
  | none => true
  | some x =>
    x.outs.all (fun (port, slot) =>
      let maskIn := port = 3 || (port < 2 && (match st[slot]? with
        | some y => (match y.op with
          | .mask _ => true
          | _ => false)
        | none => false))
      if 4 ≤ port && port != 6 then true
      else match x.op.sends with
        | .mask => maskIn && port != 6
        | .vector => !(maskIn && port != 6)
        | .nothing => true) &&
    (match x.op with
     | .qrd =>
       let n := ((x.lits[0]?).getD 0).toNat
       st.all (fun y => !y.outs.contains (6, n)) &&
       (st.take s).all (fun y => !(y.op = .qrd && ((y.lits[0]?).getD 0).toNat = n))
     | _ => true)

/-- The word a check reports, if one fails (02_encoding.md R68; 09_chain.md R276). -/
def chainBad (ws : List (BitVec 32)) : Option Nat :=
  let slots := List.range (blockS ws)
  if !headerWordOk ws then some 0
  else match slots.find? (fun s => !slotOk ws s) with
    | some s => some (s + 1)
    | none =>
      if litStart ws (blockS ws) ≠ blockL ws then some 0
      else
        let st := chainStages ws
        match slots.find? (fun s => !slotFed st s) with
        | some s => some (s + 1)
        | none => (slots.find? (fun s => !slotPorts st s)).map (· + 1)

/-! ### What a stage reaches -/

/-- The bank that a byte of tile memory or TCM lies in, and its row there (06_port.md R183, R184); none elsewhere. -/
def bankOf (a : Nat) : Option (Nat × Nat) :=
  match levelOf a with
  | .tile _ => some ((a - tileBase) / 0x6000, (a - tileBase) % 0x6000 / 4)
  | .tcm core off => some (4096 + 16 * core + off / 8 % 16, off / 128)
  | .hbm _ _ | .sram _ _ | .peer _ _ | .host | .none => none

/-- The cost of a lane row that touches these bytes: the most rows of one bank (06_port.md R185). -/
def rowCost (locs : List Nat) : Nat :=
  let rows := (locs.filterMap bankOf).dedup
  rows.foldl (fun n r => max n (rows.filter (fun q => q.1 == r.1)).length) 0

/-- Whether a chain stage of a hart breaks its chain by reaching this location (04_memory_model.md R102). -/
def State.offContract (s : State) (h : Hart) (va : Word) (loc : Nat) : Bool :=
  match levelOf loc with
  | .host => true
  | .tcm core _ => core != h.core
  | .tile core =>
    match (s.regionsOf h.agent).find? (fun r => r.base.toNat ≤ va.toNat && va.toNat < r.base.toNat + r.bytes) with
    | some r => if r.clus then core / 4 != h.core / 4 else core != h.core
    | none => false
  | .hbm _ _ | .sram _ _ | .peer _ _ | .none => false

/-- The latency that a level gives a port stage of a core, where it gives one (09_chain.md R272). -/
def levelLatency (core : Nat) (loc : Nat) : Option Nat :=
  match levelOf loc with
  | .tcm c _ => if c = core then some 7 else none
  | .tile c => if c = core then some 8 else if c / 4 = core / 4 then some 16 else none
  | .hbm _ _ | .sram _ _ | .peer _ _ | .host | .none => none

/-- Literal `i` of a stage. -/
def Stage.lit (x : Stage) (i : Nat) : Word := (x.lits[i]?).getD 0

/-- How a stage accesses its elements; a store is only probed. -/
def Stage.access (x : Stage) : Access :=
  match x.op with
  | .store _ | .scatter => .probeStore
  | .amo _ | .fas => .probeAtomic
  | _ => .load

/-- The addresses that a port stage accesses from element `p` on, by element, and how many of them there are before they repeat:
an indexed stage, whose indexes do not exist yet, counts by its base (log 20). -/
def Stage.addresses (x : Stage) (w p n : Nat) : (Nat → Word) × Nat :=
  match x.op with
  | .load .unit | .store .unit => (fun e => unitAddr w (x.lit 0 + x.lit 1) (p + e), n - p)
  | .load .strided | .store .strided => (fun e => strideAddr (x.lit 0) (x.lit 1) (p + e), if x.lit 1 = 0 then min 1 (n - p) else n - p)
  | .load (.indexed _) | .store (.indexed _) => (fun _ => x.lit 0, min 1 (n - p))
  | _ => (fun _ => 0, 0)

/-- The location of the byte at an address of a stage, where it has one. -/
def State.stageLoc (s : State) (x : Stage) (a : Word) : Option Nat :=
  match tryAcc (locate s.hart.agent x.access a 1) s with
  | (.ok ls, _) => ls.head?
  | (.error _, _) => none

/-- The class of a stage that has so far reached class `c` and reaches one of latency `n`: none where the two are no class together
(09_chain.md R272). -/
def joinClass (c : Option Nat) (n : Nat) : Option Nat :=
  match c with
  | none => some n
  | some m => if m = n then some n else if m ≠ 7 ∧ n ≠ 7 then some 16 else none

/-- The latency class of a port stage: that of the level in which all its accesses lie, from the P where the run stands to its end;
none, a memory wait, where they lie in more or in another (09_chain.md R272). `k` accesses are left, and `c` is the class so
far. -/
def State.classFrom (s : State) (x : Stage) (addr : Nat → Word) : Nat → Nat → Option Nat → Option Nat
  | 0, _, c => c
  | k + 1, e, c => match s.stageLoc x (addr e) with
    | none => s.classFrom x addr k (e + 1) c
    | some l => match (levelLatency s.hart.core l).bind (joinClass c) with
      | none => none
      | some m => s.classFrom x addr k (e + 1) (some m)

/-- The latency class of a port stage (09_chain.md R272). -/
def State.portClass (s : State) (et : Word) (x : Stage) : Option Nat :=
  let (addr, k) := x.addresses (etSew et) s.hart.chain.minP s.hart.chain.n
  s.classFrom x addr k 0 none

/-- Whether one of `k` accesses of a stage lies in a region or TCM out of the core's reach. -/
def State.lostFrom (s : State) (x : Stage) (addr : Nat → Word) : Nat → Nat → Bool
  | 0, _ => false
  | k + 1, e => match s.stageLoc x (addr e) with
    | none => s.lostFrom x addr k (e + 1)
    | some l => (levelOf l != .host && s.offContract s.hart (addr e) l) || s.lostFrom x addr k (e + 1)

/-- Whether the placement cannot keep the latency class of a stage: a region or TCM that it uses has its home out of the core's
reach (01_engines.md R37; 09_chain.md R269). -/
def State.classLost (s : State) (et : Word) (x : Stage) : Bool :=
  let (addr, k) := x.addresses (etSew et) s.hart.chain.minP s.hart.chain.n
  s.lostFrom x addr k 0

/-! ### Convoys -/

/-- The latency of a stage, none for a memory wait or a matrix stage (09_chain.md R272). -/
def stageLatency (s : State) (et : Word) (x : Stage) : Option Nat :=
  let t := etTy et
  let int := classI t
  match x.op with
  | .elem op | .elemVs op | .elemVi op =>
    match op with
    | .and | .or | .xor | .merge | .mv => some 2
    | .add | .sub | .min | .max | .shl | .shr | .sra | .rsub | .abs => some (if int then 2 else 4)
    | .mul | .mulh | .mac | .nmac | .addmin | .adds | .subs => some 4
    | .div | .rem => some (if int then 36 else if etSew et = 64 then 24 else 16)
    | .sqrt => some (if etSew et = 64 then 24 else 16)
  | .bcast | .idx | .mask _ => some (if x.op.cross then 6 else 2)
  | .cmp _ => some (if int then 2 else 4)
  | .cvt => some 4
  | .red _ | .scan _ | .slide _ | .perm _ | .compress | .expand => some 6
  | .load _ | .store _ => s.portClass et x
  | .gather | .scatter | .wgather | .amo _ | .fas | .aw _ | .mul _ | .mldc | .mstc | .mzero | .mskip | .mprune
  | .qrd => none

/-- The data edges of a chain: producer, consumer, port (09_chain.md R265). -/
def dataEdges (st : List Stage) : List (Nat × Nat × Nat) :=
  st.zipIdx.flatMap (fun (x, p) => (x.outs.filter (fun o => o.1 < 4)).map (fun o => (p, o.2, o.1)))

/-- Whether a slot is a lane stage. -/
def laneSlot (st : List Stage) (i : Nat) : Bool := match st[i]? with
  | some x => x.op.src = 1
  | none => false

/-- The core whose stalls a stage of a convoy takes: in slot order each lane stage takes its share, from the hart's own
stalls on through the lent ones, and stands where its first one is (09_chain.md R270, R271; log 50). -/
def placeOf (s : State) (lent : List (Nat × Nat)) (st : List Stage) (cur : List Nat) (i : Nat) : Nat :=
  let h := s.hart
  let lanes := cur.filter (laneSlot st)
  match lanes.findIdx? (· == i) with
  | none => h.core
  | some k =>
    let pool := List.replicate (bits h.grant 0 5) h.core ++ lent.map (·.1)
    (pool[k * (pool.length / lanes.length)]?).getD h.core

/-- The cycles that lane links add to an edge of a convoy (09_chain.md R271, R272). -/
def edgeCycles (s : State) (lent : List (Nat × Nat)) (st : List Stage) (cur : List Nat) (p c : Nat) : Nat :=
  if lent.isEmpty then 0 else routeCycles (route s.laneUp (placeOf s lent st cur p) (placeOf s lent st cur c))

/-- The elements of a lane row of the stages of a convoy, g stalls in all (09_chain.md R270). -/
def convoyRow (g : Nat) (st : List Stage) (et : Word) (cur : List Nat) : Nat :=
  let lanes := (cur.filter (laneSlot st)).length
  8 * (if etSew et ≤ 16 then 2 else 1) * max 1 (if lanes = 0 then g else g / lanes)

/-- The edges inside a convoy with their depths in element groups, `row` of which make a lane row (09_chain.md R273); `hop` is
what lane links add to an edge. The latency of a cross-element stage counts from its strip's last input row (R272), and so the
strip's other rows are part of it; an edge below a memory wait has what step 2 gives where that is more than 32 lane rows
(log 58). -/
def edgeDepths (lat : List (Option Nat)) (st : List Stage) (hop : Nat → Nat → Nat) (row l : Nat) (cur : List Nat) :
    List ((Nat × Nat × Nat) × Nat) :=
  let inside := (dataEdges st).filter (fun (p, c, _) => cur.contains p && cur.contains c)
  let cross (s : Nat) : Bool := match st[s]? with
    | some x => x.op.cross
    | none => false
  let strip := (l + 7) / 8
  let latOf (s : Nat) : Option Nat :=
    ((lat[s]?).getD none).map (fun n => if cross s then n + ((strip + row - 1) / max 1 row - 1) else n)
  let info := cur.foldl (fun (m : List (Nat × Nat × Bool)) s =>
    let ins := (inside.filter (fun e => e.2.1 = s)).map (fun e => e.1)
    let at_ (p : Nat) : Nat × Bool := (m.lookup p).getD (0, false)
    (s, (ins.map (fun p => (at_ p).1 + (latOf p).getD 0 + hop p s)).foldl max 0,
      ins.any (fun p => (latOf p).isNone || (at_ p).2)) :: m) []
  inside.map (fun (p, c, port) =>
    let (ac, wait) := (info.lookup c).getD (0, false)
    let ap := ((info.lookup p).getD (0, false)).1
    let rows := ac - ap - (latOf p).getD 0 - hop p c + 2
    let base := (if wait then max 32 rows else rows) * row
    ((p, c, port), if cross c then max base strip else base))

/-- The fabric stages of the other standing chains of a core, as many as can be at work at once (09_chain.md R269). -/
def State.chainNodes (s : State) (core : Nat) : Nat :=
  ((List.range 4).map (fun k => match s.harts[4 * core + k]? with
    | some h =>
      if h.run = .absent || 4 * core + k = s.cur.val || !(h.chain.state = .standing || h.chain.state = .held) then 0
      else
        let st := chainStages h.chain.words
        (h.chain.plan.map (fun (_, cur) => (cur.filter (fun i => match st[i]? with
          | some x => x.op.src = 3
          | none => false)).length)).foldl max 0
    | none => 0)).sum

/-- Whether the stages fit one convoy of a chain with these lent stalls (09_chain.md R269). -/
def convoyFits (s : State) (lent : List (Nat × Nat)) (lat : List (Option Nat)) (st : List Stage) (et : Word) (l : Nat) (cur : List Nat) : Bool :=
  let h := s.hart
  let g := bits h.grant 0 5 + lent.length
  let count (p : StageOp → Bool) : Nat := (cur.filter (fun i => match st[i]? with | some x => p x.op | none => false)).length
  count (·.src = 1) ≤ g && count (·.src = 2) ≤ 4 &&
  count (·.src = 3) ≤ min 2 ((s.physFree h.core).length - s.chainNodes h.core) &&
  count (·.src = 5) ≤ (heldUnits h.units).length && count (· = .qrd) ≤ 4 &&
  ((edgeDepths lat st (edgeCycles s lent st cur) (convoyRow g st et cur / 8) l cur).map (·.2)).sum ≤ 1024

/-- The convoys of a chain with these lent stalls as lists of slots, or the slot that keeps it from forming (09_chain.md
R269). Where several cases keep it from forming, the first slot with a lost class or over a limit of its own is reported, and
the 17th strip buffer only where there is none (DESIGN CHOICE, log 70). -/
def formConvoys (s : State) (lent : List (Nat × Nat)) (st : List Stage) (et : Word) (l : Nat) : Except Nat (List (List Nat)) :=
  let lat := st.map (stageLatency s et)
  let step (acc : Except Nat (List (List Nat))) (i : Nat) : Except Nat (List (List Nat)) :=
    match acc with
    | .error e => .error e
    | .ok cs =>
      if (match st[i]? with
        | some x => s.classLost et x
        | none => false) then .error i
      else match cs.getLast? with
      | none => if convoyFits s lent lat st et l [i] then .ok [[i]] else .error i
      | some cur =>
        let fed := (producers st 5 i).any (fun p => cur.contains p)
        if !fed && convoyFits s lent lat st et l (cur ++ [i]) then .ok (cs.dropLast ++ [cur ++ [i]])
        else if convoyFits s lent lat st et l [i] then .ok (cs ++ [[i]])
        else .error i
  match (List.range st.length).foldl step (.ok []) with
  | .error e => .error e
  | .ok cs =>
    let convoyOf (i : Nat) : Nat := (cs.findIdx? (fun c => c.contains i)).getD 0
    let strips := (List.range st.length).flatMap (fun c =>
      ((dataEdges st).filter (fun e => e.2.1 = c && convoyOf e.1 != convoyOf c)).map (fun _ => c))
    match strips[16]? with
    | some c => .error c
    | none => .ok cs

/-- The width of the elements a stage sends (13_context.md R381). -/
def sendWidth (et : Word) (x : Stage) : Nat :=
  match x.op with
  | .cmp _ | .mask _ => 1
  | .cvt => tyWidth ((x.lits[0]?).getD 0).toNat
  | _ => etSew et

/-- The edges of a formation (09_chain.md R270, R273). -/
def State.formEdges (s : State) (lent : List (Nat × Nat)) (st : List Stage) (et : Word) (l : Nat) (cs : List (List Nat)) :
    List Edge :=
  let lat := st.map (stageLatency s et)
  let g := bits s.hart.grant 0 5 + lent.length
  let convoyOf (i : Nat) : Nat := (cs.findIdx? (fun c => c.contains i)).getD 0
  let depths := cs.flatMap (fun cur => edgeDepths lat st (edgeCycles s lent st cur) (convoyRow g st et cur / 8) l cur)
  (dataEdges st).map (fun (p, c, port) =>
    ⟨convoyOf p != convoyOf c, BitVec.ofNat 7 (((st[p]?).map (sendWidth et)).getD 0), p, c, BitVec.ofNat 3 port, 0,
      (depths.lookup (p, c, port)).getD 0, []⟩)

/-- The stalls of its own that lane stages occupy: in a convoy of c of them each takes ⌊g / c⌋, from the lowest on
(09_chain.md R270), with `more` lent ones counted after them. -/
def stageStalls (grant : Word) (more : Nat) (st : List Stage) (cs : List (List Nat)) : BitVec 16 :=
  let held := (List.range 16).filter (fun i => grant.getLsbD (16 + i))
  let used := cs.map (fun cur =>
    let c := (cur.filter (laneSlot st)).length
    if c = 0 then 0 else c * ((held.length + more) / c))
  (held.take (used.foldl max 0)).foldl (fun w i => w ||| BitVec.twoPow 16 i) 0

/-- The stalls that a chain is lent as it forms, and its convoys: a block with XC = 1 may be lent stalls of other cores, and
none is lent that keeps it from forming (09_chain.md R269, R271; log 50). -/
def State.formation (s : State) : List (Nat × Nat) × Except Nat (List (List Nat)) :=
  let h := s.hart
  let ch := h.chain
  let st := chainStages ch.words
  let lent := if blockXc ch.words then s.lends h.part h.core ch.scope.toNat else []
  match formConvoys s lent st ch.et ch.l with
  | .ok cs => (lent, .ok cs)
  | .error _ => ([], formConvoys s [] st ch.et ch.l)

/-- The lane links that a formed chain crosses (14_link.md R397). -/
def chainLinks (s : State) (lent : List (Nat × Nat)) (st : List Stage) (cs : List (List Nat)) : BitVec 64 :=
  if lent.isEmpty then 0
  else
    let at_ (i : Nat) : Nat := placeOf s lent st ((cs.find? (fun c => c.contains i)).getD []) i
    let inside (p c : Nat) : Bool := cs.any (fun cur => cur.contains p && cur.contains c)
    lentLinks s.laneUp s.hart.core lent
      (((dataEdges st).filter (fun e => inside e.1 e.2.1)).map (fun e => (at_ e.1, at_ e.2.1)))

/-- Forming at the start of a run, or re-forming at a strip boundary (09_chain.md R269, R271, R277, R288). A run that cannot
form tries again at the next boundary; CAUSE and SLOT stay as they were where it has been in TEMPORAL before (DESIGN CHOICE,
log 70). -/
def State.formChain (s : State) (again : Bool) : State :=
  let h := s.hart
  let ch := h.chain
  let st := chainStages ch.words
  let (lent, convoys) := s.formation
  let later := (ch.minP / max 1 ch.l + 1) * ch.l
  match convoys with
  | .ok cs =>
    let new := s.formEdges lent st ch.et ch.l cs
    let es := if again then ((ch.edges.filter (·.port != 6)).zip new).map (fun (e, f) => { e with strip := f.strip, depth := f.depth }) ++
                ch.edges.filter (·.port == 6)
              else new
    let g := bits h.grant 0 5 + lent.length
    s.setHart { h with chain := { ch with
        state := .standing, convoys := cs.length, edges := es, formedAt := ch.minP, stalls := stageStalls h.grant lent.length st cs,
        lent := lent, links := chainLinks s lent st cs, plan := cs.map (fun cur => (convoyRow g st ch.et cur, cur)),
        classed := (List.range st.length).filter (fun i => match st[i]? with
          | some x => x.op.src = 2 && (x.op.indexed || (stageLatency s ch.et x).isSome)
          | none => false),
        reformed := again, occs := [], units := h.units, reforms := if again then min 65535 (ch.reforms + 1) else ch.reforms } }
  | .error slot =>
    if again then s.setHart { h with chain := { ch with notBefore := later } }
    else s.setHart { h with chain := { ch with
        state := .temporal, cause := 4, slot := BitVec.ofNat 6 slot, lent := [], links := 0, notBefore := later,
        edges := s.formEdges [] st ch.et ch.l [] } }

/-! ### One stage -/

/-- What a stage has before it: the inputs of elements `lo` up, and where they stand in their strip. -/
structure StageIn where
  lo : Nat
  start : Nat
  len : Nat
  a : List Nat
  b : List Nat
  c : List Nat
  mask : List Bool
deriving DecidableEq, Repr

/-- A lane stage over the elements before it: what it sends and the flags (09_chain.md R264 to R268). -/
def laneStage (x : Stage) (et g : Word) (i : StageIn) : List Nat × Fl :=
  let t := etTy et
  let w := etSew et
  let rm := rmOf (etRm et)
  let n := i.c.length
  let a := i.a.map (· % 2 ^ w)
  let b := i.b.map (· % 2 ^ w)
  let c := i.c.map (· % 2 ^ w)
  let lit (v : Word) : List Nat := List.replicate n (v.toNat % 2 ^ w)
  let elem (op : ElemOp) (a b : List Nat) : List Nat × Fl :=
    let srcs := a.zip b
    let picked := if op = .merge then (srcs.zip i.mask).map (fun ((x, y), k) => (x, if k then y else x)) else srcs
    elementwise (etMp et) 0 (if op = .merge then List.replicate n true else i.mask) c picked (fun _ p q r => elemOp op t rm p q r)
  let bool (xs : List Bool) : List Nat := xs.map Bool.toNat
  match x.op with
  | .elem op => elem op a (if x.op.readsB then b else a)
  | .elemVs op => elem op a (lit (x.lit 0))
  | .elemVi op => elem op a (lit (x.lit 0))
  | .bcast => elem .mv (lit (x.lit 0)) (lit (x.lit 0))
  | .idx => ((List.range n).map (fun j => wrapInt w ((x.lit 0).toInt + ((i.lo + j : Nat) : Int) * (x.lit 1).toInt)), 0)
  | .cmp op => elementwise (etMp et) 0 i.mask (List.replicate n 0) (a.zip b)
      (fun _ p q _ => let (r, fl) := cmpElem op t p q; (r.toNat, fl))
  | .red op =>
    let (r, fl) := reduce (redStep op t rm) ((b.head?).getD 0) a i.mask
    ((List.range n).map (fun j => if j = 0 then r else 0), fl)
  | .scan inc =>
    let (ys, _, fl) := scanList (redStep .sum t rm) inc ((b.head?).getD 0) (a.zip i.mask)
    ((c.zip ys).map (fun (o, y) => y.getD (if etMp et then 0 else o)), if i.mask.any id then fl else flEMPTY)
  | .slide op => (maskedRow (etMp et) c i.mask (slideElem op a n (x.lit 0) w), 0)
  | .perm op => (maskedRow (etMp et) c i.mask (fun j => some (permElem op a b i.mask n j)), 0)
  | .compress =>
    let xs := compressList a i.mask
    (xs ++ (if etTp et then List.replicate (n - xs.length) 0 else c.drop xs.length), 0)
  | .expand => (expandList (etMp et) a (c.zip i.mask), 0)
  | .cvt =>
    let dst := (x.lit 0).toNat
    let src := (x.lit 1).toNat
    let ys := i.a.map (· % 2 ^ tyWidth src)
    elementwise (etMp et) 0 i.mask (i.c.map (· % 2 ^ tyWidth dst)) (ys.zip ys)
      (fun j v _ _ => cvtElem src dst (if etRm et = 4 then .rsr (draw g (i.lo - i.start + j)) else rm) (etSat et) v)
  | .mask op =>
    let bit (xs : List Nat) : List Bool := (List.range n).map (fun j => (xs[j]?).getD 0 % 2 = 1)
    (bool (maskRow op (bit i.a) (bit i.b)), 0)
  | .load _ | .store _ | .gather | .scatter | .wgather | .amo _ | .fas | .aw _ | .mul _ | .mldc | .mstc | .mzero | .mskip
  | .mprune | .qrd => (List.replicate n 0, 0)

/-- An entry that stands for one element of a matrix stage. -/
def stageEntry (et g : Word) (vl : Nat) : Entry :=
  { instr := .add 0 0 0, raw := none, pc := 0, vl := BitVec.ofNat 32 vl, prog := 0, et := et, aux := g, op0 := 0, op1 := 0,
    op2 := 0, seq := 0, started := false, base := 0, blocks := [] }

/-- A reference or address of element `e`: a direct one advances by the size of its tile (10_matrix.md R319). -/
def refAt (r : Word) (e size : Nat) : Word := if refNode r then r else r + word (e * size)

/-- The size of a sparse tile at a direct reference, from its header (10_matrix.md R298, R319). -/
def sparseSize (r x : Word) : Run Nat := do
  if refNode r then pure 0
  else do
    let h ← theHart
    let bs ← acc 5 0 (loadBytes h.agent r 4)
    let hdr := ofBytes bs
    pure (sparseScale hdr (mulKg x) + (if mulScaled x then 32 * mulKg x else 0))

/-- Element `e` of a matrix stage: one execution of its temporal instruction (10_matrix.md R319). What it reads is read, and what
it stores may be stored, before it stores anything. -/
def matrixElem (x : Stage) (et g : Word) (e : Nat) : Run Unit := do
  let c : BitVec 4 := BitVec.ofNat 4 (x.lit 0).toNat
  let cw := x.lit 3
  match x.op with
  | .mul sp => do
    let dense (t : Ty) : Nat := denseBytes t (mulKg cw) (mulScaled cw)
    let na ← if sp = .a then sparseSize (x.lit 1) cw else pure (dense (mulAty cw))
    let nb ← if sp = .b then sparseSize (x.lit 2) cw else pure (dense (mulBty cw))
    matrixMul (stageEntry et g (mulKg cw)) false sp c (refAt (x.lit 1) e na) (refAt (x.lit 2) e nb) cw
  | .mldc => matrixLoad (stageEntry et g 32) c (x.lit 1 + word (e * 4096))
  | .mstc => do
    let a := x.lit 1 + word (e * 128 * tyWidth (storeDst cw))
    let h ← theHart
    needUnit
    acc 5 0 (mayStore h.agent [(a, 128 * tyWidth (storeDst cw))])
    matrixStore (stageEntry et g 32) c a cw
  | .mzero => matrixZero (stageEntry et g 1) c
  | .mskip => matrixSkip (stageEntry et g 1) (x.lit 1 + word (e * 4 * (bits cw 32 6 + 1))) (x.lit 2 + word (e * 128)) cw
  | .mprune => do
    let hdr := pruneHdr cw
    let kg := pruneKg cw
    let a := x.lit 1 + word (e * sparseScale hdr kg)
    let b := x.lit 2 + word (e * denseBytes (pruneIty cw) kg false)
    let h ← theHart
    needUnit
    let _ ← acc 5 0 (loadBytes h.agent b (denseBytes (pruneIty cw) kg false))
    acc 5 0 (mayStore h.agent [(a, sparseScale hdr kg)])
    matrixPrune (stageEntry et g 9) a b cw
  | _ => pure ()

/-- A stage leaves the accumulators and the skip mask untouched at an element it does not complete
(10_matrix.md R319). -/
def whole (body : Run Unit) : Run Unit := fun s =>
  match body s with
  | .ok _ s' => .ok () s'
  | .error e s' =>
    let h := s.hart
    .error e (s'.setHart { s'.hart with c := h.c, cLive := h.cLive, vstat := h.vstat, skip := h.skip, skipV := h.skipV })

/-- A failing element of a memory stage as a stop. -/
def failStop (src : BitVec 4) (r : Option (Nat × Fail)) : Option Stop :=
  r.map (fun (k, e) => .trap e.code src (some e.addr) e.gpa k)

/-- The window descriptor of a stage, read when it runs (08_gather_fabric.md R247). -/
def stageDesc (a : Word) : Run (Except Stop (Word × Nat)) := fun s =>
  match readWindowDesc a s with
  | .ok d s => .ok (.ok d) s
  | .error e s => .ok (.error e) s

/-- The address of element `e` of a port stage, a gather or a scatter (06_port.md R171; 09_chain.md R264). -/
def stageAddr (x : Stage) (w : Nat) (i : StageIn) (e : Nat) : Option Word :=
  let scaled (xs : List Nat) : Word := x.lit 0 + sextWord w ((xs[e - i.lo]?).getD 0 % 2 ^ w) * word (w / 8)
  let port (f : PortForm) (xs : List Nat) : Word := match f with
    | .unit => unitAddr w (x.lit 0 + x.lit 1) e
    | .strided => strideAddr (x.lit 0) (x.lit 1) e
    | .indexed _ => scaled xs
  match x.op with
  | .load f => some (port f i.a)
  | .store f => some (port f i.b)
  | .gather => some (scaled i.a)
  | .scatter => some (scaled i.b)
  | _ => none

/-- The address of element `e` of a window gather, where its index lies in the window (08_gather_fabric.md R247). -/
def windowAddr (base : Word) (len w : Nat) (i : StageIn) (e : Nat) : Option Word :=
  let j := (i.a[e - i.lo]?).getD 0 % 2 ^ w
  if j < len then some (base + word (j * (w / 8))) else none

/-- A stage of the port engine or the gather fabric, but for the vector atomics (09_chain.md R264): what it sends, and
why it stopped. -/
def memoryStage (x : Stage) (et : Word) (i : StageIn) : Run (List Nat × Option Stop) := do
  let h ← theHart
  let w := etSew et
  let ag := h.agent
  let old := i.mask.zip (i.c.map (· % 2 ^ w))
  let loads (f : Nat → Option Word) : Run (List Nat × Option Stop) := do
    let (xs, r) ← rowUntil (fun e _ => match f e with
      | some a => loadAt ag w a e
      | none => pure 0) (etMp et) i.lo old
    pure (xs, failStop x.op.src r)
  let stores (f : Nat → Word) : Run (List Nat × Option Stop) := do
    let (xs, r) ← rowUntil (fun e v => do storeAt ag w (f e) e v; pure 0) true i.lo (i.mask.zip (i.a.map (· % 2 ^ w)))
    pure (xs, failStop x.op.src r)
  match x.op with
  | .load _ | .gather => loads (stageAddr x w i)
  | .store _ | .scatter => stores (fun e => (stageAddr x w i e).getD 0)
  | .wgather => do
    match ← stageDesc (x.lit 0) with
    | .error st => pure ([], some st)
    | .ok (base, len) => loads (windowAddr base len w i)
  | .fas => do
    let xs := i.a.map (· % 2 ^ w)
    let total := ((xs.zip i.mask).map (fun (v, b) => if b then v else 0)).sum
    match ← tryRun (do aligned (x.lit 0) (w / 8); rmwElem ag (x.lit 0) (w / 8) (fun o => some ((o + total) % 2 ^ w))) with
    | .error e => pure ([], failStop 3 (some (0, e)))
    | .ok o =>
      let (ys, _, _) := scanList (fun p v => ((p + v) % 2 ^ w, 0)) false o (xs.zip i.mask)
      pure ((i.c.zip ys).map (fun (c, y) => y.getD (if etMp et then 0 else c % 2 ^ w)), none)
  | .aw op => do
    let k : BitVec 3 := BitVec.ofNat 3 (x.lit 0).toNat
    let win := h.window k
    if !win.isOpen || win.typ.toNat != etTy et || !(win.op == 0 || win.op == windowCode op) then
      pure ([], some (.trap eOperand 3 none 0 0))
    else do
      let rows := (i.mask.zip (i.a.zip i.b)).zipIdx
      let bad := rows.find? (fun ((b, _, v), _) => b && win.words ≤ v % 2 ^ w)
      let n := (bad.map (·.2)).getD rows.length
      let (win', fl) := (rows.take n).foldl (fun (win, fl) ((b, v, j), n) =>
        if b then let (win, fl') := win.update (redStep op (etTy et) (rmOf (etRm et)))
                    (4096 * ((i.lo - i.start + n) % 16) + j % 2 ^ w) (v % 2 ^ w); (win, fl ||| fl')
        else (win, fl)) (win, (0 : Fl))
      modHart fun h => (h.modWindow k fun _ => { win' with op := windowCode op }).flag fl
      pure (List.replicate n 0, bad.map (fun _ => .trap eOperand 3 none 0 n))
  | _ => pure (List.replicate i.c.length 0, none)

/-- A vector-atomic stage (08_gather_fabric.md R252; 09_chain.md R264). -/
def amoStage (op : RedOp) (x : Stage) (et : Word) (i : StageIn) : Run (List Nat × Option Stop) := do
  let h ← theHart
  let w := etSew et
  match ← stageDesc (x.lit 0) with
  | .error st => pure ([], some st)
  | .ok (base, len) => do
    let rows := ((i.mask.zip (i.a.zip i.b)).zipIdx).map (fun ((b, v, j), n) => (n, b, v % 2 ^ w, j % 2 ^ w))
    let check (e : Nat) : Acc Unit := do
      let j := (rows[e]?).map (·.2.2.2) |>.getD 0
      if len ≤ j then throw ⟨eOperand, h.faddr, 0⟩
      else do
        aligned (base + word (j * (w / 8))) (w / 8)
        checkRead h.agent .probeAtomic (base + word (j * (w / 8))) (w / 8)
    let bad ← probeUntil check 0 i.mask
    let n := (bad.map (·.1)).getD rows.length
    let f := redStep op (etTy et) (rmOf (etRm et))
    let live := (rows.take n).filterMap (fun (k, b, v, j) =>
      if b then some ((i.lo - i.start + k) / 8, base + word (j * (w / 8)), v) else none)
    ((live.map (·.1)).dedup).forM fun g =>
      (groupUpdates f ((live.filter (·.1 == g)).map (·.2))).forM fun (a, v, fl) => do
        let fl' ← acc 3 n (vectorRmw h.agent (w / 8) f a v)
        modHart fun h => h.flag (fl ||| fl')
    pure (List.replicate n 0, failStop 3 bad)

/-- The draws that an element of a stage takes under an et: none where it does not round stochastically, and 1,024 for a tile
(03_arithmetic.md R86 to R88; 09_chain.md R268; log 19). -/
def Stage.draws (x : Stage) (et : Word) : Nat :=
  if etRm et ≠ 4 then 0
  else match x.op with
    | .cvt => if cvtStochastic (x.lit 1).toNat (x.lit 0).toNat then 1 else 0
    | .mstc => if cvtStochastic (storeSrc (x.lit 3)) (storeDst (x.lit 3)) then 1024 else 0
    | _ => 0

/-- The generator value of a stage in the strip at `start` (09_chain.md R268). -/
def stageG (ch : Chain) (st : List Stage) (slot start len : Nat) : Word :=
  let n := (st.map (·.draws ch.et)).sum
  let j := ((st.take slot).map (·.draws ch.et)).sum
  ch.g0 + word (start * n + len * j) * rngStep

/-! ### Queues and edges -/

/-- The edge into a port of a slot. -/
def Chain.edgeTo (ch : Chain) (slot port : Nat) : Option Edge :=
  ch.edges.find? (fun e => e.consumer = slot && e.port.toNat = port)

/-- P of a slot. -/
def Chain.pOf (ch : Chain) (slot : Nat) : Nat := (ch.p[slot]?).getD 0

/-- Queue `x` of the hart. -/
def Chain.queue (ch : Chain) (x : Nat) : List Word := (ch.q[x]?).getD []

/-- Whether a stage still holds elements for a full out-queue (09_chain.md R266, R283). -/
def Chain.holdsBack (ch : Chain) (slot : Nat) : Bool := ch.edges.any (fun e => e.port == 6 && e.producer == slot)

/-- What the stages have sent to out-queues enters them in order, as far as they have room (09_chain.md R266, R283). -/
def Chain.flow (ch : Chain) : Chain :=
  ch.edges.foldl (fun ch e =>
    if e.port = 6 then
      let n := 512 - (ch.queue e.consumer).length
      let rest := e.elems.drop n
      { ch with q := modAt ch.q e.consumer (· ++ e.elems.take n),
                edges := ch.edges ++ (if rest.isEmpty then [] else [{ e with first := e.first + n, elems := rest }]) }
    else { ch with edges := ch.edges ++ [e] }) { ch with edges := [] }

/-- Sending elements to the consumers of a stage, and taking the inputs of what it has done (09_chain.md R265, R283). -/
def Chain.passOn (ch : Chain) (x : Stage) (slot : Nat) (outs : List Nat) : Chain :=
  let n := outs.length
  let edges := ch.edges.map (fun (e : Edge) =>
    let e := if e.consumer = slot && e.port != 6 then { e with first := e.first + n, elems := e.elems.drop n } else e
    if e.producer = slot && e.port != 6 then { e with elems := e.elems ++ outs.map word } else e)
  let sent := if n = 0 then [] else (x.outs.filter (fun o => o.1 = 6)).map (fun o =>
    (⟨false, BitVec.ofNat 7 (sendWidth ch.et x), slot, o.2, 6, ch.pOf slot, 0, outs.map word⟩ : Edge))
  let q := match x.op with
    | .qrd => modAt ch.q (x.lit 0).toNat (·.drop n)
    | _ => ch.q
  ({ ch with q := q, edges := edges ++ sent, p := ch.p.zipIdx.map (fun (p, j) => if j = slot then p + n else p) } : Chain).flow

/-- Where the inputs of a stage end, in a strip that ends at `hi` (09_chain.md R265, R283, R285). -/
def Chain.supply (ch : Chain) (x : Stage) (slot hi : Nat) : Nat :=
  let ins := ((List.range 4).filterMap (ch.edgeTo slot)).map (fun e => e.first + e.elems.length)
  let own := match x.op with
    | .qrd => [ch.pOf slot + (ch.queue (x.lit 0).toNat).length]
    | _ => []
  (ins ++ own).foldl min hi

/-- Whether the tokens of a stage have come for its elements below `top` (04_memory_model.md R130; 02_encoding.md R66;
09_chain.md R270). -/
def Chain.tokens (ch : Chain) (st : List Stage) (slot top hi : Nat) : Bool :=
  (producers st 4 slot).all (fun p => top ≤ ch.pOf p) && (producers st 5 slot).all (fun p => hi ≤ ch.pOf p)

/-- The elements of a lane row of a stage (09_chain.md R270), as the run formed last: a cross-element stage works a strip at once
(R266), a matrix stage one tile (10_matrix.md R320), and the lane row of a `qrd` stage is no longer than its queue (log 37). -/
def Chain.rowOf (ch : Chain) (slot : Nat) : Nat :=
  let row := max 1 (((ch.plan.find? (fun c => c.2.contains slot)).map (·.1)).getD 8)
  match (chainStages ch.words)[slot]? with
  | some x => if x.op.cross then max 1 ch.l else if x.op.matrix then 1 else if x.op = .qrd then min 512 row else row
  | none => row

/-- The strip that a stage stands in: with one convoy strips follow one another without a gap, and with more every stage is in the
strip of the lowest P (09_chain.md R270). -/
def Chain.stripOf (ch : Chain) (slot : Nat) : Nat × Nat :=
  let p := if ch.state = .standing ∧ ch.plan.length = 1 then ch.pOf slot else ch.minP
  let start := p / max 1 ch.l * ch.l
  (start, min ch.n (start + ch.l))

/-- The end of the lane row, counted from its strip's start, that a stage starts next (09_chain.md R266, R270). -/
def Chain.rowEnd (ch : Chain) (slot start hi : Nat) : Nat :=
  let row := ch.rowOf slot
  min hi (start + ((ch.pOf slot - start) / row + 1) * row)

/-- Whether a stage of a standing run may start its elements below `top`: its inputs and tokens have come, and its queues have
room for what it sends (09_chain.md R270, R273). A cross-element stage sends its strip as the queues take it (R266), and starts
the next one when all of it has gone: what an edge holds above its depth stands in the stage. -/
def Chain.ready (ch : Chain) (st : List Stage) (x : Stage) (slot top hi : Nat) : Bool :=
  ch.pOf slot < top && top ≤ ch.supply x slot top && ch.tokens st slot top hi && !ch.holdsBack slot &&
  ch.edges.all (fun e => e.producer != slot || e.strip || e.port == 6 ||
    e.elems.length + (if x.op.cross then 0 else top - ch.pOf slot) ≤ 8 * e.depth)

/-- Whether a form has a mask field; the others are unmasked (02_encoding.md R51, R66). -/
def maskedMajor (maj : Nat) : Bool := maj != 33 && maj != 34 && maj != 39 && maj != 46

/-- What stands before a stage, from its P up to `top` in the strip from `start` to `hi`. -/
def Chain.inputs (ch : Chain) (slot start hi top : Nat) : StageIn :=
  let n := top - ch.pOf slot
  let input (port : Nat) (dflt : Nat) : List Nat := match ch.edgeTo slot port with
    | some e => (e.elems.take n).map BitVec.toNat
    | none => List.replicate n dflt
  ⟨ch.pOf slot, start, hi - start, input 0 0, input 1 0, input 2 0,
    if maskedMajor (swMaj (stageWord ch.words slot)) then (input 3 1).map (fun b => b % 2 = 1) else List.replicate n true⟩

/-! ### The contract -/

/-- A broken contract: a run that breaks it at the stage and in the lane row with which it re-formed is pinned
(09_chain.md R288). -/
def State.contractBreak (s : State) (stage : BitVec 6) : State :=
  let h := s.hart
  let ch := h.chain
  let again := ch.cause = 4 && ch.slot = stage && ch.reformed && ch.pOf stage.toNat < ch.formedAt + ch.rowOf stage.toNat
  let h := h.breakChain 4 stage
  s.setHart (if again then { h with chain := { h.chain with pin := true } } else h)

/-- The bytes that elements of `n` bytes reach, with their addresses: none where an element fails, which then is a fault of the
stage (09_chain.md R284). -/
def State.elemsReach (s : State) (acc : Access) (n : Nat) (as : List Word) : Option (List (Word × List Nat)) :=
  as.mapM (fun a => match tryAcc (do aligned a n; locate s.hart.agent acc a n) s with
    | (.ok ls, _) => some (a, ls)
    | (.error _, _) => none)

/-- Whether accesses of elements of `n` bytes keep the contract (04_memory_model.md R102; 09_chain.md R274): every byte lies
where a stage may reach, and a lane row of a port stage with a latency class costs 1 at most. -/
def State.rowKeeps (s : State) (classed : Bool) (acc : Access) (n : Nat) (as : List Word) : Bool :=
  match s.elemsReach acc n as with
  | none => true
  | some xs =>
    let locs := xs.flatMap (·.2)
    !(xs.any (fun (a, ls) => ls.any (s.offContract s.hart a))) &&
      (!classed || rowCost locs ≤ 1)

/-- The runs of bytes that element `e` of a matrix stage reaches by address (10_matrix.md R319). -/
def State.matrixSpans (s : State) (x : Stage) (e : Nat) : List (Word × Nat) :=
  let cw := x.lit 3
  let operand (r : Word) (t : Ty) (sparse : Bool) : List (Word × Nat) :=
    let n := if sparse then (match sparseSize r cw s with
        | .ok n _ => n
        | .error _ _ => 0)
      else denseBytes t (mulKg cw) (mulScaled cw)
    if refNode r then [] else [(refAt r e n, n)]
  match x.op with
  | .mul sp => operand (x.lit 1) (mulAty cw) (sp = .a) ++ operand (x.lit 2) (mulBty cw) (sp = .b)
  | .mldc => [(x.lit 1 + word (e * 4096), 4096)]
  | .mstc => [(x.lit 1 + word (e * 128 * tyWidth (storeDst cw)), 128 * tyWidth (storeDst cw))]
  | .mskip => [(x.lit 1 + word (e * 4 * (bits cw 32 6 + 1)), 4 * (bits cw 32 6 + 1)), (x.lit 2 + word (e * 128), 128)]
  | .mprune =>
    let n := sparseScale (pruneHdr cw) (pruneKg cw)
    let k := denseBytes (pruneIty cw) (pruneKg cw) false
    [(x.lit 1 + word (e * n), n), (x.lit 2 + word (e * k), k)]
  | _ => []

/-- A byte of each page that a run of bytes lies in. -/
def spanPages (a : Word) (n : Nat) : List Word :=
  (List.range (n / 0x2000 + 1)).map (fun k => a + word (0x2000 * k)) ++ (if n = 0 then [] else [a + word (n - 1)])

/-- Twice the unit clocks of a K-group (10_matrix.md R294). -/
def classClocks (cls : Option Nat) : Nat := match cls with
  | some 2 => 1
  | some 3 | some 4 => 4
  | _ => 2

/-- The cycles that a multiply of a sparse tile occupies `u` units (10_matrix.md R304), from its header; the skip mask is no
part of it (log 37). -/
def sparseOcc (hdr kg u : Nat) : Nat :=
  let q := (max (4 * kg * hdrN hdr) (kg * hdrM hdr) * classClocks (mulClass (hdrVfmt hdr)) + 8 * hdrM hdr - 1) / (8 * hdrM hdr)
  (q + u - 1) / max 1 u

/-- The header of the sparse tile that element `e` of a multiply stage takes, where it is there to be read. -/
def State.tileHeader (s : State) (x : Stage) (e : Nat) : Option Nat :=
  let cw := x.lit 3
  let h := s.hart
  let at_ (r other : Word) (second : Bool) : Option Nat :=
    let n := match sparseSize r cw s with
      | .ok n _ => n
      | .error _ _ => 0
    match refBase h (refAt r e n) (if second && refNode r && refNode other && refNum r == refNum other then 1 else 0) with
    | none => none
    | some a => match tryAcc (loadBytes h.agent a 4) s with
      | (.ok bs, _) => some (ofBytes bs)
      | (.error _, _) => none
  match x.op with
  | .mul .a => at_ (x.lit 1) (x.lit 2) false
  | .mul .b => at_ (x.lit 2) (x.lit 1) true
  | _ => none

/-- VAR of a block (02_encoding.md R64). -/
def blockVar (ws : List (BitVec 32)) : Bool := (blockWord ws 0).getLsbD 16

/-- The units that a matrix stage of a standing run has: its share of its convoy's, of those that the hart held when the run formed
(10_matrix.md R320). -/
def Hart.stageUnits (h : Hart) (slot : Nat) : Nat :=
  let c := (matrixSlots h.chain.words (((h.chain.plan.find? (fun c => c.2.contains slot)).map (·.2)).getD [])).length
  (heldUnits h.chain.units).length / max 1 c

/-- The occupancy of the tile that element `e` of a multiply stage of a VAR = 0 chain takes (10_matrix.md R304, R320). -/
def State.stageOcc (s : State) (x : Stage) (slot e : Nat) : Option Nat :=
  if blockVar s.hart.chain.words then none
  else (s.tileHeader x e).map (fun hdr => sparseOcc hdr (mulKg (x.lit 3)) (s.hart.stageUnits slot))

/-- Whether element `e` of a matrix stage of a standing run breaks the contract: by what it reaches, or by a tile of another
occupancy than the first since the chain formed (04_memory_model.md R102; 10_matrix.md R320). -/
def State.tileBreaks (s : State) (x : Stage) (slot e : Nat) : Bool :=
  !s.rowKeeps false .load 1 ((s.matrixSpans x e).flatMap (fun (a, n) => spanPages a n)) ||
  (match s.stageOcc x slot e, s.hart.chain.occs.lookup slot with
   | some n, some m => n != m
   | _, _ => false)

/-- The occupancies with which multiply stages have formed, once element `e` of this one is done (10_matrix.md R320). -/
def State.occsWith (s : State) (x : Stage) (slot e : Nat) : List (Nat × Nat) :=
  let occs := s.hart.chain.occs
  match s.stageOcc x slot e, occs.lookup slot with
  | some n, none => (slot, n) :: occs
  | _, _ => occs

/-- The addresses of the active elements before a port stage. -/
def StageIn.live (i : StageIn) (addr : Nat → Option Word) : List Word :=
  i.mask.zipIdx.filterMap (fun (b, k) => if b then addr (i.lo + k) else none)

/-- Whether the lane row before an indexed stage reaches a level without a latency class: the stage is a memory wait from then on
(09_chain.md R272; log 20). -/
def State.leavesClass (s : State) (x : Stage) (et : Word) (i : StageIn) : Bool :=
  x.op.indexed && (i.live (stageAddr x (etSew et) i)).any (fun a =>
    ((s.stageLoc x a).map (fun l => (levelLatency s.hart.core l).isNone)).getD false)

/-- Whether the elements before a stage of a standing run break the contract (04_memory_model.md R102; 09_chain.md R274): for a
matrix stage, the first of them. Banks that other harts hold are the event's (log 37). -/
def State.rowBreaks (s : State) (x : Stage) (slot : Nat) (et : Word) (i : StageIn) : Bool :=
  let w := etSew et
  let n := max 1 (w / 8)
  let keeps (classed : Bool) (as : List Word) : Bool := s.rowKeeps classed x.access n as
  let live := i.live
  let desc : Bool := s.rowKeeps false .load 8 [x.lit 0, x.lit 0 + 8]
  let inWindow (xs : List Nat) : List Word := match readWindowDesc (x.lit 0) s with
    | .ok (base, len) _ => live (windowAddr base len w { i with a := xs })
    | .error _ _ => []
  match x.op with
  | .load _ | .store _ => !keeps (s.hart.chain.classed.contains slot && !s.leavesClass x et i) (live (stageAddr x w i))
  | .gather | .scatter => !keeps false (live (stageAddr x w i))
  | .wgather => !(desc && keeps false (inWindow i.a))
  | .amo _ => !(desc && keeps false (inWindow i.b))
  | .fas => !keeps false [x.lit 0]
  | .mul _ | .mldc | .mstc | .mskip | .mprune => s.tileBreaks x slot i.lo
  | _ => false

/-! ### Running a stage -/

/-- Elements of a matrix stage from `e` on until one stops: how many were done, why it stopped, and whether one of a standing run
broke the contract (10_matrix.md R319, R320). -/
def matrixRow (x : Stage) (slot : Nat) (et : Word) (g : Nat → Word) (standing : Bool) : Nat → Nat → Run (Nat × Option Stop × Bool)
  | _, 0 => pure (0, none, false)
  | e, n + 1 => do
    let s ← get
    if standing && s.tileBreaks x slot e then pure (0, none, true)
    else do
      let r : Option Stop ← fun s => match whole (matrixElem x et (g e) e) s with
        | .ok _ s => .ok none s
        | .error st s => .ok (some st) s
      match r with
      | some st => pure (0, some st, false)
      | none => do
        if standing then modHart fun h => { h with chain := { h.chain with occs := s.occsWith x slot e } }
        let (k, st, broke) ← matrixRow x slot et g standing (e + 1) n
        pure (k + 1, st, broke)

/-- A stage over its elements up to `top` (09_chain.md R264; 10_matrix.md R319): whether it moved, why it stopped, and whether a
tile broke the contract. What it sends has gone to its consumers. -/
def runStage (x : Stage) (slot start hi top : Nat) (standing : Bool) : Run (Bool × Option Stop × Bool) := do
  let h ← theHart
  let ch := h.chain
  let i := ch.inputs slot start hi top
  let g := stageG ch (chainStages ch.words) slot start (hi - start)
  let n := top - i.lo
  let (outs, stop, broke) ← working (match x.op with
    | .qrd => pure (((ch.queue (x.lit 0).toNat).take n).map BitVec.toNat, none, false)
    | .amo op => do
      let (outs, stop) ← amoStage op x ch.et i
      pure (outs, stop, false)
    | .load _ | .store _ | .gather | .scatter | .wgather | .fas | .aw _ => do
      let (outs, stop) ← memoryStage x ch.et i
      pure (outs, stop, false)
    | .mul _ | .mldc | .mstc | .mzero | .mskip | .mprune => do
      let (k, stop, broke) ← matrixRow x slot ch.et (fun e => g + word ((e - start) * x.draws ch.et) * rngStep) standing i.lo n
      pure (List.replicate k 0, stop, broke)
    | .elem _ | .elemVs _ | .elemVi _ | .bcast | .idx | .cmp _ | .red _ | .scan _ | .slide _ | .perm _ | .compress
    | .expand | .cvt | .mask _ =>
      let (outs, fl) := laneStage x ch.et g i
      fun s => .ok (outs, none, false) (s.setHart (s.hart.flag fl)))
  modHart fun h => { h with chain := h.chain.passOn x slot outs }
  pure (!outs.isEmpty, stop, broke)

/-- A stage fault (09_chain.md R284, R286): a standing run breaks with cause 1, and so does one that another cause has broken in
the same lane row of the stage, where the two make one break (R292; 14_link.md R410). -/
def Hart.stageFault (h : Hart) (slot : Nat) : Hart :=
  let ch := h.chain
  let row := ch.rowOf slot
  let at_ := (ch.brokeAt[slot]?).getD 0
  let start := at_ / max 1 ch.l * ch.l
  let from_ := start + (at_ - start) / row * row
  if ch.state = .temporal && (ch.cause = 3 || ch.cause = 4 || ch.cause = 6 || ch.cause = 7) && !ch.brokeAt.isEmpty &&
      from_ ≤ ch.pOf slot && ch.pOf slot < from_ + row then
    { h with chain := { ch with cause := 1, slot := BitVec.ofNat 6 slot } }
  else h.breakChain 1 (BitVec.ofNat 6 slot)

/-- A stage fault as an engine trap on the run, at the lowest P (09_chain.md R286). -/
def stageTrap (slot : Nat) (st : Stop) : Run Bool := do
  modHart (·.stageFault slot)
  let h ← theHart
  match st with
  | .trap code src addr gpa _ => throw (.trap code src addr gpa h.chain.minP)
  | .wait => pure false

/-- An operand fault of a standing run: it is HELD, and a record is posted (09_chain.md R291; 10_matrix.md R317, R319). A direct
reference has no node, tile number or counters, and D0 to D2 are then 0, also for `E_HPAGE` (DESIGN CHOICE, log 70). -/
def State.holdChain (s : State) (code : BitVec 8) (addr : Word) : State :=
  let h := s.hart
  let s := s.setHart { h with chain := { h.chain with state := .held, heldBy := some (if code = eHpage then 0 else h.fn) } }
  s.post (mkRecord (if code = eHpage then 0 else h.fn) h.seq h.part 3 5 code 2 (BitVec.ofNat 4 (s.cur.val / 4)) h.index
    h.pc addr 0 0 0 0)

/-- Whether a multiply stage consumes from a HELD node (10_matrix.md R317). -/
def Hart.heldNode (h : Hart) (x : Stage) : Bool :=
  match x.op with
  | .mul _ => [x.lit 1, x.lit 2].any (fun r => refNode r && (h.onode (refNum r)).state == .held)
  | _ => false

/-- A stage of a standing run that stands ready for a lane row, with its strip and the row's end. -/
def State.nextRow (s : State) (slot : Nat) : Option (Stage × Nat × Nat × Nat) :=
  let ch := s.hart.chain
  let st := chainStages ch.words
  match st[slot]? with
  | none => none
  | some x =>
    let (start, hi) := ch.stripOf slot
    let top := ch.rowEnd slot start hi
    if ch.ready st x slot top hi then some (x, start, hi, top) else none

/-- The first of some stages whose next lane row stands ready and breaks the contract. -/
def State.firstBreak (s : State) (slots : List Nat) : Option Nat :=
  slots.find? (fun slot => match s.nextRow slot with
    | some (x, start, hi, top) => s.rowBreaks x slot s.hart.chain.et (s.hart.chain.inputs slot start hi top)
    | none => false)

/-- A run that an operand fault holds, unless one of the stages that follow breaks the contract in that lane row (09_chain.md
R292). -/
def State.holdUnless (s : State) (rest : List Nat) (hold : State → State) : State :=
  match s.firstBreak rest with
  | some other => s.contractBreak (BitVec.ofNat 6 other)
  | none => hold s

/-- The stages of a convoy in slot order, each by one lane row (09_chain.md R270, R274, R284, R286, R291, R292): a stage that
breaks the contract breaks the run before its row; one that cannot complete an element breaks the run and traps; an operand fault
of a matrix stage holds the run in place, unless a stage breaks the contract in that lane row. -/
def runConvoy : List Nat → Run Bool
  | [] => pure false
  | slot :: rest => do
    let s ← get
    match s.nextRow slot with
    | none => runConvoy rest
    | some (x, start, hi, top) =>
      if s.rowBreaks x slot s.hart.chain.et (s.hart.chain.inputs slot start hi top) then
        fun s => .ok true (s.contractBreak (BitVec.ofNat 6 slot))
      else do
        if s.leavesClass x s.hart.chain.et (s.hart.chain.inputs slot start hi top) then
          modHart fun h => { h with chain := { h.chain with classed := h.chain.classed.filter (· != slot) } }
        let (moved, stop, broke) ← runStage x slot start hi top true
        match stop with
        | some (.trap code src addr gpa ei) =>
          if src = 5 && (code = ePage || code = eHpage) then
            fun s => .ok true (s.holdUnless rest (·.holdChain code (addr.getD 0)))
          else stageTrap slot (.trap code src addr gpa ei)
        | some .wait => do
          let h ← theHart
          if h.heldNode x then
            fun s => .ok true (s.holdUnless rest (fun s =>
              s.setHart { s.hart with chain := { s.hart.chain with state := .held, heldBy := none } }))
          else do
            let more ← runConvoy rest
            pure (moved || more)
        | none =>
          if broke then fun s => .ok true (s.contractBreak (BitVec.ofNat 6 slot))
          else do
            let more ← runConvoy rest
            pure (moved || more)

/-- Where a stage of a run in TEMPORAL may go in a strip: as far as its inputs reach, and a `qrd` stage by whole lane rows
(13_context.md R377; log 37). -/
def Chain.temporalEnd (ch : Chain) (x : Stage) (slot start hi : Nat) : Nat :=
  let top := ch.supply x slot hi
  if x.op = .qrd ∧ top < hi then start + (top - start) / ch.rowOf slot * ch.rowOf slot else top

/-- The stage of a run in TEMPORAL that has the strip: the first in slot order that has not finished it, as far as its inputs
reach (09_chain.md R285). A cross-element stage whose P a written ei has raised into the strip (R287) runs from there on what is
left, since its inputs below are gone (DESIGN CHOICE, log 70). -/
def runTemporal (start hi : Nat) : Run Bool := do
  let h ← theHart
  let ch := h.chain
  let st := chainStages ch.words
  match (List.range st.length).find? (fun slot => ch.pOf slot < hi) with
  | none => pure false
  | some slot => match st[slot]? with
    | none => pure false
    | some x =>
      let top := ch.temporalEnd x slot start hi
      if ch.holdsBack slot || top ≤ ch.pOf slot || (x.op.cross && top < hi) then pure false
      else do
        let (moved, stop, _) ← runStage x slot start hi top false
        match stop with
        | some (.trap code src addr gpa ei) => stageTrap slot (.trap code src addr gpa ei)
        | some .wait | none => pure moved

/-- Whether the cause of the last break has cleared at a strip boundary (09_chain.md R288). -/
def State.causeCleared (s : State) : Bool :=
  let h := s.hart
  h.chain.cause != 7 || (h.chain.links &&& ~~~s.laneUp) == 0

/-- A run in TEMPORAL re-forms at a strip boundary that meets the conditions of R288 (09_chain.md R288, R292). -/
def State.reformHere (s : State) : State :=
  let ch := s.hart.chain
  let p := ch.minP
  if ch.state = .temporal && ch.p.all (· == p) && p % max 1 ch.l = 0 && p < ch.n && ch.notBefore ≤ p && !ch.pin && s.causeCleared
  then s.formChain true else s

/-- A run moves on (09_chain.md R264, R270, R285, R287, R288): a standing one by at most a lane row of each stage of the first
convoy that has not finished the strip, or of its one convoy, and one in TEMPORAL by a stage. It answers whether anything
moved. -/
def advanceRun : Run Bool := do
  let before ← theHart
  modHart fun h => { h with chain := h.chain.flow }
  fun s => .ok () s.reformHere
  let h ← theHart
  let ch := h.chain
  let flowed := !(before.chain.q == ch.q)
  if ch.state = .held || ch.n ≤ ch.minP then pure flowed
  else do
    let start := ch.minP / max 1 ch.l * ch.l
    let hi := min ch.n (start + ch.l)
    let moved ← if ch.state = .standing then
        runConvoy (((ch.plan.map (·.2)).find? (fun cur => cur.any (fun slot => ch.pOf slot < if ch.plan.length = 1 then ch.n else hi))).getD [])
      else runTemporal start hi
    pure (moved || flowed)

/-! ### Instructions -/

/-- The words of a block; a word that cannot be read is reported by its index (09_chain.md R276). -/
def readChain (a : Word) : Run (List (BitVec 32)) := do
  let h ← theHart
  let get (i : Nat) : Run (BitVec 32) := do
    let x ← acc 4 i (loadElem h.agent (a + word (4 * i)) 4)
    pure (BitVec.ofNat 32 x)
  let hd ← get 0
  let n := blockS [hd] + 2 * blockL [hd]
  let rest ← (List.range n).mapM fun i => get (i + 1)
  pure (hd :: rest)

/-- `chfree`'s release (09_chain.md R281). -/
def Hart.releaseChain (h : Hart) : Hart := { h with chain := .reset }

/-- Releasing the chain passes the reconfiguration token, a fence at core scope: every earlier entry of the PIQ and the MIQ has
finished (04_memory_model.md R132; 09_chain.md R276, R281). In state NONE there is nothing to release, and nothing waits. -/
def chainRelease (e : Entry) : Run Unit := do
  let h ← theHart
  if h.chain.state = .none then pure ()
  else do
    waitUnless ((h.piq ++ h.miq).all (fun f => e.seq < f.seq))
    modHart (·.releaseChain)

/-- `chform` (09_chain.md R276; 02_encoding.md R68; 04_memory_model.md R119). -/
def chainForm (e : Entry) (a : Word) : Run Unit :=
  if e.skipped then pure ()
  else if a.toNat % 4 ≠ 0 then trapAt 4 eAlign (some a) 0
  else do
    chainRelease e
    let ws ← readChain a
    match chainBad ws with
    | some i => trapAt 4 eIllegal none i
    | none => modHart fun h =>
        let (h, sc) := h.clampScope (BitVec.ofNat 3 (blockScope ws))
        { h with chain := { Chain.reset with state := .idle, words := ws, p := List.replicate (blockS ws) 0, scope := sc } }

/-- The checks of a stage's engine under the captured et (09_chain.md R277). -/
def stageCheck (x : Stage) (et : Word) (l : Nat) : Run Unit := do
  let t := etTy et
  let ok (b : Bool) : Run Unit := if b then pure () else operandTrap x.op.src
  match x.op with
  | .elem op | .elemVs op => ok (op.accepts t)
  | .elemVi op => ok (op.accepts t && classI t)
  | .idx => ok (classI t)
  | .cmp _ | .scan _ => ok (classI t || classF t)
  | .red op => ok (op.accepts t)
  | .perm .conflict => ok (l ≤ 2 ^ etSew et)
  | .bcast | .slide _ | .perm _ | .compress | .expand | .mask _ | .qrd => pure ()
  | .cvt =>
    let dst := (x.lit 0).toNat
    let src := (x.lit 1).toNat
    ok (cvtOk src dst && etSew et == max (tyWidth src) (tyWidth dst))
  | .load f | .store f => match f with
    | .unit => pure ()
    | .strided | .indexed _ => ok (etSew et != 4)
  | .gather | .scatter | .aw _ => ok (etSew et != 4)
  | .wgather => do
    ok (etSew et != 4)
    let _ ← readWindowDesc (x.lit 0)
  | .amo _ => do
    ok (etSew et != 4 && (classI t || classF t))
    let _ ← readWindowDesc (x.lit 0)
  | .fas => do
    ok (classI t && 32 ≤ etSew et)
    if (x.lit 0).toNat % (etSew et / 8) ≠ 0 then trapAt 3 eAlign (some (x.lit 0)) 0
  | .mul sp => do
    haveUnit
    mulChecks sp (x.lit 1) (x.lit 2) (x.lit 3)
  | .mldc => do
    haveUnit
    matrixAlign (x.lit 1) 32
  | .mstc => do
    haveUnit
    ok (storeOk (x.lit 3))
    matrixAlign (x.lit 1) 32
  | .mzero => haveUnit
  | .mskip => do
    haveUnit
    ok (bits (x.lit 3) 38 26 = 0)
    matrixAlign (x.lit 1) 4
    matrixAlign (x.lit 2) 4
  | .mprune => do
    haveUnit
    ok (pruneOk (x.lit 3))
    matrixAlign (x.lit 1) 32
    matrixAlign (x.lit 2) 32

/-- The checks of `chrun` (09_chain.md R277); every failure gives ei 0. -/
def chainChecks (e : Entry) (n : Word) : Run Unit := fun s =>
  let body : Run Unit := do
    let h ← theHart
    if h.chain.state = .none ∨ 2 ^ 48 ≤ n.toNat ∨ (n ≠ 0 ∧ e.vl = 0) then operandTrap 4
    else do
      let st := chainStages h.chain.words
      st.forM fun x => stageCheck x e.et e.n
      if st.any (fun x => x.op.src = 1) && bits h.grant 0 5 = 0 then trapAt 4 eLease none 0
  match body s with
  | .ok _ s => .ok () s
  | .error (.trap code src addr gpa _) s => .error (.trap code src addr gpa 0) s
  | .error .wait s => .error .wait s

/-- `chrun` taken up: its checks, and the run attached; answers whether a run is attached (09_chain.md R277). A run held
by a trap is discarded (R278). -/
def chainStart (e : Entry) (n : Word) : Run Bool :=
  if e.skipped then pure false
  else do
    chainChecks e n
    if n = 0 then do
      modHart fun h => { h with chain := { h.chain with state := .idle, edges := [], lent := [], links := 0 } }
      pure false
    else do
      modHart fun h =>
        { h with chain := { h.chain with n := n.toNat, l := e.n, et := e.et, g0 := e.aux,
                                         p := List.replicate (blockS h.chain.words) 0, edges := [], pin := false, ran := true,
                                         plan := [], reformed := false, notBefore := 0, brokeAt := [], occs := [] },
                 viq := modHead (fun e => { e with started := true }) h.viq }
      fun s => .ok () (s.formChain false)
      pure true

/-- `chbreak` (09_chain.md R280). -/
def chainBreak (e : Entry) : Run Unit :=
  if e.skipped then pure ()
  else modHart fun h => match h.chain.state with
    | .standing | .held => let h := h.breakChain 6 0; { h with chain := { h.chain with pin := true } }
    | .temporal => { h with chain := { h.chain with pin := true } }
    | .none | .idle => h

/-- The code of a chain's state (09_chain.md R282). -/
def ChainState.num : ChainState → Nat
  | .none => 0
  | .idle => 1
  | .standing => 2
  | .temporal => 3
  | .held => 4

/-- The status word (09_chain.md R282). CONVOYS has 6 bits, and 64 convoys read as 0 (DESIGN CHOICE, log 70). -/
def Chain.status (ch : Chain) : Word :=
  word (min 65535 ch.breaks * 2 ^ 48 + min 65535 ch.reforms * 2 ^ 32 + ch.cause.toNat * 2 ^ 28 + ch.slot.toNat * 2 ^ 22 +
    ch.convoys % 64 * 2 ^ 16 + ch.pin.toNat * 2 ^ 15 + ch.state.num)

/-- A scalar result of the chain sequencer; an entry that a written ei has completed gives 0. -/
def chainSrq (e : Entry) (bad : Chain → Bool) (f : Chain → Word) : Run Unit :=
  if e.skipped then pushSrq 1 0
  else do
    let h ← theHart
    if bad h.chain then operandTrap 4 else pushSrq 1 (f h.chain)

/-- `chstat` (09_chain.md R282). -/
def chainStat (e : Entry) : Run Unit := chainSrq e (fun _ => false) Chain.status

/-- `chidx` (09_chain.md R282). -/
def chainIdx (e : Entry) (a : Word) : Run Unit :=
  chainSrq e (fun ch => ch.state = .none || ch.p.length ≤ a.toNat) (fun ch => word (ch.pOf a.toNat))

/-- Whether a queue is an out-queue (09_chain.md R283). -/
def Chain.outQueue (ch : Chain) (x : Nat) : Bool := (chainStages ch.words).any (fun s => s.outs.contains (6, x))

/-- Whether a queue is an in-queue (09_chain.md R283). -/
def Chain.inQueue (ch : Chain) (x : Nat) : Bool :=
  (chainStages ch.words).any (fun s => s.op = .qrd && (s.lit 0).toNat = x)

/-- `qrd` (09_chain.md R283). -/
def queueRead (e : Entry) (x : Nat) : Run Unit :=
  if e.skipped then pushSrq 1 0
  else do
    let h ← theHart
    let ch := h.chain
    if ch.state = .none || !ch.outQueue x then operandTrap 4
    else match ch.queue x with
      | [] => throw .wait
      | v :: rest => do
        modHart fun h => { h with chain := { h.chain with q := modAt h.chain.q x (fun _ => rest) } }
        pushSrq 1 (extWord (etTy ch.et) (v.toNat % 2 ^ etSew ch.et))

/-- `qwr` (09_chain.md R283): a release, which waits for the earlier entries of the PIQ and the MIQ and raises a store that has
timed out (04_memory_model.md R124, R141). Before the first run the type is that of its own et. -/
def queueWrite (e : Entry) (x : Nat) (a : Word) : Run Unit :=
  if e.skipped then pure ()
  else do
    let h ← theHart
    let ch := h.chain
    if ch.state = .none || !ch.inQueue x then operandTrap 4
    else do
      waitUnless ((ch.queue x).length < 512 && (h.piq ++ h.miq).all (fun f => e.seq < f.seq))
      lateTrap 4
      let sew := etSew (if ch.ran then ch.et else e.et)
      modHart fun h => { h with chain := { h.chain with q := modAt h.chain.q x (· ++ [word (a.toNat % 2 ^ sew)]) } }

/-- `qlen` (09_chain.md R283). -/
def queueLength (e : Entry) (x : Nat) : Run Unit :=
  chainSrq e (fun ch => ch.state = .none) (fun ch => word (ch.queue x).length)

end Sys2Proof.Machine
end

