-- ==== Sys2Proof/Machine/Engines.lean ====
section
/-!
DEFINITION. The decoupling queues: what an entry does when it is taken up, which registers it touches, the engines that
take entries, and the enqueue of an engine instruction (01_engines.md R13 to R22; 03_arithmetic.md R88; 13_context.md
R382).
-/

namespace Sys2Proof.Machine

/-! ### Entries -/

/-- An immediate as a source of a lane instruction (02_encoding.md R49). -/
def immSrc (i : BitVec 12) : VSrc := .lit (sextWord 12 i.toNat).toNat

/-- A vector register as a source. -/
def vreg (n : BitVec 5) : VSrc := .reg n.toNat

/-- A captured scalar as a source. -/
def scal (x : Word) : VSrc := .lit x.toNat

/-- What an entry does (the chapters of the engines); `chrun` is the pump's own. -/
def runEntry (e : Entry) : Run Unit :=
  match e.instr with
  | .vadd d a b m => laneElem e .add anyTy d.toNat (vreg a) (vreg b) m.toNat
  | .vsub d a b m => laneElem e .sub anyTy d.toNat (vreg a) (vreg b) m.toNat
  | .vmul d a b m => laneElem e .mul anyTy d.toNat (vreg a) (vreg b) m.toNat
  | .vmulh d a b m => laneElem e .mulh anyTy d.toNat (vreg a) (vreg b) m.toNat
  | .vdiv d a b m => laneElem e .div anyTy d.toNat (vreg a) (vreg b) m.toNat
  | .vrem d a b m => laneElem e .rem anyTy d.toNat (vreg a) (vreg b) m.toNat
  | .vmin d a b m => laneElem e .min anyTy d.toNat (vreg a) (vreg b) m.toNat
  | .vmax d a b m => laneElem e .max anyTy d.toNat (vreg a) (vreg b) m.toNat
  | .vand d a b m => laneElem e .and anyTy d.toNat (vreg a) (vreg b) m.toNat
  | .vor d a b m => laneElem e .or anyTy d.toNat (vreg a) (vreg b) m.toNat
  | .vxor d a b m => laneElem e .xor anyTy d.toNat (vreg a) (vreg b) m.toNat
  | .vshl d a b m => laneElem e .shl anyTy d.toNat (vreg a) (vreg b) m.toNat
  | .vshr d a b m => laneElem e .shr anyTy d.toNat (vreg a) (vreg b) m.toNat
  | .vsra d a b m => laneElem e .sra anyTy d.toNat (vreg a) (vreg b) m.toNat
  | .vadds d a b m => laneElem e .adds anyTy d.toNat (vreg a) (vreg b) m.toNat
  | .vsubs d a b m => laneElem e .subs anyTy d.toNat (vreg a) (vreg b) m.toNat
  | .vmac d a b m => laneElem e .mac anyTy d.toNat (vreg a) (vreg b) m.toNat
  | .vnmac d a b m => laneElem e .nmac anyTy d.toNat (vreg a) (vreg b) m.toNat
  | .vsqrt d a m => laneElem e .sqrt anyTy d.toNat (vreg a) (vreg a) m.toNat
  | .vabs d a m => laneElem e .abs anyTy d.toNat (vreg a) (vreg a) m.toNat
  | .vaddmin d a b m => laneElem e .addmin anyTy d.toNat (vreg a) (vreg b) m.toNat
  | .vmerge d a b m => laneElem e .merge anyTy d.toNat (vreg a) (vreg b) m.toNat
  | .vmv d a m => laneElem e .mv anyTy d.toNat (vreg a) (vreg a) m.toNat
  | .vseq d a b m => laneCmp e .eq d.toNat a.toNat b.toNat m.toNat
  | .vsne d a b m => laneCmp e .ne d.toNat a.toNat b.toNat m.toNat
  | .vslt d a b m => laneCmp e .lt d.toNat a.toNat b.toNat m.toNat
  | .vsle d a b m => laneCmp e .le d.toNat a.toNat b.toNat m.toNat
  | .vaddVs d a _ m => laneElem e .add anyTy d.toNat (vreg a) (scal e.op0) m.toNat
  | .vsubVs d a _ m => laneElem e .sub anyTy d.toNat (vreg a) (scal e.op0) m.toNat
  | .vmulVs d a _ m => laneElem e .mul anyTy d.toNat (vreg a) (scal e.op0) m.toNat
  | .vminVs d a _ m => laneElem e .min anyTy d.toNat (vreg a) (scal e.op0) m.toNat
  | .vmaxVs d a _ m => laneElem e .max anyTy d.toNat (vreg a) (scal e.op0) m.toNat
  | .vshlVs d a _ m => laneElem e .shl anyTy d.toNat (vreg a) (scal e.op0) m.toNat
  | .vshrVs d a _ m => laneElem e .shr anyTy d.toNat (vreg a) (scal e.op0) m.toNat
  | .vsraVs d a _ m => laneElem e .sra anyTy d.toNat (vreg a) (scal e.op0) m.toNat
  | .vmacVs d a _ m => laneElem e .mac anyTy d.toNat (vreg a) (scal e.op0) m.toNat
  | .vaddminVs d a _ m => laneElem e .addmin anyTy d.toNat (vreg a) (scal e.op0) m.toNat
  | .vbcast d _ m => laneElem e .mv anyTy d.toNat (scal e.op0) (scal e.op0) m.toNat
  | .vrsubVs d a _ m => laneElem e .rsub anyTy d.toNat (vreg a) (scal e.op0) m.toNat
  | .vaddVi d a i => laneElem e .add classI d.toNat (vreg a) (immSrc i) 0
  | .vandVi d a i => laneElem e .and classI d.toNat (vreg a) (immSrc i) 0
  | .vorVi d a i => laneElem e .or classI d.toNat (vreg a) (immSrc i) 0
  | .vxorVi d a i => laneElem e .xor classI d.toNat (vreg a) (immSrc i) 0
  | .vshlVi d a i => laneElem e .shl classI d.toNat (vreg a) (immSrc i) 0
  | .vshrVi d a i => laneElem e .shr classI d.toNat (vreg a) (immSrc i) 0
  | .vsraVi d a i => laneElem e .sra classI d.toNat (vreg a) (immSrc i) 0
  | .vrsubVi d a i => laneElem e .rsub classI d.toNat (vreg a) (immSrc i) 0
  | .vidx d s p => laneIdx e d.toNat s p
  | .vredsum d a b m => laneRed e .sum d.toNat a.toNat b.toNat m.toNat
  | .vredmin d a b m => laneRed e .min d.toNat a.toNat b.toNat m.toNat
  | .vredmax d a b m => laneRed e .max d.toNat a.toNat b.toNat m.toNat
  | .vredand d a b m => laneRed e .and d.toNat a.toNat b.toNat m.toNat
  | .vredor d a b m => laneRed e .or d.toNat a.toNat b.toNat m.toNat
  | .vredxor d a b m => laneRed e .xor d.toNat a.toNat b.toNat m.toNat
  | .vscan d a b m => laneScan e true d.toNat a.toNat b.toNat m.toNat
  | .vscanx d a b m => laneScan e false d.toNat a.toNat b.toNat m.toNat
  | .vslideup d a _ m => laneSlide e .up d.toNat a.toNat m.toNat e.op0
  | .vslidedn d a _ m => laneSlide e .down d.toNat a.toNat m.toNat e.op0
  | .vslide1up d a _ m => laneSlide e .up1 d.toNat a.toNat m.toNat e.op0
  | .vslide1dn d a _ m => laneSlide e .down1 d.toNat a.toNat m.toNat e.op0
  | .vperm d a b m => lanePerm e .perm d.toNat a.toNat b.toNat m.toNat
  | .vcompress d a m => laneCompress e d.toNat a.toNat m.toNat
  | .vexpand d a m => laneExpand e d.toNat a.toNat m.toNat
  | .vrev d a m => lanePerm e .rev d.toNat a.toNat a.toNat m.toNat
  | .vzip d a b m => lanePerm e .zip d.toNat a.toNat b.toNat m.toNat
  | .vunzip d a m => lanePerm e .unzip d.toNat a.toNat a.toNat m.toNat
  | .vconflict d a m => lanePerm e .conflict d.toNat a.toNat a.toNat m.toNat
  | .vcvt d a t f m => laneCvt e d.toNat a.toNat t.toNat f.toNat m.toNat
  | .mand d a b => laneMask e .and d.toNat a.toNat b.toNat
  | .mor d a b => laneMask e .or d.toNat a.toNat b.toNat
  | .mxor d a b => laneMask e .xor d.toNat a.toNat b.toNat
  | .mandn d a b => laneMask e .andn d.toNat a.toNat b.toNat
  | .morn d a b => laneMask e .orn d.toNat a.toNat b.toNat
  | .mnand d a b => laneMask e .nand d.toNat a.toNat b.toNat
  | .mnor d a b => laneMask e .nor d.toNat a.toNat b.toNat
  | .mxnor d a b => laneMask e .xnor d.toNat a.toNat b.toNat
  | .mmv d a => laneMask e .mv d.toNat a.toNat 0
  | .mnot d a => laneMask e .not d.toNat a.toNat 0
  | .msetbf d a => laneMask e .setbf d.toNat a.toNat 0
  | .msetif d a => laneMask e .setif d.toNat a.toNat 0
  | .msetof d a => laneMask e .setof d.toNat a.toNat 0
  | .mclr d => laneMask e .clr d.toNat 0 0
  | .mset d => laneMask e .set d.toNat 0 0
  | .vext a _ => laneExt e a.toNat e.op0
  | .mpop m => lanePop e m.toNat
  | .mfind m => laneFind e m.toNat
  | .mbany m => laneAny e m.toNat
  | .mball m => laneAll e m.toNat
  | .vld v _ _ m => portLoad e .unit false v.toNat m.toNat (e.op0 + e.op1) 0
  | .vst v _ _ m => portStore e .unit v.toNat m.toNat (e.op0 + e.op1) 0
  | .vlds v _ _ m => portLoad e .strided false v.toNat m.toNat e.op0 e.op1
  | .vsts v _ _ m => portStore e .strided v.toNat m.toNat e.op0 e.op1
  | .vldx v _ i m => portLoad e (.indexed i.toNat) false v.toNat m.toNat e.op0 0
  | .vstx v _ i m => portStore e (.indexed i.toNat) v.toNat m.toNat e.op0 0
  | .vldff v _ _ m => portLoad e .unit true v.toNat m.toNat (e.op0 + e.op1) 0
  | .vldsff v _ _ m => portLoad e .strided true v.toNat m.toNat e.op0 e.op1
  | .vldI v _ i => portLoad e .unit false v.toNat 0 (e.op0 + sextWord 12 i.toNat) 0
  | .vstI v _ i => portStore e .unit v.toNat 0 (e.op0 + sextWord 12 i.toNat) 0
  | .vldffI v _ i => portLoad e .unit true v.toNat 0 (e.op0 + sextWord 12 i.toNat) 0
  | .tbindl t _ => streamBind e t .load e.op0
  | .tbinds t _ => streamBind e t .store e.op0
  | .tfree t => streamFree e t
  | .tflush t => streamFlush e t
  | .tget v t m => streamGet e v.toNat t m.toNat
  | .tsend v t m => streamSend e v.toNat t m.toNat
  | .acopy _ _ _ k => copyStart e k e.op0 e.op1 e.op2
  | .cwait k => copyWait e k
  | .ctest k => copyTest e k
  | .fload _ n => fabricLoad e n e.op0
  | .fstart n => fabricStart e n
  | .fstop n => fabricStop e n
  | .fdrain n => fabricDrain e n
  | .fstat n => fabricStat e n
  | .fgather v i _ m => fabricGather e v.toNat i.toNat m.toNat e.op0
  | .fscatter v i _ m => fabricScatter e v.toNat i.toNat m.toNat e.op0
  | .fwgather v i _ m => fabricWgather e v.toNat i.toNat m.toNat e.op0
  | .vamoadd v i _ m => fabricAmo e .sum v.toNat i.toNat m.toNat e.op0
  | .vamomin v i _ m => fabricAmo e .min v.toNat i.toNat m.toNat e.op0
  | .vamomax v i _ m => fabricAmo e .max v.toNat i.toNat m.toNat e.op0
  | .fas v i _ m => fabricFas e v.toNat i.toNat m.toNat e.op0
  | .awadd v i k m => windowUpdate e .sum k v.toNat i.toNat m.toNat
  | .awmin v i k m => windowUpdate e .min k v.toNat i.toNat m.toNat
  | .awmax v i k m => windowUpdate e .max k v.toNat i.toNat m.toNat
  | .awopen _ _ k => windowOpen e k e.op0 e.op1
  | .accmerge k => windowMerge e k
  | .awdiscard k => windowDiscard e k
  | .chform _ => chainForm e e.op0
  | .chwait => pure ()
  | .chbreak => chainBreak e
  | .chfree => if e.skipped then pure () else chainRelease e
  | .chstat => chainStat e
  | .chidx _ => chainIdx e e.op0
  | .qrd x => queueRead e x.toNat
  | .qwr x _ => queueWrite e x.toNat e.op0
  | .qlen x => queueLength e x.toNat
  | .mmac c _ _ _ => matrixMul e true .none c e.op0 e.op1 e.op2
  | .mmacsa c _ _ _ => matrixMul e true .a c e.op0 e.op1 e.op2
  | .mmacsb c _ _ _ => matrixMul e true .b c e.op0 e.op1 e.op2
  | .mldc c _ => matrixLoad e c e.op0
  | .mstc c _ _ => matrixStore e c e.op0 e.op1
  | .mzero c => matrixZero e c
  | .mskip _ _ _ => matrixSkip e e.op0 e.op1 e.op2
  | .mshape _ => matrixShape e e.op0
  | .mprune _ _ _ => matrixPrune e e.op0 e.op1 e.op2
  | .mnode c _ => nodeConfig e c e.op0
  | .mfill c => nodeFill e c
  | .mwait c => nodeWait e c
  | .mscale c _ => matrixScale e c e.op0
  | .mstat c => nodeStat e c
  | .lput _ _ _ k => linkStart e 0 k e.op0 e.op1 e.op2
  | .lget _ _ _ k => linkStart e 1 k e.op0 e.op1 e.op2
  | .lcred _ _ _ k => linkStart e 2 k e.op0 e.op1 e.op2
  | .lcgat _ _ _ k => linkStart e 3 k e.op0 e.op1 e.op2
  | .lcbc _ _ _ k => linkStart e 4 k e.op0 e.op1 e.op2
  | .lwait k => linkWait e k
  | .lfence => linkFence e
  | .ltest k => linkTest e k
  | _ => pure ()

/-! ### Registers -/

/-- Registers an entry reads and writes: v at bit n, m at 32 + n, c at 128 + n, t at 144 + n (01_engines.md R15). -/
structure Foot where
  reads : BitVec 160
  writes : BitVec 160
deriving DecidableEq, Repr

/-- `n` registers from bit `lo` up. -/
def regSet (lo n : Nat) : BitVec 160 := BitVec.ofNat 160 ((2 ^ n - 1) * 2 ^ lo)

/-- Whether two entries share a register that one of them writes. -/
def Foot.meets (a b : Foot) : Bool :=
  (a.writes &&& (b.reads ||| b.writes)) != 0 || (a.reads &&& b.writes) != 0

/-- The accumulators a chain's matrix stages touch (09_chain.md R278). -/
def chainTiles (ch : Chain) : Foot :=
  (chainStages ch.words).foldl (fun f x =>
    let c := regSet (128 + ((x.lit 0).toNat % 16)) 1
    match x.op with
    | .mul _ | .mldc | .mzero => { f with writes := f.writes ||| c }
    | .mstc => { f with reads := f.reads ||| c }
    | _ => f) ⟨0, 0⟩

/-- The registers of an entry. -/
def Entry.foot (ch : Chain) (e : Entry) : Foot :=
  let g := etGroup e.et
  let v (n : BitVec 5) : BitVec 160 := regSet n.toNat g
  let m (n : BitVec 7) : BitVec 160 := if n = 0 then 0 else regSet (32 + n.toNat) (maskSpan e.n)
  let c (n : BitVec 4) : BitVec 160 := regSet (128 + n.toNat) 1
  let t (n : BitVec 4) : BitVec 160 := regSet (144 + n.toNat) 1
  match e.instr with
  | .vadd d a b k | .vsub d a b k | .vmul d a b k | .vmulh d a b k | .vdiv d a b k | .vrem d a b k | .vmin d a b k
  | .vmax d a b k | .vand d a b k | .vor d a b k | .vxor d a b k | .vshl d a b k | .vshr d a b k | .vsra d a b k
  | .vadds d a b k | .vsubs d a b k | .vmac d a b k | .vnmac d a b k | .vaddmin d a b k | .vmerge d a b k
  | .vredsum d a b k | .vredmin d a b k | .vredmax d a b k | .vredand d a b k | .vredor d a b k | .vredxor d a b k
  | .vperm d a b k | .vzip d a b k => ⟨v a ||| v b ||| m k, v d⟩
  | .vscan d a b k | .vscanx d a b k => ⟨v a ||| v b ||| m k, v d ||| v b⟩
  | .vsqrt d a k | .vabs d a k | .vmv d a k | .vcompress d a k | .vexpand d a k | .vrev d a k | .vunzip d a k
  | .vconflict d a k => ⟨v a ||| m k, v d⟩
  | .vaddVs d a _ k | .vsubVs d a _ k | .vmulVs d a _ k | .vminVs d a _ k | .vmaxVs d a _ k | .vshlVs d a _ k
  | .vshrVs d a _ k | .vsraVs d a _ k | .vmacVs d a _ k | .vaddminVs d a _ k | .vrsubVs d a _ k | .vslideup d a _ k
  | .vslidedn d a _ k | .vslide1up d a _ k | .vslide1dn d a _ k => ⟨v a ||| m k, v d⟩
  | .vbcast d _ k => ⟨m k, v d⟩
  | .vaddVi d a _ | .vandVi d a _ | .vorVi d a _ | .vxorVi d a _ | .vshlVi d a _ | .vshrVi d a _ | .vsraVi d a _
  | .vrsubVi d a _ => ⟨v a, v d⟩
  | .vidx d _ _ => ⟨0, v d⟩
  | .vseq d a b k | .vsne d a b k | .vslt d a b k | .vsle d a b k => ⟨v a ||| v b ||| m k, m d⟩
  | .vcvt d a to_ from_ k =>
    let (gd, gs) := cvtGroups e.et to_.toNat from_.toNat
    ⟨regSet a.toNat gs ||| m k, regSet d.toNat gd⟩
  | .mand d a b | .mor d a b | .mxor d a b | .mandn d a b | .morn d a b | .mnand d a b | .mnor d a b | .mxnor d a b =>
    ⟨m a ||| m b, m d⟩
  | .mmv d a | .mnot d a | .msetbf d a | .msetif d a | .msetof d a => ⟨m a, m d⟩
  | .mclr d | .mset d => ⟨0, m d⟩
  | .vext a _ => ⟨v a, 0⟩
  | .mpop k | .mfind k | .mbany k | .mball k => ⟨m k, 0⟩
  | .vld d _ _ k | .vlds d _ _ k | .vldff d _ _ k | .vldsff d _ _ k => ⟨m k, v d⟩
  | .vst d _ _ k | .vsts d _ _ k => ⟨m k ||| v d, 0⟩
  | .vldx d _ i k => ⟨m k ||| v i, v d⟩
  | .vstx d _ i k => ⟨m k ||| v d ||| v i, 0⟩
  | .vldI d _ _ | .vldffI d _ _ => ⟨0, v d⟩
  | .vstI d _ _ => ⟨v d, 0⟩
  | .tbindl x _ | .tbinds x _ | .tfree x | .tflush x => ⟨0, t x⟩
  | .tget d x k => ⟨m k, v d ||| t x⟩
  | .tsend d x k => ⟨m k ||| v d, t x⟩
  | .fload _ _ => ⟨0, if e.blocks.isEmpty then regSet 144 16
      else (blockStreams e.blocks).foldl (fun w n => w ||| t (BitVec.ofNat 4 n)) 0⟩
  | .fdrain _ => ⟨0, regSet 144 16⟩
  | .fgather d i _ k | .fwgather d i _ k => ⟨m k ||| v i, v d⟩
  | .fscatter d i _ k | .vamoadd d i _ k | .vamomin d i _ k | .vamomax d i _ k => ⟨m k ||| v i ||| v d, 0⟩
  | .fas d i _ k => ⟨m k ||| v i, v d⟩
  | .awadd d i _ k | .awmin d i _ k | .awmax d i _ k => ⟨m k ||| v i ||| v d, 0⟩
  | .chrun _ => if e.started then chainTiles ch else ⟨0, regSet 128 16⟩
  | .mmac d _ _ _ | .mmacsa d _ _ _ | .mmacsb d _ _ _ | .mldc d _ | .mzero d | .mscale d _ => ⟨0, c d⟩
  | .mstc d _ _ => ⟨c d, 0⟩
  | _ => ⟨0, 0⟩

/-- Whether an entry waits for an earlier one of another queue (01_engines.md R15). `fdrain` does not wait for a `tget` of
a stream it unbinds (08_gather_fabric.md R261), and `fload` waits once its blocks are read. -/
def Hart.blocked (h : Hart) (e : Entry) : Bool :=
  match e.instr with
  | .fdrain _ | .fload _ _ => false
  | _ => (h.viq ++ h.piq ++ h.miq).any (fun f => f.seq < e.seq && (f.foot h.chain).meets (e.foot h.chain))

/-! ### Taking entries -/

/-- What an entry does when it is taken up, as one piece of work (04_memory_model.md R112, R140): a word that is no instruction
raises `E_ILLEGAL`, which is no memory fault and leaves FADDR (13_context.md R385; 01_engines.md R20; log 12). -/
def Entry.body (e : Entry) : Run Unit :=
  match e.raw with
  | some _ => trapAt 0 eIllegal none 0
  | none => working (runEntry e)

/-- How one attempt on an entry ended. -/
inductive Took where
  /-- The entry has finished, or has moved on. -/
  | moved (s : State)
  /-- The entry waits. -/
  | waits (s : State)
  /-- The entry raised an engine trap. -/
  | trapped (s : State)

/-- The state of an attempt. -/
def Took.state : Took → State
  | .moved s => s
  | .waits s => s
  | .trapped s => s

/-- The head of a queue leaves it. -/
def Hart.popQueue (h : Hart) (q : BitVec 2) : Hart := h.modQueueOf q (·.drop 1)

/-- Whether an entry that waits, waits on fabric work (08_gather_fabric.md R260). -/
def Hart.onFabric (h : Hart) (i : Instr) : Bool :=
  match i with
  | .fload _ _ | .fstart _ | .fstop _ | .fdrain _ | .fstat _ | .fgather _ _ _ _ | .fscatter _ _ _ _ | .fwgather _ _ _ _
  | .vamoadd _ _ _ _ | .vamomin _ _ _ _ | .vamomax _ _ _ _ | .fas _ _ _ _ | .awadd _ _ _ _ | .awmin _ _ _ _
  | .awmax _ _ _ _ | .awopen _ _ _ | .accmerge _ | .awdiscard _ => true
  | .tget _ t _ => (h.stream t).kind = .fabric
  | _ => false

/-- Whether the hart has fabric work (08_gather_fabric.md R260); a `tget` of a fabric-fed stream that waits counts, also alone
(DESIGN CHOICE, log 69). -/
def Hart.fabricWork (h : Hart) : Bool :=
  h.fabricBusy || !h.ftokens.isEmpty || h.viq.any (fun e => h.onFabric e.instr) ||
  (match h.piq with
   | e :: _ => h.onFabric e.instr
   | [] => false)

/-- The bell has let a token of the hart move on (08_gather_fabric.md R246, R259; 16_device.md R428). -/
def State.countBell (s : State) : State :=
  let h := s.hart
  let s := s.setHart { h with bell := if h.bell = BitVec.allOnes 32 then h.bell else h.bell + 1 }
  let c := s.counters
  { s with counters := { c with bell := if c.bell = BitVec.allOnes 64 then c.bell else c.bell + 1 } }

/-- An attempt on the head of queue `q`: it leaves the queue, waits, or traps. One that waits on fabric work raises a
watchdog that has expired (08_gather_fabric.md R260). -/
def State.tryHead (s : State) (q : BitVec 2) (e : Entry) (body : Run Unit) : Took :=
  match body s with
  | .ok _ s => .moved (s.setHart (s.hart.popQueue q))
  | .error .wait s =>
    let h := s.hart
    if h.wdogOwed && h.onFabric e.instr then
      .trapped ((s.setHart { h with wdogOwed := false }).takeEngineTrap q eWatchdog 3 none 0
        (((h.queueOf q).head?.map (·.prog.toNat)).getD 0))
    else .waits s
  | .error (.trap code src addr gpa ei) s => .trapped (s.takeEngineTrap q code src addr gpa ei)

/-- The VIQ entries that proceed while a run is attached (09_chain.md R278). -/
def runExempt (i : Instr) : Bool :=
  match i with
  | .qrd _ | .qwr _ _ | .qlen _ | .chstat | .chidx _ | .chbreak => true
  | _ => false

/-- The run leaves the VIQ and its chain is IDLE (09_chain.md R278). -/
def Hart.detach (h : Hart) : Hart :=
  { h with chain := { h.chain with state := .idle, edges := [], lent := [], links := 0 }, viq := h.viq.drop 1 }

/-- Whether an attached run has ended: every P is N, and what it sent has entered its queues (09_chain.md R278). -/
def Chain.ended (ch : Chain) : Bool := ch.n ≤ ch.minP && ch.edges.all (·.port != 6)

/-- The attached run moves on: it detaches when it has ended; a run whose chain has gone, or has a new run, is done with
(09_chain.md R278, R287). -/
def State.runHead (s : State) : Took :=
  let h := s.hart
  match h.chain.state with
  | .none | .idle => .moved (s.setHart (h.popQueue 1))
  | .standing | .temporal | .held =>
    if h.chain.ended then .moved (s.setHart h.detach)
    else match advanceRun s with
      | .ok moved s =>
        if s.hart.chain.ended then .moved (s.setHart s.hart.detach)
        else if moved then .moved s else .waits s
      | .error .wait s => .waits s
      | .error (.trap code src addr gpa ei) s => .trapped (s.takeEngineTrap 1 code src addr gpa ei)

/-- An entry that proceeds behind the attached run. A trap on it puts it before the run, which breaks (log 21). -/
def State.tryBehind (s : State) (e : Entry) : Took :=
  match e.body s with
  | .ok _ s => .moved (s.setHart { s.hart with viq := s.hart.viq.eraseIdx 1 })
  | .error .wait s => .waits s
  | .error (.trap code src addr gpa ei) s =>
    let h := s.hart.breakChain 8 0
    let s := s.setHart { h with viq := (h.viq.drop 1).take 1 ++ h.viq.take 1 ++ h.viq.drop 2 }
    .trapped (s.takeEngineTrap 1 code src addr gpa ei)

/-- One attempt on the VIQ. -/
def State.takeViq (s : State) : Took :=
  let h := s.hart
  match h.viq with
  | [] => .waits s
  | e :: rest =>
    if h.attached then
      match s.runHead with
      | .moved s => .moved s
      | .trapped s => .trapped s
      | .waits s => match rest with
        | f :: _ => if f.raw.isNone && runExempt f.instr then s.tryBehind f else .waits s
        | [] => .waits s
    else if h.blocked e then .waits s
    else match e.instr, e.raw with
      | .chrun _, none =>
        match chainStart e e.op0 s with
        | .ok true s => .moved s
        | .ok false s => .moved (s.setHart (s.hart.popQueue 1))
        | .error .wait s => .waits s
        | .error (.trap code src addr gpa ei) s => .trapped (s.takeEngineTrap 1 code src addr gpa ei)
      | _, _ => s.tryHead 1 e e.body

/-- One attempt on the PIQ or the MIQ. -/
def State.takeOther (s : State) (q : BitVec 2) : Took :=
  let h := s.hart
  match h.queueOf q with
  | [] => .waits s
  | e :: _ => if h.blocked e then .waits s else s.tryHead q e e.body

/-- One attempt on each of some queues, until one moves or traps. -/
def State.takeOne (s : State) : List (BitVec 2) → Took
  | [] => .waits s
  | q :: qs =>
    match (if q = 1 then s.takeViq else s.takeOther q) with
    | .waits s => s.takeOne qs
    | .moved s => .moved s
    | .trapped s => .trapped s

/-- The order in which the queues are tried: that of their heads, with an attached run after the other queues (09_chain.md
R278). -/
def Hart.queueOrder (h : Hart) : List (BitVec 2) :=
  if h.attached then h.headOrder.filter (· != 1) ++ [1] else h.headOrder

/-- The engines take entries until none can move, at most `fuel` of them: whether one trapped. -/
def State.pumpFor (s : State) : Nat → Bool × State
  | 0 => (false, s)
  | fuel + 1 =>
    match s.takeOne s.hart.queueOrder with
    | .waits s => (false, s)
    | .trapped s => (true, s)
    | .moved s => s.pumpFor fuel

/-- One attempt on the head of one queue, while the others stand still (04_memory_model.md R120; log 46). -/
def State.pumpOne (s : State) (q : BitVec 2) : State :=
  if (s.hart.queueOf q).isEmpty then s else (s.unitsApply.takeOne [q]).state

/-- Whether a hart has queue entries. -/
def Hart.quiet (h : Hart) : Bool := h.viq.isEmpty && h.piq.isEmpty && h.miq.isEmpty

/-- The engines of the hart that moves take what they can (01_engines.md R13 to R15), unless they stand still in this step
(log 46). -/
def State.pump (s : State) : Bool × State :=
  let h := s.hart
  if h.quiet || !s.engines then (false, s) else s.unitsApply.pumpFor (h.viq.length + h.piq.length + h.miq.length + 1)

/-! ### Draining -/

/-- Whether the queues of a mask have drained (bit 0 VIQ, 1 PIQ, 2 MIQ; 01_engines.md R17). -/
def Hart.drained (h : Hart) (qs : BitVec 3) : Bool :=
  (!qs.getLsbD 0 || h.viq.isEmpty) && (!qs.getLsbD 1 || h.piq.isEmpty) && (!qs.getLsbD 2 || h.miq.isEmpty)

/-- Going on once the queues of a mask have drained: an entry that traps comes first, and otherwise the instruction
waits (01_engines.md R17, R22). -/
def State.afterDrain (s : State) (qs : BitVec 3) (k : State → Out) : Out :=
  let (trapped, s) := s.pump
  if trapped then .next s else if s.hart.drained qs then k s else .next s

/-- A hart trap: every queue drains first (01_engines.md R22). -/
def State.raise (s : State) (code : BitVec 8) (src : BitVec 4) (addr : Option Word) (gpa : Word) (past : Bool) : Out :=
  s.afterDrain 7 (fun s => .next (s.takeHartTrap code src addr gpa past))

/-- A request that has timed out, or that the peer has refused, fails again where its instruction waits for the queues to drain
before its trap (04_memory_model.md R141; 14_link.md R408). -/
def State.rearm (s : State) (e : Fail) : State :=
  if e.code = eMemTimeout ∨ e.code = eLink then s.setHart { s.hart with late := some (e.addr, e.code) } else s

/-- A hart trap for a fault of an access (05_hart.md R154). -/
def State.raiseFail (s : State) (src : BitVec 4) (e : Fail) : Out :=
  if s.pump.1 || s.pump.2.hart.drained 7 then s.raise e.code src (some e.addr) e.gpa false else .next (s.pump.2.rearm e)

/-! ### Enqueue -/

/-- The entries a queue holds (01_engines.md R13). -/
def queueCap (q : BitVec 2) : Nat := if q = 3 then 16 else 32

/-- Whether an instruction returns a result through the SRQ (01_engines.md R16). -/
def givesSrq (i : Instr) : Bool :=
  match i with
  | .vext _ _ | .mpop _ | .mfind _ | .fstat _ | .chstat | .chidx _ | .qrd _ | .qlen _ | .mshape _ | .mstat _ => true
  | _ => false

/-- Whether an instruction returns a condition through the BQ. -/
def givesBq (i : Instr) : Bool :=
  match i with
  | .mbany _ | .mball _ | .ctest _ | .ltest _ => true
  | _ => false

/-- An acquire stands in a queue: a `cwait`, an `lwait` or a dequeue. Until it is performed the hart enqueues nothing and
makes no scalar access (04_memory_model.md R123). -/
def Hart.acquiring (h : Hart) : Bool :=
  (h.viq ++ h.piq).any (fun e => match e.instr with
    | .cwait _ | .lwait _ | .qrd _ => true
    | _ => false)

/-- Whether an instruction finds room: its queue is not full, and its return entry can be reserved (01_engines.md R16). -/
def Hart.hasRoom (h : Hart) (i : Instr) (q : BitVec 2) : Bool :=
  let all := h.viq ++ h.piq ++ h.miq
  (h.queueOf q).length < queueCap q &&
  (!givesSrq i || h.srq.length + (all.filter (fun e => givesSrq e.instr)).length < 16) &&
  (!givesBq i || h.bq.length + (all.filter (fun e => givesBq e.instr)).length < 16)

/-- How many draws an instruction takes from the generator as it is enqueued, and whether it captures G
(03_arithmetic.md R88; 09_chain.md R268). -/
def Hart.draws (h : Hart) (i : Instr) (ops : List Word) : Option Nat :=
  let rsr := etRm h.et = 4
  match i with
  | .vcvt _ _ t f _ => if rsr && cvtStochastic f.toNat t.toNat then some h.vl.toNat else none
  | .mstc _ _ _ =>
    let x := (ops[1]?).getD 0
    if rsr && cvtStochastic (storeSrc x) (storeDst x) then some 1024 else none
  | .chrun _ =>
    let n := ((chainStages h.chain.words).map (·.draws h.et)).sum
    some (n * ((ops[0]?).getD 0).toNat)
  | _ => none

/-- Whether a `chrun` must wait to be enqueued: under `rsr` until every earlier `chform` and `chfree` has executed
(09_chain.md R268). -/
def Hart.runWaits (h : Hart) (i : Instr) : Bool :=
  match i with
  | .chrun _ => etRm h.et = 4 && h.viq.any (fun e => match e.instr with
    | .chform _ | .chfree => true
    | _ => false)
  | _ => false

/-- vl of an entry (10_matrix.md R306; 06_port.md R197): the captured VL where no other rule gives one. -/
def entryVl (i : Instr) (ops : List Word) (vl : Word) : BitVec 32 :=
  match i with
  | .cwait _ | .lwait _ => 1
  | .mmac _ _ _ _ | .mmacsa _ _ _ _ | .mmacsb _ _ _ _ => BitVec.ofNat 32 ((matrixVl i ((ops[2]?).getD 0)).getD 0)
  | _ => match matrixVl i 0 with
    | some n => BitVec.ofNat 32 n
    | none => vl.setWidth 32

/-- The hart with an entry enqueued (01_engines.md R14, R16; 03_arithmetic.md R81, R88). -/
def Hart.enqueue (h : Hart) (i : Instr) (q : BitVec 2) (ops : List Word) : Hart :=
  let n := h.draws i ops
  let e : Entry :=
    { instr := i, raw := none, pc := h.pc, vl := entryVl i ops h.vl, prog := 0, et := h.et, aux := if n.isSome then h.rng else 0,
      op0 := (ops[0]?).getD 0, op1 := (ops[1]?).getD 0, op2 := (ops[2]?).getD 0, seq := h.nextSeq, started := false, base := 0, blocks := [] }
  let h := { h with rng := h.rng + word (n.getD 0) * rngStep, nextSeq := h.nextSeq + 1 }
  (h.modQueueOf q (· ++ [e])).retire

/-- An engine instruction at the hart: it waits for room, or is enqueued and the engines take what they can
(01_engines.md R13 to R16). The registers of `rs` are its scalar operands. -/
def issue (i : Instr) (q : BitVec 2) (rs : List (BitVec 6)) (s : State) : Out :=
  let h := s.hart
  if h.acquiring || !h.hasRoom i q || h.runWaits i then .next s.pump.2
  else .next ((s.setHart (h.enqueue i q (rs.map h.sreg))).pump).2

end Sys2Proof.Machine
end

