-- ==== Sys2Proof/Machine/Scalar.lean ====
section
/-!
DEFINITION. The compact forms and the scalar integer instructions, loads, stores, branches and jumps: majors 1 to 17
(02_encoding.md R52, R53; 05_hart.md R152 to R158).
-/

namespace Sys2Proof.Machine

/-! ### Shared forms -/

/-- An instruction whose only effect is s[d] := x (02_encoding.md R53). -/
def State.putS (s : State) (len : Nat) (d : BitVec 6) (x : Word) : Out := .next (s.setHart (s.hart.retireS len d x))

/-- A compact operation: its first source is s[ld] (02_encoding.md R52). -/
def compactOp (f : Word → Word → Word) (d b : BitVec 6) (s : State) : Out :=
  s.putS 2 d (f (s.hart.sreg s.hart.ld) (s.hart.sreg b))

/-- A register operation of major 1 (05_hart.md R152). -/
def regOp (f : Word → Word → Word) (d a b : BitVec 6) (s : State) : Out :=
  s.putS 4 d (f (s.hart.sreg a) (s.hart.sreg b))

/-- An immediate operation (05_hart.md R153). -/
def immOp (f : Word → Word → Word) (d a : BitVec 6) (i : BitVec 12) (s : State) : Out :=
  s.putS 4 d (f (s.hart.sreg a) (i.signExtend 64))

/-- A truth value as a word. -/
def flagWord (b : Bool) : Word := if b then 1 else 0

/-- A shift amount: b AND 63. -/
def shiftBy (b : Word) : Nat := b.toNat % 64

/-- The high half of the natural product (05_hart.md R152). -/
def mulHighN (a b : Word) : Word := word (a.toNat * b.toNat / 2 ^ 64)

/-- The high half of the signed product (05_hart.md R152). -/
def mulHighI (a b : Word) : Word := BitVec.ofInt 64 (a.toInt * b.toInt / 2 ^ 64)

/-- Division or remainder under 03_arithmetic.md R76, which sets DZ for a zero divisor and never traps. -/
def divOp (signed rem : Bool) (d a b : BitVec 6) (s : State) : Out :=
  let h := s.hart
  let (q, r, fl) := intDiv 64 signed (h.sreg a).toNat (h.sreg b).toNat
  .next (s.setHart ((h.flag fl).retireS 4 d (word (if rem then r else q))))

/-- The effective address (05_hart.md R154). -/
def Hart.ea (h : Hart) (a : BitVec 6) (i : BitVec 12) : Word := h.sreg a + i.signExtend 64

/-- A scalar access of `n` bytes at its effective address: `k` goes on with its result, and a fault is a hart trap
(04_memory_model.md R114, R123; 05_hart.md R154). A misaligned address raises `E_ALIGN` before it is translated (log 54). -/
def scalarAccess (va : Word) (n : Nat) (f : Agent → Acc α) (s : State) (k : State → α → Out) : Out :=
  if s.hart.acquiring then .next s
  else if va.toNat % n ≠ 0 then s.raiseFail 0 ⟨eAlign, va, 0⟩
  else match f s.hart.agent s with
    | .ok x s => k s x
    | .error e s => s.raiseFail 0 e

/-- A load into s[d]: `ext` extends the value read (05_hart.md R154). -/
def loadOp (n : Nat) (ext : Nat → Word) (d a : BitVec 6) (i : BitVec 12) (s : State) : Out :=
  let va := s.hart.ea a i
  scalarAccess va n (fun w => loadElem w va n) s (fun s x => s.putS 4 d (ext x))

/-- A load into f[d], zero-extended (05_hart.md R144, R154). -/
def loadFOp (n : Nat) (d : BitVec 5) (a : BitVec 6) (i : BitVec 12) (s : State) : Out :=
  let va := s.hart.ea a i
  scalarAccess va n (fun w => loadElem w va n) s (fun s x => .next (s.setHart (s.hart.setF d (word x)).retire))

/-- A store of the low `n` bytes of a value (05_hart.md R154). -/
def storeOp (n : Nat) (x : Word) (a : BitVec 6) (i : BitVec 12) (s : State) : Out :=
  let va := s.hart.ea a i
  scalarAccess va n (fun w => storeScalar w va n (x.toNat % 2 ^ (8 * n))) s (fun s _ => .next (s.setHart s.hart.retire))

/-- A branch target (02_encoding.md R49). -/
def branchTo (pc : Word) (o : BitVec n) : Word := pc + 2 * o.signExtend 64

/-- A hart that goes to a pc, having written no scalar register. -/
def Hart.goto (h : Hart) (pc : Word) : Hart := { h with pc := pc, ld := 0 }

/-- A branch (05_hart.md R155). -/
def branchOp (c : Word → Word → Bool) (a b : BitVec 6) (o : BitVec 12) (s : State) : Out :=
  let h := s.hart
  .next (s.setHart (if c (h.sreg a) (h.sreg b) then h.goto (branchTo h.pc o) else h.retire))

/-- The mask of one queue for a drain: 1 VIQ, 2 PIQ, 3 MIQ (05_hart.md R158, R162). -/
def queueMask (q : BitVec 2) : BitVec 3 := if q = 1 then 1 else if q = 2 then 2 else if q = 3 then 4 else 0

/-- A consuming instruction drains its queue, but an attached run that stands alone in the VIQ lets it go on
(01_engines.md R17; 09_chain.md R278). -/
def State.afterQueue (s : State) (q : BitVec 2) (k : State → Out) : Out :=
  let (trapped, s) := s.pump
  if trapped then .next s
  else if s.hart.drained (queueMask q) || (q = 1 && s.hart.attached && s.hart.viq.length = 1) then k s
  else .next s

/-- A branch on a condition bit: it consumes the oldest BQ entry of the queue it names, or raises `E_QUEUE`
(05_hart.md R158, R162). -/
def condBranch (want : Bool) (q : BitVec 2) (o : BitVec 20) (s : State) : Out :=
  s.afterQueue q fun s =>
    match s.hart.bq with
    | [] => s.raise eQueue 0 none 0 false
    | e :: rest =>
      if e.src ≠ q then s.raise eQueue 0 none 0 false
      else
        let h := { s.hart with bq := rest }
        .next (s.setHart (if (e.val != 0) == want then h.goto (branchTo h.pc o) else h.retire))

/-! ### Compact forms -/

/-- `c.add`: s[ld] + s[b] (02_encoding.md R52). -/
def execCAdd (d b : BitVec 6) (s : State) : Out :=
  compactOp (· + ·) d b s

/-- `c.sub`: s[ld] − s[b] (02_encoding.md R52). -/
def execCSub (d b : BitVec 6) (s : State) : Out :=
  compactOp (· - ·) d b s

/-- `c.and`: s[ld] AND s[b] (02_encoding.md R52). -/
def execCAnd (d b : BitVec 6) (s : State) : Out :=
  compactOp (· &&& ·) d b s

/-- `c.or`: s[ld] OR s[b] (02_encoding.md R52). -/
def execCOr (d b : BitVec 6) (s : State) : Out :=
  compactOp (· ||| ·) d b s

/-- `c.xor`: s[ld] XOR s[b] (02_encoding.md R52). -/
def execCXor (d b : BitVec 6) (s : State) : Out :=
  compactOp (· ^^^ ·) d b s

/-- `c.shl`: s[ld] << (s[b] AND 63) (02_encoding.md R52). -/
def execCShl (d b : BitVec 6) (s : State) : Out :=
  compactOp (fun x y => x <<< shiftBy y) d b s

/-- `c.addi`: s[ld] plus the sign-extended field b (02_encoding.md R52). -/
def execCAddi (d i : BitVec 6) (s : State) : Out :=
  s.putS 2 d (s.hart.sreg s.hart.ld + i.signExtend 64)

/-! ### Major 1 -/

/-- `add` (05_hart.md R152). -/
def execAdd (d a b : BitVec 6) (s : State) : Out :=
  regOp (· + ·) d a b s

/-- `sub` (05_hart.md R152). -/
def execSub (d a b : BitVec 6) (s : State) : Out :=
  regOp (· - ·) d a b s

/-- `and` (05_hart.md R152). -/
def execAnd (d a b : BitVec 6) (s : State) : Out :=
  regOp (· &&& ·) d a b s

/-- `or` (05_hart.md R152). -/
def execOr (d a b : BitVec 6) (s : State) : Out :=
  regOp (· ||| ·) d a b s

/-- `xor` (05_hart.md R152). -/
def execXor (d a b : BitVec 6) (s : State) : Out :=
  regOp (· ^^^ ·) d a b s

/-- `shl` (05_hart.md R152). -/
def execShl (d a b : BitVec 6) (s : State) : Out :=
  regOp (fun x y => x <<< shiftBy y) d a b s

/-- `shr` (05_hart.md R152). -/
def execShr (d a b : BitVec 6) (s : State) : Out :=
  regOp (fun x y => x >>> shiftBy y) d a b s

/-- `sra` (05_hart.md R152). -/
def execSra (d a b : BitVec 6) (s : State) : Out :=
  regOp (fun x y => x.sshiftRight (shiftBy y)) d a b s

/-- `slt` (05_hart.md R152). -/
def execSlt (d a b : BitVec 6) (s : State) : Out :=
  regOp (fun x y => flagWord (x.slt y)) d a b s

/-- `sltn` (05_hart.md R152). -/
def execSltn (d a b : BitVec 6) (s : State) : Out :=
  regOp (fun x y => flagWord (x.ult y)) d a b s

/-- `mul` (05_hart.md R152). -/
def execMul (d a b : BitVec 6) (s : State) : Out :=
  regOp (· * ·) d a b s

/-- `mulh` (05_hart.md R152). -/
def execMulh (d a b : BitVec 6) (s : State) : Out :=
  regOp mulHighI d a b s

/-- `mulhn` (05_hart.md R152). -/
def execMulhn (d a b : BitVec 6) (s : State) : Out :=
  regOp mulHighN d a b s

/-- `div` (05_hart.md R152). -/
def execDiv (d a b : BitVec 6) (s : State) : Out :=
  divOp true false d a b s

/-- `divn` (05_hart.md R152). -/
def execDivn (d a b : BitVec 6) (s : State) : Out :=
  divOp false false d a b s

/-- `rem` (05_hart.md R152). -/
def execRem (d a b : BitVec 6) (s : State) : Out :=
  divOp true true d a b s

/-- `remn` (05_hart.md R152). -/
def execRemn (d a b : BitVec 6) (s : State) : Out :=
  divOp false true d a b s

/-! ### Majors 2 to 4 -/

/-- `addi` (05_hart.md R153). -/
def execAddi (d a : BitVec 6) (i : BitVec 12) (s : State) : Out :=
  immOp (· + ·) d a i s

/-- `slti` (05_hart.md R153). -/
def execSlti (d a : BitVec 6) (i : BitVec 12) (s : State) : Out :=
  immOp (fun x y => flagWord (x.slt y)) d a i s

/-- `andi` (05_hart.md R153). -/
def execAndi (d a : BitVec 6) (i : BitVec 12) (s : State) : Out :=
  immOp (· &&& ·) d a i s

/-- `ori` (05_hart.md R153). -/
def execOri (d a : BitVec 6) (i : BitVec 12) (s : State) : Out :=
  immOp (· ||| ·) d a i s

/-- `xori` (05_hart.md R153). -/
def execXori (d a : BitVec 6) (i : BitVec 12) (s : State) : Out :=
  immOp (· ^^^ ·) d a i s

/-- `shli` (05_hart.md R153). -/
def execShli (d a n : BitVec 6) (s : State) : Out :=
  s.putS 4 d (s.hart.sreg a <<< n.toNat)

/-- `shri` (05_hart.md R153). -/
def execShri (d a n : BitVec 6) (s : State) : Out :=
  s.putS 4 d (s.hart.sreg a >>> n.toNat)

/-- `srai` (05_hart.md R153). -/
def execSrai (d a n : BitVec 6) (s : State) : Out :=
  s.putS 4 d ((s.hart.sreg a).sshiftRight n.toNat)

/-! ### Loads and stores -/

/-- `ld64` (05_hart.md R154). -/
def execLd64 (d a : BitVec 6) (i : BitVec 12) (s : State) : Out :=
  loadOp 8 word d a i s

/-- `ld32` (05_hart.md R154). -/
def execLd32 (d a : BitVec 6) (i : BitVec 12) (s : State) : Out :=
  loadOp 4 (sextWord 32) d a i s

/-- `ld16` (05_hart.md R154). -/
def execLd16 (d a : BitVec 6) (i : BitVec 12) (s : State) : Out :=
  loadOp 2 (sextWord 16) d a i s

/-- `ld8` (05_hart.md R154). -/
def execLd8 (d a : BitVec 6) (i : BitVec 12) (s : State) : Out :=
  loadOp 1 (sextWord 8) d a i s

/-- `ldn32` (05_hart.md R154). -/
def execLdn32 (d a : BitVec 6) (i : BitVec 12) (s : State) : Out :=
  loadOp 4 word d a i s

/-- `ldn16` (05_hart.md R154). -/
def execLdn16 (d a : BitVec 6) (i : BitVec 12) (s : State) : Out :=
  loadOp 2 word d a i s

/-- `ldn8` (05_hart.md R154). -/
def execLdn8 (d a : BitVec 6) (i : BitVec 12) (s : State) : Out :=
  loadOp 1 word d a i s

/-- `fld32` (05_hart.md R154). -/
def execFld32 (d : BitVec 5) (a : BitVec 6) (i : BitVec 12) (s : State) : Out :=
  loadFOp 4 d a i s

/-- `fld64` (05_hart.md R154). -/
def execFld64 (d : BitVec 5) (a : BitVec 6) (i : BitVec 12) (s : State) : Out :=
  loadFOp 8 d a i s

/-- `st64` (05_hart.md R154). -/
def execSt64 (d a : BitVec 6) (i : BitVec 12) (s : State) : Out :=
  storeOp 8 (s.hart.sreg d) a i s

/-- `st32` (05_hart.md R154). -/
def execSt32 (d a : BitVec 6) (i : BitVec 12) (s : State) : Out :=
  storeOp 4 (s.hart.sreg d) a i s

/-- `st16` (05_hart.md R154). -/
def execSt16 (d a : BitVec 6) (i : BitVec 12) (s : State) : Out :=
  storeOp 2 (s.hart.sreg d) a i s

/-- `st8` (05_hart.md R154). -/
def execSt8 (d a : BitVec 6) (i : BitVec 12) (s : State) : Out :=
  storeOp 1 (s.hart.sreg d) a i s

/-- `fst32` (05_hart.md R154). -/
def execFst32 (d : BitVec 5) (a : BitVec 6) (i : BitVec 12) (s : State) : Out :=
  storeOp 4 (s.hart.freg d) a i s

/-- `fst64` (05_hart.md R154). -/
def execFst64 (d : BitVec 5) (a : BitVec 6) (i : BitVec 12) (s : State) : Out :=
  storeOp 8 (s.hart.freg d) a i s

/-! ### Branches and jumps -/

/-- `beq` (05_hart.md R155). -/
def execBeq (a b : BitVec 6) (o : BitVec 12) (s : State) : Out :=
  branchOp (· == ·) a b o s

/-- `bne` (05_hart.md R155). -/
def execBne (a b : BitVec 6) (o : BitVec 12) (s : State) : Out :=
  branchOp (· != ·) a b o s

/-- `blt` (05_hart.md R155). -/
def execBlt (a b : BitVec 6) (o : BitVec 12) (s : State) : Out :=
  branchOp BitVec.slt a b o s

/-- `bge` (05_hart.md R155). -/
def execBge (a b : BitVec 6) (o : BitVec 12) (s : State) : Out :=
  branchOp (fun x y => !x.slt y) a b o s

/-- `bltn` (05_hart.md R155). -/
def execBltn (a b : BitVec 6) (o : BitVec 12) (s : State) : Out :=
  branchOp BitVec.ult a b o s

/-- `bgen` (05_hart.md R155). -/
def execBgen (a b : BitVec 6) (o : BitVec 12) (s : State) : Out :=
  branchOp (fun x y => !x.ult y) a b o s

/-- `sbnz`: s[a] := s[a] − s[b], and a branch while that is not zero. With a = 0 the write is discarded and the test
sees zero (05_hart.md R156). -/
def execSbnz (a b : BitVec 6) (o : BitVec 12) (s : State) : Out :=
  let h := s.hart
  let x := h.sreg a - h.sreg b
  let taken := a != 0 && x != 0
  .next (s.setHart { h.setS a x with pc := (if taken then branchTo h.pc o else h.pc + 4), ld := a })

/-- `j` (05_hart.md R157). -/
def execJ (o : BitVec 20) (s : State) : Out := .next (s.setHart (s.hart.goto (branchTo s.hart.pc o)))

/-- `jl`: s63 := pc + 4 (05_hart.md R157). -/
def execJl (o : BitVec 20) (s : State) : Out :=
  let h := s.hart
  .next (s.setHart { h.setS 63 (h.pc + 4) with pc := branchTo h.pc o, ld := 63 })

/-- `jlr`: s[a] is read before s[d] is written, and an odd target raises `E_ALIGN` (05_hart.md R157). -/
def execJlr (d a : BitVec 6) (i : BitVec 12) (s : State) : Out :=
  let h := s.hart
  let t := h.ea a i
  if t.getLsbD 0 then s.raise eAlign 0 (some t) 0 false
  else .next (s.setHart { h.setS d (h.pc + 4) with pc := t, ld := d })

/-- `bqz`: it branches if the condition bit is 0; its words number the queues from 0 (05_hart.md R158). -/
def execBqz (q : BitVec 2) (o : BitVec 20) (s : State) : Out := condBranch false (q + 1) o s

/-- `bqnz`: it branches if the condition bit is 1; its words number the queues from 0 (05_hart.md R158). -/
def execBqnz (q : BitVec 2) (o : BitVec 20) (s : State) : Out := condBranch true (q + 1) o s

end Sys2Proof.Machine
end

