-- ==== Sys2Proof/Machine/FloatHart.lean ====
section
/-!
DEFINITION. Scalar floating point: major 18 (02_encoding.md R58; 05_hart.md R144, R159, R160). RM is that of et as it
stands, with `rsr` as `rne` but in `fcvt.ff.f32`.
-/

namespace Sys2Proof.Machine

/-! ### Shared forms -/

/-- The format a fmt bit selects (02_encoding.md R58). -/
def scalarFmt (t : BitVec 1) : Fmt := if t = 1 then fmtF64 else fmtF32

/-- The bits an f source is read as: f32 ignores bits [63:32] (05_hart.md R144). -/
def Hart.fbits (h : Hart) (t : BitVec 1) (n : BitVec 5) : Nat := (h.freg n).toNat % 2 ^ (scalarFmt t).width

/-- The value of an f source. -/
def Hart.fval (h : Hart) (t : BitVec 1) (n : BitVec 5) : Fp := (scalarFmt t).decode (h.fbits t n)

/-- Retiring an instruction that writes f[d] with a result and flags (05_hart.md R144, R159). -/
def State.putF (s : State) (d : BitVec 5) (r : Nat × Fl) : Out :=
  .next (s.setHart ((s.hart.flag r.2).setF d (word r.1)).retire)

/-- An operation on one or two sources, rounded once (05_hart.md R159). -/
def floatOp (f : Fmt → Rm → Fp → Fp → Nat × Fl) (d a b : BitVec 5) (t : BitVec 1) (s : State) : Out :=
  let h := s.hart
  s.putF d (f (scalarFmt t) (rmOf (etRm h.et)) (h.fval t a) (h.fval t b))

/-- Minimum or maximum, without rounding (05_hart.md R159; 03_arithmetic.md R93). -/
def floatMinMax (isMax : Bool) (d a b : BitVec 5) (t : BitVec 1) (s : State) : Out :=
  s.putF d ((scalarFmt t).minmax isMax (s.hart.fbits t a) (s.hart.fbits t b))

/-- A comparison into s[d] (05_hart.md R159; 03_arithmetic.md R92). -/
def floatCmp (f : Fp → Fp → Bool × Fl) (d : BitVec 6) (a b : BitVec 5) (t : BitVec 1) (s : State) : Out :=
  let h := s.hart
  let (r, fl) := f (h.fval t a) (h.fval t b)
  .next (s.setHart ((h.flag fl).retireS 4 d (flagWord r)))

/-- The class of a value in a format: a bit of the mask of `fclass` (05_hart.md R159). -/
def Fmt.classBit (f : Fmt) (x : Nat) : Nat :=
  match f.decode x with
  | .inf neg => if neg then 0 else 7
  | .nan signalling => if signalling then 8 else 9
  | .fin neg m _ =>
    if m = 0 then (if neg then 3 else 4)
    else if m < 2 ^ f.frac then (if neg then 2 else 5)
    else if neg then 1 else 6

/-! ### Major 18 -/

/-- `fadd` (05_hart.md R159). -/
def execFadd (d a b : BitVec 5) (t : BitVec 1) (s : State) : Out :=
  floatOp Fmt.add d a b t s

/-- `fsub` (05_hart.md R159). -/
def execFsub (d a b : BitVec 5) (t : BitVec 1) (s : State) : Out :=
  floatOp (fun f rm x y => f.add rm x y.negate) d a b t s

/-- `fmul` (05_hart.md R159). -/
def execFmul (d a b : BitVec 5) (t : BitVec 1) (s : State) : Out :=
  floatOp Fmt.mul d a b t s

/-- `fdiv` (05_hart.md R159). -/
def execFdiv (d a b : BitVec 5) (t : BitVec 1) (s : State) : Out :=
  floatOp Fmt.div d a b t s

/-- `fsqrt` (05_hart.md R159). -/
def execFsqrt (d a : BitVec 5) (t : BitVec 1) (s : State) : Out :=
  floatOp (fun f rm x _ => f.sqrt rm x) d a a t s

/-- `fmin` (05_hart.md R159). -/
def execFmin (d a b : BitVec 5) (t : BitVec 1) (s : State) : Out :=
  floatMinMax false d a b t s

/-- `fmax` (05_hart.md R159). -/
def execFmax (d a b : BitVec 5) (t : BitVec 1) (s : State) : Out :=
  floatMinMax true d a b t s

/-- `fmac`: f[d] + a × b with one rounding (05_hart.md R159). -/
def execFmac (d a b : BitVec 5) (t : BitVec 1) (s : State) : Out :=
  floatOp (fun f rm x y => f.fma rm x y (s.hart.fval t d)) d a b t s

/-- `feq` (05_hart.md R159). -/
def execFeq (d : BitVec 6) (a b : BitVec 5) (t : BitVec 1) (s : State) : Out :=
  floatCmp fpEq d a b t s

/-- `flt` (05_hart.md R159). -/
def execFlt (d : BitVec 6) (a b : BitVec 5) (t : BitVec 1) (s : State) : Out :=
  floatCmp fpLt d a b t s

/-- `fle` (05_hart.md R159). -/
def execFle (d : BitVec 6) (a b : BitVec 5) (t : BitVec 1) (s : State) : Out :=
  floatCmp fpLe d a b t s

/-- `fcvt.f`: s[a] as i64 into fmt (05_hart.md R159). -/
def execFcvtF (d : BitVec 5) (a : BitVec 6) (t : BitVec 1) (s : State) : Out :=
  let h := s.hart
  s.putF d (cvtElem 3 (if t = 1 then 8 else 9) (rmOf (etRm h.et)) (etSat h.et) (h.sreg a).toNat)

/-- `fcvt.i`: f[a] to i64 (05_hart.md R159; 03_arithmetic.md R91). -/
def execFcvtI (d : BitVec 6) (a : BitVec 5) (t : BitVec 1) (s : State) : Out :=
  let h := s.hart
  let (x, fl) := fpToInt 64 true (rmOf (etRm h.et)) (h.fval t a)
  .next (s.setHart ((h.flag fl).retireS 4 d (word x)))

/-- `fcvt.ff`: f[a] of the other format into fmt. The narrowing form obeys SAT, and under `rsr` draws from RNG and
advances it one step (05_hart.md R160; 03_arithmetic.md R88). -/
def execFcvtFf (d a : BitVec 5) (t : BitVec 1) (s : State) : Out :=
  let h := s.hart
  if t = 1 then s.putF d (fmtF64.convert (rmOf (etRm h.et)) false (h.fval 0 a))
  else if etRm h.et = 4 then
    (s.setHart { h with rng := h.rng + rngStep }).putF d
      (fmtF32.convert (.rsr (draw h.rng 0)) (etSat h.et) (h.fval 1 a))
  else s.putF d (fmtF32.convert (rmOf (etRm h.et)) (etSat h.et) (h.fval 1 a))

/-- `fmv.s.f`: the bits of f[a], with f32 zero-extended (05_hart.md R159). -/
def execFmvSF (d : BitVec 6) (a : BitVec 5) (t : BitVec 1) (s : State) : Out := s.putS 4 d (word (s.hart.fbits t a))

/-- `fmv.f.s`: the bits of s[a], with f32 zero-extended (05_hart.md R159). -/
def execFmvFS (d : BitVec 5) (a : BitVec 6) (t : BitVec 1) (s : State) : Out :=
  s.putF d ((s.hart.sreg a).toNat % 2 ^ (scalarFmt t).width, 0)

/-- `fclass`: a mask with the one bit of the class of f[a] (05_hart.md R159). -/
def execFclass (d : BitVec 6) (a : BitVec 5) (t : BitVec 1) (s : State) : Out :=
  s.putS 4 d (word (2 ^ (scalarFmt t).classBit (s.hart.fbits t a)))

end Sys2Proof.Machine
end

