-- ==== Sys2Proof/Machine/Atomics.lean ====
section
/-!
DEFINITION. Atomics, acquire and release, fences and drains: majors 19 to 21 (05_hart.md R161, R162; 04_memory_model.md
R119, R123 to R125, R136, R137, R141).
-/

namespace Sys2Proof.Machine

/-! ### Shared forms -/

/-- The hart with the effect of its scope code: a code above its limit sets CLAMP, also when the instruction then
faults (04_memory_model.md R119). -/
def State.clamp (s : State) (c : BitVec 3) : State := s.setHart (s.hart.clampScope c).1

/-- Raising the oldest store that has timed out and that the instruction orders, once (04_memory_model.md R141): a release or a
fence orders every store, and a drain those of the queues that it covers. As any hart trap it waits for every queue to drain
(01_engines.md R22). -/
def State.afterLate (s : State) (ordered : BitVec 2 → Bool) (src : BitVec 4) (k : State → Out) : Out :=
  if (s.hart.takeLate ordered).isNone then k s
  else s.afterDrain 7 fun s => match s.hart.takeLate ordered with
    | none => .next s
    | some (a, h) => .next ((s.setHart h).takeHartTrap eMemTimeout src (some a) 0 false)

/-- The start of a release or a fence of the engine `src` at a scope: every queue drains, the scope is clamped, and a store that
has timed out is raised (04_memory_model.md R119, R124, R125, R141). -/
def State.afterRelease (s : State) (c : BitVec 3) (src : BitVec 4) (k : State → Out) : Out :=
  s.afterDrain 7 (fun s => (s.clamp c).afterLate (fun _ => true) src k)

/-- The queues that a drain covers (05_hart.md R162). -/
def drainCovers (qs : BitVec 3) (q : BitVec 2) : Bool := q != 0 && queueMask q &&& qs != 0

/-- An atomic on a doubleword (05_hart.md R161): order 2 or 3 makes it a release, `f` gives the new value from the old,
or none for no write, and s[d] receives the old value. -/
def atomicOp (f : Word → Option Word) (d a : BitVec 6) (c : BitVec 3) (r : BitVec 2) (s : State) : Out :=
  let go (s : State) : Out :=
    let va := s.hart.sreg a
    scalarAccess va 8 (fun w => rmwElem w va 8 (fun old => (f (word old)).map BitVec.toNat)) s
      (fun s old => s.putS 4 d (word old))
  if r.getLsbD 1 then s.afterRelease c 0 go else go (s.clamp c)

/-- A fence of any kind (04_memory_model.md R125): it drains the queues, and in a model whose accesses are performed one
after another the orders it asks for hold. -/
def fenceOp (c : BitVec 3) (s : State) : Out := s.afterRelease c 0 (fun s => .next (s.setHart s.hart.retire))

/-! ### Atomics -/

/-- `amoswap` (05_hart.md R161). -/
def execAmoswap (d a b : BitVec 6) (c : BitVec 3) (r : BitVec 2) (s : State) : Out :=
  atomicOp (fun _ => some (s.hart.sreg b)) d a c r s

/-- `amoadd` (05_hart.md R161). -/
def execAmoadd (d a b : BitVec 6) (c : BitVec 3) (r : BitVec 2) (s : State) : Out :=
  atomicOp (fun old => some (old + s.hart.sreg b)) d a c r s

/-- `amoand` (05_hart.md R161). -/
def execAmoand (d a b : BitVec 6) (c : BitVec 3) (r : BitVec 2) (s : State) : Out :=
  atomicOp (fun old => some (old &&& s.hart.sreg b)) d a c r s

/-- `amoor` (05_hart.md R161). -/
def execAmoor (d a b : BitVec 6) (c : BitVec 3) (r : BitVec 2) (s : State) : Out :=
  atomicOp (fun old => some (old ||| s.hart.sreg b)) d a c r s

/-- `amomax` (05_hart.md R161). -/
def execAmomax (d a b : BitVec 6) (c : BitVec 3) (r : BitVec 2) (s : State) : Out :=
  atomicOp (fun old => some (if old.slt (s.hart.sreg b) then s.hart.sreg b else old)) d a c r s

/-- `amomaxn` (05_hart.md R161). -/
def execAmomaxn (d a b : BitVec 6) (c : BitVec 3) (r : BitVec 2) (s : State) : Out :=
  atomicOp (fun old => some (if old.ult (s.hart.sreg b) then s.hart.sreg b else old)) d a c r s

/-- `amocas`: it writes only where the old value is s[d] (05_hart.md R161). -/
def execAmocas (d a b : BitVec 6) (c : BitVec 3) (r : BitVec 2) (s : State) : Out :=
  atomicOp (fun old => if old = s.hart.sreg d then some (s.hart.sreg b) else none) d a c r s

/-- `ldaq`, an acquire (05_hart.md R161; 04_memory_model.md R123). -/
def execLdaq (d a : BitVec 6) (c : BitVec 3) (s : State) : Out :=
  let s := s.clamp c
  let va := s.hart.sreg a
  scalarAccess va 8 (fun w => loadElem w va 8) s (fun s x => s.putS 4 d (word x))

/-- `strl`, a release (05_hart.md R161; 04_memory_model.md R124). -/
def execStrl (a b : BitVec 6) (c : BitVec 3) (s : State) : Out :=
  s.afterRelease c 0 fun s =>
    let va := s.hart.sreg a
    scalarAccess va 8 (fun w => storeElem w va 8 (s.hart.sreg b).toNat) s (fun s _ => .next (s.setHart s.hart.retire))

/-! ### Fences and drains -/

/-- `fence`: a full fence (04_memory_model.md R125). -/
def execFence (c : BitVec 3) (s : State) : Out := fenceOp c s

/-- `fence.acq` (04_memory_model.md R125). -/
def execFenceAcq (c : BitVec 3) (s : State) : Out := fenceOp c s

/-- `fence.rel` (04_memory_model.md R125). -/
def execFenceRel (c : BitVec 3) (s : State) : Out := fenceOp c s

/-- `fence.sc` (04_memory_model.md R125). -/
def execFenceSc (c : BitVec 3) (s : State) : Out := fenceOp c s

/-- `qdrain`: it waits for the named queues and consumes nothing (05_hart.md R162). -/
def execQdrain (q : BitVec 3) (s : State) : Out :=
  s.afterDrain q (fun s => s.afterLate (drainCovers q) 0 (fun s => .next (s.setHart s.hart.retire)))

/-- `mvq`: the oldest SRQ entry of the named queue goes to s[d], or `E_QUEUE` (05_hart.md R162). -/
def execMvq (d : BitVec 6) (q : BitVec 2) (s : State) : Out :=
  s.afterQueue q fun s =>
    match s.hart.srq with
    | [] => s.raise eQueue 0 none 0 false
    | e :: rest =>
      if e.src ≠ q then s.raise eQueue 0 none 0 false
      else .next (s.setHart ({ s.hart with srq := rest }.retireS 4 d e.val))

end Sys2Proof.Machine
end

