-- ==== Sys2Proof/Machine/System.lean ====
section
/-!
DEFINITION. State instructions, traps and `setvl`: majors 22 to 24 and 41 (05_hart.md R146 to R151, R163 to R167;
07_lane.md R204; 01_engines.md R26 to R28).
-/

namespace Sys2Proof.Machine

/-! ### State registers -/

/-- Reading one of the state registers (02_encoding.md R60). -/
def State.readCsr (s : State) (n : BitVec 12) : Word := s.hart.stateReg s.time n.toNat

/-- The fields of a register that a write changes, and those that a write of 0 clears: its RW and its Sticky bits
(05_hart.md R147 to R150; 03_arithmetic.md R80, R88; 06_port.md R181; 07_lane.md R206; 08_gather_fabric.md R251). -/
def csrMasks (n : BitVec 12) : Word × Word :=
  match n.toNat with
  | 0 => (0, 0x80)
  | 1 => (0x00FF00FF, 0)
  | 2 => (0x00FFFFFFFFFFFFFE, 0)
  | 3 => (0x0000FFFFFFFFFFFF, 0)
  | 4 => (BitVec.allOnes 64, 0)
  | 5 => (0xFFF, 0)
  | 9 => (0, 0x7F)
  | 10 => (0x80000000FFFFFFFF, 0)
  | 11 => (0x800000FFFFFFFFFF, 0)
  | 14 => (BitVec.allOnes 64, 0)
  | _ => (0, 0)

/-- A register after a write, field by field: RO fields keep their value, and a Sticky bit is cleared by 0 and kept by 1
(00_scope.md R5, 05_hart.md R163). -/
def csrField (n : BitVec 12) (old x : Word) : Word :=
  let (rw, sticky) := csrMasks n
  (old &&& ~~~(rw ||| sticky)) ||| (x &&& rw) ||| (old &&& x &&& sticky)

/-- Putting a state register back; TIMER is the package's, and the RO registers stay. -/
def Hart.putCsr (h : Hart) (n : BitVec 12) (x : Word) : Hart :=
  match n.toNat with
  | 0 => { h with status := x }
  | 1 => { h with cause := x }
  | 2 => { h with epc := x }
  | 3 => { h with ei := x }
  | 4 => { h with faddr := x }
  | 5 => { h with et := x }
  | 9 => { h with vstat := x }
  | 10 => { h with ffmask := x }
  | 11 => { h with cmask := x }
  | 14 => { h with rng := x }
  | _ => h

/-- Writing a state register as `csrw` does (05_hart.md R163); none for an illegal RM (03_arithmetic.md R81). -/
def Hart.writeCsr (h : Hart) (n : BitVec 12) (old x : Word) : Option Hart :=
  let new := csrField n old x
  if n = 5 && 4 < etRm new then none else some (h.putCsr n new)

/-- What a state instruction waits for (05_hart.md R151): for VSTAT the queues and the link tokens, for FFMASK and CMASK
the queues. -/
def State.afterCsr (s : State) (n : BitVec 12) (k : State → Out) : Out :=
  if n = 9 then
    s.afterDrain 7 (fun s => if s.hart.links.toList.any (fun t => t.state == .busy) then .next s else k s)
  else if n = 10 || n = 11 then s.afterDrain 7 k
  else k s

/-- A state instruction that writes: `f` gives the value from the old one; with `d` it also writes s[d] := old
(05_hart.md R163). -/
def csrWrite (f : Word → Word) (d : Option (BitVec 6)) (n : BitVec 12) (s : State) : Out :=
  s.afterCsr n fun s =>
    let old := s.readCsr n
    match s.hart.writeCsr n old (f old) with
    | none => s.raise eOperand 0 none 0 false
    | some h => match d with
      | some d => .next (s.setHart (h.retireS 4 d old))
      | none => .next (s.setHart h.retire)

/-- `csrr` (05_hart.md R163). -/
def execCsrr (d : BitVec 6) (n : BitVec 12) (s : State) : Out := s.afterCsr n (fun s => s.putS 4 d (s.readCsr n))

/-- `csrw` (05_hart.md R163). -/
def execCsrw (a : BitVec 6) (n : BitVec 12) (s : State) : Out := csrWrite (fun _ => s.hart.sreg a) none n s

/-- `csrs` (05_hart.md R163). -/
def execCsrs (d a : BitVec 6) (n : BitVec 12) (s : State) : Out := csrWrite (· ||| s.hart.sreg a) (some d) n s

/-- `csrc` (05_hart.md R163). -/
def execCsrc (d a : BitVec 6) (n : BitVec 12) (s : State) : Out := csrWrite (· &&& ~~~ s.hart.sreg a) (some d) n s

/-! ### Traps -/

/-- `trap`: it retires, and its EPC lies after it (05_hart.md R167). -/
def execTrap (s : State) : Out := s.raise eTrap 0 none 0 true

/-- `tret`: outside a handler `E_OPERAND`; else the handler's entries drain and what was held comes back (05_hart.md
R166). -/
def execTret (s : State) : Out :=
  if !s.hart.th then s.raise eOperand 0 none 0 false
  else s.afterDrain 7 (fun s => .next (s.setHart s.hart.trapReturn))

/-- `waitt`: it completes once TIMER ≥ s[a] (05_hart.md R167). -/
def execWaitt (a : BitVec 6) (s : State) : Out :=
  if s.hart.sreg a ≤ s.time then .next (s.setHart s.hart.retire) else .next s

/-- `brk`: `E_BREAK`, or debug halt while armed, with the next pc held (05_hart.md R167, 13_context.md R391). -/
def execBrk (s : State) : Out :=
  if s.hart.armed then .next (s.setHart ((s.hart.retire.breakChain 5 0).hold))
  else s.raise eBreak 0 none 0 false

/-! ### setvl -/

/-- The stalls a hart holds, ascending (01_engines.md R24). -/
def heldStalls (grant : Word) : List Nat := (List.range 16).filter (fun i => grant.getLsbD (16 + i))

/-- The stalls of a hart's partition on its core that no hart holds and no chain is lent, ascending (01_engines.md R27;
09_chain.md R271). -/
def State.freeStalls (s : State) (h : Hart) : List Nat :=
  (List.range 16).filter (fun i => (s.ownedStalls h.scopePart h.core).getLsbD i && !s.stallHeld h.core i && !s.lentOut h.core i)

/-- The stalls that the hart finds are fewer than its MIN and its target: the arbiter takes back what its core has lent, from
the chain of the lowest hart slot on, which breaks them with cause 3 (01_engines.md R29; 09_chain.md R271; log 50). -/
def State.takeBack (s : State) : State :=
  (List.finRange 64).foldl (fun (s : State) (i : Fin 64) =>
    let h := s.hart
    let found := (heldStalls h.grant).length + (s.freeStalls h).length
    let mine (x : Nat × Nat) : Bool := x.1 == h.core && (s.ownedStalls h.scopePart h.core).getLsbD x.2
    if s.harts[i].chain.lent.any mine && decide (found < min h.target.toNat h.minStalls) then
      { s with harts := s.harts.set i (s.harts[i].breakChain 3 0) }
    else s) s

/-- GRANT of some stalls (01_engines.md R24). -/
def grantOf (stalls : List Nat) : Word := word (stalls.foldl (fun n i => n + 2 ^ (16 + i)) 0 + stalls.length)

/-- A hart whose GRANT changes; a run that loses a stall its stages occupy breaks with cause 3 (09_chain.md R290), and a stall
given up leaves once the VIQ entries before this `setvl` have finished (07_lane.md R205, R230). -/
def Hart.setGrant (h : Hart) (g : Word) : Hart :=
  let lost := (List.range 16).any (fun i => h.chain.stalls.getLsbD i && !g.getLsbD (16 + i))
  let gone := (heldStalls h.grant).filter (fun i => !g.getLsbD (16 + i))
  { (if lost then h.breakChain 3 0 else h) with
    grant := g, leaving := h.leaving.filter (fun x => h.leaves x.1) ++ gone.map (fun i => (i, h.nextSeq)) }

/-- cap (01_engines.md R28). -/
def vlCap (count : Nat) (et : Word) : Nat := count * 8 * (1024 / etSew et) * etGroup et

/-- `setvl` (07_lane.md R204): the target is applied under 01_engines.md R27, and a hart that finds no stall waits. -/
def execSetvl (d a : BitVec 6) (i : BitVec 12) (s : State) : Out :=
  let h := s.hart
  let target := h.target.toNat
  if target = 0 then
    s.afterDrain 7 (fun s => .next ((s.setHart (s.hart.setGrant 0)).takeHartTrap eLease 0 none 0 false))
  else
    let s := s.takeBack
    let h := s.hart
    let own := heldStalls h.grant
    let stalls := if target ≤ own.length then own.take target else own ++ (s.freeStalls h).take (target - own.length)
    let stalls := sortBy (· ≤ ·) stalls
    if stalls.isEmpty then .next s
    else
      let et := i.setWidth 64
      let vl := word (min (h.sreg a).toNat (vlCap stalls.length et))
      .next (s.setHart ({ h.setGrant (grantOf stalls) with et := et, vl := vl }.retireS 4 d vl))

end Sys2Proof.Machine
end

