-- ==== Sys2Proof/Machine/ChainIns.lean ====
section
/-!
DEFINITION. The instructions of the chain sequencer: major 55. Each is enqueued in the VIQ with the scalar operands it names
(01_engines.md R13, R14, R16); what its entry does is said by `runEntry` in Engines.lean.
-/

namespace Sys2Proof.Machine

/-- Read and check a chain block and hold it as the current chain (09_chain.md R276). -/
def execChform (a : BitVec 6) (s : State) : Out :=
  issue (.chform a) 1 [a] s

/-- Start a run of N elements through the chain (09_chain.md R277). -/
def execChrun (a : BitVec 6) (s : State) : Out :=
  issue (.chrun a) 1 [a] s

/-- Wait until no run is attached (09_chain.md R279). -/
def execChwait (s : State) : Out :=
  issue .chwait 1 [] s

/-- Break a standing run with cause 6 and set the pin (09_chain.md R280). -/
def execChbreak (s : State) : Out :=
  issue .chbreak 1 [] s

/-- Release the chain after its run detaches (09_chain.md R281). -/
def execChfree (s : State) : Out :=
  issue .chfree 1 [] s

/-- Write chain status to the SRQ (09_chain.md R282). -/
def execChstat (s : State) : Out :=
  issue .chstat 1 [] s

/-- Write a stage's progress index to the SRQ (09_chain.md R282). -/
def execChidx (a : BitVec 6) (s : State) : Out :=
  issue (.chidx a) 1 [a] s

/-- Dequeue an element of an out-queue to the SRQ (09_chain.md R283). -/
def execQrd (x : BitVec 5) (s : State) : Out :=
  issue (.qrd x) 1 [] s

/-- Enqueue a scalar into an in-queue (09_chain.md R283). -/
def execQwr (x : BitVec 5) (a : BitVec 6) (s : State) : Out :=
  issue (.qwr x a) 1 [a] s

/-- Write a chaining queue's element count to the SRQ (09_chain.md R283). -/
def execQlen (x : BitVec 5) (s : State) : Out :=
  issue (.qlen x) 1 [] s

end Sys2Proof.Machine
end

