-- ==== Sys2Proof/Machine/Gate.lean ====
section
/-!
DEFINITION. Gates: handles, tolls, the checks of a gate instruction, and major 58 (11_gate.md R324 to R347).
-/

namespace Sys2Proof.Machine

/-! ### Gates -/

/-- A gate that is not FREE (11_gate.md R324). -/
def State.gate (s : State) (id : BitVec 12) : Option Gate := s.gates.find? (fun g => g.id == id)

/-- Changing a gate. -/
def State.modGate (s : State) (id : BitVec 12) (f : Gate → Gate) : State :=
  { s with gates := s.gates.map (fun g => if g.id = id then f g else g) }

/-- The valid entry of a partition on a gate (11_gate.md R326). -/
def Gate.entry (g : Gate) (part : BitVec 5) : Option GateEntry := g.list.find? (fun e => e.valid && e.part == part)

/-- The rights of an entry as `gopen` names them: bit 0 post, bit 1 wait, bit 2 read (11_gate.md R331). -/
def GateEntry.rights (e : GateEntry) : BitVec 3 :=
  (if e.post then 1 else 0) ||| (if e.wait then 2 else 0) ||| (if e.read then 4 else 0)

/-- A refill of an entry, `k` times (11_gate.md R327). -/
def GateEntry.refill (e : GateEntry) (k : Nat) : GateEntry :=
  if e.te then { e with level := BitVec.ofNat 24 (min (256 * e.cap.toNat) (e.level.toNat + k * e.rate.toNat)) } else e

/-- Refills of every gate that is not FROZEN (11_gate.md R327, R344). -/
def State.refill (s : State) (k : Nat) : State :=
  { s with gates := s.gates.map (fun g =>
      if g.state = .frozen then g else { g with list := g.list.map (fun e => e.refill k) }) }

/-- Package time moves on by `n` cycles: every entry refills at each multiple of 4,000 it reaches (11_gate.md R327). -/
def State.advance (s : State) (n : Nat) : State :=
  { s with time := s.time + word n }.refill ((s.time.toNat + n) / 4000 - s.time.toNat / 4000)

/-! ### Handles -/

/-- The slot a valid handle names in a partition's table (11_gate.md R328). -/
def State.handleSlot (s : State) (part : BitVec 5) (x : Word) : Option HandleSlot :=
  match ((s.handles[part.toNat]?).bind (fun t => t[bits x 0 8]?)) with
  | some h => if bits x 32 32 = 0 && h.isOpen && h.gen.toNat = bits x 8 24 then some h else none
  | none => none

/-- Changing a slot of a partition's table. -/
def State.modHandle (s : State) (part : BitVec 5) (i : Nat) (f : HandleSlot → HandleSlot) : State :=
  { s with handles := modAt s.handles part.toNat (fun t => modAt t i f) }

/-! ### Checks -/

/-- A gate instruction's trap (11_gate.md R330). -/
def State.gateTrap (s : State) (code : BitVec 8) (addr : Option Word) : Out :=
  (s.leaveTolls s.cur).raise code 6 addr 0 false

/-- Checks 2, 3 and 5 for a partition's handle and a right: the gate and the partition's entry, or the cause and FADDR
(11_gate.md R330). -/
def State.gateCheck (s : State) (part : BitVec 5) (x : Word) (right : BitVec 3) : Except (BitVec 8 × Word) (Gate × GateEntry) :=
  match s.handleSlot part x with
  | none => .error (eGateHandle, x)
  | some h =>
    let id := h.gate.setWidth 64
    match s.gate h.gate with
    | none => .error (eGateRevoked, id)
    | some g =>
      if h.stale || g.state = .revoked then .error (eGateRevoked, id)
      else match g.entry part with
        | none => .error (eGateAccess, id)
        | some e => if h.rights &&& right = 0 || e.rights &&& right = 0 then .error (eGateAccess, id) else .ok (g, e)

/-- The checks for the handle in a register and a right; `k` goes on with the gate and the partition's entry (11_gate.md
R330). -/
def State.withGate (s : State) (x : Word) (right : BitVec 3) (k : Gate → GateEntry → Out) : Out :=
  match s.gateCheck s.hart.part x right with
  | .error (code, addr) => s.gateTrap code (some addr)
  | .ok (g, e) => k g e

/-! ### Waits -/

/-- The right that a waiting instruction needs. -/
def GateWait.right (w : GateWait) : BitVec 3 := if w.post then 1 else 2

/-- How the gate judges a waiting instruction of a partition now, if it does (11_gate.md R330, R335, R343, R344). -/
def State.gateVerdict (s : State) (part : BitVec 5) (w : GateWait) : Option GateVerdict :=
  match s.gateCheck part w.handle w.right with
  | .error (code, addr) => some (.failed code addr)
  | .ok (g, _) => if !w.post && g.state != .frozen && w.limit ≤ g.ctr then some (.met g.pay) else none

/-- The instructions that wait at gates after a change of a gate, of its list or of a handle slot: each that has no verdict is
judged at that point in gate order, and acts on it at its hart's turn (11_gate.md R330, R342, R343, R347). -/
def State.wakeGates (s : State) : State :=
  { s with harts := s.harts.map (fun h => match h.gateWait with
    | some w => if w.verdict.isSome then h else { h with gateWait := some { w with verdict := s.gateVerdict h.part w } }
    | none => h) }

/-- Waiting at a gate. -/
def State.waitAt (s : State) (w : GateWait) : State := s.setHart { s.hart with gateWait := some w }

/-- No longer waiting at a gate. -/
def State.doneWaiting (s : State) : State := s.setHart { s.hart with gateWait := none }

/-- A gate operation waits for an acquire that stands in a queue (04_memory_model.md R123). -/
def State.afterAcquire (s : State) (k : State → Out) : Out := if s.hart.acquiring then .next s.pump.2 else k s

/-! ### Posts -/

/-- The posts of a partition that wait on a gate's toll, in order of arrival (11_gate.md R327): those of harts that still
wait. -/
def State.tollQueue (s : State) (g : Gate) (part : BitVec 5) : List (Fin 64) :=
  g.posts.filter (fun i => s.harts[i].part == part && (match s.harts[i].gateWait with
    | some w => w.post
    | none => false))

/-- Whether the toll admits a post of the hart of a slot now (11_gate.md R327): no earlier post of its partition waits, also where
the entry has since been rewritten to TE = 0, and a token is there. -/
def State.tollAdmits (s : State) (g : Gate) (e : GateEntry) (slot : Fin 64) : Bool :=
  ((s.tollQueue g e.part).takeWhile (· != slot)).isEmpty && (!e.te || 256 ≤ e.level.toNat)

/-- A post performed at the gate (11_gate.md R333): it costs a token, CTR saturates, and a payload is set. -/
def Gate.post (g : Gate) (part : BitVec 5) (slot : Fin 64) (x : Word) (pay : Option Word) : Gate :=
  { g with ctr := if g.ctr.toNat + x.toNat < 2 ^ 64 then g.ctr + x else BitVec.allOnes 64,
           pay := pay.getD g.pay,
           posts := g.posts.filter (· != slot),
           list := g.list.map (fun e => if e.valid && e.part == part && e.te then { e with level := e.level - 256 } else e) }

/-- `gpost` in either form (11_gate.md R333): a post that its toll does not admit waits in the order of arrival. -/
def gatePost (a b : BitVec 6) (pay : Option (BitVec 6)) (s : State) : Out :=
  s.afterRelease 0 0 fun s =>
    let h := s.hart
    match h.gateWait.bind (·.verdict) with
    | some (.failed code addr) => s.gateTrap code (some addr)
    | _ => s.withGate (h.sreg a) 1 fun g e =>
      if g.state != .frozen && s.tollAdmits g e s.cur then
        let s := s.modGate g.id (fun g => g.post h.part s.cur (h.sreg b) (pay.map h.sreg))
        .next (s.doneWaiting.setHart s.doneWaiting.hart.retire).wakeGates
      else
        let s := if h.gateWait.isSome || g.state = .frozen then s
          else s.modGate g.id (fun g => { g with posts := g.posts.filter (· != s.cur) ++ [s.cur] })
        .next (if g.state = .frozen && h.gateWait.isNone then s else s.waitAt ⟨h.sreg a, true, 0, none⟩)

/-! ### Major 58 -/

/-- `gpost` (11_gate.md R333). -/
def execGpost (a b : BitVec 6) (s : State) : Out := gatePost a b none s

/-- `gpost` with a payload (11_gate.md R333). -/
def execGpostPayload (d a b : BitVec 6) (s : State) : Out := gatePost a b (some d) s

/-- `gwait`: it waits until CTR reaches the threshold, and reads PAY as an acquire (11_gate.md R335). -/
def execGwait (d a b : BitVec 6) (s : State) : Out :=
  s.afterAcquire fun s =>
    let h := s.hart
    match h.gateWait.bind (·.verdict) with
    | some (.failed code addr) => s.gateTrap code (some addr)
    | some (.met pay) => s.doneWaiting.putS 4 d pay
    | none => s.withGate (h.sreg a) 2 fun g _ =>
      if g.state != .frozen && h.sreg b ≤ g.ctr then s.doneWaiting.putS 4 d g.pay
      else .next (s.waitAt ⟨h.sreg a, false, h.sreg b, none⟩)

/-- `gtry`: a post that never waits on the toll: s[d] is 0 when it was performed, else 1 (11_gate.md R334). It is a release only
where it posts, and only then raises a store that has timed out (04_memory_model.md R141). -/
def execGtry (d a b : BitVec 6) (s : State) : Out :=
  s.afterDrain 7 fun s =>
    let h := s.hart
    s.withGate (h.sreg a) 1 fun g e =>
      if g.state = .frozen then .next s
      else if s.tollAdmits g e s.cur && (s.tollQueue g e.part).isEmpty then
        s.afterLate (fun _ => true) 0 fun s =>
          (s.modGate g.id (fun g => g.post h.part s.cur (h.sreg b) none)).wakeGates.putS 4 d 0
      else s.putS 4 d 1

/-- `gread`: CTR, as an acquire (11_gate.md R336). -/
def execGread (d a : BitVec 6) (s : State) : Out :=
  s.afterAcquire fun s => s.withGate (s.hart.sreg a) 4 fun g _ => if g.state = .frozen then .next s else s.putS 4 d g.ctr

/-- `gopen` (11_gate.md R330, R331): the lowest free slot is opened under its next GEN, which skips 0. -/
def execGopen (d a b : BitVec 6) (s : State) : Out :=
  let h := s.hart
  let id := h.sreg a
  let want := h.sreg b
  let slots := (s.handles[h.part.toNat]?).getD (Vector.replicate 256 .reset)
  if want = 0 || bits want 3 61 ≠ 0 then s.gateTrap eOperand none
  else match slots.toList.findIdx? (fun x => !x.isOpen) with
    | none => s.gateTrap eGateHandle (some id)
    | some i =>
      let gate := id.setWidth 12
      match (if id.toNat < 4096 then s.gate gate else none) with
      | none => s.gateTrap eGateAccess (some id)
      | some g =>
        let rights : BitVec 3 := want.setWidth 3
        let listed := ((g.entry h.part).map (fun e => e.rights &&& rights == rights)).getD false
        if g.state = .revoked || !listed then s.gateTrap eGateAccess (some id)
        else if g.state = .frozen then .next s
        else
          let old := ((slots[i]?).getD .reset).gen
          let gen := if old + 1 = 0 then 1 else old + 1
          let s := (s.modHandle h.part i (fun _ => ⟨true, gate, rights, gen, false⟩)).wakeGates
          s.putS 4 d (word (gen.toNat * 256 + i))

/-- `gclose`: only the handle is checked, and its slot keeps its GEN (11_gate.md R328, R332). -/
def execGclose (a : BitVec 6) (s : State) : Out :=
  let h := s.hart
  let x := h.sreg a
  match s.handleSlot h.part x with
  | none => s.gateTrap eGateHandle (some x)
  | some _ =>
    let s := (s.modHandle h.part (bits x 0 8) (fun t => { t with isOpen := false, stale := false })).wakeGates
    .next (s.setHart s.hart.retire)

end Sys2Proof.Machine
end

