-- ==== Sys2Proof/Machine/Crier.lean ====
section
/-!
DEFINITION. The Crier: scanning rings, checking and processing packets, placing and admitting tasks, and delivering
records (12_command.md R348 to R361, R367, R368, R432; 01_engines.md R25, R40, R41).
-/

namespace Sys2Proof.Machine

/-! ### Rings -/

/-- The slots of a queue's ring (12_command.md R349). -/
def UserQueue.size (u : UserQueue) : Nat := 2 ^ (4 + u.sz.toNat)

/-- A field of a packet. -/
def Packet.at (p : Packet) (i : Nat) : Word := (p.dw[i]?).getD 0

/-- TYPE of a packet (12_command.md R352). -/
def Packet.typ (p : Packet) : Nat := bits (p.at 0) 1 7

/-- One round of a scan: the packet of the next slot, if V is set there (12_command.md R350). -/
def scanSlot (w : Agent) (u : UserQueue) : Acc (Option Packet) := do
  let slot := u.ring + word (64 * (u.ridx.toNat % u.size))
  let h ← loadElem w slot 8
  if h % 2 = 0 then pure none
  else do
    let rest ← loadDws w (slot + 8) 7
    storeElem w slot 8 (h - 1)
    storeElem w u.ridxAddr 8 (u.ridx + 1).toNat
    pure (some ⟨Vector.ofFn (fun i => ((word h :: rest)[i.val]?).getD 0), .fresh⟩)

/-- A scan of at most `fuel` slots; a fault stops the queue with RIDX unchanged (12_command.md R350). -/
def State.scanFor (s : State) (fn : BitVec 8) (q : BitVec 6) : Nat → State
  | 0 => s
  | fuel + 1 =>
    match s.queue fn q with
    | none => s
    | some u =>
      if u.stopped then s
      else match scanSlot (s.fnAgent fn) u s with
        | .ok none s => s
        | .ok (some p) s =>
          (s.modQueue fn q (fun u => { u with ridx := u.ridx + 1, pending := u.pending ++ [p] })).scanFor fn q fuel
        | .error e s => s.stopQueue fn q e

/-- A scan of a queue: as many packets as its ring holds (12_command.md R350). -/
def State.scan (s : State) (fn : BitVec 8) (q : BitVec 6) : State :=
  match s.queue fn q with
  | some u => s.scanFor fn q u.size
  | none => s

/-! ### Packets -/

/-- The packet of a queue that processing has reached, and its place: none while the queue is stopped, or while its BAR
waits for an earlier packet (12_command.md R351). -/
def UserQueue.reached (u : UserQueue) : Option (Nat × Packet) :=
  if u.stopped then none
  else match u.pending.findIdx? (fun p => match p.state with
      | .launched _ => false
      | .fresh | .waiting => true) with
    | none => none
    | some i => match u.pending[i]? with
      | none => none
      | some p => if (p.at 0).getLsbD 10 && i != 0 then none else some (i, p)

/-- What has become of a packet. -/
inductive Done where
  /-- It is complete. -/
  | complete
  /-- It is an accepted LAUNCH. -/
  | accepted (seq : BitVec 32)
  /-- It is a WAIT whose threshold is not met. -/
  | waits
deriving DecidableEq, Repr

/-- The packets after the one in hand, marked as waiting, has come to this. -/
def settlePacket (d : Done) : List Packet → List Packet
  | [] => []
  | p :: ps =>
    if p.state = .waiting then
      match d with
      | .complete => ps
      | .accepted seq => { p with state := .launched seq } :: ps
      | .waits => p :: ps
    else p :: settlePacket d ps

/-- The packets with one marked as in hand. -/
def markWaiting (ps : List Packet) (i : Nat) : List Packet :=
  ps.zipIdx.map (fun (p, k) => if k = i then { p with state := .waiting } else p)

/-- The place of a queue in the round over queues: by function, then by number (12_command.md R351). -/
def queueKey (fn : BitVec 8) (q : BitVec 6) : Nat := 64 * fn.toNat + q.toNat

/-- The queues with a packet to start, by their places in the round. -/
def State.readyQueues (s : State) : List Nat :=
  (List.range 129).flatMap fun f => (((s.funcs[f]?).getD .reset).queues.filter (fun u =>
    (u.reached.map (fun x => x.2.state == .fresh)).getD false)).map (fun u => queueKey (BitVec.ofNat 8 f) u.num)

/-- The queue that is served next: the first after the one served last, round the queues that have a packet to start
(12_command.md R351). -/
def State.nextQueue (s : State) : Option Nat :=
  let ready := sortBy (fun a b => a ≤ b) s.readyQueues
  (ready.find? (s.served < ·)).or ready.head?

/-- Processing the packet that a queue has reached, if `want` holds of it and, for one that starts, it is the queue's turn
(12_command.md R351). On a fault the queue stops at the packet, which has no effect (12_command.md R432). -/
def State.packet (s : State) (fn : BitVec 8) (q : BitVec 6) (want : Packet → Bool) (f : Packet → Acc Done) : Out :=
  match (s.queue fn q).bind UserQueue.reached with
  | none => .next s
  | some (i, p) =>
    if !want p || (p.state == .fresh && s.nextQueue != some (queueKey fn q)) then .next s
    else
      let s := if p.state = .fresh then { s with served := queueKey fn q } else s
      let t := s.modQueue fn q (fun u => { u with pending := markWaiting u.pending i })
      match f p t with
      | .ok d t => .next (t.modQueue fn q (fun u => { u with pending := settlePacket d u.pending }))
      | .error e t => .next ({ s with tlb := t.tlb, counters := t.counters }.stopQueue fn q e)

/-- A decrement of a completion signal, if the packet has one (12_command.md R353, R361). -/
def crierSignal (w : Agent) (addr : Word) (a : Nat) : Acc Unit := if addr = 0 then pure () else signalDec w addr a

/-! ### Checks -/

/-- How many operands a command uses, A first (12_command.md R373; 15_partitions.md R419; 13_context.md R392); none for an
OPC that is not in the table. -/
def operandCount (opc : Nat) : Option Nat :=
  match opc with
  | 0x01 | 0x05 | 0x10 | 0x22 | 0x30 => some 3
  | 0x02 | 0x03 | 0x06 | 0x23 | 0x24 | 0x31 | 0x50 | 0x52 => some 1
  | 0x04 | 0x07 | 0x21 | 0x40 | 0x42 | 0x43 | 0x51 => some 2
  | 0x11 | 0x20 | 0x41 | 0x60 => some 4
  | _ => none

/-- Whether only the PF may issue a command (12_command.md R373). -/
def pfOnly (opc : Nat) : Bool :=
  match opc with
  | 0x07 | 0x20 | 0x21 | 0x22 | 0x23 | 0x24 | 0x30 | 0x31 | 0x40 | 0x41 | 0x42 | 0x50 | 0x51 => true
  | _ => false

/-- Whether an address is aligned to the ring that an SZ in range lays out (12_command.md R349, R367). -/
def ringAligned (ring : Word) (sz : Nat) : Bool := 8 < sz || ring.toNat % (64 * 2 ^ (4 + sz)) == 0

/-- The reserved bits of a command's operands are 0, its addresses are aligned, and its fields that are no id, queue, partition or
function are in range (12_command.md R349, R354, R367, R371, R373; 13_context.md R392; 15_partitions.md R411, R416, R419, R421;
16_device.md R428). -/
def operandsOk (opc : Nat) (ops : List Word) : Bool :=
  let x (i : Nat) : Word := (ops[i]?).getD 0
  let aligned (i k : Nat) : Bool := bits (x i) 0 k == 0
  match opc with
  | 0x01 => bits (x 2) 0 4 ≤ 8 && x 2 &&& ~~~(0x310F : Word) == 0 && ringAligned (x 0) (bits (x 2) 0 4) && aligned 1 3
  | 0x04 => bits (x 1) 0 4 ≤ 8 && x 1 &&& ~~~(0x7FF0F : Word) == 0 && ringAligned (x 0) (bits (x 1) 0 4)
  | 0x05 => decide ((x 2).toNat ≤ 1)
  | 0x10 | 0x11 => x 1 == 1 || x 1 == 2
  | 0x20 | 0x21 => aligned 1 7
  | 0x30 => bits (x 0) 24 40 == 0
  | 0x40 => aligned 1 6
  | 0x41 => aligned 2 13 && aligned 3 13
  | 0x42 => aligned 1 14
  | 0x43 => aligned 1 6
  | 0x52 => aligned 0 6
  | 0x60 => bits (x 2) 4 28 == 0
  | _ => true

/-- The fields of a command that its OPC does not use are 0, and its operands are well formed (12_command.md R354, R370). -/
def commandOk (opc : Nat) (owner : BitVec 5) (ops : List Word) : Bool :=
  match operandCount opc with
  | none => true
  | some n => (opc == 0x20 || owner == 0) && (ops.drop n).all (· == 0) && operandsOk opc ops

/-- The packet is well formed: TYPE, reserved fields, alignments and the fields of its type (12_command.md R352, R353,
R355, R370, R354 step 1). -/
def Packet.ok (p : Packet) : Bool :=
  let h := p.at 0
  let zero (is : List Nat) : Bool := is.all (fun i => p.at i == 0)
  bits h 11 37 == 0 && (p.typ == 1 || bits h 8 2 == 0) && bits (p.at 6) 0 3 == 0 &&
  match p.typ with
  | 1 =>
    let t := p.at 3
    bits (p.at 7) 0 7 == 0 && p.at 1 != 0 && bits (p.at 1) 0 1 == 0 && bits (p.at 2) 0 1 == 0 && bits t 53 11 == 0 &&
      bits t 45 3 == 0 && bits t 39 1 == 0 && 1 ≤ bits t 32 7 && bits t 32 7 ≤ 64 && bits (p.at 4) 0 3 == 0
  | 2 => zero [2, 3, 4, 5, 7]
  | 3 => bits (p.at 2) 0 3 == 0 && zero [3, 4, 5, 7]
  | 4 => bits (p.at 7) 0 4 == 0 && bits (p.at 1) 21 43 == 0 &&
      commandOk (bits (p.at 1) 0 16) (BitVec.ofNat 5 (bits (p.at 1) 16 5)) [p.at 2, p.at 3, p.at 4, p.at 5]
  | 5 => zero [1, 2, 3, 4, 5, 7]
  | _ => false

/-- Whether the packet is denied to its function (12_command.md R354 step 2; 15_partitions.md R414, R417). -/
def State.denies (s : State) (fn : BitVec 8) (q : BitVec 6) (p : Packet) : Bool :=
  ((s.partOfFn fn).isNone && (fn != 0 || p.typ == 1)) ||
  (p.typ == 4 && (((s.queue fn q).map (·.hartKind)).getD false || (fn != 0 && pfOnly (bits (p.at 1) 0 16))))

/-- A status to REPLY (12_command.md R354, R370). A REPLY that is misaligned is left alone (log 22). -/
def replyStatus (w : Agent) (p : Packet) (st : BitVec 8) : Acc Unit := do
  if p.at 7 ≠ 0 ∧ bits (p.at 7) 0 3 = 0 then
    storeElem w (p.at 7) 8 st.toNat
    if p.typ = 4 ∧ bits (p.at 7) 0 4 = 0 then storeElem w (p.at 7 + 8) 8 0

/-- The decrement of a packet's signal at its end. A signal in host memory gives status BADPACKET, a record of KIND 6 and a stopped
queue; what the packet has done stands, and it is complete (12_command.md R361; log 72). -/
def packetSignal (fn : BitVec 8) (q : BitVec 6) (w : Agent) (p : Packet) (a : Nat) : Acc Unit := fun s =>
  match crierSignal w (p.at 6) a s with
  | .ok _ t => .ok () t
  | .error e t =>
    if e.code = eAtomic then
      match replyStatus w p 0x10 t with
      | .ok _ u => .ok () (u.stopQueue fn q e)
      | .error f u => .error f u
    else .error e t

/-- A rejection: the status to REPLY, the signal, and no record (12_command.md R354). A REPLY or SIGNAL that is misaligned
is left alone (log 22). -/
def rejectPacket (fn : BitVec 8) (q : BitVec 6) (w : Agent) (p : Packet) (st : BitVec 8) : Acc Done := do
  replyStatus w p st
  if bits (p.at 6) 0 3 = 0 then packetSignal fn q w p 1
  pure .complete

/-- A packet after the first two steps of R354: rejected, or processed by `f`. -/
def checkPacket (fn : BitVec 8) (q : BitVec 6) (f : Agent → Packet → Acc Done) (p : Packet) : Acc Done := do
  let s ← get
  let w := s.fnAgent fn
  if !p.ok then rejectPacket fn q w p 0x10
  else if s.denies fn q p then rejectPacket fn q w p 0x16
  else f w p

/-- Whether processing of a packet of a type begins with this one: a packet of no type at all is rejected whichever
processing finds it (12_command.md R354). -/
def startsAs (typ : Nat) (p : Packet) : Bool := p.state == .fresh && (p.typ == typ || p.typ == 0 || 5 < p.typ)

/-! ### The types that are neither LAUNCH nor COMMAND -/

/-- SIGNAL (12_command.md R353). -/
def signalBody (fn : BitVec 8) (q : BitVec 6) (w : Agent) (p : Packet) : Acc Done := do
  packetSignal fn q w p (p.at 1).toNat
  pure .complete

/-- WAIT, and each of its later reads (12_command.md R353). -/
def waitBody (fn : BitVec 8) (q : BitVec 6) (w : Agent) (p : Packet) : Acc Done := do
  let x ← loadElem w (p.at 2) 8
  if x ≤ (p.at 1).toNat then do
    packetSignal fn q w p 1
    pure .complete
  else pure .waits

/-- NOP (12_command.md R353). -/
def nopBody (fn : BitVec 8) (q : BitVec 6) (w : Agent) (p : Packet) : Acc Done := do
  packetSignal fn q w p 1
  pure .complete

/-! ### Launch records -/

/-- What a LAUNCH and its records ask for (12_command.md R355, R356). -/
structure Terms where
  min : Nat
  pref : Nat
  prio : Nat
  lease : Bool
  tiles : List TileRegion
  farms : Vector (Option Nat) 4
  gates : List (Word × BitVec 3)

/-- The launch records at an address, at most `n`: none without a record of KIND 0, whose fields are 0 (12_command.md
R356). -/
def loadRecords (w : Agent) : Nat → Word → Acc (Option (List (List Word)))
  | 0, _ => pure none
  | n + 1, a => do
    let r ← loadDws w a 4
    if bits ((r[0]?).getD 0) 0 8 = 0 then pure (if r.all (· == 0) then some [] else none)
    else do
      let rest ← loadRecords w n (a + 32)
      pure (rest.map (r :: ·))

/-- The terms with one record applied, none when it breaks the layout (12_command.md R356). -/
def Terms.record (t : Terms) (r : List Word) : Option Terms :=
  let d (i : Nat) : Word := (r[i]?).getD 0
  let h := d 0
  let only (mask : Word) : Bool := h &&& ~~~(mask ||| 0xFF) == 0
  let count (x : Word) : Bool := 1 ≤ x.toNat && x.toNat < 2 ^ 32
  if d 3 != 0 then none
  else match bits h 0 8 with
  | 1 =>
    if only 0x71F1F00 && d 1 == 0 && d 2 == 0 && !t.lease then
      some { t with lease := true, min := bits h 8 5, pref := bits h 16 5, prio := if h.getLsbD 26 then bits h 24 2 else t.prio }
    else none
  | 2 =>
    if only 0x100 && bits (d 1) 0 13 == 0 && count (d 2) && t.tiles.length < 16 then
      some { t with tiles := t.tiles ++ [⟨d 1, (d 2).toNat, h.getLsbD 8, none⟩] }
    else none
  | 3 =>
    let f := bits h 8 2
    if only 0x300 && count (d 1) && d 2 == 0 && ((t.farms[f]?).getD none).isNone then
      some { t with farms := modAt t.farms f (fun _ => some (d 1).toNat) }
    else none
  | 4 =>
    if only 0x700 && d 2 == 0 && t.gates.length < 16 then some { t with gates := t.gates ++ [(d 1, BitVec.ofNat 3 (bits h 8 3))] }
    else none
  | _ => none

/-- The terms of a LAUNCH with its records, none when they break the layout (12_command.md R355, R356). -/
def Packet.terms (p : Packet) (rs : List (List Word)) : Option Terms :=
  let t := p.at 3
  let start : Terms := ⟨bits t 40 5, bits t 48 5, bits (p.at 0) 8 2, false, [], Vector.replicate 4 none, []⟩
  match rs.foldl (fun acc r => acc.bind (·.record r)) (some start) with
  | none => none
  | some ts =>
    let strips := bits t 0 32
    some (if (ts.farms[0]).isNone ∧ strips ≠ 0 then { ts with farms := ts.farms.set 0 (some strips) } else ts)

/-! ### Where a task can lie -/

/-- The harts of a task that a core can hold under the stalls a partition owns there (12_command.md R357, R358). -/
def State.coreCap (s : State) (part : BitVec 5) (core min' : Nat) : Nat :=
  if min' = 0 then 4 else min 4 (countBits (s.ownedStalls part core) / min')

/-- The words of a region (06_port.md R183). -/
def TileRegion.words (r : TileRegion) : Nat := (r.bytes + 3) / 4

/-- The words of a partition's bank subset on a core (06_port.md R183). -/
def State.subsetWords (s : State) (part : BitVec 5) (core : Nat) : Nat :=
  (((s.part part).getD .reset).subset core).length * 6144

/-- The cores of a cluster, ascending. -/
def clusterCores (k : Nat) : List Nat := (List.range 4).map (4 * k + ·)

/-- The cores of a cluster on which a partition owns banks, from a starting core on, wrapping (12_command.md R358). -/
def State.homeCores (s : State) (part : BitVec 5) (start : Nat) : List Nat :=
  let cs := (clusterCores (start / 4)).filter (fun c => s.subsetWords part c != 0)
  if cs.contains start then cs.dropWhile (· != start) ++ cs.takeWhile (· != start) else []

/-- The lowest free run of `n` words among `cap`, beside runs that are taken (12_command.md R358). -/
def lowestRun (taken : List (Nat × Nat)) (n cap : Nat) : Option Nat :=
  let at_ := (sortBy (fun (x y : Nat × Nat) => x.1 ≤ y.1) taken).foldl (fun at_ (a, k) => if at_ + n ≤ a then at_ else max at_ (a + k)) 0
  if at_ + n ≤ cap then some at_ else none

/-- Homes for regions in declaration order, the `near` ones on `core` and the `clus` ones on successive cores of `cores`,
beside runs that are taken on each core (12_command.md R358). -/
def State.homeAll (s : State) (part : BitVec 5) (core : Nat) (cores : List Nat) :
    List TileRegion → Nat → List (Nat × Nat × Nat) → Option (List TileRegion)
  | [], _, _ => some []
  | r :: rs, k, taken =>
    let c := if r.clus then cores[k % cores.length]? else some core
    match c with
    | none => none
    | some c =>
      match lowestRun ((taken.filter (fun x => x.1 == c)).map (·.2)) r.words (s.subsetWords part c) with
      | none => none
      | some h =>
        (s.homeAll part core cores rs (if r.clus then k + 1 else k) ((c, h, r.words) :: taken)).map
          ({ r with home := some (BitVec.ofNat 4 c, h) } :: ·)

/-- The runs that the regions of a partition's tasks hold, with their cores. -/
def State.takenRuns (s : State) (part : BitVec 5) : List (Nat × Nat × Nat) :=
  (s.tasks.filter (fun t => t.part == part)).flatMap (fun t => t.tiles.filterMap (fun r =>
    r.home.map (fun (c, h) => (c.toNat, h, r.words))))

/-- The cores that could hold every hart by themselves (12_command.md R357). -/
def State.wholeCores (s : State) (part : BitVec 5) (min' harts : Nat) : List Nat :=
  (List.range 16).filter (fun c => harts ≤ s.coreCap part c min')

/-- The clusters that could hold every hart (12_command.md R357). -/
def State.wholeClusters (s : State) (part : BitVec 5) (min' harts : Nat) (near : Bool) : List Nat :=
  (List.range 4).filter (fun k =>
    if near then (clusterCores k).any (fun c => harts ≤ s.coreCap part c min')
    else harts ≤ ((clusterCores k).map (fun c => s.coreCap part c min')).sum)

/-- The SIZE check (12_command.md R357). -/
def State.sizeOk (s : State) (part : BitVec 5) (t : Terms) (harts : Nat) : Bool :=
  let near := t.tiles.any (fun r => !r.clus)
  if near then !(s.wholeCores part t.min harts).isEmpty
  else if t.tiles.any (·.clus) then !(s.wholeClusters part t.min harts false).isEmpty
  else harts ≤ ((List.range 16).map (fun c => s.coreCap part c t.min)).sum

/-- Whether two regions overlap. -/
def regionsMeet (a b : TileRegion) : Bool := a.base.toNat < b.base.toNat + b.bytes && b.base.toNat < a.base.toNat + a.bytes

/-- The TILE check (12_command.md R357). -/
def State.tileOk (s : State) (part : BitVec 5) (t : Terms) (harts : Nat) : Bool :=
  let near := t.tiles.filter (fun r => !r.clus)
  let clus := t.tiles.filter (·.clus)
  let apart := t.tiles.zipIdx.all (fun (r, i) => (t.tiles.drop (i + 1)).all (fun x => !regionsMeet r x))
  apart &&
  (near.isEmpty || (s.wholeCores part t.min harts).any (fun c => (s.homeAll part c [] near 0 []).isSome)) &&
  (clus.isEmpty || (s.wholeClusters part t.min harts (!near.isEmpty)).any (fun k => (clusterCores k).any (fun c =>
    (s.homeAll part c (s.homeCores part c) clus 0 []).isSome)))

/-- The GATE check (12_command.md R357). -/
def State.gatesOk (s : State) (part : BitVec 5) (t : Terms) : Bool :=
  t.gates.all (fun (id, r) =>
    match (if id.toNat < 4096 then s.gate (id.setWidth 12) else none) with
    | none => r == 0
    | some g => r &&& ((g.entry part).map (·.rights)).getD 0 == r)

/-! ### LAUNCH -/

/-- Whether a launch of a queue is still to be placed (12_command.md R351). -/
def Task.unplaced (t : Task) : Bool := t.status == 0x01

/-- The task that an accepted LAUNCH becomes (12_command.md R357, R363). -/
def Packet.task (p : Packet) (fn : BitVec 8) (u : UserQueue) (part : BitVec 5) (t : Terms) (seq : BitVec 32) (why : BitVec 8) :
    Task :=
  { seq := seq, fn := fn, queue := u.num, part := part, prio := BitVec.ofNat 2 (max t.prio u.pmin.toNat),
    min := BitVec.ofNat 5 t.min, pref := BitVec.ofNat 5 t.pref, entry := p.at 1, handler := p.at 2, args := p.at 5,
    signal := p.at 6, reply := p.at 7, status := 0x01, why := why, start := 0, finish := 0,
    farms := t.farms.map (fun f => f.map (fun n => ⟨n, 0, false⟩)), tiles := t.tiles, cores := [],
    places := List.replicate (bits (p.at 3) 32 7) .unplaced }

/-- LAUNCH: its records, the checks of R357, and acceptance with the next SEQ (12_command.md R355 to R357, R359). -/
def launchBody (fn : BitVec 8) (q : BitVec 6) (w : Agent) (p : Packet) : Acc Done := do
  let rs ← if p.at 4 = 0 then pure (some []) else loadRecords w 64 (p.at 4)
  let s ← get
  match rs.bind p.terms, s.queue fn q with
  | some t, some u =>
    let part := w.part
    let harts := bits (p.at 3) 32 7
    if 16 < t.min ∨ t.pref < t.min ∨ 16 < t.pref then rejectPacket fn q w p 0x11
    else if !s.sizeOk part t harts then rejectPacket fn q w p 0x12
    else if !s.tileOk part t harts then rejectPacket fn q w p 0x13
    else if !s.gatesOk part t then rejectPacket fn q w p 0x14
    else do
      let seq := s.nextTask + 1
      let behind := s.tasks.any (fun x => x.fn == fn && x.queue == q && x.unplaced)
      let task := p.task fn u part t seq (if behind then 5 else 0)
      if task.reply ≠ 0 then storeDws w task.reply task.pitch
      modify fun s => { s with nextTask := seq, tasks := s.tasks ++ [task] }
      pure (.accepted seq)
  | _, _ => rejectPacket fn q w p 0x10

/-! ### Placement -/

/-- The homes of a task's regions for harts on `core` and a starting core, beside the runs that are taken (12_command.md
R358). -/
def State.taskHomes (s : State) (t : Task) (core start : Nat) : Option (List TileRegion) :=
  s.homeAll t.part core (s.homeCores t.part start) t.tiles 0 (s.takenRuns t.part)

/-- Whether the harts of a task may lie on these cores (12_command.md R358). -/
def State.coresOk (s : State) (t : Task) (cores : List Nat) (start : Nat) : Bool :=
  let near := t.tiles.any (fun r => !r.clus)
  let clus := t.tiles.any (·.clus)
  let first := (cores[0]?).getD 0
  cores.length == t.places.length &&
  cores.all (fun c => (cores.filter (· == c)).length ≤ s.coreCap t.part c t.min.toNat) &&
  (!near || cores.all (· == first)) && (!clus || cores.all (fun c => c / 4 == start / 4))

/-- Whether any placement exists (12_command.md R358). -/
def State.placeable (s : State) (t : Task) : Bool :=
  let n := t.places.length
  let near := t.tiles.any (fun r => !r.clus)
  let clus := t.tiles.any (·.clus)
  if near then
    (s.wholeCores t.part t.min.toNat n).any (fun c =>
      if clus then (clusterCores (c / 4)).any (fun x => (s.taskHomes t c x).isSome) else (s.taskHomes t c c).isSome)
  else if clus then
    (s.wholeClusters t.part t.min.toNat n false).any (fun k => (clusterCores k).any (fun x => (s.taskHomes t x x).isSome))
  else n ≤ ((List.range 16).map (fun c => s.coreCap t.part c t.min.toNat)).sum

/-- Whether the regions would find room if no latency class bound them to a core or a cluster: each in turn on the first core
that has a free run for it. -/
def State.roomAnywhere (s : State) (part : BitVec 5) : List TileRegion → List (Nat × Nat × Nat) → Bool
  | [], _ => true
  | r :: rs, taken =>
    match (List.range 16).findSome? (fun c =>
        (lowestRun ((taken.filter (fun x => x.1 == c)).map (·.2)) r.words (s.subsetWords part c)).map (fun h => (c, h, r.words))) with
    | none => false
    | some x => s.roomAnywhere part rs (x :: taken)

/-- Why no placement exists (12_command.md R359; 01_engines.md R37; log 40): the power ceiling where MIN exceeds it on every
core that could hold a hart, hart slots where no cores could hold the harts, the latency class where only it cannot be
kept, and else tile memory. -/
def State.whyNot (s : State) (t : Task) : BitVec 8 :=
  let cores := (List.range 16).filter (fun c => s.coreCap t.part c t.min.toNat != 0)
  if cores.all (fun c => min ((s.stallCeil[c]?).getD 0) s.budget.1 < t.min.toNat) then 4
  else if t.places.length > (cores.map (fun c => s.coreCap t.part c t.min.toNat)).sum then 1
  else if s.roomAnywhere t.part t.tiles (s.takenRuns t.part) then 2
  else 3

/-- The placement engine chooses cores and a starting core for a task; the pitch says RUNNING and the harts join the hart
queues. A choice that breaks R358 does nothing, but where there is none to make, the pitch says why (12_command.md R351,
R358, R359). -/
def State.place (s : State) (t : Task) (cores : List Nat) (start : Nat) : State :=
  let earlier := (s.tasks.takeWhile (fun x => x.seq != t.seq)).any (fun x => x.fn == t.fn && x.queue == t.queue && x.unplaced)
  if !t.unplaced || earlier then s
  else if !s.placeable t then
    if t.why = s.whyNot t then s
    else
      let t := { t with why := s.whyNot t }
      (s.modTask t.seq (fun _ => t)).writePitch t
  else if !s.coresOk t cores start then s
  else match s.taskHomes t ((cores[0]?).getD 0) start with
    | none => s
    | some tiles =>
      let cs := cores.map (BitVec.ofNat 4)
      let t := { t with tiles := tiles, cores := cs, status := 0x02, why := 0, places := cs.map .queued }
      let ws := cs.zipIdx.map (fun (c, i) => (⟨t.seq, BitVec.ofNat 6 i, c, s.time⟩ : Waiter))
      let s := s.modTask t.seq (fun _ => t)
      { s with waiters := s.waiters ++ ws }.writePitch t

/-! ### Admission -/

/-- The place of a wait in a core's order: priority, then age, then task number, then hart (01_engines.md R41). -/
structure Turn where
  prio : Nat
  since : Word
  seq : BitVec 32
  index : BitVec 6
deriving DecidableEq, Repr

/-- Whether one wait is served before another (01_engines.md R41); the ages are taken at a time. -/
def Turn.before (now : Word) (a b : Turn) : Bool :=
  let age (x : Turn) : Nat := (now - x.since).toNat
  if a.prio != b.prio then a.prio < b.prio
  else if age a != age b then age b < age a
  else if a.seq != b.seq then a.seq.toNat < b.seq.toNat
  else a.index.toNat < b.index.toNat

/-- The turn of a waiting hart. -/
def State.turnOf (s : State) (w : Waiter) : Turn := ⟨((s.task w.seq).map (fun t => t.prio.toNat)).getD 3, w.since, w.seq, w.index⟩

/-- The waiting hart of a core whose turn it is (01_engines.md R41). -/
def State.firstWaiter (s : State) (core : BitVec 4) : Option Waiter :=
  (sortBy (fun a b => !(s.turnOf b).before s.time (s.turnOf a)) (s.waiters.filter (fun w => w.core == core))).head?

/-- The lowest free hart slot of a core. -/
def State.freeHart (s : State) (core : BitVec 4) : Option (Fin 64) :=
  (List.finRange 64).find? (fun i => i.val / 4 == core.toNat && s.harts[i].run == .absent)

/-- SCOPE of a hart in a slot (04_memory_model.md R117). -/
def scopeWord (part : BitVec 5) (host : Bool) (slot : Fin 64) : Word :=
  word (part.toNat * 2 ^ 27 + host.toNat * 2 ^ 26 + (slot.val % 4) * 2 ^ 24 + (slot.val / 4) * 2 ^ 20 + (if host then 6 else 4))

/-- A hart as it starts (12_command.md R360; 01_engines.md R23). -/
def Task.hart (t : Task) (host : Bool) (index : BitVec 6) (slot : Fin 64) (now : Word) : Hart :=
  { Hart.reset with
    run := .running, pc := t.entry,
    s := ((Hart.reset.s.set 1 t.args).set 2 (index.setWidth 64)).set 3 (word t.places.length),
    lease := word (t.prio.toNat * 2 ^ 16 + t.pref.toNat * 2 ^ 8 + t.min.toNat), scope := scopeWord t.part host slot,
    stallSince := now, unitSince := now, fn := t.fn, seq := t.seq, index := index, handler := t.handler }

/-- A waiting hart takes a slot (12_command.md R360); the first one sets START (R359). -/
def State.startHart (s : State) (w : Waiter) (slot : Fin 64) : State :=
  match s.task w.seq with
  | none => s
  | some t =>
    let host := ((s.part t.part).getD .reset).host
    let s := { s with harts := s.harts.set slot (t.hart host w.index slot s.time),
                      waiters := s.waiters.filter (fun x => !(x.seq == w.seq && x.index == w.index)) }
    (s.modTask w.seq (fun t => { t with
      start := (if t.start = 0 then s.time else t.start), places := t.places.set w.index.toNat (.resident slot) })).arbitrate
      (slot.val / 4)

/-- Whether a hart fits on both counts (01_engines.md R25). -/
def State.admits (s : State) (core : Nat) (part : BitVec 5) (min' : Nat) : Bool :=
  (s.fits core part min').1 && (s.fits core part min').2

/-- A hart whose record is answered goes on: as at trap return where its record holds the trap, else at its pc
(04_memory_model.md R111; 12_command.md R373; log 13). -/
def Hart.goOn (h : Hart) : Hart :=
  { (if h.asReturn then h.trapReturn else h) with run := .running, asReturn := false }

/-- An answered hart that stands stopped in place on a core and fits again (16_device.md R431). -/
def State.firstAnswered (s : State) (core : BitVec 4) : Option (Fin 64) :=
  (List.finRange 64).find? (fun i => i.val / 4 == core.toNat && s.harts[i].run == .answered &&
    s.admits core.toNat s.harts[i].scopePart s.harts[i].minStalls)

/-- A core admits a hart: one that stood stopped in place, or the waiting hart whose turn it is, into the lowest free slot,
if it fits (01_engines.md R25, R41; 16_device.md R431; log 23). A saved hart that awaits its restore is no waiting hart here
(log 59). -/
def State.admitOn (s : State) (core : BitVec 4) : State :=
  match s.firstAnswered core with
  | some i => { s with harts := s.harts.set i s.harts[i].goOn }.arbitrate core.toNat
  | none =>
    match s.firstWaiter core, s.freeHart core with
    | some w, some slot =>
      match s.task w.seq with
      | some t => if s.admits core.toNat t.part t.min.toNat then s.startHart w slot else s
      | none => s
    | _, _ => s

/-! ### Records -/

/-- The function whose event queue a record goes to: its own if it has one, else the PF's (12_command.md R367). -/
def State.recordDest (s : State) (r : HeldRecord) : BitVec 8 :=
  if (((s.funcs[r.fn.toNat]?).getD .reset).evq).isSome then r.fn else 0

/-- The hart, by task and number, whose context a record names that concerns another function than the PF (12_command.md
R368). -/
def HeldRecord.inPf (r : HeldRecord) : Option (BitVec 32 × BitVec 6) :=
  if r.fn ≠ 0 ∧ bits r.dw[0] 1 7 = 1 then some (BitVec.ofNat 32 (bits r.dw[0] 32 32), BitVec.ofNat 6 (bits r.dw[1] 0 6)) else none

/-- The event queue of a function. -/
def State.eventQueue (s : State) (fn : BitVec 8) : Option EventQueue := ((s.funcs[fn.toNat]?).getD .reset).evq

/-- Writing a record into the next slot of an event ring, when that slot's V is 0: dw1 to dw7, then dw0 (12_command.md
R367). -/
def writeRecord (w : Agent) (e : EventQueue) (r : HeldRecord) : Acc Bool := do
  let slot := e.ring + word (64 * (e.next % 2 ^ (4 + e.sz.toNat)))
  let h ← loadElem w slot 8
  if h % 2 = 1 then pure false
  else do
    storeDws w (slot + 8) (r.dw.toList.drop 1)
    storeElem w slot 8 (r.dw[0]).toNat
    pure true

/-- The held record with a place taken out. -/
def dropRecord (r : HeldRecord) : List HeldRecord → List HeldRecord
  | [] => []
  | x :: xs => if x = r then xs else x :: dropRecord r xs

/-- Delivering the oldest held record of an event queue, with its MSI-X message; a fault holds it, and is reported to the
PF once (12_command.md R367). With `again` the delivery is a retry. -/
def State.deliver (s : State) (fn : BitVec 8) (again : Bool) : State :=
  match s.eventQueue fn, s.records.find? (fun r => s.recordDest r == fn) with
  | some e, some r =>
    if e.faulted != again then s
    else
      let setEvq (s : State) (e : EventQueue) : State := s.modFn fn (fun f => { f with evq := some e })
      match writeRecord (s.fnAgent fn) e r s with
      | .ok true s =>
        let s := setEvq s { e with next := e.next + 1, faulted := false }
        { s with records := dropRecord r s.records, sent := s.sent ++ [.msix fn e.vector],
                 pfRecords := (if fn = 0 then r.inPf else none).toList ++ s.pfRecords }
      | .ok false s => setEvq s { e with faulted := false }
      | .error f s =>
        let s := setEvq s { e with faulted := true }
        if fn = 0 ∨ again then s
        else s.post (mkRecord 0 0 ((s.partOfFn fn).getD 31) 0 7 f.code 6 0 0 0 0 0 64 f.addr 0)
  | _, _ => s

/-- Every record that can go into a function's event queue now (12_command.md R367). -/
def State.deliverAll (s : State) (fn : BitVec 8) : State :=
  (List.range s.records.length).foldl (fun s _ => s.deliver fn false) s

/-! ### Events -/

/-- A write to NOTIFY (12_command.md R348, R350). -/
def execNotify (fn : BitVec 8) (q : BitVec 6) (s : State) : Out := .next (s.scan fn q)

/-- A periodic scan (12_command.md R350). -/
def execQueueScan (fn : BitVec 8) (q : BitVec 6) (s : State) : Out := .next (s.scan fn q)

/-- A LAUNCH packet (12_command.md R355 to R357). -/
def execLaunchPacket (fn : BitVec 8) (q : BitVec 6) (s : State) : Out :=
  s.packet fn q (startsAs 1) (checkPacket fn q (launchBody fn q))

/-- A SIGNAL packet (12_command.md R353). -/
def execSignalPacket (fn : BitVec 8) (q : BitVec 6) (s : State) : Out :=
  s.packet fn q (startsAs 2) (checkPacket fn q (signalBody fn q))

/-- A WAIT packet (12_command.md R353). -/
def execWaitPacket (fn : BitVec 8) (q : BitVec 6) (s : State) : Out :=
  s.packet fn q (startsAs 3) (checkPacket fn q (waitBody fn q))

/-- A later read of a WAIT packet's doubleword (12_command.md R353). -/
def execWaitReread (fn : BitVec 8) (q : BitVec 6) (s : State) : Out :=
  s.packet fn q (fun p => p.state == .waiting) (fun p => do
    let s ← get
    waitBody fn q (s.fnAgent fn) p)

/-- A NOP packet (12_command.md R353). -/
def execNopPacket (fn : BitVec 8) (q : BitVec 6) (s : State) : Out :=
  s.packet fn q (startsAs 5) (checkPacket fn q (nopBody fn q))

/-- The placement engine places a task (12_command.md R358, R359). -/
def execPlacement (seq : BitVec 32) (cores : List (BitVec 4)) (start : BitVec 4) (s : State) : Out :=
  match s.task seq with
  | some t => .next (s.place t (cores.map BitVec.toNat) start.toNat)
  | none => .next s

/-- A core admits a hart (01_engines.md R25, R41). -/
def execHartAdmit (core : BitVec 4) (s : State) : Out := .next (s.admitOn core)

/-- A held record is delivered (12_command.md R367). -/
def execRecordDeliver (fn : BitVec 8) (s : State) : Out := .next (s.deliver fn false)

/-- A record write that faulted is tried again (12_command.md R367). -/
def execRecordRetry (fn : BitVec 8) (s : State) : Out := .next (s.deliver fn true)

end Sys2Proof.Machine
end

