-- ==== Sys2Proof/Machine/CommandIns.lean ====
section
/-!
DEFINITION. Major 59: farm claims, the end of a hart, signals and hart queues (12_command.md R362 to R366). Their faults
carry CAUSE.SRC 7.
-/

namespace Sys2Proof.Machine

/-- An access of an instruction, whose fault is a hart trap of the engine `src` (12_command.md R362; 13_context.md R386). -/
def State.via (s : State) (src : BitVec 4) (a : Acc α) (k : State → α → Out) : Out :=
  match a s with
  | .ok x s => k s x
  | .error e s => s.raiseFail src e

/-- `fclaim` (12_command.md R363): the counter takes the request as far as the strips go, and s[d] says which are
claimed. -/
def execFclaim (d a b : BitVec 6) (s : State) : Out :=
  s.afterAcquire fun s =>
    let h := s.hart
    let f := (h.sreg a).toNat
    let c := (h.sreg b).toNat
    match (s.task h.seq).bind (fun t => (t.farms[f]?).getD none) with
    | none => s.raise eOperand 7 none 0 false
    | some farm => if farm.bad then (s.countUe).raise eEcc 7 none 0 false else
      let old := farm.counter
      let s := s.modTask h.seq (fun t =>
        { t with farms := modAt t.farms f (fun _ => some { farm with counter := min (old + c) farm.strips }) })
      s.putS 4 d (word (min c (farm.strips - old) * 2 ^ 32 + old))

/-- An entry that stands for an engine instruction of `fend`. -/
def blankEntry (i : Instr) : Entry := ⟨i, none, 0, 0, 0, 0, 0, 0, 0, 0, 0, false, 0, []⟩

/-- The configured nodes of a hart (08_gather_fabric.md R232). -/
def Hart.configured (h : Hart) : BitVec 8 :=
  BitVec.ofNat 8 (((List.range 8).filter (fun n => (h.fnode n).state != .idle)).foldl (fun m n => m + 2 ^ n) 0)

/-- FAULT tokens discarded, when every token has completed (12_command.md R364). -/
def Hart.discard (h : Hart) : Hart :=
  let done (t : Token) : Token := if t.state = .fault then { t with state := .done } else t
  { h with copies := h.copies.map done, links := h.links.map done }

/-- Every window closed (08_gather_fabric.md R257; 12_command.md R364). -/
def Hart.closeWindows (h : Hart) : Hart := { h with windows := Vector.replicate 8 .reset }

/-- The end of a hart: its slot is free, and a task whose harts have all ended ends (12_command.md R360, R364). -/
def State.endHart (s : State) : State :=
  let h := s.hart
  (s.freeSlot s.cur).hartEnded h.seq h.index

/-- `fend` (12_command.md R364). -/
def execFend (s : State) : Out :=
  s.afterDrain 7 fun s =>
    let h := s.hart
    if h.copies.toList.any (fun t => t.state == .busy) || h.links.toList.any (fun t => t.state == .busy) then .next s
    else
      let s := s.setHart h.discard
      let end_ (s : State) : Out := (s.setHart s.hart.closeWindows).afterLate (fun _ => true) 7 (fun s => .next s.endHart)
      if h.configured = 0 then end_ s
      else match fabricDrain (blankEntry (.fdrain h.configured)) h.configured s with
        | .ok _ s => end_ s
        | .error .wait s => .next s
        | .error (.trap code _ addr gpa _) s => s.raise code 7 addr gpa false

/-- `sigdec` (12_command.md R365): a release, then one RMW. -/
def execSigdec (a b : BitVec 6) (s : State) : Out :=
  s.afterRelease 0 7 fun s =>
    let h := s.hart
    let va := h.sreg a
    if va.toNat % 8 ≠ 0 then s.raiseFail 7 ⟨eAlign, va, 0⟩
    else s.via 7 (signalDec h.agent va (h.sreg b).toNat) (fun s _ => .next (s.setHart s.hart.retire))

/-- `sigwait` (12_command.md R365): it waits until the doubleword is at most s[b]. -/
def execSigwait (a b : BitVec 6) (s : State) : Out :=
  s.afterAcquire fun s =>
    let h := s.hart
    let va := h.sreg a
    if va.toNat % 8 ≠ 0 then s.raiseFail 7 ⟨eAlign, va, 0⟩
    else s.via 7 (loadElem h.agent va 8) (fun s x =>
      if x ≤ (h.sreg b).toNat then .next (s.setHart s.hart.retire) else .next s)

/-- Placing a packet in the next slot of a hart queue, dw0 with V set last (12_command.md R366). -/
def placePacket (w : Agent) (u : UserQueue) (dw : List Word) : Acc Unit := do
  let slot := u.ring + word (64 * (u.widx.toNat % u.size))
  storeDws w (slot + 8) (dw.drop 1)
  storeElem w slot 8 (((dw[0]?).getD 0) ||| 1).toNat

/-- `launch` (12_command.md R366): the packet at s[a] goes into a hart queue of the hart's function, and the queue is
scanned. A fault on the ring stops the queue (R350; log 24). -/
def execLaunch (a b : BitVec 6) (s : State) : Out :=
  let h := s.hart
  let q : BitVec 6 := (h.sreg b).setWidth 6
  match (if (h.sreg b).toNat < 64 then (s.queue h.fn q).filter (·.hartKind) else none) with
  | none => s.raise eOperand 7 none 0 false
  | some _ =>
    let va := h.sreg a
    if va.toNat % 64 ≠ 0 then s.raiseFail 7 ⟨eAlign, va, 0⟩
    else s.afterRelease 0 7 fun s =>
      match s.queue h.fn q with
      | none => s.raise eOperand 7 none 0 false
      | some u =>
        if u.size ≤ (u.widx - u.ridx).toNat then .next s
        else s.via 7 (loadDws s.hart.agent va 8) (fun s dw =>
          match placePacket (s.fnAgent h.fn) u dw s with
          | .ok _ s =>
            let s := (s.modQueue h.fn q (fun u => { u with widx := u.widx + 1 })).scan h.fn q
            .next (s.setHart s.hart.retire)
          | .error e s =>
            let s := s.stopQueue h.fn q e
            .next (s.setHart s.hart.retire))

end Sys2Proof.Machine
end

