-- ==== Sys2Proof/Machine/Garuf.lean ====
section
/-!
DEFINITION. Garuf commands: how one is taken and answered, and the commands on queues, roots, gates, power, limits and
counters (12_command.md R370 to R374, R432; 11_gate.md R343; 16_device.md R427 to R429).
-/

namespace Sys2Proof.Machine

/-! ### Taking a command -/

/-- A command as it acts: who issues it and its operands (12_command.md R370). -/
structure Command where
  fn : BitVec 8
  opc : Nat
  owner : BitVec 5
  a : Word
  b : Word
  c : Word
  d : Word
deriving DecidableEq, Repr

/-- A command's answer: STATUS and VALUE (12_command.md R370). -/
abbrev Answer := BitVec 8 × Word

/-- OK (12_command.md R374). -/
def stOk : BitVec 8 := 0x00
/-- DENIED. -/
def stDenied : BitVec 8 := 0x16
/-- BUSY. -/
def stBusy : BitVec 8 := 0x17
/-- NOSPACE. -/
def stNoSpace : BitVec 8 := 0x18
/-- NOTFOUND. -/
def stNotFound : BitVec 8 := 0x19
/-- REFUSED. -/
def stRefused : BitVec 8 := 0x1A
/-- INVALID, and BADCMD. -/
def stInvalid : BitVec 8 := 0x1B

/-- An answer without a value. -/
def answer (st : BitVec 8) : Acc Answer := pure (st, 0)

/-- The command of a packet (12_command.md R370). -/
def Packet.command (p : Packet) (fn : BitVec 8) : Command :=
  ⟨fn, bits (p.at 1) 0 16, BitVec.ofNat 5 (bits (p.at 1) 16 5), p.at 2, p.at 3, p.at 4, p.at 5⟩

/-- The reply of a command (12_command.md R370). -/
def commandReply (w : Agent) (reply : Word) (r : Answer) : Acc Unit := do
  if reply ≠ 0 then
    storeElem w reply 8 r.1.toNat
    storeElem w (reply + 8) 8 r.2.toNat

/-- The reply of a command, and its signal (12_command.md R370, R372). -/
def finishCommand (w : Agent) (reply signal : Word) (r : Answer) : Acc Unit := do
  commandReply w reply r
  crierSignal w signal 1

/-- The end of a command that no queue holds; a signal in host memory gives it status BADPACKET (12_command.md R361; logs 6, 72). -/
def endDirect (w : Agent) (x : Cmd) (r : Answer) : Acc Answer := fun s =>
  match finishCommand w x.reply x.signal r s with
  | .ok _ t => .ok r t
  | .error e t =>
    if e.code = eAtomic then
      match commandReply w x.reply (0x10, 0) t with
      | .ok _ u => .ok (0x10, 0) u
      | .error f u => .error f u
    else .error e t

/-- The effect of a command; an OPC that is not in the table is BADCMD (12_command.md R373). -/
def runCommand (f : Agent → Command → Acc Answer) (w : Agent) (c : Command) : Acc Answer :=
  if (operandCount c.opc).isNone then answer stInvalid else f w c

/-- A command that comes from a function directly, checked as a packet is (12_command.md R354; log 6). -/
def directCommand (f : Agent → Command → Acc Answer) (x : Cmd) (c : Command) : Acc Answer := do
  let s ← get
  let w := s.fnAgent x.fn
  let r ← if !commandOk c.opc c.owner [c.a, c.b, c.c, c.d] || bits x.signal 0 3 != 0 || bits x.reply 0 4 != 0 then answer 0x10
    else if ((s.partOfFn x.fn).isNone && x.fn != 0) || (x.fn != 0 && pfOnly c.opc) then answer stDenied
    else runCommand f w c
  if bits x.signal 0 3 = 0 ∧ bits x.reply 0 4 = 0 then endDirect w x r else pure r

/-- Whether the command is one an event of this OPC takes; one whose OPC is not in the table is answered by whichever event
finds it. -/
def takes (opc : Nat) (want : Command → Bool) (c : Command) : Bool :=
  (operandCount c.opc).isNone || (c.opc == opc && want c)

/-- A command, at one instant: from the packet its queue has reached, or directly (12_command.md R372; log 6). -/
def State.command (s : State) (x : Cmd) (opc : Nat) (want : Command → Bool) (f : Agent → Command → Acc Answer) : Out :=
  if x.ring then
    s.packet x.fn x.q (fun p => p.state == .fresh && p.typ == 4 && takes opc want (p.command x.fn))
      (checkPacket x.fn x.q (fun w p => do
        let r ← runCommand f w (p.command x.fn)
        commandReply w (p.at 7) r
        packetSignal x.fn x.q w p 1
        pure .complete))
  else
    let c : Command := ⟨x.fn, opc, x.owner, x.a, x.b, x.c, x.d⟩
    if 128 < x.fn.toNat ∨ !want c then .next s
    else match directCommand f x c s with
      | .ok r t => .next { t with sent := t.sent ++ [.reply x.fn r.1 r.2] }
      | .error _ t => .next { s with tlb := t.tlb, counters := t.counters }

/-- Any command of its OPC. -/
def anyCommand : Command → Bool := fun _ => true

/-- Changing the package within a computation. -/
def change (f : State → State) : Acc Unit := fun s => .ok () (f s)

/-! ### Queues -/

/-- The queue a command names, or its status (12_command.md R373). -/
def Command.queue (c : Command) (s : State) : Except (BitVec 8) UserQueue :=
  if 64 ≤ c.a.toNat then .error stInvalid
  else match s.queue c.fn (c.a.setWidth 6) with
    | none => .error stNotFound
    | some u => .ok u

/-- QUEUE_CREATE (12_command.md R349, R373). -/
def queueCreateBody (w : Agent) (c : Command) : Acc Answer := do
  let s ← get
  let used := ((s.funcs[c.fn.toNat]?).getD .reset).queues.map (fun u => u.num.toNat)
  match (List.range 64).find? (fun n => !used.contains n) with
    | none => answer stNoSpace
    | some n => do
      storeElem w c.b 8 0
      let u : UserQueue := { num := BitVec.ofNat 6 n, ring := c.a, sz := BitVec.ofNat 4 (bits c.c 0 4), ridxAddr := c.b, ridx := 0,
                             widx := 0, hartKind := c.c.getLsbD 8, pmin := BitVec.ofNat 2 (bits c.c 12 2), stopped := false, pending := [] }
      change (·.modFn c.fn (fun g => { g with queues := g.queues ++ [u] }))
      pure (stOk, word n)

/-- QUEUE_DESTROY (12_command.md R373). -/
def queueDestroyBody (_ : Agent) (c : Command) : Acc Answer := do
  let s ← get
  match c.queue s with
  | .error st => answer st
  | .ok u =>
    if s.tasks.any (fun t => t.fn == c.fn && t.queue == u.num) then answer stBusy
    else do
      change (·.modFn c.fn (fun g => { g with queues := g.queues.filter (fun v => v.num != u.num) }))
      answer stOk

/-- QUEUE_RESTART (12_command.md R373). -/
def queueRestartBody (_ : Agent) (c : Command) : Acc Answer := do
  let s ← get
  match c.queue s with
  | .error st => answer st
  | .ok u =>
    if !u.stopped then answer stInvalid
    else do
      change (·.modQueue c.fn u.num (fun u => { u with stopped := false }))
      answer stOk

/-- EVQ_CREATE (12_command.md R367, R373; 15_partitions.md R420): the held records are delivered as the slots allow. -/
def evqCreateBody (_ : Agent) (c : Command) : Acc Answer := do
  let s ← get
  let vector := bits c.b 8 11
  if c.fn ≠ 0 ∧ 32 ≤ vector then answer stInvalid
  else if (s.eventQueue c.fn).isSome then answer stNoSpace
  else do
    let e : EventQueue := ⟨c.a, BitVec.ofNat 4 (bits c.b 0 4), BitVec.ofNat 11 vector, 0, false⟩
    change (fun s => (s.modFn c.fn (fun g => { g with evq := some e })).deliverAll c.fn)
    answer stOk

/-! ### Roots and invalidation -/

/-- Whether a function may name this stage and function (12_command.md R373; log 25). -/
def Command.mayRoot (c : Command) : Bool := c.fn == 0 || (c.b == 1 && c.a == c.fn.setWidth 64)

/-- Dropping cached pages (04_memory_model.md R112). -/
def State.dropPages (s : State) (p : CachedPage → Bool) : State := { s with tlb := s.tlb.filter (fun c => !p c) }

/-- ROOT_SET (12_command.md R373; 04_memory_model.md R106): the root of a function, or of its partition. -/
def rootSetBody (_ : Agent) (c : Command) : Acc Answer := do
  let s ← get
  if 128 < c.a.toNat then answer stInvalid
  else if !c.mayRoot then answer stDenied
  else
    let fn : BitVec 8 := c.a.setWidth 8
    if c.b = 1 then do
      change (fun s => (s.modFn fn (fun g => { g with root := c.c })).dropPages (fun p => p.fn == fn))
      answer stOk
    else match s.partOfFn fn with
      | none => answer stNotFound
      | some part => do
        change (fun s => { s with roots2 := modAt s.roots2 part.toNat (fun _ => c.c) }.dropPages (fun p => p.part == part))
        answer stOk

/-- INVALIDATE (12_command.md R373; 04_memory_model.md R112): the pages of a function in a range, or everything of a
partition, whose table walks a stage-2 range may also serve (log 7). -/
def invalidateBody (_ : Agent) (c : Command) : Acc Answer := do
  if (if c.b = 1 then 128 else 23) < c.a.toNat then answer stInvalid
  else if !c.mayRoot then answer stDenied
  else
    let meets (page : Nat) : Bool := c.d == 0 || (page * 0x2000 < c.c.toNat + c.d.toNat && c.c.toNat < page * 0x2000 + 0x2000)
    do
      change (·.dropPages (fun p => if c.b = 1 then p.fn.toNat == c.a.toNat && meets p.page else p.part.toNat == c.a.toNat))
      answer stOk

/-! ### Gates -/

/-- Entry `e` of an access list as a doubleword gives it (12_command.md R371). -/
def listEntry (x : Word) : GateEntry :=
  { valid := x.getLsbD 0, part := BitVec.ofNat 5 (bits x 1 5), post := x.getLsbD 6, wait := x.getLsbD 7, read := x.getLsbD 8,
    te := x.getLsbD 9, cap := BitVec.ofNat 16 (bits x 16 16), rate := BitVec.ofNat 16 (bits x 32 16),
    level := BitVec.ofNat 24 (256 * bits x 16 16) }

/-- An access list, none when it is refused (12_command.md R371). -/
def accessList (xs : List Word) : Option (List GateEntry) :=
  let valid := (xs.filter (fun x => x.getLsbD 0))
  let parts := valid.map (fun x => bits x 1 5)
  if valid.any (fun x => 23 < bits x 1 5 || (x.getLsbD 9 && bits x 16 16 == 0) || bits x 10 6 != 0 || bits x 48 16 != 0) ||
      !(parts == parts.eraseDups) then none
  else some (xs.map listEntry)

/-- The gate a command names, or its status (12_command.md R373). -/
def Command.gate (c : Command) (s : State) : Except (BitVec 8) Gate :=
  if 4096 ≤ c.a.toNat then .error stInvalid
  else match s.gate (c.a.setWidth 12) with
    | none => .error stNotFound
    | some g => .ok g

/-- GATE_CREATE (12_command.md R371, R373; 11_gate.md R325). -/
def gateCreateBody (w : Agent) (c : Command) : Acc Answer := do
  if 4096 ≤ c.a.toNat then answer stInvalid
  else do
    let xs ← loadDws w c.b 16
    let s ← get
    if (s.gate (c.a.setWidth 12)).isSome then answer stBusy
    else match (if 23 < c.owner.toNat then none else accessList xs) with
      | none => answer stInvalid
      | some list => do
        let g : Gate := ⟨c.a.setWidth 12, .active, c.c, c.d, c.owner, list, []⟩
        change (fun s => ({ s with gates := s.gates ++ [g] } : State).wakeGates)
        answer stOk

/-- GATE_LIST (12_command.md R371, R373; 11_gate.md R343). -/
def gateListBody (w : Agent) (c : Command) : Acc Answer := do
  let s ← get
  match c.gate s with
  | .error st => answer st
  | .ok g => do
    let xs ← loadDws w c.b 16
    match accessList xs with
    | none => answer stInvalid
    | some list => do
      change (fun s => (s.modGate g.id (fun g => { g with list := list })).wakeGates)
      answer stOk

/-- A command that changes a gate and needs nothing more; what waits at the gate meets the change (11_gate.md R343, R347). -/
def onGate (c : Command) (f : Gate → State → State) : Acc Answer := do
  let s ← get
  match c.gate s with
  | .error st => answer st
  | .ok g => do
    change (fun s => (f g s).wakeGates)
    answer stOk

/-- GATE_SET (12_command.md R373). -/
def gateSetBody (_ : Agent) (c : Command) : Acc Answer :=
  onGate c (fun g s => s.modGate g.id (fun g => { g with ctr := c.b, pay := c.c }))

/-- A gate becomes REVOKED (11_gate.md R343, R346). -/
def State.revoke (s : State) (id : BitVec 12) : State := s.modGate id (fun g => { g with state := .revoked })

/-- GATE_REVOKE (12_command.md R373; 11_gate.md R343). -/
def gateRevokeBody (_ : Agent) (c : Command) : Acc Answer := onGate c (fun g s => s.revoke g.id)

/-- A gate becomes FREE: handles on it stay open and fault (12_command.md R373; 11_gate.md R330). -/
def State.deleteGate (s : State) (id : BitVec 12) : State :=
  { s with gates := s.gates.filter (fun g => g.id != id),
           handles := s.handles.map (fun t => t.map (fun h => if h.isOpen ∧ h.gate = id then { h with stale := true } else h)) }

/-- GATE_DELETE (12_command.md R373). -/
def gateDeleteBody (_ : Agent) (c : Command) : Acc Answer := onGate c (fun g s => s.deleteGate g.id)

/-! ### Power, limits and counters -/

/-- Each core's ceilings as far as they can take effect, and its arbiters (16_device.md R430). -/
def State.settleAll (s : State) : State := (List.range 16).foldl (fun s c => s.arbitrate c) s

/-- POWER_SET (16_device.md R429, R430). -/
def powerSetBody (_ : Agent) (c : Command) : Acc Answer :=
  if c.a.toNat < 800 ∨ 1800 < c.a.toNat then answer stInvalid
  else do
    change (fun s => { s with power := c.a.toNat }.settleAll)
    answer stOk

/-- LIMIT_SET (16_device.md R427). -/
def limitSetBody (_ : Agent) (c : Command) : Acc Answer :=
  let out (x lo hi : Nat) : Bool := x != 0 && !(2 ^ lo ≤ x && x ≤ 2 ^ hi)
  if out c.a.toNat 12 32 || out c.b.toNat 16 40 then answer stInvalid
  else do
    change (fun s => { s with watchdog := if c.a = 0 then s.watchdog else c.a.toNat,
                              timeout := if c.b = 0 then s.timeout else c.b.toNat })
    answer stOk

/-- The doublewords of COUNTERS (16_device.md R428). -/
def State.counterDws (s : State) : List Word :=
  let c := s.counters
  [c.ceSram, c.ceHbm, c.ceGate, c.ue, c.bell, c.power, c.tmax ++ BitVec.ofNat 32 (min s.power s.thermal),
   (0#16 ++ c.slotAborts ++ c.trips ++ c.steps : BitVec 64)]

/-- COUNTERS (16_device.md R428). -/
def countersBody (w : Agent) (c : Command) : Acc Answer := do
  let s ← get
  storeDws w c.a s.counterDws
  answer stOk

/-! ### Commands -/

/-- QUEUE_CREATE (12_command.md R373). -/
def execQueueCreate (x : Cmd) (s : State) : Out := s.command x 0x01 anyCommand queueCreateBody

/-- QUEUE_DESTROY (12_command.md R373). -/
def execQueueDestroy (x : Cmd) (s : State) : Out := s.command x 0x02 anyCommand queueDestroyBody

/-- QUEUE_RESTART (12_command.md R373). -/
def execQueueRestart (x : Cmd) (s : State) : Out := s.command x 0x03 anyCommand queueRestartBody

/-- EVQ_CREATE (12_command.md R373). -/
def execEvqCreate (x : Cmd) (s : State) : Out := s.command x 0x04 anyCommand evqCreateBody

/-- ROOT_SET (12_command.md R373). -/
def execRootSet (x : Cmd) (s : State) : Out := s.command x 0x10 anyCommand rootSetBody

/-- INVALIDATE (12_command.md R373). -/
def execInvalidate (x : Cmd) (s : State) : Out := s.command x 0x11 anyCommand invalidateBody

/-- GATE_CREATE (12_command.md R373). -/
def execGateCreate (x : Cmd) (s : State) : Out := s.command x 0x20 anyCommand gateCreateBody

/-- GATE_LIST (12_command.md R373). -/
def execGateList (x : Cmd) (s : State) : Out := s.command x 0x21 anyCommand gateListBody

/-- GATE_SET (12_command.md R373). -/
def execGateSet (x : Cmd) (s : State) : Out := s.command x 0x22 anyCommand gateSetBody

/-- GATE_REVOKE (12_command.md R373). -/
def execGateRevoke (x : Cmd) (s : State) : Out := s.command x 0x23 anyCommand gateRevokeBody

/-- GATE_DELETE (12_command.md R373). -/
def execGateDelete (x : Cmd) (s : State) : Out := s.command x 0x24 anyCommand gateDeleteBody

/-- POWER_SET (12_command.md R373). -/
def execPowerSet (x : Cmd) (s : State) : Out := s.command x 0x50 anyCommand powerSetBody

/-- LIMIT_SET (12_command.md R373). -/
def execLimitSet (x : Cmd) (s : State) : Out := s.command x 0x51 anyCommand limitSetBody

/-- COUNTERS (12_command.md R373). -/
def execCounters (x : Cmd) (s : State) : Out := s.command x 0x52 anyCommand countersBody

end Sys2Proof.Machine
end

