-- ==== Sys2Proof/Machine/Window.lean ====
section
/-!
DEFINITION. The debug window, debug halt and the DEBUG command, and major 61: `ctxsave`, `ctxload` and `dbgwin`
(13_context.md R386 to R392). Faults of major 61 carry CAUSE.SRC 8.
-/

namespace Sys2Proof.Machine

/-! ### Held state -/

/-- A doubleword of held state (13_context.md R390): an entry of queue `q`, or a return entry. -/
inductive HeldCell where
  | pc
  | ld
  | counts
  | entry (q : BitVec 2) (e w : Nat)
  | ret (bq : Bool) (e w : Nat)
deriving DecidableEq, Repr

/-- A held queue by number (05_hart.md R148). -/
def Held.entries (d : Held) (q : BitVec 2) : List Entry :=
  if q = 1 then d.viq else if q = 2 then d.piq else if q = 3 then d.miq else []

/-- Changing a held queue. -/
def Held.modEntries (d : Held) (q : BitVec 2) (f : List Entry → List Entry) : Held :=
  if q = 1 then { d with viq := f d.viq } else if q = 2 then { d with piq := f d.piq }
  else if q = 3 then { d with miq := f d.miq } else d

/-- A held return queue. -/
def Held.rets (d : Held) (bq : Bool) : List RetEntry := if bq then d.bq else d.srq

/-- The held doubleword at a window address, if it is in a held range (13_context.md R390). -/
def heldCell (d : Held) (x : Nat) : Option HeldCell :=
  let entry (q : BitVec 2) (k : Nat) : Option HeldCell :=
    if k / 8 < (d.entries q).length then some (.entry q (k / 8) (k % 8)) else none
  let ret (bq : Bool) (k : Nat) : Option HeldCell := if k / 2 < (d.rets bq).length then some (.ret bq (k / 2) (k % 2)) else none
  if x = 0 then some .pc
  else if x = 1 then some .ld
  else if x = 2 then some .counts
  else if 0x100 ≤ x ∧ x < 0x200 then entry 1 (x - 0x100)
  else if 0x200 ≤ x ∧ x < 0x300 then entry 2 (x - 0x200)
  else if 0x300 ≤ x ∧ x < 0x380 then entry 3 (x - 0x300)
  else if 0x400 ≤ x ∧ x < 0x420 then ret false (x - 0x400)
  else if 0x480 ≤ x ∧ x < 0x4A0 then ret true (x - 0x480)
  else none

/-- Reading a held doubleword (13_context.md R382, R390). -/
def Held.read (d : Held) : HeldCell → Word
  | .pc => d.pc
  | .ld => d.ld.setWidth 64
  | .counts => countDw d.viq.length d.piq.length d.miq.length d.srq.length d.bq.length
  | .entry q e w => (((d.entries q)[e]?).bind (fun x => x.dws[w]?)).getD 0
  | .ret bq e w => (((d.rets bq)[e]?).bind (fun x => x.dws[w]?)).getD 0

/-- The queue that a word's major goes to, 0 for none (02_encoding.md R57). -/
def wordQueue (w : Word) : BitVec 2 :=
  let m := bits w 1 6
  if (25 ≤ m ∧ m ≤ 40) ∨ (50 ≤ m ∧ m ≤ 55) then 1
  else if (42 ≤ m ∧ m ≤ 49) ∨ m = 60 then 2
  else if m = 56 ∨ m = 57 then 3 else 0

/-- An entry with one doubleword written, none when the write is rejected (13_context.md R389): `room` says whether a
return queue has room for one more. -/
def Entry.write (e : Entry) (q : BitVec 2) (room : Bool → Bool) (w : Nat) (v : Word) : Option Entry :=
  let put : Entry := e.ofDws (e.dws.set w v)
  match w with
  | 0 =>
    match (if bits v 32 32 = 0 ∧ wordQueue v = q then instrOfWord v else none) with
    | none => none
    | some i =>
      if (givesSrq i && !givesSrq e.instr && !room false) || (givesBq i && !givesBq e.instr && !room true) then none
      else some (if i = e.instr ∧ e.raw.isNone then e else { put with started := false, base := 0, blocks := [] })
  | 2 => if bits v 0 32 ≤ etGroup e.et * 131072 / etSew e.et ∧ bits v 32 32 ≤ bits v 0 32 then some put else none
  | 3 => if etRm v ≤ 4 ∧ bits v 12 52 = 0 then some put else none
  | _ => some put

/-- Changing one place of a list. -/
def modList (xs : List α) (i : Nat) (f : α → α) : List α := xs.zipIdx.map (fun (x, k) => if k = i then f x else x)

/-- Held state with a doubleword written, none when the write is rejected (13_context.md R389). -/
def Held.write (d : Held) (room : Bool → Bool) (c : HeldCell) (v : Word) : Option Held :=
  match c with
  | .pc => if bits v 0 1 = 0 then some { d with pc := v } else none
  | .ld => if v.toNat < 64 then some { d with ld := v.setWidth 6 } else none
  | .counts =>
    let n (lo k : Nat) : Nat := bits v lo k
    if n 0 6 ≤ d.viq.length ∧ n 8 6 ≤ d.piq.length ∧ n 16 5 ≤ d.miq.length ∧ n 24 5 ≤ d.srq.length ∧ n 32 5 ≤ d.bq.length then
      some { d with viq := d.viq.take (n 0 6), piq := d.piq.take (n 8 6), miq := d.miq.take (n 16 5),
                    srq := d.srq.take (n 24 5), bq := d.bq.take (n 32 5) }
    else none
  | .entry q e w =>
    match ((d.entries q)[e]?).bind (fun x => x.write q room w v) with
    | none => none
    | some x => some (d.modEntries q (fun xs => modList xs e (fun _ => x)))
  | .ret bq e w =>
    let put (r : RetEntry) : RetEntry := if w = 0 then { r with val := v } else { r with src := v.setWidth 2 }
    some (if bq then { d with bq := modList d.bq e put } else { d with srq := modList d.srq e put })

/-- Whether a return queue has room for one more entry, held ones and reservations included (13_context.md R389;
01_engines.md R16). -/
def Hart.retRoom (h : Hart) (bq : Bool) : Bool :=
  let gives (es : List Entry) : Nat := (es.filter (fun e => if bq then givesBq e.instr else givesSrq e.instr)).length
  let heldIn (d : Held) : Nat := (d.rets bq).length + gives (d.viq ++ d.piq ++ d.miq)
  (if bq then h.bq else h.srq).length + gives (h.viq ++ h.piq ++ h.miq) + heldIn h.held +
    ((h.dbg.map heldIn).getD 0) < 16

/-! ### The window -/

/-- Doubleword `j` of a register. -/
def dwAt (x : BitVec n) (j : Nat) : Word := (x >>> (64 * j)).setWidth 64

/-- A register with doubleword `j` replaced. -/
def setDw (x : BitVec n) (j : Nat) (v : Word) : BitVec n :=
  (x &&& ~~~((BitVec.allOnes 64).setWidth n <<< (64 * j))) ||| (v.setWidth n <<< (64 * j))

/-- Reading the window of a halted hart (13_context.md R390); an address in no range reads 0. -/
def Hart.windowRead (h : Hart) (d : Held) (time : Word) (x : Nat) : Word :=
  match heldCell d x with
  | some c => d.read c
  | none =>
    if 0x1000 ≤ x ∧ x < 0x1040 then h.sreg (BitVec.ofNat 6 (x - 0x1000))
    else if 0x1040 ≤ x ∧ x < 0x1060 then h.freg (BitVec.ofNat 5 (x - 0x1040))
    else if 0x1080 ≤ x ∧ x < 0x108F then h.stateReg time (x - 0x1080)
    else if 0x10000 ≤ x ∧ x < 0x20000 then dwAt ((h.v[(x - 0x10000) / 2048]?).getD 0) ((x - 0x10000) % 2048)
    else if 0x20000 ≤ x ∧ x < 0x20040 then BitVec.allOnes 64
    else if 0x20040 ≤ x ∧ x < 0x21800 then dwAt ((h.m[(x - 0x20000) / 64]?).getD 0) ((x - 0x20000) % 64)
    else if 0x22000 ≤ x ∧ x < 0x24000 then dwAt ((h.c[(x - 0x22000) / 512]?).getD 0) ((x - 0x22000) % 512)
    else if 0x24000 ≤ x ∧ x < 0x28000 then
      ((((h.chain.q[(x - 0x24000) / 512]?).getD [])[(x - 0x24000) % 512]?)).getD 0
    else if 0x28000 ≤ x ∧ x < 0x28020 then word (((h.chain.q[x - 0x28000]?).getD []).length)
    else 0

/-- A halted hart whose window has had state register `n` written: a written ei is the value that resumption uses, for the oldest
head and, in a trap handler, for the handler (13_context.md R392). -/
def Hart.wroteReg (h : Hart) (n : Nat) : Hart :=
  if n = 3 then { h with dbg := h.dbg.map (fun d => { d with eiSet := h.ei }) } else h

/-- Writing the window of a halted hart, none when the write is rejected (13_context.md R389, R390). -/
def Hart.windowWrite (h : Hart) (d : Held) (time : Word) (x : Nat) (v : Word) : Option Hart :=
  match heldCell d x with
  | some c => (d.write h.retRoom c v).map (fun d => { h with dbg := some d })
  | none =>
    if 0x1000 ≤ x ∧ x < 0x1040 then some (h.setS (BitVec.ofNat 6 (x - 0x1000)) v)
    else if 0x1040 ≤ x ∧ x < 0x1060 then some (h.setF (BitVec.ofNat 5 (x - 0x1040)) v)
    else if 0x1080 ≤ x ∧ x < 0x108F then
      (h.writeCsr (BitVec.ofNat 12 (x - 0x1080)) (h.stateReg time (x - 0x1080)) v).map (fun h => h.wroteReg (x - 0x1080))
    else if 0x10000 ≤ x ∧ x < 0x20000 then
      let n := (x - 0x10000) / 2048
      some { h with v := modAt h.v n (fun r => setDw r ((x - 0x10000) % 2048) v), vLive := h.vLive ||| BitVec.twoPow 32 n }
    else if 0x20040 ≤ x ∧ x < 0x21800 then
      let n := (x - 0x20000) / 64
      some { h with m := modAt h.m n (fun r => setDw r ((x - 0x20000) % 64) v), mLive := h.mLive ||| BitVec.twoPow 96 n }
    else if 0x22000 ≤ x ∧ x < 0x24000 then
      let n := (x - 0x22000) / 512
      some { h with c := modAt h.c n (fun r => setDw r ((x - 0x22000) % 512) v), cLive := h.cLive ||| BitVec.twoPow 16 n }
    else if 0x24000 ≤ x ∧ x < 0x28000 then
      let n := (x - 0x24000) / 512
      let j := (x - 0x24000) % 512
      if j < ((h.chain.q[n]?).getD []).length then
        some { h with chain := { h.chain with q := modAt h.chain.q n (fun xs => modList xs j (fun _ => v)) } }
      else none
    else if 0x28000 ≤ x ∧ x < 0x28020 then
      let n := x - 0x28000
      if v.toNat ≤ ((h.chain.q[n]?).getD []).length then
        some { h with chain := { h.chain with q := modAt h.chain.q n (fun xs => xs.take v.toNat) } }
      else none
    else none

/-- `dbgwin` (13_context.md R388). -/
def execDbgwin (d a b : BitVec 6) (s : State) : Out :=
  let h := s.hart
  let arg := h.sreg a
  match (if h.heldBit && bits arg 32 31 == 0 then heldCell h.held (bits arg 0 32) else none) with
  | none => s.putS 4 d 0
  | some c =>
    let old := h.held.read c
    let held := if arg.getLsbD 63 then (h.held.write h.retRoom c (h.sreg b)).getD h.held else h.held
    (s.setHart { h with held := held }).putS 4 d old

/-! ### State images -/

/-- The items of a state image in order: kind 0 v, 1 c, 2 m, and the register (13_context.md R387). -/
def imageItems (sel : Word) : List (Nat × Nat) :=
  ((List.range 32).filter (fun n => sel.getLsbD n)).map (fun n => (0, n)) ++
  ((List.range 16).filter (fun n => sel.getLsbD (32 + n))).map (fun n => (1, n)) ++
  (if sel.getLsbD 48 then (List.range 95).map (fun n => (2, n + 1)) else [])

/-- The doublewords of an item. -/
def itemSize (kind : Nat) : Nat := if kind = 0 then 2048 else if kind = 1 then 512 else 64

/-- The bits of an item, as doublewords (13_context.md R387). -/
def Hart.item (h : Hart) (x : Nat × Nat) : List Word :=
  dwordsOf (itemSize x.1) (match x.1 with
    | 0 => ((h.v[x.2]?).getD 0).toNat
    | 1 => ((h.c[x.2]?).getD 0).toNat
    | _ => ((h.m[x.2]?).getD 0).toNat)

/-- An item loaded: the register becomes live (13_context.md R387). -/
def Hart.putItem (h : Hart) (x : Nat × Nat) (ws : List Word) : Hart :=
  let n := ofDwords ws
  match x.1 with
  | 0 => { h with v := modAt h.v x.2 (fun _ => BitVec.ofNat _ n), vLive := h.vLive ||| BitVec.twoPow 32 x.2 }
  | 1 => { h with c := modAt h.c x.2 (fun _ => BitVec.ofNat _ n), cLive := h.cLive ||| BitVec.twoPow 16 x.2 }
  | _ => { h with m := modAt h.m x.2 (fun _ => BitVec.ofNat _ n), mLive := h.mLive ||| BitVec.twoPow 96 x.2 }

/-- Moving the items of an image one after another (13_context.md R387). -/
def moveItems (load : Bool) (w : Agent) : List (Nat × Nat) → Word → Acc Unit
  | [], _ => pure ()
  | x :: xs, a => do
    if load then do
      let ws ← loadDws w a (itemSize x.1)
      modify fun s => s.setHart (s.hart.putItem x ws)
    else do
      let s ← get
      storeDws w a (s.hart.item x)
    moveItems load w xs (a + word (8 * itemSize x.1))

/-- `ctxsave` and `ctxload` (13_context.md R387). -/
def imageOp (load : Bool) (a b : BitVec 6) (s : State) : Out :=
  let h := s.hart
  let sel := h.sreg b
  let va := h.sreg a
  if bits sel 49 15 ≠ 0 then s.raise eOperand 8 none 0 false
  else if va.toNat % 64 ≠ 0 then s.raiseFail 8 ⟨eAlign, va, 0⟩
  else s.afterRelease 0 8 fun s =>
    s.via 8 (moveItems load s.hart.agent (imageItems sel) va) (fun s _ => .next (s.setHart s.hart.retire))

/-- `ctxsave` (13_context.md R387). -/
def execCtxsave (a b : BitVec 6) (s : State) : Out := imageOp false a b s

/-- `ctxload` (13_context.md R387). -/
def execCtxload (a b : BitVec 6) (s : State) : Out := imageOp true a b s

/-! ### DEBUG -/

/-- OP of a DEBUG command (13_context.md R392). -/
def Command.debugOp (c : Command) : Nat := bits c.c 0 4

/-- The place of the hart that a DEBUG command names, or its status (12_command.md R373; 13_context.md R392). -/
def Command.debugHart (c : Command) (s : State) : Except (BitVec 8) HartPlace :=
  if 6 < c.debugOp then .error stInvalid
  else match (if c.a.toNat < 2 ^ 32 then s.task (c.a.setWidth 32) else none) with
    | none => .error stNotFound
    | some t =>
      if c.fn ≠ 0 ∧ c.fn ≠ t.fn then .error stNotFound
      else match (if c.b.toNat < 64 then t.places[c.b.toNat]? else none) with
        | none | some .ended => .error stNotFound
        | some p => .ok p

/-- A DEBUG operation on a resident hart; one on a hart that is not resident finds it busy (log 26). -/
def debugOn (c : Command) (f : Fin 64 → Hart → Acc Answer) : Acc Answer := do
  let s ← get
  match c.debugHart s with
  | .error st => answer st
  | .ok (.resident slot) => f slot s.harts[slot]
  | .ok _ => answer stBusy

/-- A DEBUG operation on a halted hart, with what the halt holds (13_context.md R392). -/
def debugHalted (c : Command) (f : Fin 64 → Hart → Held → Acc Answer) : Acc Answer :=
  debugOn c fun slot h =>
    match h.run, h.dbg with
    | .halted, some d => f slot h d
    | _, _ => answer stBusy

/-- Putting a hart into its slot. -/
def putHart (slot : Fin 64) (h : Hart) : Acc Answer := do
  change (fun s => { s with harts := s.harts.set slot h })
  answer stOk

/-- HALT (13_context.md R391, R392): the queues are held where they stand, and a standing chain breaks with cause 5. -/
def debugHaltBody (_ : Agent) (c : Command) : Acc Answer :=
  debugOn c fun slot h =>
    match h.run with
    | .halted => answer stOk
    | .running => do
      change (·.leaveTolls slot)
      putHart slot { (h.breakChain 5 0).hold with stepping := 0 }
    | .absent | .stopped | .answered | .preempted => answer stBusy

/-- A halted hart runs again from its held state (13_context.md R392). -/
def Hart.unhalt (h : Hart) (stepping : BitVec 2) : Hart := { h.unhold with run := .running, stepping := stepping }

/-- RESUME (13_context.md R392). -/
def debugResumeBody (_ : Agent) (c : Command) : Acc Answer := debugHalted c (fun slot h _ => putHart slot (h.unhalt 0))

/-- STEP (13_context.md R392): the hart halts again at the end of its turn. -/
def debugStepBody (_ : Agent) (c : Command) : Acc Answer := debugHalted c (fun slot h _ => putHart slot (h.unhalt 1))

/-- READ (13_context.md R392). -/
def debugReadBody (_ : Agent) (c : Command) : Acc Answer :=
  debugHalted c fun _ h d => do
    let s ← get
    pure (stOk, h.windowRead d s.time (bits c.c 32 32))

/-- WRITE (13_context.md R392). -/
def debugWriteBody (_ : Agent) (c : Command) : Acc Answer :=
  debugHalted c fun slot h d => do
    let s ← get
    match h.windowWrite d s.time (bits c.c 32 32) c.d with
    | none => answer stInvalid
    | some h => putHart slot h

/-- ARM and DISARM (13_context.md R392). -/
def debugArmBody (on : Bool) (_ : Agent) (c : Command) : Acc Answer := debugOn c (fun slot h => putHart slot { h with armed := on })

/-- DEBUG HALT (13_context.md R391, R392), and any OP that is not one. -/
def execDebugHalt (x : Cmd) (s : State) : Out := s.command x 0x60 (fun c => c.debugOp == 0 || 6 < c.debugOp) debugHaltBody

/-- DEBUG RESUME (13_context.md R392). -/
def execDebugResume (x : Cmd) (s : State) : Out := s.command x 0x60 (fun c => c.debugOp == 1) debugResumeBody

/-- DEBUG STEP (13_context.md R392). -/
def execDebugStep (x : Cmd) (s : State) : Out := s.command x 0x60 (fun c => c.debugOp == 2) debugStepBody

/-- DEBUG READ (13_context.md R392). -/
def execDebugRead (x : Cmd) (s : State) : Out := s.command x 0x60 (fun c => c.debugOp == 3) debugReadBody

/-- DEBUG WRITE (13_context.md R392). -/
def execDebugWrite (x : Cmd) (s : State) : Out := s.command x 0x60 (fun c => c.debugOp == 4) debugWriteBody

/-- DEBUG ARM (13_context.md R392). -/
def execDebugArm (x : Cmd) (s : State) : Out := s.command x 0x60 (fun c => c.debugOp == 5) (debugArmBody true)

/-- DEBUG DISARM (13_context.md R392). -/
def execDebugDisarm (x : Cmd) (s : State) : Out := s.command x 0x60 (fun c => c.debugOp == 6) (debugArmBody false)

end Sys2Proof.Machine
end

