-- ==== Sys2Proof/Machine/Moves.lean ====
section
/-!
DEFINITION. Contexts that move: pre-emption, saves, restores, and the commands that answer a record, abort a task or
continue a pending transfer (13_context.md R376 to R385; 12_command.md R373; 01_engines.md R30, R42; 10_matrix.md R301,
R317; 16_device.md R430, R431).
-/

namespace Sys2Proof.Machine

/-- An outcome with another hart as the one that moves. -/
def State.outOn (s : State) (slot : Fin 64) (f : State → Out) : Out :=
  match f { s with cur := slot } with
  | .next t => .next { t with cur := s.cur }
  | .fault r => .fault r
  | .refused r => .refused r

/-! ### Pre-emption -/

/-- The lowest-priority hart of some, highest hart number first (01_engines.md R30, R42). -/
def lastHart (hs : List (Nat × Hart)) : Option (Nat × Hart) :=
  hs.foldl (fun (best : Option (Nat × Hart)) x => match best with
    | none => some x
    | some y => if y.2.prio ≤ x.2.prio then some x else best) none

/-- A wait that pre-empts on a core: its priority, partition and MIN, and whether it needs a hart slot. -/
structure Need where
  prio : Nat
  part : BitVec 5
  min : Nat
  slot : Bool
deriving DecidableEq, Repr

/-- The waits of a core that R42 serves: a hart that stands stopped in place and is answered, and the waiting hart whose
turn it is (01_engines.md R42; 16_device.md R431). -/
def State.needs (s : State) (core : Nat) : List Need :=
  ((List.finRange 64).filter (fun i => i.val / 4 == core && s.harts[i].run == .answered)).map (fun i =>
    (⟨s.harts[i].prio, s.harts[i].scopePart, s.harts[i].minStalls, false⟩ : Need)) ++
  (match s.firstWaiter (BitVec.ofNat 4 core) with
    | none => []
    | some w => match s.task w.seq with
      | none => []
      | some t => [⟨t.prio.toNat, t.part, t.min.toNat, true⟩])

/-- The hart that a wait pre-empts: none while it can be admitted, or where no hart of lower priority would help
(01_engines.md R42). -/
def State.victimOf (s : State) (core : Nat) (n : Need) : Option (Nat × Hart) :=
  let (all, part) := s.fits core n.part n.min
  let slot := !n.slot || (s.freeHart (BitVec.ofNat 4 core)).isSome
  if all && part && slot then none
  else
    let lower := (s.residents core).filter (fun x => n.prio < x.2.prio)
    lastHart (if all && slot then lower.filter (fun x => x.2.scopePart == n.part) else lower)

/-- Whether a trigger pre-empts the hart of a slot now: 0 a waiting hart of higher priority, 1 the power ceiling, 2 the
matrix ceiling. MIGRATE_OUT pre-empts for itself (13_context.md R376, R384). -/
def State.preempts (s : State) (slot : Fin 64) (trigger : BitVec 2) : Bool :=
  let h := s.harts[slot]
  let core := slot.val / 4
  let is (x : Option (Nat × Hart)) : Bool := (x.map (·.1)) == some (slot.val % 4)
  h.resident && !(s.fencedOn h.scopePart (BitVec.ofNat 4 core)) &&
  (if trigger = 0 then
     (s.countedOn core).all (fun x => x.2.run != .preempted) && (s.needs core).any (fun n => is (s.victimOf core n))
   else if trigger = 1 then s.budget.1 < sumMin (s.residents core) && is (lastHart (s.residents core))
   else trigger = 2 && s.budget.2 < 1 && h.units != 0)

/-- Pre-empting the hart of a slot, at a boundary (13_context.md R377, R378; 16_device.md R431). -/
def State.preempt (s : State) (slot : Fin 64) (trigger : BitVec 2) : State :=
  match s.saveHart slot false with
  | some (s, _) => (s.leaveTolls slot).arbitrate (slot.val / 4)
  | none =>
    if trigger = 0 then s
    else ({ s with counters := { s.counters with slotAborts := satInc16 s.counters.slotAborts } } : State).abortTask
      s.harts[slot].seq

/-- Whether a hart that runs has a store that has timed out and is not yet raised (04_memory_model.md R141). -/
def State.owesLate (s : State) (slot : Fin 64) : Bool :=
  s.harts[slot].run == .running && (s.harts[slot].takeLate (fun _ => true)).isSome

/-- A context save orders the hart's stores: one that has timed out is raised first (04_memory_model.md R141). -/
def State.raiseLate (s : State) (slot : Fin 64) : State :=
  if s.owesLate slot then s.onSlot slot (fun s => match s.afterLate (fun _ => true) 0 .next with
    | .next t => t
    | .fault _ | .refused _ => s)
  else s

/-- A pre-emption (13_context.md R376). A store that has timed out is raised first (04_memory_model.md R141). -/
def execPreEmption (slot : Fin 64) (trigger : BitVec 2) (s : State) : Out :=
  if !s.preempts slot trigger then .next s
  else
    if s.owesLate slot then .next (s.raiseLate slot)
    else .next (s.preempt slot trigger)

/-- The save of a pre-empted hart is written (13_context.md R383). -/
def execContextSave (slot : Fin 64) (s : State) : Out :=
  match s.saves.find? (fun v => v.dest == slot && v.state == .saving) with
  | some v => .next (s.runSave v 0)
  | none => .next s

/-! ### Restores -/

/-- Configured nodes of a restored hart on the free physical nodes of its core (08_gather_fabric.md R232). -/
def placeNodes (free : List Nat) (nodes : List FabricNode) : List FabricNode :=
  (nodes.foldl (fun (acc, free) n =>
    if n.state = .idle then (acc ++ [n], free)
    else (acc ++ [{ n with phys := BitVec.ofNat 3 ((free.head?).getD 0) }], free.drop 1))
    (([] : List FabricNode), free)).1

/-- The hart that holds a slot, and physical nodes of its core, while its restore is read. -/
def SaveSlot.placeholder (v : SaveSlot) (free : List Nat) (slot : Fin 64) : Hart :=
  let nodes := placeNodes free v.ctx.fnodes.toList
  { Hart.reset with run := .preempted, lease := v.ctx.lease, fn := v.ctx.fn, seq := v.ctx.seq, index := v.ctx.index,
                    scope := scopeWord v.part (v.ctx.scope.getLsbD 26) slot,
                    fnodes := Vector.ofFn (fun i => (nodes[i.val]?).getD .reset) }

/-- The physical nodes of a slot's core that are free but for those that the slot's own hart holds. -/
def State.nodesFor (s : State) (slot : Fin 64) : List Nat :=
  ({ s with harts := s.harts.set slot .reset } : State).physFree (slot.val / 4)

/-- A context read back, in its slot (13_context.md R385): SCOPE rewritten, the stalls it held taken anew from the free
ones, no unit until the saved request is applied again, a run in TEMPORAL, and HELD nodes fetching again (10_matrix.md R322;
09_chain.md R289, R291; log 27). -/
def State.arrive (s : State) (v : SaveSlot) (slot : Fin 64) (img : List (Nat × List Word)) : Hart :=
  let h := restoreHart v.ctx img
  let scope := scopeWord v.part (h.scope.getLsbD 26) slot
  let h := { h with scope := scope, run := .running, asReturn := false, dbg := none, units := 0, unitTarget := 0, unitsDue := h.mreq != 0,
                    stallSince := s.time, unitSince := s.time }
  let stalls := (s.freeStalls h).take (bits h.grant 0 5)
  let nodes := placeNodes (s.nodesFor slot) h.fnodes.toList
  let chain := match h.chain.state with
    | .standing | .held => { h.chain with state := ChainState.temporal, heldBy := none, notBefore := 0 }
    | .none | .idle | .temporal => h.chain
  let h := { h with grant := grantOf stalls, chain := chain,
                    fnodes := Vector.ofFn (fun i => (nodes[i.val]?).getD .reset),
                    onodes := h.onodes.map (fun o => if o.state = .held then { o with state := .running, heldBy := none } else o) }
  let h := if v.ctx.asReturn then h.trapReturn else h
  if ((imgDws img 0)[2]?.getD 0).getLsbD 48 then h.hold else h

/-- Whether the header of a slot is the one of the context that is to come back (13_context.md R385). -/
def SaveSlot.headed (v : SaveSlot) (hd : List Word) : Bool :=
  let d (i : Nat) : Word := (hd[i]?).getD 0
  bits (d 0) 32 32 == 0x41454448 && bits (d 0) 24 8 == 1 && bits (d 1) 0 32 == v.ctx.seq.toNat

/-- A restore has stopped on a fault (13_context.md R384): pending, with what it has read, or aborted by an uncorrectable
error (04_memory_model.md R140). `dw0` is the header's first doubleword, where it has been read and checked. -/
def Reader.stop (r : Reader) (v : SaveSlot) (dw0 : Option Word) (x : Nat × Fail) : State :=
  if x.2.code = eEcc then (r.s.poolEcc v.ctx.fn x.2).abortTask v.ctx.seq
  else (r.s.modSave v.part v.idx (fun v => { v with got := r.new.reverse })).savePend v .restorePending
    (dw0.map (withSlotState · 5)) x.1 x.2

/-- A context that has been read back goes on in its slot, with its pitch written where its core has changed (12_command.md
R359; 13_context.md R385). -/
def State.restored (s : State) (v : SaveSlot) (slot : Fin 64) (img : List (Nat × List Word)) : State :=
  let core : BitVec 4 := BitVec.ofNat 4 (slot.val / 4)
  let moved := ((s.task v.ctx.seq).bind (fun t => t.cores[v.ctx.index.toNat]?)) != some core
  let s := s.freeSaveSlot v
  let s := { s with harts := s.harts.set slot (s.arrive v slot img) }
  let s := s.modTask v.ctx.seq (fun t =>
    { t with places := t.places.set v.ctx.index.toNat (.resident slot), cores := t.cores.set v.ctx.index.toNat core })
  let s := s.arbitrate (slot.val / 4)
  let s := { ({ s with cur := slot } : State).unitsApply with cur := s.cur }
  match (if moved then s.task v.ctx.seq else none) with
  | some t => s.writePitch t
  | none => s

/-- Reading a context back into its slot (13_context.md R384, R385): its header is checked before anything is written, and a bad
one aborts the task and is recorded; STATE is then RESTORING, and a stage-2 fault leaves the slot pending. -/
def State.runRestore (s : State) (v : SaveSlot) (slot : Fin 64) : State :=
  let w := s.poolAgent v.part v.ctx.fn
  let base := s.slotBase v.part v.idx
  match poolSection w base 0 32 ⟨s, v.got, []⟩ with
  | (.error x, r) => r.stop v none x
  | (.ok hd, r) =>
    if !v.headed hd then
      (r.s.abortTask v.ctx.seq).post
        (mkRecord v.ctx.fn v.ctx.seq v.part 0 8 eOperand 1 v.core v.ctx.index v.ctx.epc v.ctx.faddr v.ctx.ei 0 0 0)
    else
      let dw0 := (hd[0]?).getD 0
      match poolWrite w base [(0, withSlotState dw0 4)] r.s with
      | (some x, s) => ({ r with s := s } : Reader).stop v (some dw0) x
      | (none, s) => match poolBody w base hd { r with s := s } with
        | (.error x, r) => r.stop v (some dw0) x
        | (.ok img, r) => r.s.restored v slot img

/-! ### Regions that move -/

/-- An engine that reads and writes the tile regions of a task. -/
def State.taskAgent (s : State) (t : Task) : Agent :=
  { host := ((s.part t.part).getD .reset).host, part := t.part, core := none, fn := t.fn, task := some t.seq }

/-- The locations of a homed region. -/
def State.regionLocs (s : State) (t : Task) (r : TileRegion) : List Nat :=
  (List.range r.bytes).filterMap (fun i => s.tileByte (s.taskAgent t) (r.base.toNat + i))

/-- Whether the homes of a task's regions let its harts run on a core (12_command.md R358). -/
def Task.homedFor (t : Task) (core : Nat) : Bool :=
  t.tiles.all (fun r => match r.home with
    | none => true
    | some (c, _) => if r.clus then c.toNat / 4 == core / 4 else c.toNat == core)

/-- Whether every hart of a task that has not ended is in a slot that is SAVED. -/
def State.allSaved (s : State) (t : Task) : Bool :=
  t.places.all (fun p => match p with
    | .saved idx => ((s.save t.part idx).map (fun v => v.state == .saved)).getD false
    | .ended => true
    | .unplaced | .queued _ | .resident _ => false)

/-- A task whose harts are all saved gets new homes for its regions, so that a hart of it may run on a core, and their
contents are copied (13_context.md R383): none where there is no room, or where the contents cannot be read. -/
def State.moveHomes (s : State) (t : Task) (core : Nat) : Option State :=
  if !s.allSaved t then none
  else
    match (t.tiles.mapM (fun r => readLocs (s.regionLocs t r) r.base)) s with
    | .error _ _ => none
    | .ok contents _ =>
      let s := s.modTask t.seq (fun t => { t with tiles := t.tiles.map (fun r => { r with home := none }) })
      match (clusterCores (core / 4)).findSome? (fun start =>
          s.homeAll t.part core (s.homeCores t.part start) t.tiles 0 (s.takenRuns t.part)) with
      | none => none
      | some tiles =>
        let t := { t with tiles := tiles }
        let s := s.modTask t.seq (fun _ => t)
        let s := (tiles.zip contents).foldl (fun s (r, bs) => s.writeLocs t.fn r.base ((s.regionLocs t r).zip bs)) s
        some (s.writePitch t)

/-- The package with the regions of a saved hart's task where a hart of it may run on a core: as they are, or with new homes
(12_command.md R358; 13_context.md R383; log 40). -/
def State.homesFor (s : State) (v : SaveSlot) (core : Nat) : Option State :=
  match s.task v.ctx.seq with
  | none => none
  | some t => if t.homedFor core then some s else s.moveHomes t core

/-- Whether a core has physical nodes for the configured nodes of a saved hart: two stay free (08_gather_fabric.md R232). -/
def State.nodesFit (s : State) (v : SaveSlot) (core : Nat) : Bool :=
  let n := (v.ctx.fnodes.toList.filter (fun n => n.state != .idle)).length
  n == 0 || n + 2 ≤ (s.physFree core).length

/-- Whether a saved hart may be placed in a slot (13_context.md R385; 12_command.md R358; 01_engines.md R25, R41): on a core
its tile regions allow, beside the resident harts, with room for its fabric nodes, and no waiting hart of the core before
it (log 59). -/
def State.mayRestore (s : State) (v : SaveSlot) (slot : Fin 64) : Bool :=
  let core := slot.val / 4
  let mine : Turn := ⟨v.ctx.prio, v.since, v.ctx.seq, v.ctx.index⟩
  v.state == .saved && !v.waiting && s.harts[slot].run == .absent && !(s.fencedOn v.part (BitVec.ofNat 4 core)) &&
  s.admits core v.part v.ctx.minStalls &&
  s.nodesFit v core &&
  (s.homesFor v core).isSome &&
  (match s.firstWaiter (BitVec.ofNat 4 core) with
    | none => true
    | some w => !((s.turnOf w).before s.time mine))

/-- A saved hart is placed afresh and read back (13_context.md R385). -/
def execContextRestore (part : BitVec 5) (saved : BitVec 16) (slot : Fin 64) (s : State) : Out :=
  match s.save part saved with
  | none => .next s
  | some v =>
    if !s.mayRestore v slot then .next s
    else
      let v := { v with state := .restoring, dest := slot, core := BitVec.ofNat 4 (slot.val / 4) }
      let s := (s.homesFor v (slot.val / 4)).getD s
      let s := s.modSave part saved (fun _ => v)
      .next ({ s with harts := s.harts.set slot (v.placeholder (s.physFree (slot.val / 4)) slot) }.runRestore v slot)

/-- RESUME_SAVE (13_context.md R384). -/
def resumeSaveBody (_ : Agent) (c : Command) : Acc Answer := do
  let s ← get
  if 23 < c.a.toNat ∨ 15 < c.b.toNat then answer stInvalid
  else
    let pend := s.saves.filter (fun v => v.part.toNat == c.a.toNat && v.core.toNat == c.b.toNat &&
      (v.state == .savePending || v.state == .restorePending))
    if pend.isEmpty then answer stNotFound
    else do
      change (fun s => pend.foldl (fun s v =>
        if (s.save v.part v.idx).isNone then s
        else if v.state = .savePending then s.runSave v v.pend else s.runRestore v v.dest) s)
      answer stOk

/-! ### Answers to records -/

/-- What waits for RESUME (12_command.md R369, R373). -/
inductive Waiting where
  | saved (part : BitVec 5) (idx : BitVec 16)
  | inPlace (slot : Fin 64)
  | node (slot : Fin 64) (o : Fin 16)
  | chain (slot : Fin 64)
deriving DecidableEq, Repr

/-- Whether the issuing function may answer the record of a hart: its own, and the PF one that has gone to its event queue, or
goes there now (12_command.md R367, R373). -/
def Command.answers (c : Command) (s : State) (h : Hart) : Bool :=
  c.fn == h.recordFn || (c.fn == 0 &&
    (s.pfRecords.contains (h.seq, h.index) || s.records.any (fun r => r.inPf == some (h.seq, h.index) && s.recordDest r == 0)))

/-- What a RESUME answers (12_command.md R373; log 28): the PF may answer a record of KIND 2 of any function. -/
def Command.waiting (c : Command) (s : State) : Option Waiting :=
  if 2 ^ 32 ≤ c.a.toNat ∨ 64 ≤ c.b.toNat then none
  else
    let mine (h : Hart) : Bool := h.seq.toNat == c.a.toNat && h.index.toNat == c.b.toNat && (c.fn == 0 || c.fn == h.fn)
    let may (f : Option (BitVec 8)) : Bool := match f with
      | none => false
      | some fn => c.fn == 0 || c.fn == fn
    match s.saves.find? (fun v => v.waiting && mine v.ctx && c.answers s v.ctx) with
    | some v => some (.saved v.part v.idx)
    | none =>
      let slots := (List.finRange 64).filter (fun i => s.harts[i].run != .absent && mine s.harts[i])
      match slots.find? (fun i => s.harts[i].run == .stopped && c.answers s s.harts[i]) with
      | some i => some (.inPlace i)
      | none =>
        match slots.findSome? (fun i => ((List.finRange 16).find? (fun o =>
            s.harts[i].onodes[o].state == .held && may s.harts[i].onodes[o].heldBy)).map (fun o => (i, o))) with
        | some (i, o) => some (.node i o)
        | none => (slots.find? (fun i => s.harts[i].chain.state == .held && may s.harts[i].chain.heldBy)).map .chain

/-- A HELD run stands again (09_chain.md R291). -/
def Hart.standAgain (h : Hart) : Hart :=
  if h.chain.state = .held then { h with chain := { h.chain with state := .standing, heldBy := none } } else h

/-- A record is answered (12_command.md R373): a context is restored when it can be placed, a hart that stopped in place
goes on when it fits, a node fetches its tile again, and a HELD run stands again. -/
def State.answerRecord (s : State) (w : Waiting) : State :=
  let at_ (slot : Fin 64) (f : Hart → Hart) : State := { s with harts := s.harts.set slot (f s.harts[slot]) }
  match w with
  | .saved part idx => s.modSave part idx (fun v => { v with waiting := false, since := s.time })
  | .inPlace slot => at_ slot (fun h => { h with run := .answered })
  | .node slot o => at_ slot (fun h =>
      let h := { h with onodes := h.onodes.set o { h.onodes[o] with state := .running, heldBy := none } }
      if h.chain.heldBy.isNone then h.standAgain else h)
  | .chain slot => at_ slot (·.standAgain)

/-- RESUME (12_command.md R373). -/
def resumeBody (_ : Agent) (c : Command) : Acc Answer := do
  let s ← get
  match c.waiting s with
  | none => answer stNotFound
  | some w => do
    change (fun s =>
      let s := { s with pfRecords := s.pfRecords.filter (· != (c.a.setWidth 32, c.b.setWidth 6)) }
      if c.c = 0 then s.answerRecord w else s.abortTask (c.a.setWidth 32))
    answer stOk

/-- TASK_ABORT (12_command.md R373). -/
def taskAbortBody (_ : Agent) (c : Command) : Acc Answer := do
  let s ← get
  match (if c.a.toNat < 2 ^ 32 then s.task (c.a.setWidth 32) else none) with
  | none => answer stNotFound
  | some t =>
    if t.fn ≠ c.fn then answer stNotFound
    else do
      change (·.abortTask t.seq)
      answer stOk

/-- RESUME with any action but 1 (12_command.md R373). -/
def execResume (x : Cmd) (s : State) : Out := s.command x 0x05 (fun c => c.c != 1) resumeBody

/-- RESUME with action 1: as TASK_ABORT (12_command.md R373). -/
def execResumeAbort (x : Cmd) (s : State) : Out := s.command x 0x05 (fun c => c.c == 1) resumeBody

/-- TASK_ABORT (12_command.md R373). -/
def execTaskAbort (x : Cmd) (s : State) : Out := s.command x 0x06 anyCommand taskAbortBody

/-- RESUME_SAVE (13_context.md R384). -/
def execResumeSave (x : Cmd) (s : State) : Out := s.command x 0x07 anyCommand resumeSaveBody

end Sys2Proof.Machine
end

