-- ==== Sys2Proof/Machine/Sha.lean ====
section
/-!
DEFINITION. SHA-256, which 15_partitions.md R421 names; its text is that of FIPS 180-4 (log 9).
-/

namespace Sys2Proof.Machine

/-- A word of SHA-256. -/
abbrev ShaWord := BitVec 32

/-- The round constants. -/
def shaK : List ShaWord :=
  [0x428a2f98, 0x71374491, 0xb5c0fbcf, 0xe9b5dba5, 0x3956c25b, 0x59f111f1, 0x923f82a4, 0xab1c5ed5] ++
  [0xd807aa98, 0x12835b01, 0x243185be, 0x550c7dc3, 0x72be5d74, 0x80deb1fe, 0x9bdc06a7, 0xc19bf174] ++
  [0xe49b69c1, 0xefbe4786, 0x0fc19dc6, 0x240ca1cc, 0x2de92c6f, 0x4a7484aa, 0x5cb0a9dc, 0x76f988da] ++
  [0x983e5152, 0xa831c66d, 0xb00327c8, 0xbf597fc7, 0xc6e00bf3, 0xd5a79147, 0x06ca6351, 0x14292967] ++
  [0x27b70a85, 0x2e1b2138, 0x4d2c6dfc, 0x53380d13, 0x650a7354, 0x766a0abb, 0x81c2c92e, 0x92722c85] ++
  [0xa2bfe8a1, 0xa81a664b, 0xc24b8b70, 0xc76c51a3, 0xd192e819, 0xd6990624, 0xf40e3585, 0x106aa070] ++
  [0x19a4c116, 0x1e376c08, 0x2748774c, 0x34b0bcb5, 0x391c0cb3, 0x4ed8aa4a, 0x5b9cca4f, 0x682e6ff3] ++
  [0x748f82ee, 0x78a5636f, 0x84c87814, 0x8cc70208, 0x90befffa, 0xa4506ceb, 0xbef9a3f7, 0xc67178f2]

/-- The first hash value. -/
def shaStart : List ShaWord :=
  [0x6a09e667, 0xbb67ae85, 0x3c6ef372, 0xa54ff53a, 0x510e527f, 0x9b05688c, 0x1f83d9ab, 0x5be0cd19]

/-- The message schedule: `n` more words after the latest sixteen, newest first. -/
def shaSchedule : Nat → List ShaWord → List ShaWord
  | 0, ws => ws
  | n + 1, ws =>
    let w (i : Nat) : ShaWord := (ws[i - 1]?).getD 0
    let s0 := (w 15).rotateRight 7 ^^^ (w 15).rotateRight 18 ^^^ (w 15 >>> 3)
    let s1 := (w 2).rotateRight 17 ^^^ (w 2).rotateRight 19 ^^^ (w 2 >>> 10)
    shaSchedule n ((s1 + w 7 + s0 + w 16) :: ws)

/-- One round. -/
def shaRound (st : List ShaWord) (kw : ShaWord × ShaWord) : List ShaWord :=
  match st with
  | [a, b, c, d, e, f, g, h] =>
    let t1 := h + (e.rotateRight 6 ^^^ e.rotateRight 11 ^^^ e.rotateRight 25) + ((e &&& f) ^^^ (~~~e &&& g)) + kw.1 + kw.2
    let t2 := (a.rotateRight 2 ^^^ a.rotateRight 13 ^^^ a.rotateRight 22) + ((a &&& b) ^^^ (a &&& c) ^^^ (b &&& c))
    [t1 + t2, a, b, c, d + t1, e, f, g]
  | st => st

/-- The words of bytes, first byte highest. -/
def shaWords : List Byte → List ShaWord
  | a :: b :: c :: d :: rest => (a ++ b ++ c ++ d : BitVec 32) :: shaWords rest
  | _ => []

/-- One block of 64 bytes. -/
def shaBlock (h : List ShaWord) (block : List Byte) : List ShaWord :=
  let ws := (shaSchedule 48 (shaWords block).reverse).reverse
  let out := (shaK.zip ws).foldl shaRound h
  (h.zip out).map (fun (x, y) => x + y)

/-- Blocks one after another, at most `fuel`. -/
def shaBlocks : Nat → List ShaWord → List Byte → List ShaWord
  | 0, h, _ => h
  | fuel + 1, h, bs => if bs.isEmpty then h else shaBlocks fuel (shaBlock h (bs.take 64)) (bs.drop 64)

/-- The bytes of a number, highest first. -/
def bigBytes (n x : Nat) : List Byte := (toBytes n x).reverse

/-- The digest of a message of whole bytes. -/
def sha256 (m : List Byte) : List Byte :=
  let zeros := (119 - m.length % 64) % 64
  let padded := m ++ [0x80] ++ List.replicate zeros 0 ++ bigBytes 8 (8 * m.length)
  (shaBlocks (padded.length / 64 + 1) shaStart padded).flatMap (fun w => bigBytes 4 w.toNat)

end Sys2Proof.Machine
end

