-- ==== Sys2Proof/Machine/Slh.lean ====
section
/-!
DEFINITION. SLH-DSA-SHA2-128s, which 15_partitions.md R421 names: key generation, and the pure signature with an empty
context, deterministic variant. Its text is that of FIPS 205 (log 9): n = 16, h = 63, d = 7, h' = 9, a = 12, k = 14, w = 16,
m = 30.
-/

namespace Sys2Proof.Machine

/-- An address of a hash in the hypertree: layer, tree, type, and the three words that a type uses. -/
structure SlhAdrs where
  layer : Nat
  tree : Nat
  typ : Nat
  key : Nat
  mid : Nat
  last : Nat
deriving DecidableEq, Repr

/-- The 22 bytes of a compressed address. -/
def SlhAdrs.bytes (x : SlhAdrs) : List Byte :=
  bigBytes 1 x.layer ++ bigBytes 8 x.tree ++ bigBytes 1 x.typ ++ bigBytes 4 x.key ++ bigBytes 4 x.mid ++ bigBytes 4 x.last

/-- A type set, the words that follow it cleared but for the key pair. -/
def SlhAdrs.as (x : SlhAdrs) (typ key : Nat) : SlhAdrs := { x with typ := typ, key := key, mid := 0, last := 0 }

/-- The tweakable hash of bytes at an address: the functions F, H and T of FIPS 205, and PRF of a secret seed. -/
def slhHash (pkSeed : List Byte) (x : SlhAdrs) (m : List Byte) : List Byte :=
  (sha256 (pkSeed ++ List.replicate 48 0 ++ x.bytes ++ m)).take 16

/-- HMAC-SHA-256 with a key of at most 64 bytes (FIPS 198-1). -/
def hmac256 (key m : List Byte) : List Byte :=
  let k := key ++ List.replicate (64 - key.length) 0
  sha256 (k.map (· ^^^ 0x5C) ++ sha256 (k.map (· ^^^ 0x36) ++ m))

/-- The number that bytes hold, highest first. -/
def bigNat (bs : List Byte) : Nat := bs.foldl (fun acc b => acc * 256 + b.toNat) 0

/-- The first `n` digits of `b` bits of some bytes, highest first. -/
def slhDigits (bs : List Byte) (b n : Nat) : List Nat :=
  (List.range n).map (fun i => bigNat bs / 2 ^ (8 * bs.length - b * (i + 1)) % 2 ^ b)

/-! ### One-time signatures -/

/-- `k` steps of a chain from step `i` on. -/
def slhChain (pkSeed : List Byte) (x : SlhAdrs) : Nat → Nat → List Byte → List Byte
  | 0, _, m => m
  | k + 1, i, m => slhChain pkSeed x k (i + 1) (slhHash pkSeed { x with last := i } m)

/-- The secret value at the head of chain `i` of a key pair. -/
def slhSecret (pkSeed skSeed : List Byte) (x : SlhAdrs) (i : Nat) : List Byte :=
  slhHash pkSeed { x.as 5 x.key with mid := i } skSeed

/-- Chain `i` of a key pair, `k` steps along. -/
def slhChainAt (pkSeed skSeed : List Byte) (x : SlhAdrs) (i k : Nat) : List Byte :=
  slhChain pkSeed { x.as 0 x.key with mid := i } k 0 (slhSecret pkSeed skSeed x i)

/-- The public key of a key pair: the hash of the ends of its 35 chains. -/
def slhOneTimeKey (pkSeed skSeed : List Byte) (x : SlhAdrs) : List Byte :=
  slhHash pkSeed (x.as 1 x.key) ((List.range 35).flatMap (fun i => slhChainAt pkSeed skSeed x i 15))

/-- A one-time signature of 16 bytes: the digits of the message and of its checksum say how far each chain goes. -/
def slhOneTimeSign (pkSeed skSeed : List Byte) (x : SlhAdrs) (m : List Byte) : List Byte :=
  let digits := slhDigits m 4 32
  let sum := (digits.map (15 - ·)).sum
  ((digits ++ slhDigits (bigBytes 2 (sum * 16)) 4 3).zipIdx).flatMap (fun (k, i) => slhChainAt pkSeed skSeed x i k)

/-! ### Trees -/

/-- Node `i` at height `z` of a tree of one-time keys. -/
def slhNode (pkSeed skSeed : List Byte) (x : SlhAdrs) : Nat → Nat → List Byte
  | 0, i => slhOneTimeKey pkSeed skSeed (x.as 0 i)
  | z + 1, i =>
    slhHash pkSeed { x.as 2 0 with mid := z + 1, last := i }
      (slhNode pkSeed skSeed x z (2 * i) ++ slhNode pkSeed skSeed x z (2 * i + 1))

/-- The index of the node beside the one on the path from a leaf at a height. -/
def slhSibling (leaf j : Nat) : Nat := (leaf / 2 ^ j) ^^^ 1

/-- A signature by leaf `leaf` of a tree, with its path. -/
def slhTreeSign (pkSeed skSeed : List Byte) (x : SlhAdrs) (leaf : Nat) (m : List Byte) : List Byte :=
  slhOneTimeSign pkSeed skSeed (x.as 0 leaf) m ++
    (List.range 9).flatMap (fun j => slhNode pkSeed skSeed x j (slhSibling leaf j))

/-- The signatures of `n` layers from `layer` on: each signs the root of the tree below it, the first one `m`. -/
def slhLayers (pkSeed skSeed : List Byte) : Nat → Nat → Nat → Nat → List Byte → List Byte
  | 0, _, _, _, _ => []
  | n + 1, layer, tree, leaf, m =>
    let x : SlhAdrs := ⟨layer, tree, 0, 0, 0, 0⟩
    slhTreeSign pkSeed skSeed x leaf m ++
      slhLayers pkSeed skSeed n (layer + 1) (tree / 512) (tree % 512) (slhNode pkSeed skSeed x 9 0)

/-! ### Few-time signatures -/

/-- Secret value `i` of the few-time key at an address. -/
def slhFewSecret (pkSeed skSeed : List Byte) (x : SlhAdrs) (i : Nat) : List Byte :=
  slhHash pkSeed { x.as 6 x.key with last := i } skSeed

/-- Node `i` at height `z` of the few-time trees. -/
def slhFewNode (pkSeed skSeed : List Byte) (x : SlhAdrs) : Nat → Nat → List Byte
  | 0, i => slhHash pkSeed { x.as 3 x.key with last := i } (slhFewSecret pkSeed skSeed x i)
  | z + 1, i =>
    slhHash pkSeed { x.as 3 x.key with mid := z + 1, last := i }
      (slhFewNode pkSeed skSeed x z (2 * i) ++ slhFewNode pkSeed skSeed x z (2 * i + 1))

/-- A few-time signature: of each of the 14 trees the value that the digest picks, with its path. -/
def slhFewSign (pkSeed skSeed : List Byte) (x : SlhAdrs) (md : List Byte) : List Byte :=
  ((slhDigits md 12 14).zipIdx).flatMap (fun (k, i) =>
    slhFewSecret pkSeed skSeed x (4096 * i + k) ++
      (List.range 12).flatMap (fun j => slhFewNode pkSeed skSeed x j (i * 2 ^ (12 - j) + slhSibling k j)))

/-- The few-time public key: the hash of the 14 roots. -/
def slhFewKey (pkSeed skSeed : List Byte) (x : SlhAdrs) : List Byte :=
  slhHash pkSeed (x.as 4 x.key) ((List.range 14).flatMap (fun i => slhFewNode pkSeed skSeed x 12 i))

/-! ### Keys and signatures -/

/-- The public key of two seeds: the seed and the root of the top tree. -/
def slhPublicKey (skSeed pkSeed : List Byte) : List Byte := pkSeed ++ slhNode pkSeed skSeed ⟨6, 0, 0, 0, 0, 0⟩ 9 0

/-- The deterministic signature of a message, with an empty context. -/
def slhSign (skSeed skPrf pkSeed m : List Byte) : List Byte :=
  let m := [0, 0] ++ m
  let r := (hmac256 skPrf (pkSeed ++ m)).take 16
  let inner := r ++ pkSeed ++ sha256 (r ++ slhPublicKey skSeed pkSeed ++ m)
  let digest := (sha256 (inner ++ bigBytes 4 0)).take 30
  let tree := bigNat ((digest.drop 21).take 7) % 2 ^ 54
  let leaf := bigNat (digest.drop 28) % 512
  let x : SlhAdrs := ⟨0, tree, 3, leaf, 0, 0⟩
  r ++ slhFewSign pkSeed skSeed x (digest.take 21) ++ slhLayers pkSeed skSeed 7 0 tree leaf (slhFewKey pkSeed skSeed x)

/-- The identity public key (15_partitions.md R421). -/
@[irreducible] def identityKey : List Byte :=
  slhPublicKey (bigBytes 16 Config.skSeed.toNat) (bigBytes 16 Config.pkSeed.toNat)

/-- The identity signature over a report body (15_partitions.md R421). -/
@[irreducible] def identitySignature (body : List Byte) : List Byte :=
  slhSign (bigBytes 16 Config.skSeed.toNat) (bigBytes 16 Config.skPrf.toNat) (bigBytes 16 Config.pkSeed.toNat) body

end Sys2Proof.Machine
end

