-- ==== Sys2Proof/Machine/Partitions.lean ====
section
/-!
DEFINITION. Partitions, exports, the reset of a virtual function, and attestation (15_partitions.md R411 to R421;
16_device.md R424).
-/

namespace Sys2Proof.Machine

/-! ### PART_SET -/

/-- A partition's configuration as its 96 doublewords give it (15_partitions.md R411). -/
def partitionOf (ws : List Word) : Partition :=
  let d (i : Nat) : Word := (ws[i]?).getD 0
  { host := (d 0).getLsbD 0, vfs := d 2 ++ d 1, pool := d 3, slots := (d 4).setWidth 16, sram0 := (d 6).setWidth 32 ++ d 5,
    sram1 := (d 8).setWidth 32 ++ d 7, c0 := BitVec.ofNat 10 (bits (d 9) 16 10), clo0 := BitVec.ofNat 10 (bits (d 9) 0 10),
    c1 := BitVec.ofNat 10 (bits (d 10) 16 10), clo1 := BitVec.ofNat 10 (bits (d 10) 0 10),
    tcm := Vector.ofFn (fun i => BitVec.ofNat 16 (bits (d (16 + i.val)) 16 16)),
    stalls := Vector.ofFn (fun i => BitVec.ofNat 16 (bits (d (16 + i.val)) 0 16)),
    banks := Vector.ofFn (fun i => d (35 + 4 * i.val) ++ d (34 + 4 * i.val) ++ d (33 + 4 * i.val) ++ d (32 + 4 * i.val)),
    raw := ws.flatMap (fun w => toBytes 8 w.toNat) }

/-- Whether the reserved bits are zero, POOL is aligned and the channel ranges fit (15_partitions.md R411, R412). -/
def partitionOk (ws : List Word) : Bool :=
  let d (i : Nat) : Word := (ws[i]?).getD 0
  let p := partitionOf ws
  bits (d 0) 1 63 == 0 && bits (d 3) 0 23 == 0 && bits (d 4) 16 48 == 0 && bits (d 6) 32 32 == 0 && bits (d 8) 32 32 == 0 &&
  [9, 10].all (fun i => bits (d i) 10 6 == 0 && bits (d i) 26 38 == 0) && [11, 12, 13, 14, 15].all (fun i => d i == 0) &&
  (List.range 16).all (fun i => bits (d (16 + i)) 32 32 == 0) &&
  p.clo0.toNat + p.c0.toNat ≤ 768 && p.clo1.toNat + p.c1.toNat ≤ 768

/-- Whether two ranges, count and first, share a place. -/
def channelsMeet (x y : Nat × Nat) : Bool := x.1 != 0 && y.1 != 0 && x.2 < y.2 + y.1 && y.2 < x.2 + x.1

/-- Whether two partitions would own one resource (15_partitions.md R412). -/
def Partition.clashes (p q : Partition) : Bool :=
  (p.host && q.host) || p.vfs &&& q.vfs != 0 || p.sram0 &&& q.sram0 != 0 || p.sram1 &&& q.sram1 != 0 ||
  channelsMeet (p.channels 0) (q.channels 0) || channelsMeet (p.channels 1) (q.channels 1) ||
  (List.range 16).any (fun n =>
    ((p.tcm[n]?).getD 0) &&& ((q.tcm[n]?).getD 0) != 0 || ((p.stalls[n]?).getD 0) &&& ((q.stalls[n]?).getD 0) != 0 ||
    ((p.banks[n]?).getD 0) &&& ((q.banks[n]?).getD 0) != 0)

/-- Whether a partition owns a whole range of HBM4E or shared SRAM (15_partitions.md R416). -/
def Partition.ownsRange (p : Partition) (base bytes : Nat) : Bool :=
  match levelOf base, levelOf (base + bytes - 1) with
  | .hbm a x, .hbm b y => a == b && p.owns (.hbm a x) && p.owns (.hbm b y)
  | .sram a x, .sram b y =>
    a == b && ((List.range 96).all (fun j => j < x / 0x100000 || y / 0x100000 < j || p.owns (.sram a (j * 0x100000))))
  | _, _ => false

/-- Whether the partition is busy: a task, a save slot or a queue of one of its VFs (15_partitions.md R412). -/
def State.partBusy (s : State) (n : Nat) : Bool :=
  let p := (s.parts[n]?).getD .reset
  s.tasks.any (fun t => t.part.toNat == n) || s.saves.any (fun v => v.part.toNat == n) ||
  (List.range 128).any (fun k => p.vfs.getLsbD k && !(((s.funcs[k + 1]?).getD .reset).queues.isEmpty))

/-- A PART_SET that changes the runs of a die writes zero to the channels whose run it changes (15_partitions.md R413). -/
def State.zeroRuns (s : State) (old new : Partition) : State :=
  let changed (die off : Nat) : Bool :=
    old.channels die != new.channels die && (old.owns (.hbm die off) || new.owns (.hbm die off))
  let keep (a : Nat) : Bool := match levelOf a with
    | .hbm die off => !changed die off
    | .sram _ _ | .tcm _ _ | .peer _ _ | .host | .tile _ | .none => true
  { s with mem := s.mem.filter (fun c => keep c.1), ecc := s.ecc.filter keep }

/-- A new configuration applied: the fence of an uncorrectable error lifts, and the arbiters compute anew
(15_partitions.md R411, R413; log 29). -/
def State.setPart (s : State) (n : Nat) (p : Partition) : State :=
  let s := s.zeroRuns ((s.parts[n]?).getD .reset) p
  ({ s with parts := modAt s.parts n (fun _ => p), fenced := s.fenced.filter (fun f => f.toNat != n) } : State).settleAll

/-- PART_SET (15_partitions.md R411 to R413, R416). -/
def partSetBody (w : Agent) (c : Command) : Acc Answer := do
  if 23 < c.a.toNat then answer stInvalid
  else do
    let ws ← loadDws w c.b 96
    let s ← get
    let n := c.a.toNat
    let p := partitionOf ws
    if s.partBusy n then answer stBusy
    else if !partitionOk ws || (List.range 24).any (fun m => m != n && p.clashes ((s.parts[m]?).getD .reset)) ||
        s.exports.any (fun e => e.exporter.toNat == n && !p.ownsRange e.base.toNat e.bytes.toNat) then answer stInvalid
    else do
      change (·.setPart n p)
      answer stOk

/-! ### EXPORT -/

/-- EXPORT of a range (15_partitions.md R416). -/
def exportBody (_ : Agent) (c : Command) : Acc Answer := do
  let s ← get
  if 23 < c.a.toNat ∨ 23 < c.b.toNat then answer stInvalid
  else
    let a : BitVec 5 := c.a.setWidth 5
    let b : BitVec 5 := c.b.setWidth 5
    if c.d = 0 then
      if s.exports.any (fun e => e.exporter == a && e.importer == b && e.base == c.c) then do
        change (fun s => ({ s with exports := s.exports.filter (fun e => !(e.exporter == a && e.importer == b && e.base == c.c)) } :
          State).dropPages (fun p => p.part == b))
        answer stOk
      else answer stNotFound
    else if !((s.part a).getD .reset).ownsRange c.c.toNat c.d.toNat then answer stInvalid
    else if 256 ≤ s.exports.length then answer stNoSpace
    else do
      change (fun s => { s with exports := s.exports ++ [⟨a, b, c.c, c.d⟩] })
      answer stOk

/-! ### VF_RESET -/

/-- A part-applied fabric access entry: its hart, and where it stands (15_partitions.md R419). -/
structure PartApplied where
  hart : Hart
  core : BitVec 4
  entry : Entry
  ei : Nat

/-- The mask of a fabric access entry (08_gather_fabric.md R247), none for another. -/
def fabricMask (i : Instr) : Option (BitVec 7) :=
  match i with
  | .fgather _ _ _ m | .fscatter _ _ _ m | .fwgather _ _ _ m | .vamoadd _ _ _ m | .vamomin _ _ _ m | .vamomax _ _ _ m
  | .fas _ _ _ m | .awadd _ _ _ m | .awmin _ _ _ m | .awmax _ _ _ m => some m
  | _ => none

/-- The head of a held VIQ and where it stands: an entry that trapped or halted, whose queue the trap or halt names, has its
position in `ei` (01_engines.md R20; 13_context.md R391). -/
def Held.position (d : Held) (ei : Word) : List (Entry × Nat) :=
  (d.viq.head?.map (fun e => (e, if d.queue = 1 then ei.toNat else e.prog.toNat))).toList

/-- The entry of a hart that is part-applied (15_partitions.md R419): at most one, at the head of a VIQ, live or held by a halt, by
a trap, or by the trap of a handler that a record holds. -/
def partApplied (h : Hart) (core : BitVec 4) : Option PartApplied :=
  let heads : List (Entry × Nat) :=
    (h.viq.head?.map (fun e => (e, e.prog.toNat))).toList ++
    ((h.dbg.map (fun d => d.position h.ei)).getD []) ++
    (if h.heldBit then h.held.position ((h.dbg.map (·.eiSet)).getD h.ei) else []) ++
    (match h.outer with
      | some (d, true) => d.position d.eiSet
      | some (_, false) | none => [])
  (heads.find? (fun x => (fabricMask x.1.instr).isSome && 0 < x.2 && x.2 < x.1.n)).map (fun x => ⟨h, core, x.1, x.2⟩)

/-- The completion bitmap of an entry: bit i says that element i was performed (08_gather_fabric.md R251; 15_partitions.md
R419). -/
def PartApplied.bitmap (p : PartApplied) : List Word :=
  let mask := p.hart.mbits ((fabricMask p.entry.instr).getD 0).toNat p.entry.n
  let done (i : Nat) : Bool :=
    (mask[i]?).getD false &&
    (i < p.ei || (p.hart.cmask.getLsbD 63 && bits p.hart.cmask 0 32 == i / 8 && p.hart.cmask.getLsbD (32 + i % 8)))
  (List.range 2048).map (fun j => if p.entry.n ≤ 64 * j then 0
    else word ((List.range 64).foldl (fun acc b => acc + (if 64 * j + b < p.entry.n && done (64 * j + b) then 2 ^ b else 0)) 0))

/-- The part-applied entries of a function's harts, in ascending SEQ and then hart order (15_partitions.md R419). -/
def State.partAppliedOf (s : State) (fn : BitVec 8) : List PartApplied :=
  let resident := (List.finRange 64).filterMap (fun i =>
    if s.harts[i].run != .absent && s.harts[i].run != .preempted && s.harts[i].fn == fn then
      partApplied s.harts[i] (BitVec.ofNat 4 (i.val / 4)) else none)
  let saved := s.saves.filterMap (fun v => if v.ctx.fn == fn then partApplied v.ctx v.core else none)
  sortBy (fun a b => a.hart.seq.toNat < b.hart.seq.toNat ||
    (a.hart.seq == b.hart.seq && a.hart.index.toNat ≤ b.hart.index.toNat)) (resident ++ saved)

/-- The record of KIND 5 of an entry (15_partitions.md R419). -/
def PartApplied.record (p : PartApplied) (bitmap : Word) : HeldRecord :=
  mkRecord 0 p.hart.seq p.hart.part 0 0 0 5 p.core p.hart.index p.entry.pc 0 (word p.ei) bitmap (p.entry.vl.setWidth 64)
    (word (encodeWord p.entry.instr))

/-- What a reset of a function does to the package (15_partitions.md R419; 11_gate.md R345): tasks end without pitch or
signal, the handle table of its partition is freed with its GENs, and its queues and held records go. -/
def State.resetFn (s : State) (fn : BitVec 8) : State :=
  let tasks := s.tasks.filter (fun t => t.fn == fn)
  let s := tasks.foldl (fun s t => (s.discardHarts t.seq).dropTask t.seq) s
  let s := match s.partOfFn fn with
    | none => s
    | some p => { s with handles := modAt s.handles p.toNat (fun t => t.map (fun (h : HandleSlot) => { h with isOpen := false, stale := false })) }
  let s := (s.modFn fn (fun g => { g with queues := [], evq := none })).wakeGates
  { s with records := s.records.filter (fun r => r.fn != fn) }

/-- VF_RESET (15_partitions.md R419). -/
def vfResetBody (w : Agent) (c : Command) : Acc Answer := do
  if c.a = 0 ∨ 128 < c.a.toNat then answer stInvalid
  else do
    let fn : BitVec 8 := c.a.setWidth 8
    let s ← get
    let ps := s.partAppliedOf fn
    change (·.resetFn fn)
    ps.zipIdx.forM fun (p, r) => storeDws w (c.b + word (16384 * r)) p.bitmap
    change (fun s => ps.zipIdx.foldl (fun s (p, r) => s.post (p.record (c.b + word (16384 * r)))) s)
    answer stOk

/-! ### Attestation -/

/-- The partition field of a function's FUNCID: 0xFF for the PF, and for a VF that no partition names (12_command.md R348;
15_partitions.md R417). -/
def State.funcPart (s : State) (fn : BitVec 8) : Nat := if fn = 0 then 0xFF else ((s.partOfFn fn).map BitVec.toNat).getD 0xFF

/-- FUNCID of a function (12_command.md R348). -/
def State.funcId (s : State) (fn : BitVec 8) : Word := word (s.funcPart fn * 256 + fn.toNat)

/-- The bytes of a report before its signature (15_partitions.md R421). -/
def State.reportBody (s : State) (fn : BitVec 8) (nonce : List Byte) : List Byte :=
  let own := if fn = 0 then List.replicate 32 0
    else match (s.partOfFn fn).bind s.part with
      | some p => sha256 p.raw
      | none => List.replicate 32 0
  toBytes 8 (0x41454154 * 2 ^ 32 + 0x01 * 2 ^ 24) ++ toBytes 8 (s.pkg.toNat + (s.funcId fn).toNat * 2 ^ 16) ++
  toBytes 8 s.time.toNat ++ toBytes 8 0 ++ nonce ++ bigBytes 32 Config.romDigest.toNat ++ own ++
  identityKey ++ List.replicate 96 0

/-- Bytes as doublewords. -/
def bytesDws : Nat → List Byte → List Word
  | 0, _ => []
  | n + 1, bs => word (ofBytes (bs.take 8)) :: bytesDws n (bs.drop 8)

/-- ATTEST (15_partitions.md R421): the body first, the signature last. -/
def attestBody (w : Agent) (c : Command) : Acc Answer := do
  let nonce ← (List.range 32).mapM (fun i => loadElem w (c.a + word i) 1)
  let s ← get
  let body := s.reportBody c.fn (nonce.map (BitVec.ofNat 8))
  storeDws w c.b (bytesDws 32 body)
  storeDws w (c.b + 0x100) (bytesDws 982 (identitySignature body))
  answer stOk

/-! ### Commands and events -/

/-- PART_SET (15_partitions.md R411). -/
def execPartSet (x : Cmd) (s : State) : Out := s.command x 0x40 anyCommand partSetBody

/-- EXPORT of a range (15_partitions.md R416). -/
def execExportRange (x : Cmd) (s : State) : Out := s.command x 0x41 (fun c => c.d != 0) exportBody

/-- EXPORT that removes one (15_partitions.md R416). -/
def execExportRemove (x : Cmd) (s : State) : Out := s.command x 0x41 (fun c => c.d == 0) exportBody

/-- VF_RESET (15_partitions.md R419). -/
def execVfReset (x : Cmd) (s : State) : Out := s.command x 0x42 anyCommand vfResetBody

/-- ATTEST (15_partitions.md R421). -/
def execAttest (x : Cmd) (s : State) : Out := s.command x 0x43 anyCommand attestBody

/-- A Function Level Reset of a VF (16_device.md R424): as VF_RESET, with no reset area. -/
def execVfFlr (fn : BitVec 8) (s : State) : Out :=
  if fn = 0 ∨ 128 < fn.toNat then .next s
  else
    let ps := s.partAppliedOf fn
    .next (ps.foldl (fun s p => s.post (p.record 0)) (s.resetFn fn))

end Sys2Proof.Machine
end

