-- ==== Sys2Proof/Machine/Device.lean ====
section
/-!
DEFINITION. Events of the device and of the outside: uncorrectable errors, links and ports, power and temperature, package
reset and boot configuration, and requests of peers and of the host (04_memory_model.md R140; 11_gate.md R346; 14_link.md
R396 to R401; 15_partitions.md R420; 16_device.md R424 to R431).
-/

namespace Sys2Proof.Machine

/-! ### Uncorrectable errors -/

/-- An error in a gate's state (11_gate.md R346): the gate is revoked, and a record goes to the PF. -/
def execGateEccRevoke (gate : BitVec 12) (s : State) : Out :=
  match s.gate gate with
  | none => .next s
  | some g => .next ((s.revoke gate).wakeGates.countUe.post (mkRecord 0 0 g.owner 0 6 eEcc 4 0 0 0 0 0 (gate.setWidth 64) 0 0))

/-- The function that a record of a partition concerns: its first. -/
def State.firstFn (s : State) (part : BitVec 5) : BitVec 8 :=
  (((List.range 129).map (BitVec.ofNat 8)).find? (fun fn => s.partOfFn fn == some part)).getD 0

/-- An error that no element asked for, in data of a partition (04_memory_model.md R140): a record, and the fence. -/
def execEccUncorrectable (part : BitVec 5) (addr : Word) (s : State) : Out :=
  let s := s.countUe.post (mkRecord (s.firstFn part) 0 part 0 0 eEcc 4 0 0 0 0 0 addr 0 0)
  .next { s with fenced := if s.fenced.contains part then s.fenced else part :: s.fenced }

/-- An error that no partition owns (16_device.md R426): every hart stops without a save, every task is aborted with its final pitch
and without a signal, and the PF reports it; only a package reset goes on. -/
def execInternalUncorrectable (s : State) : Out :=
  .next s.countUe.stopAll

/-! ### Lane links -/

/-- No transfer over a lane link has failed of late, at either end (14_link.md R398). -/
def State.laneFresh (s : State) (core port : Nat) : State :=
  { s with laneReplays := s.laneReplays.mapFinIdx (fun i n _ => if (linkBits core port).getLsbD i then 0 else n) }

/-- A lane link goes down: every chain that crosses it breaks with cause 7 (14_link.md R398). -/
def State.laneDown (s : State) (core port : Nat) : State :=
  if (meshPeer core port).isNone then s
  else
    let s := s.laneFresh core port
    { s with laneUp := s.laneUp &&& ~~~ linkBits core port,
             harts := s.harts.map (fun h => if h.chain.links &&& linkBits core port = 0 then h else h.breakChain 7 0) }

/-- A lane link goes down (14_link.md R398). -/
def execLaneLinkDown (core : BitVec 4) (port : BitVec 2) (s : State) : Out := .next (s.laneDown core.toNat port.toNat)

/-- A lane link is up again (14_link.md R398; 09_chain.md R288). -/
def execLaneLinkUp (core : BitVec 4) (port : BitVec 2) (s : State) : Out :=
  .next ({ s with laneUp := s.laneUp ||| linkBits core.toNat port.toNat }.laneFresh core.toNat port.toNat)

/-- A failed check on a lane link: the transfer is replayed, and the sixteenth in a row takes the link down (14_link.md
R398). -/
def execLaneLinkReplay (core : BitVec 4) (port : BitVec 2) (s : State) : Out :=
  let i := 4 * core.toNat + port.toNat
  if !s.laneUp.getLsbD i ∨ (meshPeer core.toNat port.toNat).isNone then .next s
  else
    let n := (s.laneReplays[i]?).getD 0 + 1
    if 16 ≤ n then .next (s.laneDown core.toNat port.toNat)
    else .next { s with laneReplays := modAt s.laneReplays i (fun _ => n) }

/-! ### Ubeac ports -/

/-- A port fails: the other ports of a route carry its traffic (14_link.md R408, R410). -/
def execUbeacPortFail (port : BitVec 4) (s : State) : Out :=
  .next { s with ubeacUp := s.ubeacUp &&& ~~~ BitVec.twoPow 12 port.toNat }

/-- A flit that fails its check is replayed, and nothing is seen of it (14_link.md R400). -/
def execFlitReplay (port : BitVec 4) (s : State) : Out :=
  let _ := port
  .next s

/-! ### Power and temperature -/

/-- A millisecond with a die at 95 °C (16_device.md R429). -/
def execThermalThrottle (s : State) : Out :=
  if s.counters.tmax.toNat < 95000 ∨ s.thermal < 850 then .next s
  else .next { s with thermal := s.thermal - 50, counters := { s.counters with steps := satInc16 s.counters.steps } }.settleAll

/-- A millisecond with every die below 90 °C (16_device.md R429). -/
def execThermalRecover (s : State) : Out :=
  if 90000 ≤ s.counters.tmax.toNat ∨ 1800 ≤ s.thermal then .next s
  else .next { s with thermal := s.thermal + 50 }.settleAll

/-! ### Boot configuration and reset -/

/-- Doubleword `i` of a boot configuration; what was not written is zero (16_device.md R425). -/
def bootDw (ws : List Word) (i : Nat) : Word := (ws[i]?).getD 0

/-- Whether a boot configuration stands: no reserved bit is set, and its numbers are in range (16_device.md R425). -/
def bootOk (ws : List Word) : Bool :=
  let n := bits (bootDw ws 1) 0 7
  bits (bootDw ws 0) 11 53 = 0 && bits (bootDw ws 0) 0 11 ≤ 1791 && bits (bootDw ws 1) 7 57 = 0 && n ≤ 64 &&
  (List.range n).all (fun e => bits (bootDw ws (2 + e)) 28 36 = 0 && bits (bootDw ws (2 + e)) 11 5 = 0)

/-- The package number and route table that a boot configuration gives (16_device.md R425): an entry for the package
itself is discarded, and so is a configuration that does not stand. -/
def bootRoutes (ws : List Word) : BitVec 11 × List (BitVec 11 × BitVec 12) :=
  if !bootOk ws then (0, [])
  else
    let pkg := BitVec.ofNat 11 (bits (bootDw ws 0) 0 11)
    (pkg, ((List.range (bits (bootDw ws 1) 0 7)).map (fun e =>
      (BitVec.ofNat 11 (bits (bootDw ws (2 + e)) 0 11), BitVec.ofNat 12 (bits (bootDw ws (2 + e)) 16 12)))).filter
        (fun r => r.1 != pkg))

/-- Whether a location is the host's or a peer's, which a package reset does not reach. -/
def outsideLoc (a : Nat) : Bool :=
  match levelOf a with
  | .host | .peer _ _ => true
  | .hbm _ _ | .sram _ _ | .tcm _ _ | .tile _ | .none => false

/-- A package reset (16_device.md R424): it stops at step 1 when the ROM does not match its digest, and else memory is
zero, the boot configuration is read, and everything stands as after reset. -/
def State.packageReset (s : State) (romGood : Bool) : State :=
  let t := { State.reset with agenda := s.agenda, free := s.free, staged := s.staged, romGood := romGood, sent := s.sent }
  if !romGood then { t with mem := s.mem, ecc := s.ecc, up := false, stopped := true }
  else
    let (pkg, routes) := match s.staged with
      | some ws => bootRoutes ws
      | none => (0, [])
    { t with mem := s.mem.filter (fun c => outsideLoc c.1), ecc := s.ecc.filter outsideLoc, pkg := pkg, routes := routes }

/-- Power-on, a CXL reset or a Function Level Reset of the PF (16_device.md R424). -/
def execPackageReset (romGood : Bool) (s : State) : Out := .next (s.packageReset romGood)

/-- A die at 105 °C: every task is aborted, and a package reset follows (16_device.md R429). -/
def execThermalTrip (s : State) : Out :=
  if s.counters.tmax.toNat < 105000 then .next s
  else
    let s := s.tasks.foldl (fun s t => s.abortTask t.seq) s
    let s := { s with counters := { s.counters with trips := satInc16 s.counters.trips } }
    .next (s.packageReset s.romGood)

/-- Board management writes the boot configuration, which the next bring-up reads (16_device.md R425). -/
def execBootConfiguration (words : List Word) (s : State) : Out := .next { s with staged := some words }

/-- No boot configuration in time: number 0 and no routes (16_device.md R425). -/
def execBootConfigTimeout (s : State) : Out :=
  if s.staged.isSome then .next s else .next { s with pkg := 0, routes := [] }

/-- A configuration request is answered, with Retry Status until bring-up has finished (16_device.md R424). -/
def execConfigurationRequest (s : State) : Out := .next { s with sent := s.sent ++ [.config (!s.up)] }

/-! ### Requests from outside -/

/-- The bytes of a request of 2^size bytes. -/
def requestBytes (size : BitVec 2) : Nat := 2 ^ size.toNat

/-- The locations of a request, where every one of them is HBM4E or shared SRAM of this package (14_link.md R399). -/
def peerLocs (s : State) (addr : Word) (n : Nat) : Option (List Nat) :=
  let locs := (List.range n).map (addr.toNat + ·)
  let ok (a : Nat) : Bool := match levelOf a with
    | .hbm _ _ | .sram _ _ => (match s.ownerOf a with
      | some p => !s.fenced.contains p
      | none => true)
    | .tcm _ _ | .peer _ _ | .host | .tile _ | .none => false
  if locs.all ok then some locs else none

/-- The new value that an RMW of a peer gives (05_hart.md R161; 08_gather_fabric.md R252; 14_link.md R405): 2 swap, 3 add,
4 and, 5 or, 6 and 7 maximum, 8 compare and swap, 9 the flag's increment, 10 and 11 minimum; of each pair the first is
signed. 12 sum, 13 minimum and 14 maximum of class I or F (08_gather_fabric.md R252, R256), with TYPE in bits [3:0] of `expect`
and RM in bits [6:4]. -/
def peerRmw (op : BitVec 4) (w : Nat) (data expect old : Nat) : Option Nat :=
  let d := data % 2 ^ w
  let t : Ty := expect % 16
  let typed (r : RedOp) : Option Nat :=
    if tyWidth t = w ∧ (classI t || classF t) then some (redStep r t (rmOf (expect / 16 % 8)) old d).1 else none
  let lt (a b : Nat) : Bool := signedOf w a < signedOf w b
  match op.toNat with
  | 2 => some d
  | 3 => some ((old + d) % 2 ^ w)
  | 4 => some (old &&& d)
  | 5 => some (old ||| d)
  | 6 => some (if lt old d then d else old)
  | 7 => some (max old d)
  | 8 => some (if old = expect % 2 ^ w then d else old)
  | 9 => some ((old + 1) % 2 ^ w)
  | 10 => some (if lt d old then d else old)
  | 11 => some (min old d)
  | 12 => typed .sum
  | 13 => typed .min
  | 14 => typed .max
  | _ => none

/-- A request of a peer (14_link.md R401, R408): 0 a load, 1 a store, else an RMW, which is aligned. It is refused where
the address is unmapped or its owner is fenced, and uncorrectable data is not carried. -/
def execPeerAccess (op : BitVec 4) (size : BitVec 2) (addr data expect : Word) (s : State) : Out :=
  let n := requestBytes size
  let refuse (s : State) : Out := .next { s with sent := s.sent ++ [.peer none] }
  match peerLocs s addr n with
  | none => refuse s
  | some locs =>
    if op = 1 then
      let s := s.writeLocs 0 addr (locs.zip (toBytes n data.toNat))
      .next { s with sent := s.sent ++ [.peer (some 0)] }
    else match readLocs locs addr s with
      | .error _ s => refuse s
      | .ok bs s =>
        let old := ofBytes bs
        if op = 0 then .next { s with sent := s.sent ++ [.peer (some (word old))] }
        else if addr.toNat % n ≠ 0 then refuse s
        else match peerRmw op (8 * n) data.toNat expect.toNat old with
          | none => refuse s
          | some x =>
            let s := s.writeLocs 0 addr (locs.zip (toBytes n x))
            .next { s with sent := s.sent ++ [.peer (some (word old))] }

/-- A load or store of the host through CXL.mem (15_partitions.md R420): host offset o reaches physical o, of HBM4E alone
and without the checks of R414. Uncorrectable data is not delivered (04_memory_model.md R140). -/
def execCxlMemAccess (write : Bool) (size : BitVec 2) (off data : Word) (s : State) : Out :=
  let n := requestBytes size
  let locs := (List.range n).map (off.toNat + ·)
  let hbm (a : Nat) : Bool := match levelOf a with
    | .hbm _ _ => true
    | .sram _ _ | .tcm _ _ | .peer _ _ | .host | .tile _ | .none => false
  if !locs.all hbm then .next s
  else if write then .next (s.writeLocs 0 off (locs.zip (toBytes n data.toNat)))
  else match readLocs locs off s with
    | .error _ s => .next s
    | .ok bs s => .next { s with sent := s.sent ++ [.cxl (word (ofBytes bs))] }

/-! ### BAR0 and the boot configuration's port -/

/-- A read of a function's BAR0 (12_command.md R348): FUNCID, and zero at every other offset, NOTIFY among them (00_scope.md
R5). -/
def State.barRead (s : State) (fn : BitVec 8) (size : BitVec 2) (off : BitVec 16) : State :=
  let dw : Nat := if off.toNat < 8 then (s.funcId fn).toNat else 0
  if 128 < fn.toNat then s
  else { s with sent := s.sent ++ [.bar fn (word (dw / 2 ^ (8 * (off.toNat % 8)) % 2 ^ (8 * requestBytes size)))] }

/-- A write of a function's BAR0 (12_command.md R348): one of a doubleword to NOTIFY scans the queue, and every other is
ignored. -/
def State.barWrite (s : State) (fn : BitVec 8) (size : BitVec 2) (off : BitVec 16) : State :=
  let o := off.toNat
  if 128 < fn.toNat ∨ size ≠ 3 ∨ o < 0x1000 ∨ 0x1200 ≤ o ∨ o % 8 ≠ 0 then s else s.scan fn (BitVec.ofNat 6 ((o - 0x1000) / 8))

end Sys2Proof.Machine
end

