-- ==== Sys2Proof/Machine/Fetch.lean ====
section
/-!
DEFINITION. Around an instruction: package time, the choice of the hart that moves, its fabric and engines, fetching and
decoding, and the end of a DEBUG STEP (02_encoding.md R46, R47, R61, R62; 05_hart.md R150; 13_context.md R392).
-/

namespace Sys2Proof.Machine

/-- A step of package time: at least one cycle (05_hart.md R150; log 4). -/
def State.tick (s : State) : State := { (s.advance (1 + Config.freeCycles s.free)) with free := s.free + 1 }

/-- The slots after the current one, in turn. -/
def State.slotsAfter (s : State) : List (Fin 64) :=
  (List.finRange 64).filter (fun i => s.cur < i) ++ (List.finRange 64).filter (fun i => i < s.cur)

/-- The hart that moves: the current one while it runs, else the next that does (log 1). -/
def State.pickHart (s : State) : State :=
  if s.runs s.cur then s
  else match s.slotsAfter.find? s.runs with
    | some i => { s with cur := i }
    | none => s

/-- Reading the word at the pc (02_encoding.md R46, R47): the second halfword of a word that straddles pages is fetched
for itself, and one that does not uses the entry of the first (04_memory_model.md R112). -/
def fetchWord (w : Agent) (pc : Word) : Acc Encoded := do
  let locs ← locate w .fetch pc 2
  let bs ← readLocs locs pc
  let lo := BitVec.ofNat 16 (ofBytes bs)
  if isLong lo then do
    let locs ← if pc.toNat % 0x2000 = 0x1FFE then locate w .fetch (pc + 2) 2 else pure (locs.map (· + 2))
    let bs ← readLocs locs (pc + 2)
    pure (.full (BitVec.ofNat 16 (ofBytes bs) ++ lo))
  else pure (.half lo)

/-- The bits of fetched words, as FADDR holds an illegal one (02_encoding.md R62). -/
def encodedWord : Encoded → Word
  | .half w => w.setWidth 64
  | .full w => w.setWidth 64

/-- What comes before an instruction executes: it is stopped, or runs in a state. -/
inductive Fetched where
  | stop (o : Out)
  | run (i : Instr) (s : State)

/-- The fabric and the engines of the hart that moves, unless they stand still in this step (log 46): whether an engine has
trapped. -/
def State.engineTurn (s : State) : Bool × State :=
  (if s.engines && s.hart.fabricBusy then s.fabricRound.2 else s).pump

/-- The hart that moves before its instruction executes: its fabric and its engines move on, and an engine's trap comes
first; then the word at the pc is fetched and decoded (01_engines.md R20; 02_encoding.md R62). Under DEBUG STEP nothing more is
fetched once the instruction has executed (13_context.md R392). -/
noncomputable def State.fetchNext (s : State) : Fetched :=
  match s.engineTurn with
  | (true, s) => .stop (.next s)
  | (false, s) =>
    if s.hart.stepping = 2 then .stop (.next s)
    else match fetchWord s.hart.agent s.hart.pc s with
    | .error e s => .stop (s.raise e.code 0 (some e.addr) e.gpa false)
    | .ok enc s =>
      match decode enc with
      | .error _ => .stop (s.raise eIllegal 0 (some (encodedWord enc)) 0 false)
      | .ok i => .run i s

/-- The engine of an entry, as CAUSE.SRC names it (05_hart.md R148): by its major (02_encoding.md R57). -/
def entrySrc (i : Instr) : BitVec 4 :=
  let m := encodeWord i / 2 % 64
  if m < 42 then 1 else if m < 50 then 2 else if m < 55 then 3 else if m = 55 then 4 else if m < 58 then 5
  else if m = 60 then 9 else 0

/-- Whether a scalar store that waits to be performed goes on waiting while an instruction is enqueued: one of the engines that
neither orders it nor passes a token (04_memory_model.md R120, R123 to R125, R132; log 66). -/
def leavesStores (i : Instr) : Bool :=
  match i with
  | .qwr _ _ | .qrd _ | .cwait _ | .lwait _ | .lfence | .chform _ | .chfree | .fload _ _ | .fdrain _ | .mnode _ _ => false
  | _ => entrySrc i != 0

/-- The scalar stores of every hart but one are performed. -/
def State.performBut (s : State) (keep : Option (Fin 64)) : State :=
  (List.finRange 64).foldl (fun s i => if keep = some i then s else s.perform i) s

/-- The conditions that a hart has or is to have: those in its BQ, and those that its entries owe. -/
def Hart.conditions (h : Hart) : Nat := h.bq.length + ((h.viq ++ h.piq ++ h.miq).filter (fun e => givesBq e.instr)).length

/-- Instructions that end in one step, also when they leave the pc where it is. -/
def branches (i : Instr) : Bool :=
  match i with
  | .beq _ _ _ | .bne _ _ _ | .blt _ _ _ | .bge _ _ _ | .bltn _ _ _ | .bgen _ _ _ | .sbnz _ _ _ | .j _ | .jl _ | .jlr _ _ _ => true
  | _ => false

/-- The end of a hart's turn under DEBUG STEP (13_context.md R392): once the instruction has executed, or a trap has been
taken, the hart halts as soon as its queues are empty. An instruction that waits leaves the hart as it was. -/
def State.endTurn (s t : State) (i : Option Instr) : State :=
  let g := s.hart
  let h := t.harts[s.cur]
  if g.stepping = 0 || h.run != .running then t
  else
    let done := g.stepping = 2 || h.pc != g.pc || h.ld != g.ld || h.th != g.th || h.conditions != g.conditions ||
      (i.map branches).getD false
    let h := if done && h.quiet then { h.hold with stepping := 0 } else { h with stepping := if done then 2 else 1 }
    { t with harts := t.harts.set s.cur h }

/-- An outcome with the end of the turn. -/
def endOut (s : State) (i : Option Instr) : Out → Out
  | .next t => .next (s.endTurn t i)
  | .fault r => .fault r
  | .refused r => .refused r

/-- Letting the hart of a slot execute the instruction at its pc, if `f` gives that one a meaning; a hart whose word
cannot be fetched is left as it is (log 1). -/
def State.atWaiting (s : State) (slot : Fin 64) (f : Instr → Option (State → Out)) : Out :=
  if !s.runs slot || s.harts[slot].stepping == 2 then .next s
  else
    let t := { s with cur := slot }
    match fetchWord t.hart.agent t.hart.pc t with
    | .error _ _ => .next s
    | .ok (.half _) _ => .next s
    | .ok (.full w) t =>
      match decodeWaiting w with
      | .error _ => .next s
      | .ok i => match f i with
        | none => .next s
        | some g => match endOut t (some i) (g t) with
          | .next t => .next { t with cur := s.cur }
          | .fault r => .fault r
          | .refused r => .refused r

/-- The inputs that are neither rows of the table nor turns (log 1): an uncorrectable error in a granule, or in a farm's counter
(04_memory_model.md R140; 12_command.md R363); a corrected error and a reading of the sensors (16_device.md R426, R428); a store
of the host or a peer to its own memory (04_memory_model.md R101); the engines of a hart by themselves, or one queue
(01_engines.md R13); a move by the bell at the port to the cluster (08_gather_fabric.md R259; log 42); a
request that a peer refuses (14_link.md R408); a lane-link transfer that passes its check (14_link.md R398); the ROM
(16_device.md R424); and the registers that the outside reads and writes (12_command.md R348; 16_device.md R425), where the
boot configuration reads zero (00_scope.md R5). -/
def State.input (s : State) (x : Input) : State :=
  let more (x : Word) : Word := if x = BitVec.allOnes 64 then x else x + 1
  match x with
  | .event _ | .turn _ | .alone _ | .late _ => s
  | .corrupt loc =>
    match granuleOf loc with
    | some (g, _) => if s.ecc.contains g then s else { s with ecc := g :: s.ecc }
    | none => s
  | .corrected kind =>
    let c := s.counters
    { s with counters := if kind = 0 then { c with ceSram := more c.ceSram } else if kind = 1 then { c with ceHbm := more c.ceHbm }
                         else if kind = 2 then { c with ceGate := more c.ceGate } else c }
  | .reading tmax power => { s with counters := { s.counters with tmax := tmax, power := power } }
  | .outsideStore loc b =>
    match levelOf loc with
    | .host | .peer _ _ => s.setByte loc b
    | .hbm _ _ | .sram _ _ | .tcm _ _ | .tile _ | .none => s
  | .engines slot =>
    if s.runs slot then
      let t := { s with cur := slot }
      { t.endTurn t.engineTurn.2 none with cur := s.cur }
    else s
  | .queue slot q =>
    if s.runs slot then
      let t := { s with cur := slot }
      { t.endTurn (t.pumpOne q) none with cur := s.cur }
    else s
  | .portBell slot => if s.runs slot && s.harts[slot].fabricWork then s.onSlot slot (·.countBell) else s
  | .peerRefusal slot addr => { s with harts := s.harts.set slot { s.harts[slot] with late := some (addr, eLink) } }
  | .farmError seq f => s.modTask seq (fun t => { t with farms := modAt t.farms f.toNat (·.map ({ · with bad := true })) })
  | .laneTransfer core port => { s with laneReplays := modAt s.laneReplays (4 * core.toNat + port.toNat) (fun _ => 0) }
  | .rom good => { s with romGood := good }
  | .barRead fn size off => s.barRead fn size off
  | .barWrite fn size off => s.barWrite fn size off
  | .bootRead _ => { s with sent := s.sent ++ [.boot 0] }

end Sys2Proof.Machine
end

