-- ==== Sys2Proof/Machine/EngineEvents.lean ====
section
/-!
DEFINITION. Events of a hart's engines: traps by an engine, waiting instructions that complete, tokens, chains, the
fabric, timeouts and operand nodes. An event whose condition does not hold changes nothing (log 1).
-/

namespace Sys2Proof.Machine

/-- An event of the hart of a slot, which runs. -/
def State.eventOn (s : State) (slot : Fin 64) (f : State → State) : Out :=
  if s.runs slot then s.outOn slot (fun s => .next (f s)) else .next s

/-- A change that is made when it comes out as the event says. -/
def keepIf (p : State → Bool) (f : State → State) (s : State) : State :=
  let t := f s
  if p t then t else s

/-! ### Traps -/

/-- The stage of an attached run that stands furthest back, which is the one that faults: its slot and engine. -/
def Chain.lastStage (ch : Chain) : Nat × BitVec 4 :=
  let k := (ch.p.findIdx? (· == ch.minP)).getD 0
  (k, match (chainStages ch.words)[k]? with
    | some x => x.op.src
    | none => 4)

/-- What a trap writes to FADDR: the address, but for a cause that has none (01_engines.md R20; 05_hart.md R149, R165). -/
def faultAddr (code : BitVec 8) (addr : Word) : Option Word :=
  if [eOperand, eLease, eQueue, eTrap, eBreak, eWatchdog].contains code then none else some addr

/-- What an engine's trap writes to FADDR: an address only for a fault of memory, which an illegal entry is not (01_engines.md R20). -/
def engineAddr (code : BitVec 8) (addr : Word) : Option Word := if code = eIllegal then none else faultAddr code addr

/-- An engine's trap on the head of queue `q` (01_engines.md R20; 09_chain.md R286). -/
def State.trapHead (s : State) (q : BitVec 2) (code : BitVec 8) (addr : Word) : State :=
  let h := s.hart
  match (h.queueOf q).head? with
  | none => s
  | some e =>
    let gpa := s.gpaOf h.agent code addr
    if q = 1 && h.attached then
      let (k, src) := h.chain.lastStage
      (s.setHart (h.breakChain 1 (BitVec.ofNat 6 k))).takeEngineTrap 1 code src (engineAddr code addr) gpa h.chain.minP
    else s.takeEngineTrap q code (entrySrc e.instr) (engineAddr code addr) gpa e.prog.toNat

/-- A cause that a trap may have, but for `E_DOUBLE`, which is not raised for itself (05_hart.md R149). -/
def trapCode (code : BitVec 8) : Bool := 0 < code.toNat && code.toNat < 0x13

/-- An engine stops on its head entry and traps (01_engines.md R20, 05_hart.md R165). -/
def execEngineTrap (slot : Fin 64) (queue : BitVec 2) (code : BitVec 8) (addr : Word) (s : State) : Out :=
  s.eventOn slot (fun s => if trapCode code then s.trapHead queue code addr else s)

/-- CAUSE.SRC of a trap of the hart itself: 6 for the causes that only a gate instruction has (11_gate.md R330; 05_hart.md R165). -/
def hartSrc (code : BitVec 8) : BitVec 4 := if code = eGateAccess ∨ code = eGateRevoked ∨ code = eGateHandle then 6 else 0

/-- The hart takes a trap of its own, its queues drained (01_engines.md R22, 05_hart.md R165); one with the cause of `trap` lies after
the instruction at the pc, which has retired (R167). -/
def execHartTrap (slot : Fin 64) (code : BitVec 8) (addr : Word) (s : State) : Out :=
  if s.runs slot && trapCode code then
    s.outOn slot (fun s => s.raise code (hartSrc code) (faultAddr code addr) (s.gpaOf s.hart.agent code addr) (code == eTrap))
  else .next s

/-! ### Waiting instructions -/

/-- A post that waits on its toll is admitted (11_gate.md R327). -/
def execGpostAdmit (slot : Fin 64) (s : State) : Out :=
  if !s.gates.any (fun g => g.posts.contains slot) then .next s
  else s.atWaiting slot (fun i => match i with
    | .gpost a b => some (execGpost a b)
    | .gpostPayload d a b => some (execGpostPayload d a b)
    | _ => none)

/-- A waiting `gwait` looks at its gate (11_gate.md R335). -/
def execGwaitWake (slot : Fin 64) (s : State) : Out :=
  s.atWaiting slot (fun i => match i with
    | .gwait d a b => some (execGwait d a b)
    | _ => none)

/-- TIMER reaches the target of a waiting `waitt` (05_hart.md R167). -/
def execWaittExpire (slot : Fin 64) (s : State) : Out :=
  s.atWaiting slot (fun i => match i with
    | .waitt a => some (fun s => execWaitt a (if s.time < s.hart.sreg a then s.advance (s.hart.sreg a - s.time).toNat else s))
    | _ => none)

/-- A waiting `sigwait` reads its signal again (12_command.md R365). -/
def execSigwaitMet (slot : Fin 64) (s : State) : Out :=
  s.atWaiting slot (fun i => match i with
    | .sigwait a b => some (execSigwait a b)
    | _ => none)

/-- Package time reaches the next multiple of 4,000 cycles, where the tolls refill (11_gate.md R327). -/
def execTollRefill (s : State) : Out := .next (s.advance (4000 - s.time.toNat % 4000))

/-! ### Tokens -/

/-- A copy finishes (06_port.md R196). -/
def execCopyComplete (slot : Fin 64) (k : BitVec 4) (s : State) : Out :=
  s.eventOn slot (keepIf (fun t => (t.hart.copy k).state == .done) (·.copyRun k))

/-- A copy meets a fault (06_port.md R199). -/
def execCopyFault (slot : Fin 64) (k : BitVec 4) (s : State) : Out :=
  s.eventOn slot (keepIf (fun t => (t.hart.copy k).state == .fault) (·.copyRun k))

/-- A link operation finishes (14_link.md R404, R405). -/
def execLinkOpComplete (slot : Fin 64) (k : BitVec 3) (s : State) : Out :=
  s.eventOn slot (keepIf (fun t => (t.hart.linkTok k).state == .done) (·.linkRun k))

/-- A link operation meets a fault (14_link.md R404, R408). -/
def execLinkOpFault (slot : Fin 64) (k : BitVec 3) (s : State) : Out :=
  s.eventOn slot (keepIf (fun t => (t.hart.linkTok k).state == .fault) (·.linkRun k))

/-- An element arrives in a stream: read ahead by a load stream, or delivered by the fabric (06_port.md R194;
08_gather_fabric.md R241). -/
def execStreamElementArrival (slot : Fin 64) (t : BitVec 4) (s : State) : Out :=
  s.eventOn slot fun s =>
    let h := s.hart
    let x := h.stream t
    let q := x.first + x.ahead.length
    match x.kind with
    | .load =>
      if x.len ≤ q then s
      else
        let (r, s) := tryAcc (loadAt h.agent (tyWidth x.ty) (x.addr q) q) s
        let e : Elem := match r with
          | .ok v => ⟨word v, none⟩
          | .error f => ⟨0, some (f.code, f.addr)⟩
        s.setHart (s.hart.modStream t (fun x => { x with ahead := x.ahead ++ [e] }))
    | .fabric => s.fabricRound.2
    | .unbound | .store => s

/-! ### Chains -/

/-- The stalls of a core that hold too much of it for another hart's MIN, or for a lowered ceiling (01_engines.md R29): how many
of the partition's must be given up. `lent` are the core's stalls that chains of other cores hold. -/
def State.stallsShort (s : State) (core : Nat) (part : BitVec 5) (lent : Nat) : Nat :=
  let hs := s.residents core
  let count (h : Hart) : Nat := (heldStalls h.grant).length
  let above := (hs.map (fun x => count x.2)).sum + lent - (s.stallCeil[core]?).getD 0
  let free (h : Hart) : Nat := ((List.range 16).filter (fun i =>
    (s.ownedStalls h.scopePart core).getLsbD i && !s.stallHeld core i && !s.lentOut core i)).length
  let needs := (hs.filter (fun x => x.2.scopePart == part)).map (fun x => x.2.minStalls - (count x.2 + free x.2))
  max above (needs.foldl max 0)

/-- The arbiter takes stalls from a standing run at a lane-row boundary, to meet another hart's MIN or a lowered ceiling
(01_engines.md R29; 09_chain.md R271, R290): lent ones that their core needs go back, and of its own the hart keeps the
lowest ones, as many as its target. A run that loses a stall its stages occupy breaks with cause 3. -/
def State.takeStalls (s : State) : State :=
  let h := s.hart
  let lentOn (c : Nat) : Nat := (h.chain.lent.filter (fun x => x.1 == c)).length
  if h.chain.lent.any (fun x => 0 < s.stallsShort x.1 h.scopePart (lentOn x.1)) then s.setHart (h.breakChain 3 0)
  else
    let own := heldStalls h.grant
    let keep := max h.target.toNat (own.length - s.stallsShort h.core h.scopePart 0)
    if own.length ≤ keep then s
    else
      let lost := (own.drop keep).any (fun i => h.chain.stalls.getLsbD i)
      s.setHart { (if lost then h.breakChain 3 0 else h) with grant := grantOf (own.take keep) }

/-- The lowest lane link that a chain crosses. -/
def Chain.firstLink (ch : Chain) : Option Nat := (List.range 64).find? (fun i => ch.links.getLsbD i)

/-- A standing run breaks for a cause that no instruction brings about: a stall taken, also from a run that is HELD, the timing
contract of a port stage that has a latency class (R274), or a lane link that it crosses and that goes down (09_chain.md R284,
R290; 14_link.md R398). -/
def execChainBreak (slot : Fin 64) (cause : BitVec 4) (stage : BitVec 6) (s : State) : Out :=
  s.eventOn slot fun s =>
    let h := s.hart
    if cause = 3 then (if h.chain.state = .standing ∨ h.chain.state = .held then s.takeStalls else s)
    else if h.chain.state ≠ .standing then s
    else if cause = 7 then match h.chain.firstLink with
      | some i => s.laneDown (i / 4) (i % 4)
      | none => s
    else if cause = 4 ∧ h.chain.classed.contains stage.toNat then s.contractBreak stage
    else s

/-- A run in TEMPORAL re-forms at a strip boundary (09_chain.md R288, R292). -/
def execChainReform (slot : Fin 64) (s : State) : Out :=
  s.eventOn slot fun s => if s.hart.attached then s.reformHere else s

/-- A run whose stages have all reached N detaches (09_chain.md R278). -/
def execChainDetach (slot : Fin 64) (s : State) : Out :=
  s.eventOn slot fun s => if s.hart.attached && s.hart.chain.n ≤ s.hart.chain.minP then s.setHart s.hart.detach else s

/-! ### The fabric -/

/-- A node's last iteration leaves its last stage (08_gather_fabric.md R240). -/
def execNodeFinish (slot : Fin 64) (n : BitVec 3) (s : State) : Out :=
  s.eventOn slot fun s =>
    let nd := s.hart.fnode n.toNat
    if nd.state = .running && nd.iter + 1 = blockIters nd.block then (s.nodeIter n.toNat).getD s else s

/-- Whether the escape slot of a link is taken by a hart of the core: the slot is one for all contexts, and links join
physical nodes (08_gather_fabric.md R232, R258). -/
def State.escapeTaken (s : State) (src n inp : Nat) : Bool :=
  let p (h : Hart) (k : Nat) : BitVec 3 := (h.fnode k).phys
  (List.range 4).any fun k => match s.harts[4 * s.hart.core + k]? with
    | none => false
    | some h => h.run != .absent && h.ftokens.any (fun t => t.escape && t.inp.toNat = inp &&
        p h t.src.toNat = p s.hart src && p h t.router.toNat = p s.hart n)

/-- The newest token of a link stands in its escape slot. -/
def Hart.escapeOn (h : Hart) (src n inp : Nat) : Hart :=
  let is (t : FabricToken) : Bool := t.src.toNat == src && t.router.toNat == n && t.inp.toNat == inp
  let last := (((List.range h.ftokens.length).filter (fun i => match h.ftokens[i]? with
    | some t => is t
    | none => false)).getLast?).getD h.ftokens.length
  { h with ftokens := h.ftokens.zipIdx.map (fun (t, i) => if i = last then { t with escape := true } else t) }

/-- Whether a token is blocked before a link whose slots are full, and the link's escape slot is free (08_gather_fabric.md
R258, R259): the output that a node is about to send, which may meet more than one full link, or what a router holds for a
node. -/
def State.bellMay (s : State) (src n inp : Nat) : Bool :=
  let h := s.hart
  let on := h.escapeOn src n inp
  let onAll := (h.outLinks src).foldl (fun g (r, i) => if h.linkRoom src r i then g else g.escapeOn src r i) h
  !h.linkRoom src n inp && !s.escapeTaken src n inp &&
  (if inp = 3 then (h.fnode n).routes && (h.routerStep n).isNone && (on.routerStep n).isSome
   else (s.nodeIter src).isNone && ((s.setHart onAll).nodeIter src).isSome)

/-- The bell lets a blocked token move into the escape slot, and the count of such moves rises (08_gather_fabric.md R246,
R259; 16_device.md R428). -/
def execBellGrant (slot : Fin 64) (src n : BitVec 3) (inp : BitVec 2) (s : State) : Out :=
  s.eventOn slot fun s =>
    if !s.bellMay src.toNat n.toNat inp.toNat then s
    else
      let h := s.hart.escapeOn src.toNat n.toNat inp.toNat
      (s.setHart h).countBell

/-- Whether some token could move by the bell. -/
def State.bellSomewhere (s : State) : Bool :=
  (List.range 8).any fun src => (List.range 8).any fun n => (List.range 4).any fun inp => s.bellMay src n inp

/-- The oldest head that waits on fabric work, with its queue (08_gather_fabric.md R260). -/
def Hart.fabricWaiter (h : Hart) : Option (BitVec 2 × Entry) :=
  h.headOrder.findSome? fun q => match (h.queueOf q).head? with
    | some e => if !(q = 1 && h.attached) && h.onFabric e.instr then some (q, e) else none
    | none => none

/-- The fabric watchdog expires (08_gather_fabric.md R260): only where nothing moves. The running nodes stop, and the trap falls
on the oldest entry that waits on fabric work, or on the next that does. -/
def execFabricWatchdog (slot : Fin 64) (s : State) : Out :=
  s.eventOn slot fun s0 =>
    let (trapped, s) := s0.pump
    if trapped then s
    else if !s.hart.fabricWork || s.fabricRound.1 || s.bellSomewhere then s
    else
      let h := s.hart
      let s := s.setHart { h with fnodes := h.fnodes.map (fun m =>
        if m.state = .running then { m with state := .stopped, watchdog := true } else m) }
      match h.fabricWaiter with
      | some (q, e) => s.takeEngineTrap q eWatchdog 3 none 0 e.prog.toNat
      | none => s.setHart { s.hart with wdogOwed := true }

/-! ### Operand nodes -/

/-- A tile copied into its buffer (10_matrix.md R315, R316). -/
def fillTile (w : Agent) (o : OperandNode) : Acc Unit := do
  let n := nodeBytes o.desc
  let src := nodeTileAddr o.desc o.t
  let dst := nodeBufAddr o.desc (o.t % nodeDepth o.desc)
  (List.range n).forM fun i => do
    let b ← loadElem w (src + word i) 1
    storeElem w (dst + word i) 1 b

/-- A fetch that failed (10_matrix.md R317): on a page fault the node is HELD and a record goes out, and a chain whose stage waits
on it is HELD when that stage does; an uncorrectable error stops the node and is recorded (04_memory_model.md R140); any
other cause is owed to a consumer. -/
def State.nodeFault (s : State) (n : BitVec 4) (e : Fail) : State :=
  let h := s.hart
  let o := h.onode n
  if e.code = ePage ∨ e.code = eHpage then
    let fn : BitVec 8 := if e.code = eHpage then 0 else h.fn
    let h := h.modOnode n (fun o => { o with state := .held, heldBy := some fn })
    let (c0, c1, c2) := nodeCounters o.desc o.t
    (s.setHart h).post (mkRecord fn h.seq h.part 0 5 e.code 2 (BitVec.ofNat 4 (s.cur.val / 4)) h.index 0 e.addr 0
      (word (n.toNat + o.t * 2 ^ 32)) (word (c0 + c1 * 2 ^ 32)) (word c2))
  else if e.code = eEcc then
    let s := s.setHart (h.modOnode n (fun o => { o with state := .held, heldBy := none }))
    s.eccRecord h.fn e.gpa.toNat e.addr
  else s.setHart (h.modOnode n (fun o => { o with owed := some (e.code, e.addr) }))

/-- Whether the hart handles the timeout that a node owed to an entry (10_matrix.md R317): the node fetches again after trap
return. -/
def Hart.inTimeout (h : Hart) (n : BitVec 4) : Bool :=
  h.heldBit && bits h.cause 0 8 = eMemTimeout.toNat && bits h.cause 16 2 = 3 && (match h.held.miq.head? with
    | some e => match e.instr with
      | .mmac _ _ _ _ | .mmacsa _ _ _ _ | .mmacsb _ _ _ _ => [e.op0, e.op1].any (fun r => refNode r && refNum r = n)
      | _ => false
    | none => false)

/-- What a fetch of the next tile comes to, where the node has one to make. -/
def State.nodeFetch (s : State) (n : BitVec 4) : Option (Option Fail × State) :=
  let h := s.hart
  let o := h.onode n
  let b := o.t % nodeDepth o.desc
  if o.state != .running || o.owed.isSome || h.inTimeout n || nodeTiles o.desc ≤ o.t || o.full.getLsbD b then none
  else match tryAcc (fillTile h.agent o) s with
    | (.ok _, s) => some (none, s.setHart (s.hart.modOnode n (fun o =>
        { o with t := o.t + 1, full := o.full ||| BitVec.twoPow 4 b })))
    | (.error e, s) => some (some e, s)

/-- An operand node fills a tile (10_matrix.md R315). -/
def execNodeTileFill (slot : Fin 64) (o : BitVec 4) (s : State) : Out :=
  s.eventOn slot fun s => match s.nodeFetch o with
    | some (none, t) => t
    | some (some _, _) | none => s

/-- A fetch of an operand node fails (10_matrix.md R317). -/
def execOperandNodeFault (slot : Fin 64) (o : BitVec 4) (s : State) : Out :=
  s.eventOn slot fun s => match s.nodeFetch o with
    | some (some e, t) => t.nodeFault o e
    | some (none, _) | none => s

/-! ### Timeouts -/

/-- What a transfer or a fetch comes to when its request at an address times out: nothing, where it makes none there. -/
def State.timingOut (s : State) (addr : Word) (f : State → State) (failed : State → Bool) : State :=
  let t := f (s.setHart { s.hart with late := some (addr, eMemTimeout) })
  if failed t then t.setHart { t.hart with late := none } else s

/-- An outstanding request times out (04_memory_model.md R141): a load or an RMW of the hart (unit 0) or of an engine (1 to 3),
which takes the cause where it is made; a store of queue `k` (4), whose bytes stay written (log 60); a copy or a link
operation `k` (5, 6); or a fetch of operand node `k` (7; 10_matrix.md R317). -/
def execRequestTimeout (slot : Fin 64) (unit : BitVec 3) (k : BitVec 4) (addr : Word) (s : State) : Out :=
  let timed (t : Token) : Bool := t.state == .fault && t.cause == eMemTimeout
  s.eventOn slot fun s =>
    let h := s.hart
    if unit.toNat ≤ 3 then s.setHart { h with late := some (addr, eMemTimeout) }
    else if unit = 4 then s.setHart { h with lateStores := h.lateStores ++ [(k.setWidth 2, addr)] }
    else if unit = 5 then
      if (h.copy k).state = .busy then s.timingOut addr (·.copyRun k) (fun t => timed (t.hart.copy k)) else s
    else if unit = 6 then
      if (h.linkTok (k.setWidth 3)).state = .busy then
        s.timingOut addr (·.linkRun (k.setWidth 3)) (fun t => timed (t.hart.linkTok (k.setWidth 3)))
      else s
    else s.timingOut addr (fun s => match s.nodeFetch k with
      | some (some e, t) => t.nodeFault k e
      | some (none, t) => t
      | none => s) (fun t => (t.hart.onode k).owed.isSome && (h.onode k).owed.isNone)

end Sys2Proof.Machine
end

