-- ==== Sys2Proof/Machine/FabricIns.lean ====
section
/-!
DEFINITION. The instructions of the gather fabric: majors 50 to 54. Each is enqueued in the VIQ with the scalar operands it names
(01_engines.md R13, R14, R16); what its entry does is said by `runEntry` in Engines.lean.
-/

namespace Sys2Proof.Machine

/-- Read, check and load fabric node configuration blocks (08_gather_fabric.md R243). -/
def execFload (a : BitVec 6) (n : BitVec 8) (s : State) : Out :=
  issue (.fload a n) 1 [a] s

/-- Start LOADED nodes and resume STOPPED ones (08_gather_fabric.md R244). -/
def execFstart (n : BitVec 8) (s : State) : Out :=
  issue (.fstart n) 1 [] s

/-- Stop RUNNING nodes at an iteration boundary (08_gather_fabric.md R244). -/
def execFstop (n : BitVec 8) (s : State) : Out :=
  issue (.fstop n) 1 [] s

/-- Wait for nodes, release them and pass the reconfiguration token (08_gather_fabric.md R245). -/
def execFdrain (n : BitVec 8) (s : State) : Out :=
  issue (.fdrain n) 1 [] s

/-- Write fabric node status to the SRQ (08_gather_fabric.md R246). -/
def execFstat (n : BitVec 8) (s : State) : Out :=
  issue (.fstat n) 1 [] s

/-- Fabric gather through indices (08_gather_fabric.md R249). -/
def execFgather (v : BitVec 5) (i : BitVec 5) (a : BitVec 6) (m : BitVec 7) (s : State) : Out :=
  issue (.fgather v i a m) 1 [a] s

/-- Fabric scatter through indices (08_gather_fabric.md R249). -/
def execFscatter (v : BitVec 5) (i : BitVec 5) (a : BitVec 6) (m : BitVec 7) (s : State) : Out :=
  issue (.fscatter v i a m) 1 [a] s

/-- Windowed gather with out-of-range indices giving zero (08_gather_fabric.md R247). -/
def execFwgather (v : BitVec 5) (i : BitVec 5) (a : BitVec 6) (m : BitVec 7) (s : State) : Out :=
  issue (.fwgather v i a m) 1 [a] s

/-- Pre-combined vector atomic add (08_gather_fabric.md R252). -/
def execVamoadd (v : BitVec 5) (i : BitVec 5) (a : BitVec 6) (m : BitVec 7) (s : State) : Out :=
  issue (.vamoadd v i a m) 1 [a] s

/-- Pre-combined vector atomic minimum (08_gather_fabric.md R252). -/
def execVamomin (v : BitVec 5) (i : BitVec 5) (a : BitVec 6) (m : BitVec 7) (s : State) : Out :=
  issue (.vamomin v i a m) 1 [a] s

/-- Pre-combined vector atomic maximum (08_gather_fabric.md R252). -/
def execVamomax (v : BitVec 5) (i : BitVec 5) (a : BitVec 6) (m : BitVec 7) (s : State) : Out :=
  issue (.vamomax v i a m) 1 [a] s

/-- Fetch-add-scan on a counter (08_gather_fabric.md R254). -/
def execFas (v : BitVec 5) (i : BitVec 5) (a : BitVec 6) (m : BitVec 7) (s : State) : Out :=
  issue (.fas v i a m) 1 [a] s

/-- Add into private copies of an accumulation window (08_gather_fabric.md R256). -/
def execAwadd (v : BitVec 5) (i : BitVec 5) (k : BitVec 3) (m : BitVec 7) (s : State) : Out :=
  issue (.awadd v i k m) 1 [] s

/-- Minimum into window copies (08_gather_fabric.md R256). -/
def execAwmin (v : BitVec 5) (i : BitVec 5) (k : BitVec 3) (m : BitVec 7) (s : State) : Out :=
  issue (.awmin v i k m) 1 [] s

/-- Maximum into window copies (08_gather_fabric.md R256). -/
def execAwmax (v : BitVec 5) (i : BitVec 5) (k : BitVec 3) (m : BitVec 7) (s : State) : Out :=
  issue (.awmax v i k m) 1 [] s

/-- Open an accumulation window (08_gather_fabric.md R255). -/
def execAwopen (a : BitVec 6) (b : BitVec 6) (k : BitVec 3) (s : State) : Out :=
  issue (.awopen a b k) 1 [a, b] s

/-- Fold window copies into memory and close the window (08_gather_fabric.md R257). -/
def execAccmerge (k : BitVec 3) (s : State) : Out :=
  issue (.accmerge k) 1 [] s

/-- Drop window copies and close the window (08_gather_fabric.md R257). -/
def execAwdiscard (k : BitVec 3) (s : State) : Out :=
  issue (.awdiscard k) 1 [] s

end Sys2Proof.Machine
end

