-- ==== Sys2Proof/Machine/LinkIns.lean ====
section
/-!
DEFINITION. The instructions of the link engine: major 60. Each is enqueued in the PIQ with the scalar operands it names
(01_engines.md R13, R14, R16); what its entry does is said by `runEntry` in Engines.lean.
-/

namespace Sys2Proof.Machine

/-- Copy local bytes to peer memory on a link token (14_link.md R404). -/
def execLput (a : BitVec 6) (b : BitVec 6) (c : BitVec 6) (k : BitVec 3) (s : State) : Out :=
  issue (.lput a b c k) 2 [a, b, c] s

/-- Copy peer bytes to local memory on a link token (14_link.md R404). -/
def execLget (a : BitVec 6) (b : BitVec 6) (c : BitVec 6) (k : BitVec 3) (s : State) : Out :=
  issue (.lget a b c k) 2 [a, b, c] s

/-- Collective reduction step from a peer buffer (14_link.md R405). -/
def execLcred (a : BitVec 6) (b : BitVec 6) (c : BitVec 6) (k : BitVec 3) (s : State) : Out :=
  issue (.lcred a b c k) 2 [a, b, c] s

/-- Collective gather step from a peer buffer (14_link.md R405). -/
def execLcgat (a : BitVec 6) (b : BitVec 6) (c : BitVec 6) (k : BitVec 3) (s : State) : Out :=
  issue (.lcgat a b c k) 2 [a, b, c] s

/-- Collective broadcast step into a peer buffer (14_link.md R405). -/
def execLcbc (a : BitVec 6) (b : BitVec 6) (c : BitVec 6) (k : BitVec 3) (s : State) : Out :=
  issue (.lcbc a b c k) 2 [a, b, c] s

/-- Wait for a link token, acquiring or raising its fault (14_link.md R406). -/
def execLwait (k : BitVec 3) (s : State) : Out :=
  issue (.lwait k) 2 [] s

/-- Wait until no link token is BUSY (14_link.md R406). -/
def execLfence (s : State) : Out :=
  issue .lfence 2 [] s

/-- Write whether a link token is not BUSY to the BQ (14_link.md R406). -/
def execLtest (k : BitVec 3) (s : State) : Out :=
  issue (.ltest k) 2 [] s

end Sys2Proof.Machine
end

