-- ==== Sys2Proof/Machine/MatrixIns.lean ====
section
/-!
DEFINITION. The instructions of the matrix engine: majors 56 and 57. Each is enqueued in the MIQ with the scalar operands it names
(01_engines.md R13, R14, R16); what its entry does is said by `runEntry` in Engines.lean.
-/

namespace Sys2Proof.Machine

/-- Dense matrix multiply-accumulate (10_matrix.md R303). -/
def execMmac (c : BitVec 4) (a : BitVec 6) (b : BitVec 6) (x : BitVec 6) (s : State) : Out :=
  issue (.mmac c a b x) 3 [a, b, x] s

/-- Multiply-accumulate with a sparse A (10_matrix.md R303). -/
def execMmacsa (c : BitVec 4) (a : BitVec 6) (b : BitVec 6) (x : BitVec 6) (s : State) : Out :=
  issue (.mmacsa c a b x) 3 [a, b, x] s

/-- Multiply-accumulate with a sparse B (10_matrix.md R303). -/
def execMmacsb (c : BitVec 4) (a : BitVec 6) (b : BitVec 6) (x : BitVec 6) (s : State) : Out :=
  issue (.mmacsb c a b x) 3 [a, b, x] s

/-- Load an accumulator tile (10_matrix.md R308). -/
def execMldc (c : BitVec 4) (a : BitVec 6) (s : State) : Out :=
  issue (.mldc c a) 3 [a] s

/-- Store an accumulator tile with conversion (10_matrix.md R308). -/
def execMstc (c : BitVec 4) (a : BitVec 6) (x : BitVec 6) (s : State) : Out :=
  issue (.mstc c a x) 3 [a, x] s

/-- Zero an accumulator tile (10_matrix.md R308). -/
def execMzero (c : BitVec 4) (s : State) : Out :=
  issue (.mzero c) 3 [] s

/-- Build the key-block skip mask (10_matrix.md R310). -/
def execMskip (a : BitVec 6) (b : BitVec 6) (x : BitVec 6) (s : State) : Out :=
  issue (.mskip a b x) 3 [a, b, x] s

/-- Request matrix units and return U (10_matrix.md R300). -/
def execMshape (a : BitVec 6) (s : State) : Out :=
  issue (.mshape a) 3 [a] s

/-- Prune a dense tile to an N:M sparse tile (10_matrix.md R311). -/
def execMprune (a : BitVec 6) (b : BitVec 6) (x : BitVec 6) (s : State) : Out :=
  issue (.mprune a b x) 3 [a, b, x] s

/-- Configure an operand node from a descriptor (10_matrix.md R314). -/
def execMnode (c : BitVec 4) (a : BitVec 6) (s : State) : Out :=
  issue (.mnode c a) 3 [a] s

/-- Start an ARMED operand node (10_matrix.md R314). -/
def execMfill (c : BitVec 4) (s : State) : Out :=
  issue (.mfill c) 3 [] s

/-- Wait for an operand node to be DONE and idle it (10_matrix.md R314). -/
def execMwait (c : BitVec 4) (s : State) : Out :=
  issue (.mwait c) 3 [] s

/-- Scale accumulator rows by f32 factors (10_matrix.md R309). -/
def execMscale (c : BitVec 4) (a : BitVec 6) (s : State) : Out :=
  issue (.mscale c a) 3 [a] s

/-- Write operand node and matrix status to the SRQ (10_matrix.md R318). -/
def execMstat (c : BitVec 4) (s : State) : Out :=
  issue (.mstat c) 3 [] s

end Sys2Proof.Machine
end

