-- ==== Sys2Proof/Machine/Migrate.lean ====
section
/-!
DEFINITION. Migration of partitions between packages: the image, MIGRATE_OUT and MIGRATE_IN (13_context.md R393, R394;
11_gate.md R344). The contents of each section are the files'; their places within it are the model's (log 30).
-/

namespace Sys2Proof.Machine

/-! ### Writing a section -/

/-- A truth value as a word. -/
def flagDw (b : Bool) : Word := if b then 1 else 0

/-- Items behind their count. -/
def putList (f : α → List Word) (xs : List α) : List Word := word xs.length :: xs.flatMap f

/-- An optional item behind a word that says whether it is there. -/
def putOption (f : α → List Word) : Option α → List Word
  | none => [0]
  | some x => 1 :: f x

/-- A cause and an address. -/
def putFault (x : BitVec 8 × Word) : List Word := [x.1.setWidth 64, x.2]

/-- An element on its way. -/
def putElem (e : Elem) : List Word := e.val :: putOption putFault e.fault

/-- A packet taken from a ring. -/
def putPacket (p : Packet) : List Word :=
  (match p.state with
   | .fresh => [0, 0]
   | .launched seq => [1, seq.setWidth 64]
   | .waiting => [2, 0]) ++ p.dw.toList

/-- A queue descriptor (13_context.md R393, TYPE 1). -/
def putQueue (u : UserQueue) : List Word :=
  [u.num.setWidth 64, u.ring, u.sz.setWidth 64, u.ridxAddr, u.ridx, u.widx, flagDw u.hartKind, u.pmin.setWidth 64,
   flagDw u.stopped] ++ putList putPacket u.pending

/-- An event queue descriptor (TYPE 2). -/
def putEvq (e : EventQueue) : List Word := [e.ring, e.sz.setWidth 64, e.vector.setWidth 64, word e.next, flagDw e.faulted]

/-- A tile region and its home. -/
def putRegion (r : TileRegion) : List Word :=
  [r.base, word r.bytes, flagDw r.clus] ++ putOption (fun (c, h) => [c.setWidth 64, word h]) r.home

/-- Where a hart of a task is. -/
def putPlace : HartPlace → List Word
  | .unplaced => [0, 0]
  | .queued c => [1, c.setWidth 64]
  | .resident slot => [2, word slot.val]
  | .saved idx => [3, idx.setWidth 64]
  | .ended => [4, 0]

/-- A task but for its regions' contents (TYPE 3): its pitch, launch terms, farm counters and handler entry. -/
def putTask (t : Task) : List Word :=
  t.pitch ++ [t.seq.setWidth 64, t.fn.setWidth 64, t.queue.setWidth 64, t.part.setWidth 64, t.prio.setWidth 64,
    t.min.setWidth 64, t.pref.setWidth 64, t.entry, t.handler, t.args, t.signal, t.reply, t.status.setWidth 64,
    t.why.setWidth 64, t.start, t.finish] ++
  t.farms.toList.flatMap (putOption (fun f => [word f.strips, word f.counter, flagDw f.bad])) ++ putList putRegion t.tiles ++
  putList (fun c => [c.setWidth 64]) t.cores ++ putList putPlace t.places

/-- What an entry has beside its doublewords. -/
def putMark (e : Entry) : List Word :=
  [word e.seq, flagDw e.started, word e.base] ++ putList (fun (b : Vector Word 9) => b.toList) e.blocks

/-- What a trap holds beside the sections of a slot. -/
def putHeld (d : Held) : List Word :=
  [d.pc, d.ld.setWidth 64, d.queue.setWidth 64, d.eiSet] ++
  [d.viq, d.piq, d.miq].flatMap (putList (fun e => e.dws ++ putMark e)) ++ [d.srq, d.bq].flatMap (putList RetEntry.dws)

/-- What a context has beside its slot. -/
def putRest (h : Hart) : List Word :=
  [h.fn.setWidth 64, h.handler, h.recordFn.setWidth 64, flagDw h.asReturn, word h.nextSeq, h.held.queue.setWidth 64, h.held.eiSet,
   flagDw h.chain.ran, flagDw h.wdogOwed, word h.chain.formedAt, word h.chain.notBefore] ++ putList (fun n => [word n]) h.chain.brokeAt ++
  [h.viq, h.piq, h.miq, h.held.viq, h.held.piq, h.held.miq].flatMap (putList putMark) ++
  h.links.toList.flatMap (fun t => [t.op.setWidth 64, t.rm.setWidth 64]) ++
  h.streams.toList.flatMap (fun t => [word t.len, t.node.setWidth 64, word t.first] ++ putList putElem t.ahead) ++
  h.fnodes.toList.flatMap (fun n => [word n.iter, n.routerStep.setWidth 64, flagDw n.watchdog, flagDw n.grows, word n.due] ++
    putList putElem n.tree ++
    putOption putElem n.routerHeld ++ putOption putFault n.owed) ++
  h.onodes.toList.flatMap (fun o => putOption putFault o.owed) ++
  putList (fun (q, a) => [(q : BitVec 2).setWidth 64, a]) h.lateStores ++
  putOption (fun (d, b) => flagDw b :: putHeld d) h.outer

/-- A hart's slot (TYPE 4): whether its record has gone to the PF, its sections, each behind its offset, and the rest. -/
def putSlot (v : SaveSlot) (toPf : Bool) (img : List (Nat × List Word)) : List Word :=
  [v.part.setWidth 64, v.core.setWidth 64, flagDw v.waiting, flagDw toPf] ++
  putList (fun (off, xs) => word off :: putList (fun x => [x]) xs) img ++ putRest v.ctx

/-- An entry of an access list. -/
def putGateEntry (e : GateEntry) : List Word :=
  [flagDw e.valid, e.part.setWidth 64, flagDw e.post, flagDw e.wait, flagDw e.read, flagDw e.te, e.cap.setWidth 64,
   e.rate.setWidth 64, e.level.setWidth 64]

/-- A gate (TYPE 5; 11_gate.md R344). -/
def putGate (g : Gate) : List Word :=
  [g.id.setWidth 64, flagDw (g.state == .revoked), g.ctr, g.pay, g.owner.setWidth 64] ++ putList putGateEntry g.list

/-- A slot of a handle table. -/
def putHandle (x : HandleSlot) : List Word :=
  [flagDw x.isOpen, x.gate.setWidth 64, x.rights.setWidth 64, x.gen.setWidth 64, flagDw x.stale]

/-! ### Reading a section -/

/-- Reading words in order; past the end they are zero. -/
abbrev Rd := StateM (List Word)

/-- The next word. -/
def rd : Rd Word := fun ws => match ws with
  | [] => (0, [])
  | x :: xs => (x, xs)

/-- The next word as a truth value. -/
def rdFlag : Rd Bool := do
  let x ← rd
  pure (x != 0)

/-- The next word as a number. -/
def rdNat : Rd Nat := do
  let x ← rd
  pure x.toNat

/-- The next word as fewer bits. -/
def rdBits (n : Nat) : Rd (BitVec n) := do
  let x ← rd
  pure (x.setWidth n)

/-- `n` items. -/
def rdTimes (g : Rd α) : Nat → Rd (List α)
  | 0 => pure []
  | n + 1 => do
    let x ← g
    let xs ← rdTimes g n
    pure (x :: xs)

/-- Items behind their count; no more than there are words. -/
def rdList (g : Rd α) : Rd (List α) := do
  let n ← rdNat
  let ws ← get
  rdTimes g (min n ws.length)

/-- An optional item. -/
def rdOption (g : Rd α) : Rd (Option α) := do
  let b ← rdFlag
  if b then do
    let x ← g
    pure (some x)
  else pure none

/-- `n` items as a vector. -/
def rdVector (n : Nat) (dflt : α) (g : Rd α) : Rd (Vector α n) := do
  let xs ← rdTimes g n
  pure (Vector.ofFn (fun i => (xs[i.val]?).getD dflt))

/-- A cause and an address. -/
def rdFault : Rd (BitVec 8 × Word) := do
  let c ← rdBits 8
  let a ← rd
  pure (c, a)

/-- An element on its way. -/
def rdElem : Rd Elem := do
  let x ← rd
  let f ← rdOption rdFault
  pure ⟨x, f⟩

/-- A packet. -/
def rdPacket : Rd Packet := do
  let k ← rdNat
  let seq ← rdBits 32
  let dw ← rdVector 8 0 rd
  pure ⟨dw, if k = 1 then .launched seq else if k = 2 then .waiting else .fresh⟩

/-- A queue. -/
def rdQueue : Rd UserQueue := do
  let num ← rdBits 6
  let ring ← rd
  let sz ← rdBits 4
  let ridxAddr ← rd
  let ridx ← rd
  let widx ← rd
  let hartKind ← rdFlag
  let pmin ← rdBits 2
  let stopped ← rdFlag
  let pending ← rdList rdPacket
  pure ⟨num, ring, sz, ridxAddr, ridx, widx, hartKind, pmin, stopped, pending⟩

/-- An event queue. -/
def rdEvq : Rd EventQueue := do
  let ring ← rd
  let sz ← rdBits 4
  let vector ← rdBits 11
  let next ← rdNat
  let faulted ← rdFlag
  pure ⟨ring, sz, vector, next, faulted⟩

/-- A tile region. -/
def rdRegion : Rd TileRegion := do
  let base ← rd
  let bytes ← rdNat
  let clus ← rdFlag
  let home ← rdOption (do
    let c ← rdBits 4
    let h ← rdNat
    pure (c, h))
  pure ⟨base, bytes, clus, home⟩

/-- Where a hart is. -/
def rdPlace : Rd HartPlace := do
  let k ← rdNat
  let x ← rd
  pure (if k = 1 then .queued (x.setWidth 4) else if k = 3 then .saved (x.setWidth 16) else if k = 4 then .ended else .unplaced)

/-- A task. -/
def rdTask : Rd Task := do
  let _ ← rdTimes rd 16
  let seq ← rdBits 32
  let fn ← rdBits 8
  let queue ← rdBits 6
  let part ← rdBits 5
  let prio ← rdBits 2
  let min' ← rdBits 5
  let pref ← rdBits 5
  let entry ← rd
  let handler ← rd
  let args ← rd
  let signal ← rd
  let reply ← rd
  let status ← rdBits 8
  let why ← rdBits 8
  let start ← rd
  let finish ← rd
  let farms ← rdVector 4 none (rdOption (do
    let n ← rdNat
    let k ← rdNat
    let b ← rdFlag
    pure (⟨n, k, b⟩ : Farm)))
  let tiles ← rdList rdRegion
  let cores ← rdList (rdBits 4)
  let places ← rdList rdPlace
  pure ⟨seq, fn, queue, part, prio, min', pref, entry, handler, args, signal, reply, status, why, start, finish, farms, tiles,
    cores, places⟩

/-- What an entry has beside its doublewords. -/
def rdMark : Rd (Nat × Bool × Nat × List (Vector Word 9)) := do
  let n ← rdNat
  let b ← rdFlag
  let p ← rdNat
  let bs ← rdList (rdVector 9 0 rd)
  pure (n, b, p, bs)

/-- An entry that holds nothing. -/
def blankHeld : Entry := ⟨.vadd 0 0 0 0, none, 0, 0, 0, 0, 0, 0, 0, 0, 0, false, 0, []⟩

/-- Entries with what they have beside their doublewords. -/
def markAll (es : List Entry) (ms : List (Nat × Bool × Nat × List (Vector Word 9))) : List Entry :=
  es.zipIdx.map fun (e, i) => match ms[i]? with
    | some (n, b, p, bs) => { e with seq := n, started := b, base := p, blocks := bs }
    | none => e

/-- What a trap holds. -/
def rdHeld : Rd Held := do
  let pc ← rd
  let ld ← rdBits 6
  let queue ← rdBits 2
  let eiSet ← rd
  let es : Rd (List Entry) := rdList (do
    let ws ← rdTimes rd 8
    let m ← rdMark
    pure ((markAll (entriesBack [] 1 ws) [m]).getD 0 blankHeld))
  let rs : Rd (List RetEntry) := rdList (do
    let ws ← rdTimes rd 2
    pure ((retsBack 1 ws).getD 0 ⟨0, 0⟩))
  let viq ← es
  let piq ← es
  let miq ← es
  let srq ← rs
  let bq ← rs
  pure ⟨pc, ld, viq, piq, miq, srq, bq, queue, eiSet⟩

/-- A context as a slot's sections give it, with nothing beside them (13_context.md R380). -/
def hartOfImage (img : List (Nat × List Word)) : Hart :=
  let w0 : BitVec 32 := (((imgDws img 0x9000)[0]?).getD 0).setWidth 32
  let n := blockS [w0]
  let ch := { Chain.reset with words := List.replicate (1 + n + 2 * blockL [w0]) 0, p := List.replicate n 0 }
  restoreHart { Hart.reset with chain := ch, seq := (((imgDws img 0)[1]?).getD 0).setWidth 32 } img

/-- A context with what it has beside its slot. -/
def rdRest (h : Hart) : Rd Hart := do
  let fn ← rdBits 8
  let handler ← rd
  let recordFn ← rdBits 8
  let asReturn ← rdFlag
  let nextSeq ← rdNat
  let queue ← rdBits 2
  let eiSet ← rd
  let ran ← rdFlag
  let wdogOwed ← rdFlag
  let formedAt ← rdNat
  let notBefore ← rdNat
  let brokeAt ← rdList rdNat
  let viq ← rdList rdMark
  let piq ← rdList rdMark
  let miq ← rdList rdMark
  let hviq ← rdList rdMark
  let hpiq ← rdList rdMark
  let hmiq ← rdList rdMark
  let links ← rdVector 8 (0, 0) (do
    let op ← rdBits 4
    let rm ← rdBits 3
    pure (op, rm))
  let streams ← rdVector 16 (0, 0, 0, []) (do
    let len ← rdNat
    let node ← rdBits 3
    let first ← rdNat
    let ahead ← rdList rdElem
    pure (len, node, first, ahead))
  let fnodes ← rdVector 8 FabricNode.reset (do
    let iter ← rdNat
    let step ← rdBits 2
    let watchdog ← rdFlag
    let grows ← rdFlag
    let due ← rdNat
    let tree ← rdList rdElem
    let inHand ← rdOption rdElem
    let owed ← rdOption rdFault
    pure { FabricNode.reset with iter := iter, routerStep := step, watchdog := watchdog, tree := tree, routerHeld := inHand,
                                 owed := owed, grows := grows, due := due })
  let owed ← rdVector 16 none (rdOption rdFault)
  let late ← rdList (do
    let q ← rdBits 2
    let a ← rd
    pure (q, a))
  let outer ← rdOption (do
    let b ← rdFlag
    let d ← rdHeld
    pure (d, b))
  pure { h with
    fn := fn, handler := handler, recordFn := recordFn, asReturn := asReturn, nextSeq := nextSeq, wdogOwed := wdogOwed,
    viq := markAll h.viq viq, piq := markAll h.piq piq, miq := markAll h.miq miq,
    held := { h.held with queue := queue, eiSet := eiSet, viq := markAll h.held.viq hviq, piq := markAll h.held.piq hpiq,
                          miq := markAll h.held.miq hmiq },
    links := Vector.ofFn (fun i => { h.links[i] with op := links[i].1, rm := links[i].2 }),
    streams := Vector.ofFn (fun i =>
      if h.streams[i].kind = .fabric then
        { h.streams[i] with len := streams[i].1, node := streams[i].2.1, first := streams[i].2.2.1, ahead := streams[i].2.2.2 }
      else h.streams[i]),
    fnodes := Vector.ofFn (fun i => { fnodes[i] with state := h.fnodes[i].state, block := h.fnodes[i].block, phys := h.fnodes[i].phys }),
    onodes := Vector.ofFn (fun i => { h.onodes[i] with owed := owed[i] }), lateStores := late, outer := outer,
    chain := { h.chain with ran := ran, formedAt := formedAt, notBefore := notBefore, brokeAt := brokeAt } }

/-- An entry of an access list. -/
def rdGateEntry : Rd GateEntry := do
  let valid ← rdFlag
  let part ← rdBits 5
  let post ← rdFlag
  let wait ← rdFlag
  let read ← rdFlag
  let te ← rdFlag
  let cap ← rdBits 16
  let rate ← rdBits 16
  let level ← rdBits 24
  pure ⟨valid, part, post, wait, read, te, cap, rate, level⟩

/-- A gate, thawed (11_gate.md R344). -/
def rdGate : Rd Gate := do
  let id ← rdBits 12
  let revoked ← rdFlag
  let ctr ← rd
  let pay ← rd
  let owner ← rdBits 5
  let list ← rdList rdGateEntry
  pure ⟨id, if revoked then .revoked else .active, ctr, pay, owner, list, []⟩

/-- A slot of a handle table. -/
def rdHandle : Rd HandleSlot := do
  let isOpen ← rdFlag
  let gate ← rdBits 12
  let rights ← rdBits 3
  let gen ← rdBits 24
  let stale ← rdFlag
  pure ⟨isOpen, gate, rights, gen, stale⟩

/-- What a reader makes of some words. -/
def Rd.of (g : Rd α) (ws : List Word) : α := (g ws).1

/-! ### What migrates -/

/-- Whether a partition is one of a mask. -/
def inMask (mask : Word) (p : BitVec 5) : Bool := mask.getLsbD p.toNat

/-- The partitions that hold an open handle on a gate (11_gate.md R344). -/
def State.holders (s : State) (id : BitVec 12) : List (BitVec 5) :=
  ((List.range 24).filter (fun p => ((s.handles[p]?).getD (Vector.replicate 256 .reset)).any (fun x =>
    x.isOpen && x.gate == id && !x.stale))).map (BitVec.ofNat 5)

/-- The partitions with which a gate migrates: its owner and the holders of its handles (11_gate.md R344). -/
def State.gateParts (s : State) (g : Gate) : List (BitVec 5) := g.owner :: s.holders g.id

/-- Whether a gate migrates with the partitions of a mask. -/
def State.gateGoes (s : State) (mask : Word) (g : Gate) : Bool := (s.gateParts g).any (inMask mask)

/-- The functions of the partitions of a mask. -/
def State.maskFns (s : State) (mask : Word) : List (BitVec 8) :=
  ((List.range 129).map (BitVec.ofNat 8)).filter (fun fn => match s.partOfFn fn with
    | some p => inMask mask p
    | none => false)

/-- Every resident hart of the partitions is saved, as far as it can be (13_context.md R376, R393): a hart that has been
pre-empted goes on with its save, and a store that has timed out is raised before one (04_memory_model.md R141). -/
def State.saveAll (s : State) (mask : Word) : State :=
  (List.finRange 64).foldl (fun s slot =>
    let s := if inMask mask s.harts[slot].scopePart then s.raiseLate slot else s
    let h := s.harts[slot]
    if h.run = .absent ∨ !inMask mask h.scopePart ∨ s.owesLate slot then s
    else match s.saves.find? (fun v => v.dest == slot && v.state == .saving) with
      | some v => s.runSave v 0
      | none => match s.saveHart slot (h.run = .stopped) with
        | some (s, v) => (s.leaveTolls slot).runSave v 0
        | none => s) s

/-- Whether a hart of the partitions still holds a hart slot. -/
def State.staysOn (s : State) (mask : Word) : Bool := s.harts.any (fun h => h.run != .absent && inMask mask h.scopePart)

/-- Whether a save slot of the partitions is pending (13_context.md R393). -/
def State.slotPending (s : State) (mask : Word) : Bool :=
  s.saves.any (fun v => inMask mask v.part && (v.state == .savePending || v.state == .restorePending))

/-! ### The image -/

/-- A section behind its 16-byte header: TYPE and the length in bytes (13_context.md R393). -/
def section_ (t : Nat) (ws : List Word) : List Word := word t :: word (8 * ws.length) :: ws

/-- The contents of a task's homed regions. -/
def regionContents (s : State) (t : Task) : Acc (List Word) := do
  let xs ← (t.tiles.filter (fun r => r.home.isSome)).mapM fun r => do
    let bs ← readLocs (s.regionLocs t r) r.base
    pure (putList (fun x => [x]) (bytesDws ((bs.length + 7) / 8) bs))
  pure xs.flatten

/-- The sections of an image (13_context.md R393). -/
def imageSections (mask : Word) : Acc (List (List Word)) := do
  let s ← get
  let fns := s.maskFns mask
  let tasks := s.tasks.filter (fun t => inMask mask t.part)
  let saves := s.saves.filter (fun v => inMask mask v.part)
  let func (fn : BitVec 8) : Func := (s.funcs[fn.toNat]?).getD .reset
  let t3 ← tasks.mapM fun t => do
    let xs ← regionContents s t
    pure (section_ 3 (putTask t ++ xs))
  let t4 ← saves.mapM fun v => do
    let s ← get
    match poolImage (s.poolAgent v.part v.ctx.fn) (s.slotBase v.part v.idx) s with
    | (.error (_, e), _) => throw e
    | (.ok img, t) => do
      set t
      pure (section_ 4 (putSlot v (s.pfRecords.contains (v.ctx.seq, v.ctx.index)) img))
  pure (fns.map (fun fn => section_ 1 (fn.setWidth 64 :: putList putQueue (func fn).queues)) ++
    fns.map (fun fn => section_ 2 (fn.setWidth 64 :: putOption putEvq (func fn).evq ++
      putList (fun r => r.fn.setWidth 64 :: r.dw.toList) (s.records.filter (fun r => r.fn == fn)))) ++
    t3 ++ t4 ++ (s.gates.filter (s.gateGoes mask)).map (fun g => section_ 5 (putGate g)) ++
    ((List.range 24).filter (fun p => mask.getLsbD p)).map (fun p => section_ 6 (word p ::
      ((s.handles[p]?).getD (Vector.replicate 256 .reset)).toList.flatMap putHandle)))

/-- The 64-byte header of an image (13_context.md R393). -/
def imageHeader (mask : Word) (src dst time : Word) (n : Nat) : List Word :=
  [word (0x41454449 * 2 ^ 32 + 2 ^ 24), mask, src, dst, time, word n, 0, 0]

/-- What the source keeps of the partitions (13_context.md R393): their gates, queues and slots are free, and nothing of
their tasks is left; each handle slot keeps its GEN. -/
def State.moveOut (s : State) (mask : Word) : State :=
  let fns := s.maskFns mask
  let gone := s.gates.filter (s.gateGoes mask)
  let s := fns.foldl (fun s fn => s.modFn fn (fun g => { g with queues := [], evq := none })) s
  let s := (s.saves.filter (fun v => inMask mask v.part)).foldl (fun s v => s.freeSaveSlot v) s
  let seqs := (s.tasks.filter (fun t => inMask mask t.part)).map (·.seq)
  { s with gates := s.gates.filter (fun g => !gone.contains g), tasks := s.tasks.filter (fun t => !inMask mask t.part),
           waiters := s.waiters.filter (fun w => !seqs.contains w.seq),
           pfRecords := s.pfRecords.filter (fun x => !seqs.contains x.1),
           records := s.records.filter (fun r => !fns.contains r.fn), tlb := s.tlb.filter (fun p => !inMask mask p.part),
           handles := s.handles.zipIdx.map (fun (t, p) =>
             if mask.getLsbD p then t.map (fun (x : HandleSlot) => { x with isOpen := false, stale := false }) else t) }

/-- Frozen gates are active again, and what waits at them looks again (11_gate.md R344). -/
def State.thaw (s : State) : State :=
  ({ s with gates := s.gates.map (fun g => if g.state = .frozen then { g with state := .active } else g) } : State).wakeGates

/-- MIGRATE_OUT (13_context.md R393; 11_gate.md R344; log 30). Where a save that it starts cannot end, the contexts that it has
saved stay saved, a pending slot stays pending with its record (13_context.md R384), and it answers BUSY. -/
def migrateOutBody (w : Agent) (c : Command) : Acc Answer := do
  let s0 ← get
  if 1791 < c.b.toNat ∨ bits c.c 0 3 ≠ 0 then answer stInvalid
  else if s0.slotPending c.a then answer stBusy
  else if s0.gates.any (fun g => s0.gateGoes c.a g && !(s0.gateParts g).all (inMask c.a)) then answer stRefused
  else do
    let time := s0.time
    change (fun s => { s with gates := s.gates.map (fun g =>
      if s0.gateGoes c.a g ∧ g.state = GateState.active then { g with state := .frozen } else g) }.saveAll c.a)
    let s ← get
    if s.staysOn c.a || s.slotPending c.a then do
      change (·.thaw)
      answer stBusy
    else do
      let xs ← imageSections c.a
      let ws := imageHeader c.a (s0.pkg.setWidth 64) c.b time xs.length ++ xs.flatten
      storeDws w c.c ws
      change (·.moveOut c.a)
      pure (stOk, word (8 * ws.length))

/-! ### Coming in -/

/-- The sections of an image from an address on, `n` of them. -/
def readSections (w : Agent) : Nat → Word → Acc (List (Nat × List Word))
  | 0, _ => pure []
  | n + 1, a => do
    let t ← loadElem w a 8
    let len ← loadElem w (a + 8) 8
    let ws ← loadDws w (a + 16) (len / 8)
    let rest ← readSections w n (a + 16 + word (len / 8 * 8))
    pure ((t % 256, ws) :: rest)

/-- New homes for regions: each on the core it had, in the lowest free run (12_command.md R358). -/
def State.rehome (s : State) (part : BitVec 5) : List TileRegion → List (Nat × Nat × Nat) → Option (List TileRegion)
  | [], _ => some []
  | r :: rs, taken => match r.home with
    | none => (s.rehome part rs taken).map (r :: ·)
    | some (c, _) =>
      match lowestRun ((taken.filter (fun x => x.1 == c.toNat)).map (·.2)) r.words (s.subsetWords part c.toNat) with
      | none => none
      | some h => (s.rehome part rs ((c.toNat, h, r.words) :: taken)).map ({ r with home := some (c, h) } :: ·)

/-- New homes for the regions of a task that comes in: on the cores they had, or, where those have no room and every hart
that is left is saved, on others (12_command.md R358; 13_context.md R394). -/
def State.homesIn (s : State) (t : Task) : Option (List TileRegion) :=
  match s.rehome t.part t.tiles (s.takenRuns t.part) with
  | some tiles => some tiles
  | none =>
    if t.places.all (fun p => match p with
        | .saved _ | .ended => true
        | .unplaced | .queued _ | .resident _ => false) then
      (List.range 16).findSome? fun core => (clusterCores (core / 4)).findSome? fun start =>
        s.homeAll t.part core (s.homeCores t.part start) t.tiles 0 (s.takenRuns t.part)
    else none

/-- A task comes in with its regions' contents: whether its regions find homes. New ones are written to its pitch (12_command.md
R359). -/
def taskIn (ws : List Word) : Acc Bool := do
  let ((t, xs), _) := (do
    let t ← rdTask
    let xs ← rdTimes (rdList rd) (t.tiles.filter (fun r => r.home.isSome)).length
    pure (t, xs) : Rd (Task × List (List Word))) ws
  let s ← get
  match s.homesIn t with
  | none => pure false
  | some tiles => do
    let moved := tiles != t.tiles
    let t := { t with tiles := tiles }
    let wait := (t.places.zipIdx.filterMap fun (p, i) => match p with
      | .queued c => some (⟨t.seq, BitVec.ofNat 6 i, c, s.time⟩ : Waiter)
      | .unplaced | .resident _ | .saved _ | .ended => none)
    change (fun s => { s with tasks := s.tasks ++ [t], waiters := s.waiters ++ wait,
                              nextTask := if s.nextTask < t.seq then t.seq else s.nextTask })
    ((t.tiles.filter (fun r => r.home.isSome)).zip xs).forM fun (r, dws) => do
      let bs := (dws.flatMap (fun x => toBytes 8 x.toNat)).take r.bytes
      modify fun s => s.writeLocs t.fn r.base ((s.regionLocs t r).zip bs)
    change (fun s => if moved then s.writePitch t else s)
    pure true

/-- A hart's slot comes in, into the lowest free save slot of its partition: whether there is one. -/
def slotIn (ws : List Word) : Acc Bool := do
  let ((part, core, waiting, toPf, img), rest) := (do
    let part ← rdBits 5
    let core ← rdBits 4
    let waiting ← rdFlag
    let toPf ← rdFlag
    let img ← rdList (do
      let off ← rdNat
      let xs ← rdList rd
      pure (off, xs))
    pure (part, core, waiting, toPf, img) : Rd (BitVec 5 × BitVec 4 × Bool × Bool × List (Nat × List Word))) ws
  let h := (rdRest (hartOfImage img)).of rest
  let s ← get
  match s.freeSave part with
  | none => pure false
  | some idx => do
    let v : SaveSlot := { part := part, idx := idx, state := .saved, core := core, pend := 0, waiting := waiting, since := s.time,
                          dest := 0, ctx := h, got := [] }
    match poolWrite (s.poolAgent part h.fn) (s.slotBase part idx)
        (img.flatMap (fun (off, xs) => xs.zipIdx.map (fun (x, i) => (off + 8 * i, x)))) s with
    | (some (_, e), _) => throw e
    | (none, t) => do
      set ({ t with saves := t.saves ++ [v],
                    pfRecords := if toPf then (h.seq, h.index) :: t.pfRecords else t.pfRecords }.modTask h.seq (fun t =>
        { t with places := t.places.set h.index.toNat (.saved idx) }))
      pure true

/-- A section comes in: whether the package has room for it (13_context.md R394). -/
def sectionIn (x : Nat × List Word) : Acc Bool :=
  match x with
  | (1, fn :: ws) => do
    let us := (rdList rdQueue).of ws
    change (·.modFn (fn.setWidth 8) (fun g => { g with queues := g.queues.filter (fun u => !us.any (fun v => v.num == u.num)) ++ us }))
    pure true
  | (2, fn :: ws) => do
    let (e, rs) := (do
      let e ← rdOption rdEvq
      let rs ← rdList (do
        let fn ← rdBits 8
        let dw ← rdVector 8 0 rd
        pure (⟨fn, dw⟩ : HeldRecord))
      pure (e, rs) : Rd (Option EventQueue × List HeldRecord)).of ws
    change (fun s => ({ s with records := s.records ++ rs }.modFn (fn.setWidth 8) (fun g => { g with evq := e.or g.evq })).deliverAll
      (fn.setWidth 8))
    pure true
  | (3, ws) => taskIn ws
  | (4, ws) => slotIn ws
  | (5, ws) => do
    change (fun s => { s with gates := s.gates ++ [rdGate.of ws] })
    pure true
  | (6, p :: ws) => do
    let t := (rdVector 256 HandleSlot.reset rdHandle).of ws
    change (fun s => { s with handles := modAt s.handles p.toNat (fun _ => t) })
    pure true
  | _ => pure true

/-- Sections come in one after another, until one finds no room. -/
def sectionsIn : List (Nat × List Word) → Acc Bool
  | [] => pure true
  | x :: xs => do
    let ok ← sectionIn x
    if ok then sectionsIn xs else pure false

/-- MIGRATE_IN (13_context.md R394; 11_gate.md R344; log 30). -/
def migrateInBody (w : Agent) (c : Command) : Acc Answer := do
  if bits c.a 0 3 ≠ 0 then answer stInvalid
  else do
    let hd ← loadDws w c.a 8
    let g (i : Nat) : Word := (hd[i]?).getD 0
    let s0 ← get
    let bare (p : Nat) : Bool := ((s0.parts[p]?).getD .reset).raw.all (· == 0)
    if g 0 ≠ word (0x41454449 * 2 ^ 32 + 2 ^ 24) then answer stInvalid
    else if g 3 ≠ s0.pkg.setWidth 64 ∨ (List.range 64).any (fun p => (g 1).getLsbD p && (23 < p || bare p)) then answer stRefused
    else do
      let xs ← readSections w (g 5).toNat (c.a + 64)
      if xs.any (fun x => x.1 == 5 && (s0.gate (rdGate.of x.2).id).isSome) then answer stRefused
      else do
        let ok ← sectionsIn xs
        if ok then do
          change (·.wakeGates)
          answer stOk
        else do
          set s0
          answer stNoSpace

/-- MIGRATE_OUT (13_context.md R393). -/
def execMigrateOut (x : Cmd) (s : State) : Out := s.command x 0x30 anyCommand migrateOutBody

/-- MIGRATE_IN (13_context.md R394). -/
def execMigrateIn (x : Cmd) (s : State) : Out := s.command x 0x31 anyCommand migrateInBody

end Sys2Proof.Machine
end

