-- ==== Sys2Proof/Machine/PortIns.lean ====
section
/-!
DEFINITION. The instructions of the port engine: majors 42 to 49. Each is enqueued in the PIQ with the scalar operands it names
(01_engines.md R13, R14, R16); what its entry does is said by `runEntry` in Engines.lean.
-/

namespace Sys2Proof.Machine

/-- Unit-stride vector load (06_port.md R175). -/
def execVld (v : BitVec 5) (a : BitVec 6) (b : BitVec 6) (m : BitVec 7) (s : State) : Out :=
  issue (.vld v a b m) 2 [a, b] s

/-- Unit-stride vector store (06_port.md R175). -/
def execVst (v : BitVec 5) (a : BitVec 6) (b : BitVec 6) (m : BitVec 7) (s : State) : Out :=
  issue (.vst v a b m) 2 [a, b] s

/-- Strided vector load (06_port.md R175). -/
def execVlds (v : BitVec 5) (a : BitVec 6) (b : BitVec 6) (m : BitVec 7) (s : State) : Out :=
  issue (.vlds v a b m) 2 [a, b] s

/-- Strided vector store (06_port.md R175). -/
def execVsts (v : BitVec 5) (a : BitVec 6) (b : BitVec 6) (m : BitVec 7) (s : State) : Out :=
  issue (.vsts v a b m) 2 [a, b] s

/-- Indexed vector load with a probe pass (06_port.md R178). -/
def execVldx (v : BitVec 5) (a : BitVec 6) (i : BitVec 5) (m : BitVec 7) (s : State) : Out :=
  issue (.vldx v a i m) 2 [a] s

/-- Indexed vector store with a probe pass (06_port.md R178). -/
def execVstx (v : BitVec 5) (a : BitVec 6) (i : BitVec 5) (m : BitVec 7) (s : State) : Out :=
  issue (.vstx v a i m) 2 [a] s

/-- Unit-stride first-fault load, trimming FFMASK (06_port.md R180). -/
def execVldff (v : BitVec 5) (a : BitVec 6) (b : BitVec 6) (m : BitVec 7) (s : State) : Out :=
  issue (.vldff v a b m) 2 [a, b] s

/-- Strided first-fault load (06_port.md R180). -/
def execVldsff (v : BitVec 5) (a : BitVec 6) (b : BitVec 6) (m : BitVec 7) (s : State) : Out :=
  issue (.vldsff v a b m) 2 [a, b] s

/-- Vector load at base plus immediate (06_port.md R175). -/
def execVldI (v : BitVec 5) (a : BitVec 6) (i : BitVec 12) (s : State) : Out :=
  issue (.vldI v a i) 2 [a] s

/-- Vector store at base plus immediate (06_port.md R175). -/
def execVstI (v : BitVec 5) (a : BitVec 6) (i : BitVec 12) (s : State) : Out :=
  issue (.vstI v a i) 2 [a] s

/-- First-fault load at base plus immediate (06_port.md R180). -/
def execVldffI (v : BitVec 5) (a : BitVec 6) (i : BitVec 12) (s : State) : Out :=
  issue (.vldffI v a i) 2 [a] s

/-- Bind a stream register to a load descriptor (06_port.md R190). -/
def execTbindl (t : BitVec 4) (a : BitVec 6) (s : State) : Out :=
  issue (.tbindl t a) 2 [a] s

/-- Bind a stream register to a store descriptor (06_port.md R190). -/
def execTbinds (t : BitVec 4) (a : BitVec 6) (s : State) : Out :=
  issue (.tbinds t a) 2 [a] s

/-- Unbind a stream and discard prefetched elements (06_port.md R193). -/
def execTfree (t : BitVec 4) (s : State) : Out :=
  issue (.tfree t) 2 [] s

/-- Discard undelivered prefetched elements of a load stream (06_port.md R193). -/
def execTflush (t : BitVec 4) (s : State) : Out :=
  issue (.tflush t) 2 [] s

/-- Deliver the next strip of a load stream (06_port.md R191). -/
def execTget (v : BitVec 5) (t : BitVec 4) (m : BitVec 7) (s : State) : Out :=
  issue (.tget v t m) 2 [] s

/-- Append a strip to a store stream (06_port.md R192). -/
def execTsend (v : BitVec 5) (t : BitVec 4) (m : BitVec 7) (s : State) : Out :=
  issue (.tsend v t m) 2 [] s

/-- Start an asynchronous copy on a copy token (06_port.md R195). -/
def execAcopy (a : BitVec 6) (b : BitVec 6) (c : BitVec 6) (k : BitVec 4) (s : State) : Out :=
  issue (.acopy a b c k) 2 [a, b, c] s

/-- Wait for a copy token, acquiring or raising its fault (06_port.md R197). -/
def execCwait (k : BitVec 4) (s : State) : Out :=
  issue (.cwait k) 2 [] s

/-- Write whether a copy token is not BUSY to the BQ (06_port.md R198). -/
def execCtest (k : BitVec 4) (s : State) : Out :=
  issue (.ctest k) 2 [] s

end Sys2Proof.Machine
end

