-- ==== Sys2Proof/Machine/Vector.lean ====
section
/-!
DEFINITION. The instructions of the lane engine: majors 25 to 40. Each is enqueued in the VIQ with the scalar operands it names
(01_engines.md R13, R14, R16); what its entry does is said by `runEntry` in Engines.lean.
-/

namespace Sys2Proof.Machine

/-- Element-wise vector add (07_lane.md R214). -/
def execVadd (d : BitVec 5) (a : BitVec 5) (b : BitVec 5) (m : BitVec 7) (s : State) : Out :=
  issue (.vadd d a b m) 1 [] s

/-- Element-wise vector subtract (07_lane.md R214). -/
def execVsub (d : BitVec 5) (a : BitVec 5) (b : BitVec 5) (m : BitVec 7) (s : State) : Out :=
  issue (.vsub d a b m) 1 [] s

/-- Element-wise vector multiply (07_lane.md R214). -/
def execVmul (d : BitVec 5) (a : BitVec 5) (b : BitVec 5) (m : BitVec 7) (s : State) : Out :=
  issue (.vmul d a b m) 1 [] s

/-- High half of the element-wise integer product (07_lane.md R214). -/
def execVmulh (d : BitVec 5) (a : BitVec 5) (b : BitVec 5) (m : BitVec 7) (s : State) : Out :=
  issue (.vmulh d a b m) 1 [] s

/-- Element-wise vector divide (07_lane.md R214). -/
def execVdiv (d : BitVec 5) (a : BitVec 5) (b : BitVec 5) (m : BitVec 7) (s : State) : Out :=
  issue (.vdiv d a b m) 1 [] s

/-- Element-wise integer remainder (07_lane.md R214). -/
def execVrem (d : BitVec 5) (a : BitVec 5) (b : BitVec 5) (m : BitVec 7) (s : State) : Out :=
  issue (.vrem d a b m) 1 [] s

/-- Element-wise minimum (07_lane.md R214). -/
def execVmin (d : BitVec 5) (a : BitVec 5) (b : BitVec 5) (m : BitVec 7) (s : State) : Out :=
  issue (.vmin d a b m) 1 [] s

/-- Element-wise maximum (07_lane.md R214). -/
def execVmax (d : BitVec 5) (a : BitVec 5) (b : BitVec 5) (m : BitVec 7) (s : State) : Out :=
  issue (.vmax d a b m) 1 [] s

/-- Element-wise bitwise AND (07_lane.md R214). -/
def execVand (d : BitVec 5) (a : BitVec 5) (b : BitVec 5) (m : BitVec 7) (s : State) : Out :=
  issue (.vand d a b m) 1 [] s

/-- Element-wise bitwise OR (07_lane.md R214). -/
def execVor (d : BitVec 5) (a : BitVec 5) (b : BitVec 5) (m : BitVec 7) (s : State) : Out :=
  issue (.vor d a b m) 1 [] s

/-- Element-wise bitwise XOR (07_lane.md R214). -/
def execVxor (d : BitVec 5) (a : BitVec 5) (b : BitVec 5) (m : BitVec 7) (s : State) : Out :=
  issue (.vxor d a b m) 1 [] s

/-- Element-wise left shift (07_lane.md R214). -/
def execVshl (d : BitVec 5) (a : BitVec 5) (b : BitVec 5) (m : BitVec 7) (s : State) : Out :=
  issue (.vshl d a b m) 1 [] s

/-- Element-wise logical right shift (07_lane.md R214). -/
def execVshr (d : BitVec 5) (a : BitVec 5) (b : BitVec 5) (m : BitVec 7) (s : State) : Out :=
  issue (.vshr d a b m) 1 [] s

/-- Element-wise arithmetic right shift (07_lane.md R214). -/
def execVsra (d : BitVec 5) (a : BitVec 5) (b : BitVec 5) (m : BitVec 7) (s : State) : Out :=
  issue (.vsra d a b m) 1 [] s

/-- Element-wise saturating add (07_lane.md R214). -/
def execVadds (d : BitVec 5) (a : BitVec 5) (b : BitVec 5) (m : BitVec 7) (s : State) : Out :=
  issue (.vadds d a b m) 1 [] s

/-- Element-wise saturating subtract (07_lane.md R214). -/
def execVsubs (d : BitVec 5) (a : BitVec 5) (b : BitVec 5) (m : BitVec 7) (s : State) : Out :=
  issue (.vsubs d a b m) 1 [] s

/-- Element-wise multiply-accumulate into the destination (07_lane.md R214). -/
def execVmac (d : BitVec 5) (a : BitVec 5) (b : BitVec 5) (m : BitVec 7) (s : State) : Out :=
  issue (.vmac d a b m) 1 [] s

/-- Element-wise negative multiply-accumulate (07_lane.md R214). -/
def execVnmac (d : BitVec 5) (a : BitVec 5) (b : BitVec 5) (m : BitVec 7) (s : State) : Out :=
  issue (.vnmac d a b m) 1 [] s

/-- Element-wise square root (07_lane.md R214). -/
def execVsqrt (d : BitVec 5) (a : BitVec 5) (m : BitVec 7) (s : State) : Out :=
  issue (.vsqrt d a m) 1 [] s

/-- Element-wise absolute value (07_lane.md R214). -/
def execVabs (d : BitVec 5) (a : BitVec 5) (m : BitVec 7) (s : State) : Out :=
  issue (.vabs d a m) 1 [] s

/-- Fused add-minimum min(c, a + b) (07_lane.md R215). -/
def execVaddmin (d : BitVec 5) (a : BitVec 5) (b : BitVec 5) (m : BitVec 7) (s : State) : Out :=
  issue (.vaddmin d a b m) 1 [] s

/-- Select b where the mask is set, else a (07_lane.md R216). -/
def execVmerge (d : BitVec 5) (a : BitVec 5) (b : BitVec 5) (m : BitVec 7) (s : State) : Out :=
  issue (.vmerge d a b m) 1 [] s

/-- Copy a vector (07_lane.md R214). -/
def execVmv (d : BitVec 5) (a : BitVec 5) (m : BitVec 7) (s : State) : Out :=
  issue (.vmv d a m) 1 [] s

/-- Compare equal into a mask (07_lane.md R220). -/
def execVseq (d : BitVec 7) (a : BitVec 5) (b : BitVec 5) (m : BitVec 7) (s : State) : Out :=
  issue (.vseq d a b m) 1 [] s

/-- Compare not equal into a mask (07_lane.md R220). -/
def execVsne (d : BitVec 7) (a : BitVec 5) (b : BitVec 5) (m : BitVec 7) (s : State) : Out :=
  issue (.vsne d a b m) 1 [] s

/-- Compare less-than into a mask (07_lane.md R220). -/
def execVslt (d : BitVec 7) (a : BitVec 5) (b : BitVec 5) (m : BitVec 7) (s : State) : Out :=
  issue (.vslt d a b m) 1 [] s

/-- Compare less-or-equal into a mask (07_lane.md R220). -/
def execVsle (d : BitVec 7) (a : BitVec 5) (b : BitVec 5) (m : BitVec 7) (s : State) : Out :=
  issue (.vsle d a b m) 1 [] s

/-- Add a scalar to each element (07_lane.md R217). -/
def execVaddVs (d : BitVec 5) (a : BitVec 5) (x : BitVec 6) (m : BitVec 7) (s : State) : Out :=
  issue (.vaddVs d a x m) 1 [x] s

/-- Subtract a scalar from each element (07_lane.md R217). -/
def execVsubVs (d : BitVec 5) (a : BitVec 5) (x : BitVec 6) (m : BitVec 7) (s : State) : Out :=
  issue (.vsubVs d a x m) 1 [x] s

/-- Multiply each element by a scalar (07_lane.md R217). -/
def execVmulVs (d : BitVec 5) (a : BitVec 5) (x : BitVec 6) (m : BitVec 7) (s : State) : Out :=
  issue (.vmulVs d a x m) 1 [x] s

/-- Minimum of each element and a scalar (07_lane.md R217). -/
def execVminVs (d : BitVec 5) (a : BitVec 5) (x : BitVec 6) (m : BitVec 7) (s : State) : Out :=
  issue (.vminVs d a x m) 1 [x] s

/-- Maximum of each element and a scalar (07_lane.md R217). -/
def execVmaxVs (d : BitVec 5) (a : BitVec 5) (x : BitVec 6) (m : BitVec 7) (s : State) : Out :=
  issue (.vmaxVs d a x m) 1 [x] s

/-- Left shift each element by a scalar amount (07_lane.md R217). -/
def execVshlVs (d : BitVec 5) (a : BitVec 5) (x : BitVec 6) (m : BitVec 7) (s : State) : Out :=
  issue (.vshlVs d a x m) 1 [x] s

/-- Logical right shift by a scalar amount (07_lane.md R217). -/
def execVshrVs (d : BitVec 5) (a : BitVec 5) (x : BitVec 6) (m : BitVec 7) (s : State) : Out :=
  issue (.vshrVs d a x m) 1 [x] s

/-- Arithmetic right shift by a scalar amount (07_lane.md R217). -/
def execVsraVs (d : BitVec 5) (a : BitVec 5) (x : BitVec 6) (m : BitVec 7) (s : State) : Out :=
  issue (.vsraVs d a x m) 1 [x] s

/-- Multiply-accumulate with a scalar factor (07_lane.md R217). -/
def execVmacVs (d : BitVec 5) (a : BitVec 5) (x : BitVec 6) (m : BitVec 7) (s : State) : Out :=
  issue (.vmacVs d a x m) 1 [x] s

/-- Fused add-minimum with a scalar addend (07_lane.md R217). -/
def execVaddminVs (d : BitVec 5) (a : BitVec 5) (x : BitVec 6) (m : BitVec 7) (s : State) : Out :=
  issue (.vaddminVs d a x m) 1 [x] s

/-- Broadcast a scalar to every element (07_lane.md R217). -/
def execVbcast (d : BitVec 5) (x : BitVec 6) (m : BitVec 7) (s : State) : Out :=
  issue (.vbcast d x m) 1 [x] s

/-- Scalar minus each element (07_lane.md R217). -/
def execVrsubVs (d : BitVec 5) (a : BitVec 5) (x : BitVec 6) (m : BitVec 7) (s : State) : Out :=
  issue (.vrsubVs d a x m) 1 [x] s

/-- Add an immediate to each element (07_lane.md R218). -/
def execVaddVi (d : BitVec 5) (a : BitVec 5) (i : BitVec 12) (s : State) : Out :=
  issue (.vaddVi d a i) 1 [] s

/-- AND each element with an immediate (07_lane.md R218). -/
def execVandVi (d : BitVec 5) (a : BitVec 5) (i : BitVec 12) (s : State) : Out :=
  issue (.vandVi d a i) 1 [] s

/-- OR each element with an immediate (07_lane.md R218). -/
def execVorVi (d : BitVec 5) (a : BitVec 5) (i : BitVec 12) (s : State) : Out :=
  issue (.vorVi d a i) 1 [] s

/-- XOR each element with an immediate (07_lane.md R218). -/
def execVxorVi (d : BitVec 5) (a : BitVec 5) (i : BitVec 12) (s : State) : Out :=
  issue (.vxorVi d a i) 1 [] s

/-- Left shift by an immediate amount (07_lane.md R218). -/
def execVshlVi (d : BitVec 5) (a : BitVec 5) (i : BitVec 12) (s : State) : Out :=
  issue (.vshlVi d a i) 1 [] s

/-- Logical right shift by an immediate amount (07_lane.md R218). -/
def execVshrVi (d : BitVec 5) (a : BitVec 5) (i : BitVec 12) (s : State) : Out :=
  issue (.vshrVi d a i) 1 [] s

/-- Arithmetic right shift by an immediate amount (07_lane.md R218). -/
def execVsraVi (d : BitVec 5) (a : BitVec 5) (i : BitVec 12) (s : State) : Out :=
  issue (.vsraVi d a i) 1 [] s

/-- Immediate minus each element (07_lane.md R218). -/
def execVrsubVi (d : BitVec 5) (a : BitVec 5) (i : BitVec 12) (s : State) : Out :=
  issue (.vrsubVi d a i) 1 [] s

/-- Write start + i × step into each element (07_lane.md R219). -/
def execVidx (d : BitVec 5) (x : BitVec 10) (p : BitVec 10) (s : State) : Out :=
  issue (.vidx d x p) 1 [] s

/-- Tree sum reduction into vd[0] (07_lane.md R226). -/
def execVredsum (d : BitVec 5) (a : BitVec 5) (b : BitVec 5) (m : BitVec 7) (s : State) : Out :=
  issue (.vredsum d a b m) 1 [] s

/-- Minimum reduction (07_lane.md R226). -/
def execVredmin (d : BitVec 5) (a : BitVec 5) (b : BitVec 5) (m : BitVec 7) (s : State) : Out :=
  issue (.vredmin d a b m) 1 [] s

/-- Maximum reduction (07_lane.md R226). -/
def execVredmax (d : BitVec 5) (a : BitVec 5) (b : BitVec 5) (m : BitVec 7) (s : State) : Out :=
  issue (.vredmax d a b m) 1 [] s

/-- Bitwise AND reduction (07_lane.md R226). -/
def execVredand (d : BitVec 5) (a : BitVec 5) (b : BitVec 5) (m : BitVec 7) (s : State) : Out :=
  issue (.vredand d a b m) 1 [] s

/-- Bitwise OR reduction (07_lane.md R226). -/
def execVredor (d : BitVec 5) (a : BitVec 5) (b : BitVec 5) (m : BitVec 7) (s : State) : Out :=
  issue (.vredor d a b m) 1 [] s

/-- Bitwise XOR reduction (07_lane.md R226). -/
def execVredxor (d : BitVec 5) (a : BitVec 5) (b : BitVec 5) (m : BitVec 7) (s : State) : Out :=
  issue (.vredxor d a b m) 1 [] s

/-- Inclusive additive scan with carry-out to vb[0] (07_lane.md R227). -/
def execVscan (d : BitVec 5) (a : BitVec 5) (b : BitVec 5) (m : BitVec 7) (s : State) : Out :=
  issue (.vscan d a b m) 1 [] s

/-- Exclusive additive scan with carry-out to vb[0] (07_lane.md R227). -/
def execVscanx (d : BitVec 5) (a : BitVec 5) (b : BitVec 5) (m : BitVec 7) (s : State) : Out :=
  issue (.vscanx d a b m) 1 [] s

/-- Slide elements up by a scalar offset (07_lane.md R228). -/
def execVslideup (d : BitVec 5) (a : BitVec 5) (x : BitVec 6) (m : BitVec 7) (s : State) : Out :=
  issue (.vslideup d a x m) 1 [x] s

/-- Slide elements down by a scalar offset (07_lane.md R228). -/
def execVslidedn (d : BitVec 5) (a : BitVec 5) (x : BitVec 6) (m : BitVec 7) (s : State) : Out :=
  issue (.vslidedn d a x m) 1 [x] s

/-- Slide up by one, inserting a scalar at element 0 (07_lane.md R228). -/
def execVslide1up (d : BitVec 5) (a : BitVec 5) (x : BitVec 6) (m : BitVec 7) (s : State) : Out :=
  issue (.vslide1up d a x m) 1 [x] s

/-- Slide down by one, inserting a scalar at the last element (07_lane.md R228). -/
def execVslide1dn (d : BitVec 5) (a : BitVec 5) (x : BitVec 6) (m : BitVec 7) (s : State) : Out :=
  issue (.vslide1dn d a x m) 1 [x] s

/-- Permute by an index vector (07_lane.md R229). -/
def execVperm (d : BitVec 5) (a : BitVec 5) (b : BitVec 5) (m : BitVec 7) (s : State) : Out :=
  issue (.vperm d a b m) 1 [] s

/-- Pack the mask-selected elements (07_lane.md R229). -/
def execVcompress (d : BitVec 5) (a : BitVec 5) (m : BitVec 7) (s : State) : Out :=
  issue (.vcompress d a m) 1 [] s

/-- Spread consecutive elements to active positions (07_lane.md R229). -/
def execVexpand (d : BitVec 5) (a : BitVec 5) (m : BitVec 7) (s : State) : Out :=
  issue (.vexpand d a m) 1 [] s

/-- Reverse element order (07_lane.md R229). -/
def execVrev (d : BitVec 5) (a : BitVec 5) (m : BitVec 7) (s : State) : Out :=
  issue (.vrev d a m) 1 [] s

/-- Interleave two vectors (07_lane.md R229). -/
def execVzip (d : BitVec 5) (a : BitVec 5) (b : BitVec 5) (m : BitVec 7) (s : State) : Out :=
  issue (.vzip d a b m) 1 [] s

/-- De-interleave a vector (07_lane.md R229). -/
def execVunzip (d : BitVec 5) (a : BitVec 5) (m : BitVec 7) (s : State) : Out :=
  issue (.vunzip d a m) 1 [] s

/-- Index of the nearest earlier active element with equal bits (07_lane.md R229). -/
def execVconflict (d : BitVec 5) (a : BitVec 5) (m : BitVec 7) (s : State) : Out :=
  issue (.vconflict d a m) 1 [] s

/-- Element-wise type conversion under R91 (07_lane.md R221). -/
def execVcvt (d : BitVec 5) (a : BitVec 5) (t : BitVec 4) (f : BitVec 4) (m : BitVec 7) (s : State) : Out :=
  issue (.vcvt d a t f m) 1 [] s

/-- Mask AND (07_lane.md R224). -/
def execMand (d : BitVec 7) (a : BitVec 7) (b : BitVec 7) (s : State) : Out :=
  issue (.mand d a b) 1 [] s

/-- Mask OR (07_lane.md R224). -/
def execMor (d : BitVec 7) (a : BitVec 7) (b : BitVec 7) (s : State) : Out :=
  issue (.mor d a b) 1 [] s

/-- Mask XOR (07_lane.md R224). -/
def execMxor (d : BitVec 7) (a : BitVec 7) (b : BitVec 7) (s : State) : Out :=
  issue (.mxor d a b) 1 [] s

/-- Mask AND NOT (07_lane.md R224). -/
def execMandn (d : BitVec 7) (a : BitVec 7) (b : BitVec 7) (s : State) : Out :=
  issue (.mandn d a b) 1 [] s

/-- Mask OR NOT (07_lane.md R224). -/
def execMorn (d : BitVec 7) (a : BitVec 7) (b : BitVec 7) (s : State) : Out :=
  issue (.morn d a b) 1 [] s

/-- Mask NAND (07_lane.md R224). -/
def execMnand (d : BitVec 7) (a : BitVec 7) (b : BitVec 7) (s : State) : Out :=
  issue (.mnand d a b) 1 [] s

/-- Mask NOR (07_lane.md R224). -/
def execMnor (d : BitVec 7) (a : BitVec 7) (b : BitVec 7) (s : State) : Out :=
  issue (.mnor d a b) 1 [] s

/-- Mask XNOR (07_lane.md R224). -/
def execMxnor (d : BitVec 7) (a : BitVec 7) (b : BitVec 7) (s : State) : Out :=
  issue (.mxnor d a b) 1 [] s

/-- Mask copy (07_lane.md R224). -/
def execMmv (d : BitVec 7) (a : BitVec 7) (s : State) : Out :=
  issue (.mmv d a) 1 [] s

/-- Mask complement (07_lane.md R224). -/
def execMnot (d : BitVec 7) (a : BitVec 7) (s : State) : Out :=
  issue (.mnot d a) 1 [] s

/-- Set bits before the first set bit (07_lane.md R224). -/
def execMsetbf (d : BitVec 7) (a : BitVec 7) (s : State) : Out :=
  issue (.msetbf d a) 1 [] s

/-- Set bits up to and including the first set bit (07_lane.md R224). -/
def execMsetif (d : BitVec 7) (a : BitVec 7) (s : State) : Out :=
  issue (.msetif d a) 1 [] s

/-- Set only the first set bit (07_lane.md R224). -/
def execMsetof (d : BitVec 7) (a : BitVec 7) (s : State) : Out :=
  issue (.msetof d a) 1 [] s

/-- Clear a mask (07_lane.md R224). -/
def execMclr (d : BitVec 7) (s : State) : Out :=
  issue (.mclr d) 1 [] s

/-- Set a mask to all ones (07_lane.md R224). -/
def execMset (d : BitVec 7) (s : State) : Out :=
  issue (.mset d) 1 [] s

/-- Extract element s[b] to the SRQ (07_lane.md R225). -/
def execVext (a : BitVec 5) (b : BitVec 6) (s : State) : Out :=
  issue (.vext a b) 1 [b] s

/-- Population count of a mask to the SRQ (07_lane.md R225). -/
def execMpop (m : BitVec 7) (s : State) : Out :=
  issue (.mpop m) 1 [] s

/-- Lowest set mask bit to the SRQ (07_lane.md R225). -/
def execMfind (m : BitVec 7) (s : State) : Out :=
  issue (.mfind m) 1 [] s

/-- Any-bit-set condition to the BQ (07_lane.md R225). -/
def execMbany (m : BitVec 7) (s : State) : Out :=
  issue (.mbany m) 1 [] s

/-- All-bits-set condition to the BQ (07_lane.md R225). -/
def execMball (m : BitVec 7) (s : State) : Out :=
  issue (.mball m) 1 [] s

end Sys2Proof.Machine
end

