-- ==== Sys2Proof/Machine/Dispatch.lean ====
section
/-! DEFINITION. The meaning of every instruction and event: one arm for each row of the opcode table. -/

namespace Sys2Proof.Machine

/-- What an instruction or event does. -/
def exec (i : Instr) (s : State) : Host.Outcome State Fault Refusal :=
  match i with
  | .cAdd d b => Sys2Proof.Machine.execCAdd d b s
  | .cSub d b => Sys2Proof.Machine.execCSub d b s
  | .cAnd d b => Sys2Proof.Machine.execCAnd d b s
  | .cOr d b => Sys2Proof.Machine.execCOr d b s
  | .cXor d b => Sys2Proof.Machine.execCXor d b s
  | .cShl d b => Sys2Proof.Machine.execCShl d b s
  | .cAddi d im => Sys2Proof.Machine.execCAddi d im s
  | .add d a b => Sys2Proof.Machine.execAdd d a b s
  | .sub d a b => Sys2Proof.Machine.execSub d a b s
  | .and d a b => Sys2Proof.Machine.execAnd d a b s
  | .or d a b => Sys2Proof.Machine.execOr d a b s
  | .xor d a b => Sys2Proof.Machine.execXor d a b s
  | .shl d a b => Sys2Proof.Machine.execShl d a b s
  | .shr d a b => Sys2Proof.Machine.execShr d a b s
  | .sra d a b => Sys2Proof.Machine.execSra d a b s
  | .slt d a b => Sys2Proof.Machine.execSlt d a b s
  | .sltn d a b => Sys2Proof.Machine.execSltn d a b s
  | .mul d a b => Sys2Proof.Machine.execMul d a b s
  | .mulh d a b => Sys2Proof.Machine.execMulh d a b s
  | .mulhn d a b => Sys2Proof.Machine.execMulhn d a b s
  | .div d a b => Sys2Proof.Machine.execDiv d a b s
  | .divn d a b => Sys2Proof.Machine.execDivn d a b s
  | .rem d a b => Sys2Proof.Machine.execRem d a b s
  | .remn d a b => Sys2Proof.Machine.execRemn d a b s
  | .addi d a im => Sys2Proof.Machine.execAddi d a im s
  | .slti d a im => Sys2Proof.Machine.execSlti d a im s
  | .andi d a im => Sys2Proof.Machine.execAndi d a im s
  | .ori d a im => Sys2Proof.Machine.execOri d a im s
  | .xori d a im => Sys2Proof.Machine.execXori d a im s
  | .shli d a n => Sys2Proof.Machine.execShli d a n s
  | .shri d a n => Sys2Proof.Machine.execShri d a n s
  | .srai d a n => Sys2Proof.Machine.execSrai d a n s
  | .ld64 d a im => Sys2Proof.Machine.execLd64 d a im s
  | .ld32 d a im => Sys2Proof.Machine.execLd32 d a im s
  | .ld16 d a im => Sys2Proof.Machine.execLd16 d a im s
  | .ld8 d a im => Sys2Proof.Machine.execLd8 d a im s
  | .ldn32 d a im => Sys2Proof.Machine.execLdn32 d a im s
  | .ldn16 d a im => Sys2Proof.Machine.execLdn16 d a im s
  | .ldn8 d a im => Sys2Proof.Machine.execLdn8 d a im s
  | .fld32 d a im => Sys2Proof.Machine.execFld32 d a im s
  | .fld64 d a im => Sys2Proof.Machine.execFld64 d a im s
  | .st64 d a im => Sys2Proof.Machine.execSt64 d a im s
  | .st32 d a im => Sys2Proof.Machine.execSt32 d a im s
  | .st16 d a im => Sys2Proof.Machine.execSt16 d a im s
  | .st8 d a im => Sys2Proof.Machine.execSt8 d a im s
  | .fst32 d a im => Sys2Proof.Machine.execFst32 d a im s
  | .fst64 d a im => Sys2Proof.Machine.execFst64 d a im s
  | .jlr d a im => Sys2Proof.Machine.execJlr d a im s
  | .beq a b o => Sys2Proof.Machine.execBeq a b o s
  | .bne a b o => Sys2Proof.Machine.execBne a b o s
  | .blt a b o => Sys2Proof.Machine.execBlt a b o s
  | .bge a b o => Sys2Proof.Machine.execBge a b o s
  | .bltn a b o => Sys2Proof.Machine.execBltn a b o s
  | .bgen a b o => Sys2Proof.Machine.execBgen a b o s
  | .sbnz a b o => Sys2Proof.Machine.execSbnz a b o s
  | .j o => Sys2Proof.Machine.execJ o s
  | .jl o => Sys2Proof.Machine.execJl o s
  | .bqz q o => Sys2Proof.Machine.execBqz q o s
  | .bqnz q o => Sys2Proof.Machine.execBqnz q o s
  | .fadd d a b t => Sys2Proof.Machine.execFadd d a b t s
  | .fsub d a b t => Sys2Proof.Machine.execFsub d a b t s
  | .fmul d a b t => Sys2Proof.Machine.execFmul d a b t s
  | .fdiv d a b t => Sys2Proof.Machine.execFdiv d a b t s
  | .fsqrt d a t => Sys2Proof.Machine.execFsqrt d a t s
  | .fmin d a b t => Sys2Proof.Machine.execFmin d a b t s
  | .fmax d a b t => Sys2Proof.Machine.execFmax d a b t s
  | .fmac d a b t => Sys2Proof.Machine.execFmac d a b t s
  | .feq d a b t => Sys2Proof.Machine.execFeq d a b t s
  | .flt d a b t => Sys2Proof.Machine.execFlt d a b t s
  | .fle d a b t => Sys2Proof.Machine.execFle d a b t s
  | .fcvtF d a t => Sys2Proof.Machine.execFcvtF d a t s
  | .fcvtI d a t => Sys2Proof.Machine.execFcvtI d a t s
  | .fcvtFf d a t => Sys2Proof.Machine.execFcvtFf d a t s
  | .fmvSF d a t => Sys2Proof.Machine.execFmvSF d a t s
  | .fmvFS d a t => Sys2Proof.Machine.execFmvFS d a t s
  | .fclass d a t => Sys2Proof.Machine.execFclass d a t s
  | .amoswap d a b c r => Sys2Proof.Machine.execAmoswap d a b c r s
  | .amoadd d a b c r => Sys2Proof.Machine.execAmoadd d a b c r s
  | .amoand d a b c r => Sys2Proof.Machine.execAmoand d a b c r s
  | .amoor d a b c r => Sys2Proof.Machine.execAmoor d a b c r s
  | .amomax d a b c r => Sys2Proof.Machine.execAmomax d a b c r s
  | .amomaxn d a b c r => Sys2Proof.Machine.execAmomaxn d a b c r s
  | .amocas d a b c r => Sys2Proof.Machine.execAmocas d a b c r s
  | .ldaq d a c => Sys2Proof.Machine.execLdaq d a c s
  | .strl a b c => Sys2Proof.Machine.execStrl a b c s
  | .fence c => Sys2Proof.Machine.execFence c s
  | .fenceAcq c => Sys2Proof.Machine.execFenceAcq c s
  | .fenceRel c => Sys2Proof.Machine.execFenceRel c s
  | .fenceSc c => Sys2Proof.Machine.execFenceSc c s
  | .qdrain q => Sys2Proof.Machine.execQdrain q s
  | .mvq d q => Sys2Proof.Machine.execMvq d q s
  | .csrr d n => Sys2Proof.Machine.execCsrr d n s
  | .csrw a n => Sys2Proof.Machine.execCsrw a n s
  | .csrs d a n => Sys2Proof.Machine.execCsrs d a n s
  | .csrc d a n => Sys2Proof.Machine.execCsrc d a n s
  | .trap => Sys2Proof.Machine.execTrap s
  | .tret => Sys2Proof.Machine.execTret s
  | .waitt a => Sys2Proof.Machine.execWaitt a s
  | .brk => Sys2Proof.Machine.execBrk s
  | .setvl d a im => Sys2Proof.Machine.execSetvl d a im s
  | .vadd d a b m => Sys2Proof.Machine.execVadd d a b m s
  | .vsub d a b m => Sys2Proof.Machine.execVsub d a b m s
  | .vmul d a b m => Sys2Proof.Machine.execVmul d a b m s
  | .vmulh d a b m => Sys2Proof.Machine.execVmulh d a b m s
  | .vdiv d a b m => Sys2Proof.Machine.execVdiv d a b m s
  | .vrem d a b m => Sys2Proof.Machine.execVrem d a b m s
  | .vmin d a b m => Sys2Proof.Machine.execVmin d a b m s
  | .vmax d a b m => Sys2Proof.Machine.execVmax d a b m s
  | .vand d a b m => Sys2Proof.Machine.execVand d a b m s
  | .vor d a b m => Sys2Proof.Machine.execVor d a b m s
  | .vxor d a b m => Sys2Proof.Machine.execVxor d a b m s
  | .vshl d a b m => Sys2Proof.Machine.execVshl d a b m s
  | .vshr d a b m => Sys2Proof.Machine.execVshr d a b m s
  | .vsra d a b m => Sys2Proof.Machine.execVsra d a b m s
  | .vadds d a b m => Sys2Proof.Machine.execVadds d a b m s
  | .vsubs d a b m => Sys2Proof.Machine.execVsubs d a b m s
  | .vmac d a b m => Sys2Proof.Machine.execVmac d a b m s
  | .vnmac d a b m => Sys2Proof.Machine.execVnmac d a b m s
  | .vsqrt d a m => Sys2Proof.Machine.execVsqrt d a m s
  | .vabs d a m => Sys2Proof.Machine.execVabs d a m s
  | .vaddmin d a b m => Sys2Proof.Machine.execVaddmin d a b m s
  | .vmerge d a b m => Sys2Proof.Machine.execVmerge d a b m s
  | .vmv d a m => Sys2Proof.Machine.execVmv d a m s
  | .vseq d a b m => Sys2Proof.Machine.execVseq d a b m s
  | .vsne d a b m => Sys2Proof.Machine.execVsne d a b m s
  | .vslt d a b m => Sys2Proof.Machine.execVslt d a b m s
  | .vsle d a b m => Sys2Proof.Machine.execVsle d a b m s
  | .vaddVs d a n m => Sys2Proof.Machine.execVaddVs d a n m s
  | .vsubVs d a n m => Sys2Proof.Machine.execVsubVs d a n m s
  | .vmulVs d a n m => Sys2Proof.Machine.execVmulVs d a n m s
  | .vminVs d a n m => Sys2Proof.Machine.execVminVs d a n m s
  | .vmaxVs d a n m => Sys2Proof.Machine.execVmaxVs d a n m s
  | .vshlVs d a n m => Sys2Proof.Machine.execVshlVs d a n m s
  | .vshrVs d a n m => Sys2Proof.Machine.execVshrVs d a n m s
  | .vsraVs d a n m => Sys2Proof.Machine.execVsraVs d a n m s
  | .vmacVs d a n m => Sys2Proof.Machine.execVmacVs d a n m s
  | .vaddminVs d a n m => Sys2Proof.Machine.execVaddminVs d a n m s
  | .vbcast d n m => Sys2Proof.Machine.execVbcast d n m s
  | .vrsubVs d a n m => Sys2Proof.Machine.execVrsubVs d a n m s
  | .vaddVi d a im => Sys2Proof.Machine.execVaddVi d a im s
  | .vandVi d a im => Sys2Proof.Machine.execVandVi d a im s
  | .vorVi d a im => Sys2Proof.Machine.execVorVi d a im s
  | .vxorVi d a im => Sys2Proof.Machine.execVxorVi d a im s
  | .vshlVi d a im => Sys2Proof.Machine.execVshlVi d a im s
  | .vshrVi d a im => Sys2Proof.Machine.execVshrVi d a im s
  | .vsraVi d a im => Sys2Proof.Machine.execVsraVi d a im s
  | .vrsubVi d a im => Sys2Proof.Machine.execVrsubVi d a im s
  | .vidx d n p => Sys2Proof.Machine.execVidx d n p s
  | .vredsum d a b m => Sys2Proof.Machine.execVredsum d a b m s
  | .vredmin d a b m => Sys2Proof.Machine.execVredmin d a b m s
  | .vredmax d a b m => Sys2Proof.Machine.execVredmax d a b m s
  | .vredand d a b m => Sys2Proof.Machine.execVredand d a b m s
  | .vredor d a b m => Sys2Proof.Machine.execVredor d a b m s
  | .vredxor d a b m => Sys2Proof.Machine.execVredxor d a b m s
  | .vscan d a b m => Sys2Proof.Machine.execVscan d a b m s
  | .vscanx d a b m => Sys2Proof.Machine.execVscanx d a b m s
  | .vslideup d a n m => Sys2Proof.Machine.execVslideup d a n m s
  | .vslidedn d a n m => Sys2Proof.Machine.execVslidedn d a n m s
  | .vslide1up d a n m => Sys2Proof.Machine.execVslide1up d a n m s
  | .vslide1dn d a n m => Sys2Proof.Machine.execVslide1dn d a n m s
  | .vperm d a b m => Sys2Proof.Machine.execVperm d a b m s
  | .vcompress d a m => Sys2Proof.Machine.execVcompress d a m s
  | .vexpand d a m => Sys2Proof.Machine.execVexpand d a m s
  | .vrev d a m => Sys2Proof.Machine.execVrev d a m s
  | .vzip d a b m => Sys2Proof.Machine.execVzip d a b m s
  | .vunzip d a m => Sys2Proof.Machine.execVunzip d a m s
  | .vconflict d a m => Sys2Proof.Machine.execVconflict d a m s
  | .vcvt d a t f m => Sys2Proof.Machine.execVcvt d a t f m s
  | .mand d a b => Sys2Proof.Machine.execMand d a b s
  | .mor d a b => Sys2Proof.Machine.execMor d a b s
  | .mxor d a b => Sys2Proof.Machine.execMxor d a b s
  | .mandn d a b => Sys2Proof.Machine.execMandn d a b s
  | .morn d a b => Sys2Proof.Machine.execMorn d a b s
  | .mnand d a b => Sys2Proof.Machine.execMnand d a b s
  | .mnor d a b => Sys2Proof.Machine.execMnor d a b s
  | .mxnor d a b => Sys2Proof.Machine.execMxnor d a b s
  | .mmv d a => Sys2Proof.Machine.execMmv d a s
  | .mnot d a => Sys2Proof.Machine.execMnot d a s
  | .msetbf d a => Sys2Proof.Machine.execMsetbf d a s
  | .msetif d a => Sys2Proof.Machine.execMsetif d a s
  | .msetof d a => Sys2Proof.Machine.execMsetof d a s
  | .mclr d => Sys2Proof.Machine.execMclr d s
  | .mset d => Sys2Proof.Machine.execMset d s
  | .vext a b => Sys2Proof.Machine.execVext a b s
  | .mpop m => Sys2Proof.Machine.execMpop m s
  | .mfind m => Sys2Proof.Machine.execMfind m s
  | .mbany m => Sys2Proof.Machine.execMbany m s
  | .mball m => Sys2Proof.Machine.execMball m s
  | .vld v a b m => Sys2Proof.Machine.execVld v a b m s
  | .vst v a b m => Sys2Proof.Machine.execVst v a b m s
  | .vlds v a b m => Sys2Proof.Machine.execVlds v a b m s
  | .vsts v a b m => Sys2Proof.Machine.execVsts v a b m s
  | .vldx v a im m => Sys2Proof.Machine.execVldx v a im m s
  | .vstx v a im m => Sys2Proof.Machine.execVstx v a im m s
  | .vldff v a b m => Sys2Proof.Machine.execVldff v a b m s
  | .vldsff v a b m => Sys2Proof.Machine.execVldsff v a b m s
  | .vldI v a im => Sys2Proof.Machine.execVldI v a im s
  | .vstI v a im => Sys2Proof.Machine.execVstI v a im s
  | .vldffI v a im => Sys2Proof.Machine.execVldffI v a im s
  | .tbindl t a => Sys2Proof.Machine.execTbindl t a s
  | .tbinds t a => Sys2Proof.Machine.execTbinds t a s
  | .tfree t => Sys2Proof.Machine.execTfree t s
  | .tflush t => Sys2Proof.Machine.execTflush t s
  | .tget v t m => Sys2Proof.Machine.execTget v t m s
  | .tsend v t m => Sys2Proof.Machine.execTsend v t m s
  | .acopy a b c k => Sys2Proof.Machine.execAcopy a b c k s
  | .cwait k => Sys2Proof.Machine.execCwait k s
  | .ctest k => Sys2Proof.Machine.execCtest k s
  | .fload a n => Sys2Proof.Machine.execFload a n s
  | .fstart n => Sys2Proof.Machine.execFstart n s
  | .fstop n => Sys2Proof.Machine.execFstop n s
  | .fdrain n => Sys2Proof.Machine.execFdrain n s
  | .fstat n => Sys2Proof.Machine.execFstat n s
  | .fgather v im a m => Sys2Proof.Machine.execFgather v im a m s
  | .fscatter v im a m => Sys2Proof.Machine.execFscatter v im a m s
  | .fwgather v im a m => Sys2Proof.Machine.execFwgather v im a m s
  | .vamoadd v im a m => Sys2Proof.Machine.execVamoadd v im a m s
  | .vamomin v im a m => Sys2Proof.Machine.execVamomin v im a m s
  | .vamomax v im a m => Sys2Proof.Machine.execVamomax v im a m s
  | .fas v im a m => Sys2Proof.Machine.execFas v im a m s
  | .awadd v im k m => Sys2Proof.Machine.execAwadd v im k m s
  | .awmin v im k m => Sys2Proof.Machine.execAwmin v im k m s
  | .awmax v im k m => Sys2Proof.Machine.execAwmax v im k m s
  | .awopen a b k => Sys2Proof.Machine.execAwopen a b k s
  | .accmerge k => Sys2Proof.Machine.execAccmerge k s
  | .awdiscard k => Sys2Proof.Machine.execAwdiscard k s
  | .chform a => Sys2Proof.Machine.execChform a s
  | .chrun a => Sys2Proof.Machine.execChrun a s
  | .chwait => Sys2Proof.Machine.execChwait s
  | .chbreak => Sys2Proof.Machine.execChbreak s
  | .chfree => Sys2Proof.Machine.execChfree s
  | .chstat => Sys2Proof.Machine.execChstat s
  | .chidx a => Sys2Proof.Machine.execChidx a s
  | .qrd x => Sys2Proof.Machine.execQrd x s
  | .qwr x a => Sys2Proof.Machine.execQwr x a s
  | .qlen x => Sys2Proof.Machine.execQlen x s
  | .mmac c a b x => Sys2Proof.Machine.execMmac c a b x s
  | .mmacsa c a b x => Sys2Proof.Machine.execMmacsa c a b x s
  | .mmacsb c a b x => Sys2Proof.Machine.execMmacsb c a b x s
  | .mldc c a => Sys2Proof.Machine.execMldc c a s
  | .mstc c a x => Sys2Proof.Machine.execMstc c a x s
  | .mzero c => Sys2Proof.Machine.execMzero c s
  | .mskip a b x => Sys2Proof.Machine.execMskip a b x s
  | .mshape a => Sys2Proof.Machine.execMshape a s
  | .mprune a b x => Sys2Proof.Machine.execMprune a b x s
  | .mnode c a => Sys2Proof.Machine.execMnode c a s
  | .mfill c => Sys2Proof.Machine.execMfill c s
  | .mwait c => Sys2Proof.Machine.execMwait c s
  | .mscale c a => Sys2Proof.Machine.execMscale c a s
  | .mstat c => Sys2Proof.Machine.execMstat c s
  | .gpost a b => Sys2Proof.Machine.execGpost a b s
  | .gpostPayload d a b => Sys2Proof.Machine.execGpostPayload d a b s
  | .gwait d a b => Sys2Proof.Machine.execGwait d a b s
  | .gtry d a b => Sys2Proof.Machine.execGtry d a b s
  | .gread d a => Sys2Proof.Machine.execGread d a s
  | .gopen d a b => Sys2Proof.Machine.execGopen d a b s
  | .gclose a => Sys2Proof.Machine.execGclose a s
  | .fclaim d a b => Sys2Proof.Machine.execFclaim d a b s
  | .fend => Sys2Proof.Machine.execFend s
  | .sigdec a b => Sys2Proof.Machine.execSigdec a b s
  | .sigwait a b => Sys2Proof.Machine.execSigwait a b s
  | .launch a b => Sys2Proof.Machine.execLaunch a b s
  | .lput a b c k => Sys2Proof.Machine.execLput a b c k s
  | .lget a b c k => Sys2Proof.Machine.execLget a b c k s
  | .lcred a b c k => Sys2Proof.Machine.execLcred a b c k s
  | .lcgat a b c k => Sys2Proof.Machine.execLcgat a b c k s
  | .lcbc a b c k => Sys2Proof.Machine.execLcbc a b c k s
  | .lwait k => Sys2Proof.Machine.execLwait k s
  | .lfence => Sys2Proof.Machine.execLfence s
  | .ltest k => Sys2Proof.Machine.execLtest k s
  | .ctxsave a b => Sys2Proof.Machine.execCtxsave a b s
  | .ctxload a b => Sys2Proof.Machine.execCtxload a b s
  | .dbgwin d a b => Sys2Proof.Machine.execDbgwin d a b s
  | .engineTrap slot queue code addr => Sys2Proof.Machine.execEngineTrap slot queue code addr s
  | .hartTrap slot code addr => Sys2Proof.Machine.execHartTrap slot code addr s
  | .preEmption slot trigger => Sys2Proof.Machine.execPreEmption slot trigger s
  | .contextSave slot => Sys2Proof.Machine.execContextSave slot s
  | .contextRestore part saved slot => Sys2Proof.Machine.execContextRestore part saved slot s
  | .hartAdmit core => Sys2Proof.Machine.execHartAdmit core s
  | .placement seq cores start => Sys2Proof.Machine.execPlacement seq cores start s
  | .notify fn q => Sys2Proof.Machine.execNotify fn q s
  | .queueScan fn q => Sys2Proof.Machine.execQueueScan fn q s
  | .launchPacket fn q => Sys2Proof.Machine.execLaunchPacket fn q s
  | .signalPacket fn q => Sys2Proof.Machine.execSignalPacket fn q s
  | .waitPacket fn q => Sys2Proof.Machine.execWaitPacket fn q s
  | .waitReread fn q => Sys2Proof.Machine.execWaitReread fn q s
  | .nopPacket fn q => Sys2Proof.Machine.execNopPacket fn q s
  | .recordDeliver fn => Sys2Proof.Machine.execRecordDeliver fn s
  | .recordRetry fn => Sys2Proof.Machine.execRecordRetry fn s
  | .queueCreate cmd => Sys2Proof.Machine.execQueueCreate cmd s
  | .queueDestroy cmd => Sys2Proof.Machine.execQueueDestroy cmd s
  | .queueRestart cmd => Sys2Proof.Machine.execQueueRestart cmd s
  | .evqCreate cmd => Sys2Proof.Machine.execEvqCreate cmd s
  | .resume cmd => Sys2Proof.Machine.execResume cmd s
  | .resumeAbort cmd => Sys2Proof.Machine.execResumeAbort cmd s
  | .taskAbort cmd => Sys2Proof.Machine.execTaskAbort cmd s
  | .resumeSave cmd => Sys2Proof.Machine.execResumeSave cmd s
  | .rootSet cmd => Sys2Proof.Machine.execRootSet cmd s
  | .invalidate cmd => Sys2Proof.Machine.execInvalidate cmd s
  | .gateCreate cmd => Sys2Proof.Machine.execGateCreate cmd s
  | .gateList cmd => Sys2Proof.Machine.execGateList cmd s
  | .gateSet cmd => Sys2Proof.Machine.execGateSet cmd s
  | .gateRevoke cmd => Sys2Proof.Machine.execGateRevoke cmd s
  | .gateDelete cmd => Sys2Proof.Machine.execGateDelete cmd s
  | .migrateOut cmd => Sys2Proof.Machine.execMigrateOut cmd s
  | .migrateIn cmd => Sys2Proof.Machine.execMigrateIn cmd s
  | .partSet cmd => Sys2Proof.Machine.execPartSet cmd s
  | .exportRange cmd => Sys2Proof.Machine.execExportRange cmd s
  | .exportRemove cmd => Sys2Proof.Machine.execExportRemove cmd s
  | .vfReset cmd => Sys2Proof.Machine.execVfReset cmd s
  | .attest cmd => Sys2Proof.Machine.execAttest cmd s
  | .powerSet cmd => Sys2Proof.Machine.execPowerSet cmd s
  | .limitSet cmd => Sys2Proof.Machine.execLimitSet cmd s
  | .counters cmd => Sys2Proof.Machine.execCounters cmd s
  | .debugHalt cmd => Sys2Proof.Machine.execDebugHalt cmd s
  | .debugResume cmd => Sys2Proof.Machine.execDebugResume cmd s
  | .debugStep cmd => Sys2Proof.Machine.execDebugStep cmd s
  | .debugRead cmd => Sys2Proof.Machine.execDebugRead cmd s
  | .debugWrite cmd => Sys2Proof.Machine.execDebugWrite cmd s
  | .debugArm cmd => Sys2Proof.Machine.execDebugArm cmd s
  | .debugDisarm cmd => Sys2Proof.Machine.execDebugDisarm cmd s
  | .tollRefill => Sys2Proof.Machine.execTollRefill s
  | .gpostAdmit slot => Sys2Proof.Machine.execGpostAdmit slot s
  | .gwaitWake slot => Sys2Proof.Machine.execGwaitWake slot s
  | .gateEccRevoke gate => Sys2Proof.Machine.execGateEccRevoke gate s
  | .waittExpire slot => Sys2Proof.Machine.execWaittExpire slot s
  | .sigwaitMet slot => Sys2Proof.Machine.execSigwaitMet slot s
  | .copyComplete slot k => Sys2Proof.Machine.execCopyComplete slot k s
  | .copyFault slot k => Sys2Proof.Machine.execCopyFault slot k s
  | .linkOpComplete slot k => Sys2Proof.Machine.execLinkOpComplete slot k s
  | .linkOpFault slot k => Sys2Proof.Machine.execLinkOpFault slot k s
  | .chainBreak slot cause stage => Sys2Proof.Machine.execChainBreak slot cause stage s
  | .chainReform slot => Sys2Proof.Machine.execChainReform slot s
  | .chainDetach slot => Sys2Proof.Machine.execChainDetach slot s
  | .nodeFinish slot n => Sys2Proof.Machine.execNodeFinish slot n s
  | .bellGrant slot src n inp => Sys2Proof.Machine.execBellGrant slot src n inp s
  | .fabricWatchdog slot => Sys2Proof.Machine.execFabricWatchdog slot s
  | .requestTimeout slot unit k addr => Sys2Proof.Machine.execRequestTimeout slot unit k addr s
  | .nodeTileFill slot o => Sys2Proof.Machine.execNodeTileFill slot o s
  | .operandNodeFault slot o => Sys2Proof.Machine.execOperandNodeFault slot o s
  | .eccUncorrectable part addr => Sys2Proof.Machine.execEccUncorrectable part addr s
  | .internalUncorrectable => Sys2Proof.Machine.execInternalUncorrectable s
  | .laneLinkDown core port => Sys2Proof.Machine.execLaneLinkDown core port s
  | .laneLinkUp core port => Sys2Proof.Machine.execLaneLinkUp core port s
  | .ubeacPortFail port => Sys2Proof.Machine.execUbeacPortFail port s
  | .thermalThrottle => Sys2Proof.Machine.execThermalThrottle s
  | .thermalRecover => Sys2Proof.Machine.execThermalRecover s
  | .thermalTrip => Sys2Proof.Machine.execThermalTrip s
  | .packageReset romGood => Sys2Proof.Machine.execPackageReset romGood s
  | .vfFlr fn => Sys2Proof.Machine.execVfFlr fn s
  | .bootConfiguration words => Sys2Proof.Machine.execBootConfiguration words s
  | .bootConfigTimeout => Sys2Proof.Machine.execBootConfigTimeout s
  | .peerAccess op size addr data expect => Sys2Proof.Machine.execPeerAccess op size addr data expect s
  | .cxlMemAccess write size off data => Sys2Proof.Machine.execCxlMemAccess write size off data s
  | .configurationRequest => Sys2Proof.Machine.execConfigurationRequest s
  | .laneLinkReplay core port => Sys2Proof.Machine.execLaneLinkReplay core port s
  | .flitReplay port => Sys2Proof.Machine.execFlitReplay port s
  | .streamElementArrival slot t => Sys2Proof.Machine.execStreamElementArrival slot t s

end Sys2Proof.Machine
end

