-- ==== Sys2Proof/Machine/Step.lean ====
section
/-!
DEFINITION. One step of the package: the next input of the agenda, or a turn of a hart (log 1).
-/

namespace Sys2Proof.Machine

/-- A turn of the hart that moves: its engines, then its next instruction, before which its scalar stores are performed unless it
lets them wait (log 66). Where no hart runs, time passes. -/
noncomputable def turn (s : State) : Host.Outcome State Fault Refusal :=
  if s.runs s.cur then
    match s.fetchNext with
    | .stop o => endOut s none o
    | .run i t => endOut s (some i) (exec i (if leavesStores i then t else t.perform t.cur))
  else .next s

/-- What a stopped package still does: a package reset, whatever causes it, taking a boot configuration, and answering
configuration requests (16_device.md R424 to R426). -/
def Instr.whileStopped : Instr → Bool
  | .packageReset _ | .configurationRequest | .thermalTrip | .bootConfiguration _ => true
  | _ => false

/-- An outcome after which the engines take entries again, and stores are performed at once. -/
def withEngines : Host.Outcome State Fault Refusal → Host.Outcome State Fault Refusal
  | .next s => .next { s with engines := true, storesWait := false }
  | .fault r => .fault r
  | .refused r => .refused r

/-- The next input is taken: an event of the table, a turn of a hart, or another (log 1). An instruction with words is no
event. -/
noncomputable def takeInput (x : Input) (s : State) : Host.Outcome State Fault Refusal :=
  match x with
  | .event i => if (encode i).isSome || (s.stopped && !(Instr.whileStopped i)) then .next s else exec i s
  | .turn slot => if s.stopped then .next s else turn { s with cur := slot }
  | .alone slot => if s.stopped then .next s else withEngines (turn { s with cur := slot, engines := false })
  | .late slot =>
    if s.stopped then .next s else withEngines (turn { s with cur := slot, engines := false, storesWait := true })
  | x => .next (s.input x)

/-- The hart whose scalar stores may go on waiting at an input: the one that the input moves (log 66). -/
def Input.mover : Input → Option (Fin 64)
  | .turn slot | .alone slot | .late slot | .engines slot | .queue slot _ => some slot
  | _ => none

/-- An outcome in which the package has met an error that no partition owns: it stops (16_device.md R426; log 67). -/
def haltUnowned (s : State) : Host.Outcome State Fault Refusal → Host.Outcome State Fault Refusal
  | .next t => if t.stopped && !s.stopped && t.harts.any (fun h => h.run != .absent) then .next t.stopAll else .next t
  | .fault r => .fault r
  | .refused r => .refused r

/-- One step. -/
noncomputable def step (s : State) : Host.Outcome State Fault Refusal :=
  match s.agenda with
  | x :: rest => haltUnowned s (takeInput x ({ s.tick with agenda := rest }.performBut x.mover))
  | [] =>
    if s.stopped then .fault .packageStopped
    else
      let t := s.tick.pickHart
      haltUnowned s (turn (t.performBut (some t.cur)))

/-- Where `withFetchWord` places an instruction, and the tables that map it: a root table and one 1 GiB leaf. -/
def fetchPc : Nat := 0x1000
/-- The root table. -/
def fetchRoot : Nat := 0x200000
/-- The next table. -/
def fetchTable : Nat := 0x210000

/-- The state with an instruction stored where `step` fetches its next one: hart slot 0 runs in host mode at a pc that
the PF's stage-1 tables map with every right, and nothing else comes before its turn (log 5). -/
def State.withFetchWord (s : State) (nbits w : Nat) : State :=
  let w := w % 2 ^ nbits
  let s := ((dwLocs fetchRoot).zip (toBytes 8 (fetchTable + 1))).foldl (fun s c => s.setByte c.1 c.2) s
  let s := ((dwLocs fetchTable).zip (toBytes 8 0xCF)).foldl (fun s c => s.setByte c.1 c.2) s
  let s := (((List.range 4).map (fetchPc + ·)).zip (toBytes 4 w)).foldl (fun s c => s.setByte c.1 c.2) s
  { s with
    harts := s.harts.set 0 { s.harts[0] with run := .running, pc := word fetchPc, scope := 0x4000006, fn := 0, viq := [], piq := [], miq := [],
                                             stepping := 0, late := none, unperformed := [] },
    funcs := s.funcs.set 0 { s.funcs[0] with root := word fetchRoot },
    tlb := [], ecc := [], fenced := [], saves := [], cur := 0, agenda := [], stopped := false, engines := true, storesWait := false }

end Sys2Proof.Machine
end

