-- ==== Sys2Proof/Safety.lean ====
section
/-!
DEFINITION. What claims say of a state and of a step: that an instruction completes, what a well-formed state is, and what
the privileged parts of the package are.
-/

namespace Sys2Proof

open Sys2Proof.Machine

/-- An instruction or event completes: it answers a next state, not a fault and not a refusal. -/
def Completes (i : Instr) (s : State) : Prop := ∃ t, exec i s = .next t

/-- The memory of a state is in its canonical form. -/
def MemOk (s : State) : Prop := Memory.wf s.mem

/-- A run is safe at a state: its next step neither faults nor is refused. -/
def Safe (s : State) : Prop := ∃ t, step s = .next t

end Sys2Proof
end

