-- ==== Sys2Proof/Certificates/Slice0/Obligations.lean ====
section
/-!
DEFINITION. The statements for the provers, and the words they are stated in: what a rule's table gives for an instruction, and
what of the package an instruction leaves as it was.
-/

namespace Sys2Proof.Claims

open Sys2Proof Sys2Proof.Machine

/-! ### What changes and what does not -/

/-- Every byte of memory reads as before. -/
def SameBytes (s t : State) : Prop := ∀ a, Memory.read t.mem a = Memory.read s.mem a

/-- Every byte reads as before, but for A and D bits that a walk has set in table entries (04_memory_model.md R110). -/
def OnlyAd (s t : State) : Prop := ∀ a, ∃ m : Byte, m &&& 0x3F = 0 ∧ Memory.read t.mem a = Memory.read s.mem a ||| m

/-- From `s` to `t` the hart that moves writes `x` to s[d] (nothing for d = 0), adds the flags `fl` to VSTAT, moves its pc past an
instruction of `len` bytes and names d in `ld`; nothing else of the package changes, no byte of memory either. -/
def WritesS (s t : State) (len : Nat) (d : BitVec 6) (x fl : Word) : Prop :=
  (∀ n, t.hart.sreg n = if n = d ∧ n ≠ 0 then x else s.hart.sreg n) ∧
  t.hart.pc = s.hart.pc + word len ∧ t.hart.ld = d ∧ t.hart.vstat = s.hart.vstat ||| fl ∧
  t = s.setHart { s.hart with s := t.hart.s, pc := t.hart.pc, ld := t.hart.ld, vstat := t.hart.vstat } ∧ SameBytes s t

/-- As `WritesS` for f[d]: `ld` is then 0. RNG becomes `rng`. -/
def WritesF (s t : State) (d : BitVec 5) (x fl rng : Word) : Prop :=
  (∀ n, t.hart.freg n = if n = d then x else s.hart.freg n) ∧
  t.hart.pc = s.hart.pc + 4 ∧ t.hart.ld = 0 ∧ t.hart.vstat = s.hart.vstat ||| fl ∧ t.hart.rng = rng ∧
  t = s.setHart { s.hart with f := t.hart.f, pc := t.hart.pc, ld := 0, vstat := t.hart.vstat, rng := rng } ∧ SameBytes s t

/-- From `s` to `t` the hart that moves goes to `pc` and writes no register: `ld` is 0, and nothing else changes. -/
def GoesTo (s t : State) (pc : Word) : Prop := t = s.setHart { s.hart with pc := pc, ld := 0 } ∧ SameBytes s t

/-! ### Scalar results -/

/-- A signed number below another, as s[d] holds it. -/
def boolWord (b : Bool) : Word := if b then 1 else 0

/-- The length, destination and result of the instructions that compute s[d] from scalar registers (02_encoding.md R52;
05_hart.md R152, R153): the values a and b are those before the instruction. -/
def scalarResult (h : Hart) : Instr → Option (Nat × BitVec 6 × Word)
  | .cAdd d b => some (2, d, h.sreg h.ld + h.sreg b)
  | .cSub d b => some (2, d, h.sreg h.ld - h.sreg b)
  | .cAnd d b => some (2, d, h.sreg h.ld &&& h.sreg b)
  | .cOr d b => some (2, d, h.sreg h.ld ||| h.sreg b)
  | .cXor d b => some (2, d, h.sreg h.ld ^^^ h.sreg b)
  | .cShl d b => some (2, d, h.sreg h.ld <<< ((h.sreg b) &&& 63))
  | .cAddi d i => some (2, d, h.sreg h.ld + i.signExtend 64)
  | .add d a b => some (4, d, h.sreg a + h.sreg b)
  | .sub d a b => some (4, d, h.sreg a - h.sreg b)
  | .and d a b => some (4, d, h.sreg a &&& h.sreg b)
  | .or d a b => some (4, d, h.sreg a ||| h.sreg b)
  | .xor d a b => some (4, d, h.sreg a ^^^ h.sreg b)
  | .shl d a b => some (4, d, h.sreg a <<< (h.sreg b &&& 63))
  | .shr d a b => some (4, d, h.sreg a >>> (h.sreg b &&& 63))
  | .sra d a b => some (4, d, BitVec.ofInt 64 ((h.sreg a).toInt / 2 ^ ((h.sreg b).toNat % 64)))
  | .slt d a b => some (4, d, boolWord ((h.sreg a).toInt < (h.sreg b).toInt))
  | .sltn d a b => some (4, d, boolWord ((h.sreg a).toNat < (h.sreg b).toNat))
  | .mul d a b => some (4, d, BitVec.ofNat 64 ((h.sreg a).toNat * (h.sreg b).toNat))
  | .mulh d a b => some (4, d, ((h.sreg a).signExtend 128 * (h.sreg b).signExtend 128).extractLsb' 64 64)
  | .mulhn d a b => some (4, d, ((h.sreg a).zeroExtend 128 * (h.sreg b).zeroExtend 128).extractLsb' 64 64)
  | .addi d a i => some (4, d, h.sreg a + i.signExtend 64)
  | .slti d a i => some (4, d, boolWord ((h.sreg a).toInt < i.toInt))
  | .andi d a i => some (4, d, h.sreg a &&& i.signExtend 64)
  | .ori d a i => some (4, d, h.sreg a ||| i.signExtend 64)
  | .xori d a i => some (4, d, h.sreg a ^^^ i.signExtend 64)
  | .shli d a n => some (4, d, h.sreg a <<< n)
  | .shri d a n => some (4, d, h.sreg a >>> n)
  | .srai d a n => some (4, d, BitVec.ofInt 64 ((h.sreg a).toInt / 2 ^ n.toNat))
  | _ => none

/-- Quotient and remainder as 03_arithmetic.md R76 gives them for w = 64, with the flag DZ. -/
def quotRem (signed : Bool) (a b : Word) : Word × Word × Word :=
  if b = 0 then (BitVec.allOnes 64, a, 0x02)
  else if signed then (BitVec.ofInt 64 (a.toInt.tdiv b.toInt), BitVec.ofInt 64 (a.toInt.tmod b.toInt), 0)
  else (BitVec.ofNat 64 (a.toNat / b.toNat), BitVec.ofNat 64 (a.toNat % b.toNat), 0)

/-- The destination, result and flag of a scalar division (05_hart.md R152). -/
def divResult (h : Hart) : Instr → Option (BitVec 6 × Word × Word)
  | .div d a b => let (q, _, f) := quotRem true (h.sreg a) (h.sreg b); some (d, q, f)
  | .divn d a b => let (q, _, f) := quotRem false (h.sreg a) (h.sreg b); some (d, q, f)
  | .rem d a b => let (_, r, f) := quotRem true (h.sreg a) (h.sreg b); some (d, r, f)
  | .remn d a b => let (_, r, f) := quotRem false (h.sreg a) (h.sreg b); some (d, r, f)
  | _ => none

/-- The pc after a branch or a jump without a link, by 05_hart.md R155 and R157. -/
def branchResult (h : Hart) : Instr → Option Word
  | .beq a b o => some (if h.sreg a = h.sreg b then h.pc + 2 * o.signExtend 64 else h.pc + 4)
  | .bne a b o => some (if h.sreg a ≠ h.sreg b then h.pc + 2 * o.signExtend 64 else h.pc + 4)
  | .blt a b o => some (if (h.sreg a).toInt < (h.sreg b).toInt then h.pc + 2 * o.signExtend 64 else h.pc + 4)
  | .bge a b o => some (if (h.sreg a).toInt ≥ (h.sreg b).toInt then h.pc + 2 * o.signExtend 64 else h.pc + 4)
  | .bltn a b o => some (if (h.sreg a).toNat < (h.sreg b).toNat then h.pc + 2 * o.signExtend 64 else h.pc + 4)
  | .bgen a b o => some (if (h.sreg a).toNat ≥ (h.sreg b).toNat then h.pc + 2 * o.signExtend 64 else h.pc + 4)
  | .j o => some (h.pc + 2 * o.signExtend 64)
  | _ => none

/-- The destination, its value and the pc after the jumps and branches that write a scalar register (05_hart.md R156, R157). -/
def linkResult (h : Hart) : Instr → Option (BitVec 6 × Word × Word)
  | .jl o => some (63, h.pc + 4, h.pc + 2 * o.signExtend 64)
  | .jlr d a i => some (d, h.pc + 4, h.sreg a + i.signExtend 64)
  | .sbnz a b o =>
    let x := h.sreg a - h.sreg b
    some (a, x, if a ≠ 0 ∧ x ≠ 0 then h.pc + 2 * o.signExtend 64 else h.pc + 4)
  | _ => none

/-! ### Memory -/

/-- As `WritesS`, but memory may change. -/
def WritesSM (s t : State) (len : Nat) (d : BitVec 6) (x fl : Word) : Prop :=
  (∀ n, t.hart.sreg n = if n = d ∧ n ≠ 0 then x else s.hart.sreg n) ∧
  t.hart.pc = s.hart.pc + word len ∧ t.hart.ld = d ∧ t.hart.vstat = s.hart.vstat ||| fl ∧
  t = { s.setHart { s.hart with s := t.hart.s, pc := t.hart.pc, ld := t.hart.ld, vstat := t.hart.vstat } with mem := t.mem }

/-- From `s` to `t` the bytes at the places `locs` become those of `x`, lowest first, and every other byte reads as before. -/
def StoresAt (s t : State) (locs : List Nat) (x : Nat) : Prop :=
  (∀ a, a ∉ locs → Memory.read t.mem a = Memory.read s.mem a) ∧
  ∀ k, (h : k < locs.length) → Memory.read t.mem locs[k] = BitVec.ofNat 8 (x / 256 ^ k)

/-- The value of the bytes at some places, lowest first (00_scope.md R1). -/
def valueAt (s : State) (locs : List Nat) : Nat := ofBytes (locs.map (Memory.read s.mem))

/-- An access of the hart that moves finds its bytes: translation gives their places and leaves the state `t` (A and D bits set, the
translation cached), no granule of theirs holds an uncorrectable error, and no request of the hart is to fail. -/
abbrev Finds (s : State) (acc : Access) (va : Word) (n : Nat) (locs : List Nat) (t : State) : Prop :=
  locate s.hart.agent acc va n s = .ok locs t ∧ locs.Nodup ∧ (∀ l ∈ locs, t.badAt l = false) ∧ s.hart.late = none

/-- What a translation may change: memory, by A and D bits, the translations it keeps, and those an entry at work has of its pages
(04_memory_model.md R110, R112; 06_port.md R177). -/
def Translates (s t : State) : Prop :=
  OnlyAd s t ∧ t = { s with mem := t.mem, tlb := t.tlb, work := t.work }

/-- The scalar loads (05_hart.md R154): bytes, the value s[d] receives, d, a and imm. -/
def loadOf : Instr → Option (Nat × (Nat → Word) × BitVec 6 × BitVec 6 × BitVec 12)
  | .ld64 d a i => some (8, fun x => BitVec.ofNat 64 x, d, a, i)
  | .ld32 d a i => some (4, fun x => (BitVec.ofNat 32 x).signExtend 64, d, a, i)
  | .ld16 d a i => some (2, fun x => (BitVec.ofNat 16 x).signExtend 64, d, a, i)
  | .ld8 d a i => some (1, fun x => (BitVec.ofNat 8 x).signExtend 64, d, a, i)
  | .ldn32 d a i => some (4, fun x => (BitVec.ofNat 32 x).zeroExtend 64, d, a, i)
  | .ldn16 d a i => some (2, fun x => (BitVec.ofNat 16 x).zeroExtend 64, d, a, i)
  | .ldn8 d a i => some (1, fun x => (BitVec.ofNat 8 x).zeroExtend 64, d, a, i)
  | _ => none

/-- The loads of an f register (05_hart.md R154). -/
def loadFOf : Instr → Option (Nat × BitVec 5 × BitVec 6 × BitVec 12)
  | .fld32 d a i => some (4, d, a, i)
  | .fld64 d a i => some (8, d, a, i)
  | _ => none

/-- The scalar stores (05_hart.md R154): bytes, the value, a and imm. -/
def storeOf (h : Hart) : Instr → Option (Nat × Word × BitVec 6 × BitVec 12)
  | .st64 d a i => some (8, h.sreg d, a, i)
  | .st32 d a i => some (4, h.sreg d, a, i)
  | .st16 d a i => some (2, h.sreg d, a, i)
  | .st8 d a i => some (1, h.sreg d, a, i)
  | .fst32 d a i => some (4, h.freg d, a, i)
  | .fst64 d a i => some (8, h.freg d, a, i)
  | _ => none

/-- Every scalar load and store: bytes, whether it stores, a and imm. -/
def accessOf : Instr → Option (Nat × Bool × BitVec 6 × BitVec 12)
  | .ld64 _ a i | .fld64 _ a i => some (8, false, a, i)
  | .ld32 _ a i | .ldn32 _ a i | .fld32 _ a i => some (4, false, a, i)
  | .ld16 _ a i | .ldn16 _ a i => some (2, false, a, i)
  | .ld8 _ a i | .ldn8 _ a i => some (1, false, a, i)
  | .st64 _ a i | .fst64 _ a i => some (8, true, a, i)
  | .st32 _ a i | .fst32 _ a i => some (4, true, a, i)
  | .st16 _ a i => some (2, true, a, i)
  | .st8 _ a i => some (1, true, a, i)
  | _ => none

/-! ### Queues -/

/-- The hart that moves has nothing in its queues and owes no store that timed out. -/
abbrev Quiet (s : State) : Prop := s.hart.quiet = true ∧ s.hart.lateStores = []

/-- The hart with its scope code clamped: STATUS.CLAMP is set for a guest's code above 4 (04_memory_model.md R119). -/
def clamped (s : State) (c : BitVec 3) : State :=
  if s.hart.scope.getLsbD 26 = false ∧ 4 < c.toNat then s.setHart { s.hart with status := s.hart.status ||| 0x80 } else s

/-- The scalar RMWs (05_hart.md R161): the new value from the old one, none where nothing is written; d, a, scope and order. -/
def amoOf (h : Hart) : Instr → Option ((Word → Option Word) × BitVec 6 × BitVec 6 × BitVec 3 × BitVec 2)
  | .amoswap d a b c r => some (fun _ => some (h.sreg b), d, a, c, r)
  | .amoadd d a b c r => some (fun old => some (old + h.sreg b), d, a, c, r)
  | .amoand d a b c r => some (fun old => some (old &&& h.sreg b), d, a, c, r)
  | .amoor d a b c r => some (fun old => some (old ||| h.sreg b), d, a, c, r)
  | .amomax d a b c r => some (fun old => some (if old.toInt ≥ (h.sreg b).toInt then old else h.sreg b), d, a, c, r)
  | .amomaxn d a b c r => some (fun old => some (if old.toNat ≥ (h.sreg b).toNat then old else h.sreg b), d, a, c, r)
  | .amocas d a b c r => some (fun old => if old = h.sreg d then some (h.sreg b) else none, d, a, c, r)
  | _ => none

/-- Every scalar atomic, with the register of its address and its scope. -/
def atomicAt : Instr → Option (BitVec 6 × BitVec 3)
  | .amoswap _ a _ c _ | .amoadd _ a _ c _ | .amoand _ a _ c _ | .amoor _ a _ c _ | .amomax _ a _ c _ | .amomaxn _ a _ c _
  | .amocas _ a _ c _ | .ldaq _ a c | .strl a _ c => some (a, c)
  | _ => none

/-- The fences, each with its scope. -/
def fenceOf : Instr → Option (BitVec 3)
  | .fence c | .fenceAcq c | .fenceRel c | .fenceSc c => some c
  | _ => none

/-! ### State registers -/

/-- The RW bits and the Sticky bits of a state register (05_hart.md R146 to R150 and the maps they name). -/
def rwBits : Nat → Word
  | 1 => 0x00FF00FF
  | 2 => 0x00FFFFFFFFFFFFFE
  | 3 => 0x0000FFFFFFFFFFFF
  | 4 => 0xFFFFFFFFFFFFFFFF
  | 5 => 0xFFF
  | 10 => 0x80000000FFFFFFFF
  | 11 => 0x800000FFFFFFFFFF
  | 14 => 0xFFFFFFFFFFFFFFFF
  | _ => 0

/-- The Sticky bits: STATUS.CLAMP and the flags of VSTAT. -/
def stickyBits : Nat → Word
  | 0 => 0x80
  | 9 => 0x7F
  | _ => 0

/-- What a write of `x` leaves in state register `n` that held `old`, bit by bit (05_hart.md R163). -/
def afterWrite (n : Nat) (old x new : Word) : Prop :=
  ∀ k, k < 64 → new.getLsbD k =
    if (rwBits n).getLsbD k then x.getLsbD k else if (stickyBits n).getLsbD k then old.getLsbD k && x.getLsbD k else old.getLsbD k

/-- The state instructions that write (05_hart.md R163): the state number, the value written from the old one, and d. -/
def csrWriteOf (h : Hart) : Instr → Option (BitVec 12 × (Word → Word) × Option (BitVec 6))
  | .csrw a n => some (n, fun _ => h.sreg a, none)
  | .csrs d a n => some (n, fun old => old ||| h.sreg a, some d)
  | .csrc d a n => some (n, fun old => old &&& ~~~ h.sreg a, some d)
  | _ => none

/-- What a state instruction waits for has come about (05_hart.md R151). -/
abbrev CsrReady (s : State) (n : BitVec 12) : Prop :=
  (n = 9 ∨ n = 10 ∨ n = 11 → s.hart.quiet = true) ∧
  (n = 9 → ∀ k : Fin 8, s.hart.links[k].state ≠ .busy)

/-! ### Traps -/

/-- The package without the place of the hart that moves among the posts that wait on a toll, where it waits at a gate (11_gate.md R327). -/
def tollFree (s : State) : State :=
  if s.hart.gateWait.isSome then { s with gates := s.gates.map fun g => { g with posts := g.posts.filter (· != s.cur) } } else s

/-- The trap of the hart itself at `P` is taken into the handler (05_hart.md R165): `EPC`, CAUSE, ei, FADDR, what is held, STATUS and
the pc; the hart waits at no gate and on no toll (11_gate.md R327), and nothing else changes. `held` is the `ld` that is held. -/
def EntersHandler (s t : State) (code : BitVec 8) (src : BitVec 4) (epc faddr : Word) (ld : BitVec 6) : Prop :=
  t.hart.epc = epc &&& 0x00FFFFFFFFFFFFFE ∧ t.hart.cause = word (src.toNat * 2 ^ 20 + code.toNat) ∧ t.hart.ei = 0 ∧ t.hart.faddr = faddr ∧
  t.hart.held.ld = ld ∧ t.hart.held.srq = s.hart.srq ∧ t.hart.held.bq = s.hart.bq ∧
  t.hart.held.viq = [] ∧ t.hart.held.piq = [] ∧ t.hart.held.miq = [] ∧
  t.hart.ld = 0 ∧ t.hart.srq = [] ∧ t.hart.bq = [] ∧ t.hart.pc = s.hart.handler ∧
  t.hart.status.getLsbD 6 = true ∧ t.hart.status.getLsbD 5 = false ∧
  (∀ k, k ≠ 5 → k ≠ 6 → t.hart.status.getLsbD k = s.hart.status.getLsbD k) ∧
  t = (tollFree s).setHart { s.hart with
    epc := t.hart.epc, cause := t.hart.cause, ei := 0, faddr := faddr, held := t.hart.held, ld := 0, srq := [], bq := [], pc := s.hart.handler
    status := t.hart.status, gateWait := none } ∧
  SameBytes s t

/-- The hart can take a trap into its handler: the task has one, and the hart is not in it. -/
abbrev HasHandler (s : State) : Prop := s.hart.handler ≠ 0 ∧ s.hart.status.getLsbD 6 = false

/-- A cause that goes to the handler (05_hart.md R149). -/
def toHandler (code : BitVec 8) : Bool := 0x01 ≤ code.toNat && code.toNat ≤ 0x0F

/-- FADDR after a trap with an address: `E_OPERAND`, `E_LEASE`, `E_QUEUE`, `E_TRAP`, `E_BREAK` and `E_WATCHDOG` leave it (01_engines.md R20;
05_hart.md R149, R165). -/
def faddrAfter (h : Hart) (code : BitVec 8) (addr : Word) : Word :=
  if code.toNat ∈ [0x03, 0x04, 0x05, 0x06, 0x07, 0x0E] then h.faddr else addr

/-- The entries of a held queue at trap return (05_hart.md R148, R166; 01_engines.md R12, R21): in the queue that CAUSE names, the head
restarts from ei, where a value above vl counts as vl and 1 as the whole of an entry with vl 0; the vl of `accmerge` is the number of
words of its window (08_gather_fabric.md R257). -/
def restarted (h : Hart) (q : BitVec 2) (es : List Entry) : List Entry :=
  if h.cause.extractLsb' 16 4 = q.zeroExtend 4 then
    match es with
    | [] => []
    | e :: es => { e with prog := BitVec.ofNat 48 (min h.ei.toNat (max 1 (h.sized e).vl.toNat)) } :: es
  else es

/-- An entry of an ordinary instruction: neither a chain run that has started nor a `chform`. -/
def ordinary (e : Entry) : Bool :=
  match e.instr with
  | .chrun _ | .chform _ => false
  | _ => true

/-! ### Scalar floating point -/

/-- The format that a fmt bit selects. -/
def fmtOf (t : BitVec 1) : Fmt := if t = 1 then fmtF64 else fmtF32

/-- The bits of f[n] read in a format (05_hart.md R144). -/
def fregBits (h : Hart) (t : BitVec 1) (n : BitVec 5) : Nat := (h.freg n).toNat % 2 ^ (fmtOf t).width

/-- The value of f[n] read in a format. -/
def fregVal (h : Hart) (t : BitVec 1) (n : BitVec 5) : Fp := (fmtOf t).decode (fregBits h t n)

/-- The instructions of major 18 that write an f register: d, the result with its flags, and RNG after (05_hart.md R159, R160;
03_arithmetic.md R85 to R95). -/
def floatResult (h : Hart) : Instr → Option (BitVec 5 × (Nat × Word) × Word)
  | .fadd d a b t => some (d, (fmtOf t).add (rmOf (etRm h.et)) (fregVal h t a) (fregVal h t b), h.rng)
  | .fsub d a b t => some (d, (fmtOf t).add (rmOf (etRm h.et)) (fregVal h t a) (fregVal h t b).negate, h.rng)
  | .fmul d a b t => some (d, (fmtOf t).mul (rmOf (etRm h.et)) (fregVal h t a) (fregVal h t b), h.rng)
  | .fdiv d a b t => some (d, (fmtOf t).div (rmOf (etRm h.et)) (fregVal h t a) (fregVal h t b), h.rng)
  | .fsqrt d a t => some (d, (fmtOf t).sqrt (rmOf (etRm h.et)) (fregVal h t a), h.rng)
  | .fmin d a b t => some (d, (fmtOf t).minmax false (fregBits h t a) (fregBits h t b), h.rng)
  | .fmax d a b t => some (d, (fmtOf t).minmax true (fregBits h t a) (fregBits h t b), h.rng)
  | .fmac d a b t => some (d, (fmtOf t).fma (rmOf (etRm h.et)) (fregVal h t a) (fregVal h t b) (fregVal h t d), h.rng)
  | .fcvtF d a t =>
    let v : Int := (h.sreg a).toInt
    some (d, if v = 0 then (0, 0) else (fmtOf t).round (rmOf (etRm h.et)) (etSat h.et) (v < 0) v.natAbs 0 false, h.rng)
  | .fcvtFf d a t =>
    if t = 1 then some (d, fmtF64.convert (rmOf (etRm h.et)) false (fregVal h 0 a), h.rng)
    else if etRm h.et = 4 then
      some (d, fmtF32.convert (.rsr (draw h.rng 0)) (etSat h.et) (fregVal h 1 a), h.rng + 0x9E3779B97F4A7C15)
    else some (d, fmtF32.convert (rmOf (etRm h.et)) (etSat h.et) (fregVal h 1 a), h.rng)
  | .fmvFS d a t => some (d, ((h.sreg a).toNat % 2 ^ (fmtOf t).width, 0), h.rng)
  | _ => none

/-- The class of a value by its sign, exponent and fraction fields (05_hart.md R159). -/
def classOf (f : Fmt) (x : Nat) : Nat :=
  let neg := x / 2 ^ (f.width - 1) % 2 = 1
  let e := x / 2 ^ f.frac % 2 ^ f.expBits
  let m := x % 2 ^ f.frac
  if e = 2 ^ f.expBits - 1 then
    if m = 0 then (if neg then 0 else 7) else if m < 2 ^ (f.frac - 1) then 8 else 9
  else if e = 0 then
    if m = 0 then (if neg then 3 else 4) else (if neg then 2 else 5)
  else if neg then 1 else 6

/-- The instructions of major 18 that write a scalar register: d, its value and the flags (05_hart.md R159; 03_arithmetic.md R91,
R92). -/
def floatTest (h : Hart) : Instr → Option (BitVec 6 × Word × Word)
  | .feq d a b t => let r := fpEq (fregVal h t a) (fregVal h t b); some (d, boolWord r.1, r.2)
  | .flt d a b t => let r := fpLt (fregVal h t a) (fregVal h t b); some (d, boolWord r.1, r.2)
  | .fle d a b t => let r := fpLe (fregVal h t a) (fregVal h t b); some (d, boolWord r.1, r.2)
  | .fcvtI d a t => let r := fpToInt 64 true (rmOf (etRm h.et)) (fregVal h t a); some (d, BitVec.ofNat 64 r.1, r.2)
  | .fmvSF d a t => some (d, BitVec.ofNat 64 (fregBits h t a), 0)
  | .fclass d a t => some (d, BitVec.twoPow 64 (classOf (fmtOf t) (fregBits h t a)), 0)
  | _ => none

/-! ### Gates -/

/-- The instruction passes checks 2, 3 and 5 of 11_gate.md R330 on an ACTIVE gate: the handle `x` of the hart's partition is on the gate
`g`, and it and the partition's entry `e` give the right. -/
abbrev GateOpen (s : State) (x : Word) (right : BitVec 3) (g : Gate) (e : GateEntry) : Prop :=
  ∃ k, s.handleSlot s.hart.part x = some k ∧ k.stale = false ∧ s.gate k.gate = some g ∧ g.state = .active ∧
    g.entry s.hart.part = some e ∧ k.rights &&& right ≠ 0 ∧ e.rights &&& right ≠ 0

/-- A gate after a post by the hart that moves: CTR saturates, the payload is set if there is one, the partition's entry pays a token,
and the hart waits there no longer (11_gate.md R327, R333). -/
def posted (s : State) (g : Gate) (x : Word) (pay : Option Word) : Gate :=
  { g with ctr := BitVec.ofNat 64 (min (g.ctr.toNat + x.toNat) (2 ^ 64 - 1)), pay := pay.getD g.pay,
           posts := g.posts.filter (· != s.cur),
           list := g.list.map fun e =>
             if e.valid = true ∧ e.part = s.hart.part ∧ e.te = true then { e with level := e.level - 256 } else e }

/-- The package with the gates of an id changed. -/
def withGates (s : State) (id : BitVec 12) (f : Gate → Gate) : State :=
  { s with gates := s.gates.map fun k => if k.id = id then f k else k }

/-- The posts of the hart's partition that wait on the toll of a gate, in the order of their arrival: those of harts that wait at it to
post (11_gate.md R327). -/
def waitingPosts (s : State) (g : Gate) : List (Fin 64) :=
  g.posts.filter fun i => decide (s.harts[i].part = s.hart.part) && s.harts[i].gateWait.any (·.post)

/-- The toll admits a post of the hart that moves now: no earlier one of its partition waits, and a token is there if one is needed
(11_gate.md R327). -/
abbrev TollAdmits (s : State) (g : Gate) (e : GateEntry) : Prop :=
  (waitingPosts s g).takeWhile (· != s.cur) = [] ∧ (e.te = false ∨ 256 ≤ e.level.toNat)

/-- No gate has judged a wait of the hart that moves (11_gate.md R330). -/
abbrev Unjudged (s : State) : Prop := ∀ w, s.hart.gateWait = some w → w.verdict = none

/-- The hart that moves waits at no gate. -/
def unwaiting (s : State) : State := s.setHart { s.hart with gateWait := none }

/-- The instructions that wait at a gate, and act on what it judges (11_gate.md R333, R335). -/
def waitsAtGate : Instr → Bool
  | .gpost _ _ | .gpostPayload _ _ _ | .gwait _ _ _ => true
  | _ => false

/-- The two forms of `gpost`, with the payload: the handle and the addend (11_gate.md R333). -/
def postForm (h : Hart) : Instr → Option (BitVec 6 × BitVec 6 × Option Word)
  | .gpost a b => some (a, b, none)
  | .gpostPayload d a b => some (a, b, some (h.sreg d))
  | _ => none

/-- The gate instructions that use a gate: the handle's register and the right each needs (11_gate.md R333 to R336). -/
def gateForm : Instr → Option (BitVec 6 × BitVec 3)
  | .gpost a _ | .gpostPayload _ a _ | .gtry _ a _ => some (a, 1)
  | .gwait _ a _ => some (a, 2)
  | .gread _ a => some (a, 4)
  | _ => none

/-- The first check of 11_gate.md R330 that fails for a handle and a right: the cause and FADDR. -/
def gateFails (s : State) (x : Word) (right : BitVec 3) : Option (BitVec 8 × Word) :=
  match s.handleSlot s.hart.part x with
  | none => some (0x0D, x)
  | some k =>
    match s.gate k.gate with
    | none => some (0x0C, k.gate.setWidth 64)
    | some g =>
      if k.stale = true ∨ g.state = .revoked then some (0x0C, k.gate.setWidth 64)
      else match g.entry s.hart.part with
        | none => some (0x0B, k.gate.setWidth 64)
        | some e => if k.rights &&& right = 0 ∨ e.rights &&& right = 0 then some (0x0B, k.gate.setWidth 64) else none

/-- The hart that moves waits on no toll. -/
def offTolls (s : State) : State := { s with gates := s.gates.map fun g => { g with posts := g.posts.filter (· != s.cur) } }

/-! ### Tasks -/

/-- The package with the tasks of a number changed. -/
def withTasks (s : State) (seq : BitVec 32) (f : Task → Task) : State :=
  { s with tasks := s.tasks.map fun k => if k.seq = seq then f k else k }

/-- The doublewords of a state image in its order: selected v, then c, then m1 to m95 (13_context.md R387). -/
def imageWords (h : Hart) (sel : Word) : List Word :=
  (((List.range 32).filter fun n => sel.getLsbD n).flatMap fun n => dwordsOf 2048 ((h.v[n]?).getD 0).toNat) ++
  (((List.range 16).filter fun n => sel.getLsbD (32 + n)).flatMap fun n => dwordsOf 512 ((h.c[n]?).getD 0).toNat) ++
  (if sel.getLsbD 48 then (List.range 95).flatMap fun n => dwordsOf 64 ((h.m[n + 1]?).getD 0).toNat else [])

/-- A farm's counter after a request of `c` strips (12_command.md R363). -/
def claimed (farm : Farm) (c : Nat) : Farm := { farm with counter := min (farm.counter + c) farm.strips }

/-- A hart changes only in what the arbiters compute for it (01_engines.md R26; 10_matrix.md R300). -/
def ArbitersOnly (g h : Hart) : Prop :=
  h = { g with target := h.target, stallSince := h.stallSince, unitTarget := h.unitTarget, unitSince := h.unitSince }

/-! ### Engine instructions -/

/-- Nothing holds an engine instruction back: no queue has an entry, and the entry that the instruction returns has room
(01_engines.md R13, R16). The engines take entries in this step (log 46), and the hart awaits no units of a restore (10_matrix.md
R322). -/
abbrev Free (s : State) (i : Instr) : Prop :=
  s.hart.quiet = true ∧ s.engines = true ∧ s.hart.unitsDue = false ∧ (givesSrq i = true → s.hart.srq.length < 16) ∧ (givesBq i = true → s.hart.bq.length < 16)

/-- From `s` to `t` an engine instruction has been enqueued and its engine is done with it: the hart is `h` past the instruction, and
nothing else of the package has changed. -/
def Past (s t : State) (h : Hart) : Prop :=
  t = s.setHart { h with pc := s.hart.pc + 4, ld := 0, nextSeq := s.hart.nextSeq + 1 }

/-- The elements an entry captures: vl of 32 bits (13_context.md R382). -/
def lanes (h : Hart) : Nat := h.vl.toNat % 2 ^ 32

/-- The group of `g` registers at `d` holds `x k` as its element k where there is one, and its old element elsewhere; no other vector
register changes. -/
def GroupIs (s t : Hart) (w d g : Nat) (x : Nat → Option Nat) : Prop :=
  (∀ k, k < g * perReg w → t.velem w d k = match x k with
    | some y => y % 2 ^ w
    | none => s.velem w d k) ∧
  ∀ r, r < 32 → r < d ∨ d + g ≤ r → t.vreg r = s.vreg r ∧ t.vLive.getLsbD r = s.vLive.getLsbD r

/-- The span at `d` holds `x k` as its bit k where there is one, and its old bit elsewhere; no other mask register changes. -/
def SpanIs (s t : Hart) (d n : Nat) (x : Nat → Option Bool) : Prop :=
  (∀ k, k < 4096 * maskSpan n → t.mbit d k = match x k with
    | some y => y
    | none => s.mbit d k) ∧
  ∀ r, r < 96 → r < d ∨ d + maskSpan n ≤ r → t.m[r]? = s.m[r]? ∧ t.mLive.getLsbD r = s.mLive.getLsbD r

/-- Elements below `n` follow `f`; the tail is zero under TP and keeps its elements otherwise (07_lane.md R207). -/
def tailed (tp : Bool) (n : Nat) (zero : α) (f : Nat → Option α) (k : Nat) : Option α :=
  if k < n then f k else if tp = true ∧ 0 < n then some zero else none

/-- VSTAT gains exactly the flags of the elements below `n` that are active. -/
def FlagsOf (s t : Hart) (n : Nat) (active : Nat → Bool) (fl : Nat → Word) : Prop :=
  ∀ b, b < 64 → (t.vstat.getLsbD b = true ↔ s.vstat.getLsbD b = true ∨ ∃ k, k < n ∧ active k = true ∧ (fl k).getLsbD b = true)

/-! ### Lane results -/

/-- Element k of a source. -/
def srcAt (h : Hart) (w k : Nat) : VSrc → Nat
  | .reg r => h.velem w r k
  | .lit x => x % 2 ^ w

/-- A sum or difference clamped to the range of a type, with SATF (03_arithmetic.md R75). -/
def clampBits (w : Nat) (signed : Bool) (v : Int) : BitVec w × Word :=
  let lo : Int := if signed then -2 ^ (w - 1) else 0
  let hi : Int := if signed then 2 ^ (w - 1) - 1 else 2 ^ w - 1
  if v < lo then (BitVec.ofInt w lo, 0x20) else if hi < v then (BitVec.ofInt w hi, 0x20) else (BitVec.ofInt w v, 0)

/-- The value of an integer element. -/
def intOf (signed : Bool) (x : BitVec w) : Int := if signed then x.toInt else x.toNat

/-- The lane engine's integer and bitwise results over words of the element width (07_lane.md R208, R214, R215, R217; 03_arithmetic.md
R76): a and b are the sources, c the old destination. -/
def elemBits {w : Nat} (op : ElemOp) (signed : Bool) (a b c : BitVec w) : BitVec w × Word :=
  let low (x y : BitVec w) : BitVec w := if intOf signed y < intOf signed x then y else x
  match op with
  | .add => (a + b, 0)
  | .sub => (a - b, 0)
  | .rsub => (b - a, 0)
  | .mul => (a * b, 0)
  | .mulh => (if signed then (a.signExtend (2 * w) * b.signExtend (2 * w)).extractLsb' w w
              else (a.zeroExtend (2 * w) * b.zeroExtend (2 * w)).extractLsb' w w, 0)
  | .div => if b = 0 then (BitVec.allOnes w, 0x02) else (if signed then a.sdiv b else a.udiv b, 0)
  | .rem => if b = 0 then (a, 0x02) else (if signed then a.srem b else a.umod b, 0)
  | .min => (low a b, 0)
  | .max => (if intOf signed a < intOf signed b then b else a, 0)
  | .and => (a &&& b, 0)
  | .or => (a ||| b, 0)
  | .xor => (a ^^^ b, 0)
  | .shl => (a <<< (b.toNat % w), 0)
  | .shr => (a >>> (b.toNat % w), 0)
  | .sra => (a.sshiftRight (b.toNat % w), 0)
  | .adds => clampBits w signed (intOf signed a + intOf signed b)
  | .subs => clampBits w signed (intOf signed a - intOf signed b)
  | .mac => (c + a * b, 0)
  | .nmac => (c - a * b, 0)
  | .abs => (if signed then a.abs else a, 0)
  | .addmin => (low c (a + b), 0)
  | .merge => (b, 0)
  | .mv => (a, 0)
  | .sqrt => (0, 0)

/-- The lane engine's floating-point results (07_lane.md R214, R215, R217): one rounding, and the minimum of 03_arithmetic.md R93. -/
def elemFloat (f : Fmt) (op : ElemOp) (rm : Rm) (a b c : Nat) : Nat × Word :=
  let x := f.decode a
  let y := f.decode b
  match op with
  | .add => f.add rm x y
  | .sub => f.add rm x y.negate
  | .rsub => f.add rm y x.negate
  | .mul => f.mul rm x y
  | .div => f.div rm x y
  | .mac => f.fma rm x y (f.decode c)
  | .nmac => f.fma rm x.negate y (f.decode c)
  | .sqrt => f.sqrt rm x
  | .min => f.minmax false a b
  | .max => f.minmax true a b
  | .abs => if x.isNan then (f.canonNan, if x.isSnan then 0x01 else 0) else (a % 2 ^ (f.width - 1), 0)
  | .addmin => ((f.minmax false c (f.add rm x y).1).1, (f.add rm x y).2 ||| (f.minmax false c (f.add rm x y).1).2)
  | _ => (0, 0)

/-- One element of an element-wise instruction: bit copies and bitwise operations on any type, integers as words, and the rest by
format. -/
def elemResult (op : ElemOp) (t : Ty) (rm : Rm) (a b c : Nat) : Nat × Word :=
  let whole := op = .and ∨ op = .or ∨ op = .xor ∨ op = .merge ∨ op = .mv
  if whole ∨ tyInt t = true then
    let r := elemBits op (tySigned t) (BitVec.ofNat (tyWidth t) a) (BitVec.ofNat (tyWidth t) b) (BitVec.ofNat (tyWidth t) c)
    (r.1.toNat, r.2)
  else match tyFmt t with
    | some f => elemFloat f op rm a b c
    | none => (0, 0)

/-- An element-wise instruction: its operation, whether it is restricted to class I, its destination, its sources and its mask. -/
structure ElemForm where
  /-- The operation. -/
  op : ElemOp
  /-- Class I only. -/
  ints : Bool
  /-- vd. -/
  d : BitVec 5
  /-- The first source. -/
  a : VSrc
  /-- The second source. -/
  b : VSrc
  /-- The mask. -/
  m : BitVec 7

/-- The instructions of majors 25 to 27 and 30 to 33 (07_lane.md R214, R217, R218). -/
def elemForm (h : Hart) : Instr → Option ElemForm
  | .vadd d a b m => some ⟨.add, false, d, .reg a.toNat, .reg b.toNat, m⟩
  | .vsub d a b m => some ⟨.sub, false, d, .reg a.toNat, .reg b.toNat, m⟩
  | .vmul d a b m => some ⟨.mul, false, d, .reg a.toNat, .reg b.toNat, m⟩
  | .vmulh d a b m => some ⟨.mulh, false, d, .reg a.toNat, .reg b.toNat, m⟩
  | .vdiv d a b m => some ⟨.div, false, d, .reg a.toNat, .reg b.toNat, m⟩
  | .vrem d a b m => some ⟨.rem, false, d, .reg a.toNat, .reg b.toNat, m⟩
  | .vmin d a b m => some ⟨.min, false, d, .reg a.toNat, .reg b.toNat, m⟩
  | .vmax d a b m => some ⟨.max, false, d, .reg a.toNat, .reg b.toNat, m⟩
  | .vand d a b m => some ⟨.and, false, d, .reg a.toNat, .reg b.toNat, m⟩
  | .vor d a b m => some ⟨.or, false, d, .reg a.toNat, .reg b.toNat, m⟩
  | .vxor d a b m => some ⟨.xor, false, d, .reg a.toNat, .reg b.toNat, m⟩
  | .vshl d a b m => some ⟨.shl, false, d, .reg a.toNat, .reg b.toNat, m⟩
  | .vshr d a b m => some ⟨.shr, false, d, .reg a.toNat, .reg b.toNat, m⟩
  | .vsra d a b m => some ⟨.sra, false, d, .reg a.toNat, .reg b.toNat, m⟩
  | .vadds d a b m => some ⟨.adds, false, d, .reg a.toNat, .reg b.toNat, m⟩
  | .vsubs d a b m => some ⟨.subs, false, d, .reg a.toNat, .reg b.toNat, m⟩
  | .vmac d a b m => some ⟨.mac, false, d, .reg a.toNat, .reg b.toNat, m⟩
  | .vnmac d a b m => some ⟨.nmac, false, d, .reg a.toNat, .reg b.toNat, m⟩
  | .vsqrt d a m => some ⟨.sqrt, false, d, .reg a.toNat, .reg a.toNat, m⟩
  | .vabs d a m => some ⟨.abs, false, d, .reg a.toNat, .reg a.toNat, m⟩
  | .vaddmin d a b m => some ⟨.addmin, false, d, .reg a.toNat, .reg b.toNat, m⟩
  | .vmerge d a b m => some ⟨.merge, false, d, .reg a.toNat, .reg b.toNat, m⟩
  | .vmv d a m => some ⟨.mv, false, d, .reg a.toNat, .reg a.toNat, m⟩
  | .vaddVs d a n m => some ⟨.add, false, d, .reg a.toNat, .lit (h.sreg n).toNat, m⟩
  | .vsubVs d a n m => some ⟨.sub, false, d, .reg a.toNat, .lit (h.sreg n).toNat, m⟩
  | .vmulVs d a n m => some ⟨.mul, false, d, .reg a.toNat, .lit (h.sreg n).toNat, m⟩
  | .vminVs d a n m => some ⟨.min, false, d, .reg a.toNat, .lit (h.sreg n).toNat, m⟩
  | .vmaxVs d a n m => some ⟨.max, false, d, .reg a.toNat, .lit (h.sreg n).toNat, m⟩
  | .vshlVs d a n m => some ⟨.shl, false, d, .reg a.toNat, .lit (h.sreg n).toNat, m⟩
  | .vshrVs d a n m => some ⟨.shr, false, d, .reg a.toNat, .lit (h.sreg n).toNat, m⟩
  | .vsraVs d a n m => some ⟨.sra, false, d, .reg a.toNat, .lit (h.sreg n).toNat, m⟩
  | .vmacVs d a n m => some ⟨.mac, false, d, .reg a.toNat, .lit (h.sreg n).toNat, m⟩
  | .vaddminVs d a n m => some ⟨.addmin, false, d, .reg a.toNat, .lit (h.sreg n).toNat, m⟩
  | .vbcast d n m => some ⟨.mv, false, d, .lit (h.sreg n).toNat, .lit (h.sreg n).toNat, m⟩
  | .vrsubVs d a n m => some ⟨.rsub, false, d, .reg a.toNat, .lit (h.sreg n).toNat, m⟩
  | .vaddVi d a x => some ⟨.add, true, d, .reg a.toNat, .lit (x.signExtend 64).toNat, 0⟩
  | .vandVi d a x => some ⟨.and, true, d, .reg a.toNat, .lit (x.signExtend 64).toNat, 0⟩
  | .vorVi d a x => some ⟨.or, true, d, .reg a.toNat, .lit (x.signExtend 64).toNat, 0⟩
  | .vxorVi d a x => some ⟨.xor, true, d, .reg a.toNat, .lit (x.signExtend 64).toNat, 0⟩
  | .vshlVi d a x => some ⟨.shl, true, d, .reg a.toNat, .lit (x.signExtend 64).toNat, 0⟩
  | .vshrVi d a x => some ⟨.shr, true, d, .reg a.toNat, .lit (x.signExtend 64).toNat, 0⟩
  | .vsraVi d a x => some ⟨.sra, true, d, .reg a.toNat, .lit (x.signExtend 64).toNat, 0⟩
  | .vrsubVi d a x => some ⟨.rsub, true, d, .reg a.toNat, .lit (x.signExtend 64).toNat, 0⟩
  | _ => none

/-- The checks at issue of an element-wise instruction (07_lane.md R202, R203, R209, R210). -/
def elemChecks (h : Hart) (x : ElemForm) : Bool :=
  let t := etTy h.et
  let g := etGroup h.et
  x.op.accepts t && (!x.ints || classI t) && x.d.toNat % g = 0 && x.a.ok x.d.toNat g && x.b.ok x.d.toNat g && spanOk x.m.toNat (lanes h)

/-- A compare over elements (07_lane.md R220; 03_arithmetic.md R92). -/
def cmpResult (op : CmpOp) (t : Ty) (a b : Nat) : Bool × Word :=
  match tyFmt t with
  | some f =>
    let x := f.decode a
    let y := f.decode b
    let nan := x.isNan || y.isNan
    let quiet : Word := if x.isSnan || y.isSnan then 0x01 else 0
    let ordered : Word := if nan then 0x01 else 0
    match op with
    | .eq => (!nan && x.cmp y == .eq, quiet)
    | .ne => (!(!nan && x.cmp y == .eq), quiet)
    | .lt => (!nan && x.cmp y == .lt, ordered)
    | .le => (!nan && (x.cmp y == .lt || x.cmp y == .eq), ordered)
  | none =>
    let x := intOf (tySigned t) (BitVec.ofNat (tyWidth t) a)
    let y := intOf (tySigned t) (BitVec.ofNat (tyWidth t) b)
    match op with
    | .eq => (x = y, 0)
    | .ne => (x ≠ y, 0)
    | .lt => (x < y, 0)
    | .le => (x ≤ y, 0)

/-- The compares. -/
def cmpForm : Instr → Option (CmpOp × BitVec 7 × BitVec 5 × BitVec 5 × BitVec 7)
  | .vseq d a b m => some (.eq, d, a, b, m)
  | .vsne d a b m => some (.ne, d, a, b, m)
  | .vslt d a b m => some (.lt, d, a, b, m)
  | .vsle d a b m => some (.le, d, a, b, m)
  | _ => none

/-- The mask instructions by bit (07_lane.md R224): the bit from a, b, and where bit i stands to the first set bit of ma below vl (the
difference is none where ma has no such bit). -/
def maskForm : Instr → Option ((Bool → Bool → Option Int → Bool) × Bool × BitVec 7 × BitVec 7 × BitVec 7)
  | .mand d a b => some (fun x y _ => x && y, false, d, a, b)
  | .mor d a b => some (fun x y _ => x || y, false, d, a, b)
  | .mxor d a b => some (fun x y _ => x ^^ y, false, d, a, b)
  | .mandn d a b => some (fun x y _ => x && !y, false, d, a, b)
  | .morn d a b => some (fun x y _ => x || !y, false, d, a, b)
  | .mnand d a b => some (fun x y _ => !(x && y), false, d, a, b)
  | .mnor d a b => some (fun x y _ => !(x || y), false, d, a, b)
  | .mxnor d a b => some (fun x y _ => !(x ^^ y), false, d, a, b)
  | .mmv d a => some (fun x _ _ => x, false, d, a, 0)
  | .mnot d a => some (fun x _ _ => !x, false, d, a, 0)
  | .msetbf d a => some (fun _ _ f => f.all (· < 0), true, d, a, 0)
  | .msetif d a => some (fun _ _ f => f.all (· ≤ 0), true, d, a, 0)
  | .msetof d a => some (fun _ _ f => f.any (· = 0), true, d, a, 0)
  | .mclr d => some (fun _ _ _ => false, false, d, 0, 0)
  | .mset d => some (fun _ _ _ => true, false, d, 0, 0)
  | _ => none

/-- The first set bit of a span below `n`. -/
def firstBit (h : Hart) (m n : Nat) : Option Nat := (List.range n).find? (h.mbit m)

/-- The active elements below `n`, in order. -/
def activeBits (h : Hart) (m n : Nat) : List Nat := (List.range n).filter (h.mbit m)

/-! ### Cross-element -/

/-- The reductions (07_lane.md R226). -/
def redForm : Instr → Option (RedOp × BitVec 5 × BitVec 5 × BitVec 5 × BitVec 7)
  | .vredsum d a b m => some (.sum, d, a, b, m)
  | .vredmin d a b m => some (.min, d, a, b, m)
  | .vredmax d a b m => some (.max, d, a, b, m)
  | .vredand d a b m => some (.and, d, a, b, m)
  | .vredor d a b m => some (.or, d, a, b, m)
  | .vredxor d a b m => some (.xor, d, a, b, m)
  | _ => none

/-- Groups of `g` registers, each at a multiple of `g`, of which no two share a register (07_lane.md R202, R210). -/
abbrev groupsApart (g : Nat) (rs : List (BitVec 5)) : Prop := (∀ r ∈ rs, r.toNat % g = 0) ∧ rs.Nodup

/-- Slides and permutes: vd, its sources, the mask, and what an active element receives (none: it keeps its value). -/
def moveForm (h : Hart) : Instr → Option (BitVec 5 × List (BitVec 5) × BitVec 7 × (Nat → Option Nat))
  | .vslideup d a b m =>
    some (d, [a], m, fun i => if (h.sreg b).toNat ≤ i then some (h.velem (etSew h.et) a.toNat (i - (h.sreg b).toNat)) else none)
  | .vslidedn d a b m =>
    some (d, [a], m, fun i => some (if i + (h.sreg b).toNat < lanes h then h.velem (etSew h.et) a.toNat (i + (h.sreg b).toNat) else 0))
  | .vslide1up d a b m =>
    some (d, [a], m, fun i => some (if i = 0 then (h.sreg b).toNat else h.velem (etSew h.et) a.toNat (i - 1)))
  | .vslide1dn d a b m =>
    some (d, [a], m, fun i => some (if i + 1 = lanes h then (h.sreg b).toNat else h.velem (etSew h.et) a.toNat (i + 1)))
  | .vperm d a b m =>
    some (d, [a, b], m, fun i =>
      some (if h.velem (etSew h.et) b.toNat i < lanes h then h.velem (etSew h.et) a.toNat (h.velem (etSew h.et) b.toNat i) else 0))
  | .vrev d a m => some (d, [a], m, fun i => some (h.velem (etSew h.et) a.toNat (lanes h - 1 - i)))
  | .vzip d a b m =>
    some (d, [a, b], m, fun i => some (h.velem (etSew h.et) (if i % 2 = 0 then a.toNat else b.toNat) (i / 2)))
  | .vunzip d a m =>
    some (d, [a], m, fun i =>
      some (h.velem (etSew h.et) a.toNat (if i < (lanes h + 1) / 2 then 2 * i else 2 * (i - (lanes h + 1) / 2) + 1)))
  | .vconflict d a m =>
    some (d, [a], m, fun i =>
      some (((((List.range i).filter fun j => h.mbit m.toNat j && h.velem (etSew h.et) a.toNat j == h.velem (etSew h.et) a.toNat i).getLast?)).getD i))
  | _ => none

/-! ### Engine traps -/

/-- The entries of the held queue number `q`. -/
def heldOf (h : Held) (q : BitVec 2) : List Entry := if q = 1 then h.viq else if q = 2 then h.piq else h.miq

/-- From `s` to `t` the instruction has been enqueued as the only entry of queue `q`, and its engine raises `code` on it at its first
element (01_engines.md R20; 05_hart.md R148, R150, R165): the entry is held, and the handler is entered; a run that stood breaks when
the entry is no VIQ entry. -/
def EngineTraps (s t : State) (i : Instr) (q : BitVec 2) (code : BitVec 8) (src : BitVec 4) (faddr : Word) : Prop :=
  t.hart.cause = BitVec.ofNat 64 (src.toNat * 2 ^ 20 + q.toNat * 2 ^ 16 + code.toNat) ∧ t.hart.ei = 0 ∧
  t.hart.epc = s.hart.pc &&& 0x00FFFFFFFFFFFFFE ∧ t.hart.faddr = faddr ∧
  (heldOf t.hart.held q).map (fun e => (e.instr, e.prog)) = [(i, 0)] ∧ (∀ p ∈ [1, 2, 3], p ≠ q → heldOf t.hart.held p = []) ∧
  t.hart.held.queue = q ∧ t.hart.held.pc = s.hart.pc + 4 ∧ t.hart.held.ld = 0 ∧ t.hart.held.srq = s.hart.srq ∧ t.hart.held.bq = s.hart.bq ∧
  t.hart.status.getLsbD 6 = true ∧ t.hart.status.getLsbD 5 = true ∧
  (∀ k, k ≠ 5 → k ≠ 6 → t.hart.status.getLsbD k = s.hart.status.getLsbD k) ∧
  (etRm s.hart.et ≠ 4 → t.hart.rng = s.hart.rng) ∧
  t = (tollFree s).setHart { s.hart with
    cause := t.hart.cause, ei := 0, epc := t.hart.epc, faddr := faddr, held := t.hart.held, srq := [], bq := [], ld := 0, pc := s.hart.handler
    status := t.hart.status, gateWait := none, nextSeq := s.hart.nextSeq + 1, rng := t.hart.rng
    chain := if q = 1 then s.hart.chain else (s.hart.breakChain 8 0).chain }

/-! ### Vector accesses -/

/-- A vector access: how it computes addresses (for the checks), whether it is a first-fault load, its v register, its mask, and the
address of element i (06_port.md R171). -/
structure RowForm where
  /-- The form. -/
  form : PortForm
  /-- First fault. -/
  ff : Bool
  /-- v. -/
  v : BitVec 5
  /-- The mask. -/
  m : BitVec 7
  /-- The address of element i. -/
  addr : Nat → Word

/-- Element i of consecutive elements: two to a byte for a 4-bit type. -/
def consecutive (et base : Word) (i : Nat) : Word :=
  if etSew et = 4 then base + BitVec.ofNat 64 (i / 2) else base + BitVec.ofNat 64 (i * (etSew et / 8))

/-- Element i of an indexed form: the index is a signed element, in elements. -/
def indexedAt (h : Hart) (vi : BitVec 5) (base : Word) (i : Nat) : Word :=
  base + (BitVec.ofNat (etSew h.et) (h.velem (etSew h.et) vi.toNat i)).signExtend 64 * BitVec.ofNat 64 (etSew h.et / 8)

/-- The vector loads (06_port.md R171, R180). -/
def loadRow (h : Hart) : Instr → Option RowForm
  | .vld v a b m => some ⟨.unit, false, v, m, consecutive h.et (h.sreg a + h.sreg b)⟩
  | .vldff v a b m => some ⟨.unit, true, v, m, consecutive h.et (h.sreg a + h.sreg b)⟩
  | .vldI v a x => some ⟨.unit, false, v, 0, consecutive h.et (h.sreg a + x.signExtend 64)⟩
  | .vldffI v a x => some ⟨.unit, true, v, 0, consecutive h.et (h.sreg a + x.signExtend 64)⟩
  | .vlds v a b m => some ⟨.strided, false, v, m, fun i => h.sreg a + BitVec.ofNat 64 i * h.sreg b⟩
  | .vldsff v a b m => some ⟨.strided, true, v, m, fun i => h.sreg a + BitVec.ofNat 64 i * h.sreg b⟩
  | .vldx v a x m => some ⟨.indexed x.toNat, false, v, m, indexedAt h x (h.sreg a)⟩
  | _ => none

/-- The vector stores. -/
def storeRow (h : Hart) : Instr → Option RowForm
  | .vst v a b m => some ⟨.unit, false, v, m, consecutive h.et (h.sreg a + h.sreg b)⟩
  | .vstI v a x => some ⟨.unit, false, v, 0, consecutive h.et (h.sreg a + x.signExtend 64)⟩
  | .vsts v a b m => some ⟨.strided, false, v, m, fun i => h.sreg a + BitVec.ofNat 64 i * h.sreg b⟩
  | .vstx v a x m => some ⟨.indexed x.toNat, false, v, m, indexedAt h x (h.sreg a)⟩
  | _ => none

/-- The checks at issue of a vector access (06_port.md R173). -/
def rowChecks (h : Hart) (x : RowForm) (load : Bool) : Prop :=
  x.v.toNat % etGroup h.et = 0 ∧ spanOk x.m.toNat (lanes h) = true ∧ (x.form ≠ .unit → etSew h.et ≠ 4) ∧
  ∀ vi, x.form = .indexed vi → vi % etGroup h.et = 0 ∧
    (load = true → vi = x.v.toNat ∨ overlaps x.v.toNat (etGroup h.et) vi (etGroup h.et) = false)

/-- The probe pass of an indexed form (06_port.md R178) over some elements; the other forms have none. -/
def rowProbes (h : Hart) (x : RowForm) (acc : Access) (is : List Nat) : Acc Unit :=
  match x.form with
  | .indexed _ => is.forM fun i => probeAt h.agent acc (etSew h.et) (x.addr i)
  | .unit | .strided => pure ()

/-- The first accesses are made, and the next one then fails: what the first gave, and the failure. -/
def failsAfter (a : Acc α) (b : Acc β) : Acc (α × Fail) := do
  let x ← a
  fun s => match b s with
    | .ok _ s => .error ⟨0, 0, 0⟩ s
    | .error e s => .ok (x, e) s

/-- Stores of some elements in order: the places they wrote. -/
def storePlaces (ag : Agent) (w : Nat) (addr : Nat → Word) (idx val : Nat → Nat) : List Nat → Acc (List Nat)
  | [] => pure []
  | i :: is => do
    let l ← fun s => match locate ag .store (addr i) (max 1 (w / 8)) s with
      | .ok l _ => .ok l s
      | .error e t => .error e t
    storeAt ag w (addr i) (idx i) (val i)
    let ls ← storePlaces ag w addr idx val is
    pure (l ++ ls)

/-- Bytes stored by units in order, once all of them may be (06_port.md R178; log 71): the places they went. -/
def putBytes (ag : Agent) (va : Word) (unit : Nat) (bs : List Byte) : Acc (List Nat) := do
  mayStore ag [(va, bs.length)]
  storePlaces ag (8 * unit) (fun j => va + BitVec.ofNat 64 (j * unit)) id (fun j => ofBytes ((bs.drop (j * unit)).take unit))
    (List.range (bs.length / unit))

/-- Runs of bytes stored in order, once all of them may be (10_matrix.md R312; log 71): the places they went. -/
def putRuns (ag : Agent) (xs : List (Word × List Byte)) : Acc (List Nat) := do
  mayStore ag (xs.map fun (va, bs) => (va, bs.length))
  let ls ← xs.mapM fun (va, bs) =>
    storePlaces ag 8 (fun j => va + BitVec.ofNat 64 j) id (fun j => ((bs[j]?).getD 0).toNat) (List.range bs.length)
  pure ls.flatten

/-- Memory changes at some places, and by A and D bits. -/
def StoresOnly (s t : State) (ls : List Nat) : Prop :=
  ∀ a, a ∉ ls → ∃ m : Byte, m &&& 0x3F = 0 ∧ Memory.read t.mem a = Memory.read s.mem a ||| m

/-! ### Streams and copies -/

/-- A stream just bound to a descriptor of five doublewords: at position 0, with as many elements as its counts multiply to
(06_port.md R189, R190). -/
def BoundTo (st : Stream) (kind : StreamKind) (d : List Word) : Prop :=
  st.kind = kind ∧ st.desc.toList = d ∧ st.pos = 0 ∧ st.first = 0 ∧ st.ahead = [] ∧
  st.len = ((List.range (bits ((d[1]?).getD 0) 4 2 + 1)).map fun i => ((d[2 + i]?).getD 0).toNat / 2 ^ 32).prod

/-- The element of position `q` of a stream that has arrived and not been used. -/
def arrivedAt (st : Stream) (q : Nat) : Option Elem := if st.first ≤ q then st.ahead[q - st.first]? else none

/-- A stream moves on to position `p`: what has arrived from there on stays where it is, and nothing else of the stream changes. -/
def MovesTo (st st' : Stream) (p : Nat) : Prop :=
  st' = { st with pos := p, first := st'.first, ahead := st'.ahead } ∧ ∀ q, p ≤ q → arrivedAt st' q = arrivedAt st q

/-- A legal stream descriptor (06_port.md R189). -/
abbrev LegalStream (d : List Word) : Prop :=
  d.length = 5 ∧ ((d[1]?).getD 0).toNat / 64 = 0 ∧ bits ((d[1]?).getD 0) 4 2 ≠ 3 ∧ bits ((d[1]?).getD 0) 0 4 ≠ 14 ∧
  (∀ i, i < 3 → bits ((d[1]?).getD 0) 4 2 < i → (d[2 + i]?).getD 0 = 0) ∧
  ((List.range (bits ((d[1]?).getD 0) 4 2 + 1)).map fun i => ((d[2 + i]?).getD 0).toNat / 2 ^ 32).prod < 2 ^ 48

/-! ### The matrix engine -/

/-- Element n of an accumulator, row by row. -/
def tileAt (h : Hart) (c : BitVec 4) (n : Nat) : Nat := ((h.c[c.toNat]'c.isLt).extractLsb' (32 * n) 32).toNat

/-- Accumulator `c` holds `x n` as its element n, and no other accumulator changes. -/
def TileIs (s t : Hart) (c : BitVec 4) (x : Nat → Nat) : Prop :=
  (∀ n, n < 1024 → tileAt t c n = x n % 2 ^ 32) ∧
  ∀ k : BitVec 4, k ≠ c → t.c[k.toNat]'k.isLt = s.c[k.toNat]'k.isLt ∧ t.cLive.getLsbD k.toNat = s.cLive.getLsbD k.toNat

/-- The hart has a matrix unit (10_matrix.md R300, R301). -/
abbrev HasUnit (s : State) : Prop := s.hart.units ≠ 0

/-- The multiplies: which operand is sparse, the accumulator and the three scalar operands (10_matrix.md R303). -/
def mulForm : Instr → Option (Sparse × BitVec 4 × BitVec 6 × BitVec 6 × BitVec 6)
  | .mmac c a b x => some (.none, c, a, b, x)
  | .mmacsa c a b x => some (.a, c, a, b, x)
  | .mmacsb c a b x => some (.b, c, a, b, x)
  | _ => none

/-- The bytes of the tile of elements of `w` bits in row `i`, lowest element first (10_matrix.md R296, R308). -/
def rowBytes (w : Nat) (x : Nat → Nat) (i : Nat) : List Byte := toBytes (4 * w) (packElems w ((List.range 32).map fun j => x (32 * i + j)))

/-- A band of four lines of `mprune` (10_matrix.md R311): what is kept of each line, and the values kept, converted, with their flags. -/
def bandValues (et x : Word) (lines : List (List Nat)) : List (List (List Nat)) × List (List (Nat × Word)) :=
  let hdr := pruneHdr x
  let keep := keepBand hdr (pruneIty x) lines
  (keep, (lines.zip keep).map fun (l, ks) => ks.zipIdx.flatMap fun (ps, g) => ps.map fun p =>
    cvtElem (pruneIty x) (hdrVfmt hdr) (rmOf (etRm et)) (etSat et) ((l[g * hdrM hdr + p]?).getD 0))

/-- The whole of `mprune` as accesses (10_matrix.md R297, R298, R311, R312): eight bands, each read and then stored as one, values before
metadata; then the column metadata of KIND 1 and the header, its CHECK byte the exclusive or of the other three, stored as one. The places
stored to and the flags raised. -/
def pruneAll (ag : Agent) (et a b x : Word) : Acc (List Nat × Word) := do
  let hdr := pruneHdr x
  let kg := pruneKg x
  let bands ← (List.range 8).mapM fun i => do
    let lines ← pruneBand ag x b i
    let (keep, vals) := bandValues et x lines
    let ls ← putRuns ag (vals.zipIdx.map (fun (vs, l) => (a + word (32 + (4 * i + l) * sparseVb hdr kg),
        toBytes (sparseVb hdr kg) (packElems (tyWidth (hdrVfmt hdr)) (vs.map (·.1))))) ++
      keep.zipIdx.map (fun (ks, l) => (a + word (sparseRow hdr kg + (4 * i + l) * sparseRb hdr kg),
        toBytes (sparseRb hdr kg) (packMeta (hdrB hdr) ks))))
    pure (keep, ls, vals.flatten.foldl (fun f r => f ||| r.2) 0)
  let rows := ((bands.map (·.1)).flatten).map (packMeta (hdrB hdr))
  let cols := (List.range (if hdrKind hdr = 1 then 32 * kg else 0)).map fun k =>
    (a + word (sparseCol hdr kg + k * sparseCb hdr),
      toBytes (sparseCb hdr) (packMeta (hdrB hdr) ((List.range (32 / hdrM hdr)).map (columnOf hdr rows k))))
  let check := (hdr % 256) ^^^ (hdr / 2 ^ 8 % 256) ^^^ (hdr / 2 ^ 16 % 256)
  let last ← putRuns ag (cols ++ [(a + 4, List.replicate 28 0), (a, toBytes 4 (hdr % 2 ^ 24 + check * 2 ^ 24))])
  pure ((bands.map (·.2.1)).flatten ++ last, bands.foldl (fun f r => f ||| r.2.2) 0)

/-- The operand reads of a multiply (10_matrix.md R299, R303, R306): a sparse operand's header and metadata, then the K-groups that the
skip mask leaves, in ascending order. -/
def mulOperands (h : Hart) (sp : Sparse) (ka kb k pa pb skip : Word) : Acc (List (Group × Group)) := do
  let ra ← if sp = .a then readySparse h.agent pa k (mulBty k) (refBytes h ka) skip else pure (.dense pa (mulAty k))
  let rb ← if sp = .b then readySparse h.agent pb k (mulAty k) (refBytes h kb) skip else pure (.dense pb (mulBty k))
  ((List.range (mulKg k)).filter fun g => !skip.getLsbD g).mapM fun g => do
    let ga ← ra.group h.agent k g
    let gb ← rb.group h.agent k g
    pure (ga, gb)

/-! ### The gather fabric -/

/-- The elements of an indexed access that go to memory, with their addresses (08_gather_fabric.md R247). -/
def Touches (is : List Nat) (addr : Nat → Option Word) : List (Nat × Word) := is.filterMap fun i => (addr i).map fun a => (i, a)

/-- The loads of the fabric: v, the index register, the mask, the scalar register, and whether it names a window descriptor. -/
def fabricLoadForm : Instr → Option (BitVec 5 × BitVec 5 × BitVec 7 × BitVec 6 × Bool)
  | .fgather v x a m => some (v, x, m, a, false)
  | .fwgather v x a m => some (v, x, m, a, true)
  | _ => none

/-- The vector atomics: the operation, v, the index register, the mask, and the register that names the descriptor. -/
def vamoForm : Instr → Option (RedOp × BitVec 5 × BitVec 5 × BitVec 7 × BitVec 6)
  | .vamoadd v x a m => some (.sum, v, x, m, a)
  | .vamomin v x a m => some (.min, v, x, m, a)
  | .vamomax v x a m => some (.max, v, x, m, a)
  | _ => none

/-- The window updates: the operation and its code, the window, v, the index register and the mask (08_gather_fabric.md R256). -/
def windowForm : Instr → Option (RedOp × BitVec 2 × BitVec 3 × BitVec 5 × BitVec 5 × BitVec 7)
  | .awadd v x k m => some (.sum, 1, k, v, x, m)
  | .awmin v x k m => some (.min, 2, k, v, x, m)
  | .awmax v x k m => some (.max, 3, k, v, x, m)
  | _ => none

/-- The base and the count of elements of an access of the fabric (08_gather_fabric.md R247): with `desc` the window descriptor at `a`
gives them, and otherwise `a` is the base. -/
def windowAt (h : Hart) (desc : Bool) (a : Word) : Acc (Word × Nat) :=
  if desc then do
    let d ← loadDws h.agent a 2
    pure ((d[0]?).getD 0, ((d[1]?).getD 0).toNat)
  else pure (a, 0)

/-- The checks at issue of a fabric access (08_gather_fabric.md R247); `dst` says that v is written. -/
abbrev fabricChecks (h : Hart) (v x : BitVec 5) (m : BitVec 7) (dst : Bool) : Prop :=
  etSew h.et ≠ 4 ∧ v.toNat % etGroup h.et = 0 ∧ x.toNat % etGroup h.et = 0 ∧ spanOk m.toNat (lanes h) = true ∧
  (dst = true → v = x ∨ overlaps v.toNat (etGroup h.et) x.toNat (etGroup h.et) = false)

/-- The RMWs of some updates in order, each of an address, a value and the flags of its combining: the places they wrote and the flags
they raise (08_gather_fabric.md R252). -/
def rmwPlaces (ag : Agent) (sz : Nat) (f : Nat → Nat → Nat × Word) : List (Word × Nat × Word) → Acc (List Nat × Word)
  | [] => pure ([], 0)
  | (a, x, fl) :: us => do
    let l ← fun s => match locate ag .atomic a sz s with
      | .ok l _ => .ok l s
      | .error e t => .error e t
    let fl' ← vectorRmw ag sz f a x
    let (ls, fls) ← rmwPlaces ag sz f us
    pure (l ++ ls, fl ||| fl' ||| fls)

/-- One RMW: the place it finds, and the old value there. -/
def rmwThere (ag : Agent) (a : Word) (sz : Nat) (f : Nat → Nat) : Acc (List Nat × Nat) := do
  let l ← fun s => match locate ag .atomic a sz s with
    | .ok l _ => .ok l s
    | .error e t => .error e t
  let old ← rmwElem ag a sz fun x => some (f x)
  pure (l, old)

/-- The probe of one element of a vector atomic (08_gather_fabric.md R249, R252): its rights and alignment, and that it is not in host
memory. -/
def probeRmw (ag : Agent) (w : Nat) (va : Word) : Acc Unit := do
  probeAt ag .probeAtomic w va
  let locs ← locate ag .probeAtomic va (w / 8)
  if locs.any (fun l => levelOf l = .host) then throw ⟨eAtomic, va, 0⟩ else pure ()

/-- The updates of a vector atomic: within each group of eight elements those of one address are combined, lowest first. -/
def vamoUpdates (h : Hart) (f : Nat → Nat → Nat × Word) (addr : Nat → Word) (v : BitVec 5) (m : BitVec 7) : List (Word × Nat × Word) :=
  (List.range (lanes h / 8 + 1)).flatMap fun g =>
    groupUpdates f (((activeBits h m.toNat (lanes h)).filter fun i => i / 8 = g).map fun i => (addr i, h.velem (etSew h.et) v.toNat i))

/-- The fold of an open window into memory (08_gather_fabric.md R257): each word with a present copy is checked, and its copies go there
in ascending order. -/
def mergeAll (ag : Agent) (win : Window) (rm : Rm) : Acc (List Nat × Word) := do
  let rs ← (List.range win.words).mapM fun x => do
    let a := win.base + BitVec.ofNat 64 (x * win.esz)
    let seen (key : Nat) : Bool := (List.range x).any fun y => (List.range 16).any fun d => 4096 * d + y == key
    let present := (List.range 16).filterMap fun c => if seen (4096 * c + x) then none else win.copies.lookup (4096 * c + x)
    if present = [] then pure ([], 0)
    else do
      checkRead ag .probeAtomic a win.esz
      rmwPlaces ag win.esz (redStep (if win.op = 2 then .min else if win.op = 3 then .max else .sum) win.typ.toNat rm)
        (present.map fun y => (a, y.toNat, 0))
  pure ((rs.map (·.1)).flatten, rs.foldl (fun f r => f ||| r.2) 0)

/-- The named nodes have come to rest: none runs, and no token is on a link of their routers (04_memory_model.md R132). -/
abbrev AtRest (h : Hart) (nodes : BitVec 8) : Prop :=
  (∀ n, n < 8 → nodes.getLsbD n = true → (h.fnode n).state ≠ .running) ∧ ∀ x ∈ h.ftokens, nodes.getLsbD x.router.toNat = false

/-- The nodes a mask names, ascending. -/
def named (nodes : BitVec 8) : List Nat := (List.range 8).filter fun n => nodes.getLsbD n

/-- The tokens that are on no link of the named routers. -/
def otherTokens (h : Hart) (nodes : BitVec 8) : List FabricToken := h.ftokens.filter fun x => !nodes.getLsbD x.router.toNat

/-! ### Chains and links -/

/-- An element as a scalar register receives it: sign-extended for the i types, zero-extended for the others (07_lane.md R225). -/
def asWord (t : Ty) (x : Nat) : Word :=
  if tySigned t then (BitVec.ofNat (tyWidth t) x).signExtend 64 else (BitVec.ofNat (tyWidth t) x).zeroExtend 64

/-- The fields of the status word of a chain (09_chain.md R282). -/
def StatusWord (ch : Chain) (x : Word) : Prop :=
  x.toNat / 2 ^ 48 = min 65535 ch.breaks ∧ x.toNat / 2 ^ 32 % 2 ^ 16 = min 65535 ch.reforms ∧ x.extractLsb' 28 4 = ch.cause ∧
  x.extractLsb' 22 6 = ch.slot ∧ x.toNat / 2 ^ 16 % 64 = ch.convoys % 64 ∧ x.getLsbD 15 = ch.pin ∧ x.extractLsb' 3 12 = 0 ∧
  x.extractLsb' 0 3 = match ch.state with
    | .none => 0
    | .idle => 1
    | .standing => 2
    | .temporal => 3
    | .held => 4

/-- The run that a `chrun` of `n` elements attaches, from the hart as it was, but for what the convoys give (09_chain.md R277; R268). -/
def RunOf (h : Hart) (n : Word) (ch : Chain) : Prop :=
  ch.n = n.toNat ∧ ch.l = lanes h ∧ ch.et = h.et ∧ ch.g0 = h.rng ∧ ch.p = List.replicate (blockS h.chain.words) 0 ∧ ch.pin = false ∧
  ch.ran = true ∧ ch.q = h.chain.q ∧ ch.words = h.chain.words ∧ ch.scope = h.chain.scope ∧ ch.breaks = h.chain.breaks ∧
  (∀ e ∈ ch.edges, e.first = 0 ∧ e.elems = []) ∧ ch.reformed = false ∧ ch.brokeAt = [] ∧ ch.occs = [] ∧
  ((ch.state = .standing ∧ ch.cause = h.chain.cause) ∨ (ch.state = .temporal ∧ ch.cause = 4))

/-- The chain instructions of the VIQ that a run may find behind it (09_chain.md R278 to R283). -/
def behindForm : Instr → Bool
  | .chwait | .chbreak | .chstat | .chidx _ | .qrd _ | .qwr _ _ | .qlen _ => true
  | _ => false

/-- Entry `e` alone stands behind an attached run, and the run, tried first, cannot move: the attempt leaves `u` (09_chain.md R278). -/
abbrev Behind (s u : State) (e : Entry) : Prop :=
  s.hart.attached = true ∧ (∃ r, s.hart.viq = [r, e] ∧ u.hart.viq = [r, e]) ∧ s.runHead = .waits u ∧ e.raw = none ∧ e.prog = 0

/-- The entry behind the run is done: it leaves the VIQ, and the hart is else `h`. -/
def GoneBehind (s u : State) (h : Hart) : Prop := s.takeViq = .moved (u.setHart { h with viq := u.hart.viq.take 1 })

/-- The instructions that start a link operation: f4, the registers of destination, source and length or control word, and the token
(14_link.md R404, R405). -/
def linkForm : Instr → Option (BitVec 4 × BitVec 6 × BitVec 6 × BitVec 6 × BitVec 3)
  | .lput a b c k => some (0, a, b, c, k)
  | .lget a b c k => some (1, a, b, c, k)
  | .lcred a b c k => some (2, a, b, c, k)
  | .lcgat a b c k => some (3, a, b, c, k)
  | .lcbc a b c k => some (4, a, b, c, k)
  | _ => none

/-- The length or control word of a link operation is well formed (14_link.md R404, R405): for `lput` and `lget` below 2^40 bytes; else
the reserved bits are 0, OP is 0 to 2 for `lcred` and 0 for the others, the type is one that has elements and, for `lcred`, arithmetic,
both buffers are 8-aligned, and the bytes stay below 2^40. -/
abbrev linkGood (op : BitVec 4) (dst src c : Word) : Prop :=
  (op = 0 ∨ op = 1 → c.toNat < 2 ^ 40) ∧
  (¬ (op = 0 ∨ op = 1) → c.extractLsb' 40 24 = 0 ∧ c.extractLsb' 36 2 = 0 ∧ (op = 2 → c.extractLsb' 38 2 ≠ 3) ∧
    (op ≠ 2 → c.extractLsb' 38 2 = 0) ∧ c.extractLsb' 32 4 ≠ 14 ∧ c.extractLsb' 32 4 ≠ 15 ∧
    (op = 2 → classI (c.extractLsb' 32 4).toNat = true ∨ classF (c.extractLsb' 32 4).toNat = true) ∧
    dst.toNat % 8 = 0 ∧ src.toNat % 8 = 0 ∧ c.toNat % 2 ^ 32 * (tyWidth (c.extractLsb' 32 4).toNat / 8) < 2 ^ 40)

/-- The token of a link operation that starts (14_link.md R403 to R405). -/
def startedLink (h : Hart) (op : BitVec 4) (a b c : BitVec 6) : Token :=
  { state := if h.sreg c = 0 ∧ (op = 0 ∨ op = 1) then .done else .busy, x := 0, cause := 0, addr := 0, dst := h.sreg a, src := h.sreg b,
    len := h.sreg c, op := op, rm := BitVec.ofNat 3 (etRm h.et) }

/-! ### Commands -/

/-- A command comes from a function directly (log 6), in a form that its checks let through (12_command.md R354, R370, R373). -/
abbrev Issued (s : State) (x : Cmd) (opc : Nat) : Prop :=
  x.ring = false ∧ x.fn.toNat ≤ 128 ∧ (x.fn = 0 ∨ (s.partOfFn x.fn).isSome = true) ∧ (pfOnly opc = true → x.fn = 0) ∧
  commandOk opc x.owner [x.a, x.b, x.c, x.d] = true ∧ x.signal.toNat % 8 = 0 ∧ x.reply.toNat % 16 = 0

/-- The command completes: its effect is `u`, and then STATUS and VALUE go to the reply address and the signal is decremented, where
there are such (12_command.md R370, R372). -/
def Answers (i : Instr) (x : Cmd) (s u : State) (st : BitVec 8) (val : Word) : Prop :=
  ∀ v, finishCommand (s.fnAgent x.fn) x.reply x.signal (st, val) u = .ok () v →
    exec i s = .next { v with sent := v.sent ++ [.reply x.fn st val] }

/-- The commands: what each takes, and its OPC (12_command.md R373). -/
def commandOf : Instr → Option (Cmd × Nat)
  | .queueCreate x => some (x, 0x01)
  | .queueDestroy x => some (x, 0x02)
  | .queueRestart x => some (x, 0x03)
  | .evqCreate x => some (x, 0x04)
  | .resume x | .resumeAbort x => some (x, 0x05)
  | .taskAbort x => some (x, 0x06)
  | .resumeSave x => some (x, 0x07)
  | .rootSet x => some (x, 0x10)
  | .invalidate x => some (x, 0x11)
  | .gateCreate x => some (x, 0x20)
  | .gateList x => some (x, 0x21)
  | .gateSet x => some (x, 0x22)
  | .gateRevoke x => some (x, 0x23)
  | .gateDelete x => some (x, 0x24)
  | .migrateOut x => some (x, 0x30)
  | .migrateIn x => some (x, 0x31)
  | .partSet x => some (x, 0x40)
  | .exportRange x | .exportRemove x => some (x, 0x41)
  | .vfReset x => some (x, 0x42)
  | .attest x => some (x, 0x43)
  | .powerSet x => some (x, 0x50)
  | .limitSet x => some (x, 0x51)
  | .counters x => some (x, 0x52)
  | .debugHalt x | .debugResume x | .debugStep x | .debugRead x | .debugWrite x | .debugArm x | .debugDisarm x => some (x, 0x60)
  | _ => none

/-- The command with another origin and other operands. -/
noncomputable def withCmd (y : Cmd) : Instr → Instr
  | .queueCreate _ => .queueCreate y
  | .queueDestroy _ => .queueDestroy y
  | .queueRestart _ => .queueRestart y
  | .evqCreate _ => .evqCreate y
  | .resume _ => .resume y
  | .resumeAbort _ => .resumeAbort y
  | .taskAbort _ => .taskAbort y
  | .resumeSave _ => .resumeSave y
  | .rootSet _ => .rootSet y
  | .invalidate _ => .invalidate y
  | .gateCreate _ => .gateCreate y
  | .gateList _ => .gateList y
  | .gateSet _ => .gateSet y
  | .gateRevoke _ => .gateRevoke y
  | .gateDelete _ => .gateDelete y
  | .migrateOut _ => .migrateOut y
  | .migrateIn _ => .migrateIn y
  | .partSet _ => .partSet y
  | .exportRange _ => .exportRange y
  | .exportRemove _ => .exportRemove y
  | .vfReset _ => .vfReset y
  | .attest _ => .attest y
  | .powerSet _ => .powerSet y
  | .limitSet _ => .limitSet y
  | .counters _ => .counters y
  | .debugHalt _ => .debugHalt y
  | .debugResume _ => .debugResume y
  | .debugStep _ => .debugStep y
  | .debugRead _ => .debugRead y
  | .debugWrite _ => .debugWrite y
  | .debugArm _ => .debugArm y
  | .debugDisarm _ => .debugDisarm y
  | i => i

/-- The command of a COMMAND packet as one that comes directly (12_command.md R352, R370). -/
def directOf (fn : BitVec 8) (q : BitVec 6) (p : Packet) : Cmd :=
  { fn := fn, ring := false, q := q, owner := BitVec.ofNat 5 ((p.at 1).toNat / 2 ^ 16), a := p.at 2, b := p.at 3, c := p.at 4,
    d := p.at 5, signal := p.at 6, reply := p.at 7 }

/-- The package with packet `n` of a queue in hand, the queue served last. -/
def inHand (s : State) (fn : BitVec 8) (q : BitVec 6) (n : Nat) : State :=
  { s with served := queueKey fn q }.modQueue fn q fun u => { u with pending := markWaiting u.pending n }

/-- The package without the packet of a queue that was in hand. -/
def packetGone (s : State) (fn : BitVec 8) (q : BitVec 6) : State :=
  s.modQueue fn q fun u => { u with pending := settlePacket .complete u.pending }

/-- Cached pages that stay when those of a kind are dropped (04_memory_model.md R112). -/
def keepsPages (s : State) (gone : CachedPage → Prop) [DecidablePred gone] : State :=
  { s with tlb := s.tlb.filter fun c => ¬ gone c }

/-- Nothing of a task is left in the package (12_command.md R373). -/
def TaskGone (t : State) (seq : BitVec 32) : Prop :=
  (∀ k ∈ t.tasks, k.seq ≠ seq) ∧ (∀ v ∈ t.saves, v.ctx.seq ≠ seq) ∧ (∀ w ∈ t.waiters, w.seq ≠ seq) ∧
  ∀ i : Fin 64, t.harts[i].run = .absent ∨ t.harts[i].seq ≠ seq

/-- The hart of a DEBUG command: resident in `slot`, of a task that the function may debug (13_context.md R392). -/
abbrev Debugs (s : State) (x : Cmd) (slot : Fin 64) : Prop :=
  ∃ k, x.a.toNat < 2 ^ 32 ∧ s.task (x.a.setWidth 32) = some k ∧ (x.fn = 0 ∨ x.fn = k.fn) ∧ x.b.toNat < 64 ∧
    k.places[x.b.toNat]? = some (.resident slot) ∧ x.c.extractLsb' 4 28 = 0

/-- A held queue as it goes on: the head of the queue that the halt names restarts from ei, within its elements (13_context.md R391,
R392; 01_engines.md R12, R20; 08_gather_fabric.md R257). -/
def goesOn (h : Hart) (d : Held) (q : BitVec 2) : List Entry :=
  if q = d.queue then modHead (fun e => if e.isRun then e else { e with prog := (h.sized e).clamp h.ei.toNat }) (heldOf d q) else heldOf d q

/-- The hart of a halt that lets go (13_context.md R391, R392): everything is back, a run's stages are raised to ei, and a hart halted
in its handler has the ei of its trap again (log 38). -/
def letGo (h : Hart) (d : Held) (step : Bool) : Hart :=
  { h with
    run := .running, dbg := none, viq := goesOn h d 1, piq := goesOn h d 2, miq := goesOn h d 3, srq := d.srq, bq := d.bq, pc := d.pc
    ld := d.ld, stepping := if step then 1 else 0, ei := if h.status.getLsbD 6 then d.eiSet else h.ei
    chain := if d.queue ≠ 0 ∧ (heldOf d d.queue).head?.any Entry.isRun = true ∧ h.chain.state ≠ .none ∧ h.chain.state ≠ .idle
      then h.chain.raiseP (min h.ei.toNat h.chain.n) else h.chain }

/-- Where rows share an OPC, the operands that a row is for (12_command.md R373; 13_context.md R392; 15_partitions.md R416). -/
def rowTakes : Instr → Bool
  | .resume x => x.c ≠ 1
  | .resumeAbort x => x.c = 1
  | .exportRange x => x.d ≠ 0
  | .exportRemove x => x.d = 0
  | .debugHalt x => x.c.toNat % 16 = 0 ∨ 6 < x.c.toNat % 16
  | .debugResume x => x.c.toNat % 16 = 1
  | .debugStep x => x.c.toNat % 16 = 2
  | .debugRead x => x.c.toNat % 16 = 3
  | .debugWrite x => x.c.toNat % 16 = 4
  | .debugArm x => x.c.toNat % 16 = 5
  | .debugDisarm x => x.c.toNat % 16 = 6
  | _ => true

/-- The transfers of a partition's contexts on a core that wait for RESUME_SAVE (13_context.md R384). -/
def pendingOn (s : State) (part core : Word) : List SaveSlot :=
  s.saves.filter fun v => v.part.toNat = part.toNat ∧ v.core.toNat = core.toNat ∧ (v.state = .savePending ∨ v.state = .restorePending)

/-! ### Events -/

/-- The package with another hart as the one that moves. -/
def atSlot (s : State) (slot : Fin 64) : State := { s with cur := slot }

/-- The event of a hart ends in `t`, and the hart that moved before moves again. -/
def EndsIn (s : State) (i : Instr) (t : State) : Prop := exec i s = .next { t with cur := s.cur }

/-- CMASK after an entry has stopped (08_gather_fabric.md R251): for a fabric access entry V, the group of eight that it had come to,
and the elements of it that are complete; any other entry leaves it. -/
def stoppedMask (e : Entry) (old : Word) : Word :=
  let k := e.prog.toNat
  if e.isAccess ∧ e.raw = none then word (2 ^ 63 + (2 ^ (k % 8) - 1) * 2 ^ 32 + k / 8 % 2 ^ 32) else old

/-- From `s` to `t` the hart that moves takes the trap of the engine whose entry heads queue `q` (01_engines.md R20; 05_hart.md R148,
R150, R165; 08_gather_fabric.md R251; 11_gate.md R327): every queue is held, the head's position is in ei, and the handler is entered. -/
def EntersEngine (s t : State) (q : BitVec 2) (code : BitVec 8) (src : BitVec 4) (e : Entry) (addr : Word) : Prop :=
  t.hart.cause = BitVec.ofNat 64 (src.toNat * 2 ^ 20 + q.toNat * 2 ^ 16 + code.toNat) ∧ t.hart.ei = e.prog.zeroExtend 64 ∧
  t.hart.epc = e.pc &&& 0x00FFFFFFFFFFFFFE ∧ t.hart.faddr = addr ∧
  (∀ p ∈ [1, 2, 3], (heldOf t.hart.held p).map (·.instr) = (s.hart.queueOf p).map (·.instr)) ∧
  t.hart.held.queue = q ∧ t.hart.held.pc = s.hart.pc ∧ t.hart.held.ld = s.hart.ld ∧ t.hart.held.srq = s.hart.srq ∧ t.hart.held.bq = s.hart.bq ∧
  t.hart.status.getLsbD 6 = true ∧ t.hart.status.getLsbD 5 = true ∧
  (∀ k, k ≠ 5 → k ≠ 6 → t.hart.status.getLsbD k = s.hart.status.getLsbD k) ∧
  t = (tollFree s).setHart { s.hart with
    cause := t.hart.cause, ei := t.hart.ei, epc := t.hart.epc, faddr := addr, held := t.hart.held, gateWait := none, viq := [], piq := [], miq := [], srq := []
    bq := [], ld := 0, pc := s.hart.handler, status := t.hart.status, cmask := stoppedMask e s.hart.cmask
    chain := if q = 1 then s.hart.chain else (s.hart.breakChain 8 0).chain }

/-- The packet types that are one event each: the function, the queue and TYPE (12_command.md R353). -/
def packetForm : Instr → Option (BitVec 8 × BitVec 6 × Nat)
  | .launchPacket fn q => some (fn, q, 1)
  | .signalPacket fn q => some (fn, q, 2)
  | .waitPacket fn q => some (fn, q, 3)
  | .nopPacket fn q => some (fn, q, 5)
  | _ => none

/-- A queue has reached packet `p`, its `n`th, and it is the queue's turn to start it (12_command.md R351). -/
abbrev Reaches (s : State) (fn : BitVec 8) (q : BitVec 6) (n : Nat) (p : Packet) : Prop :=
  (∃ u, s.queue fn q = some u ∧ u.reached = some (n, p)) ∧ (p.state = .fresh → s.nextQueue = some (queueKey fn q))

/-- The `n`th packet of a queue in hand: a fresh one takes the queue's turn, one that waits does not. -/
def handed (s : State) (fn : BitVec 8) (q : BitVec 6) (n : Nat) (p : Packet) : State :=
  if p.state = .fresh then inHand s fn q n
  else s.modQueue fn q fun u => { u with pending := markWaiting u.pending n }

/-- What becomes of a packet that is turned away with a status (12_command.md R354, R361): the status goes to REPLY and the doubleword at
SIGNAL goes down by 1, where they are aligned (log 22); a SIGNAL in host memory gives BADPACKET and stops the queue (log 72). -/
def TurnedAway (w : Agent) (fn : BitVec 8) (q : BitVec 6) (p : Packet) (st : BitVec 8) (u v : State) : Prop :=
  let replies (st : BitVec 8) (a b : State) : Prop :=
    if p.at 7 ≠ 0 ∧ (p.at 7).toNat % 8 = 0 then storeElem w (p.at 7) 8 st.toNat a = .ok () b else b = a
  ∃ x, replies st u x ∧
    if (p.at 6).toNat % 8 = 0 then
      crierSignal w (p.at 6) 1 x = .ok () v ∨
      ∃ e y z, crierSignal w (p.at 6) 1 x = .error e y ∧ e.code = 0x08 ∧ replies 0x10 y z ∧ v = z.stopQueue fn q e
    else v = x

/-- The scan of a queue from `s` to `t`, at most `n` slots of it (12_command.md R350): it goes on while the V of the next slot is set,
and a fault stops the queue there. -/
def Scanned (fn : BitVec 8) (q : BitVec 6) : Nat → State → State → Prop
  | 0, s, t => t = s
  | n + 1, s, t => match s.queue fn q with
    | none => t = s
    | some u =>
      if u.stopped then t = s
      else match scanSlot (s.fnAgent fn) u s with
        | .ok none v => t = v
        | .error e v => t = v.stopQueue fn q e
        | .ok (some p) v => Scanned fn q n (v.modQueue fn q fun u => { u with ridx := u.ridx + 1, pending := u.pending ++ [p] }) t

/-- The checks of a LAUNCH (12_command.md R357), in their order: the status of the first that fails. -/
def LaunchFails (s : State) (part : BitVec 5) (harts : Nat) (k : Option Terms) (st : BitVec 8) : Prop :=
  match k with
  | none => st = 0x10
  | some k =>
    let lease : Prop := k.min ≤ 16 ∧ k.min ≤ k.pref ∧ k.pref ≤ 16
    (¬ lease ∧ st = 0x11) ∨ (lease ∧ s.sizeOk part k harts = false ∧ st = 0x12) ∨
    (lease ∧ s.sizeOk part k harts = true ∧ s.tileOk part k harts = false ∧ st = 0x13) ∨
    (lease ∧ s.sizeOk part k harts = true ∧ s.tileOk part k harts = true ∧ s.gatesOk part k = false ∧ st = 0x14)

/-- A chain whose run broke for its contract or for a stall taken (09_chain.md R284, R288): it re-forms at a later strip boundary. -/
def brokenRun (ch : Chain) (cause : BitVec 4) (stage : BitVec 6) : Chain :=
  { ch with
    state := .temporal, breaks := min 65535 (ch.breaks + 1), cause := cause, slot := stage, lent := [], links := 0, brokeAt := ch.p
    notBefore := (ch.minP / max 1 ch.l + 1) * ch.l }

/-- The hart of a slot with a request that times out (04_memory_model.md R141). -/
def withLate (s : State) (slot : Fin 64) (addr : Word) : State :=
  (atSlot s slot).setHart { s.harts[slot] with late := some (addr, 0x09) }

/-- The gate with one refill of each entry that has a toll (11_gate.md R327). -/
def refilled (g : Gate) : Gate :=
  if g.state = .frozen then g
  else { g with list := g.list.map fun e =>
    if e.te then { e with level := BitVec.ofNat 24 (min (256 * e.cap.toNat) (e.level.toNat + e.rate.toNat)) } else e }

/-- The hart a task starts in a slot (12_command.md R360; 01_engines.md R23; 04_memory_model.md R117). -/
def Starts (h : Hart) (k : Task) (host : Bool) (index : BitVec 6) (slot : Fin 64) (now : Word) : Prop :=
  h.run = .running ∧ h.pc = k.entry ∧ h.handler = k.handler ∧ h.fn = k.fn ∧ h.seq = k.seq ∧ h.index = index ∧
  h.s = (((Vector.replicate 64 0).set 1 k.args).set 2 (index.zeroExtend 64)).set 3 (BitVec.ofNat 64 k.places.length) ∧
  h.lease.toNat = k.prio.toNat * 2 ^ 16 + k.pref.toNat * 2 ^ 8 + k.min.toNat ∧
  h.scope.toNat = k.part.toNat * 2 ^ 27 + (if host then 2 ^ 26 else 0) + (slot.val % 4) * 2 ^ 24 + (slot.val / 4) * 2 ^ 20 + (if host then 6 else 4) ∧
  h = { Hart.reset with
    run := .running, pc := k.entry, handler := k.handler, fn := k.fn, seq := k.seq, index := index, s := h.s, lease := h.lease
    scope := h.scope, stallSince := now, unitSince := now, target := h.target, unitTarget := h.unitTarget }

/-! ### The device -/

/-- The end of a lane link at which another core stands (14_link.md R396). -/
def joined (core : BitVec 4) (port : BitVec 2) : Option (Nat × Nat) := meshPeer core.toNat port.toNat

/-- The new value of an RMW of a peer, on words (14_link.md R401; 05_hart.md R161). -/
def peerResult {w : Nat} (op : BitVec 4) (data expect old : BitVec w) : Option (BitVec w) :=
  match op.toNat with
  | 2 => some data
  | 3 => some (old + data)
  | 4 => some (old &&& data)
  | 5 => some (old ||| data)
  | 6 => some (if old.toInt < data.toInt then data else old)
  | 7 => some (if old.toNat < data.toNat then data else old)
  | 8 => some (if old = expect then data else old)
  | 9 => some (old + 1)
  | 10 => some (if data.toInt < old.toInt then data else old)
  | 11 => some (if data.toNat < old.toNat then data else old)
  | _ => none

/-- The RMWs of a peer on elements of a type (08_gather_fabric.md R252; 14_link.md R401; the numbering is the model's, log 34). -/
def typedOp (op : BitVec 4) : Option RedOp :=
  match op.toNat with
  | 12 => some .sum
  | 13 => some .min
  | 14 => some .max
  | _ => none

/-- Whether an address is outside the package, where a package reset does not reach. -/
abbrev outsideOf (a : Nat) : Prop := match levelOf a with
  | .host | .peer _ _ => True
  | .hbm _ _ | .sram _ _ | .tcm _ _ | .tile _ | .none => False

/-! ### Words and steps -/

/-- Instruction words written out from the formats of 02_encoding.md R51 to R60, each with the instruction it stands for. -/
noncomputable def knownWords : List (Encoded × Instr) := [
  (.half 0x000E, .cAddi 0 0),
  (.full 0x0038C283, .add 5 6 7),
  (.full 0x8011A709, .shli 14 13 2),
  (.full 0x8007E019, .jlr 0 63 0),
  (.full 0x7FA144A1, .sbnz 9 10 (BitVec.ofInt 12 (-12))),
  (.full 0x6638C2A7, .amoadd 5 6 7 3 2),
  (.full 0x02000031, .tret),
  (.full 0x00328AD3, .setvl 21 20 0x006),
  (.full 0x01020133, .vadd 2 0 1 4),
  (.full 0x80314139, .vsne 2 5 6 0),
  (.full 0x0102423D, .vaddVs 4 4 1 2),
  (.full 0x00400045, .vidx 0 0 1),
  (.full 0x014620C7, .vredsum 1 2 3 5),
  (.full 0x802C11C9, .vslide1up 3 1 22 0),
  (.full 0x3060824F, .mandn 4 2 3),
  (.full 0x0084C467, .fgather 8 12 2 1),
  (.full 0x000A1269, .vamoadd 4 1 5 0),
  (.full 0x018462EB, .awadd 5 6 2 3),
  (.full 0x00006665, .fload 12 3),
  (.full 0x08288077, .launch 4 5),
  (.full 0x04028B7B, .dbgwin 22 20 0)]

/-- The package at the turn of its hart, where no input stands on the agenda (log 1): time has moved on, the hart that moves is chosen, and
what the others have stored is performed (04_memory_model.md R120; log 66). -/
def atTurn (s : State) : State := s.tick.pickHart.performBut (some s.tick.pickHart.cur)

/-- The package as an input finds it that is no turn: time has moved on, and what every hart has stored is performed (log 66). -/
def atInput (s : State) (rest : List Input) : State := ({ s.tick with agenda := rest } : State).performBut none

/-- The package as an instruction finds it: what its hart has stored before is performed, unless the instruction lets it wait
(04_memory_model.md R120; log 66). -/
def storesDone (i : Instr) (u : State) : State := if leavesStores i then u else u.perform u.cur

/-- Nothing comes before the instruction of the hart that moves: no input stands on the agenda, the package is not stopped, and the hart
runs with empty queues, a fabric at rest and no step of the debugger (log 1). -/
abbrev ReadyToRun (s : State) : Prop :=
  s.agenda = [] ∧ s.stopped = false ∧ (atTurn s).runs (atTurn s).cur = true ∧ (atTurn s).hart.fabricBusy = false ∧
  Quiet (atTurn s) ∧ (atTurn s).hart.stepping = 0

/-! ### Statements that stand in one obligation with others -/

/-- The compact forms, major 1 but division, and the immediate forms (02_encoding.md R52; 05_hart.md R152, R153): each completes, and
s[d] receives the value of its table; no flag, no other register and no byte of memory changes. -/
def ScalarResults : Prop :=
  ∀ (s : State) (i : Instr) (len : Nat) (d : BitVec 6) (x : Word), scalarResult s.hart i = some (len, d, x) →
    ∃ t, exec i s = .next t ∧ WritesS s t len d x 0

/-- The four scalar divisions (05_hart.md R152; 03_arithmetic.md R76): each completes for every divisor, and DZ is the only flag
that may be added. -/
def ScalarDivision : Prop :=
  ∀ (s : State) (i : Instr) (d : BitVec 6) (x fl : Word), divResult s.hart i = some (d, x, fl) →
    ∃ t, exec i s = .next t ∧ WritesS s t 4 d x fl

/-- The conditional branches and `j` (05_hart.md R155, R157). -/
def Branches : Prop :=
  ∀ (s : State) (i : Instr) (pc : Word), branchResult s.hart i = some pc → ∃ t, exec i s = .next t ∧ GoesTo s t pc

/-- `jl`, `jlr` and `sbnz` (05_hart.md R156, R157): the register named and the pc; nothing else. `jlr` at an odd target raises `E_ALIGN`
with FADDR the target, and writes no register (02_encoding.md R47). -/
def LinksAndLoops : Prop :=
  (∀ (s : State) (i : Instr) (d : BitVec 6) (x pc : Word), linkResult s.hart i = some (d, x, pc) →
    ((∃ d' a im, i = .jlr d' a im) → pc.getLsbD 0 = false) →
    ∃ t, exec i s = .next t ∧ (∀ n, t.hart.sreg n = if n = d ∧ n ≠ 0 then x else s.hart.sreg n) ∧
      t = s.setHart { s.hart with s := t.hart.s, pc := pc, ld := d } ∧ SameBytes s t) ∧
  (∀ (s : State) (d a : BitVec 6) (im : BitVec 12), s.hart.quiet = true → HasHandler s →
    (s.hart.sreg a + im.signExtend 64).getLsbD 0 = true →
    ∃ t, exec (.jlr d a im) s = .next t ∧ EntersHandler s t 0x02 0 s.hart.pc (s.hart.sreg a + im.signExtend 64) s.hart.ld)

/-- The scalar loads (05_hart.md R154): an aligned load whose byte places are found completes with their value in s[d] or f[d]. -/
def ScalarLoads : Prop :=
  (∀ (s u : State) (i : Instr) (n : Nat) (ext : Nat → Word) (d a : BitVec 6) (im : BitVec 12) (locs : List Nat),
    loadOf i = some (n, ext, d, a, im) → s.hart.acquiring = false → (s.hart.sreg a + im.signExtend 64).toNat % n = 0 →
    Finds s .load (s.hart.sreg a + im.signExtend 64) n locs u →
    ∃ t, exec i s = .next t ∧ WritesS u t 4 d (ext (valueAt u locs)) 0) ∧
  (∀ (s u : State) (i : Instr) (n : Nat) (d : BitVec 5) (a : BitVec 6) (im : BitVec 12) (locs : List Nat),
    loadFOf i = some (n, d, a, im) → s.hart.acquiring = false → (s.hart.sreg a + im.signExtend 64).toNat % n = 0 →
    Finds s .load (s.hart.sreg a + im.signExtend 64) n locs u →
    ∃ t, exec i s = .next t ∧ WritesF u t d (BitVec.ofNat 64 (valueAt u locs)) 0 u.hart.rng)

/-- The scalar stores (05_hart.md R154): an aligned store whose byte places are found completes; the low bytes of its value stand there,
every other byte reads as before, and no register is written. Where the step lets stores wait, which is the model's choice (log 66), the
bytes are owed instead, after those of the hart's earlier stores (04_memory_model.md R120), and no byte changes. -/
def ScalarStores : Prop :=
  ∀ (s u : State) (i : Instr) (n : Nat) (x : Word) (a : BitVec 6) (im : BitVec 12) (locs : List Nat),
    storeOf s.hart i = some (n, x, a, im) → s.hart.acquiring = false → (s.hart.sreg a + im.signExtend 64).toNat % n = 0 →
    Finds s .store (s.hart.sreg a + im.signExtend 64) n locs u → Memory.wf u.mem →
    ∃ t, exec i s = .next t ∧
      if s.storesWait = false then StoresAt u t locs (x.toNat % 2 ^ (8 * n)) ∧
        t = { u.setHart { u.hart with pc := u.hart.pc + 4, ld := 0 } with mem := t.mem }
      else t = u.setHart { u.hart with pc := u.hart.pc + 4, ld := 0, unperformed :=
        u.hart.unperformed ++ [(s.hart.sreg a + im.signExtend 64, locs.zip (toBytes n (x.toNat % 2 ^ (8 * n))))] }

/-- The four fences and `qdrain` complete once the queues they drain are empty (04_memory_model.md R125; 05_hart.md R162): nothing
changes but the pc, `ld` and, for a guest's scope above 4, STATUS.CLAMP. -/
def FencesAndDrains : Prop :=
  (∀ (s : State) (i : Instr) (c : BitVec 3), fenceOf i = some c → Quiet s → ∃ t, exec i s = .next t ∧ GoesTo (clamped s c) t (s.hart.pc + 4)) ∧
  (∀ (s : State) (q : BitVec 3), Quiet s → ∃ t, exec (.qdrain q) s = .next t ∧ GoesTo s t (s.hart.pc + 4))

/-- The state instructions (05_hart.md R151, R163): the register's bits follow their access codes, s[d] receives the old value, and no
other state register, no other scalar register and no byte of memory changes. -/
def StateInstructions : Prop :=
  (∀ (s : State) (d : BitVec 6) (n : BitVec 12), n.toNat < 15 → CsrReady s n →
    ∃ t, exec (.csrr d n) s = .next t ∧ WritesS s t 4 d (s.hart.stateReg s.time n.toNat) 0) ∧
  (∀ (s : State) (i : Instr) (n : BitVec 12) (f : Word → Word) (d : Option (BitVec 6)), csrWriteOf s.hart i = some (n, f, d) →
    n.toNat < 15 → CsrReady s n → (n = 5 → ((f s.hart.et).extractLsb' 8 3).toNat ≤ 4) →
    ∃ t, exec i s = .next t ∧
      afterWrite n.toNat (s.hart.stateReg s.time n.toNat) (f (s.hart.stateReg s.time n.toNat)) (t.hart.stateReg t.time n.toNat) ∧
      (∀ m, m ≠ n.toNat → t.hart.stateReg t.time m = s.hart.stateReg s.time m) ∧
      (∀ k, t.hart.sreg k = if some k = d ∧ k ≠ 0 then s.hart.stateReg s.time n.toNat else s.hart.sreg k) ∧
      t.hart.ld = d.getD 0 ∧ t.hart.pc = s.hart.pc + 4 ∧
      t = s.setHart t.hart ∧
      t.hart = { s.hart with status := t.hart.status, cause := t.hart.cause, epc := t.hart.epc, ei := t.hart.ei, faddr := t.hart.faddr,
                             et := t.hart.et, vstat := t.hart.vstat, ffmask := t.hart.ffmask, cmask := t.hart.cmask, rng := t.hart.rng,
                             s := t.hart.s, ld := t.hart.ld, pc := t.hart.pc } ∧
      SameBytes s t)

/-- A write that would leave et.RM above 4 raises `E_OPERAND` and changes nothing, s[d] included (05_hart.md R163). -/
def IllegalRounding : Prop :=
  ∀ (s : State) (i : Instr) (f : Word → Word) (d : Option (BitVec 6)), csrWriteOf s.hart i = some (5, f, d) → s.hart.quiet = true →
    HasHandler s → 4 < ((f s.hart.et).extractLsb' 8 3).toNat →
    ∃ t, exec i s = .next t ∧ EntersHandler s t 0x03 0 s.hart.pc s.hart.faddr s.hart.ld

/-- `waitt` completes once TIMER has reached s[a] and waits at its pc before (05_hart.md R167). -/
def TimerWait : Prop :=
  ∀ (s : State) (a : BitVec 6),
    ((s.hart.sreg a).toNat ≤ s.time.toNat → ∃ t, exec (.waitt a) s = .next t ∧ GoesTo s t (s.hart.pc + 4)) ∧
    (s.time.toNat < (s.hart.sreg a).toNat → exec (.waitt a) s = .next s)

/-- `gpost`, `gtry`, `gwait` and `gread` on a gate they may use (11_gate.md R327, R333 to R336): a post that the toll admits is
performed, and the gate judges every wait anew (R330, R342); one that it does not admit waits at the gate, `gtry` answers 0 or 1 in s[d]
and never waits, `gwait` completes with PAY once CTR has reached s[b], also where the gate has changed since it met its threshold (R347),
and `gread` reads CTR. -/
def Gates : Prop :=
  (∀ (s : State) (i : Instr) (a b : BitVec 6) (pay : Option Word) (g : Gate) (e : GateEntry), postForm s.hart i = some (a, b, pay) →
    Quiet s → Unjudged s → GateOpen s (s.hart.sreg a) 1 g e →
    (TollAdmits s g e → ∃ t, exec i s = .next t ∧ SameBytes s t ∧
      t = ((withGates s g.id fun k => posted s k (s.hart.sreg b) pay).setHart
        { s.hart with gateWait := none, pc := s.hart.pc + 4, ld := 0 }).wakeGates) ∧
    (¬ TollAdmits s g e → exec i s =
      .next ((if s.hart.gateWait.isSome then s
          else withGates s g.id fun k => { k with posts := k.posts.filter (· != s.cur) ++ [s.cur] }).setHart
        { s.hart with gateWait := some ⟨s.hart.sreg a, true, 0, none⟩ }))) ∧
  (∀ (s : State) (d a b : BitVec 6) (g : Gate) (e : GateEntry), Quiet s → GateOpen s (s.hart.sreg a) 1 g e →
    ∃ t, exec (.gtry d a b) s = .next t ∧
      if (e.te = true ∧ e.level.toNat < 256) ∨ waitingPosts s g ≠ [] then WritesS s t 4 d 1 0
      else WritesS (withGates s g.id fun k => posted s k (s.hart.sreg b) none).wakeGates t 4 d 0 0) ∧
  (∀ (s : State) (d a b : BitVec 6) (g : Gate) (e : GateEntry), s.hart.acquiring = false → Unjudged s →
    GateOpen s (s.hart.sreg a) 2 g e →
    if (s.hart.sreg b).toNat ≤ g.ctr.toNat then ∃ t, exec (.gwait d a b) s = .next t ∧ WritesS (unwaiting s) t 4 d g.pay 0
    else exec (.gwait d a b) s = .next (s.setHart { s.hart with gateWait := some ⟨s.hart.sreg a, false, s.hart.sreg b, none⟩ })) ∧
  (∀ (s : State) (d a b : BitVec 6) (w : GateWait) (pay : Word), s.hart.acquiring = false → s.hart.gateWait = some w →
    w.verdict = some (.met pay) → ∃ t, exec (.gwait d a b) s = .next t ∧ WritesS (unwaiting s) t 4 d pay 0) ∧
  (∀ (s : State) (d a : BitVec 6) (g : Gate) (e : GateEntry), s.hart.acquiring = false → GateOpen s (s.hart.sreg a) 4 g e →
    ∃ t, exec (.gread d a) s = .next t ∧ WritesS s t 4 d g.ctr 0)

/-- `gopen` and `gclose` (11_gate.md R328, R331, R332): the lowest free slot opens under its next GEN, which skips 0, and its handle is
in s[d]; a slot that closes keeps its GEN. No other slot and no gate changes. -/
def GateHandles : Prop :=
  (∀ (s : State) (d a b : BitVec 6) (k : Fin 256) (g : Gate) (e : GateEntry) (hp : s.hart.part.toNat < 24),
    s.hart.sreg b ≠ 0 → (s.hart.sreg b).toNat < 8 → (s.hart.sreg a).toNat < 4096 →
    (s.handles[s.hart.part.toNat])[k].isOpen = false → (∀ j : Fin 256, j < k → (s.handles[s.hart.part.toNat])[j].isOpen = true) →
    s.gate ((s.hart.sreg a).setWidth 12) = some g → g.state = .active → g.entry s.hart.part = some e →
    e.rights &&& (s.hart.sreg b).setWidth 3 = (s.hart.sreg b).setWidth 3 →
    ∃ t gen, exec (.gopen d a b) s = .next t ∧
      gen = (if (s.handles[s.hart.part.toNat])[k].gen + 1 = 0 then 1 else (s.handles[s.hart.part.toNat])[k].gen + 1) ∧
      WritesS ({ s with handles := s.handles.set s.hart.part.toNat ((s.handles[s.hart.part.toNat]).set k.val
        ⟨true, (s.hart.sreg a).setWidth 12, (s.hart.sreg b).setWidth 3, gen, false⟩) } : State).wakeGates
        t 4 d (gen.setWidth 64 <<< 8 ||| BitVec.ofNat 64 k.val) 0) ∧
  (∀ (s : State) (a : BitVec 6) (k : HandleSlot) (n : Fin 256) (hp : s.hart.part.toNat < 24),
    s.handleSlot s.hart.part (s.hart.sreg a) = some k → n.val = (s.hart.sreg a).toNat % 256 →
    ∃ t, exec (.gclose a) s = .next t ∧
      GoesTo ({ s with handles := s.handles.set s.hart.part.toNat ((s.handles[s.hart.part.toNat]).set n.val
        { k with isOpen := false, stale := false }) } : State).wakeGates t (s.hart.pc + 4))

/-- `fclaim`, `sigdec`, `sigwait` and `launch` (12_command.md R363, R365, R366): a claim takes as many strips as the farm still has and
says so in s[d]; a farm that is not declared raises `E_OPERAND`, and one
whose counter holds an uncorrectable error delivers `E_ECC` (04_memory_model.md R140); `sigdec` takes s[b] from the doubleword, down to 0; `sigwait` completes
once the doubleword is at most s[b] and waits before; `launch` places the packet at s[a] in the next slot of the hart queue, which is
then scanned. A misaligned address raises `E_ALIGN`, and a `launch` that names no hart queue of the function `E_OPERAND`, with CAUSE.SRC 7
(12_command.md R362). -/
def FarmsAndSignals : Prop :=
  (∀ (s : State) (d a b : BitVec 6) (k : Task) (n : Fin 4) (farm : Farm), s.hart.acquiring = false → s.task s.hart.seq = some k →
    (s.hart.sreg a).toNat = n.val → k.farms[n] = some farm → farm.bad = false → farm.counter ≤ farm.strips → farm.strips < 2 ^ 32 →
    ∃ t, exec (.fclaim d a b) s = .next t ∧
      WritesS (withTasks s s.hart.seq fun k => { k with farms := k.farms.set n.val (some (claimed farm (s.hart.sreg b).toNat)) }) t 4 d
        (BitVec.ofNat 64 (min (s.hart.sreg b).toNat (farm.strips - farm.counter)) <<< 32 ||| BitVec.ofNat 64 farm.counter) 0) ∧
  (∀ (s : State) (d a b : BitVec 6), s.hart.quiet = true → HasHandler s →
    (∀ k, s.task s.hart.seq = some k → ∀ n : Fin 4, (s.hart.sreg a).toNat = n.val → k.farms[n] = none) →
    ∃ t, exec (.fclaim d a b) s = .next t ∧ EntersHandler s t 0x03 7 s.hart.pc s.hart.faddr s.hart.ld) ∧
  (∀ (s : State) (d a b : BitVec 6) (k : Task) (n : Fin 4) (farm : Farm), Quiet s → s.task s.hart.seq = some k →
    s.hart.status.getLsbD 6 = false → (s.hart.sreg a).toNat = n.val → k.farms[n] = some farm → farm.bad = true →
    ∃ t r, exec (.fclaim d a b) s = .next t ∧ r ∈ t.records ∧ r.fn = s.hart.fn ∧ (r.dw[0]).extractLsb' 8 8 = 0x12) ∧
  (∀ (s u : State) (a b : BitVec 6) (locs : List Nat), Quiet s → (s.hart.sreg a).toNat % 8 = 0 →
    Finds s .atomic (s.hart.sreg a) 8 locs u → (∀ l ∈ locs, levelOf l ≠ .host) → Memory.wf u.mem → u.hart = s.hart →
    ∃ t, exec (.sigdec a b) s = .next t ∧ StoresAt u t locs (valueAt u locs - (s.hart.sreg b).toNat) ∧
      t = { u.setHart { s.hart with pc := s.hart.pc + 4, ld := 0 } with mem := t.mem }) ∧
  (∀ (s u : State) (a b : BitVec 6) (locs : List Nat), s.hart.acquiring = false → (s.hart.sreg a).toNat % 8 = 0 →
    Finds s .load (s.hart.sreg a) 8 locs u → u.hart = s.hart →
    if valueAt u locs ≤ (s.hart.sreg b).toNat then ∃ t, exec (.sigwait a b) s = .next t ∧ GoesTo u t (s.hart.pc + 4)
    else exec (.sigwait a b) s = .next u) ∧
  (∀ (s u v : State) (a b : BitVec 6) (q : UserQueue) (dw : List Word), Quiet s → (s.hart.sreg b).toNat < 64 →
    s.queue s.hart.fn ((s.hart.sreg b).setWidth 6) = some q → q.hartKind = true → (s.hart.sreg a).toNat % 64 = 0 →
    (q.widx - q.ridx).toNat < q.size → loadDws s.hart.agent (s.hart.sreg a) 8 s = .ok dw u →
    placePacket (s.fnAgent s.hart.fn) q dw u = .ok () v →
    ∃ t w, exec (.launch a b) s = .next t ∧
      w = (v.modQueue s.hart.fn ((s.hart.sreg b).setWidth 6) fun x => { x with widx := x.widx + 1 }).scan s.hart.fn
        ((s.hart.sreg b).setWidth 6) ∧ t = w.setHart { w.hart with pc := w.hart.pc + 4, ld := 0 }) ∧
  (∀ (s : State) (i : Instr) (a b : BitVec 6) (n : Nat), (i, n) ∈ [(Instr.sigdec a b, 8), (.sigwait a b, 8), (.launch a b, 64)] →
    Quiet s → HasHandler s → (s.hart.sreg a).toNat % n ≠ 0 →
    (i = .launch a b → (s.hart.sreg b).toNat < 64 ∧ ∃ q, s.queue s.hart.fn ((s.hart.sreg b).setWidth 6) = some q ∧ q.hartKind = true) →
    ∃ t, exec i s = .next t ∧ EntersHandler s t 0x02 7 s.hart.pc (s.hart.sreg a) s.hart.ld) ∧
  (∀ (s : State) (a b : BitVec 6), Quiet s → HasHandler s →
    (∀ q, (s.hart.sreg b).toNat < 64 → s.queue s.hart.fn ((s.hart.sreg b).setWidth 6) = some q → q.hartKind = false) →
    ∃ t, exec (.launch a b) s = .next t ∧ EntersHandler s t 0x03 7 s.hart.pc s.hart.faddr s.hart.ld)

/-- `fend` (12_command.md R360, R364) once the queues are empty, no token is BUSY and no fabric node is configured: the hart's slot is
free, the other harts keep everything but what the arbiters compute, and the task records that the hart has ended, or is gone with its
last one. With the last one the final pitch, with STATUS DONE and the time, is written to REPLY if there is one (R359), and then the
doubleword at SIGNAL goes down by 1 if there is one (R361); the LAUNCH packet is complete (R351). A hart with a token BUSY waits. -/
def HartEnd : Prop :=
  (∀ (s : State) (k : Task), Quiet s → (∀ j : Fin 16, s.hart.copies[j].state ≠ .busy) → (∀ j : Fin 8, s.hart.links[j].state ≠ .busy) →
    (∀ j : Fin 8, s.hart.fnodes[j].state = .idle) → s.task s.hart.seq = some k → s.hart.index.toNat < k.places.length →
    k.reply = 0 → k.signal = 0 →
    ∃ t, exec .fend s = .next t ∧ t.harts[s.cur] = .reset ∧
      (∀ j : Fin 64, j ≠ s.cur → ArbitersOnly s.harts[j] t.harts[j]) ∧
      (if (k.places.set s.hart.index.toNat .ended).all (· == .ended) then t.tasks = s.tasks.filter (fun x => x.seq != s.hart.seq)
       else t.tasks = (withTasks s s.hart.seq fun x => { x with places := x.places.set s.hart.index.toNat .ended }).tasks) ∧
      t.gates = (offTolls s).gates ∧ t.handles = s.handles ∧ t.mem = s.mem ∧ t.saves = s.saves ∧ t.records = s.records) ∧
  (∀ (s w v u : State) (k fin : Task), Quiet s → (∀ j : Fin 16, s.hart.copies[j].state ≠ .busy) → (∀ j : Fin 8, s.hart.links[j].state ≠ .busy) →
    (∀ j : Fin 8, s.hart.fnodes[j].state = .idle) → s.task s.hart.seq = some k → s.hart.index.toNat < k.places.length →
    (k.places.set s.hart.index.toNat .ended).all (· == .ended) = true →
    w = withTasks (s.freeSlot s.cur) s.hart.seq (fun x => { x with places := x.places.set s.hart.index.toNat .ended }) →
    fin = { k with places := k.places.set s.hart.index.toNat .ended, status := 0x03, why := 0, finish := s.time } →
    (if k.reply = 0 then v = w else storeDws (w.fnAgent k.fn) k.reply fin.pitch w = .ok () v) →
    (if k.signal = 0 then u = v else signalDec (v.fnAgent k.fn) k.signal 1 v = .ok () u) →
    ∃ t, exec .fend s = .next t ∧ t.harts[s.cur] = w.harts[s.cur] ∧
      (∀ q, t.queue k.fn k.queue = some q → ∀ p ∈ q.pending, p.state ≠ .launched k.seq) ∧
      t = { u with funcs := t.funcs, tasks := u.tasks.filter (fun x => x.seq != s.hart.seq)
                   pfRecords := u.pfRecords.filter (fun x => x.1 != s.hart.seq) }) ∧
  (∀ s : State, Quiet s → (∃ j : Fin 16, s.hart.copies[j].state = .busy) ∨ (∃ j : Fin 8, s.hart.links[j].state = .busy) →
    exec .fend s = .next s)

/-- The element-wise instructions of majors 25 to 27 and 30 to 33 (07_lane.md R207, R208, R214 to R218): with their checks met they
complete; each active element below vl takes its result, an inactive one follows MP, the tail follows TP, VSTAT gains the flags of the
active elements, and nothing else changes. For a vl above what the group holds this is the model's choice (log 63). -/
def LaneElementwise : Prop :=
  ∀ (s : State) (i : Instr) (x : ElemForm), elemForm s.hart i = some x → Free s i → elemChecks s.hart x = true →
    let h := s.hart
    let w := etSew h.et
    let active (k : Nat) : Bool := x.op = .merge || h.mbit x.m.toNat k
    let b (k : Nat) : Nat := if x.op = .merge ∧ h.mbit x.m.toNat k = false then srcAt h w k x.a else srcAt h w k x.b
    let r (k : Nat) : Nat × Word := elemResult x.op (etTy h.et) (rmOf (etRm h.et)) (srcAt h w k x.a) (b k) (h.velem w x.d.toNat k)
    ∃ t, exec i s = .next t ∧ Past s t { h with v := t.hart.v, vLive := t.hart.vLive, vstat := t.hart.vstat } ∧
      GroupIs h t.hart w x.d.toNat (etGroup h.et)
        (tailed (etTp h.et) (lanes h) 0 fun k => if active k then some (r k).1 else if etMp h.et then some 0 else none) ∧
      FlagsOf h t.hart (lanes h) active fun k => (r k).2

/-- Where a check of an element-wise instruction fails, the entry raises `E_OPERAND` at issue (07_lane.md R209; 01_engines.md R20), with
the VIQ and the lane engine in CAUSE and ei 0: no vector register, mask or flag changes. That a source group at a register that is no
multiple of the group's size fails a check is the model's reading (log 62). -/
def LaneChecks : Prop :=
  ∀ (s : State) (i : Instr) (x : ElemForm), elemForm s.hart i = some x → Free s i → elemChecks s.hart x = false → HasHandler s →
    ∃ t, exec i s = .next t ∧ EngineTraps s t i 1 0x03 1 s.hart.faddr

/-- `vidx` (07_lane.md R219): element k is start + k × step; for a vl above what the group holds, as log 63 has it. -/
def LaneIndex : Prop :=
  ∀ (s : State) (d : BitVec 5) (start step : BitVec 10), Free s (.vidx d start step) → classI (etTy s.hart.et) = true →
    d.toNat % etGroup s.hart.et = 0 →
    ∃ t, exec (.vidx d start step) s = .next t ∧ Past s t { s.hart with v := t.hart.v, vLive := t.hart.vLive } ∧
      GroupIs s.hart t.hart (etSew s.hart.et) d.toNat (etGroup s.hart.et)
        (tailed (etTp s.hart.et) (lanes s.hart) 0 fun k =>
          some (BitVec.ofInt (etSew s.hart.et) (start.toInt + k * step.toInt)).toNat)

/-- The compares (07_lane.md R220): each active bit takes its comparison, the others follow MP and TP, and no vector register
changes. For a vl above what the group holds this is the model's choice (log 63). -/
def LaneCompares : Prop :=
  ∀ (s : State) (i : Instr) (op : CmpOp) (d m : BitVec 7) (a b : BitVec 5), cmpForm i = some (op, d, a, b, m) → Free s i →
    let h := s.hart
    let n := lanes h
    let w := etSew h.et
    let r (k : Nat) : Bool × Word := cmpResult op (etTy h.et) (h.velem w a.toNat k) (h.velem w b.toNat k)
    classI (etTy h.et) = true ∨ classF (etTy h.et) = true → a.toNat % etGroup h.et = 0 → b.toNat % etGroup h.et = 0 →
    spanOk m.toNat n = true → dstSpanOk d.toNat n = true → m = 0 ∨ m = d ∨ overlaps d.toNat (maskSpan n) m.toNat (maskSpan n) = false →
    ∃ t, exec i s = .next t ∧ Past s t { h with m := t.hart.m, mLive := t.hart.mLive, vstat := t.hart.vstat } ∧
      SpanIs h t.hart d.toNat n
        (tailed (etTp h.et) n false fun k => if h.mbit m.toNat k then some (r k).1 else if etMp h.et then some false else none) ∧
      FlagsOf h t.hart n (h.mbit m.toNat) fun k => (r k).2

/-- The mask instructions (07_lane.md R210, R224): bit by bit, or by the place of the first set bit; a cross-element one may share no
register with its source. For a vl above what the span holds this is the model's choice (log 63). -/
def MaskInstructions : Prop :=
  ∀ (s : State) (i : Instr) (f : Bool → Bool → Option Int → Bool) (cross : Bool) (d a b : BitVec 7),
    maskForm i = some (f, cross, d, a, b) → Free s i →
    let h := s.hart
    let n := lanes h
    dstSpanOk d.toNat n = true → spanOk a.toNat n = true → spanOk b.toNat n = true →
    (∀ x ∈ [a, b], x = 0 ∨ (cross = false ∧ x = d) ∨ overlaps d.toNat (maskSpan n) x.toNat (maskSpan n) = false) →
    ∃ t, exec i s = .next t ∧ Past s t { h with m := t.hart.m, mLive := t.hart.mLive } ∧
      SpanIs h t.hart d.toNat n
        (tailed (etTp h.et) n false fun k =>
          some (f (h.mbit a.toNat k) (h.mbit b.toNat k) ((firstBit h a.toNat n).map fun j => (k : Int) - j)))

/-- The reductions (07_lane.md R226; 03_arithmetic.md R97): vd[0] receives init combined with the tree over the active elements, the
rest of the group is tail, and EMPTY is set where no element is active. For a vl above what the group holds this is the model's choice
(log 63). -/
def Reductions : Prop :=
  ∀ (s : State) (i : Instr) (op : RedOp) (d a b : BitVec 5) (m : BitVec 7), redForm i = some (op, d, a, b, m) → Free s i →
    let h := s.hart
    let t0 := etTy h.et
    let w := etSew h.et
    let n := lanes h
    let step (x y : Nat) : Nat × Word := redStep op t0 (rmOf (etRm h.et)) x y
    let init := h.velem w b.toNat 0
    op.accepts t0 = true → groupsApart (etGroup h.et) [d, a, b] → spanOk m.toNat n = true →
    ∃ t, exec i s = .next t ∧ Past s t { h with v := t.hart.v, vLive := t.hart.vLive, vstat := t.hart.vstat } ∧
      GroupIs h t.hart w d.toNat (etGroup h.et)
        (fun k => if k = 0 then some (reduce step init (h.velems w a.toNat n) (h.mbits m.toNat n)).1
                  else if etTp h.et then some 0 else none) ∧
      t.hart.vstat = h.vstat ||| (reduce step init (h.velems w a.toNat n) (h.mbits m.toNat n)).2 ∧
      (activeBits h m.toNat n = [] → t.hart.velem w d.toNat 0 = init ∧ t.hart.vstat = h.vstat ||| 0x40) ∧
      (classI t0 = true → op = .sum → activeBits h m.toNat n ≠ [] → t.hart.vstat = h.vstat ∧
        t.hart.velem w d.toNat 0 = (init + ((activeBits h m.toNat n).map (h.velem w a.toNat)).sum) % 2 ^ w)

/-- The scans (07_lane.md R227; 03_arithmetic.md R98): the running value in ascending order, and the carry-out in vb[0].
For a vl above what the group holds this is the model's choice (log 63). -/
def Scans : Prop :=
  ∀ (s : State) (inclusive : Bool) (d a b : BitVec 5) (m : BitVec 7),
    let i : Instr := if inclusive then .vscan d a b m else .vscanx d a b m
    let h := s.hart
    let t0 := etTy h.et
    let w := etSew h.et
    let n := lanes h
    let g := etGroup h.et
    let p (k : Nat) : Nat × Word := (activeBits h m.toNat k).foldl
      (fun (acc : Nat × Word) j =>
        let r := redStep .sum t0 (rmOf (etRm h.et)) acc.1 (h.velem w a.toNat j)
        (r.1, acc.2 ||| r.2)) (h.velem w b.toNat 0, 0)
    Free s i → classI t0 = true ∨ classF t0 = true → groupsApart g [d, a, b] → spanOk m.toNat n = true →
    ∃ t, exec i s = .next t ∧ Past s t { h with v := t.hart.v, vLive := t.hart.vLive, vstat := t.hart.vstat } ∧
      (∀ k, k < g * perReg w → t.hart.velem w d.toNat k =
        match tailed (etTp h.et) n 0 (fun k => if h.mbit m.toNat k then some (p (if inclusive then k + 1 else k)).1
          else if etMp h.et then some 0 else none) k with
        | some y => y % 2 ^ w
        | none => h.velem w d.toNat k) ∧
      t.hart.velem w b.toNat 0 = (p n).1 % 2 ^ w ∧
      (∀ k, 0 < k → k < g * perReg w → t.hart.velem w b.toNat k = h.velem w b.toNat k) ∧
      (∀ r, r < 32 → (r < d.toNat ∨ d.toNat + g ≤ r) → (r < b.toNat ∨ b.toNat + g ≤ r) → t.hart.vreg r = h.vreg r) ∧
      t.hart.vstat = h.vstat ||| (p n).2 ||| (if activeBits h m.toNat n = [] then 0x40 else 0)

/-- The slides and permutes (07_lane.md R228, R229): active element i takes the element its table names, an inactive one follows MP;
`vconflict` needs vl to fit its element. For a vl above what the group holds this is the model's choice (log 63). -/
def SlidesAndPermutes : Prop :=
  ∀ (s : State) (i : Instr) (d : BitVec 5) (rs : List (BitVec 5)) (m : BitVec 7) (f : Nat → Option Nat),
    moveForm s.hart i = some (d, rs, m, f) → Free s i → groupsApart (etGroup s.hart.et) (d :: rs) →
    spanOk m.toNat (lanes s.hart) = true → ((∃ d a k, i = .vconflict d a k) → lanes s.hart ≤ 2 ^ etSew s.hart.et) →
    ∃ t, exec i s = .next t ∧ Past s t { s.hart with v := t.hart.v, vLive := t.hart.vLive } ∧
      GroupIs s.hart t.hart (etSew s.hart.et) d.toNat (etGroup s.hart.et)
        (tailed (etTp s.hart.et) (lanes s.hart) 0 fun k =>
          if s.hart.mbit m.toNat k then f k else if etMp s.hart.et then some 0 else none)

/-- `vcompress` and `vexpand` (07_lane.md R229): the active elements of va in order, and the elements of va to the active places in
order. For a vl above what the group holds this is the model's choice (log 63). -/
def CompressAndExpand : Prop :=
  (∀ (s : State) (d a : BitVec 5) (m : BitVec 7), Free s (.vcompress d a m) → groupsApart (etGroup s.hart.et) [d, a] →
    spanOk m.toNat (lanes s.hart) = true →
    let h := s.hart
    let w := etSew h.et
    let act := activeBits h m.toNat (lanes h)
    ∃ t, exec (.vcompress d a m) s = .next t ∧ Past s t { h with v := t.hart.v, vLive := t.hart.vLive } ∧
      GroupIs h t.hart w d.toNat (etGroup h.et)
        (fun k => match act[k]? with
          | some j => some (h.velem w a.toNat j)
          | none => if etTp h.et = true ∧ 0 < lanes h then some 0 else none)) ∧
  (∀ (s : State) (d a : BitVec 5) (m : BitVec 7), Free s (.vexpand d a m) → groupsApart (etGroup s.hart.et) [d, a] →
    spanOk m.toNat (lanes s.hart) = true →
    let h := s.hart
    let w := etSew h.et
    ∃ t, exec (.vexpand d a m) s = .next t ∧ Past s t { h with v := t.hart.v, vLive := t.hart.vLive } ∧
      GroupIs h t.hart w d.toNat (etGroup h.et)
        (tailed (etTp h.et) (lanes h) 0 fun k =>
          if h.mbit m.toNat k then some (h.velem w a.toNat (activeBits h m.toNat k).length) else if etMp h.et then some 0 else none))

/-- The vector loads (06_port.md R171, R173, R175, R178, R180): where every active element is accessed without a fault, in ascending
order, the load completes; active elements take what was loaded, inactive ones follow MP, the tail follows TP, and a first-fault load
leaves vl in FFMASK. For a vl above what the group holds this is the model's choice (log 63). -/
def VectorLoads : Prop :=
  ∀ (s u : State) (i : Instr) (x : RowForm) (xs : List Nat), loadRow s.hart i = some x → Free s i → rowChecks s.hart x true →
    let h := s.hart
    let is := activeBits h x.m.toNat (lanes h)
    working (rowProbes h x .load is >>= fun _ => is.mapM fun k => loadAt h.agent (etSew h.et) (x.addr k) k) s = .ok xs u →
    ∃ t, exec i s = .next t ∧
      Past u t { h with v := t.hart.v, vLive := t.hart.vLive, ffmask := if x.ff then BitVec.ofNat 64 (lanes h) else h.ffmask } ∧
      GroupIs h t.hart (etSew h.et) x.v.toNat (etGroup h.et)
        (tailed (etTp h.et) (lanes h) 0 fun k =>
          if h.mbit x.m.toNat k then xs[(activeBits h x.m.toNat k).length]? else if etMp h.et then some 0 else none)

/-- A first-fault load whose element k fails, not its first active one, by alignment, translation or the link (06_port.md R180, R181):
it completes with the elements below k, FFMASK says k and TRIM, and element k and all above it keep what they held. For a vl above what the
group holds this is the model's choice (log 63). -/
def FirstFault : Prop :=
  ∀ (s u : State) (i : Instr) (x : RowForm) (xs : List Nat) (k : Nat) (e : Fail), loadRow s.hart i = some x → x.ff = true →
    Free s i → rowChecks s.hart x true →
    let h := s.hart
    let is := activeBits h x.m.toNat k
    k < lanes h → h.mbit x.m.toNat k = true → is ≠ [] → e.code ∈ [0x02, 0x10, 0x11, 0x0F] →
    working (failsAfter (is.mapM fun j => loadAt h.agent (etSew h.et) (x.addr j) j) (loadAt h.agent (etSew h.et) (x.addr k) k)) s =
      .ok (xs, e) u →
    ∃ t, exec i s = .next t ∧
      Past u t { u.hart with v := t.hart.v, vLive := t.hart.vLive, ffmask := 0x8000000000000000 ||| BitVec.ofNat 64 k } ∧
      GroupIs h t.hart (etSew h.et) x.v.toNat (etGroup h.et) (fun j =>
        if j < k then (if h.mbit x.m.toNat j then xs[(activeBits h x.m.toNat j).length]? else if etMp h.et then some 0 else none)
        else none)

/-- `tbindl` and `tbinds` (06_port.md R189, R190) with a legal descriptor at an 8-aligned address bind the stream to it; a misaligned
address or an illegal descriptor raises its cause and leaves the stream unbound. -/
def StreamBinding : Prop :=
  (∀ (s u : State) (load : Bool) (x : BitVec 4) (a : BitVec 6) (d : List Word),
    let i : Instr := if load then .tbindl x a else .tbinds x a
    Free s i → (s.hart.sreg a).toNat % 8 = 0 → working (loadDws s.hart.agent (s.hart.sreg a) 5) s = .ok d u → LegalStream d →
    ∃ t, exec i s = .next t ∧ Past u t { s.hart with streams := t.hart.streams } ∧
      BoundTo (t.hart.stream x) (if load then .load else .store) d ∧ ∀ y, y ≠ x → t.hart.stream y = s.hart.stream y) ∧
  (∀ (s : State) (load : Bool) (x : BitVec 4) (a : BitVec 6),
    let i : Instr := if load then .tbindl x a else .tbinds x a
    Free s i → HasHandler s → (s.hart.sreg a).toNat % 8 ≠ 0 →
    ∃ t, exec i s = .next t ∧ EngineTraps (s.setHart (s.hart.modStream x fun _ => .reset)) t i 2 0x02 2 (s.hart.sreg a)) ∧
  (∀ (s u : State) (load : Bool) (x : BitVec 4) (a : BitVec 6) (d : List Word),
    let i : Instr := if load then .tbindl x a else .tbinds x a
    Free s i → HasHandler s → (s.hart.sreg a).toNat % 8 = 0 → working (loadDws s.hart.agent (s.hart.sreg a) 5) s = .ok d u → ¬ LegalStream d →
    ∃ t, exec i s = .next t ∧ EngineTraps (u.setHart (s.hart.modStream x fun _ => .reset)) t i 2 0x03 2 s.hart.faddr)

/-- The stream transfers and releases (06_port.md R191 to R193; 08_gather_fabric.md R241): `tget` whose elements have arrived writes the
active ones, and tail policy starts after the last element of the stream; `tsend` stores the active ones; both move the stream on by as
many elements. `tfree` unbinds, and `tflush` drops what a load stream has fetched ahead; that it leaves a fabric-fed stream as it
is, is the model's reading (log 16). For a vl above what the group holds the transfers are the model's choice (log 63). -/
def StreamTransfers : Prop :=
  (∀ (s u : State) (v : BitVec 5) (x : BitVec 4) (m : BitVec 7) (xs : List (Except Fail Nat)),
    let h := s.hart
    let st := h.stream x
    let n := min (lanes h) (st.len - st.pos)
    Free s (.tget v x m) → (st.kind = .load ∨
      st.kind = .fabric ∧ st.pos + lanes h ≤ st.len ∧ ∀ k, k < lanes h → (arrivedAt st (st.pos + k)).isSome = true) →
    tyWidth (bits st.desc[1] 0 4) = etSew h.et → v.toNat % etGroup h.et = 0 → spanOk m.toNat (lanes h) = true → 0 < n →
    working ((List.range n).mapM fun k => streamElem x (etSew h.et) (st.pos + k)) s = .ok xs u →
    (∀ k, k < n → h.mbit m.toNat k = true → ∃ y, xs[k]? = some (.ok y)) →
    ∃ t, exec (.tget v x m) s = .next t ∧ Past u t { u.hart with v := t.hart.v, vLive := t.hart.vLive, streams := t.hart.streams } ∧
      MovesTo st (t.hart.stream x) (st.pos + n) ∧ (∀ y, y ≠ x → t.hart.stream y = h.stream y) ∧
      GroupIs h t.hart (etSew h.et) v.toNat (etGroup h.et)
        (tailed (etTp h.et) n 0 fun k =>
          if h.mbit m.toNat k then (xs[k]?).bind (·.toOption) else if etMp h.et then some 0 else none)) ∧
  (∀ (s u : State) (v : BitVec 5) (x : BitVec 4) (m : BitVec 7) (ls : List Nat),
    let h := s.hart
    let st := h.stream x
    let n := min (lanes h) (st.len - st.pos)
    Free s (.tsend v x m) → st.kind = .store → tyWidth (bits st.desc[1] 0 4) = etSew h.et → v.toNat % etGroup h.et = 0 →
    spanOk m.toNat (lanes h) = true → 0 < n →
    working (storePlaces h.agent (etSew h.et) (fun k => st.addr (st.pos + k)) (st.pos + ·) (h.velem (etSew h.et) v.toNat)
      (activeBits h m.toNat n)) s = .ok ls u →
    ∃ t, exec (.tsend v x m) s = .next t ∧ Past u t { h with streams := t.hart.streams } ∧
      MovesTo st (t.hart.stream x) (st.pos + n) ∧ (∀ y, y ≠ x → t.hart.stream y = h.stream y) ∧
      (Memory.wf s.mem → StoresOnly s t ls)) ∧
  (∀ (s : State) (x : BitVec 4), Free s (.tfree x) →
    ∃ t, exec (.tfree x) s = .next t ∧ Past s t { s.hart with streams := t.hart.streams } ∧ t.hart.stream x = .reset ∧
      ∀ y, y ≠ x → t.hart.stream y = s.hart.stream y) ∧
  (∀ (s : State) (x : BitVec 4), Free s (.tflush x) →
    ∃ t, exec (.tflush x) s = .next t ∧ Past s t { s.hart with streams := t.hart.streams } ∧
      t.hart.stream x = (if (s.hart.stream x).kind = .load then { s.hart.stream x with first := (s.hart.stream x).pos, ahead := [] } else s.hart.stream x) ∧
      ∀ y, y ≠ x → t.hart.stream y = s.hart.stream y)

/-- The transfers of the matrix engine (10_matrix.md R293, R308, R309; 03_arithmetic.md R88): `mzero` clears an accumulator, `mldc`
loads one from 32 rows of 32 words, `mscale` multiplies each row by its f32 factor; a hart with a unit and readable, aligned operands
completes them, and only the accumulator and the flags change. -/
def MatrixLoads : Prop :=
  (∀ (s : State) (c : BitVec 4), Free s (.mzero c) → HasUnit s →
    ∃ t, exec (.mzero c) s = .next t ∧ Past s t { s.hart with c := t.hart.c, cLive := t.hart.cLive } ∧ TileIs s.hart t.hart c fun _ => 0) ∧
  (∀ (s u : State) (c : BitVec 4) (a : BitVec 6) (rows : List (List Nat)), Free s (.mldc c a) → HasUnit s → (s.hart.sreg a).toNat % 32 = 0 →
    working ((List.range 32).mapM fun i => (List.range 32).mapM fun j =>
      loadElem s.hart.agent (s.hart.sreg a + BitVec.ofNat 64 (128 * i + 4 * j)) 4) s = .ok rows u →
    ∃ t, exec (.mldc c a) s = .next t ∧ Past u t { s.hart with c := t.hart.c, cLive := t.hart.cLive } ∧
      TileIs s.hart t.hart c fun n => (((rows[n / 32]?).getD [])[n % 32]?).getD 0) ∧
  (∀ (s u : State) (c : BitVec 4) (a : BitVec 6) (sg : List Nat), Free s (.mscale c a) → HasUnit s → (s.hart.sreg a).toNat % 32 = 0 →
    working ((List.range 32).mapM fun i => loadElem s.hart.agent (s.hart.sreg a + BitVec.ofNat 64 (4 * i)) 4) s = .ok sg u →
    let r (n : Nat) : Nat × Word :=
      fmtF32.mul (rmOf (etRm s.hart.et)) (fmtF32.decode (tileAt s.hart c n)) (fmtF32.decode ((sg[n / 32]?).getD 0))
    ∃ t, exec (.mscale c a) s = .next t ∧
      Past u t { s.hart with c := t.hart.c, cLive := t.hart.cLive, vstat := t.hart.vstat } ∧
      TileIs s.hart t.hart c (fun n => (r n).1) ∧ FlagsOf s.hart t.hart 1024 (fun _ => true) fun n => (r n).2)

/-- `mstc` (10_matrix.md R308; 03_arithmetic.md R87, R88): every element is converted to DTYPE, under `rsr` with the
draw of its place, and 32 rows of 32 elements are stored, each probed first; no accumulator changes, and memory changes
at the places of the rows alone (and by A and D bits). -/
def MatrixStore : Prop :=
  ∀ (s u : State) (c : BitVec 4) (a x : BitVec 6) (ls : List (List Nat)),
    let h := s.hart
    let k := h.sreg x
    let src := storeSrc k
    let w := tyWidth (storeDst k)
    let drawn := etRm h.et = 4 ∧ cvtStochastic src (storeDst k) = true
    let r (n : Nat) : Nat × Word := cvtElem src (storeDst k)
      (if etRm h.et = 4 then .rsr (draw (if drawn then h.rng else 0) n) else rmOf (etRm h.et)) (etSat h.et) (tileAt h c n)
    Free s (.mstc c a x) → HasUnit s → storeOk k = true → (h.sreg a).toNat % 32 = 0 →
    working ((List.range 32).mapM fun i =>
      putBytes h.agent (h.sreg a + BitVec.ofNat 64 (i * 4 * w)) (max 1 (w / 8)) (rowBytes w (fun n => (r n).1) i)) s = .ok ls u →
    ∃ t, exec (.mstc c a x) s = .next t ∧
      Past u t { h with vstat := t.hart.vstat, rng := if drawn then h.rng + 1024 * 0x9E3779B97F4A7C15 else h.rng } ∧
      FlagsOf h t.hart 1024 (fun _ => true) (fun n => (r n).2) ∧ (Memory.wf s.mem → StoresOnly s t ls.flatten)

/-- Without a unit a multiply, a transfer, `mskip` and `mprune` raise `E_LEASE`; a control word that breaks its
rules raises `E_OPERAND` (10_matrix.md R301, R305). -/
def MatrixChecks : Prop :=
  (∀ (s : State) (i : Instr), (mulForm i).isSome = true ∨ (∃ c a, i = .mldc c a) ∨ (∃ c a x, i = .mstc c a x) ∨ (∃ c, i = .mzero c) ∨
      (∃ a b x, i = .mskip a b x) ∨ (∃ a b x, i = .mprune a b x) ∨ (∃ c a, i = .mscale c a) →
    Free s i → HasHandler s → s.hart.units = 0 →
    ∃ t, exec i s = .next t ∧ EngineTraps s t i 3 0x04 5 s.hart.faddr) ∧
  (∀ (s : State) (i : Instr) (sp : Sparse) (c : BitVec 4) (a b x : BitVec 6), mulForm i = some (sp, c, a, b, x) → Free s i → HasUnit s →
    HasHandler s → mulOk sp (s.hart.sreg x) = false → ∃ t, exec i s = .next t ∧ EngineTraps s t i 3 0x03 5 s.hart.faddr)

/-- `mskip` (10_matrix.md R310): bit g is set exactly where U[g] + μ lies below every m[i]; the mask is then valid. -/
def SkipMask : Prop :=
  ∀ (s u : State) (a b x : BitVec 6) (us ms : List Nat), Free s (.mskip a b x) → HasUnit s →
    let h := s.hart
    let nb := bits (h.sreg x) 32 6 + 1
    bits (h.sreg x) 38 26 = 0 → (h.sreg a).toNat % 4 = 0 → (h.sreg b).toNat % 4 = 0 →
    working (do
      let us ← (List.range nb).mapM fun g => loadElem h.agent (h.sreg a + BitVec.ofNat 64 (4 * g)) 4
      let ms ← (List.range 32).mapM fun i => loadElem h.agent (h.sreg b + BitVec.ofNat 64 (4 * i)) 4
      pure (us, ms)) s = .ok (us, ms) u →
    ∃ t, exec (.mskip a b x) s = .next t ∧ Past u t { h with skip := t.hart.skip, skipV := true } ∧
      ∀ g, g < 64 → (t.hart.skip.getLsbD g = true ↔
        ∃ y, us[g]? = some y ∧ ∀ m ∈ ms, sumBelow (fmtF32.decode y) (fmtF32.decode (bits (h.sreg x) 0 32)) (fmtF32.decode m) = true)

/-- `mshape` (10_matrix.md R300): the request, at most 3, goes to the unit arbiter; a request of 0 gives every unit back, and any other is
served once the target is not 0 and the hart holds a unit or the core has a free one; a run that loses a unit which a stage occupies breaks
(R320). The number held comes back through the SRQ. -/
def UnitRequest : Prop :=
  ∀ (s : State) (a : BitVec 6), Free s (.mshape a) →
    let r := BitVec.ofNat 2 (min (s.hart.sreg a).toNat 3)
    let u := s.requestUnits r
    let own := (List.range 3).filter fun k => s.hart.units.getLsbD k
    let target := u.hart.unitTarget.toNat
    let take := own.take target ++ (s.freeUnits (s.cur.val / 4)).take (target - own.length)
    (r = 0 → ∃ t, exec (.mshape a) s = .next t ∧ Past u t { u.hart.setUnits [] with srq := s.hart.srq ++ [⟨0, 3⟩] } ∧ t.hart.units = 0) ∧
    (r ≠ 0 → 1 ≤ target → own ++ s.freeUnits (s.cur.val / 4) ≠ [] → s.hart.run = .running →
      ∃ t, exec (.mshape a) s = .next t ∧
        Past u t { u.hart.setUnits take with srq := s.hart.srq ++ [⟨BitVec.ofNat 64 take.length, 3⟩] } ∧
        ∀ k, k < 3 → (t.hart.units.getLsbD k = true ↔ k ∈ take))

/-- `mprune` (10_matrix.md R297, R298, R311, R312) with a legal control word and aligned, accessible operands does the accesses of its
rules and no others; no accumulator changes. -/
def Prune : Prop :=
  ∀ (s u : State) (a b x : BitVec 6) (ls : List Nat) (fl : Word), Free s (.mprune a b x) → HasUnit s → pruneOk (s.hart.sreg x) = true →
    (s.hart.sreg a).toNat % 32 = 0 → (s.hart.sreg b).toNat % 32 = 0 →
    working (pruneAll s.hart.agent s.hart.et (s.hart.sreg a) (s.hart.sreg b) (s.hart.sreg x)) s = .ok (ls, fl) u →
    ∃ t, exec (.mprune a b x) s = .next t ∧ Past u t { s.hart with vstat := s.hart.vstat ||| fl } ∧ (Memory.wf s.mem → StoresOnly s t ls)

/-- What `mprune` keeps (10_matrix.md R311, R312). KIND 0 keeps N positions of each group of M, and none that it drops ranks above one
that it keeps; among equals it keeps the lower. KIND 1 keeps N of every row and of every column of a block, and no pattern has a higher
key than the one it takes. -/
def PruneSelection : Prop :=
  (∀ (n : Nat) (ranks : List (Nat × Nat)), n ≤ ranks.length →
    (keepRow n ranks).length = n ∧ (keepRow n ranks).Pairwise (· < ·) ∧
    ∀ p q, p ∈ keepRow n ranks → q < ranks.length → q ∉ keepRow n ranks →
      rankAbove ((ranks[q]?).getD (0, 0)) ((ranks[p]?).getD (0, 0)) = false ∧
      (rankAbove ((ranks[p]?).getD (0, 0)) ((ranks[q]?).getD (0, 0)) = false → p < q)) ∧
  (∀ (m n : Nat) (ranks : List (List (Nat × Nat))), (m, n) ∈ [(2, 1), (4, 1), (4, 2)] →
    bestPattern m n ranks ∈ blockPatterns m n ∧
    ∀ p ∈ blockPatterns m n, keyAbove (patternKey p ranks) (patternKey (bestPattern m n ranks) ranks) = false ∧
      (keyAbove (patternKey (bestPattern m n ranks) ranks) (patternKey p ranks) = false →
        patternCode m (bestPattern m n ranks) ≤ patternCode m p))

/-- `fgather` and `fwgather` (08_gather_fabric.md R247, R249, R251): where every active element passes its probe and its load, they
complete; an element whose index is LEN or more reads as 0 with no access, and CMASK is 0. -/
def FabricLoads : Prop :=
  ∀ (s u : State) (i : Instr) (v x : BitVec 5) (m : BitVec 7) (a : BitVec 6) (desc : Bool) (win : Word × Nat) (xs : List Nat),
    fabricLoadForm i = some (v, x, m, a, desc) → Free s i → fabricChecks s.hart v x m true →
    (desc = true → (s.hart.sreg a).toNat % 8 = 0 ∧ win.2 < 2 ^ 32) →
    let h := s.hart
    let w := etSew h.et
    let place (win : Word × Nat) (k : Nat) : Option Word :=
      if desc then (if h.velem w x.toNat k < win.2 then some (win.1 + BitVec.ofNat 64 (h.velem w x.toNat k * (w / 8))) else none)
      else some (indexedAt h x win.1 k)
    let act := activeBits h m.toNat (lanes h)
    let addr := place win
    working (do
      let d ← windowAt h desc (h.sreg a)
      (Touches act (place d)).forM fun p => probeAt h.agent .load w p.2
      let xs ← (Touches act (place d)).mapM fun p => loadAt h.agent w p.2 p.1
      pure (d, xs)) s = .ok (win, xs) u →
    ∃ t, exec i s = .next t ∧ Past u t { h with v := t.hart.v, vLive := t.hart.vLive, cmask := 0 } ∧
      GroupIs h t.hart w v.toNat (etGroup h.et)
        (tailed (etTp h.et) (lanes h) 0 fun k =>
          if h.mbit m.toNat k then (if (addr k).isSome then xs[(Touches (activeBits h m.toNat k) addr).length]? else some 0)
          else if etMp h.et then some 0 else none)

/-- `fscatter` (08_gather_fabric.md R247, R249, R250, R251): where every active element passes probe, check and store, it completes with
those stores in ascending element order and no others, and CMASK is 0. -/
def FabricScatter : Prop :=
  ∀ (s u : State) (v x : BitVec 5) (a : BitVec 6) (m : BitVec 7) (ls : List Nat), Free s (.fscatter v x a m) →
    fabricChecks s.hart v x m false →
    let h := s.hart
    let w := etSew h.et
    let addr := indexedAt h x (h.sreg a)
    let act := activeBits h m.toNat (lanes h)
    working (do
      act.forM fun k => probeAt h.agent .probeStore w (addr k)
      act.forM fun k => checkRead h.agent .probeStore (addr k) (w / 8)
      storePlaces h.agent w addr id (h.velem w v.toNat) act) s = .ok ls u →
    ∃ t, exec (.fscatter v x a m) s = .next t ∧ Past u t { h with cmask := 0 } ∧ (Memory.wf s.mem → StoresOnly s t ls)

/-- The vector atomics (08_gather_fabric.md R252): with every active index below LEN, and every probe and check passed, the combined
updates of each group of eight are applied in ascending group order; memory changes there alone, VSTAT gains the flags of every combining
and RMW, and no vector register changes. -/
def VectorAtomics : Prop :=
  ∀ (s u : State) (i : Instr) (op : RedOp) (v x : BitVec 5) (m : BitVec 7) (a : BitVec 6) (win : Word × Nat) (ls : List Nat) (fl : Word),
    vamoForm i = some (op, v, x, m, a) → Free s i → fabricChecks s.hart v x m false →
    classI (etTy s.hart.et) = true ∨ classF (etTy s.hart.et) = true → (s.hart.sreg a).toNat % 8 = 0 → win.2 < 2 ^ 32 →
    let h := s.hart
    let w := etSew h.et
    let idx (k : Nat) : Nat := h.velem w x.toNat k
    let addr (base : Word) (k : Nat) : Word := base + BitVec.ofNat 64 (idx k * (w / 8))
    let act := activeBits h m.toNat (lanes h)
    let f (p q : Nat) : Nat × Word := redStep op (etTy h.et) (rmOf (etRm h.et)) p q
    (∀ k ∈ act, idx k < win.2) →
    working (do
      let d ← windowAt h true (h.sreg a)
      act.forM fun k => probeRmw h.agent w (addr d.1 k)
      act.forM fun k => checkRead h.agent .probeAtomic (addr d.1 k) (w / 8)
      let r ← rmwPlaces h.agent (w / 8) f (vamoUpdates h f (addr d.1) v m)
      pure (d, r)) s = .ok (win, ls, fl) u →
    ∃ t, exec i s = .next t ∧ Past u t { h with cmask := 0, vstat := h.vstat ||| fl } ∧ (Memory.wf s.mem → StoresOnly s t ls)

/-- `fas` (08_gather_fabric.md R254): one RMW adds the sum of the active elements of vI to the word at s[a], and each active element of
vd receives the running value before its own addend. -/
def FetchAddScan : Prop :=
  ∀ (s u : State) (v x : BitVec 5) (a : BitVec 6) (m : BitVec 7) (locs : List Nat) (old : Nat), Free s (.fas v x a m) →
    let h := s.hart
    let w := etSew h.et
    let g := etGroup h.et
    let sum (k : Nat) : Nat := ((activeBits h m.toNat k).map (h.velem w x.toNat)).sum
    classI (etTy h.et) = true → 32 ≤ w → v.toNat % g = 0 → x.toNat % g = 0 → overlaps v.toNat g x.toNat g = false →
    spanOk m.toNat (lanes h) = true → (h.sreg a).toNat % (w / 8) = 0 →
    working (rmwThere h.agent (h.sreg a) (w / 8) fun x => (x + sum (lanes h)) % 2 ^ w) s = .ok (locs, old) u →
    ∃ t, exec (.fas v x a m) s = .next t ∧ Past u t { h with v := t.hart.v, vLive := t.hart.vLive, cmask := 0 } ∧
      GroupIs h t.hart w v.toNat g (tailed (etTp h.et) (lanes h) 0 fun k =>
        if h.mbit m.toNat k then some (old + sum k) else if etMp h.et then some 0 else none) ∧
      (Memory.wf s.mem → locs.Nodup → StoresOnly s t locs ∧ valueAt t locs = (old + sum (lanes h)) % 2 ^ w)

/-- `fload` of legal blocks, read as one entry reads, on named nodes that are at rest and not LOADED (log 42) makes them LOADED, the lowest node with the
first block: an IDLE one at a free physical node and any other at the one it has; a block whose OUT is 0 binds the stream it names,
and every token on the named nodes' links is dropped (08_gather_fabric.md R232, R243). -/
def FabricLoadsBlocks : Prop :=
  ∀ (s u : State) (a : BitVec 6) (nodes : BitVec 8) (bs : List (Vector Word 9)),
    let h := s.hart
    let fresh := (named nodes).filter fun n => (h.fnode n).state = .idle
    Free s (.fload a nodes) → nodes ≠ 0 → (h.sreg a).toNat % 8 = 0 → AtRest h nodes →
    working ((List.range (named nodes).length).mapM fun i => readBlock h.agent (h.sreg a + BitVec.ofNat 64 (72 * i))) s = .ok bs u →
    (∀ b ∈ bs, blockOk b none = true) → (∀ n ∈ named nodes, (h.fnode n).state ≠ .loaded) → fresh.length + 2 ≤ (s.physFree h.core).length →
    ∃ t, exec (.fload a nodes) s = .next t ∧
      Past u t { h with fnodes := t.hart.fnodes, streams := t.hart.streams, ftokens := otherTokens h nodes } ∧
      (∀ (i n : Nat) (b : Vector Word 9), (named nodes)[i]? = some n → bs[i]? = some b → ∃ p : BitVec 3,
        t.hart.fnode n = { FabricNode.reset with state := .loaded, block := b, phys := p, grows := blockFollow b } ∧
        (n ∈ fresh → p.toNat ∈ s.physFree h.core) ∧ (n ∉ fresh → p = (h.fnode n).phys) ∧
        (blockOut b = false → (∀ (j : Nat) (c : Vector Word 9), i < j → bs[j]? = some c → blockOut c = true ∨ blockT c ≠ blockT b) →
          ∀ y : BitVec 4, y.toNat = blockT b →
            (t.hart.stream y).kind = .fabric ∧ (t.hart.stream y).pos = 0 ∧ (t.hart.stream y).len = blockOuts b ∧
            (t.hart.stream y).ahead = [] ∧ (t.hart.stream y).node.toNat = n ∧ (t.hart.stream y).ty = blockTy b)) ∧
      (∀ n, n < 8 → nodes.getLsbD n = false → t.hart.fnode n = h.fnode n) ∧
      ∀ y : BitVec 4, (∀ b ∈ bs, blockOut b = true ∨ blockT b ≠ y.toNat) → t.hart.stream y = h.stream y

/-- `fstart` on nodes of which none is IDLE or DONE, where the hart's LOADED nodes pass R236's checks: a LOADED node whose block has START = 0
runs, one whose block has START = 1 stays LOADED, as it starts by the finish token of its PRED (08_gather_fabric.md R234, R240), and a
STOPPED one runs on (08_gather_fabric.md R236, R244); that this clears its watchdog bit is the model's choice (log 69). -/
def FabricStarts : Prop :=
  ∀ (s : State) (nodes : BitVec 8), Free s (.fstart nodes) → nodes ≠ 0 →
    (∀ n ∈ named nodes, (s.hart.fnode n).state ≠ .idle ∧ (s.hart.fnode n).state ≠ .done) → s.hart.graphOk = true →
    ∃ t, exec (.fstart nodes) s = .next t ∧ Past s t { s.hart with fnodes := t.hart.fnodes } ∧
      ∀ n, n < 8 → t.hart.fnode n =
        if nodes.getLsbD n then (match (s.hart.fnode n).state with
          | .loaded => if blockStart (s.hart.fnode n).block then s.hart.fnode n else { s.hart.fnode n with state := .running }
          | .stopped => { s.hart.fnode n with state := .running, watchdog := false }
          | _ => s.hart.fnode n) else s.hart.fnode n

/-- `fstop` makes each named node that runs STOPPED, and leaves every other node as it is (08_gather_fabric.md R244). -/
def FabricStops : Prop :=
  ∀ (s : State) (nodes : BitVec 8), Free s (.fstop nodes) → nodes ≠ 0 →
    ∃ t, exec (.fstop nodes) s = .next t ∧ Past s t { s.hart with fnodes := t.hart.fnodes } ∧
      ∀ n, n < 8 → t.hart.fnode n =
        if nodes.getLsbD n = true ∧ (s.hart.fnode n).state = .running then { s.hart.fnode n with state := .stopped } else s.hart.fnode n

/-- `fdrain` of named nodes that are at rest and owe no fault releases them: they are IDLE, the tokens on their links are gone, and the
streams that they fed are unbound (08_gather_fabric.md R245). -/
def FabricDrains : Prop :=
  ∀ (s : State) (nodes : BitVec 8), Free s (.fdrain nodes) → nodes ≠ 0 → AtRest s.hart nodes →
    (∀ n ∈ named nodes, (s.hart.fnode n).owed = none) →
    ∃ t, exec (.fdrain nodes) s = .next t ∧
      Past s t { s.hart with fnodes := t.hart.fnodes, streams := t.hart.streams, ftokens := otherTokens s.hart nodes } ∧
      (∀ n, n < 8 → t.hart.fnode n = if nodes.getLsbD n then .reset else s.hart.fnode n) ∧
      ∀ y, t.hart.stream y =
        if (s.hart.stream y).kind = .fabric ∧ nodes.getLsbD (s.hart.stream y).node.toNat = true then .reset else s.hart.stream y

/-- `fstat` returns the state code of each named node at bit 3n, its watchdog bit at 24 + n, zero for the others, and the bell count in
the high half (08_gather_fabric.md R246). -/
def FabricStatus : Prop :=
  ∀ (s : State) (nodes : BitVec 8), Free s (.fstat nodes) → nodes ≠ 0 →
    ∃ t x, exec (.fstat nodes) s = .next t ∧ Past s t { s.hart with srq := s.hart.srq ++ [⟨x, 1⟩] } ∧ bits x 32 32 = s.hart.bell.toNat ∧
      ∀ n, n < 8 →
        bits x (3 * n) 3 = (if nodes.getLsbD n then (match (s.hart.fnode n).state with
          | .idle => 0 | .loaded => 1 | .running => 2 | .stopped => 3 | .done => 4) else 0) ∧
        x.getLsbD (24 + n) = (nodes.getLsbD n && (s.hart.fnode n).watchdog)

/-- An empty mask of nodes is `E_OPERAND` at issue, of the gather fabric (08_gather_fabric.md R242). -/
def FabricEmptyMask : Prop :=
  ∀ (s : State) (i : Instr), (i = .fstart 0 ∨ i = .fstop 0 ∨ i = .fdrain 0 ∨ i = .fstat 0 ∨ ∃ a, i = .fload a 0) → Free s i →
    HasHandler s → ∃ t, exec i s = .next t ∧ EngineTraps s t i 1 0x03 3 s.hart.faddr

/-- `chform` (02_encoding.md R63 to R68; 09_chain.md R276): a block whose words can be read and that meets every check is the chain, in
state IDLE, with its scope clamped and nothing kept of the chain before; a block that does not gives `E_ILLEGAL` with the failing index
in ei and leaves the state NONE; a misaligned address gives `E_ALIGN` and keeps the chain. -/
def ChainForm : Prop :=
  (∀ (s u : State) (a : BitVec 6) (ws : List (BitVec 32)), Free s (.chform a) → (s.hart.sreg a).toNat % 4 = 0 →
    working (readChain (s.hart.sreg a)) s = .ok ws u → chainBad ws = none →
    let c := BitVec.ofNat 3 (blockScope ws)
    ws.length = 1 + blockS ws + 2 * blockL ws ∧
    ∃ t, exec (.chform a) s = .next t ∧
      Past u t { s.hart with
        status := (clamped s c).hart.status
        chain := { Chain.reset with
          state := .idle, words := ws, p := List.replicate (blockS ws) 0
          scope := if s.hart.scope.getLsbD 26 = false ∧ 4 < c.toNat then 4 else c } }) ∧
  (∀ (s u : State) (a : BitVec 6) (ws : List (BitVec 32)) (i : Nat), Free s (.chform a) → (s.hart.sreg a).toNat % 4 = 0 → HasHandler s →
    working (readChain (s.hart.sreg a)) s = .ok ws u → chainBad ws = some i →
    ∃ t, exec (.chform a) s = .next t ∧ t.hart.cause = 0x410001 ∧ t.hart.ei.toNat = i ∧ t.hart.chain = .reset ∧
      t.hart.epc = s.hart.pc &&& 0x00FFFFFFFFFFFFFE ∧ t.hart.held.viq.map (·.instr) = [.chform a] ∧ t.hart.pc = s.hart.handler ∧
      t.hart.s = s.hart.s ∧ t.hart.v = s.hart.v ∧ t.mem = u.mem) ∧
  (∀ (s : State) (a : BitVec 6), Free s (.chform a) → HasHandler s → (s.hart.sreg a).toNat % 4 ≠ 0 →
    ∃ t, exec (.chform a) s = .next t ∧ EngineTraps s t (.chform a) 1 0x02 4 (s.hart.sreg a))

/-- `chrun` (09_chain.md R277): with its checks met, a run of no element leaves the chain IDLE; a run of N elements is attached with its
length, strip, et and generator value captured, every P at 0 and the queues as they were, standing or, where it cannot form, in TEMPORAL
with cause 4; the engines then take it up once before the instruction ends. The first checks raise `E_OPERAND`. -/
def ChainRun : Prop :=
  (∀ (s u : State) (a : BitVec 6), Free s (.chrun a) → s.hart.chain.state ≠ .none → s.hart.sreg a = 0 →
    (chainStages s.hart.chain.words).forM (fun x => stageCheck x s.hart.et (lanes s.hart)) s = .ok () u →
    ((∃ x ∈ chainStages s.hart.chain.words, x.op.src = 1) → s.hart.grant.toNat % 32 ≠ 0) →
    ∃ t, exec (.chrun a) s = .next t ∧
      Past u t { s.hart with chain := { s.hart.chain with state := .idle, edges := [], lent := [], links := 0 } }) ∧
  (∀ (s u : State) (a : BitVec 6), Free s (.chrun a) → s.hart.chain.state ≠ .none → s.hart.sreg a ≠ 0 →
    (s.hart.sreg a).toNat < 2 ^ 48 → lanes s.hart ≠ 0 →
    (chainStages s.hart.chain.words).forM (fun x => stageCheck x s.hart.et (lanes s.hart)) s = .ok () u →
    ((∃ x ∈ chainStages s.hart.chain.words, x.op.src = 1) → s.hart.grant.toNat % 32 ≠ 0) →
    ∃ t v, exec (.chrun a) s = .next t ∧ t = (v.takeOne [1]).state ∧ RunOf s.hart (s.hart.sreg a) v.hart.chain ∧
      v.hart.viq.map (fun e => (e.instr, e.started)) = [(.chrun a, true)] ∧
      Past u v { s.hart with chain := v.hart.chain, viq := v.hart.viq, rng := v.hart.rng } ∧
      (etRm s.hart.et ≠ 4 → v.hart.rng = s.hart.rng)) ∧
  (∀ (s : State) (a : BitVec 6), Free s (.chrun a) → HasHandler s →
    s.hart.chain.state = .none ∨ 2 ^ 48 ≤ (s.hart.sreg a).toNat ∨ (s.hart.sreg a ≠ 0 ∧ lanes s.hart = 0) →
    ∃ t, exec (.chrun a) s = .next t ∧ EngineTraps s t (.chrun a) 1 0x03 4 s.hart.faddr)

/-- A COMMAND packet that a queue has reached, at the queue's turn (12_command.md R351, R354, R370, R372) has the effect of the same command
coming directly, its answer goes to the packet's REPLY and SIGNAL, and the packet is gone. That a command may also come
from the function directly is the model's choice (log 6). -/
def RingCommands : Prop :=
  ∀ (s v : State) (i : Instr) (x : Cmd) (opc n : Nat) (u : UserQueue) (p : Packet) (l : List Sent) (st : BitVec 8) (val : Word),
    commandOf i = some (x, opc) → x.ring = true → s.queue x.fn x.q = some u → u.reached = some (n, p) → p.state = .fresh → p.typ = 4 →
    p.ok = true → s.denies x.fn x.q p = false → s.nextQueue = some (queueKey x.fn x.q) → (p.at 1).toNat % 2 ^ 16 = opc →
    exec (withCmd (directOf x.fn x.q p) i) (inHand s x.fn x.q n) = .next v → v.sent = l ++ [.reply x.fn st val] →
    (inHand s x.fn x.q n).sent.length ≤ l.length →
    st ≠ 0x10 → exec i s = .next (packetGone { v with sent := l } x.fn x.q)

/-- A command with a REPLY or a SIGNAL (12_command.md R370, R372): its effect is that of the same command without them, and then STATUS and
VALUE go to REPLY and the doubleword at SIGNAL goes down by 1, where those accesses succeed. A SIGNAL in host memory instead puts BADPACKET
at REPLY, and the effect stands (12_command.md R361; log 72). That a command may come from the function directly is the model's choice
(log 6). -/
def AnsweredCommands : Prop :=
  ∀ (s v : State) (i : Instr) (x : Cmd) (opc : Nat) (l : List Sent) (st : BitVec 8) (val : Word),
    commandOf i = some (x, opc) → rowTakes i = true → Issued s x opc → exec (withCmd { x with reply := 0, signal := 0 } i) s = .next v →
    v.sent = l ++ [.reply x.fn st val] → s.sent.length ≤ l.length →
    let u : State := { v with sent := l }
    Answers i x s u st val ∧
    ∀ (w y z : State) (e : Fail), commandReply (s.fnAgent x.fn) x.reply (st, val) u = .ok () w →
      crierSignal (s.fnAgent x.fn) x.signal 1 w = .error e y → e.code = 0x08 →
      commandReply (s.fnAgent x.fn) x.reply (0x10, 0) y = .ok () z → exec i s = .next { z with sent := z.sent ++ [.reply x.fn 0x10 0] }

/-- A command that its packet checks or the table's third column turn away (12_command.md R354, R373) has no effect but
its answer. That a command may also come from the function directly is the model's choice (log 6), and so is a
misaligned REPLY left alone (log 22). -/
def CommandChecks : Prop :=
  ∀ (s : State) (i : Instr) (x : Cmd) (opc : Nat), commandOf i = some (x, opc) → x.ring = false → x.fn.toNat ≤ 128 →
    x.signal.toNat % 8 = 0 → x.reply.toNat % 16 = 0 → rowTakes i = true →
    (commandOk opc x.owner [x.a, x.b, x.c, x.d] = false → Answers i x s s 0x10 0) ∧
    (commandOk opc x.owner [x.a, x.b, x.c, x.d] = true → (pfOnly opc = true ∧ x.fn ≠ 0) ∨ (s.partOfFn x.fn = none ∧ x.fn ≠ 0) →
      Answers i x s s 0x16 0)

/-- The commands on queues, event queues, roots and cached translations (12_command.md R349, R367, R373;
04_memory_model.md R106, R112). The model's choices here are in logs 7 (what INVALIDATE of a stage-2 range drops), 25
(a VF that names another function) and 45 (ROOT_SET takes any root word). -/
def QueueAndRootCommands : Prop :=
  (∀ (s u : State) (x : Cmd) (n : Nat), Issued s x 0x01 → n < 64 → (∀ f, s.funcs[x.fn.toNat]? = some f →
      (∀ q ∈ f.queues, q.num.toNat ≠ n) ∧ ∀ m, m < n → ∃ q ∈ f.queues, q.num.toNat = m) →
    storeElem (s.fnAgent x.fn) x.b 8 0 s = .ok () u →
    Answers (.queueCreate x) x s (u.modFn x.fn fun f => { f with queues := f.queues ++ [
      ⟨BitVec.ofNat 6 n, x.a, x.c.extractLsb' 0 4, x.b, 0, 0, x.c.getLsbD 8, x.c.extractLsb' 12 2, false, []⟩] }) 0 (BitVec.ofNat 64 n)) ∧
  (∀ (s : State) (x : Cmd) (q : UserQueue), Issued s x 0x02 → x.a.toNat < 64 → s.queue x.fn (x.a.setWidth 6) = some q →
    if s.tasks.any (fun t => t.fn = x.fn ∧ t.queue = q.num) then Answers (.queueDestroy x) x s s 0x17 0
    else Answers (.queueDestroy x) x s (s.modFn x.fn fun f => { f with queues := f.queues.filter fun v => v.num ≠ q.num }) 0 0) ∧
  (∀ (s : State) (x : Cmd) (q : UserQueue), Issued s x 0x03 → x.a.toNat < 64 → s.queue x.fn (x.a.setWidth 6) = some q →
    if q.stopped then Answers (.queueRestart x) x s (s.modQueue x.fn q.num fun v => { v with stopped := false }) 0 0
    else Answers (.queueRestart x) x s s 0x1B 0) ∧
  (∀ (s : State) (x : Cmd), Issued s x 0x04 →
    (x.fn ≠ 0 → (x.b.extractLsb' 8 11).toNat < 32) →
    if (s.eventQueue x.fn).isSome then Answers (.evqCreate x) x s s 0x18 0
    else Answers (.evqCreate x) x s ((s.modFn x.fn fun f => { f with
      evq := some ⟨x.a, x.b.extractLsb' 0 4, x.b.extractLsb' 8 11, 0, false⟩ }).deliverAll x.fn) 0 0) ∧
  (∀ (s : State) (x : Cmd), Issued s x 0x10 → x.b = 1 → x.a.toNat ≤ 128 → x.fn = 0 ∨ x.a = x.fn.setWidth 64 →
    Answers (.rootSet x) x s (keepsPages (s.modFn (x.a.setWidth 8) fun f => { f with root := x.c })
      fun c => c.fn = x.a.setWidth 8) 0 0) ∧
  (∀ (s : State) (x : Cmd) (p : BitVec 5), Issued s x 0x10 → x.b = 2 → x.a.toNat ≤ 128 → x.fn = 0 → s.partOfFn (x.a.setWidth 8) = some p →
    (h : p.toNat < 24) →
    Answers (.rootSet x) x s (keepsPages { s with roots2 := s.roots2.set p.toNat x.c } fun c => c.part = p) 0 0) ∧
  (∀ (s : State) (x : Cmd), Issued s x 0x11 → (x.b = 1 ∧ x.a.toNat ≤ 128) ∨ (x.b = 2 ∧ x.a.toNat ≤ 23) →
    x.fn = 0 ∨ (x.b = 1 ∧ x.a = x.fn.setWidth 64) →
    Answers (.invalidate x) x s (keepsPages s fun c =>
      if x.b = 1 then c.fn.toNat = x.a.toNat ∧ (x.d = 0 ∨ (c.page * 8192 < x.c.toNat + x.d.toNat ∧ x.c.toNat < c.page * 8192 + 8192))
      else c.part.toNat = x.a.toNat) 0 0)

/-- The commands on gates (12_command.md R371, R373; 11_gate.md R325, R343): a gate that is FREE is created ACTIVE with its list, counter
and payload; the list, or the counter and the payload, are replaced; a gate becomes REVOKED, or FREE with its handles left open and
stale; at that point what waits there is judged (`wakeGates`; R330, R343, R347). A gate that is FREE gives NOTFOUND to the others, and one that is not gives BUSY to GATE_CREATE. -/
def GateCommands : Prop :=
  (∀ (s u : State) (x : Cmd) (ws : List Word) (list : List GateEntry), Issued s x 0x20 → x.a.toNat < 4096 →
    loadDws (s.fnAgent x.fn) x.b 16 s = .ok ws u → x.owner.toNat < 24 → accessList ws = some list →
    if (s.gate (x.a.setWidth 12)).isSome then Answers (.gateCreate x) x s u 0x17 0
    else Answers (.gateCreate x) x s ({ u with gates := s.gates ++ [⟨x.a.setWidth 12, .active, x.c, x.d, x.owner, list, []⟩] } : State).wakeGates 0 0) ∧
  (∀ (s u : State) (x : Cmd) (g : Gate) (ws : List Word), Issued s x 0x21 → x.a.toNat < 4096 →
    s.gate (x.a.setWidth 12) = some g → loadDws (s.fnAgent x.fn) x.b 16 s = .ok ws u →
    match accessList ws with
    | none => Answers (.gateList x) x s u 0x1B 0
    | some list => Answers (.gateList x) x s (withGates u (x.a.setWidth 12) fun k => { k with list := list }).wakeGates 0 0) ∧
  (∀ (s : State) (x : Cmd) (g : Gate), Issued s x 0x22 → x.a.toNat < 4096 → s.gate (x.a.setWidth 12) = some g →
    Answers (.gateSet x) x s (withGates s (x.a.setWidth 12) fun k => { k with ctr := x.b, pay := x.c }).wakeGates 0 0) ∧
  (∀ (s : State) (x : Cmd) (g : Gate), Issued s x 0x23 → x.a.toNat < 4096 → s.gate (x.a.setWidth 12) = some g →
    Answers (.gateRevoke x) x s (withGates s (x.a.setWidth 12) fun k => { k with state := .revoked }).wakeGates 0 0) ∧
  (∀ (s : State) (x : Cmd) (g : Gate), Issued s x 0x24 → x.a.toNat < 4096 → s.gate (x.a.setWidth 12) = some g →
    Answers (.gateDelete x) x s ({ s with
      gates := s.gates.filter (fun k => k.id ≠ x.a.setWidth 12)
      handles := s.handles.map fun t => t.map fun k =>
        if k.isOpen = true ∧ k.gate = x.a.setWidth 12 then { k with stale := true } else k } : State).wakeGates 0 0) ∧
  (∀ (s : State) (x : Cmd) (i : Instr) (opc : Nat), (i, opc) ∈ [(Instr.gateList x, 0x21), (.gateSet x, 0x22), (.gateRevoke x, 0x23), (.gateDelete x, 0x24)] →
    Issued s x opc → x.a.toNat < 4096 → s.gate (x.a.setWidth 12) = none → Answers i x s s 0x19 0)

/-- The commands that answer records and act on tasks, contexts and whole partitions (12_command.md R373; 13_context.md
R384, R393, R394). The model's choices here are in logs 28 (what one RESUME answers), 30 (the inner layout of an image)
and 48 (save slots). -/
def TaskCommands : Prop :=
  (∀ (s : State) (x : Cmd) (w : Waiting), Issued s x 0x05 → x.c = 0 → (⟨x.fn, 5, x.owner, x.a, x.b, x.c, x.d⟩ : Command).waiting s = some w →
    x.reply = 0 → x.signal = 0 → ∃ u, Answers (.resume x) x s u 0 0 ∧
      match w with
      | .saved part idx => u.harts = s.harts ∧ ∀ v ∈ u.saves, v.part = part → v.idx = idx → v.waiting = false
      | .inPlace slot => u = { s with harts := s.harts.set slot { s.harts[slot] with run := .answered }, pfRecords := u.pfRecords }
      | .node slot o => u.harts[slot].onodes[o].state = .running ∧ u.mem = s.mem
      | .chain slot => u.harts[slot].chain.state = .standing ∧ u.mem = s.mem) ∧
  (∀ (s : State) (x : Cmd), Issued s x 0x05 → x.c.toNat ≤ 1 → (⟨x.fn, 5, x.owner, x.a, x.b, x.c, x.d⟩ : Command).waiting s = none →
    Answers (if x.c = 1 then .resumeAbort x else .resume x) x s s 0x19 0) ∧
  (∀ (s : State) (x : Cmd) (w : Waiting), Issued s x 0x05 → x.c = 1 → (⟨x.fn, 5, x.owner, x.a, x.b, x.c, x.d⟩ : Command).waiting s = some w →
    x.reply = 0 → x.signal = 0 → ∃ u, Answers (.resumeAbort x) x s u 0 0 ∧ TaskGone u (x.a.setWidth 32)) ∧
  (∀ (s : State) (x : Cmd) (k : Task), Issued s x 0x06 → x.a.toNat < 2 ^ 32 → s.task (x.a.setWidth 32) = some k → k.fn = x.fn →
    x.reply = 0 → x.signal = 0 → ∃ u, Answers (.taskAbort x) x s u 0 0 ∧ TaskGone u k.seq ∧
      (k.reply = 0 → k.signal = 0 → (∀ v ∈ s.saves, v.ctx.seq ≠ k.seq) → u.mem = s.mem)) ∧
  (∀ (s : State) (x : Cmd), Issued s x 0x07 → x.a.toNat < 24 → x.b.toNat < 16 →
    match pendingOn s x.a x.b with
    | [] => Answers (.resumeSave x) x s s 0x19 0
    | [v] => Answers (.resumeSave x) x s (if v.state = .savePending then s.runSave v v.pend else s.runRestore v v.dest) 0 0
    | _ => x.reply = 0 → x.signal = 0 → ∃ u, Answers (.resumeSave x) x s u 0 0) ∧
  (∀ (s v w : State) (x : Cmd) (xs : List (List Word)), Issued s x 0x30 → x.b.toNat ≤ 1791 → x.c.toNat % 8 = 0 →
    s.slotPending x.a = false → (∀ g ∈ s.gates, s.gateGoes x.a g = true → ∀ p ∈ s.gateParts g, x.a.getLsbD p.toNat = true) →
    let f := { s with gates := s.gates.map fun g => if s.gateGoes x.a g = true ∧ g.state = GateState.active then { g with state := .frozen } else g }
    (f.saveAll x.a).staysOn x.a = false → (f.saveAll x.a).slotPending x.a = false →
    imageSections x.a (f.saveAll x.a) = .ok xs v →
    let ws := imageHeader x.a (s.pkg.setWidth 64) x.b s.time xs.length ++ xs.flatten
    storeDws (s.fnAgent x.fn) x.c ws v = .ok () w →
    x.reply = 0 → x.signal = 0 → ∃ u, Answers (.migrateOut x) x s u 0 (BitVec.ofNat 64 (8 * ws.length)) ∧
      ((∀ k ∈ w.saves, x.a.getLsbD k.part.toNat = false) → u.mem = w.mem) ∧
      (∀ k ∈ u.tasks, x.a.getLsbD k.part.toNat = false) ∧ (∀ k ∈ u.saves, x.a.getLsbD k.part.toNat = false)) ∧
  (∀ (s u v w : State) (x : Cmd) (hd : List Word) (xs : List (Nat × List Word)), Issued s x 0x31 → x.a.toNat % 8 = 0 →
    loadDws (s.fnAgent x.fn) x.a 8 s = .ok hd u → hd[0]? = some 0x4145444901000000 → hd[3]? = some (s.pkg.setWidth 64) →
    (∀ p, p < 64 → ∀ m, hd[1]? = some m → m.getLsbD p = true → ∃ h : p < 24, s.parts[p].raw.any (· ≠ 0) = true) →
    readSections (s.fnAgent x.fn) ((hd[5]?).getD 0).toNat (x.a + 64) u = .ok xs v →
    (∀ y ∈ xs, y.1 = 5 → s.gate (rdGate.of y.2).id = none) → sectionsIn xs v = .ok true w →
    Answers (.migrateIn x) x s w.wakeGates 0 0)

/-- DEBUG (13_context.md R391, R392) on a resident hart: HALT holds its queues, the oldest head's position in ei, and breaks a standing
run with cause 5; RESUME lets a halted hart go on from what it holds, STEP for one instruction; READ and WRITE reach the window; ARM and
DISARM set its mark. A hart that is not halted gives BUSY to RESUME, STEP, READ and WRITE. That DEBUG of a hart that is
not resident answers BUSY is the model's choice (log 26), and so is what a halt holds (log 38). -/
def DebugCommands : Prop :=
  (∀ (s : State) (x : Cmd) (slot : Fin 64), Issued s x 0x60 → Debugs s x slot → x.c.toNat % 16 = 0 → s.harts[slot].run = .running →
    x.reply = 0 → x.signal = 0 → ∃ u, Answers (.debugHalt x) x s u 0 0 ∧ u.harts[slot].run = .halted ∧
      (∃ d, u.harts[slot].dbg = some d ∧
        (∀ p ∈ [1, 2, 3], heldOf d p = if p = d.queue then modHead (fun e => { e with prog := 0 }) (s.harts[slot].queueOf p)
          else s.harts[slot].queueOf p) ∧
        (∀ p ∈ [1, 2, 3], ∀ e ∈ (s.harts[slot].queueOf p).head?, ∃ f ∈ (s.harts[slot].queueOf d.queue).head?, f.seq ≤ e.seq) ∧
        (∀ e ∈ (s.harts[slot].queueOf d.queue).head?, e.isRun = false → u.harts[slot].ei = e.prog.setWidth 64) ∧
        d.srq = s.harts[slot].srq ∧ d.bq = s.harts[slot].bq ∧ d.pc = s.harts[slot].pc ∧ d.ld = s.harts[slot].ld ∧
        d.eiSet = s.harts[slot].ei) ∧
      u.harts[slot].s = s.harts[slot].s ∧ u.harts[slot].status = s.harts[slot].status ∧
      (s.harts[slot].chain.state = .standing → u.harts[slot].chain.state = .temporal ∧ u.harts[slot].chain.cause = 5) ∧
      (∀ j : Fin 64, j ≠ slot → u.harts[j] = s.harts[j]) ∧ u.mem = s.mem) ∧
  (∀ (s : State) (x : Cmd) (slot : Fin 64) (d : Held), Issued s x 0x60 → Debugs s x slot → s.harts[slot].run = .halted →
    s.harts[slot].dbg = some d →
    (x.c.toNat % 16 = 0 → Answers (.debugHalt x) x s s 0 0) ∧
    (∀ step : Bool, x.c.toNat % 16 = (if step then 2 else 1) →
      Answers (if step then .debugStep x else .debugResume x) x s { s with harts := s.harts.set slot (letGo s.harts[slot] d step) } 0 0) ∧
    (x.c.toNat % 16 = 3 → Answers (.debugRead x) x s s 0 (s.harts[slot].windowRead d s.time (x.c.toNat / 2 ^ 32))) ∧
    (x.c.toNat % 16 = 4 → match s.harts[slot].windowWrite d s.time (x.c.toNat / 2 ^ 32) x.d with
      | some h => Answers (.debugWrite x) x s { s with harts := s.harts.set slot h } 0 0
      | none => Answers (.debugWrite x) x s s 0x1B 0)) ∧
  (∀ (s : State) (x : Cmd) (slot : Fin 64) (on : Bool), Issued s x 0x60 → Debugs s x slot → x.c.toNat % 16 = (if on then 5 else 6) →
    Answers (if on then .debugArm x else .debugDisarm x) x s
      { s with harts := s.harts.set slot { s.harts[slot] with armed := on } } 0 0) ∧
  (∀ (s : State) (x : Cmd) (slot : Fin 64) (i : Instr), Issued s x 0x60 → Debugs s x slot → s.harts[slot].run ≠ .halted →
    (i, x.c.toNat % 16) ∈ [(Instr.debugResume x, 1), (.debugStep x, 2), (.debugRead x, 3), (.debugWrite x, 4)] → Answers i x s s 0x17 0)

/-- NOTIFY and the periodic scan (12_command.md R350) take the packets of the next slots while their V is set, at most as many as the ring
holds, which is the model's bound (log 1); a queue that is missing or STOPPED is left alone, and a fault stops it. A slot whose V is 0
is left; of one whose V is 1 the other doublewords are read, V is cleared and RIDX goes up. -/
def QueueScans : Prop :=
  (∀ (s : State) (i : Instr) (fn : BitVec 8) (q : BitVec 6), i = .notify fn q ∨ i = .queueScan fn q →
    (s.queue fn q = none → exec i s = .next s) ∧
    ∀ u, s.queue fn q = some u →
      (u.stopped = true → exec i s = .next s) ∧
      ∃ t, exec i s = .next t ∧ Scanned fn q (2 ^ (4 + u.sz.toNat)) s t) ∧
  (∀ (s v : State) (w : Agent) (u : UserQueue) (h : Nat),
    let slot := u.ring + word (64 * (u.ridx.toNat % 2 ^ (4 + u.sz.toNat)))
    loadElem w slot 8 s = .ok h v →
    (h % 2 = 0 → scanSlot w u s = .ok none v) ∧
    ∀ rest a b c, h % 2 = 1 → loadDws w (slot + 8) 7 v = .ok rest a → storeElem w slot 8 (h - 1) a = .ok () b →
      storeElem w u.ridxAddr 8 (u.ridx + 1).toNat b = .ok () c →
      scanSlot w u s = .ok (some ⟨Vector.ofFn fun i => ((word h :: rest)[i.val]?).getD 0, .fresh⟩) c)

/-- The packets that are no commands (12_command.md R353 to R359): a SIGNAL or NOP decrements its signal and is gone; a WAIT is gone once
its doubleword is at most its threshold and stays before; a LAUNCH whose checks are met becomes a task QUEUED under the next SEQ; one
that fails a check of R354 or R357 has its status written and no task. Where SIGNAL is in host memory the packet is gone and its
queue stops (12_command.md R361; log 72), and a misaligned REPLY or SIGNAL of a rejected packet is left alone (log 22). -/
def RingPackets : Prop :=
  (∀ (s v : State) (fn : BitVec 8) (q : BitVec 6) (n : Nat) (p : Packet), Reaches s fn q n p → p.state = .fresh → p.ok = true →
    s.denies fn q p = false →
    (p.typ = 2 → crierSignal (s.fnAgent fn) (p.at 6) (p.at 1).toNat (inHand s fn q n) = .ok () v →
      exec (.signalPacket fn q) s = .next (packetGone v fn q)) ∧
    (p.typ = 5 → crierSignal (s.fnAgent fn) (p.at 6) 1 (inHand s fn q n) = .ok () v →
      exec (.nopPacket fn q) s = .next (packetGone v fn q)) ∧
    (∀ e, p.typ = 2 → crierSignal (s.fnAgent fn) (p.at 6) (p.at 1).toNat (inHand s fn q n) = .error e v → e.code = 0x08 →
      exec (.signalPacket fn q) s = .next (packetGone (v.stopQueue fn q e) fn q)) ∧
    (∀ e, p.typ = 5 → crierSignal (s.fnAgent fn) (p.at 6) 1 (inHand s fn q n) = .error e v → e.code = 0x08 →
      exec (.nopPacket fn q) s = .next (packetGone (v.stopQueue fn q e) fn q))) ∧
  (∀ (s u : State) (fn : BitVec 8) (q : BitVec 6) (n x : Nat) (p : Packet), Reaches s fn q n p → p.typ = 3 → p.ok = true →
    s.denies fn q p = false → p.state = .fresh ∨ p.state = .waiting →
    loadElem (s.fnAgent fn) (p.at 2) 8 (handed s fn q n p) = .ok x u →
    let i : Instr → Prop := fun i => (p.state = .fresh ∧ i = .waitPacket fn q) ∨ (p.state = .waiting ∧ i = .waitReread fn q)
    (x ≤ (p.at 1).toNat → ∀ v, crierSignal (s.fnAgent fn) (p.at 6) 1 u = .ok () v → ∀ j, i j → exec j s = .next (packetGone v fn q)) ∧
    ((p.at 1).toNat < x → ∀ j, i j → exec j s = .next u)) ∧
  (∀ (s u v : State) (fn : BitVec 8) (q : BitVec 6) (n : Nat) (p : Packet) (w : UserQueue) (rs : List (List Word)) (k : Terms) (task : Task),
    Reaches s fn q n p → p.typ = 1 → p.state = .fresh → p.ok = true → s.denies fn q p = false → s.queue fn q = some w →
    (if p.at 4 = 0 then rs = [] ∧ u = inHand s fn q n else loadRecords (s.fnAgent fn) 64 (p.at 4) (inHand s fn q n) = .ok (some rs) u) →
    p.terms rs = some k → k.min ≤ 16 → k.min ≤ k.pref → k.pref ≤ 16 →
    let part := (s.partOfFn fn).getD 31
    let harts := (p.at 3).toNat / 2 ^ 32 % 2 ^ 7
    s.sizeOk part k harts = true → s.tileOk part k harts = true → s.gatesOk part k = true →
    task = p.task fn w part k (s.nextTask + 1) (if s.tasks.any (fun x => x.fn = fn ∧ x.queue = q ∧ x.status = 0x01) then 5 else 0) →
    (if task.reply = 0 then v = u else storeDws (s.fnAgent fn) task.reply task.pitch u = .ok () v) →
    ∃ t, exec (.launchPacket fn q) s = .next t ∧ t.nextTask = s.nextTask + 1 ∧ t.tasks = s.tasks ++ [task] ∧
      t = { v with funcs := t.funcs, nextTask := t.nextTask, tasks := t.tasks } ∧
      ∀ x, t.queue fn q = some x → x.pending[n]? = some { p with state := .launched (s.nextTask + 1) }) ∧
  (∀ (s u v : State) (fn : BitVec 8) (q : BitVec 6) (n : Nat) (p : Packet) (rs : Option (List (List Word))) (st : BitVec 8),
    Reaches s fn q n p → p.typ = 1 → p.state = .fresh → p.ok = true → s.denies fn q p = false →
    (if p.at 4 = 0 then rs = some [] ∧ u = inHand s fn q n else loadRecords (s.fnAgent fn) 64 (p.at 4) (inHand s fn q n) = .ok rs u) →
    LaunchFails s ((s.partOfFn fn).getD 31) ((p.at 3).toNat / 2 ^ 32 % 2 ^ 7) (rs.bind p.terms) st →
    TurnedAway (s.fnAgent fn) fn q p st u v → exec (.launchPacket fn q) s = .next (packetGone v fn q)) ∧
  (∀ (s v : State) (i : Instr) (fn : BitVec 8) (q : BitVec 6) (n : Nat) (p : Packet) (typ : Nat) (st : BitVec 8),
    packetForm i = some (fn, q, typ) → Reaches s fn q n p → p.typ = typ → p.state = .fresh →
    (p.ok = false ∧ st = 0x10) ∨ (p.ok = true ∧ s.denies fn q p = true ∧ st = 0x16) →
    TurnedAway (s.fnAgent fn) fn q p st (inHand s fn q n) v → exec i s = .next (packetGone v fn q))

/-- An uncorrectable error in a gate's state revokes the gate, at which point what waits there is judged, and a record of kind 4 with
`E_ECC` and the gate's number goes to the PF; where there is no such gate nothing happens (11_gate.md R346). -/
def GateEccRevoked : Prop :=
  (∀ (s : State) (id : BitVec 12) (g : Gate), s.gate id = some g →
    ∃ t r, exec (.gateEccRevoke id) s = .next t ∧ t.gates = (withGates s id fun k => { k with state := .revoked }).gates ∧
      t.harts = (withGates s id fun k => { k with state := .revoked }).wakeGates.harts ∧
      t.records = s.records ++ [r] ∧ r.fn = 0 ∧ (r.dw[0]).extractLsb' 1 7 = 4 ∧ (r.dw[0]).extractLsb' 8 8 = 0x12 ∧
      (r.dw[0]).extractLsb' 16 4 = 6 ∧ r.dw[5] = id.setWidth 64 ∧
      t = { s with gates := t.gates, harts := t.harts, records := t.records, counters := t.counters }) ∧
  (∀ (s : State) (id : BitVec 12), s.gate id = none → exec (.gateEccRevoke id) s = .next s)

/-- An uncorrectable error that no element asked for, in data of a partition: the partition is fenced, a record of kind 4 with `E_ECC`
and the address is posted, and the count of such errors goes up by one, saturating (04_memory_model.md R140; the model's choice of the
record's function is log 33). -/
def EccFences : Prop :=
  ∀ (s : State) (part : BitVec 5) (addr : Word),
    ∃ t r, exec (.eccUncorrectable part addr) s = .next t ∧ part ∈ t.fenced ∧ (∀ p, p ≠ part → (p ∈ t.fenced ↔ p ∈ s.fenced)) ∧
      t.records = s.records ++ [r] ∧ (r.dw[0]).extractLsb' 1 7 = 4 ∧ (r.dw[0]).extractLsb' 8 8 = 0x12 ∧ r.dw[5] = addr ∧
      t.counters.ue.toNat = min (2 ^ 64 - 1) (s.counters.ue.toNat + 1) ∧
      t = { s with fenced := t.fenced, records := t.records, counters := t.counters }

/-- An uncorrectable error that no partition owns: every hart stops without a save, every task is aborted with its final pitch, status
ABORTED, and without a signal, the PF reports an uncorrectable internal error, and the package stands still until it is reset
(16_device.md R426; 12_command.md R359, R360). -/
def InternalErrorStops : Prop :=
  ∀ s : State, ∃ t, exec .internalUncorrectable s = .next t ∧ (∀ j : Fin 64, t.harts[j] = .reset) ∧
    t.tasks = [] ∧ t.waiters = [] ∧ t.saves = [] ∧ t.stopped = true ∧ .aer ∈ t.sent ∧ (∀ g ∈ t.gates, g.posts = []) ∧
    (∀ (k : Task) (v : State), s.tasks = [k] → k.reply ≠ 0 →
      storeDws (s.fnAgent k.fn) k.reply { k with status := 0x15, why := 0, finish := s.time }.pitch s.countUe = .ok () v → t.mem = v.mem) ∧
    ((∀ k ∈ s.tasks, k.reply = 0) →
      t.counters.ue.toNat = min (2 ^ 64 - 1) (s.counters.ue.toNat + 1) ∧
      t = { s with harts := t.harts, tasks := [], waiters := [], saves := [], stopped := true, sent := s.sent ++ [.aer],
                   gates := s.gates.map fun g => { g with posts := [] }, counters := t.counters })

/-- Lane links: one that goes down takes both its ends from the mesh and breaks with cause 7 every chain whose route crosses it, one
that comes up is in the mesh again, and the sixteenth failed transfer in a row takes a link down; a link that goes down or up starts
its count anew; a port at which no core stands carries none of this (14_link.md R398; the model's choice of the chains that break is log 31). -/
def LaneLinks : Prop :=
  (∀ (s : State) (core : BitVec 4) (port : BitVec 2), joined core port = none →
    exec (.laneLinkDown core port) s = .next s ∧ exec (.laneLinkUp core port) s = .next s ∧ exec (.laneLinkReplay core port) s = .next s) ∧
  ∀ (s : State) (core : BitVec 4) (port : BitVec 2) (c p : Nat), joined core port = some (c, p) →
    let i := 4 * core.toNat + port.toNat
    let j := 4 * c + p
    (∃ t, exec (.laneLinkDown core port) s = .next t ∧
      (∀ k, k < 64 → t.laneUp.getLsbD k = (s.laneUp.getLsbD k && k != i && k != j)) ∧
      (∀ k, k < 64 → t.laneReplays[k]? = if k = i ∨ k = j then some 0 else s.laneReplays[k]?) ∧
      (∀ x : Fin 64, t.harts[x] = if s.harts[x].chain.links.getLsbD i = true ∨ s.harts[x].chain.links.getLsbD j = true
        then s.harts[x].breakChain 7 0 else s.harts[x]) ∧
      t = { s with laneUp := t.laneUp, laneReplays := t.laneReplays, harts := t.harts }) ∧
    (∃ t, exec (.laneLinkUp core port) s = .next t ∧
      (∀ k, k < 64 → t.laneUp.getLsbD k = (s.laneUp.getLsbD k || k == i || k == j)) ∧
      (∀ k, k < 64 → t.laneReplays[k]? = if k = i ∨ k = j then some 0 else s.laneReplays[k]?) ∧
      t = { s with laneUp := t.laneUp, laneReplays := t.laneReplays }) ∧
    ∃ t, exec (.laneLinkReplay core port) s = .next t ∧
      (s.laneUp.getLsbD i = false → t = s) ∧
      (∀ n : Nat, s.laneUp.getLsbD i = true → s.laneReplays[i]? = some n →
        if n < 15 then t.laneReplays[i]? = some (n + 1) ∧ (∀ k, k ≠ i → t.laneReplays[k]? = s.laneReplays[k]?) ∧
          t = { s with laneReplays := t.laneReplays }
        else exec (.laneLinkDown core port) s = .next t)

/-- A Ubeac port that fails carries nothing more, and a flit that is replayed shows in no state (14_link.md R400, R408, R410). -/
def PortsAndFlits : Prop :=
  (∀ (s : State) (port : BitVec 4), ∃ t, exec (.ubeacPortFail port) s = .next t ∧ t = { s with ubeacUp := t.ubeacUp } ∧
      ∀ k, k < 12 → t.ubeacUp.getLsbD k = (s.ubeacUp.getLsbD k && k != port.toNat)) ∧
  (∀ (s : State) (port : BitVec 4), exec (.flitReplay port) s = .next s)

/-- A millisecond with a die at 95 degrees or above lowers the thermal limit by 50 W and counts a step, and one with every die below 90
degrees raises it by 50 W, between 800 W and 1,800 W; the ceilings of the cores and the arbiters' targets follow, and nothing else changes (16_device.md R429; that
the events are guarded by TMAX is the model's choice, log 36). -/
def ThermalLimits : Prop :=
  (∀ s : State, 95000 ≤ s.counters.tmax.toNat → 850 ≤ s.thermal →
    ∃ t, exec .thermalThrottle s = .next t ∧ t.thermal = s.thermal - 50 ∧
      t.counters = { s.counters with steps := t.counters.steps } ∧
      t.counters.steps.toNat = min (2 ^ 16 - 1) (s.counters.steps.toNat + 1) ∧ (∀ j : Fin 64, ArbitersOnly s.harts[j] t.harts[j]) ∧
      t = { s with thermal := t.thermal, counters := t.counters, harts := t.harts, stallCeil := t.stallCeil, unitCeil := t.unitCeil }) ∧
  (∀ s : State, s.counters.tmax.toNat < 90000 → s.thermal < 1800 →
    ∃ t, exec .thermalRecover s = .next t ∧ t.thermal = s.thermal + 50 ∧ (∀ j : Fin 64, ArbitersOnly s.harts[j] t.harts[j]) ∧
      t = { s with thermal := t.thermal, harts := t.harts, stallCeil := t.stallCeil, unitCeil := t.unitCeil }) ∧
  (∀ s : State, s.counters.tmax.toNat < 95000 ∨ s.thermal < 850 → exec .thermalThrottle s = .next s) ∧
  (∀ s : State, 90000 ≤ s.counters.tmax.toNat ∨ 1800 ≤ s.thermal → exec .thermalRecover s = .next s)

end Sys2Proof.Claims

open Sys2Proof Sys2Proof.Machine Sys2Proof.Claims

/-- Words of every format decode to the instructions they stand for (02_encoding.md R46 to R60). -/
def Obligations.DecodeWords : Prop := ∀ x ∈ knownWords, decode x.1 = .ok x.2

/-- Decoding and encoding agree (02_encoding.md R46, R51, R52, R57 to R61): the bytes of a well-formed instruction decode to it and leave
what follows, for every operand; and words that decode are exactly the words of a well-formed instruction, so that no two words stand for
the same instruction and no reserved bit is dropped. -/
def Obligations.EncodeDecode : Prop :=
  (∀ (i : Instr) (e : Encoded) (rest : List Byte), i.wellFormed = true → encode i = some e →
    decodeBytes (e.bytes ++ rest) = some (.ok i, rest)) ∧
  (∀ (e : Encoded) (i : Instr), decode e = .ok i → i.wellFormed = true ∧ encode i = some e)

/-- What reset leaves (16_device.md R424 and the reset values that the files of spec/ give; zero where they give none, log 2 and log 3, is
the model's choice): no hart is resident, nothing is held or queued in any slot or queue, no byte of memory is listed and every one reads
as 0, the canonical form holds, TIMER is 0, the limits and the power stand at their reset values, every lane link and Ubeac port is up
with no failed transfer counted, and the routing table is empty. -/
def Obligations.ResetState : Prop :=
  (∀ i : Fin 64, State.reset.harts[i].run = .absent ∧ State.reset.harts[i].quiet = true ∧ State.reset.harts[i].srq = [] ∧
    State.reset.harts[i].bq = [] ∧ State.reset.harts[i].held = .empty ∧ State.reset.harts[i].outer = none ∧ State.reset.harts[i].dbg = none ∧
    State.reset.harts[i].unperformed = [] ∧ State.reset.harts[i].ftokens = []) ∧
  State.reset.laneUp = BitVec.allOnes 64 ∧ (∀ i : Fin 64, State.reset.laneReplays[i] = 0) ∧ State.reset.ubeacUp = BitVec.allOnes 12 ∧
  State.reset.routes = [] ∧ State.reset.agenda = [] ∧ State.reset.sent = [] ∧ State.reset.waiters = [] ∧ State.reset.mem = [] ∧ Memory.wf State.reset.mem ∧
  (∀ a, Memory.read State.reset.mem a = 0) ∧ (∀ p : Fin 24, State.reset.parts[p] = .reset) ∧
  (∀ f : Fin 129, State.reset.funcs[f].queues = [] ∧ State.reset.funcs[f].evq = none) ∧ State.reset.time = 0 ∧ State.reset.tasks = [] ∧ State.reset.saves = [] ∧
  State.reset.gates = [] ∧ State.reset.exports = [] ∧ State.reset.records = [] ∧ State.reset.fenced = [] ∧ State.reset.stopped = false ∧
  (∀ p : Fin 24, ∀ k : Fin 256, (State.reset.handles[p])[k].isOpen = false) ∧
  State.reset.watchdog = 2 ^ 20 ∧ State.reset.timeout = 2 ^ 24 ∧ State.reset.power = 1800 ∧ State.reset.thermal = 1800

/-- A step (02_encoding.md R46, R62; 05_hart.md R150; log 1): with nothing before it, the instruction whose word stands at the pc of the
hart that moves is executed, once what the harts have stored before is performed (04_memory_model.md R120; log 66), and a word that is none
raises `E_ILLEGAL` with the word in FADDR; an event that stands first on the agenda takes place; a stopped package with nothing on its
agenda stops by name. A step in which the package meets an error that no partition owns ends with the package standing still
(16_device.md R426; log 67). -/
def Obligations.StepRunsInstruction : Prop :=
  (∀ (s u : State) (enc : Encoded) (i : Instr), ReadyToRun s →
    fetchWord (atTurn s).hart.agent (atTurn s).hart.pc (atTurn s) = .ok enc u → decode enc = .ok i →
    step s = haltUnowned s (exec i (storesDone i u))) ∧
  (∀ (s u : State) (enc : Encoded) (e : DecodeError), ReadyToRun s →
    HasHandler u → u.hart.quiet = true → fetchWord (atTurn s).hart.agent (atTurn s).hart.pc (atTurn s) = .ok enc u →
    decode enc = .error e →
    ∃ t, step s = haltUnowned s (.next t) ∧ EntersHandler u t 0x01 0 u.hart.pc (encodedWord enc) u.hart.ld) ∧
  (∀ (s : State) (i : Instr) (rest : List Input), s.agenda = .event i :: rest → encode i = none →
    (atInput s rest).stopped = false → step s = haltUnowned s (exec i (atInput s rest))) ∧
  (∀ (s : State) (slot : Fin 64), s.harts[slot].unperformed = [] → s.perform slot = s) ∧
  (∀ s t : State, t.stopped = s.stopped → haltUnowned s (.next t) = .next t) ∧
  (∀ s : State, s.agenda = [] → s.stopped = true → step s = .fault .packageStopped)

/-- Every step keeps the canonical form of memory, whichever state it starts from. -/
def Obligations.StepKeepsMemory : Prop :=
  ∀ s t : State, Memory.wf s.mem → step s = .next t → Memory.wf t.mem

/-- The scalar integer instructions: those with a plain result, and the divisions. -/
def Obligations.ScalarArithmetic : Prop := Claims.ScalarResults ∧ Claims.ScalarDivision

/-- The branches, jumps, links and the counted loop. -/
def Obligations.ControlTransfers : Prop := Claims.Branches ∧ Claims.LinksAndLoops

/-- A translation changes nothing but the cached translations, those of an entry at work, and bits 6 and 7 (the places of A and D) of
some bytes of memory, which it can only set (04_memory_model.md R110); which bytes these are the statement does not say. -/
def Obligations.TranslationFrame : Prop :=
  ∀ (s t : State) (w : Agent) (acc : Access) (va : Word) (n : Nat) (locs : List Nat), Memory.wf s.mem →
    locate w acc va n s = .ok locs t → Translates s t ∧ Memory.wf t.mem

/-- The scalar loads and stores: where they find their bytes, they complete. -/
def Obligations.ScalarAccesses : Prop := Claims.ScalarLoads ∧ Claims.ScalarStores

/-- A scalar load, store or atomic at an address that is no multiple of its size raises `E_ALIGN` with FADDR the address, and accesses
nothing (04_memory_model.md R114). An atomic's scope code is clamped before (R119). That it does so also where the address would not
translate is the model's choice (log 54). -/
def Obligations.MisalignedAccess : Prop :=
  (∀ (s : State) (i : Instr) (n : Nat) (st : Bool) (a : BitVec 6) (im : BitVec 12), accessOf i = some (n, st, a, im) →
    s.hart.quiet = true → HasHandler s → (s.hart.sreg a + im.signExtend 64).toNat % n ≠ 0 →
    ∃ t, exec i s = .next t ∧ EntersHandler s t 0x02 0 s.hart.pc (s.hart.sreg a + im.signExtend 64) s.hart.ld) ∧
  (∀ (s : State) (i : Instr) (a : BitVec 6) (c : BitVec 3), atomicAt i = some (a, c) → Quiet s → HasHandler s →
    (s.hart.sreg a).toNat % 8 ≠ 0 →
    ∃ t, exec i s = .next t ∧ EntersHandler (clamped s c) t 0x02 0 s.hart.pc (s.hart.sreg a) s.hart.ld)

/-- A virtual address (04_memory_model.md R103) is the effective address modulo 2^64; one with a bit of [63:56] set raises `E_PAGE`, and
FADDR receives all 64 bits: for every access of every agent, and for the scalar loads and stores, whose hart the record names and which
change no byte where the hart stops in place, if none of its stores waits (log 66) or has timed out (R141). -/
def Obligations.AddressRange : Prop :=
  (∀ (s : State) (w : Agent) (acc : Access) (va : Word) (n : Nat), 2 ^ 56 ≤ va.toNat → locate w acc va n s = .error ⟨0x10, va, 0⟩ s) ∧
  (∀ (s : State) (i : Instr) (n : Nat) (st : Bool) (a : BitVec 6) (im : BitVec 12) (ea : Word), accessOf i = some (n, st, a, im) →
    Quiet s → s.hart.unperformed = [] → s.hart.status.getLsbD 6 = false →
    (ea.toNat : Int) = ((s.hart.sreg a).toNat + im.toInt) % 2 ^ 64 → ea.toNat % n = 0 → 2 ^ 56 ≤ ea.toNat →
    ∃ t r, exec i s = .next t ∧ r ∈ t.records ∧ r.fn = s.hart.fn ∧ (r.dw[0]).extractLsb' 8 8 = 0x10 ∧ r.dw[3] = ea ∧
      (s.freeSave s.hart.part = none → t.hart.run = .stopped ∧ t.hart.cause = 0x10 ∧ t.hart.faddr = ea ∧ t.hart.s = s.hart.s ∧
        t.hart.f = s.hart.f ∧ SameBytes s t))

/-- The scalar RMWs, `ldaq` and `strl` (05_hart.md R161): s[d] receives the old value, and the eight bytes the new one; a failed
`amocas` writes nothing. A release needs the queues drained. -/
def Obligations.Atomics : Prop :=
  (∀ (s u : State) (i : Instr) (f : Word → Option Word) (d a : BitVec 6) (c : BitVec 3) (r : BitVec 2) (locs : List Nat),
    amoOf s.hart i = some (f, d, a, c, r) → s.hart.acquiring = false → (r.getLsbD 1 = true → Quiet s) →
    (s.hart.sreg a).toNat % 8 = 0 → Finds (clamped s c) .atomic (s.hart.sreg a) 8 locs u → (∀ l ∈ locs, levelOf l ≠ .host) →
    Memory.wf u.mem → u.hart = (clamped s c).hart →
    ∃ t, exec i s = .next t ∧ WritesSM u t 4 d (BitVec.ofNat 64 (valueAt u locs)) 0 ∧
      match f (BitVec.ofNat 64 (valueAt u locs)) with
      | some x => StoresAt u t locs x.toNat
      | none => SameBytes u t) ∧
  (∀ (s u : State) (d a : BitVec 6) (c : BitVec 3) (locs : List Nat), s.hart.acquiring = false → (s.hart.sreg a).toNat % 8 = 0 →
    Finds (clamped s c) .load (s.hart.sreg a) 8 locs u →
    ∃ t, exec (.ldaq d a c) s = .next t ∧ WritesS u t 4 d (BitVec.ofNat 64 (valueAt u locs)) 0) ∧
  (∀ (s u : State) (a b : BitVec 6) (c : BitVec 3) (locs : List Nat), Quiet s → (s.hart.sreg a).toNat % 8 = 0 →
    Finds (clamped s c) .store (s.hart.sreg a) 8 locs u → Memory.wf u.mem →
    ∃ t, exec (.strl a b c) s = .next t ∧ StoresAt u t locs (s.hart.sreg b).toNat ∧
      t = { u.setHart { u.hart with pc := u.hart.pc + 4, ld := 0 } with mem := t.mem })

/-- Fences, drains and the wait for TIMER. -/
def Obligations.OrderingAndWaits : Prop := Claims.FencesAndDrains ∧ Claims.TimerWait

/-- `mvq`, `bqz` and `bqnz` (05_hart.md R158, R162): with the queues drained they take the oldest return entry of the queue they name,
and raise `E_QUEUE` where there is none or it came from another. The words of `bqz` and `bqnz` number the queues from 0. -/
def Obligations.ReturnQueues : Prop :=
  (∀ (s : State) (d : BitVec 6) (q : BitVec 2) (e : RetEntry) (es : List RetEntry), s.hart.quiet = true → s.hart.srq = e :: es → e.src = q →
    ∃ t, exec (.mvq d q) s = .next t ∧ WritesS (s.setHart { s.hart with srq := es }) t 4 d e.val 0) ∧
  (∀ (s : State) (want : Bool) (q : BitVec 2) (o : BitVec 20) (e : RetEntry) (es : List RetEntry), s.hart.quiet = true →
    s.hart.bq = e :: es → e.src = q + 1 →
    ∃ t, exec (if want then .bqnz q o else .bqz q o) s = .next t ∧
      GoesTo (s.setHart { s.hart with bq := es }) t
        (if (e.val ≠ 0 ↔ want = true) then s.hart.pc + 2 * o.signExtend 64 else s.hart.pc + 4)) ∧
  (∀ (s : State) (d : BitVec 6) (q : BitVec 2), s.hart.quiet = true → HasHandler s → (∀ e, s.hart.srq.head? = some e → e.src ≠ q) →
    ∃ t, exec (.mvq d q) s = .next t ∧ EntersHandler s t 0x05 0 s.hart.pc s.hart.faddr s.hart.ld) ∧
  (∀ (s : State) (want : Bool) (q : BitVec 2) (o : BitVec 20), s.hart.quiet = true → HasHandler s →
    (∀ e, s.hart.bq.head? = some e → e.src ≠ q + 1) →
    ∃ t, exec (if want then .bqnz q o else .bqz q o) s = .next t ∧ EntersHandler s t 0x05 0 s.hart.pc s.hart.faddr s.hart.ld)

/-- The state instructions, and the write of et that they refuse. -/
def Obligations.StateRegisters : Prop := Claims.StateInstructions ∧ Claims.IllegalRounding

/-- `trap` and an unarmed `brk` (05_hart.md R165, R167) enter the handler: EPC is pc + 4 for `trap`, whose `ld` is 0 by then, and the pc
for `brk`. An armed `brk` halts the hart for the debugger, which holds the next pc (13_context.md R391; log 32). -/
def Obligations.TrapAndBreak : Prop :=
  (∀ s, s.hart.quiet = true → HasHandler s → ∃ t, exec .trap s = .next t ∧ EntersHandler s t 0x06 0 (s.hart.pc + 4) s.hart.faddr 0) ∧
  (∀ s, s.hart.quiet = true → HasHandler s → s.hart.armed = false →
    ∃ t, exec .brk s = .next t ∧ EntersHandler s t 0x07 0 s.hart.pc s.hart.faddr s.hart.ld) ∧
  (∀ s, s.hart.armed = true → ∃ t, exec .brk s = .next t ∧ t.hart.run = .halted ∧
    (∃ d, t.hart.dbg = some d ∧ d.pc = s.hart.pc + 4 ∧ d.viq.length = s.hart.viq.length) ∧ t.hart.s = s.hart.s ∧
    t.hart.status = s.hart.status ∧ SameBytes s t)

/-- The cause codes that the table of 05_hart.md R149 sends to the handler enter it from any drained hart that has one: at the pc, but for
the cause of `trap`, which has retired by then (05_hart.md R167), and with CAUSE.SRC 6 for the causes that only a gate instruction has
(11_gate.md R330). A second trap inside the handler is a double trap and leaves CAUSE, EPC, ei, FADDR and what is held as the first trap
left them (05_hart.md R168), whether the hart stops in place or is saved. That the event enters with whichever cause it names is the model's
choice (log 1). -/
def Obligations.HartTrapEntry : Prop :=
  (∀ (s : State) (slot : Fin 64) (code : BitVec 8) (addr : Word), s.cur = slot → s.runs slot = true → s.hart.quiet = true → HasHandler s →
    toHandler code = true →
    ∃ t, exec (.hartTrap slot code addr) s = .next t ∧
      if code = 0x06 then EntersHandler s t 0x06 0 (s.hart.pc + 4) s.hart.faddr 0
      else EntersHandler s t code (if code.toNat ∈ [0x0B, 0x0C, 0x0D] then 6 else 0) s.hart.pc (faddrAfter s.hart code addr) s.hart.ld) ∧
  (∀ (s : State) (slot : Fin 64) (code : BitVec 8) (addr : Word), s.cur = slot → s.runs slot = true → Quiet s →
    s.hart.status.getLsbD 6 = true → toHandler code = true → s.hart.unperformed = [] →
    ∃ t, exec (.hartTrap slot code addr) s = .next t ∧
      (∃ r ∈ t.records, r.fn = s.hart.fn ∧ (r.dw[0]).extractLsb' 32 32 = s.hart.seq ∧ (r.dw[0]).extractLsb' 8 8 = 0x13 ∧ r.dw[5] = code.setWidth 64 ∧
        r.dw[2] = (if code = 0x06 then s.hart.pc + 4 else s.hart.pc) &&& 0x00FFFFFFFFFFFFFE) ∧
      (s.freeSave s.hart.part = none → t.hart.run = .stopped ∧ t.records.length = s.records.length + 1 ∧
        t.hart.cause = s.hart.cause ∧ t.hart.epc = s.hart.epc ∧ t.hart.ei = s.hart.ei ∧ t.hart.faddr = s.hart.faddr ∧
        t.hart.held = s.hart.held ∧ t.hart.pc = if code = 0x06 then s.hart.pc + 4 else s.hart.pc))

/-- `tret` (05_hart.md R166) outside a handler raises `E_OPERAND`; in one, with the handler's entries drained, the held queues and
return entries come back, the head of the queue that CAUSE names restarts from ei, and pc, `ld` and STATUS are as before the trap: a hart
whose handler a record had stopped is in that handler again, with what its first trap holds (R168; log 13). -/
def Obligations.TrapReturn : Prop :=
  (∀ s, s.hart.quiet = true → HasHandler s → ∃ t, exec .tret s = .next t ∧ EntersHandler s t 0x03 0 s.hart.pc s.hart.faddr s.hart.ld) ∧
  (∀ s, s.hart.quiet = true → s.hart.status.getLsbD 6 = true → (∀ e ∈ s.hart.held.viq, ordinary e = true) →
    ∃ t, exec .tret s = .next t ∧
      (if s.hart.status.getLsbD 5 then
        t.hart.viq = restarted s.hart 1 s.hart.held.viq ∧ t.hart.piq = restarted s.hart 2 s.hart.held.piq ∧
        t.hart.miq = restarted s.hart 3 s.hart.held.miq ∧ t.hart.pc = s.hart.held.pc
      else t.hart.viq = [] ∧ t.hart.piq = [] ∧ t.hart.miq = [] ∧ t.hart.pc = s.hart.epc) ∧
      t.hart.srq = s.hart.held.srq ∧ t.hart.bq = s.hart.held.bq ∧ t.hart.ld = s.hart.held.ld ∧
      t.hart.status.getLsbD 5 = s.hart.outer.any (·.2) ∧ t.hart.status.getLsbD 6 = s.hart.outer.isSome ∧
      (∀ k, k ≠ 5 → k ≠ 6 → t.hart.status.getLsbD k = s.hart.status.getLsbD k) ∧
      t = s.setHart { s.hart with viq := t.hart.viq, piq := t.hart.piq, miq := t.hart.miq, srq := t.hart.srq, bq := t.hart.bq,
                                  pc := t.hart.pc, ld := t.hart.ld, status := t.hart.status, outer := none,
                                  held := (s.hart.outer.map (·.1)).getD .empty } ∧ SameBytes s t)

/-- `setvl` (07_lane.md R204; 01_engines.md R24, R27, R28): a hart with a target keeps its lowest stalls or takes the lowest free ones of
its partition, COUNT and MAP say which, a stall it gives up stays with it while earlier VIQ entries are in the queue (07_lane.md R205, R230), et takes the descriptor, and VL and s[d] are the smaller of s[a] and the cap. With a target of
0 and the queues drained it loses its grant and raises `E_LEASE`. Where the core finds it fewer stalls than its MIN, what the core
has lent is taken back first (01_engines.md R29; 09_chain.md R271; the order is the model's, log 50). -/
def Obligations.SetVl : Prop :=
  (∀ s : State, min s.hart.target.toNat s.hart.minStalls ≤ (heldStalls s.hart.grant).length + (s.freeStalls s.hart).length → s.takeBack = s) ∧
  (∀ (s : State) (j : Fin 64), s.takeBack.harts[j] = s.harts[j] ∨
    ((∃ x ∈ s.harts[j].chain.lent, x.1 = s.hart.core) ∧ s.takeBack.harts[j] = s.harts[j].breakChain 3 0)) ∧
  (∀ (r s : State) (d a : BitVec 6) (im : BitVec 12) (own more : List Nat), s = r.takeBack → r.hart.target ≠ 0 →
    own = (List.range 16).filter (fun k => s.hart.grant.getLsbD (16 + k)) →
    more = (s.freeStalls s.hart).take (s.hart.target.toNat - own.length) → own ++ more ≠ [] →
    s.cur.val / 4 = s.hart.core → s.hart.run = .running →
    (∀ k, k < 16 → s.hart.chain.stalls.getLsbD k = true → k ∈ own.take s.hart.target.toNat ++ more) →
    ∃ t, exec (.setvl d a im) r = .next t ∧
      (∀ k, k < 16 → (t.hart.grant.getLsbD (16 + k) = true ↔ k ∈ own.take s.hart.target.toNat ++ more)) ∧
      (∀ k ∈ own, k ∉ own.take s.hart.target.toNat → (∃ e ∈ s.hart.viq, e.isRun = false ∧ e.seq < s.hart.nextSeq) →
        t.hart.leaves k = true) ∧
      (t.hart.grant.toNat % 32 = (own.take s.hart.target.toNat ++ more).length) ∧ t.hart.et = im.zeroExtend 64 ∧
      t.hart.vl.toNat = min (s.hart.sreg a).toNat
        ((own.take s.hart.target.toNat ++ more).length * 8 * (1024 / etSew (im.zeroExtend 64)) * 2 ^ ((im.extractLsb' 4 2).toNat)) ∧
      (∀ n, t.hart.sreg n = if n = d ∧ n ≠ 0 then t.hart.vl else s.hart.sreg n) ∧
      t = s.setHart { s.hart with grant := t.hart.grant, leaving := t.hart.leaving, et := t.hart.et, vl := t.hart.vl, s := t.hart.s, ld := d,
                                  pc := s.hart.pc + 4 } ∧
      SameBytes r t) ∧
  (∀ (s : State) (d a : BitVec 6) (im : BitVec 12), s.hart.target = 0 → s.hart.quiet = true → HasHandler s →
    ∃ t, exec (.setvl d a im) s = .next t ∧
      EntersHandler (s.setHart (s.hart.setGrant 0)) t 0x04 0 s.hart.pc s.hart.faddr s.hart.ld)

/-- Major 18 (05_hart.md R159, R160): each instruction completes with one rounding under et.RM (`rsr` acts as `rne` but in
`fcvt.ff.f32`, which draws and moves RNG on); flags are added to VSTAT, and no other register changes. -/
def Obligations.ScalarFloat : Prop :=
  (∀ (s : State) (i : Instr) (d : BitVec 5) (r : Nat × Word) (g : Word), floatResult s.hart i = some (d, r, g) →
    ∃ t, exec i s = .next t ∧ WritesF s t d (BitVec.ofNat 64 r.1) r.2 g) ∧
  (∀ (s : State) (i : Instr) (d : BitVec 6) (x fl : Word), floatTest s.hart i = some (d, x, fl) →
    ∃ t, exec i s = .next t ∧ WritesS s t 4 d x fl)

/-- The gate instructions on gates and handles that pass their checks. -/
def Obligations.GateInstructions : Prop := Claims.Gates ∧ Claims.GateHandles

/-- The checks of a gate instruction (11_gate.md R330): the first that fails, at the instruction or at a change of the gate while it
waits (R343, R347), is the cause, with CAUSE.SRC 6, and nothing of a gate but the hart's own place among the posts that wait, and nothing
of a handle or register, changes. `gopen` checks the rights asked for, then that the table has a free slot, then that there is such a gate
and that the partition's entry gives those rights (R331). -/
def Obligations.GateChecks : Prop :=
  (∀ (s : State) (i : Instr) (a : BitVec 6) (right : BitVec 3) (code : BitVec 8) (x : Word), gateForm i = some (a, right) → Quiet s →
    HasHandler s → (waitsAtGate i = true → Unjudged s) → gateFails s (s.hart.sreg a) right = some (code, x) →
    ∃ t, exec i s = .next t ∧ EntersHandler (offTolls s) t code 6 s.hart.pc x s.hart.ld) ∧
  (∀ (s : State) (i : Instr) (w : GateWait) (code : BitVec 8) (x : Word), waitsAtGate i = true → Quiet s → HasHandler s →
    s.hart.gateWait = some w → w.verdict = some (.failed code x) →
    ∃ t, exec i s = .next t ∧ EntersHandler (offTolls s) t code 6 s.hart.pc x s.hart.ld) ∧
  (∀ (s : State) (d a b : BitVec 6), s.hart.quiet = true → HasHandler s → s.hart.sreg b = 0 ∨ 8 ≤ (s.hart.sreg b).toNat →
    ∃ t, exec (.gopen d a b) s = .next t ∧ EntersHandler (offTolls s) t 0x03 6 s.hart.pc s.hart.faddr s.hart.ld) ∧
  (∀ (s : State) (d a b : BitVec 6) (hp : s.hart.part.toNat < 24), s.hart.quiet = true → HasHandler s → s.hart.sreg b ≠ 0 →
    (s.hart.sreg b).toNat < 8 → (∀ k : Fin 256, (s.handles[s.hart.part.toNat])[k].isOpen = true) →
    ∃ t, exec (.gopen d a b) s = .next t ∧ EntersHandler (offTolls s) t 0x0D 6 s.hart.pc (s.hart.sreg a) s.hart.ld) ∧
  (∀ (s : State) (d a b : BitVec 6) (k : Fin 256) (hp : s.hart.part.toNat < 24), s.hart.quiet = true → HasHandler s → s.hart.sreg b ≠ 0 →
    (s.hart.sreg b).toNat < 8 → (s.handles[s.hart.part.toNat])[k].isOpen = false →
    (∀ g e, (s.hart.sreg a).toNat < 4096 → s.gate ((s.hart.sreg a).setWidth 12) = some g → g.state ≠ .revoked →
      g.entry s.hart.part = some e → e.rights &&& (s.hart.sreg b).setWidth 3 ≠ (s.hart.sreg b).setWidth 3) →
    ∃ t, exec (.gopen d a b) s = .next t ∧ EntersHandler (offTolls s) t 0x0B 6 s.hart.pc (s.hart.sreg a) s.hart.ld) ∧
  (∀ (s : State) (a : BitVec 6), s.hart.quiet = true → HasHandler s → s.handleSlot s.hart.part (s.hart.sreg a) = none →
    ∃ t, exec (.gclose a) s = .next t ∧ EntersHandler (offTolls s) t 0x0D 6 s.hart.pc (s.hart.sreg a) s.hart.ld)

/-- Farms, signals, launches from a hart, and the end of a hart. -/
def Obligations.TaskInstructions : Prop := Claims.FarmsAndSignals ∧ Claims.HartEnd

/-- `ctxsave`, `ctxload` and `dbgwin` (13_context.md R387 to R390): the selected registers stand at s[a] in order, or come from there
and no other register changes; a selector with a reserved bit raises `E_OPERAND`, a misaligned address `E_ALIGN`; `dbgwin` reads a
doubleword of what a trap holds, 0 where nothing is held or the address is in no held range, and with its write flag changes that
doubleword or, where the write is rejected, nothing. -/
def Obligations.ContextImages : Prop :=
  (∀ (s u : State) (a b : BitVec 6), Quiet s → (s.hart.sreg b).toNat < 2 ^ 49 → (s.hart.sreg a).toNat % 64 = 0 →
    storeDws s.hart.agent (s.hart.sreg a) (imageWords s.hart (s.hart.sreg b)) s = .ok () u →
    ∃ t, exec (.ctxsave a b) s = .next t ∧ t = u.setHart { s.hart with pc := s.hart.pc + 4, ld := 0 }) ∧
  (∀ (s u : State) (a b : BitVec 6) (ws : List Word), Quiet s → (s.hart.sreg b).toNat < 2 ^ 49 → (s.hart.sreg a).toNat % 64 = 0 →
    loadDws s.hart.agent (s.hart.sreg a) (imageWords s.hart (s.hart.sreg b)).length s = .ok ws u →
    ∃ t, exec (.ctxload a b) s = .next t ∧ imageWords t.hart (s.hart.sreg b) = ws ∧
      (∀ n : Fin 32, (s.hart.sreg b).getLsbD n = false → t.hart.v[n] = s.hart.v[n]) ∧
      (∀ n : Fin 16, (s.hart.sreg b).getLsbD (32 + n) = false → t.hart.c[n] = s.hart.c[n]) ∧
      (∀ n : Fin 96, (s.hart.sreg b).getLsbD 48 = false ∨ n = 0 → t.hart.m[n] = s.hart.m[n]) ∧
      t = u.setHart { s.hart with v := t.hart.v, m := t.hart.m, c := t.hart.c, vLive := t.hart.vLive, mLive := t.hart.mLive,
                                  cLive := t.hart.cLive, pc := s.hart.pc + 4, ld := 0 }) ∧
  (∀ (s : State) (i : Instr) (a b : BitVec 6), i = .ctxsave a b ∨ i = .ctxload a b → s.hart.quiet = true → HasHandler s →
    2 ^ 49 ≤ (s.hart.sreg b).toNat ∨ (s.hart.sreg a).toNat % 64 ≠ 0 →
    ∃ t, exec i s = .next t ∧
      if 2 ^ 49 ≤ (s.hart.sreg b).toNat then EntersHandler s t 0x03 8 s.hart.pc s.hart.faddr s.hart.ld
      else EntersHandler s t 0x02 8 s.hart.pc (s.hart.sreg a) s.hart.ld) ∧
  (∀ (s : State) (d a b : BitVec 6), s.hart.status.getLsbD 5 = false ∨ (s.hart.sreg a).extractLsb' 32 31 ≠ 0 ∨
      heldCell s.hart.held ((s.hart.sreg a).toNat % 2 ^ 32) = none →
    ∃ t, exec (.dbgwin d a b) s = .next t ∧ WritesS s t 4 d 0 0) ∧
  (∀ (s : State) (d a b : BitVec 6) (c : HeldCell), s.hart.status.getLsbD 5 = true → (s.hart.sreg a).extractLsb' 32 31 = 0 →
    heldCell s.hart.held ((s.hart.sreg a).toNat % 2 ^ 32) = some c →
    ∃ t held, exec (.dbgwin d a b) s = .next t ∧ WritesS (s.setHart { s.hart with held := held }) t 4 d (s.hart.held.read c) 0 ∧
      held = if (s.hart.sreg a).getLsbD 63 then (s.hart.held.write s.hart.retRoom c (s.hart.sreg b)).getD s.hart.held else s.hart.held)

/-- Element-wise instructions and `vidx`. -/
def Obligations.LaneResults : Prop := Claims.LaneElementwise ∧ Claims.LaneIndex

/-- What the lane and matrix engines raise where a check at issue fails. -/
def Obligations.EngineChecks : Prop := Claims.LaneChecks ∧ Claims.MatrixChecks

/-- `vcvt` (07_lane.md R221 to R223; 03_arithmetic.md R87, R88, R91): element k is converted, under `rsr` with the draw of its index
from the generator as it stood, which then moves on by vl draws; the wider side uses the group of et, the narrower one its share. For
a vl above what the group holds this is the model's choice (log 63). -/
def Obligations.LaneConvert : Prop :=
  ∀ (s : State) (d a : BitVec 5) (dst src : BitVec 4) (m : BitVec 7), Free s (.vcvt d a dst src m) →
    let h := s.hart
    let wd := tyWidth dst.toNat
    let ws := tyWidth src.toNat
    let g := etGroup h.et
    let gd := if wd < ws then max 1 (g * wd / ws) else g
    let gs := if ws < wd then max 1 (g * ws / wd) else g
    let drawn := etRm h.et = 4 ∧ cvtStochastic src.toNat dst.toNat = true
    let r (k : Nat) : Nat × Word :=
      cvtElem src.toNat dst.toNat (if etRm h.et = 4 then .rsr (draw (if drawn then h.rng else 0) k) else rmOf (etRm h.et)) (etSat h.et)
        (h.velem ws a.toNat k)
    cvtOk src.toNat dst.toNat = true → etSew h.et = max wd ws → d.toNat % gd = 0 → a.toNat % gs = 0 → spanOk m.toNat (lanes h) = true →
    (if wd = ws then d = a ∨ overlaps d.toNat gd a.toNat gs = false else overlaps d.toNat gd a.toNat gs = false) →
    ∃ t, exec (.vcvt d a dst src m) s = .next t ∧
      Past s t { h with v := t.hart.v, vLive := t.hart.vLive, vstat := t.hart.vstat,
                        rng := if drawn then h.rng + h.vl * 0x9E3779B97F4A7C15 else h.rng } ∧
      GroupIs h t.hart wd d.toNat gd
        (tailed (etTp h.et) (lanes h) 0 fun k =>
          if h.mbit m.toNat k then some (r k).1 else if etMp h.et then some 0 else none) ∧
      FlagsOf h t.hart (lanes h) (h.mbit m.toNat) fun k => (r k).2

/-- Instructions that write masks. -/
def Obligations.MasksAndCompares : Prop := Claims.LaneCompares ∧ Claims.MaskInstructions

/-- The scalar results of the lane engine (07_lane.md R225): `vext`, `mpop` and `mfind` return a word through the SRQ, `mbany` and
`mball` a bit through the BQ, tagged with the VIQ; no vector, mask or scalar register changes. For a vl above what a group or span holds this is the
model's choice (log 63). -/
def Obligations.LaneScalarResults : Prop :=
  (∀ (s : State) (a : BitVec 5) (b : BitVec 6), Free s (.vext a b) → a.toNat % etGroup s.hart.et = 0 →
    (s.hart.sreg b).toNat < lanes s.hart →
    let x := s.hart.velem (etSew s.hart.et) a.toNat (s.hart.sreg b).toNat
    ∃ t, exec (.vext a b) s = .next t ∧ Past s t { s.hart with srq := s.hart.srq ++
      [⟨if tySigned (etTy s.hart.et) then (BitVec.ofNat (etSew s.hart.et) x).signExtend 64 else BitVec.ofNat 64 x, 1⟩] }) ∧
  (∀ (s : State) (m : BitVec 7), Free s (.mpop m) → spanOk m.toNat (lanes s.hart) = true →
    ∃ t, exec (.mpop m) s = .next t ∧ Past s t { s.hart with srq := s.hart.srq ++
      [⟨BitVec.ofNat 64 (activeBits s.hart m.toNat (lanes s.hart)).length, 1⟩] }) ∧
  (∀ (s : State) (m : BitVec 7), Free s (.mfind m) → spanOk m.toNat (lanes s.hart) = true →
    ∃ t, exec (.mfind m) s = .next t ∧ Past s t { s.hart with srq := s.hart.srq ++
      [⟨((firstBit s.hart m.toNat (lanes s.hart)).map (BitVec.ofNat 64)).getD (BitVec.allOnes 64), 1⟩] }) ∧
  (∀ (s : State) (m : BitVec 7), Free s (.mbany m) → spanOk m.toNat (lanes s.hart) = true →
    ∃ t, exec (.mbany m) s = .next t ∧ Past s t { s.hart with bq := s.hart.bq ++
      [⟨boolWord ((List.range (lanes s.hart)).any (s.hart.mbit m.toNat)), 1⟩] }) ∧
  (∀ (s : State) (m : BitVec 7), Free s (.mball m) → spanOk m.toNat (lanes s.hart) = true →
    ∃ t, exec (.mball m) s = .next t ∧ Past s t { s.hart with bq := s.hart.bq ++
      [⟨boolWord ((List.range (lanes s.hart)).all (s.hart.mbit m.toNat)), 1⟩] })

/-- Reductions and scans. -/
def Obligations.ReductionsAndScans : Prop := Claims.Reductions ∧ Claims.Scans

/-- Instructions that move elements between places. -/
def Obligations.Permutes : Prop := Claims.SlidesAndPermutes ∧ Claims.CompressAndExpand

/-- The accesses of one element (06_port.md R171, R172; 03_arithmetic.md R78; 04_memory_model.md R115): an element of whole bytes is
aligned, and moves those bytes; one of 4 bits is a half of its byte, by its number, and a store of it keeps the other half. That a misaligned
element raises `E_ALIGN` also where its address would not translate is the model's choice (log 54). -/
def Obligations.ElementAccess : Prop :=
  (∀ (s u : State) (ag : Agent) (w : Nat) (va : Word) (i x : Nat) (locs : List Nat), w ∈ [8, 16, 32, 64] →
    (va.toNat % (w / 8) ≠ 0 → loadAt ag w va i s = .error ⟨0x02, va, 0⟩ s ∧ storeAt ag w va i x s = .error ⟨0x02, va, 0⟩ s) ∧
    (va.toNat % (w / 8) = 0 → u.hart.late = none → (∀ l ∈ locs, u.badAt l = false) →
      (locate ag .load va (w / 8) s = .ok locs u → loadAt ag w va i s = .ok (valueAt u locs) u) ∧
      (locate ag .store va (w / 8) s = .ok locs u → locs.Nodup → Memory.wf u.mem →
        ∃ t, storeAt ag w va i x s = .ok () t ∧ t = { u with mem := t.mem } ∧ StoresAt u t locs x))) ∧
  (∀ (s u : State) (ag : Agent) (va : Word) (i x l : Nat), u.hart.late = none → u.badAt l = false → Memory.wf u.mem →
    (locate ag .load va 1 s = .ok [l] u →
      loadAt ag 4 va i s = .ok (if i % 2 = 0 then (Memory.read u.mem l).toNat % 16 else (Memory.read u.mem l).toNat / 16) u) ∧
    (locate ag .store va 1 s = .ok [l] u →
      ∃ t, storeAt ag 4 va i x s = .ok () t ∧ t = { u with mem := t.mem } ∧
        (∀ a, Memory.read t.mem a = if a = l then (if i % 2 = 0 then (Memory.read u.mem l &&& 0xF0) ||| BitVec.ofNat 8 (x % 16)
          else (Memory.read u.mem l &&& 0x0F) ||| BitVec.ofNat 8 (x % 16 * 16)) else Memory.read u.mem a)))

/-- The vector loads, whole and first-fault. -/
def Obligations.VectorLoadForms : Prop := Claims.VectorLoads ∧ Claims.FirstFault

/-- The vector stores (06_port.md R171, R173, R176, R178): where every active element is stored without a fault, in ascending order, the
store completes with exactly those stores; no register changes, and memory changes at the places stored to alone (and by A and D bits
of table entries, 04_memory_model.md R110). For a vl above what the group holds this is the model's choice (log 63). -/
def Obligations.VectorStores : Prop :=
  ∀ (s u : State) (i : Instr) (x : RowForm) (ls : List Nat), storeRow s.hart i = some x → Free s i → rowChecks s.hart x false →
    let h := s.hart
    let is := activeBits h x.m.toNat (lanes h)
    working (rowProbes h x .probeStore is >>= fun _ =>
      storePlaces h.agent (etSew h.et) x.addr id (h.velem (etSew h.et) x.v.toNat) is) s = .ok ls u →
    ∃ t, exec i s = .next t ∧ Past u t h ∧ (Memory.wf s.mem → StoresOnly s t ls)

/-- Streams: binding and transfers. -/
def Obligations.Streams : Prop := Claims.StreamBinding ∧ Claims.StreamTransfers

/-- The copies (06_port.md R195 to R198): `acopy` on a token that is not BUSY starts a copy, or is DONE at once for no bytes; `cwait` on
a DONE token completes, on a FAULT token raises the copy's cause and address the first time, and waits on a BUSY one; `ctest` returns
whether the token is not BUSY. Overlapping ranges and lengths of 2^40 and above raise `E_OPERAND`. -/
def Obligations.Copies : Prop :=
  (∀ (s : State) (a b c : BitVec 6) (k : BitVec 4), Free s (.acopy a b c k) → (s.hart.sreg c).toNat < 2 ^ 40 →
    rangesMeet (s.hart.sreg a) (s.hart.sreg b) (s.hart.sreg c).toNat = false → (s.hart.copy k).state ≠ .busy →
    ∃ t, exec (.acopy a b c k) s = .next t ∧ Past s t { s.hart with copies := t.hart.copies } ∧
      t.hart.copy k = { Token.reset with state := if s.hart.sreg c = 0 then .done else .busy, dst := s.hart.sreg a, src := s.hart.sreg b,
                                         len := s.hart.sreg c } ∧
      ∀ j, j ≠ k → t.hart.copy j = s.hart.copy j) ∧
  (∀ (s : State) (a b c : BitVec 6) (k : BitVec 4), Free s (.acopy a b c k) → HasHandler s →
    2 ^ 40 ≤ (s.hart.sreg c).toNat ∨ rangesMeet (s.hart.sreg a) (s.hart.sreg b) (s.hart.sreg c).toNat = true →
    ∃ t, exec (.acopy a b c k) s = .next t ∧ EngineTraps s t (.acopy a b c k) 2 0x03 2 s.hart.faddr) ∧
  (∀ (s : State) (k : BitVec 4), Free s (.cwait k) → s.hart.lateStores = [] → (s.hart.copy k).state = .done →
    ∃ t, exec (.cwait k) s = .next t ∧ Past s t s.hart) ∧
  (∀ (s : State) (k : BitVec 4), Free s (.cwait k) → s.hart.lateStores = [] → (s.hart.copy k).state = .fault → HasHandler s →
    toHandler (s.hart.copy k).cause = true →
    ∃ t, exec (.cwait k) s = .next t ∧ EngineTraps s t (.cwait k) 2 (s.hart.copy k).cause 2 (s.hart.copy k).addr) ∧
  (∀ (s : State) (k : BitVec 4), Free s (.cwait k) → s.hart.lateStores = [] → (s.hart.copy k).state = .busy →
    ∃ t, exec (.cwait k) s = .next t ∧ t.hart.piq.map (·.instr) = [.cwait k] ∧ t.hart.pc = s.hart.pc + 4 ∧ t.hart.copies = s.hart.copies) ∧
  (∀ (s : State) (k : BitVec 4), Free s (.ctest k) →
    ∃ t, exec (.ctest k) s = .next t ∧
      Past s t { s.hart with bq := s.hart.bq ++ [⟨boolWord ((s.hart.copy k).state ≠ .busy), 2⟩] })

/-- What the matrix engine moves to and from accumulators. -/
def Obligations.MatrixTransfers : Prop := Claims.MatrixLoads ∧ Claims.MatrixStore

/-- The multiplies (10_matrix.md R295, R303, R305, R306, R310, R315; 03_arithmetic.md R99, R100): with a legal control word and operands
that are ready, the K-groups that the skip mask leaves are taken in ascending order into the accumulator, the skip mask is used up, and
the buffers of operand nodes are released. For integers each element gains the sum of its products, modulo 2^32. -/
def Obligations.MatrixMultiply : Prop :=
  ∀ (s u : State) (i : Instr) (sp : Sparse) (c : BitVec 4) (a b x : BitVec 6) (pa pb : Word) (gs : List (Group × Group)),
    mulForm i = some (sp, c, a, b, x) → Free s i → HasUnit s →
    let h := s.hart
    let ka := h.sreg a
    let kb := h.sreg b
    let k := h.sreg x
    let skip : Word := if h.skipV then h.skip else 0
    let same := refNode ka = true ∧ refNode kb = true ∧ refNum ka = refNum kb
    mulOk sp k = true → mulRefs h sp ka kb k = none → refBase h ka 0 = some pa → refBase h kb (if same then 1 else 0) = some pb →
    (∀ r ∈ [ka, kb], refNode r = true → (h.onode (refNum r)).owed = none) →
    working (mulOperands h sp ka kb k pa pb skip) s = .ok gs u →
    let out := gs.foldl (fun (acc : List Nat × Word) p =>
      let r := mulGroup (rmOf (etRm h.et)) p.1 p.2 acc.1
      (r.1, acc.2 ||| r.2)) ((List.range 1024).map (tileAt h c), 0)
    ∃ t, exec i s = .next t ∧
      Past u t { h with c := t.hart.c, cLive := t.hart.cLive, vstat := h.vstat ||| out.2, skipV := false,
                         onodes := (h.releaseRefs ka kb).onodes } ∧
      TileIs h t.hart c (fun n => (out.1[n]?).getD 0) ∧
      ((∀ p ∈ gs, tyFmt p.1.ty = none ∧ tyFmt p.2.ty = none) → ∀ n, n < 1024 →
        (tileAt t.hart c n : Int) = ((tileAt h c n : Int) + (gs.map fun p =>
          groupInt p.1.ty p.2.ty ((p.1.lines[n / 32]?).getD []) ((p.2.lines[n % 32]?).getD [])).sum) % 2 ^ 32)

/-- `mskip` and `mshape`. -/
def Obligations.SkipAndUnits : Prop := Claims.SkipMask ∧ Claims.UnitRequest

/-- The operand nodes (10_matrix.md R313, R314, R318): `mnode` arms a node that is neither RUNNING nor HELD with a legal descriptor, raises
`E_ALIGN` or `E_OPERAND` for another and leaves the node as it was, and waits while the node is RUNNING or HELD; `mfill` starts an ARMED
one and leaves a started one alone; `mwait` frees a DONE one, passes an IDLE one, waits for a RUNNING or HELD one and raises `E_OPERAND`
on an ARMED one; `mstat` returns the state. With no other entry in the queues `mnode` has no earlier access to wait for
(04_memory_model.md R132). -/
def Obligations.OperandNodes : Prop :=
  (∀ (s u : State) (c : BitVec 4) (a : BitVec 6) (xs : List Word) (d : Vector Word 8), Free s (.mnode c a) →
    (s.hart.onode c).state ∉ [.running, .held] → (s.hart.sreg a).toNat % 8 = 0 →
    working (loadDws s.hart.agent (s.hart.sreg a) 8) s = .ok xs u → d.toList = xs → nodeOk d = true → u.bufsHomed s.hart.agent d = true →
    ∃ t, exec (.mnode c a) s = .next t ∧ Past u t { s.hart with onodes := t.hart.onodes } ∧
      t.hart.onode c = ⟨.armed, d, 0, 0, 0, none, none⟩ ∧ ∀ k, k ≠ c → t.hart.onode k = s.hart.onode k) ∧
  (∀ (s u : State) (c : BitVec 4) (a : BitVec 6) (xs : List Word) (d : Vector Word 8), Free s (.mnode c a) → HasHandler s →
    (s.hart.onode c).state ∉ [.running, .held] → (s.hart.sreg a).toNat % 8 = 0 →
    working (loadDws s.hart.agent (s.hart.sreg a) 8) s = .ok xs u → d.toList = xs → nodeOk d = false ∨ u.bufsHomed s.hart.agent d = false →
    ∃ t, exec (.mnode c a) s = .next t ∧ EngineTraps u t (.mnode c a) 3 0x03 5 s.hart.faddr) ∧
  (∀ (s : State) (c : BitVec 4) (a : BitVec 6), Free s (.mnode c a) → HasHandler s → (s.hart.onode c).state ∉ [.running, .held] →
    (s.hart.sreg a).toNat % 8 ≠ 0 →
    ∃ t, exec (.mnode c a) s = .next t ∧ EngineTraps s t (.mnode c a) 3 0x02 5 (s.hart.sreg a)) ∧
  (∀ (s : State) (i : Instr) (c : BitVec 4), ((∃ a, i = .mnode c a) ∨ i = .mwait c) → Free s i →
    (s.hart.onode c).state ∈ [.running, .held] →
    ∃ t, exec i s = .next t ∧ t.hart.miq.map (·.instr) = [i] ∧ t.hart.pc = s.hart.pc + 4 ∧ t.hart.onodes = s.hart.onodes ∧ SameBytes s t) ∧
  (∀ (s : State) (c : BitVec 4), Free s (.mwait c) → HasHandler s → (s.hart.onode c).state = .armed →
    ∃ t, exec (.mwait c) s = .next t ∧ EngineTraps s t (.mwait c) 3 0x03 5 s.hart.faddr) ∧
  (∀ (s : State) (c : BitVec 4), Free s (.mfill c) → (s.hart.onode c).state ≠ .idle →
    ∃ t, exec (.mfill c) s = .next t ∧ Past s t { s.hart with onodes := t.hart.onodes } ∧
      t.hart.onode c = (if (s.hart.onode c).state = .armed then { s.hart.onode c with state := .running } else s.hart.onode c) ∧
      ∀ k, k ≠ c → t.hart.onode k = s.hart.onode k) ∧
  (∀ (s : State) (c : BitVec 4), Free s (.mfill c) → HasHandler s → (s.hart.onode c).state = .idle →
    ∃ t, exec (.mfill c) s = .next t ∧ EngineTraps s t (.mfill c) 3 0x03 5 s.hart.faddr) ∧
  (∀ (s : State) (c : BitVec 4), Free s (.mwait c) → (s.hart.onode c).state ∈ [.idle, .done] →
    ∃ t, exec (.mwait c) s = .next t ∧ Past s t { s.hart with onodes := t.hart.onodes } ∧
      t.hart.onode c = (if (s.hart.onode c).state = .done then .reset else s.hart.onode c) ∧
      ∀ k, k ≠ c → t.hart.onode k = s.hart.onode k) ∧
  (∀ (s : State) (c : BitVec 4), Free s (.mstat c) → (s.hart.onode c).used < 2 ^ 32 →
    ∃ t x, exec (.mstat c) s = .next t ∧ Past s t { s.hart with srq := s.hart.srq ++ [⟨x, 3⟩] } ∧
      bits x 62 2 = ((List.range 3).filter fun k => s.hart.units.getLsbD k).length ∧
      bits x 59 3 = (match (s.hart.onode c).state with | .idle => 0 | .armed => 1 | .running => 2 | .held => 3 | .done => 4) ∧
      bits x 55 4 = (s.hart.onode c).full.toNat ∧ bits x 33 22 = 0 ∧ (x.getLsbD 32 = s.hart.skipV) ∧
      bits x 0 32 = if (s.hart.onode c).state = .idle then 0 else (s.hart.onode c).used)

/-- `mprune`: its accesses, and what it keeps. -/
def Obligations.Pruning : Prop := Claims.Prune ∧ Claims.PruneSelection

/-- The loads and stores of the gather fabric. -/
def Obligations.FabricAccesses : Prop := Claims.FabricLoads ∧ Claims.FabricScatter

/-- The vector atomics and `fas`. -/
def Obligations.FabricAtomics : Prop := Claims.VectorAtomics ∧ Claims.FetchAddScan

/-- The accumulation windows (08_gather_fabric.md R255 to R257): `awopen` opens a closed window within the hart's 16 KiB; an update folds
each active element into the copy of its number modulo 16; `accmerge` folds the copies into memory and closes, and `awdiscard` closes. -/
def Obligations.Windows : Prop :=
  (∀ (s : State) (a b : BitVec 6) (k : BitVec 3), Free s (.awopen a b k) →
    let h := s.hart
    let esz := etSew h.et / 8
    let n := (h.sreg b).toNat
    (h.window k).isOpen = false → classI (etTy h.et) = true ∨ classF (etTy h.et) = true → esz = 4 ∨ esz = 8 → 0 < n → n % esz = 0 →
    (h.sreg a).toNat % esz = 0 → ((h.windows.toList.filter (·.isOpen)).map (·.bytes)).sum + n ≤ 16384 →
    ∃ t, exec (.awopen a b k) s = .next t ∧ Past s t { h with windows := t.hart.windows } ∧
      t.hart.window k = ⟨true, h.sreg a, n, BitVec.ofNat 4 (etTy h.et), 0, []⟩ ∧ ∀ j, j ≠ k → t.hart.window j = h.window j) ∧
  (∀ (s : State) (i : Instr) (op : RedOp) (code : BitVec 2) (k : BitVec 3) (v x : BitVec 5) (m : BitVec 7),
    windowForm i = some (op, code, k, v, x, m) → Free s i → fabricChecks s.hart v x m false →
    let h := s.hart
    let win := h.window k
    let act := activeBits h m.toNat (lanes h)
    let idx (e : Nat) : Nat := h.velem (etSew h.et) x.toNat e
    win.isOpen = true → win.typ.toNat = etTy h.et → win.op = 0 ∨ win.op = code → (∀ e ∈ act, idx e < win.words) →
    let r := act.foldl (fun (acc : Window × Word) e =>
      let q := acc.1.update (redStep op (etTy h.et) (rmOf (etRm h.et))) (4096 * (e % 16) + idx e) (h.velem (etSew h.et) v.toNat e)
      (q.1, acc.2 ||| q.2)) (win, 0)
    ∃ t, exec i s = .next t ∧ Past s t { h with windows := t.hart.windows, cmask := 0, vstat := h.vstat ||| r.2 } ∧
      t.hart.window k = { r.1 with op := code } ∧ ∀ j, j ≠ k → t.hart.window j = h.window j) ∧
  (∀ (w : Window) (f : Nat → Nat → Nat × Word) (key x j : Nat),
    (w.update f key x).1.copies.lookup j = if j = key then some (match w.copies.lookup key with
      | none => BitVec.ofNat 64 x
      | some old => BitVec.ofNat 64 (f old.toNat x).1) else w.copies.lookup j) ∧
  (∀ (s u : State) (k : BitVec 3) (ls : List Nat) (fl : Word), Free s (.accmerge k) → (s.hart.window k).isOpen = true →
    working (mergeAll s.hart.agent (s.hart.window k) (rmOf (etRm s.hart.et))) s = .ok (ls, fl) u →
    ∃ t, exec (.accmerge k) s = .next t ∧ Past u t { s.hart with windows := t.hart.windows, vstat := s.hart.vstat ||| fl } ∧
      t.hart.window k = .reset ∧ (∀ j, j ≠ k → t.hart.window j = s.hart.window j) ∧ (Memory.wf s.mem → StoresOnly s t ls)) ∧
  (∀ (s : State) (k : BitVec 3), Free s (.accmerge k) → (s.hart.window k).isOpen = false →
    ∃ t, exec (.accmerge k) s = .next t ∧ Past s t s.hart) ∧
  (∀ (s : State) (k : BitVec 3), Free s (.awdiscard k) →
    ∃ t, exec (.awdiscard k) s = .next t ∧ Past s t { s.hart with windows := t.hart.windows } ∧ t.hart.window k = .reset ∧
      ∀ j, j ≠ k → t.hart.window j = s.hart.window j)

/-- The node instructions of the gather fabric: what each completes with, and the empty mask. -/
def Obligations.FabricNodes : Prop := Claims.FabricLoadsBlocks ∧ Claims.FabricStarts ∧ Claims.FabricStops ∧ Claims.FabricDrains ∧ Claims.FabricStatus ∧ Claims.FabricEmptyMask

/-- `chform` and `chrun`. -/
def Obligations.ChainRuns : Prop := Claims.ChainForm ∧ Claims.ChainRun

/-- The other chain instructions with no run attached (09_chain.md R279 to R283): `chwait` finishes; `chbreak` pins a run and breaks
one that stands, with cause 6; `chfree` leaves NONE; `chstat`, `chidx`, `qrd` and `qlen` answer through the SRQ; `qwr` adds the low bits
of s[a]; `qrd` of an empty queue waits; what the tables exclude raises `E_OPERAND`. Beside an attached run (09_chain.md R278) each enters
the queue behind it; once the run, which is tried first, cannot move, `chstat`, `chidx`, `qlen`, `qrd`, `qwr` and `chbreak` do the same
from there, and `chwait` waits until the run has detached. -/
def Obligations.ChainControl : Prop :=
  (∀ (s : State) (i : Instr) (r : Entry), behindForm i = true → s.engines = false → s.hart.viq = [r] → r.isRun = true → s.hart.piq = [] →
    s.hart.miq = [] → (givesSrq i = true → s.hart.srq.length < 16) →
    ∃ t e, exec i s = .next t ∧ t.hart.viq = [r, e] ∧ e.instr = i ∧ e.raw = none ∧ e.prog = 0 ∧ e.et = s.hart.et ∧
      (∀ a, i = .chidx a ∨ (∃ x, i = .qwr x a) → e.op0 = s.hart.sreg a) ∧
      t = s.setHart { s.hart with viq := [r, e], pc := s.hart.pc + 4, ld := 0, nextSeq := s.hart.nextSeq + 1 }) ∧
  (∀ (s u : State) (e : Entry), Behind s u e → e.instr = .chwait → s.takeViq = .waits u) ∧
  (∀ (s u : State) (e : Entry), Behind s u e → e.instr = .chstat →
    ∃ x, StatusWord u.hart.chain x ∧ GoneBehind s u { u.hart with srq := u.hart.srq ++ [⟨x, 1⟩] }) ∧
  (∀ (s u : State) (e : Entry) (a : BitVec 6) (p : Nat), Behind s u e → e.instr = .chidx a → u.hart.chain.state ≠ .none →
    u.hart.chain.p[e.op0.toNat]? = some p → GoneBehind s u { u.hart with srq := u.hart.srq ++ [⟨BitVec.ofNat 64 p, 1⟩] }) ∧
  (∀ (s u : State) (e : Entry) (x : BitVec 5), Behind s u e → e.instr = .qlen x → u.hart.chain.state ≠ .none →
    GoneBehind s u { u.hart with srq := u.hart.srq ++ [⟨BitVec.ofNat 64 (u.hart.chain.q[x.toNat]'x.isLt).length, 1⟩] }) ∧
  (∀ (s u : State) (e : Entry) (x : BitVec 5) (v : Word) (vs : List Word), Behind s u e → e.instr = .qrd x → u.hart.chain.state ≠ .none →
    u.hart.chain.outQueue x.toNat = true → u.hart.chain.q[x.toNat]'x.isLt = v :: vs →
    GoneBehind s u { u.hart with
      chain := { u.hart.chain with q := u.hart.chain.q.set x.toNat vs x.isLt }
      srq := u.hart.srq ++ [⟨asWord (etTy u.hart.chain.et) (v.toNat % 2 ^ etSew u.hart.chain.et), 1⟩] }) ∧
  (∀ (s u : State) (e : Entry) (x : BitVec 5), Behind s u e → e.instr = .qrd x → u.work = none → u.hart.chain.state ≠ .none →
    u.hart.chain.outQueue x.toNat = true → u.hart.chain.q[x.toNat]'x.isLt = [] → s.takeViq = .waits u) ∧
  (∀ (s u : State) (e : Entry) (x : BitVec 5) (a : BitVec 6), Behind s u e → e.instr = .qwr x a → u.hart.chain.state ≠ .none →
    u.hart.chain.inQueue x.toNat = true → (u.hart.chain.q[x.toNat]'x.isLt).length < 512 → u.hart.lateStores = [] →
    u.hart.piq = [] → u.hart.miq = [] →
    GoneBehind s u { u.hart with chain := { u.hart.chain with q := u.hart.chain.q.set x.toNat (u.hart.chain.q[x.toNat]'x.isLt ++
      [BitVec.ofNat 64 (e.op0.toNat % 2 ^ etSew (if u.hart.chain.ran then u.hart.chain.et else e.et))]) x.isLt } }) ∧
  (∀ (s u : State) (e : Entry), Behind s u e → e.instr = .chbreak → u.hart.chain.state ∈ [.standing, .held, .temporal] →
    ∃ n, GoneBehind s u { u.hart with chain := if u.hart.chain.state = .temporal then { u.hart.chain with pin := true } else
      { u.hart.chain with
        state := .temporal, breaks := min 65535 (u.hart.chain.breaks + 1), cause := 6, slot := 0, lent := [], links := 0
        pin := true, brokeAt := u.hart.chain.p, notBefore := n } }) ∧
  (∀ s, Free s .chwait → ∃ t, exec .chwait s = .next t ∧ Past s t s.hart) ∧
  (∀ s, Free s .chfree → ∃ t, exec .chfree s = .next t ∧ Past s t { s.hart with chain := .reset }) ∧
  (∀ s, Free s .chbreak → ∃ t, exec .chbreak s = .next t ∧
    Past s t { s.hart with chain := match s.hart.chain.state with
      | .standing | .held => { s.hart.chain with
          state := .temporal, breaks := min 65535 (s.hart.chain.breaks + 1), cause := 6, slot := 0, lent := [], links := 0
          pin := true, brokeAt := s.hart.chain.p, notBefore := t.hart.chain.notBefore }
      | .temporal => { s.hart.chain with pin := true }
      | .none | .idle => s.hart.chain }) ∧
  (∀ s, Free s .chstat → ∃ t x, exec .chstat s = .next t ∧ StatusWord s.hart.chain x ∧
    Past s t { s.hart with srq := s.hart.srq ++ [⟨x, 1⟩] }) ∧
  (∀ (s : State) (a : BitVec 6) (p : Nat), Free s (.chidx a) → s.hart.chain.state ≠ .none →
    s.hart.chain.p[(s.hart.sreg a).toNat]? = some p →
    ∃ t, exec (.chidx a) s = .next t ∧ Past s t { s.hart with srq := s.hart.srq ++ [⟨BitVec.ofNat 64 p, 1⟩] }) ∧
  (∀ (s : State) (x : BitVec 5) (v : Word) (vs : List Word), Free s (.qrd x) → s.hart.chain.state ≠ .none →
    s.hart.chain.outQueue x.toNat = true → s.hart.chain.q[x.toNat]'x.isLt = v :: vs →
    ∃ t, exec (.qrd x) s = .next t ∧
      Past s t { s.hart with
        chain := { s.hart.chain with q := s.hart.chain.q.set x.toNat vs x.isLt }
        srq := s.hart.srq ++ [⟨asWord (etTy s.hart.chain.et) (v.toNat % 2 ^ etSew s.hart.chain.et), 1⟩] }) ∧
  (∀ (s : State) (x : BitVec 5), Free s (.qrd x) → s.hart.chain.state ≠ .none → s.hart.chain.outQueue x.toNat = true →
    s.hart.chain.q[x.toNat]'x.isLt = [] →
    ∃ t, exec (.qrd x) s = .next t ∧ t.hart.viq.map (·.instr) = [.qrd x] ∧ t.hart.pc = s.hart.pc + 4 ∧ t.hart.srq = s.hart.srq ∧
      t.hart.chain = s.hart.chain) ∧
  (∀ (s : State) (x : BitVec 5) (a : BitVec 6), Free s (.qwr x a) → s.hart.chain.state ≠ .none → s.hart.chain.inQueue x.toNat = true →
    (s.hart.chain.q[x.toNat]'x.isLt).length < 512 → s.hart.lateStores = [] →
    ∃ t, exec (.qwr x a) s = .next t ∧
      Past s t { s.hart with chain := { s.hart.chain with q := s.hart.chain.q.set x.toNat (s.hart.chain.q[x.toNat]'x.isLt ++
        [BitVec.ofNat 64 ((s.hart.sreg a).toNat % 2 ^ etSew (if s.hart.chain.ran then s.hart.chain.et else s.hart.et))]) x.isLt } }) ∧
  (∀ (s : State) (x : BitVec 5), Free s (.qlen x) → s.hart.chain.state ≠ .none →
    ∃ t, exec (.qlen x) s = .next t ∧
      Past s t { s.hart with srq := s.hart.srq ++ [⟨BitVec.ofNat 64 (s.hart.chain.q[x.toNat]'x.isLt).length, 1⟩] }) ∧
  (∀ (s : State) (i : Instr), Free s i → HasHandler s →
    (∃ a, i = .chidx a ∧ (s.hart.chain.state = .none ∨ s.hart.chain.p.length ≤ (s.hart.sreg a).toNat)) ∨
    (∃ x, i = .qrd x ∧ (s.hart.chain.state = .none ∨ s.hart.chain.outQueue x.toNat = false)) ∨
    (∃ x a, i = .qwr x a ∧ (s.hart.chain.state = .none ∨ s.hart.chain.inQueue x.toNat = false)) ∨
    (∃ x, i = .qlen x ∧ s.hart.chain.state = .none) →
    ∃ t, exec i s = .next t ∧ EngineTraps s t i 1 0x03 4 s.hart.faddr)

/-- The link engine's instructions (14_link.md R403 to R406): an operation puts its operands into a token that is not BUSY, and one of
length 0 is DONE at once; misuse raises `E_OPERAND` with CAUSE.SRC 9; `lwait` finishes on DONE, raises what a FAULT token holds and
waits on BUSY; `lfence` finishes once no token is BUSY; `ltest` answers through the BQ. -/
def Obligations.LinkTokens : Prop :=
  (∀ (s : State) (i : Instr) (op : BitVec 4) (a b c : BitVec 6) (k : BitVec 3), linkForm i = some (op, a, b, c, k) → Free s i →
    linkGood op (s.hart.sreg a) (s.hart.sreg b) (s.hart.sreg c) → (s.hart.links[k.toNat]'k.isLt).state ≠ .busy →
    ∃ t, exec i s = .next t ∧ Past s t { s.hart with links := s.hart.links.set k.toNat (startedLink s.hart op a b c) k.isLt }) ∧
  (∀ (s : State) (i : Instr) (op : BitVec 4) (a b c : BitVec 6) (k : BitVec 3), linkForm i = some (op, a, b, c, k) → Free s i →
    HasHandler s → ¬ linkGood op (s.hart.sreg a) (s.hart.sreg b) (s.hart.sreg c) →
    ∃ t, exec i s = .next t ∧ EngineTraps s t i 2 0x03 9 s.hart.faddr) ∧
  (∀ (s : State) (k : BitVec 3), Free s (.lwait k) → (s.hart.links[k.toNat]'k.isLt).state = .done →
    ∃ t, exec (.lwait k) s = .next t ∧ Past s t s.hart) ∧
  (∀ (s : State) (k : BitVec 3), Free s (.lwait k) → (s.hart.links[k.toNat]'k.isLt).state = .fault → HasHandler s →
    toHandler (s.hart.links[k.toNat]'k.isLt).cause = true →
    ∃ t, exec (.lwait k) s = .next t ∧
      EngineTraps s t (.lwait k) 2 (s.hart.links[k.toNat]'k.isLt).cause 9 (s.hart.links[k.toNat]'k.isLt).addr) ∧
  (∀ (s : State) (k : BitVec 3), Free s (.lwait k) → (s.hart.links[k.toNat]'k.isLt).state = .busy →
    ∃ t, exec (.lwait k) s = .next t ∧ t.hart.piq.map (·.instr) = [.lwait k] ∧ t.hart.pc = s.hart.pc + 4 ∧ t.hart.links = s.hart.links) ∧
  (∀ s, Free s .lfence → (∀ k : Fin 8, s.hart.links[k].state ≠ .busy) → ∃ t, exec .lfence s = .next t ∧ Past s t s.hart) ∧
  (∀ (s : State) (k : BitVec 3), Free s (.ltest k) → ∃ t, exec (.ltest k) s = .next t ∧
    Past s t { s.hart with bq := s.hart.bq ++ [⟨boolWord ((s.hart.links[k.toNat]'k.isLt).state ≠ .busy), 2⟩] })

/-- The contract of a standing run (04_memory_model.md R102; 06_port.md R183 to R185; 09_chain.md R274, R284, R288): a byte of tile memory or
TCM lies in the bank and the row that the rules give; a lane row that reaches host memory breaks the contract, one of a port stage with
a latency class that touches two rows of a bank does, and one that reaches nothing it may not keeps it where its stage has no class or
no bank is touched in two rows; a stage whose next lane row breaks the contract breaks the run before that row, with cause 4 and its
slot, and the run is pinned where it broke so in the first lane row since it re-formed for a break of that stage. Which rows lose a bank
to another hart is the event's (log 37). -/
def Obligations.ChainContract : Prop :=
  (∀ core bank row byte : Nat, core < 16 → bank < 256 → row < 6144 → byte < 4 →
    bankOf (tileLoc core bank row byte) = some (256 * core + bank, row)) ∧
  (∀ core o : Nat, core < 16 → o < 0x80000 → bankOf (0x8100000000 + core * 0x80000 + o) = some (4096 + 16 * core + o / 8 % 16, o / 128)) ∧
  (∀ (s : State) (classed : Bool) (acc : Access) (n : Nat) (as : List Word) (xs : List (Word × List Nat)),
    s.elemsReach acc n as = some xs →
    ((∃ p ∈ xs, ∃ l ∈ p.2, levelOf l = .host) → s.rowKeeps classed acc n as = false) ∧
    ((∃ p ∈ xs, ∃ q ∈ xs, ∃ l ∈ p.2, ∃ m ∈ q.2, ∃ b r r', bankOf l = some (b, r) ∧ bankOf m = some (b, r') ∧ r ≠ r') →
      s.rowKeeps true acc n as = false) ∧
    ((∀ p ∈ xs, ∀ l ∈ p.2, s.offContract s.hart p.1 l = false) →
      classed = false ∨
        (∀ p ∈ xs, ∀ q ∈ xs, ∀ l ∈ p.2, ∀ m ∈ q.2, ∀ b r r', bankOf l = some (b, r) → bankOf m = some (b, r') → r = r') →
      s.rowKeeps classed acc n as = true)) ∧
  (∀ (s : State) (slot start hi top : Nat) (rest : List Nat) (x : Stage), s.nextRow slot = some (x, start, hi, top) →
    (chainStages s.hart.chain.words)[slot]? = some x ∧ s.hart.chain.pOf slot < top ∧
    (s.rowBreaks x slot s.hart.chain.et (s.hart.chain.inputs slot start hi top) = true →
      runConvoy (slot :: rest) s = .ok true (s.contractBreak (BitVec.ofNat 6 slot)))) ∧
  (∀ (s : State) (stage : BitVec 6), s.hart.chain.state = .standing →
    let ch := s.hart.chain
    s.contractBreak stage = s.setHart { s.hart with chain := { ch with
      state := .temporal, breaks := min 65535 (ch.breaks + 1), cause := 4, slot := stage, lent := [], links := 0, brokeAt := ch.p
      notBefore := (ch.minP / max 1 ch.l + 1) * ch.l
      pin := ch.pin || decide (ch.cause = 4 ∧ ch.slot = stage ∧ ch.reformed = true ∧
        ch.pOf stage.toNat < ch.formedAt + ch.rowOf stage.toNat) } })

/-- Commands from a queue, commands with an answer, and commands turned away. -/
def Obligations.CommandForms : Prop := Claims.RingCommands ∧ Claims.AnsweredCommands ∧ Claims.CommandChecks

/-- The commands on queues, event queues, roots, cached translations and gates. -/
def Obligations.QueueAndGateCommands : Prop := Claims.QueueAndRootCommands ∧ Claims.GateCommands

/-- The commands on power, limits, counters, partitions, exports, the reset of a function and attestation (16_device.md R427 to R430;
15_partitions.md R411 to R421). That PART_SET lifts the fence of its partition is the model's reading (log 29), and the standards of the
attestation's signature are those of log 9. -/
def Obligations.DeviceCommands : Prop :=
  (∀ (s : State) (x : Cmd), Issued s x 0x50 →
    if 800 ≤ x.a.toNat ∧ x.a.toNat ≤ 1800 then
      x.reply = 0 → x.signal = 0 → ∃ u, Answers (.powerSet x) x s u 0 0 ∧ u.power = x.a.toNat ∧ (∀ j : Fin 64, ArbitersOnly s.harts[j] u.harts[j]) ∧
        u = { s with power := u.power, harts := u.harts, stallCeil := u.stallCeil, unitCeil := u.unitCeil }
    else Answers (.powerSet x) x s s 0x1B 0) ∧
  (∀ (s : State) (x : Cmd), Issued s x 0x51 →
    if (x.a = 0 ∨ (2 ^ 12 ≤ x.a.toNat ∧ x.a.toNat ≤ 2 ^ 32)) ∧ (x.b = 0 ∨ (2 ^ 16 ≤ x.b.toNat ∧ x.b.toNat ≤ 2 ^ 40)) then
      Answers (.limitSet x) x s { s with
        watchdog := if x.a = 0 then s.watchdog else x.a.toNat
        timeout := if x.b = 0 then s.timeout else x.b.toNat } 0 0
    else Answers (.limitSet x) x s s 0x1B 0) ∧
  (∀ (s u : State) (x : Cmd), Issued s x 0x52 → storeDws (s.fnAgent x.fn) x.a s.counterDws s = .ok () u →
    Answers (.counters x) x s u 0 0) ∧
  (∀ (s u : State) (x : Cmd) (ws : List Word) (h : x.a.toNat < 24), Issued s x 0x40 →
    loadDws (s.fnAgent x.fn) x.b 96 s = .ok ws u → s.partBusy x.a.toNat = false → partitionOk ws = true →
    (∀ j : Fin 24, j.val ≠ x.a.toNat → (partitionOf ws).clashes s.parts[j] = false) →
    (∀ e ∈ s.exports, e.exporter.toNat = x.a.toNat → (partitionOf ws).ownsRange e.base.toNat e.bytes.toNat = true) →
    x.reply = 0 → x.signal = 0 → ∃ v, Answers (.partSet x) x s v 0 0 ∧ v.parts = s.parts.set x.a.toNat (partitionOf ws) ∧
      v.fenced = s.fenced.filter (fun f => f.toNat ≠ x.a.toNat) ∧ (∀ j : Fin 64, ArbitersOnly s.harts[j] v.harts[j]) ∧
      v = { u with mem := v.mem, ecc := v.ecc, parts := v.parts, fenced := v.fenced, harts := v.harts, stallCeil := v.stallCeil,
                   unitCeil := v.unitCeil }) ∧
  (∀ (s : State) (x : Cmd), Issued s x 0x41 → x.a.toNat < 24 → x.b.toNat < 24 → x.d ≠ 0 →
    ((s.part (x.a.setWidth 5)).getD .reset).ownsRange x.c.toNat x.d.toNat = true →
    if 256 ≤ s.exports.length then Answers (.exportRange x) x s s 0x18 0
    else Answers (.exportRange x) x s { s with exports := s.exports ++ [⟨x.a.setWidth 5, x.b.setWidth 5, x.c, x.d⟩] } 0 0) ∧
  (∀ (s : State) (x : Cmd), Issued s x 0x41 → x.a.toNat < 24 → x.b.toNat < 24 → x.d = 0 →
    if s.exports.any (fun e => e.exporter = x.a.setWidth 5 ∧ e.importer = x.b.setWidth 5 ∧ e.base = x.c) then
      Answers (.exportRemove x) x s (keepsPages { s with exports := s.exports.filter fun e =>
        ¬ (e.exporter = x.a.setWidth 5 ∧ e.importer = x.b.setWidth 5 ∧ e.base = x.c) } fun c => c.part = x.b.setWidth 5) 0 0
    else Answers (.exportRemove x) x s s 0x19 0) ∧
  (∀ (s : State) (x : Cmd), Issued s x 0x42 → x.a ≠ 0 → x.a.toNat ≤ 128 →
    s.partAppliedOf (x.a.setWidth 8) = [] →
    x.reply = 0 → x.signal = 0 → ∃ u, Answers (.vfReset x) x s u 0 0 ∧ (∀ k ∈ s.tasks, k.fn = x.a.setWidth 8 → TaskGone u k.seq) ∧
      (∀ f, u.funcs[x.a.toNat]? = some f → f.queues = [] ∧ f.evq = none) ∧ (∀ r ∈ u.records, r.fn ≠ x.a.setWidth 8) ∧
      (∀ p, s.partOfFn (x.a.setWidth 8) = some p → ∀ t, u.handles[p.toNat]? = some t → ∀ k : Fin 256, t[k].isOpen = false) ∧
      ((∀ v ∈ s.saves, ∀ k ∈ s.tasks, k.fn = x.a.setWidth 8 → v.ctx.seq ≠ k.seq) → u.mem = s.mem) ∧ u.parts = s.parts ∧ u.sent = s.sent) ∧
  (∀ (s u v w : State) (x : Cmd) (bs : List Nat), Issued s x 0x43 →
    (List.range 32).mapM (fun k => loadElem (s.fnAgent x.fn) (x.a + BitVec.ofNat 64 k) 1) s = .ok bs u →
    let body := u.reportBody x.fn (bs.map (BitVec.ofNat 8))
    storeDws (s.fnAgent x.fn) x.b (bytesDws 32 body) u = .ok () v →
    storeDws (s.fnAgent x.fn) (x.b + 0x100) (bytesDws 982 (identitySignature body)) v = .ok () w →
    Answers (.attest x) x s w 0 0)

/-- The commands on tasks, contexts, partitions that move, and the debugger. -/
def Obligations.TaskAndDebugCommands : Prop := Claims.TaskCommands ∧ Claims.DebugCommands

/-- Scans of user queues and their packets. -/
def Obligations.QueuesAndPackets : Prop := Claims.QueueScans ∧ Claims.RingPackets

/-- Placement, admission, pre-emption, the save and the restore of a context, and the delivery of records (12_command.md
R358 to R360, R367; 01_engines.md R25, R41; 13_context.md R376 to R385). The model's choices here are in logs 12 (the
order of a save area), 68 (CMASK of a fabric access entry that had not finished), 23 (which hart is admitted first), 27 (the stalls of a restored hart), 48 (what stands in a slot's header), 59 (a saved hart and the waiting ones) and 1 (an event
whose condition does not hold changes nothing). -/
def Obligations.TaskEvents : Prop :=
  (∀ (s : State) (seq : BitVec 32) (cores : List (BitVec 4)) (start : BitVec 4) (k : Task) (tiles : List TileRegion),
    s.task seq = some k → k.status = 0x01 →
    (∀ x ∈ s.tasks.takeWhile (fun x => x.seq ≠ seq), x.fn = k.fn → x.queue = k.queue → x.status ≠ 0x01) → s.placeable k = true →
    s.coresOk k (cores.map BitVec.toNat) start.toNat = true → cores ≠ [] →
    s.taskHomes k ((cores.map BitVec.toNat).headD 0) start.toNat = some tiles →
    let k' : Task := { k with tiles := tiles, cores := cores, status := 0x02, why := 0, places := cores.map .queued }
    ∃ t, exec (.placement seq cores start) s = .next t ∧ t.tasks = s.tasks.map (fun x => if x.seq = seq then k' else x) ∧
      t.waiters = s.waiters ++ cores.zipIdx.map (fun (c, j) => ⟨seq, BitVec.ofNat 6 j, c, s.time⟩) ∧
      (k.reply = 0 → t = { s with tasks := t.tasks, waiters := t.waiters })) ∧
  (∀ (s : State) (core : BitVec 4) (w : Waiter) (slot : Fin 64) (k : Task), s.firstAnswered core = none → s.firstWaiter core = some w →
    s.freeHart core = some slot → s.task w.seq = some k → s.fits core.toNat k.part k.min.toNat = (true, true) →
    ∃ t, exec (.hartAdmit core) s = .next t ∧
      Starts t.harts[slot] k (((s.part k.part).map (·.host)).getD false) w.index slot s.time ∧
      (∀ j : Fin 64, j ≠ slot → ArbitersOnly s.harts[j] t.harts[j]) ∧
      t.waiters = s.waiters.filter (fun x => ¬ (x.seq = w.seq ∧ x.index = w.index)) ∧
      t.tasks = s.tasks.map (fun x => if x.seq = w.seq then { x with
        start := if x.start = 0 then s.time else x.start, places := x.places.set w.index.toNat (.resident slot) } else x) ∧ t.mem = s.mem) ∧
  (∀ (s : State) (slot : Fin 64) (trigger : BitVec 2) (idx : BitVec 16), s.preempts slot trigger = true → s.harts[slot].lateStores = [] →
    s.freeSave s.harts[slot].part = some idx →
    ∃ t, exec (.preEmption slot trigger) s = .next t ∧ t.harts[slot] = { s.harts[slot] with run := .preempted } ∧
      (∀ j : Fin 64, j ≠ slot → ArbitersOnly s.harts[j] t.harts[j]) ∧
      (∃ v, t.saves = s.saves ++ [v] ∧ v.part = s.harts[slot].part ∧ v.idx = idx ∧ v.state = .saving ∧ v.dest = slot ∧ v.waiting = false ∧
        let h := s.harts[slot].unhold
        v.ctx = { h.breakChain 2 0 with gateWait := none, leaving := [], cmask := (h.viq.head?.map fun e => stoppedMask e h.cmask).getD h.cmask }) ∧
      t.mem = s.mem ∧ t.tasks = s.tasks) ∧
  (∀ (s : State) (slot : Fin 64) (trigger : BitVec 2), s.preempts slot trigger = true → s.harts[slot].lateStores = [] →
    s.freeSave s.harts[slot].part = none → trigger ≠ 0 →
    ∃ t, exec (.preEmption slot trigger) s = .next t ∧ TaskGone t s.harts[slot].seq) ∧
  (∀ (s a u : State) (slot : Fin 64) (v : SaveSlot), s.saves.find? (fun v => v.dest = slot ∧ v.state = .saving) = some v →
    poolWrite (s.poolAgent v.part v.ctx.fn) (s.slotBase v.part v.idx) [(0, ((headerDws v.ctx s.time 1 0)[0]?).getD 0)] s = (none, a) →
    poolWrite (s.poolAgent v.part v.ctx.fn) (s.slotBase v.part v.idx)
      ((saveSections v.ctx s.time).flatMap (fun (off, xs) => xs.zipIdx.map fun (x, i) => (off + 8 * i, x)) ++
        (headerDws v.ctx s.time 2 0).zipIdx.map fun (x, i) => (8 * i, x)) a = (none, u) →
    ∃ t, exec (.contextSave slot) s = .next t ∧ t.mem = u.mem ∧ t.harts[slot] = .reset ∧
      (∀ x ∈ t.saves, x.part = v.part → x.idx = v.idx → x.state = .saved) ∧
      t.tasks = s.tasks.map (fun x => if x.seq = v.ctx.seq then { x with places := x.places.set v.ctx.index.toNat (.saved v.idx) } else x)) ∧
  (∀ (s w x : State) (part : BitVec 5) (idx : BitVec 16) (slot : Fin 64) (v v' : SaveSlot) (hd : List Word) (hd0 : Word) (r y : Reader)
    (img : List (Nat × List Word)), s.save part idx = some v → s.mayRestore v slot = true → s.homesFor v (slot.val / 4) = some w →
    v' = { v with state := .restoring, dest := slot, core := BitVec.ofNat 4 (slot.val / 4) } →
    let w1 := w.modSave part idx (fun _ => v')
    let w2 : State := { w1 with harts := w1.harts.set slot (v'.placeholder (w1.physFree (slot.val / 4)) slot) }
    poolSection (w2.poolAgent v.part v.ctx.fn) (w2.slotBase v.part v.idx) 0 32 ⟨w2, v.got, []⟩ = (.ok hd, r) →
    hd[0]? = some hd0 → hd0.toNat / 2 ^ 32 = 0x41454448 → hd0.toNat / 2 ^ 24 % 2 ^ 8 = 1 →
    ((hd[1]?).getD 0).toNat % 2 ^ 32 = v.ctx.seq.toNat →
    poolWrite (w2.poolAgent v.part v.ctx.fn) (w2.slotBase v.part v.idx) [(0, withSlotState hd0 4)] r.s = (none, x) →
    poolBody (w2.poolAgent v.part v.ctx.fn) (w2.slotBase v.part v.idx) hd { r with s := x } = (.ok img, y) →
    ∃ t, exec (.contextRestore part idx slot) s = .next t ∧ t.harts[slot].seq = v.ctx.seq ∧ t.harts[slot].run ≠ .absent ∧
      t.harts[slot].scope.toNat / 2 ^ 27 % 2 ^ 5 = v.part.toNat ∧ (((hd[9]?).getD 0).toNat % 4 = 0 → t.harts[slot].units = 0) ∧ t.harts[slot].chain.state ≠ .standing ∧
      (∀ x ∈ t.saves, ¬ (x.part = v.part ∧ x.idx = v.idx)) ∧ (∀ j : Fin 64, j ≠ slot → ArbitersOnly s.harts[j] t.harts[j])) ∧
  (∀ (s u : State) (fn : BitVec 8) (again : Bool) (e : EventQueue) (r : HeldRecord), s.eventQueue fn = some e →
    s.records.find? (fun r => s.recordDest r = fn) = some r → e.faulted = again → writeRecord (s.fnAgent fn) e r s = .ok true u →
    ∃ t, exec (if again then .recordRetry fn else .recordDeliver fn) s = .next t ∧ t.sent = s.sent ++ [.msix fn e.vector] ∧
      t.eventQueue fn = some { e with next := e.next + 1, faulted := false } ∧ t.records = s.records.erase r ∧
      (fn ≠ 0 → t.pfRecords = u.pfRecords) ∧
      t = { u with funcs := t.funcs, records := t.records, sent := t.sent, pfRecords := t.pfRecords })

/-- The events that let a waiting instruction go on (05_hart.md R167; 11_gate.md R327, R335; 12_command.md R365): the
hart whose `gpost`, `gwait` or `sigwait` waits executes it again, TIMER reaches the target of a `waitt`; and at a
multiple of 4,000 cycles the tolls refill. That an event whose condition does not hold changes nothing is the model's
choice (log 1), and a refill is reached by moving time on (log 39). -/
def Obligations.WaitEvents : Prop :=
  (∀ s : State, exec .tollRefill s = .next { s with
    time := s.time + (4000 - BitVec.ofNat 64 (s.time.toNat % 4000)), gates := s.gates.map refilled }) ∧
  (∀ (s u : State) (slot : Fin 64) (w : BitVec 32) (i : Instr), s.runs slot = true → s.harts[slot].stepping = 0 →
    fetchWord s.harts[slot].agent s.harts[slot].pc (atSlot s slot) = .ok (.full w) u → decode (.full w) = .ok i →
    (∀ a b, i = .gpost a b → (∃ g ∈ s.gates, slot ∈ g.posts) → ∃ t, exec i u = .next t ∧ EndsIn s (.gpostAdmit slot) t) ∧
    (∀ d a b, i = .gpostPayload d a b → (∃ g ∈ s.gates, slot ∈ g.posts) → ∃ t, exec i u = .next t ∧ EndsIn s (.gpostAdmit slot) t) ∧
    (∀ d a b, i = .gwait d a b → ∃ t, exec i u = .next t ∧ EndsIn s (.gwaitWake slot) t) ∧
    (∀ a b, i = .sigwait a b → ∃ t, exec i u = .next t ∧ EndsIn s (.sigwaitMet slot) t) ∧
    (∀ a, i = .waitt a → ∃ t, exec (.waittExpire slot) s = .next t ∧ t.harts[slot].pc = s.harts[slot].pc + 4 ∧ t.harts[slot].ld = 0 ∧
      t.harts[slot].s = s.harts[slot].s ∧ t.time.toNat = max s.time.toNat (s.harts[slot].sreg a).toNat ∧ SameBytes u t ∧
      t.cur = s.cur ∧ ∀ j : Fin 64, j ≠ slot → t.harts[j] = s.harts[j]))

/-- Events of a hart's engines that trap, finish or fail a token, bring an element, or time a request out (01_engines.md
R20; 04_memory_model.md R141; 06_port.md R194 to R199; 14_link.md R404, R408). That an event whose condition does not hold changes nothing is the model's choice (log 1), and that a store which timed out
has written its bytes (log 60). -/
def Obligations.EngineEvents : Prop :=
  (∀ (s : State) (slot : Fin 64) (q : BitVec 2) (code : BitVec 8) (addr : Word) (e : Entry), s.runs slot = true →
    (s.harts[slot].queueOf q).head? = some e → (q = 1 → s.harts[slot].attached = false) → toHandler code = true →
    HasHandler (atSlot s slot) →
    ∃ t, EndsIn s (.engineTrap slot q code addr) t ∧ EntersEngine (atSlot s slot) t q code (entrySrc e.instr) e
      (if code = 0x01 then s.harts[slot].faddr else faddrAfter s.harts[slot] code addr)) ∧
  (∀ (s v : State) (slot : Fin 64) (k : BitVec 4) (x : Nat) (tk : Token), s.runs slot = true → s.harts[slot].copy k = tk → tk.state = .busy →
    workingOn (copyBytes s.harts[slot].agent tk tk.x (tk.len.toNat - tk.x)) (atSlot s slot) = ((x, none), v) →
    ∃ t, EndsIn s (.copyComplete slot k) t ∧
      t = v.setHart { v.hart with copies := v.hart.copies.set k.toNat { tk with state := .done, x := x } k.isLt }) ∧
  (∀ (s v : State) (slot : Fin 64) (k : BitVec 4) (x : Nat) (tk : Token) (e : Fail), s.runs slot = true → s.harts[slot].copy k = tk →
    tk.state = .busy → workingOn (copyBytes s.harts[slot].agent tk tk.x (tk.len.toNat - tk.x)) (atSlot s slot) = ((x, some e), v) → e.code ≠ 0x12 →
    ∃ t, EndsIn s (.copyFault slot k) t ∧
      t = v.setHart { v.hart with copies := v.hart.copies.set k.toNat { tk with state := .fault, x := x, cause := e.code, addr := e.addr } k.isLt }) ∧
  (∀ (s v : State) (slot : Fin 64) (k : BitVec 3) (x : Nat) (tk : Token), s.runs slot = true → s.harts[slot].links[k.toNat]'k.isLt = tk →
    tk.state = .busy → workingOn (linkElems s.harts[slot].agent tk tk.x (tk.unit.2 - tk.x)) (atSlot s slot) = ((x, none), v) →
    ∃ t, EndsIn s (.linkOpComplete slot k) t ∧
      t = v.setHart { v.hart with links := v.hart.links.set k.toNat { tk with state := .done, x := x } k.isLt }) ∧
  (∀ (s v : State) (slot : Fin 64) (k : BitVec 3) (x : Nat) (tk : Token) (e : Fail), s.runs slot = true →
    s.harts[slot].links[k.toNat]'k.isLt = tk → tk.state = .busy →
    workingOn (linkElems s.harts[slot].agent tk tk.x (tk.unit.2 - tk.x)) (atSlot s slot) = ((x, some e), v) → e.code ≠ 0x12 →
    ∃ t, EndsIn s (.linkOpFault slot k) t ∧
      t = v.setHart { v.hart with links := v.hart.links.set k.toNat { tk with state := .fault, x := x, cause := e.code, addr := e.addr } k.isLt }) ∧
  (∀ (s v : State) (slot : Fin 64) (t : BitVec 4) (x : Stream) (n y : Nat) (e : Fail), s.runs slot = true →
    s.harts[slot].streams[t.toNat]'t.isLt = x → x.kind = .load → n = x.first + x.ahead.length → n < x.len →
    let arrives (z : Elem) : Prop := EndsIn s (.streamElementArrival slot t)
      (v.setHart { v.hart with streams := v.hart.streams.set t.toNat { x with ahead := x.ahead ++ [z] } t.isLt })
    (loadAt s.harts[slot].agent (tyWidth x.ty) (x.addr n) n (atSlot s slot) = .ok y v → arrives ⟨BitVec.ofNat 64 y, none⟩) ∧
    (loadAt s.harts[slot].agent (tyWidth x.ty) (x.addr n) n (atSlot s slot) = .error e v → arrives ⟨0, some (e.code, e.addr)⟩)) ∧
  (∀ (s : State) (slot : Fin 64) (u : BitVec 3) (k : BitVec 4) (addr : Word), s.runs slot = true →
    (u.toNat ≤ 3 → EndsIn s (.requestTimeout slot u k addr) (withLate s slot addr)) ∧
    EndsIn s (.requestTimeout slot 4 k addr)
      ((atSlot s slot).setHart { s.harts[slot] with lateStores := s.harts[slot].lateStores ++ [(k.setWidth 2, addr)] })) ∧
  (∀ (s v : State) (slot : Fin 64) (k : BitVec 4) (addr : Word) (x : Nat) (tk : Token) (e : Fail), s.runs slot = true →
    s.harts[slot].copy k = tk → tk.state = .busy → e.code = 0x09 →
    workingOn (copyBytes s.harts[slot].agent tk tk.x (tk.len.toNat - tk.x)) (withLate s slot addr) = ((x, some e), v) →
    EndsIn s (.requestTimeout slot 5 k addr) (v.setHart { v.hart with
      late := none, copies := v.hart.copies.set k.toNat { tk with state := .fault, x := x, cause := 0x09, addr := e.addr } k.isLt })) ∧
  (∀ (s v : State) (slot : Fin 64) (k : BitVec 4) (j : BitVec 3) (addr : Word) (x : Nat) (tk : Token) (e : Fail), s.runs slot = true →
    j = k.setWidth 3 → s.harts[slot].links[j.toNat]'j.isLt = tk → tk.state = .busy → e.code = 0x09 →
    workingOn (linkElems s.harts[slot].agent tk tk.x (tk.unit.2 - tk.x)) (withLate s slot addr) = ((x, some e), v) →
    EndsIn s (.requestTimeout slot 6 k addr) (v.setHart { v.hart with
      late := none, links := v.hart.links.set j.toNat { tk with state := .fault, x := x, cause := 0x09, addr := e.addr } j.isLt })) ∧
  (∀ (s v : State) (slot : Fin 64) (k : BitVec 4) (addr : Word) (nd : OperandNode) (e : Fail), s.runs slot = true →
    s.harts[slot].onodes[k.toNat]'k.isLt = nd → nd.state = .running → nd.owed = none → s.harts[slot].inTimeout k = false →
    nd.t < nodeTiles nd.desc → nd.full.getLsbD (nd.t % nodeDepth nd.desc) = false → e.code = 0x09 →
    fillTile s.harts[slot].agent nd (withLate s slot addr) = .error e v →
    EndsIn s (.requestTimeout slot 7 k addr) (v.setHart { v.hart with
      late := none, onodes := v.hart.onodes.set k.toNat { nd with owed := some (0x09, e.addr) } k.isLt }))

/-- Events of a hart's chain, fabric nodes and operand nodes (09_chain.md R278, R284, R288; 08_gather_fabric.md R240,
R246, R259, R260; 10_matrix.md R315, R317). That an event whose condition does not hold changes nothing is the model's
choice (log 1), and so are the conditions that logs 37, 42, 44 and 50 name. -/
def Obligations.ChainAndNodeEvents : Prop :=
  (∀ (s : State) (slot : Fin 64) (stage : BitVec 6), s.runs slot = true →
    s.harts[slot].chain.state = .standing ∨ s.harts[slot].chain.state = .held →
    let h := s.harts[slot]
    let ch := h.chain
    let short : Bool := ch.lent.any fun x => 0 < (atSlot s slot).stallsShort x.1 h.scopePart (ch.lent.filter (fun y => y.1 = x.1)).length
    let own := (List.range 16).filter fun i => h.grant.getLsbD (16 + i)
    let keep := max h.target.toNat (own.length - (atSlot s slot).stallsShort (slot.val / 4) h.scopePart 0)
    (short = true → EndsIn s (.chainBreak slot 3 stage) ((atSlot s slot).setHart { h with chain := brokenRun ch 3 0 })) ∧
    (short = false → own.length ≤ keep → EndsIn s (.chainBreak slot 3 stage) (atSlot s slot)) ∧
    (short = false → keep < own.length → EndsIn s (.chainBreak slot 3 stage) ((atSlot s slot).setHart { h with
      grant := grantOf (own.take keep), chain := if ∃ i ∈ own.drop keep, ch.stalls.getLsbD i = true then brokenRun ch 3 0 else ch })) ∧
    (ch.state = .standing → ch.classed.contains stage.toNat = true → ∃ pin, (ch.pin = true → pin = true) ∧
      EndsIn s (.chainBreak slot 4 stage) ((atSlot s slot).setHart { h with chain := { brokenRun ch 4 stage with pin := pin } })) ∧
    (∀ k, k < 64 → ch.state = .standing → ch.links.getLsbD k = true → (∀ j, j < k → ch.links.getLsbD j = false) →
      ∃ t, exec (.laneLinkDown (BitVec.ofNat 4 (k / 4)) (BitVec.ofNat 2 (k % 4))) (atSlot s slot) = .next t ∧
        EndsIn s (.chainBreak slot 7 stage) t)) ∧
  (∀ (s : State) (slot : Fin 64) (lent : List (Nat × Nat)) (cs : List (List Nat)) (p : Nat), s.runs slot = true → s.harts[slot].attached = true →
    let ch := s.harts[slot].chain
    ch.state = .temporal → ch.pin = false → ch.p ≠ [] → (∀ x ∈ ch.p, x = p) → 0 < ch.l → p % ch.l = 0 → p < ch.n → ch.notBefore ≤ p →
    (ch.cause = 7 → ∀ k, k < 64 → ch.links.getLsbD k = true → s.laneUp.getLsbD k = true) →
    (atSlot s slot).formation = (lent, .ok cs) →
    formConvoys (atSlot s slot) lent (chainStages ch.words) ch.et ch.l = .ok cs ∧ (blockXc ch.words = false → lent = []) ∧
    (∀ x ∈ lent, x ∈ (atSlot s slot).lendable s.harts[slot].part s.harts[slot].core ch.scope.toNat) ∧
    ∃ t, EndsIn s (.chainReform slot) t ∧ t.hart.chain = { ch with
        state := .standing, convoys := cs.length, reforms := min 65535 (ch.reforms + 1), formedAt := p, edges := t.hart.chain.edges
        stalls := t.hart.chain.stalls, lent := lent, links := t.hart.chain.links, plan := t.hart.chain.plan, classed := t.hart.chain.classed
        reformed := true, occs := [], units := s.harts[slot].units } ∧ t.hart.chain.plan.map (·.2) = cs ∧ (lent = [] → t.hart.chain.links = 0) ∧ t = (atSlot s slot).setHart { s.harts[slot] with chain := t.hart.chain }) ∧
  (∀ (s : State) (slot : Fin 64), s.runs slot = true → s.harts[slot].attached = true → s.harts[slot].chain.p ≠ [] →
    (∀ x ∈ s.harts[slot].chain.p, s.harts[slot].chain.n ≤ x) →
    EndsIn s (.chainDetach slot) ((atSlot s slot).setHart { s.harts[slot] with
      chain := { s.harts[slot].chain with state := .idle, edges := [], lent := [], links := 0 }, viq := s.harts[slot].viq.drop 1 })) ∧
  (∀ (s v : State) (slot : Fin 64) (n : BitVec 3), s.runs slot = true → (s.harts[slot].fnode n.toNat).state = .running →
    (s.harts[slot].fnode n.toNat).iter + 1 = blockIters (s.harts[slot].fnode n.toNat).block →
    blockFollow (s.harts[slot].fnode n.toNat).block = false → (atSlot s slot).nodeIter n.toNat = some v →
    EndsIn s (.nodeFinish slot n) v ∧ (v.hart.fnode n.toNat).state = .done) ∧
  (∀ (s : State) (slot : Fin 64) (src n : BitVec 3) (inp : BitVec 2), s.runs slot = true →
    (atSlot s slot).bellMay src.toNat n.toNat inp.toNat = true →
    ∃ t, EndsIn s (.bellGrant slot src n inp) t ∧
      t.hart.bell.toNat = min (2 ^ 32 - 1) (s.harts[slot].bell.toNat + 1) ∧ t.counters.bell.toNat = min (2 ^ 64 - 1) (s.counters.bell.toNat + 1) ∧
      t.hart.ftokens.map (fun x => (x.src, x.router, x.inp, x.elem)) = s.harts[slot].ftokens.map (fun x => (x.src, x.router, x.inp, x.elem)) ∧
      t.hart.fnodes = s.harts[slot].fnodes ∧ t.mem = s.mem) ∧
  (∀ (s : State) (slot : Fin 64), s.runs slot = true → s.harts[slot].quiet = true → s.harts[slot].fabricWork = true →
    (atSlot s slot).fabricRound = (false, atSlot s slot) → (atSlot s slot).bellSomewhere = false →
    EndsIn s (.fabricWatchdog slot) ((atSlot s slot).setHart { s.harts[slot] with
      wdogOwed := true
      fnodes := s.harts[slot].fnodes.map fun m => if m.state = .running then { m with state := .stopped, watchdog := true } else m })) ∧
  (∀ (s w : State) (slot : Fin 64) (q : BitVec 2) (e : Entry), s.runs slot = true → (atSlot s slot).pump = (false, atSlot s slot) →
    s.harts[slot].fabricWork = true → (atSlot s slot).fabricRound.1 = false → (atSlot s slot).bellSomewhere = false →
    s.harts[slot].fabricWaiter = some (q, e) → HasHandler (atSlot s slot) →
    w = (atSlot s slot).setHart { s.harts[slot] with
      fnodes := s.harts[slot].fnodes.map fun m => if m.state = .running then { m with state := .stopped, watchdog := true } else m } →
    ∃ t, EndsIn s (.fabricWatchdog slot) t ∧ EntersEngine w t q 0x0E 3 e s.harts[slot].faddr) ∧
  (∀ (s v : State) (slot : Fin 64) (o : BitVec 4) (nd : OperandNode), s.runs slot = true → s.harts[slot].onodes[o.toNat]'o.isLt = nd →
    nd.state = .running → nd.owed = none → s.harts[slot].inTimeout o = false → nd.t < nodeTiles nd.desc →
    nd.full.getLsbD (nd.t % nodeDepth nd.desc) = false → fillTile s.harts[slot].agent nd (atSlot s slot) = .ok () v →
    EndsIn s (.nodeTileFill slot o) (v.setHart { v.hart with
      onodes := v.hart.onodes.set o.toNat { nd with t := nd.t + 1, full := nd.full ||| BitVec.twoPow 4 (nd.t % nodeDepth nd.desc) } o.isLt })) ∧
  (∀ (s v : State) (slot : Fin 64) (o : BitVec 4) (nd : OperandNode) (e : Fail), s.runs slot = true →
    s.harts[slot].onodes[o.toNat]'o.isLt = nd → nd.state = .running → nd.owed = none → s.harts[slot].inTimeout o = false →
    nd.t < nodeTiles nd.desc → nd.full.getLsbD (nd.t % nodeDepth nd.desc) = false → fillTile s.harts[slot].agent nd (atSlot s slot) = .error e v → e.code ≠ 0x12 →
    ∃ t, EndsIn s (.operandNodeFault slot o) t ∧
      if e.code = 0x10 ∨ e.code = 0x11 then (t.hart.onodes[o.toNat]'o.isLt).state = .held ∧ t.records.length = v.records.length + 1 ∧ t.mem = v.mem
      else t = v.setHart { v.hart with onodes := v.hart.onodes.set o.toNat { nd with owed := some (e.code, e.addr) } o.isLt })

/-- Errors, links, ports, power and temperature. -/
def Obligations.DeviceEvents : Prop := Claims.GateEccRevoked ∧ Claims.EccFences ∧ Claims.InternalErrorStops ∧ Claims.LaneLinks ∧ Claims.PortsAndFlits ∧ Claims.ThermalLimits

/-- Package reset and bring-up, the reset of one function, and requests from outside (16_device.md R424, R425, R429;
15_partitions.md R419, R420; 14_link.md R399, R401). The model's choices here are in logs 34 (the numbering of a peer's
requests), 35 (the boot configuration) and 49 (requests that are refused). -/
def Obligations.ResetsAndRequests : Prop :=
  (∀ s : State, ∃ t, exec (.packageReset true) s = .next t ∧
    (∀ a, outsideOf a → Memory.read t.mem a = Memory.read s.mem a) ∧ (∀ a, ¬ outsideOf a → Memory.read t.mem a = 0) ∧
    t = { State.reset with mem := t.mem, ecc := t.ecc, pkg := t.pkg, routes := t.routes, agenda := s.agenda, free := s.free
                           staged := s.staged, sent := s.sent } ∧
    (s.staged = none → t.pkg = 0 ∧ t.routes = [])) ∧
  (∀ s : State, ∃ t, exec (.packageReset false) s = .next t ∧ t.stopped = true ∧ t.up = false ∧ (∀ j : Fin 64, t.harts[j].run = .absent)) ∧
  (∀ s : State, 105000 ≤ s.counters.tmax.toNat → ∃ t, exec .thermalTrip s = .next t ∧ t.tasks = [] ∧ (∀ j : Fin 64, t.harts[j].run = .absent) ∧
    t.thermal = 1800 ∧ t.gates = [] ∧ t.stopped = !s.romGood) ∧
  (∀ (s : State) (fn : BitVec 8), fn ≠ 0 → fn.toNat ≤ 128 →
    ∃ t, exec (.vfFlr fn) s = .next t ∧ (∀ k ∈ s.tasks, k.fn = fn → TaskGone t k.seq) ∧
      (∀ f, t.funcs[fn.toNat]? = some f → f.queues = [] ∧ f.evq = none) ∧
      ((∀ v ∈ s.saves, ∀ k ∈ s.tasks, k.fn = fn → v.ctx.seq ≠ k.seq) → t.mem = s.mem)) ∧
  (∀ (s : State) (ws : List Word), exec (.bootConfiguration ws) s = .next { s with staged := some ws }) ∧
  (∀ s : State, s.staged = none → exec .bootConfigTimeout s = .next { s with pkg := 0, routes := [] }) ∧
  (∀ s : State, exec .configurationRequest s = .next { s with sent := s.sent ++ [.config (!s.up)] }) ∧
  (∀ (s : State) (op : BitVec 4) (size : BitVec 2) (addr data expect : Word) (locs : List Nat),
    peerLocs s addr (2 ^ size.toNat) = some locs → Memory.wf s.mem →
    let n := 2 ^ size.toNat
    let old := valueAt s locs
    ((∀ l ∈ locs, s.badAt l = false) →
      (op = 1 → ∃ t, exec (.peerAccess op size addr data expect) s = .next t ∧ StoresAt s t locs (data.toNat % 2 ^ (8 * n)) ∧
        t.sent = s.sent ++ [.peer (some 0)]) ∧
      (op = 0 → exec (.peerAccess op size addr data expect) s = .next { s with sent := s.sent ++ [.peer (some (BitVec.ofNat 64 old))] }) ∧
      (∀ x, addr.toNat % n = 0 →
        peerResult op (BitVec.ofNat (8 * n) data.toNat) (BitVec.ofNat (8 * n) expect.toNat) (BitVec.ofNat (8 * n) old) = some x →
        ∃ t, exec (.peerAccess op size addr data expect) s = .next t ∧ StoresAt s t locs x.toNat ∧
          t.sent = s.sent ++ [.peer (some (BitVec.ofNat 64 old))]) ∧
      (∀ r, typedOp op = some r → addr.toNat % n = 0 → tyWidth (expect.toNat % 16) = 8 * n →
        classI (expect.toNat % 16) = true ∨ classF (expect.toNat % 16) = true →
        ∃ t, exec (.peerAccess op size addr data expect) s = .next t ∧
          StoresAt s t locs (redStep r (expect.toNat % 16) (rmOf (expect.toNat / 16 % 8)) old (data.toNat % 2 ^ (8 * n))).1 ∧
          t.sent = s.sent ++ [.peer (some (BitVec.ofNat 64 old))]))) ∧
  (∀ (s : State) (op : BitVec 4) (size : BitVec 2) (addr data expect : Word), peerLocs s addr (2 ^ size.toNat) = none →
    exec (.peerAccess op size addr data expect) s = .next { s with sent := s.sent ++ [.peer none] }) ∧
  (∀ (s : State) (size : BitVec 2) (off data : Word) (locs : List Nat), locs = (List.range (2 ^ size.toNat)).map (off.toNat + ·) →
    (∀ l ∈ locs, ∃ die x, levelOf l = .hbm die x) → Memory.wf s.mem →
    (∀ l ∈ locs, s.badAt l = false) →
    (∃ t, exec (.cxlMemAccess true size off data) s = .next t ∧ StoresAt s t locs (data.toNat % 2 ^ (8 * 2 ^ size.toNat)) ∧ t.sent = s.sent) ∧
      exec (.cxlMemAccess false size off data) s = .next { s with sent := s.sent ++ [.cxl (BitVec.ofNat 64 (valueAt s locs))] })
end

