-- ==== Sys2Proof/Laws/State.lean ====
section
/-!
SUPPORT. One lemma per field and update: what an update of the package or of a hart leaves as it was. A prover rewrites with
these and never unfolds a record update.
-/

namespace Sys2Proof.Machine

/-- A fold whose every step keeps a quantity keeps it. -/
theorem foldl_keeps {α β γ : Type} (g : β → γ) (f : β → α → β) (hf : ∀ b a, g (f b a) = g b) (xs : List α) (b : β) :
    g (xs.foldl f b) = g b := by
  induction xs generalizing b with
  | nil => rfl
  | cons x xs ih => rw [List.foldl_cons, ih, hf]

/-! ### The package: setHart -/

@[simp] theorem State.setHart_time (s : State) (h : Hart) : (s.setHart h).time = s.time := rfl
@[simp] theorem State.setHart_mem (s : State) (h : Hart) : (s.setHart h).mem = s.mem := rfl
@[simp] theorem State.setHart_ecc (s : State) (h : Hart) : (s.setHart h).ecc = s.ecc := rfl
@[simp] theorem State.setHart_tlb (s : State) (h : Hart) : (s.setHart h).tlb = s.tlb := rfl
@[simp] theorem State.setHart_cur (s : State) (h : Hart) : (s.setHart h).cur = s.cur := rfl
@[simp] theorem State.setHart_agenda (s : State) (h : Hart) : (s.setHart h).agenda = s.agenda := rfl
@[simp] theorem State.setHart_free (s : State) (h : Hart) : (s.setHart h).free = s.free := rfl
@[simp] theorem State.setHart_parts (s : State) (h : Hart) : (s.setHart h).parts = s.parts := rfl
@[simp] theorem State.setHart_exports (s : State) (h : Hart) : (s.setHart h).exports = s.exports := rfl
@[simp] theorem State.setHart_fenced (s : State) (h : Hart) : (s.setHart h).fenced = s.fenced := rfl
@[simp] theorem State.setHart_roots2 (s : State) (h : Hart) : (s.setHart h).roots2 = s.roots2 := rfl
@[simp] theorem State.setHart_funcs (s : State) (h : Hart) : (s.setHart h).funcs = s.funcs := rfl
@[simp] theorem State.setHart_tasks (s : State) (h : Hart) : (s.setHart h).tasks = s.tasks := rfl
@[simp] theorem State.setHart_waiters (s : State) (h : Hart) : (s.setHart h).waiters = s.waiters := rfl
@[simp] theorem State.setHart_nextTask (s : State) (h : Hart) : (s.setHart h).nextTask = s.nextTask := rfl
@[simp] theorem State.setHart_saves (s : State) (h : Hart) : (s.setHart h).saves = s.saves := rfl
@[simp] theorem State.setHart_records (s : State) (h : Hart) : (s.setHart h).records = s.records := rfl
@[simp] theorem State.setHart_pfRecords (s : State) (h : Hart) : (s.setHart h).pfRecords = s.pfRecords := rfl
@[simp] theorem State.setHart_served (s : State) (h : Hart) : (s.setHart h).served = s.served := rfl
@[simp] theorem State.setHart_gates (s : State) (h : Hart) : (s.setHart h).gates = s.gates := rfl
@[simp] theorem State.setHart_handles (s : State) (h : Hart) : (s.setHart h).handles = s.handles := rfl
@[simp] theorem State.setHart_stallCeil (s : State) (h : Hart) : (s.setHart h).stallCeil = s.stallCeil := rfl
@[simp] theorem State.setHart_unitCeil (s : State) (h : Hart) : (s.setHart h).unitCeil = s.unitCeil := rfl
@[simp] theorem State.setHart_power (s : State) (h : Hart) : (s.setHart h).power = s.power := rfl
@[simp] theorem State.setHart_thermal (s : State) (h : Hart) : (s.setHart h).thermal = s.thermal := rfl
@[simp] theorem State.setHart_watchdog (s : State) (h : Hart) : (s.setHart h).watchdog = s.watchdog := rfl
@[simp] theorem State.setHart_timeout (s : State) (h : Hart) : (s.setHart h).timeout = s.timeout := rfl
@[simp] theorem State.setHart_counters (s : State) (h : Hart) : (s.setHart h).counters = s.counters := rfl
@[simp] theorem State.setHart_pkg (s : State) (h : Hart) : (s.setHart h).pkg = s.pkg := rfl
@[simp] theorem State.setHart_routes (s : State) (h : Hart) : (s.setHart h).routes = s.routes := rfl
@[simp] theorem State.setHart_staged (s : State) (h : Hart) : (s.setHart h).staged = s.staged := rfl
@[simp] theorem State.setHart_ubeacUp (s : State) (h : Hart) : (s.setHart h).ubeacUp = s.ubeacUp := rfl
@[simp] theorem State.setHart_laneUp (s : State) (h : Hart) : (s.setHart h).laneUp = s.laneUp := rfl
@[simp] theorem State.setHart_laneReplays (s : State) (h : Hart) : (s.setHart h).laneReplays = s.laneReplays := rfl
@[simp] theorem State.setHart_up (s : State) (h : Hart) : (s.setHart h).up = s.up := rfl
@[simp] theorem State.setHart_stopped (s : State) (h : Hart) : (s.setHart h).stopped = s.stopped := rfl
@[simp] theorem State.setHart_romGood (s : State) (h : Hart) : (s.setHart h).romGood = s.romGood := rfl
@[simp] theorem State.setHart_engines (s : State) (h : Hart) : (s.setHart h).engines = s.engines := rfl
@[simp] theorem State.setHart_storesWait (s : State) (h : Hart) : (s.setHart h).storesWait = s.storesWait := rfl
@[simp] theorem State.setHart_work (s : State) (h : Hart) : (s.setHart h).work = s.work := rfl
@[simp] theorem State.setHart_sent (s : State) (h : Hart) : (s.setHart h).sent = s.sent := rfl

/-! ### The package: setByte -/

@[simp] theorem State.setByte_time (s : State) (a : Nat) (b : Byte) : (s.setByte a b).time = s.time := rfl
@[simp] theorem State.setByte_ecc (s : State) (a : Nat) (b : Byte) : (s.setByte a b).ecc = s.ecc := rfl
@[simp] theorem State.setByte_tlb (s : State) (a : Nat) (b : Byte) : (s.setByte a b).tlb = s.tlb := rfl
@[simp] theorem State.setByte_harts (s : State) (a : Nat) (b : Byte) : (s.setByte a b).harts = s.harts := rfl
@[simp] theorem State.setByte_cur (s : State) (a : Nat) (b : Byte) : (s.setByte a b).cur = s.cur := rfl
@[simp] theorem State.setByte_agenda (s : State) (a : Nat) (b : Byte) : (s.setByte a b).agenda = s.agenda := rfl
@[simp] theorem State.setByte_free (s : State) (a : Nat) (b : Byte) : (s.setByte a b).free = s.free := rfl
@[simp] theorem State.setByte_parts (s : State) (a : Nat) (b : Byte) : (s.setByte a b).parts = s.parts := rfl
@[simp] theorem State.setByte_exports (s : State) (a : Nat) (b : Byte) : (s.setByte a b).exports = s.exports := rfl
@[simp] theorem State.setByte_fenced (s : State) (a : Nat) (b : Byte) : (s.setByte a b).fenced = s.fenced := rfl
@[simp] theorem State.setByte_roots2 (s : State) (a : Nat) (b : Byte) : (s.setByte a b).roots2 = s.roots2 := rfl
@[simp] theorem State.setByte_funcs (s : State) (a : Nat) (b : Byte) : (s.setByte a b).funcs = s.funcs := rfl
@[simp] theorem State.setByte_tasks (s : State) (a : Nat) (b : Byte) : (s.setByte a b).tasks = s.tasks := rfl
@[simp] theorem State.setByte_waiters (s : State) (a : Nat) (b : Byte) : (s.setByte a b).waiters = s.waiters := rfl
@[simp] theorem State.setByte_nextTask (s : State) (a : Nat) (b : Byte) : (s.setByte a b).nextTask = s.nextTask := rfl
@[simp] theorem State.setByte_saves (s : State) (a : Nat) (b : Byte) : (s.setByte a b).saves = s.saves := rfl
@[simp] theorem State.setByte_records (s : State) (a : Nat) (b : Byte) : (s.setByte a b).records = s.records := rfl
@[simp] theorem State.setByte_pfRecords (s : State) (a : Nat) (b : Byte) : (s.setByte a b).pfRecords = s.pfRecords := rfl
@[simp] theorem State.setByte_served (s : State) (a : Nat) (b : Byte) : (s.setByte a b).served = s.served := rfl
@[simp] theorem State.setByte_gates (s : State) (a : Nat) (b : Byte) : (s.setByte a b).gates = s.gates := rfl
@[simp] theorem State.setByte_handles (s : State) (a : Nat) (b : Byte) : (s.setByte a b).handles = s.handles := rfl
@[simp] theorem State.setByte_stallCeil (s : State) (a : Nat) (b : Byte) : (s.setByte a b).stallCeil = s.stallCeil := rfl
@[simp] theorem State.setByte_unitCeil (s : State) (a : Nat) (b : Byte) : (s.setByte a b).unitCeil = s.unitCeil := rfl
@[simp] theorem State.setByte_power (s : State) (a : Nat) (b : Byte) : (s.setByte a b).power = s.power := rfl
@[simp] theorem State.setByte_thermal (s : State) (a : Nat) (b : Byte) : (s.setByte a b).thermal = s.thermal := rfl
@[simp] theorem State.setByte_watchdog (s : State) (a : Nat) (b : Byte) : (s.setByte a b).watchdog = s.watchdog := rfl
@[simp] theorem State.setByte_timeout (s : State) (a : Nat) (b : Byte) : (s.setByte a b).timeout = s.timeout := rfl
@[simp] theorem State.setByte_counters (s : State) (a : Nat) (b : Byte) : (s.setByte a b).counters = s.counters := rfl
@[simp] theorem State.setByte_pkg (s : State) (a : Nat) (b : Byte) : (s.setByte a b).pkg = s.pkg := rfl
@[simp] theorem State.setByte_routes (s : State) (a : Nat) (b : Byte) : (s.setByte a b).routes = s.routes := rfl
@[simp] theorem State.setByte_staged (s : State) (a : Nat) (b : Byte) : (s.setByte a b).staged = s.staged := rfl
@[simp] theorem State.setByte_ubeacUp (s : State) (a : Nat) (b : Byte) : (s.setByte a b).ubeacUp = s.ubeacUp := rfl
@[simp] theorem State.setByte_laneUp (s : State) (a : Nat) (b : Byte) : (s.setByte a b).laneUp = s.laneUp := rfl
@[simp] theorem State.setByte_laneReplays (s : State) (a : Nat) (b : Byte) : (s.setByte a b).laneReplays = s.laneReplays := rfl
@[simp] theorem State.setByte_up (s : State) (a : Nat) (b : Byte) : (s.setByte a b).up = s.up := rfl
@[simp] theorem State.setByte_stopped (s : State) (a : Nat) (b : Byte) : (s.setByte a b).stopped = s.stopped := rfl
@[simp] theorem State.setByte_romGood (s : State) (a : Nat) (b : Byte) : (s.setByte a b).romGood = s.romGood := rfl
@[simp] theorem State.setByte_engines (s : State) (a : Nat) (b : Byte) : (s.setByte a b).engines = s.engines := rfl
@[simp] theorem State.setByte_storesWait (s : State) (a : Nat) (b : Byte) : (s.setByte a b).storesWait = s.storesWait := rfl
@[simp] theorem State.setByte_work (s : State) (a : Nat) (b : Byte) : (s.setByte a b).work = s.work := rfl
@[simp] theorem State.setByte_sent (s : State) (a : Nat) (b : Byte) : (s.setByte a b).sent = s.sent := rfl

/-! ### The package: post and countUe -/

@[simp] theorem State.post_time (s : State) (r : HeldRecord) : (s.post r).time = s.time := rfl
@[simp] theorem State.post_mem (s : State) (r : HeldRecord) : (s.post r).mem = s.mem := rfl
@[simp] theorem State.post_ecc (s : State) (r : HeldRecord) : (s.post r).ecc = s.ecc := rfl
@[simp] theorem State.post_tlb (s : State) (r : HeldRecord) : (s.post r).tlb = s.tlb := rfl
@[simp] theorem State.post_harts (s : State) (r : HeldRecord) : (s.post r).harts = s.harts := rfl
@[simp] theorem State.post_cur (s : State) (r : HeldRecord) : (s.post r).cur = s.cur := rfl
@[simp] theorem State.post_agenda (s : State) (r : HeldRecord) : (s.post r).agenda = s.agenda := rfl
@[simp] theorem State.post_free (s : State) (r : HeldRecord) : (s.post r).free = s.free := rfl
@[simp] theorem State.post_parts (s : State) (r : HeldRecord) : (s.post r).parts = s.parts := rfl
@[simp] theorem State.post_exports (s : State) (r : HeldRecord) : (s.post r).exports = s.exports := rfl
@[simp] theorem State.post_fenced (s : State) (r : HeldRecord) : (s.post r).fenced = s.fenced := rfl
@[simp] theorem State.post_roots2 (s : State) (r : HeldRecord) : (s.post r).roots2 = s.roots2 := rfl
@[simp] theorem State.post_funcs (s : State) (r : HeldRecord) : (s.post r).funcs = s.funcs := rfl
@[simp] theorem State.post_tasks (s : State) (r : HeldRecord) : (s.post r).tasks = s.tasks := rfl
@[simp] theorem State.post_waiters (s : State) (r : HeldRecord) : (s.post r).waiters = s.waiters := rfl
@[simp] theorem State.post_nextTask (s : State) (r : HeldRecord) : (s.post r).nextTask = s.nextTask := rfl
@[simp] theorem State.post_saves (s : State) (r : HeldRecord) : (s.post r).saves = s.saves := rfl
@[simp] theorem State.post_pfRecords (s : State) (r : HeldRecord) : (s.post r).pfRecords = s.pfRecords := rfl
@[simp] theorem State.post_served (s : State) (r : HeldRecord) : (s.post r).served = s.served := rfl
@[simp] theorem State.post_gates (s : State) (r : HeldRecord) : (s.post r).gates = s.gates := rfl
@[simp] theorem State.post_handles (s : State) (r : HeldRecord) : (s.post r).handles = s.handles := rfl
@[simp] theorem State.post_stallCeil (s : State) (r : HeldRecord) : (s.post r).stallCeil = s.stallCeil := rfl
@[simp] theorem State.post_unitCeil (s : State) (r : HeldRecord) : (s.post r).unitCeil = s.unitCeil := rfl
@[simp] theorem State.post_power (s : State) (r : HeldRecord) : (s.post r).power = s.power := rfl
@[simp] theorem State.post_thermal (s : State) (r : HeldRecord) : (s.post r).thermal = s.thermal := rfl
@[simp] theorem State.post_watchdog (s : State) (r : HeldRecord) : (s.post r).watchdog = s.watchdog := rfl
@[simp] theorem State.post_timeout (s : State) (r : HeldRecord) : (s.post r).timeout = s.timeout := rfl
@[simp] theorem State.post_counters (s : State) (r : HeldRecord) : (s.post r).counters = s.counters := rfl
@[simp] theorem State.post_pkg (s : State) (r : HeldRecord) : (s.post r).pkg = s.pkg := rfl
@[simp] theorem State.post_routes (s : State) (r : HeldRecord) : (s.post r).routes = s.routes := rfl
@[simp] theorem State.post_staged (s : State) (r : HeldRecord) : (s.post r).staged = s.staged := rfl
@[simp] theorem State.post_ubeacUp (s : State) (r : HeldRecord) : (s.post r).ubeacUp = s.ubeacUp := rfl
@[simp] theorem State.post_laneUp (s : State) (r : HeldRecord) : (s.post r).laneUp = s.laneUp := rfl
@[simp] theorem State.post_laneReplays (s : State) (r : HeldRecord) : (s.post r).laneReplays = s.laneReplays := rfl
@[simp] theorem State.post_up (s : State) (r : HeldRecord) : (s.post r).up = s.up := rfl
@[simp] theorem State.post_stopped (s : State) (r : HeldRecord) : (s.post r).stopped = s.stopped := rfl
@[simp] theorem State.post_romGood (s : State) (r : HeldRecord) : (s.post r).romGood = s.romGood := rfl
@[simp] theorem State.post_engines (s : State) (r : HeldRecord) : (s.post r).engines = s.engines := rfl
@[simp] theorem State.post_storesWait (s : State) (r : HeldRecord) : (s.post r).storesWait = s.storesWait := rfl
@[simp] theorem State.post_work (s : State) (r : HeldRecord) : (s.post r).work = s.work := rfl
@[simp] theorem State.post_sent (s : State) (r : HeldRecord) : (s.post r).sent = s.sent := rfl
@[simp] theorem State.countUe_time (s : State) : (s.countUe).time = s.time := rfl
@[simp] theorem State.countUe_mem (s : State) : (s.countUe).mem = s.mem := rfl
@[simp] theorem State.countUe_ecc (s : State) : (s.countUe).ecc = s.ecc := rfl
@[simp] theorem State.countUe_tlb (s : State) : (s.countUe).tlb = s.tlb := rfl
@[simp] theorem State.countUe_harts (s : State) : (s.countUe).harts = s.harts := rfl
@[simp] theorem State.countUe_cur (s : State) : (s.countUe).cur = s.cur := rfl
@[simp] theorem State.countUe_agenda (s : State) : (s.countUe).agenda = s.agenda := rfl
@[simp] theorem State.countUe_free (s : State) : (s.countUe).free = s.free := rfl
@[simp] theorem State.countUe_parts (s : State) : (s.countUe).parts = s.parts := rfl
@[simp] theorem State.countUe_exports (s : State) : (s.countUe).exports = s.exports := rfl
@[simp] theorem State.countUe_fenced (s : State) : (s.countUe).fenced = s.fenced := rfl
@[simp] theorem State.countUe_roots2 (s : State) : (s.countUe).roots2 = s.roots2 := rfl
@[simp] theorem State.countUe_funcs (s : State) : (s.countUe).funcs = s.funcs := rfl
@[simp] theorem State.countUe_tasks (s : State) : (s.countUe).tasks = s.tasks := rfl
@[simp] theorem State.countUe_waiters (s : State) : (s.countUe).waiters = s.waiters := rfl
@[simp] theorem State.countUe_nextTask (s : State) : (s.countUe).nextTask = s.nextTask := rfl
@[simp] theorem State.countUe_saves (s : State) : (s.countUe).saves = s.saves := rfl
@[simp] theorem State.countUe_records (s : State) : (s.countUe).records = s.records := rfl
@[simp] theorem State.countUe_pfRecords (s : State) : (s.countUe).pfRecords = s.pfRecords := rfl
@[simp] theorem State.countUe_served (s : State) : (s.countUe).served = s.served := rfl
@[simp] theorem State.countUe_gates (s : State) : (s.countUe).gates = s.gates := rfl
@[simp] theorem State.countUe_handles (s : State) : (s.countUe).handles = s.handles := rfl
@[simp] theorem State.countUe_stallCeil (s : State) : (s.countUe).stallCeil = s.stallCeil := rfl
@[simp] theorem State.countUe_unitCeil (s : State) : (s.countUe).unitCeil = s.unitCeil := rfl
@[simp] theorem State.countUe_power (s : State) : (s.countUe).power = s.power := rfl
@[simp] theorem State.countUe_thermal (s : State) : (s.countUe).thermal = s.thermal := rfl
@[simp] theorem State.countUe_watchdog (s : State) : (s.countUe).watchdog = s.watchdog := rfl
@[simp] theorem State.countUe_timeout (s : State) : (s.countUe).timeout = s.timeout := rfl
@[simp] theorem State.countUe_pkg (s : State) : (s.countUe).pkg = s.pkg := rfl
@[simp] theorem State.countUe_routes (s : State) : (s.countUe).routes = s.routes := rfl
@[simp] theorem State.countUe_staged (s : State) : (s.countUe).staged = s.staged := rfl
@[simp] theorem State.countUe_ubeacUp (s : State) : (s.countUe).ubeacUp = s.ubeacUp := rfl
@[simp] theorem State.countUe_laneUp (s : State) : (s.countUe).laneUp = s.laneUp := rfl
@[simp] theorem State.countUe_laneReplays (s : State) : (s.countUe).laneReplays = s.laneReplays := rfl
@[simp] theorem State.countUe_up (s : State) : (s.countUe).up = s.up := rfl
@[simp] theorem State.countUe_stopped (s : State) : (s.countUe).stopped = s.stopped := rfl
@[simp] theorem State.countUe_romGood (s : State) : (s.countUe).romGood = s.romGood := rfl
@[simp] theorem State.countUe_engines (s : State) : (s.countUe).engines = s.engines := rfl
@[simp] theorem State.countUe_storesWait (s : State) : (s.countUe).storesWait = s.storesWait := rfl
@[simp] theorem State.countUe_work (s : State) : (s.countUe).work = s.work := rfl
@[simp] theorem State.countUe_sent (s : State) : (s.countUe).sent = s.sent := rfl

/-! ### The package: functions, queues, tasks, save slots -/

@[simp] theorem State.modFn_time (s : State) (fn : BitVec 8) (f : Func → Func) : (s.modFn fn f).time = s.time := rfl
@[simp] theorem State.modFn_mem (s : State) (fn : BitVec 8) (f : Func → Func) : (s.modFn fn f).mem = s.mem := rfl
@[simp] theorem State.modFn_ecc (s : State) (fn : BitVec 8) (f : Func → Func) : (s.modFn fn f).ecc = s.ecc := rfl
@[simp] theorem State.modFn_tlb (s : State) (fn : BitVec 8) (f : Func → Func) : (s.modFn fn f).tlb = s.tlb := rfl
@[simp] theorem State.modFn_harts (s : State) (fn : BitVec 8) (f : Func → Func) : (s.modFn fn f).harts = s.harts := rfl
@[simp] theorem State.modFn_cur (s : State) (fn : BitVec 8) (f : Func → Func) : (s.modFn fn f).cur = s.cur := rfl
@[simp] theorem State.modFn_agenda (s : State) (fn : BitVec 8) (f : Func → Func) : (s.modFn fn f).agenda = s.agenda := rfl
@[simp] theorem State.modFn_free (s : State) (fn : BitVec 8) (f : Func → Func) : (s.modFn fn f).free = s.free := rfl
@[simp] theorem State.modFn_parts (s : State) (fn : BitVec 8) (f : Func → Func) : (s.modFn fn f).parts = s.parts := rfl
@[simp] theorem State.modFn_exports (s : State) (fn : BitVec 8) (f : Func → Func) : (s.modFn fn f).exports = s.exports := rfl
@[simp] theorem State.modFn_fenced (s : State) (fn : BitVec 8) (f : Func → Func) : (s.modFn fn f).fenced = s.fenced := rfl
@[simp] theorem State.modFn_roots2 (s : State) (fn : BitVec 8) (f : Func → Func) : (s.modFn fn f).roots2 = s.roots2 := rfl
@[simp] theorem State.modFn_tasks (s : State) (fn : BitVec 8) (f : Func → Func) : (s.modFn fn f).tasks = s.tasks := rfl
@[simp] theorem State.modFn_waiters (s : State) (fn : BitVec 8) (f : Func → Func) : (s.modFn fn f).waiters = s.waiters := rfl
@[simp] theorem State.modFn_nextTask (s : State) (fn : BitVec 8) (f : Func → Func) : (s.modFn fn f).nextTask = s.nextTask := rfl
@[simp] theorem State.modFn_saves (s : State) (fn : BitVec 8) (f : Func → Func) : (s.modFn fn f).saves = s.saves := rfl
@[simp] theorem State.modFn_records (s : State) (fn : BitVec 8) (f : Func → Func) : (s.modFn fn f).records = s.records := rfl
@[simp] theorem State.modFn_pfRecords (s : State) (fn : BitVec 8) (f : Func → Func) : (s.modFn fn f).pfRecords = s.pfRecords := rfl
@[simp] theorem State.modFn_served (s : State) (fn : BitVec 8) (f : Func → Func) : (s.modFn fn f).served = s.served := rfl
@[simp] theorem State.modFn_gates (s : State) (fn : BitVec 8) (f : Func → Func) : (s.modFn fn f).gates = s.gates := rfl
@[simp] theorem State.modFn_handles (s : State) (fn : BitVec 8) (f : Func → Func) : (s.modFn fn f).handles = s.handles := rfl
@[simp] theorem State.modFn_stallCeil (s : State) (fn : BitVec 8) (f : Func → Func) : (s.modFn fn f).stallCeil = s.stallCeil := rfl
@[simp] theorem State.modFn_unitCeil (s : State) (fn : BitVec 8) (f : Func → Func) : (s.modFn fn f).unitCeil = s.unitCeil := rfl
@[simp] theorem State.modFn_power (s : State) (fn : BitVec 8) (f : Func → Func) : (s.modFn fn f).power = s.power := rfl
@[simp] theorem State.modFn_thermal (s : State) (fn : BitVec 8) (f : Func → Func) : (s.modFn fn f).thermal = s.thermal := rfl
@[simp] theorem State.modFn_watchdog (s : State) (fn : BitVec 8) (f : Func → Func) : (s.modFn fn f).watchdog = s.watchdog := rfl
@[simp] theorem State.modFn_timeout (s : State) (fn : BitVec 8) (f : Func → Func) : (s.modFn fn f).timeout = s.timeout := rfl
@[simp] theorem State.modFn_counters (s : State) (fn : BitVec 8) (f : Func → Func) : (s.modFn fn f).counters = s.counters := rfl
@[simp] theorem State.modFn_pkg (s : State) (fn : BitVec 8) (f : Func → Func) : (s.modFn fn f).pkg = s.pkg := rfl
@[simp] theorem State.modFn_routes (s : State) (fn : BitVec 8) (f : Func → Func) : (s.modFn fn f).routes = s.routes := rfl
@[simp] theorem State.modFn_staged (s : State) (fn : BitVec 8) (f : Func → Func) : (s.modFn fn f).staged = s.staged := rfl
@[simp] theorem State.modFn_ubeacUp (s : State) (fn : BitVec 8) (f : Func → Func) : (s.modFn fn f).ubeacUp = s.ubeacUp := rfl
@[simp] theorem State.modFn_laneUp (s : State) (fn : BitVec 8) (f : Func → Func) : (s.modFn fn f).laneUp = s.laneUp := rfl
@[simp] theorem State.modFn_laneReplays (s : State) (fn : BitVec 8) (f : Func → Func) : (s.modFn fn f).laneReplays = s.laneReplays := rfl
@[simp] theorem State.modFn_up (s : State) (fn : BitVec 8) (f : Func → Func) : (s.modFn fn f).up = s.up := rfl
@[simp] theorem State.modFn_stopped (s : State) (fn : BitVec 8) (f : Func → Func) : (s.modFn fn f).stopped = s.stopped := rfl
@[simp] theorem State.modFn_romGood (s : State) (fn : BitVec 8) (f : Func → Func) : (s.modFn fn f).romGood = s.romGood := rfl
@[simp] theorem State.modFn_engines (s : State) (fn : BitVec 8) (f : Func → Func) : (s.modFn fn f).engines = s.engines := rfl
@[simp] theorem State.modFn_storesWait (s : State) (fn : BitVec 8) (f : Func → Func) : (s.modFn fn f).storesWait = s.storesWait := rfl
@[simp] theorem State.modFn_work (s : State) (fn : BitVec 8) (f : Func → Func) : (s.modFn fn f).work = s.work := rfl
@[simp] theorem State.modFn_sent (s : State) (fn : BitVec 8) (f : Func → Func) : (s.modFn fn f).sent = s.sent := rfl
@[simp] theorem State.modQueue_time (s : State) (fn : BitVec 8) (q : BitVec 6) (f : UserQueue → UserQueue) : (s.modQueue fn q f).time = s.time := rfl
@[simp] theorem State.modQueue_mem (s : State) (fn : BitVec 8) (q : BitVec 6) (f : UserQueue → UserQueue) : (s.modQueue fn q f).mem = s.mem := rfl
@[simp] theorem State.modQueue_ecc (s : State) (fn : BitVec 8) (q : BitVec 6) (f : UserQueue → UserQueue) : (s.modQueue fn q f).ecc = s.ecc := rfl
@[simp] theorem State.modQueue_tlb (s : State) (fn : BitVec 8) (q : BitVec 6) (f : UserQueue → UserQueue) : (s.modQueue fn q f).tlb = s.tlb := rfl
@[simp] theorem State.modQueue_harts (s : State) (fn : BitVec 8) (q : BitVec 6) (f : UserQueue → UserQueue) : (s.modQueue fn q f).harts = s.harts := rfl
@[simp] theorem State.modQueue_cur (s : State) (fn : BitVec 8) (q : BitVec 6) (f : UserQueue → UserQueue) : (s.modQueue fn q f).cur = s.cur := rfl
@[simp] theorem State.modQueue_agenda (s : State) (fn : BitVec 8) (q : BitVec 6) (f : UserQueue → UserQueue) : (s.modQueue fn q f).agenda = s.agenda := rfl
@[simp] theorem State.modQueue_free (s : State) (fn : BitVec 8) (q : BitVec 6) (f : UserQueue → UserQueue) : (s.modQueue fn q f).free = s.free := rfl
@[simp] theorem State.modQueue_parts (s : State) (fn : BitVec 8) (q : BitVec 6) (f : UserQueue → UserQueue) : (s.modQueue fn q f).parts = s.parts := rfl
@[simp] theorem State.modQueue_exports (s : State) (fn : BitVec 8) (q : BitVec 6) (f : UserQueue → UserQueue) : (s.modQueue fn q f).exports = s.exports := rfl
@[simp] theorem State.modQueue_fenced (s : State) (fn : BitVec 8) (q : BitVec 6) (f : UserQueue → UserQueue) : (s.modQueue fn q f).fenced = s.fenced := rfl
@[simp] theorem State.modQueue_roots2 (s : State) (fn : BitVec 8) (q : BitVec 6) (f : UserQueue → UserQueue) : (s.modQueue fn q f).roots2 = s.roots2 := rfl
@[simp] theorem State.modQueue_tasks (s : State) (fn : BitVec 8) (q : BitVec 6) (f : UserQueue → UserQueue) : (s.modQueue fn q f).tasks = s.tasks := rfl
@[simp] theorem State.modQueue_waiters (s : State) (fn : BitVec 8) (q : BitVec 6) (f : UserQueue → UserQueue) : (s.modQueue fn q f).waiters = s.waiters := rfl
@[simp] theorem State.modQueue_nextTask (s : State) (fn : BitVec 8) (q : BitVec 6) (f : UserQueue → UserQueue) : (s.modQueue fn q f).nextTask = s.nextTask := rfl
@[simp] theorem State.modQueue_saves (s : State) (fn : BitVec 8) (q : BitVec 6) (f : UserQueue → UserQueue) : (s.modQueue fn q f).saves = s.saves := rfl
@[simp] theorem State.modQueue_records (s : State) (fn : BitVec 8) (q : BitVec 6) (f : UserQueue → UserQueue) : (s.modQueue fn q f).records = s.records := rfl
@[simp] theorem State.modQueue_pfRecords (s : State) (fn : BitVec 8) (q : BitVec 6) (f : UserQueue → UserQueue) : (s.modQueue fn q f).pfRecords = s.pfRecords := rfl
@[simp] theorem State.modQueue_served (s : State) (fn : BitVec 8) (q : BitVec 6) (f : UserQueue → UserQueue) : (s.modQueue fn q f).served = s.served := rfl
@[simp] theorem State.modQueue_gates (s : State) (fn : BitVec 8) (q : BitVec 6) (f : UserQueue → UserQueue) : (s.modQueue fn q f).gates = s.gates := rfl
@[simp] theorem State.modQueue_handles (s : State) (fn : BitVec 8) (q : BitVec 6) (f : UserQueue → UserQueue) : (s.modQueue fn q f).handles = s.handles := rfl
@[simp] theorem State.modQueue_stallCeil (s : State) (fn : BitVec 8) (q : BitVec 6) (f : UserQueue → UserQueue) : (s.modQueue fn q f).stallCeil = s.stallCeil := rfl
@[simp] theorem State.modQueue_unitCeil (s : State) (fn : BitVec 8) (q : BitVec 6) (f : UserQueue → UserQueue) : (s.modQueue fn q f).unitCeil = s.unitCeil := rfl
@[simp] theorem State.modQueue_power (s : State) (fn : BitVec 8) (q : BitVec 6) (f : UserQueue → UserQueue) : (s.modQueue fn q f).power = s.power := rfl
@[simp] theorem State.modQueue_thermal (s : State) (fn : BitVec 8) (q : BitVec 6) (f : UserQueue → UserQueue) : (s.modQueue fn q f).thermal = s.thermal := rfl
@[simp] theorem State.modQueue_watchdog (s : State) (fn : BitVec 8) (q : BitVec 6) (f : UserQueue → UserQueue) : (s.modQueue fn q f).watchdog = s.watchdog := rfl
@[simp] theorem State.modQueue_timeout (s : State) (fn : BitVec 8) (q : BitVec 6) (f : UserQueue → UserQueue) : (s.modQueue fn q f).timeout = s.timeout := rfl
@[simp] theorem State.modQueue_counters (s : State) (fn : BitVec 8) (q : BitVec 6) (f : UserQueue → UserQueue) : (s.modQueue fn q f).counters = s.counters := rfl
@[simp] theorem State.modQueue_pkg (s : State) (fn : BitVec 8) (q : BitVec 6) (f : UserQueue → UserQueue) : (s.modQueue fn q f).pkg = s.pkg := rfl
@[simp] theorem State.modQueue_routes (s : State) (fn : BitVec 8) (q : BitVec 6) (f : UserQueue → UserQueue) : (s.modQueue fn q f).routes = s.routes := rfl
@[simp] theorem State.modQueue_staged (s : State) (fn : BitVec 8) (q : BitVec 6) (f : UserQueue → UserQueue) : (s.modQueue fn q f).staged = s.staged := rfl
@[simp] theorem State.modQueue_ubeacUp (s : State) (fn : BitVec 8) (q : BitVec 6) (f : UserQueue → UserQueue) : (s.modQueue fn q f).ubeacUp = s.ubeacUp := rfl
@[simp] theorem State.modQueue_laneUp (s : State) (fn : BitVec 8) (q : BitVec 6) (f : UserQueue → UserQueue) : (s.modQueue fn q f).laneUp = s.laneUp := rfl
@[simp] theorem State.modQueue_laneReplays (s : State) (fn : BitVec 8) (q : BitVec 6) (f : UserQueue → UserQueue) : (s.modQueue fn q f).laneReplays = s.laneReplays := rfl
@[simp] theorem State.modQueue_up (s : State) (fn : BitVec 8) (q : BitVec 6) (f : UserQueue → UserQueue) : (s.modQueue fn q f).up = s.up := rfl
@[simp] theorem State.modQueue_stopped (s : State) (fn : BitVec 8) (q : BitVec 6) (f : UserQueue → UserQueue) : (s.modQueue fn q f).stopped = s.stopped := rfl
@[simp] theorem State.modQueue_romGood (s : State) (fn : BitVec 8) (q : BitVec 6) (f : UserQueue → UserQueue) : (s.modQueue fn q f).romGood = s.romGood := rfl
@[simp] theorem State.modQueue_engines (s : State) (fn : BitVec 8) (q : BitVec 6) (f : UserQueue → UserQueue) : (s.modQueue fn q f).engines = s.engines := rfl
@[simp] theorem State.modQueue_storesWait (s : State) (fn : BitVec 8) (q : BitVec 6) (f : UserQueue → UserQueue) : (s.modQueue fn q f).storesWait = s.storesWait := rfl
@[simp] theorem State.modQueue_work (s : State) (fn : BitVec 8) (q : BitVec 6) (f : UserQueue → UserQueue) : (s.modQueue fn q f).work = s.work := rfl
@[simp] theorem State.modQueue_sent (s : State) (fn : BitVec 8) (q : BitVec 6) (f : UserQueue → UserQueue) : (s.modQueue fn q f).sent = s.sent := rfl
@[simp] theorem State.stopQueue_time (s : State) (fn : BitVec 8) (q : BitVec 6) (e : Fail) : (s.stopQueue fn q e).time = s.time := rfl
@[simp] theorem State.stopQueue_mem (s : State) (fn : BitVec 8) (q : BitVec 6) (e : Fail) : (s.stopQueue fn q e).mem = s.mem := rfl
@[simp] theorem State.stopQueue_ecc (s : State) (fn : BitVec 8) (q : BitVec 6) (e : Fail) : (s.stopQueue fn q e).ecc = s.ecc := rfl
@[simp] theorem State.stopQueue_tlb (s : State) (fn : BitVec 8) (q : BitVec 6) (e : Fail) : (s.stopQueue fn q e).tlb = s.tlb := rfl
@[simp] theorem State.stopQueue_harts (s : State) (fn : BitVec 8) (q : BitVec 6) (e : Fail) : (s.stopQueue fn q e).harts = s.harts := rfl
@[simp] theorem State.stopQueue_cur (s : State) (fn : BitVec 8) (q : BitVec 6) (e : Fail) : (s.stopQueue fn q e).cur = s.cur := rfl
@[simp] theorem State.stopQueue_agenda (s : State) (fn : BitVec 8) (q : BitVec 6) (e : Fail) : (s.stopQueue fn q e).agenda = s.agenda := rfl
@[simp] theorem State.stopQueue_free (s : State) (fn : BitVec 8) (q : BitVec 6) (e : Fail) : (s.stopQueue fn q e).free = s.free := rfl
@[simp] theorem State.stopQueue_parts (s : State) (fn : BitVec 8) (q : BitVec 6) (e : Fail) : (s.stopQueue fn q e).parts = s.parts := rfl
@[simp] theorem State.stopQueue_exports (s : State) (fn : BitVec 8) (q : BitVec 6) (e : Fail) : (s.stopQueue fn q e).exports = s.exports := rfl
@[simp] theorem State.stopQueue_fenced (s : State) (fn : BitVec 8) (q : BitVec 6) (e : Fail) : (s.stopQueue fn q e).fenced = s.fenced := rfl
@[simp] theorem State.stopQueue_roots2 (s : State) (fn : BitVec 8) (q : BitVec 6) (e : Fail) : (s.stopQueue fn q e).roots2 = s.roots2 := rfl
@[simp] theorem State.stopQueue_tasks (s : State) (fn : BitVec 8) (q : BitVec 6) (e : Fail) : (s.stopQueue fn q e).tasks = s.tasks := rfl
@[simp] theorem State.stopQueue_waiters (s : State) (fn : BitVec 8) (q : BitVec 6) (e : Fail) : (s.stopQueue fn q e).waiters = s.waiters := rfl
@[simp] theorem State.stopQueue_nextTask (s : State) (fn : BitVec 8) (q : BitVec 6) (e : Fail) : (s.stopQueue fn q e).nextTask = s.nextTask := rfl
@[simp] theorem State.stopQueue_saves (s : State) (fn : BitVec 8) (q : BitVec 6) (e : Fail) : (s.stopQueue fn q e).saves = s.saves := rfl
@[simp] theorem State.stopQueue_pfRecords (s : State) (fn : BitVec 8) (q : BitVec 6) (e : Fail) : (s.stopQueue fn q e).pfRecords = s.pfRecords := rfl
@[simp] theorem State.stopQueue_served (s : State) (fn : BitVec 8) (q : BitVec 6) (e : Fail) : (s.stopQueue fn q e).served = s.served := rfl
@[simp] theorem State.stopQueue_gates (s : State) (fn : BitVec 8) (q : BitVec 6) (e : Fail) : (s.stopQueue fn q e).gates = s.gates := rfl
@[simp] theorem State.stopQueue_handles (s : State) (fn : BitVec 8) (q : BitVec 6) (e : Fail) : (s.stopQueue fn q e).handles = s.handles := rfl
@[simp] theorem State.stopQueue_stallCeil (s : State) (fn : BitVec 8) (q : BitVec 6) (e : Fail) : (s.stopQueue fn q e).stallCeil = s.stallCeil := rfl
@[simp] theorem State.stopQueue_unitCeil (s : State) (fn : BitVec 8) (q : BitVec 6) (e : Fail) : (s.stopQueue fn q e).unitCeil = s.unitCeil := rfl
@[simp] theorem State.stopQueue_power (s : State) (fn : BitVec 8) (q : BitVec 6) (e : Fail) : (s.stopQueue fn q e).power = s.power := rfl
@[simp] theorem State.stopQueue_thermal (s : State) (fn : BitVec 8) (q : BitVec 6) (e : Fail) : (s.stopQueue fn q e).thermal = s.thermal := rfl
@[simp] theorem State.stopQueue_watchdog (s : State) (fn : BitVec 8) (q : BitVec 6) (e : Fail) : (s.stopQueue fn q e).watchdog = s.watchdog := rfl
@[simp] theorem State.stopQueue_timeout (s : State) (fn : BitVec 8) (q : BitVec 6) (e : Fail) : (s.stopQueue fn q e).timeout = s.timeout := rfl
@[simp] theorem State.stopQueue_counters (s : State) (fn : BitVec 8) (q : BitVec 6) (e : Fail) : (s.stopQueue fn q e).counters = s.counters := rfl
@[simp] theorem State.stopQueue_pkg (s : State) (fn : BitVec 8) (q : BitVec 6) (e : Fail) : (s.stopQueue fn q e).pkg = s.pkg := rfl
@[simp] theorem State.stopQueue_routes (s : State) (fn : BitVec 8) (q : BitVec 6) (e : Fail) : (s.stopQueue fn q e).routes = s.routes := rfl
@[simp] theorem State.stopQueue_staged (s : State) (fn : BitVec 8) (q : BitVec 6) (e : Fail) : (s.stopQueue fn q e).staged = s.staged := rfl
@[simp] theorem State.stopQueue_ubeacUp (s : State) (fn : BitVec 8) (q : BitVec 6) (e : Fail) : (s.stopQueue fn q e).ubeacUp = s.ubeacUp := rfl
@[simp] theorem State.stopQueue_laneUp (s : State) (fn : BitVec 8) (q : BitVec 6) (e : Fail) : (s.stopQueue fn q e).laneUp = s.laneUp := rfl
@[simp] theorem State.stopQueue_laneReplays (s : State) (fn : BitVec 8) (q : BitVec 6) (e : Fail) : (s.stopQueue fn q e).laneReplays = s.laneReplays := rfl
@[simp] theorem State.stopQueue_up (s : State) (fn : BitVec 8) (q : BitVec 6) (e : Fail) : (s.stopQueue fn q e).up = s.up := rfl
@[simp] theorem State.stopQueue_stopped (s : State) (fn : BitVec 8) (q : BitVec 6) (e : Fail) : (s.stopQueue fn q e).stopped = s.stopped := rfl
@[simp] theorem State.stopQueue_romGood (s : State) (fn : BitVec 8) (q : BitVec 6) (e : Fail) : (s.stopQueue fn q e).romGood = s.romGood := rfl
@[simp] theorem State.stopQueue_engines (s : State) (fn : BitVec 8) (q : BitVec 6) (e : Fail) : (s.stopQueue fn q e).engines = s.engines := rfl
@[simp] theorem State.stopQueue_storesWait (s : State) (fn : BitVec 8) (q : BitVec 6) (e : Fail) : (s.stopQueue fn q e).storesWait = s.storesWait := rfl
@[simp] theorem State.stopQueue_work (s : State) (fn : BitVec 8) (q : BitVec 6) (e : Fail) : (s.stopQueue fn q e).work = s.work := rfl
@[simp] theorem State.stopQueue_sent (s : State) (fn : BitVec 8) (q : BitVec 6) (e : Fail) : (s.stopQueue fn q e).sent = s.sent := rfl
@[simp] theorem State.modTask_time (s : State) (seq : BitVec 32) (f : Task → Task) : (s.modTask seq f).time = s.time := rfl
@[simp] theorem State.modTask_mem (s : State) (seq : BitVec 32) (f : Task → Task) : (s.modTask seq f).mem = s.mem := rfl
@[simp] theorem State.modTask_ecc (s : State) (seq : BitVec 32) (f : Task → Task) : (s.modTask seq f).ecc = s.ecc := rfl
@[simp] theorem State.modTask_tlb (s : State) (seq : BitVec 32) (f : Task → Task) : (s.modTask seq f).tlb = s.tlb := rfl
@[simp] theorem State.modTask_harts (s : State) (seq : BitVec 32) (f : Task → Task) : (s.modTask seq f).harts = s.harts := rfl
@[simp] theorem State.modTask_cur (s : State) (seq : BitVec 32) (f : Task → Task) : (s.modTask seq f).cur = s.cur := rfl
@[simp] theorem State.modTask_agenda (s : State) (seq : BitVec 32) (f : Task → Task) : (s.modTask seq f).agenda = s.agenda := rfl
@[simp] theorem State.modTask_free (s : State) (seq : BitVec 32) (f : Task → Task) : (s.modTask seq f).free = s.free := rfl
@[simp] theorem State.modTask_parts (s : State) (seq : BitVec 32) (f : Task → Task) : (s.modTask seq f).parts = s.parts := rfl
@[simp] theorem State.modTask_exports (s : State) (seq : BitVec 32) (f : Task → Task) : (s.modTask seq f).exports = s.exports := rfl
@[simp] theorem State.modTask_fenced (s : State) (seq : BitVec 32) (f : Task → Task) : (s.modTask seq f).fenced = s.fenced := rfl
@[simp] theorem State.modTask_roots2 (s : State) (seq : BitVec 32) (f : Task → Task) : (s.modTask seq f).roots2 = s.roots2 := rfl
@[simp] theorem State.modTask_funcs (s : State) (seq : BitVec 32) (f : Task → Task) : (s.modTask seq f).funcs = s.funcs := rfl
@[simp] theorem State.modTask_waiters (s : State) (seq : BitVec 32) (f : Task → Task) : (s.modTask seq f).waiters = s.waiters := rfl
@[simp] theorem State.modTask_nextTask (s : State) (seq : BitVec 32) (f : Task → Task) : (s.modTask seq f).nextTask = s.nextTask := rfl
@[simp] theorem State.modTask_saves (s : State) (seq : BitVec 32) (f : Task → Task) : (s.modTask seq f).saves = s.saves := rfl
@[simp] theorem State.modTask_records (s : State) (seq : BitVec 32) (f : Task → Task) : (s.modTask seq f).records = s.records := rfl
@[simp] theorem State.modTask_pfRecords (s : State) (seq : BitVec 32) (f : Task → Task) : (s.modTask seq f).pfRecords = s.pfRecords := rfl
@[simp] theorem State.modTask_served (s : State) (seq : BitVec 32) (f : Task → Task) : (s.modTask seq f).served = s.served := rfl
@[simp] theorem State.modTask_gates (s : State) (seq : BitVec 32) (f : Task → Task) : (s.modTask seq f).gates = s.gates := rfl
@[simp] theorem State.modTask_handles (s : State) (seq : BitVec 32) (f : Task → Task) : (s.modTask seq f).handles = s.handles := rfl
@[simp] theorem State.modTask_stallCeil (s : State) (seq : BitVec 32) (f : Task → Task) : (s.modTask seq f).stallCeil = s.stallCeil := rfl
@[simp] theorem State.modTask_unitCeil (s : State) (seq : BitVec 32) (f : Task → Task) : (s.modTask seq f).unitCeil = s.unitCeil := rfl
@[simp] theorem State.modTask_power (s : State) (seq : BitVec 32) (f : Task → Task) : (s.modTask seq f).power = s.power := rfl
@[simp] theorem State.modTask_thermal (s : State) (seq : BitVec 32) (f : Task → Task) : (s.modTask seq f).thermal = s.thermal := rfl
@[simp] theorem State.modTask_watchdog (s : State) (seq : BitVec 32) (f : Task → Task) : (s.modTask seq f).watchdog = s.watchdog := rfl
@[simp] theorem State.modTask_timeout (s : State) (seq : BitVec 32) (f : Task → Task) : (s.modTask seq f).timeout = s.timeout := rfl
@[simp] theorem State.modTask_counters (s : State) (seq : BitVec 32) (f : Task → Task) : (s.modTask seq f).counters = s.counters := rfl
@[simp] theorem State.modTask_pkg (s : State) (seq : BitVec 32) (f : Task → Task) : (s.modTask seq f).pkg = s.pkg := rfl
@[simp] theorem State.modTask_routes (s : State) (seq : BitVec 32) (f : Task → Task) : (s.modTask seq f).routes = s.routes := rfl
@[simp] theorem State.modTask_staged (s : State) (seq : BitVec 32) (f : Task → Task) : (s.modTask seq f).staged = s.staged := rfl
@[simp] theorem State.modTask_ubeacUp (s : State) (seq : BitVec 32) (f : Task → Task) : (s.modTask seq f).ubeacUp = s.ubeacUp := rfl
@[simp] theorem State.modTask_laneUp (s : State) (seq : BitVec 32) (f : Task → Task) : (s.modTask seq f).laneUp = s.laneUp := rfl
@[simp] theorem State.modTask_laneReplays (s : State) (seq : BitVec 32) (f : Task → Task) : (s.modTask seq f).laneReplays = s.laneReplays := rfl
@[simp] theorem State.modTask_up (s : State) (seq : BitVec 32) (f : Task → Task) : (s.modTask seq f).up = s.up := rfl
@[simp] theorem State.modTask_stopped (s : State) (seq : BitVec 32) (f : Task → Task) : (s.modTask seq f).stopped = s.stopped := rfl
@[simp] theorem State.modTask_romGood (s : State) (seq : BitVec 32) (f : Task → Task) : (s.modTask seq f).romGood = s.romGood := rfl
@[simp] theorem State.modTask_engines (s : State) (seq : BitVec 32) (f : Task → Task) : (s.modTask seq f).engines = s.engines := rfl
@[simp] theorem State.modTask_storesWait (s : State) (seq : BitVec 32) (f : Task → Task) : (s.modTask seq f).storesWait = s.storesWait := rfl
@[simp] theorem State.modTask_work (s : State) (seq : BitVec 32) (f : Task → Task) : (s.modTask seq f).work = s.work := rfl
@[simp] theorem State.modTask_sent (s : State) (seq : BitVec 32) (f : Task → Task) : (s.modTask seq f).sent = s.sent := rfl
@[simp] theorem State.dropTask_time (s : State) (seq : BitVec 32) : (s.dropTask seq).time = s.time := rfl
@[simp] theorem State.dropTask_mem (s : State) (seq : BitVec 32) : (s.dropTask seq).mem = s.mem := rfl
@[simp] theorem State.dropTask_ecc (s : State) (seq : BitVec 32) : (s.dropTask seq).ecc = s.ecc := rfl
@[simp] theorem State.dropTask_tlb (s : State) (seq : BitVec 32) : (s.dropTask seq).tlb = s.tlb := rfl
@[simp] theorem State.dropTask_harts (s : State) (seq : BitVec 32) : (s.dropTask seq).harts = s.harts := rfl
@[simp] theorem State.dropTask_cur (s : State) (seq : BitVec 32) : (s.dropTask seq).cur = s.cur := rfl
@[simp] theorem State.dropTask_agenda (s : State) (seq : BitVec 32) : (s.dropTask seq).agenda = s.agenda := rfl
@[simp] theorem State.dropTask_free (s : State) (seq : BitVec 32) : (s.dropTask seq).free = s.free := rfl
@[simp] theorem State.dropTask_parts (s : State) (seq : BitVec 32) : (s.dropTask seq).parts = s.parts := rfl
@[simp] theorem State.dropTask_exports (s : State) (seq : BitVec 32) : (s.dropTask seq).exports = s.exports := rfl
@[simp] theorem State.dropTask_fenced (s : State) (seq : BitVec 32) : (s.dropTask seq).fenced = s.fenced := rfl
@[simp] theorem State.dropTask_roots2 (s : State) (seq : BitVec 32) : (s.dropTask seq).roots2 = s.roots2 := rfl
@[simp] theorem State.dropTask_funcs (s : State) (seq : BitVec 32) : (s.dropTask seq).funcs = s.funcs := rfl
@[simp] theorem State.dropTask_waiters (s : State) (seq : BitVec 32) : (s.dropTask seq).waiters = s.waiters := rfl
@[simp] theorem State.dropTask_nextTask (s : State) (seq : BitVec 32) : (s.dropTask seq).nextTask = s.nextTask := rfl
@[simp] theorem State.dropTask_saves (s : State) (seq : BitVec 32) : (s.dropTask seq).saves = s.saves := rfl
@[simp] theorem State.dropTask_records (s : State) (seq : BitVec 32) : (s.dropTask seq).records = s.records := rfl
@[simp] theorem State.dropTask_served (s : State) (seq : BitVec 32) : (s.dropTask seq).served = s.served := rfl
@[simp] theorem State.dropTask_gates (s : State) (seq : BitVec 32) : (s.dropTask seq).gates = s.gates := rfl
@[simp] theorem State.dropTask_handles (s : State) (seq : BitVec 32) : (s.dropTask seq).handles = s.handles := rfl
@[simp] theorem State.dropTask_stallCeil (s : State) (seq : BitVec 32) : (s.dropTask seq).stallCeil = s.stallCeil := rfl
@[simp] theorem State.dropTask_unitCeil (s : State) (seq : BitVec 32) : (s.dropTask seq).unitCeil = s.unitCeil := rfl
@[simp] theorem State.dropTask_power (s : State) (seq : BitVec 32) : (s.dropTask seq).power = s.power := rfl
@[simp] theorem State.dropTask_thermal (s : State) (seq : BitVec 32) : (s.dropTask seq).thermal = s.thermal := rfl
@[simp] theorem State.dropTask_watchdog (s : State) (seq : BitVec 32) : (s.dropTask seq).watchdog = s.watchdog := rfl
@[simp] theorem State.dropTask_timeout (s : State) (seq : BitVec 32) : (s.dropTask seq).timeout = s.timeout := rfl
@[simp] theorem State.dropTask_counters (s : State) (seq : BitVec 32) : (s.dropTask seq).counters = s.counters := rfl
@[simp] theorem State.dropTask_pkg (s : State) (seq : BitVec 32) : (s.dropTask seq).pkg = s.pkg := rfl
@[simp] theorem State.dropTask_routes (s : State) (seq : BitVec 32) : (s.dropTask seq).routes = s.routes := rfl
@[simp] theorem State.dropTask_staged (s : State) (seq : BitVec 32) : (s.dropTask seq).staged = s.staged := rfl
@[simp] theorem State.dropTask_ubeacUp (s : State) (seq : BitVec 32) : (s.dropTask seq).ubeacUp = s.ubeacUp := rfl
@[simp] theorem State.dropTask_laneUp (s : State) (seq : BitVec 32) : (s.dropTask seq).laneUp = s.laneUp := rfl
@[simp] theorem State.dropTask_laneReplays (s : State) (seq : BitVec 32) : (s.dropTask seq).laneReplays = s.laneReplays := rfl
@[simp] theorem State.dropTask_up (s : State) (seq : BitVec 32) : (s.dropTask seq).up = s.up := rfl
@[simp] theorem State.dropTask_stopped (s : State) (seq : BitVec 32) : (s.dropTask seq).stopped = s.stopped := rfl
@[simp] theorem State.dropTask_romGood (s : State) (seq : BitVec 32) : (s.dropTask seq).romGood = s.romGood := rfl
@[simp] theorem State.dropTask_engines (s : State) (seq : BitVec 32) : (s.dropTask seq).engines = s.engines := rfl
@[simp] theorem State.dropTask_storesWait (s : State) (seq : BitVec 32) : (s.dropTask seq).storesWait = s.storesWait := rfl
@[simp] theorem State.dropTask_work (s : State) (seq : BitVec 32) : (s.dropTask seq).work = s.work := rfl
@[simp] theorem State.dropTask_sent (s : State) (seq : BitVec 32) : (s.dropTask seq).sent = s.sent := rfl
@[simp] theorem State.modSave_time (s : State) (p : BitVec 5) (i : BitVec 16) (f : SaveSlot → SaveSlot) : (s.modSave p i f).time = s.time := rfl
@[simp] theorem State.modSave_mem (s : State) (p : BitVec 5) (i : BitVec 16) (f : SaveSlot → SaveSlot) : (s.modSave p i f).mem = s.mem := rfl
@[simp] theorem State.modSave_ecc (s : State) (p : BitVec 5) (i : BitVec 16) (f : SaveSlot → SaveSlot) : (s.modSave p i f).ecc = s.ecc := rfl
@[simp] theorem State.modSave_tlb (s : State) (p : BitVec 5) (i : BitVec 16) (f : SaveSlot → SaveSlot) : (s.modSave p i f).tlb = s.tlb := rfl
@[simp] theorem State.modSave_harts (s : State) (p : BitVec 5) (i : BitVec 16) (f : SaveSlot → SaveSlot) : (s.modSave p i f).harts = s.harts := rfl
@[simp] theorem State.modSave_cur (s : State) (p : BitVec 5) (i : BitVec 16) (f : SaveSlot → SaveSlot) : (s.modSave p i f).cur = s.cur := rfl
@[simp] theorem State.modSave_agenda (s : State) (p : BitVec 5) (i : BitVec 16) (f : SaveSlot → SaveSlot) : (s.modSave p i f).agenda = s.agenda := rfl
@[simp] theorem State.modSave_free (s : State) (p : BitVec 5) (i : BitVec 16) (f : SaveSlot → SaveSlot) : (s.modSave p i f).free = s.free := rfl
@[simp] theorem State.modSave_parts (s : State) (p : BitVec 5) (i : BitVec 16) (f : SaveSlot → SaveSlot) : (s.modSave p i f).parts = s.parts := rfl
@[simp] theorem State.modSave_exports (s : State) (p : BitVec 5) (i : BitVec 16) (f : SaveSlot → SaveSlot) : (s.modSave p i f).exports = s.exports := rfl
@[simp] theorem State.modSave_fenced (s : State) (p : BitVec 5) (i : BitVec 16) (f : SaveSlot → SaveSlot) : (s.modSave p i f).fenced = s.fenced := rfl
@[simp] theorem State.modSave_roots2 (s : State) (p : BitVec 5) (i : BitVec 16) (f : SaveSlot → SaveSlot) : (s.modSave p i f).roots2 = s.roots2 := rfl
@[simp] theorem State.modSave_funcs (s : State) (p : BitVec 5) (i : BitVec 16) (f : SaveSlot → SaveSlot) : (s.modSave p i f).funcs = s.funcs := rfl
@[simp] theorem State.modSave_tasks (s : State) (p : BitVec 5) (i : BitVec 16) (f : SaveSlot → SaveSlot) : (s.modSave p i f).tasks = s.tasks := rfl
@[simp] theorem State.modSave_waiters (s : State) (p : BitVec 5) (i : BitVec 16) (f : SaveSlot → SaveSlot) : (s.modSave p i f).waiters = s.waiters := rfl
@[simp] theorem State.modSave_nextTask (s : State) (p : BitVec 5) (i : BitVec 16) (f : SaveSlot → SaveSlot) : (s.modSave p i f).nextTask = s.nextTask := rfl
@[simp] theorem State.modSave_records (s : State) (p : BitVec 5) (i : BitVec 16) (f : SaveSlot → SaveSlot) : (s.modSave p i f).records = s.records := rfl
@[simp] theorem State.modSave_pfRecords (s : State) (p : BitVec 5) (i : BitVec 16) (f : SaveSlot → SaveSlot) : (s.modSave p i f).pfRecords = s.pfRecords := rfl
@[simp] theorem State.modSave_served (s : State) (p : BitVec 5) (i : BitVec 16) (f : SaveSlot → SaveSlot) : (s.modSave p i f).served = s.served := rfl
@[simp] theorem State.modSave_gates (s : State) (p : BitVec 5) (i : BitVec 16) (f : SaveSlot → SaveSlot) : (s.modSave p i f).gates = s.gates := rfl
@[simp] theorem State.modSave_handles (s : State) (p : BitVec 5) (i : BitVec 16) (f : SaveSlot → SaveSlot) : (s.modSave p i f).handles = s.handles := rfl
@[simp] theorem State.modSave_stallCeil (s : State) (p : BitVec 5) (i : BitVec 16) (f : SaveSlot → SaveSlot) : (s.modSave p i f).stallCeil = s.stallCeil := rfl
@[simp] theorem State.modSave_unitCeil (s : State) (p : BitVec 5) (i : BitVec 16) (f : SaveSlot → SaveSlot) : (s.modSave p i f).unitCeil = s.unitCeil := rfl
@[simp] theorem State.modSave_power (s : State) (p : BitVec 5) (i : BitVec 16) (f : SaveSlot → SaveSlot) : (s.modSave p i f).power = s.power := rfl
@[simp] theorem State.modSave_thermal (s : State) (p : BitVec 5) (i : BitVec 16) (f : SaveSlot → SaveSlot) : (s.modSave p i f).thermal = s.thermal := rfl
@[simp] theorem State.modSave_watchdog (s : State) (p : BitVec 5) (i : BitVec 16) (f : SaveSlot → SaveSlot) : (s.modSave p i f).watchdog = s.watchdog := rfl
@[simp] theorem State.modSave_timeout (s : State) (p : BitVec 5) (i : BitVec 16) (f : SaveSlot → SaveSlot) : (s.modSave p i f).timeout = s.timeout := rfl
@[simp] theorem State.modSave_counters (s : State) (p : BitVec 5) (i : BitVec 16) (f : SaveSlot → SaveSlot) : (s.modSave p i f).counters = s.counters := rfl
@[simp] theorem State.modSave_pkg (s : State) (p : BitVec 5) (i : BitVec 16) (f : SaveSlot → SaveSlot) : (s.modSave p i f).pkg = s.pkg := rfl
@[simp] theorem State.modSave_routes (s : State) (p : BitVec 5) (i : BitVec 16) (f : SaveSlot → SaveSlot) : (s.modSave p i f).routes = s.routes := rfl
@[simp] theorem State.modSave_staged (s : State) (p : BitVec 5) (i : BitVec 16) (f : SaveSlot → SaveSlot) : (s.modSave p i f).staged = s.staged := rfl
@[simp] theorem State.modSave_ubeacUp (s : State) (p : BitVec 5) (i : BitVec 16) (f : SaveSlot → SaveSlot) : (s.modSave p i f).ubeacUp = s.ubeacUp := rfl
@[simp] theorem State.modSave_laneUp (s : State) (p : BitVec 5) (i : BitVec 16) (f : SaveSlot → SaveSlot) : (s.modSave p i f).laneUp = s.laneUp := rfl
@[simp] theorem State.modSave_laneReplays (s : State) (p : BitVec 5) (i : BitVec 16) (f : SaveSlot → SaveSlot) : (s.modSave p i f).laneReplays = s.laneReplays := rfl
@[simp] theorem State.modSave_up (s : State) (p : BitVec 5) (i : BitVec 16) (f : SaveSlot → SaveSlot) : (s.modSave p i f).up = s.up := rfl
@[simp] theorem State.modSave_stopped (s : State) (p : BitVec 5) (i : BitVec 16) (f : SaveSlot → SaveSlot) : (s.modSave p i f).stopped = s.stopped := rfl
@[simp] theorem State.modSave_romGood (s : State) (p : BitVec 5) (i : BitVec 16) (f : SaveSlot → SaveSlot) : (s.modSave p i f).romGood = s.romGood := rfl
@[simp] theorem State.modSave_engines (s : State) (p : BitVec 5) (i : BitVec 16) (f : SaveSlot → SaveSlot) : (s.modSave p i f).engines = s.engines := rfl
@[simp] theorem State.modSave_storesWait (s : State) (p : BitVec 5) (i : BitVec 16) (f : SaveSlot → SaveSlot) : (s.modSave p i f).storesWait = s.storesWait := rfl
@[simp] theorem State.modSave_work (s : State) (p : BitVec 5) (i : BitVec 16) (f : SaveSlot → SaveSlot) : (s.modSave p i f).work = s.work := rfl
@[simp] theorem State.modSave_sent (s : State) (p : BitVec 5) (i : BitVec 16) (f : SaveSlot → SaveSlot) : (s.modSave p i f).sent = s.sent := rfl

/-! ### The package: gates, handles, time, pages -/

@[simp] theorem State.modGate_time (s : State) (g : BitVec 12) (f : Gate → Gate) : (s.modGate g f).time = s.time := rfl
@[simp] theorem State.modGate_mem (s : State) (g : BitVec 12) (f : Gate → Gate) : (s.modGate g f).mem = s.mem := rfl
@[simp] theorem State.modGate_ecc (s : State) (g : BitVec 12) (f : Gate → Gate) : (s.modGate g f).ecc = s.ecc := rfl
@[simp] theorem State.modGate_tlb (s : State) (g : BitVec 12) (f : Gate → Gate) : (s.modGate g f).tlb = s.tlb := rfl
@[simp] theorem State.modGate_harts (s : State) (g : BitVec 12) (f : Gate → Gate) : (s.modGate g f).harts = s.harts := rfl
@[simp] theorem State.modGate_cur (s : State) (g : BitVec 12) (f : Gate → Gate) : (s.modGate g f).cur = s.cur := rfl
@[simp] theorem State.modGate_agenda (s : State) (g : BitVec 12) (f : Gate → Gate) : (s.modGate g f).agenda = s.agenda := rfl
@[simp] theorem State.modGate_free (s : State) (g : BitVec 12) (f : Gate → Gate) : (s.modGate g f).free = s.free := rfl
@[simp] theorem State.modGate_parts (s : State) (g : BitVec 12) (f : Gate → Gate) : (s.modGate g f).parts = s.parts := rfl
@[simp] theorem State.modGate_exports (s : State) (g : BitVec 12) (f : Gate → Gate) : (s.modGate g f).exports = s.exports := rfl
@[simp] theorem State.modGate_fenced (s : State) (g : BitVec 12) (f : Gate → Gate) : (s.modGate g f).fenced = s.fenced := rfl
@[simp] theorem State.modGate_roots2 (s : State) (g : BitVec 12) (f : Gate → Gate) : (s.modGate g f).roots2 = s.roots2 := rfl
@[simp] theorem State.modGate_funcs (s : State) (g : BitVec 12) (f : Gate → Gate) : (s.modGate g f).funcs = s.funcs := rfl
@[simp] theorem State.modGate_tasks (s : State) (g : BitVec 12) (f : Gate → Gate) : (s.modGate g f).tasks = s.tasks := rfl
@[simp] theorem State.modGate_waiters (s : State) (g : BitVec 12) (f : Gate → Gate) : (s.modGate g f).waiters = s.waiters := rfl
@[simp] theorem State.modGate_nextTask (s : State) (g : BitVec 12) (f : Gate → Gate) : (s.modGate g f).nextTask = s.nextTask := rfl
@[simp] theorem State.modGate_saves (s : State) (g : BitVec 12) (f : Gate → Gate) : (s.modGate g f).saves = s.saves := rfl
@[simp] theorem State.modGate_records (s : State) (g : BitVec 12) (f : Gate → Gate) : (s.modGate g f).records = s.records := rfl
@[simp] theorem State.modGate_pfRecords (s : State) (g : BitVec 12) (f : Gate → Gate) : (s.modGate g f).pfRecords = s.pfRecords := rfl
@[simp] theorem State.modGate_served (s : State) (g : BitVec 12) (f : Gate → Gate) : (s.modGate g f).served = s.served := rfl
@[simp] theorem State.modGate_handles (s : State) (g : BitVec 12) (f : Gate → Gate) : (s.modGate g f).handles = s.handles := rfl
@[simp] theorem State.modGate_stallCeil (s : State) (g : BitVec 12) (f : Gate → Gate) : (s.modGate g f).stallCeil = s.stallCeil := rfl
@[simp] theorem State.modGate_unitCeil (s : State) (g : BitVec 12) (f : Gate → Gate) : (s.modGate g f).unitCeil = s.unitCeil := rfl
@[simp] theorem State.modGate_power (s : State) (g : BitVec 12) (f : Gate → Gate) : (s.modGate g f).power = s.power := rfl
@[simp] theorem State.modGate_thermal (s : State) (g : BitVec 12) (f : Gate → Gate) : (s.modGate g f).thermal = s.thermal := rfl
@[simp] theorem State.modGate_watchdog (s : State) (g : BitVec 12) (f : Gate → Gate) : (s.modGate g f).watchdog = s.watchdog := rfl
@[simp] theorem State.modGate_timeout (s : State) (g : BitVec 12) (f : Gate → Gate) : (s.modGate g f).timeout = s.timeout := rfl
@[simp] theorem State.modGate_counters (s : State) (g : BitVec 12) (f : Gate → Gate) : (s.modGate g f).counters = s.counters := rfl
@[simp] theorem State.modGate_pkg (s : State) (g : BitVec 12) (f : Gate → Gate) : (s.modGate g f).pkg = s.pkg := rfl
@[simp] theorem State.modGate_routes (s : State) (g : BitVec 12) (f : Gate → Gate) : (s.modGate g f).routes = s.routes := rfl
@[simp] theorem State.modGate_staged (s : State) (g : BitVec 12) (f : Gate → Gate) : (s.modGate g f).staged = s.staged := rfl
@[simp] theorem State.modGate_ubeacUp (s : State) (g : BitVec 12) (f : Gate → Gate) : (s.modGate g f).ubeacUp = s.ubeacUp := rfl
@[simp] theorem State.modGate_laneUp (s : State) (g : BitVec 12) (f : Gate → Gate) : (s.modGate g f).laneUp = s.laneUp := rfl
@[simp] theorem State.modGate_laneReplays (s : State) (g : BitVec 12) (f : Gate → Gate) : (s.modGate g f).laneReplays = s.laneReplays := rfl
@[simp] theorem State.modGate_up (s : State) (g : BitVec 12) (f : Gate → Gate) : (s.modGate g f).up = s.up := rfl
@[simp] theorem State.modGate_stopped (s : State) (g : BitVec 12) (f : Gate → Gate) : (s.modGate g f).stopped = s.stopped := rfl
@[simp] theorem State.modGate_romGood (s : State) (g : BitVec 12) (f : Gate → Gate) : (s.modGate g f).romGood = s.romGood := rfl
@[simp] theorem State.modGate_engines (s : State) (g : BitVec 12) (f : Gate → Gate) : (s.modGate g f).engines = s.engines := rfl
@[simp] theorem State.modGate_storesWait (s : State) (g : BitVec 12) (f : Gate → Gate) : (s.modGate g f).storesWait = s.storesWait := rfl
@[simp] theorem State.modGate_work (s : State) (g : BitVec 12) (f : Gate → Gate) : (s.modGate g f).work = s.work := rfl
@[simp] theorem State.modGate_sent (s : State) (g : BitVec 12) (f : Gate → Gate) : (s.modGate g f).sent = s.sent := rfl
@[simp] theorem State.refill_time (s : State) (k : Nat) : (s.refill k).time = s.time := rfl
@[simp] theorem State.refill_mem (s : State) (k : Nat) : (s.refill k).mem = s.mem := rfl
@[simp] theorem State.refill_ecc (s : State) (k : Nat) : (s.refill k).ecc = s.ecc := rfl
@[simp] theorem State.refill_tlb (s : State) (k : Nat) : (s.refill k).tlb = s.tlb := rfl
@[simp] theorem State.refill_harts (s : State) (k : Nat) : (s.refill k).harts = s.harts := rfl
@[simp] theorem State.refill_cur (s : State) (k : Nat) : (s.refill k).cur = s.cur := rfl
@[simp] theorem State.refill_agenda (s : State) (k : Nat) : (s.refill k).agenda = s.agenda := rfl
@[simp] theorem State.refill_free (s : State) (k : Nat) : (s.refill k).free = s.free := rfl
@[simp] theorem State.refill_parts (s : State) (k : Nat) : (s.refill k).parts = s.parts := rfl
@[simp] theorem State.refill_exports (s : State) (k : Nat) : (s.refill k).exports = s.exports := rfl
@[simp] theorem State.refill_fenced (s : State) (k : Nat) : (s.refill k).fenced = s.fenced := rfl
@[simp] theorem State.refill_roots2 (s : State) (k : Nat) : (s.refill k).roots2 = s.roots2 := rfl
@[simp] theorem State.refill_funcs (s : State) (k : Nat) : (s.refill k).funcs = s.funcs := rfl
@[simp] theorem State.refill_tasks (s : State) (k : Nat) : (s.refill k).tasks = s.tasks := rfl
@[simp] theorem State.refill_waiters (s : State) (k : Nat) : (s.refill k).waiters = s.waiters := rfl
@[simp] theorem State.refill_nextTask (s : State) (k : Nat) : (s.refill k).nextTask = s.nextTask := rfl
@[simp] theorem State.refill_saves (s : State) (k : Nat) : (s.refill k).saves = s.saves := rfl
@[simp] theorem State.refill_records (s : State) (k : Nat) : (s.refill k).records = s.records := rfl
@[simp] theorem State.refill_pfRecords (s : State) (k : Nat) : (s.refill k).pfRecords = s.pfRecords := rfl
@[simp] theorem State.refill_served (s : State) (k : Nat) : (s.refill k).served = s.served := rfl
@[simp] theorem State.refill_handles (s : State) (k : Nat) : (s.refill k).handles = s.handles := rfl
@[simp] theorem State.refill_stallCeil (s : State) (k : Nat) : (s.refill k).stallCeil = s.stallCeil := rfl
@[simp] theorem State.refill_unitCeil (s : State) (k : Nat) : (s.refill k).unitCeil = s.unitCeil := rfl
@[simp] theorem State.refill_power (s : State) (k : Nat) : (s.refill k).power = s.power := rfl
@[simp] theorem State.refill_thermal (s : State) (k : Nat) : (s.refill k).thermal = s.thermal := rfl
@[simp] theorem State.refill_watchdog (s : State) (k : Nat) : (s.refill k).watchdog = s.watchdog := rfl
@[simp] theorem State.refill_timeout (s : State) (k : Nat) : (s.refill k).timeout = s.timeout := rfl
@[simp] theorem State.refill_counters (s : State) (k : Nat) : (s.refill k).counters = s.counters := rfl
@[simp] theorem State.refill_pkg (s : State) (k : Nat) : (s.refill k).pkg = s.pkg := rfl
@[simp] theorem State.refill_routes (s : State) (k : Nat) : (s.refill k).routes = s.routes := rfl
@[simp] theorem State.refill_staged (s : State) (k : Nat) : (s.refill k).staged = s.staged := rfl
@[simp] theorem State.refill_ubeacUp (s : State) (k : Nat) : (s.refill k).ubeacUp = s.ubeacUp := rfl
@[simp] theorem State.refill_laneUp (s : State) (k : Nat) : (s.refill k).laneUp = s.laneUp := rfl
@[simp] theorem State.refill_laneReplays (s : State) (k : Nat) : (s.refill k).laneReplays = s.laneReplays := rfl
@[simp] theorem State.refill_up (s : State) (k : Nat) : (s.refill k).up = s.up := rfl
@[simp] theorem State.refill_stopped (s : State) (k : Nat) : (s.refill k).stopped = s.stopped := rfl
@[simp] theorem State.refill_romGood (s : State) (k : Nat) : (s.refill k).romGood = s.romGood := rfl
@[simp] theorem State.refill_engines (s : State) (k : Nat) : (s.refill k).engines = s.engines := rfl
@[simp] theorem State.refill_storesWait (s : State) (k : Nat) : (s.refill k).storesWait = s.storesWait := rfl
@[simp] theorem State.refill_work (s : State) (k : Nat) : (s.refill k).work = s.work := rfl
@[simp] theorem State.refill_sent (s : State) (k : Nat) : (s.refill k).sent = s.sent := rfl
@[simp] theorem State.advance_mem (s : State) (n : Nat) : (s.advance n).mem = s.mem := rfl
@[simp] theorem State.advance_ecc (s : State) (n : Nat) : (s.advance n).ecc = s.ecc := rfl
@[simp] theorem State.advance_tlb (s : State) (n : Nat) : (s.advance n).tlb = s.tlb := rfl
@[simp] theorem State.advance_harts (s : State) (n : Nat) : (s.advance n).harts = s.harts := rfl
@[simp] theorem State.advance_cur (s : State) (n : Nat) : (s.advance n).cur = s.cur := rfl
@[simp] theorem State.advance_agenda (s : State) (n : Nat) : (s.advance n).agenda = s.agenda := rfl
@[simp] theorem State.advance_free (s : State) (n : Nat) : (s.advance n).free = s.free := rfl
@[simp] theorem State.advance_parts (s : State) (n : Nat) : (s.advance n).parts = s.parts := rfl
@[simp] theorem State.advance_exports (s : State) (n : Nat) : (s.advance n).exports = s.exports := rfl
@[simp] theorem State.advance_fenced (s : State) (n : Nat) : (s.advance n).fenced = s.fenced := rfl
@[simp] theorem State.advance_roots2 (s : State) (n : Nat) : (s.advance n).roots2 = s.roots2 := rfl
@[simp] theorem State.advance_funcs (s : State) (n : Nat) : (s.advance n).funcs = s.funcs := rfl
@[simp] theorem State.advance_tasks (s : State) (n : Nat) : (s.advance n).tasks = s.tasks := rfl
@[simp] theorem State.advance_waiters (s : State) (n : Nat) : (s.advance n).waiters = s.waiters := rfl
@[simp] theorem State.advance_nextTask (s : State) (n : Nat) : (s.advance n).nextTask = s.nextTask := rfl
@[simp] theorem State.advance_saves (s : State) (n : Nat) : (s.advance n).saves = s.saves := rfl
@[simp] theorem State.advance_records (s : State) (n : Nat) : (s.advance n).records = s.records := rfl
@[simp] theorem State.advance_pfRecords (s : State) (n : Nat) : (s.advance n).pfRecords = s.pfRecords := rfl
@[simp] theorem State.advance_served (s : State) (n : Nat) : (s.advance n).served = s.served := rfl
@[simp] theorem State.advance_handles (s : State) (n : Nat) : (s.advance n).handles = s.handles := rfl
@[simp] theorem State.advance_stallCeil (s : State) (n : Nat) : (s.advance n).stallCeil = s.stallCeil := rfl
@[simp] theorem State.advance_unitCeil (s : State) (n : Nat) : (s.advance n).unitCeil = s.unitCeil := rfl
@[simp] theorem State.advance_power (s : State) (n : Nat) : (s.advance n).power = s.power := rfl
@[simp] theorem State.advance_thermal (s : State) (n : Nat) : (s.advance n).thermal = s.thermal := rfl
@[simp] theorem State.advance_watchdog (s : State) (n : Nat) : (s.advance n).watchdog = s.watchdog := rfl
@[simp] theorem State.advance_timeout (s : State) (n : Nat) : (s.advance n).timeout = s.timeout := rfl
@[simp] theorem State.advance_counters (s : State) (n : Nat) : (s.advance n).counters = s.counters := rfl
@[simp] theorem State.advance_pkg (s : State) (n : Nat) : (s.advance n).pkg = s.pkg := rfl
@[simp] theorem State.advance_routes (s : State) (n : Nat) : (s.advance n).routes = s.routes := rfl
@[simp] theorem State.advance_staged (s : State) (n : Nat) : (s.advance n).staged = s.staged := rfl
@[simp] theorem State.advance_ubeacUp (s : State) (n : Nat) : (s.advance n).ubeacUp = s.ubeacUp := rfl
@[simp] theorem State.advance_laneUp (s : State) (n : Nat) : (s.advance n).laneUp = s.laneUp := rfl
@[simp] theorem State.advance_laneReplays (s : State) (n : Nat) : (s.advance n).laneReplays = s.laneReplays := rfl
@[simp] theorem State.advance_up (s : State) (n : Nat) : (s.advance n).up = s.up := rfl
@[simp] theorem State.advance_stopped (s : State) (n : Nat) : (s.advance n).stopped = s.stopped := rfl
@[simp] theorem State.advance_romGood (s : State) (n : Nat) : (s.advance n).romGood = s.romGood := rfl
@[simp] theorem State.advance_engines (s : State) (n : Nat) : (s.advance n).engines = s.engines := rfl
@[simp] theorem State.advance_storesWait (s : State) (n : Nat) : (s.advance n).storesWait = s.storesWait := rfl
@[simp] theorem State.advance_work (s : State) (n : Nat) : (s.advance n).work = s.work := rfl
@[simp] theorem State.advance_sent (s : State) (n : Nat) : (s.advance n).sent = s.sent := rfl
@[simp] theorem State.tick_mem (s : State) : (s.tick).mem = s.mem := rfl
@[simp] theorem State.tick_ecc (s : State) : (s.tick).ecc = s.ecc := rfl
@[simp] theorem State.tick_tlb (s : State) : (s.tick).tlb = s.tlb := rfl
@[simp] theorem State.tick_harts (s : State) : (s.tick).harts = s.harts := rfl
@[simp] theorem State.tick_cur (s : State) : (s.tick).cur = s.cur := rfl
@[simp] theorem State.tick_agenda (s : State) : (s.tick).agenda = s.agenda := rfl
@[simp] theorem State.tick_parts (s : State) : (s.tick).parts = s.parts := rfl
@[simp] theorem State.tick_exports (s : State) : (s.tick).exports = s.exports := rfl
@[simp] theorem State.tick_fenced (s : State) : (s.tick).fenced = s.fenced := rfl
@[simp] theorem State.tick_roots2 (s : State) : (s.tick).roots2 = s.roots2 := rfl
@[simp] theorem State.tick_funcs (s : State) : (s.tick).funcs = s.funcs := rfl
@[simp] theorem State.tick_tasks (s : State) : (s.tick).tasks = s.tasks := rfl
@[simp] theorem State.tick_waiters (s : State) : (s.tick).waiters = s.waiters := rfl
@[simp] theorem State.tick_nextTask (s : State) : (s.tick).nextTask = s.nextTask := rfl
@[simp] theorem State.tick_saves (s : State) : (s.tick).saves = s.saves := rfl
@[simp] theorem State.tick_records (s : State) : (s.tick).records = s.records := rfl
@[simp] theorem State.tick_pfRecords (s : State) : (s.tick).pfRecords = s.pfRecords := rfl
@[simp] theorem State.tick_served (s : State) : (s.tick).served = s.served := rfl
@[simp] theorem State.tick_handles (s : State) : (s.tick).handles = s.handles := rfl
@[simp] theorem State.tick_stallCeil (s : State) : (s.tick).stallCeil = s.stallCeil := rfl
@[simp] theorem State.tick_unitCeil (s : State) : (s.tick).unitCeil = s.unitCeil := rfl
@[simp] theorem State.tick_power (s : State) : (s.tick).power = s.power := rfl
@[simp] theorem State.tick_thermal (s : State) : (s.tick).thermal = s.thermal := rfl
@[simp] theorem State.tick_watchdog (s : State) : (s.tick).watchdog = s.watchdog := rfl
@[simp] theorem State.tick_timeout (s : State) : (s.tick).timeout = s.timeout := rfl
@[simp] theorem State.tick_counters (s : State) : (s.tick).counters = s.counters := rfl
@[simp] theorem State.tick_pkg (s : State) : (s.tick).pkg = s.pkg := rfl
@[simp] theorem State.tick_routes (s : State) : (s.tick).routes = s.routes := rfl
@[simp] theorem State.tick_staged (s : State) : (s.tick).staged = s.staged := rfl
@[simp] theorem State.tick_ubeacUp (s : State) : (s.tick).ubeacUp = s.ubeacUp := rfl
@[simp] theorem State.tick_laneUp (s : State) : (s.tick).laneUp = s.laneUp := rfl
@[simp] theorem State.tick_laneReplays (s : State) : (s.tick).laneReplays = s.laneReplays := rfl
@[simp] theorem State.tick_up (s : State) : (s.tick).up = s.up := rfl
@[simp] theorem State.tick_stopped (s : State) : (s.tick).stopped = s.stopped := rfl
@[simp] theorem State.tick_romGood (s : State) : (s.tick).romGood = s.romGood := rfl
@[simp] theorem State.tick_engines (s : State) : (s.tick).engines = s.engines := rfl
@[simp] theorem State.tick_storesWait (s : State) : (s.tick).storesWait = s.storesWait := rfl
@[simp] theorem State.tick_work (s : State) : (s.tick).work = s.work := rfl
@[simp] theorem State.tick_sent (s : State) : (s.tick).sent = s.sent := rfl
@[simp] theorem State.modHandle_time (s : State) (p : BitVec 5) (i : Nat) (f : HandleSlot → HandleSlot) : (s.modHandle p i f).time = s.time := rfl
@[simp] theorem State.modHandle_mem (s : State) (p : BitVec 5) (i : Nat) (f : HandleSlot → HandleSlot) : (s.modHandle p i f).mem = s.mem := rfl
@[simp] theorem State.modHandle_ecc (s : State) (p : BitVec 5) (i : Nat) (f : HandleSlot → HandleSlot) : (s.modHandle p i f).ecc = s.ecc := rfl
@[simp] theorem State.modHandle_tlb (s : State) (p : BitVec 5) (i : Nat) (f : HandleSlot → HandleSlot) : (s.modHandle p i f).tlb = s.tlb := rfl
@[simp] theorem State.modHandle_harts (s : State) (p : BitVec 5) (i : Nat) (f : HandleSlot → HandleSlot) : (s.modHandle p i f).harts = s.harts := rfl
@[simp] theorem State.modHandle_cur (s : State) (p : BitVec 5) (i : Nat) (f : HandleSlot → HandleSlot) : (s.modHandle p i f).cur = s.cur := rfl
@[simp] theorem State.modHandle_agenda (s : State) (p : BitVec 5) (i : Nat) (f : HandleSlot → HandleSlot) : (s.modHandle p i f).agenda = s.agenda := rfl
@[simp] theorem State.modHandle_free (s : State) (p : BitVec 5) (i : Nat) (f : HandleSlot → HandleSlot) : (s.modHandle p i f).free = s.free := rfl
@[simp] theorem State.modHandle_parts (s : State) (p : BitVec 5) (i : Nat) (f : HandleSlot → HandleSlot) : (s.modHandle p i f).parts = s.parts := rfl
@[simp] theorem State.modHandle_exports (s : State) (p : BitVec 5) (i : Nat) (f : HandleSlot → HandleSlot) : (s.modHandle p i f).exports = s.exports := rfl
@[simp] theorem State.modHandle_fenced (s : State) (p : BitVec 5) (i : Nat) (f : HandleSlot → HandleSlot) : (s.modHandle p i f).fenced = s.fenced := rfl
@[simp] theorem State.modHandle_roots2 (s : State) (p : BitVec 5) (i : Nat) (f : HandleSlot → HandleSlot) : (s.modHandle p i f).roots2 = s.roots2 := rfl
@[simp] theorem State.modHandle_funcs (s : State) (p : BitVec 5) (i : Nat) (f : HandleSlot → HandleSlot) : (s.modHandle p i f).funcs = s.funcs := rfl
@[simp] theorem State.modHandle_tasks (s : State) (p : BitVec 5) (i : Nat) (f : HandleSlot → HandleSlot) : (s.modHandle p i f).tasks = s.tasks := rfl
@[simp] theorem State.modHandle_waiters (s : State) (p : BitVec 5) (i : Nat) (f : HandleSlot → HandleSlot) : (s.modHandle p i f).waiters = s.waiters := rfl
@[simp] theorem State.modHandle_nextTask (s : State) (p : BitVec 5) (i : Nat) (f : HandleSlot → HandleSlot) : (s.modHandle p i f).nextTask = s.nextTask := rfl
@[simp] theorem State.modHandle_saves (s : State) (p : BitVec 5) (i : Nat) (f : HandleSlot → HandleSlot) : (s.modHandle p i f).saves = s.saves := rfl
@[simp] theorem State.modHandle_records (s : State) (p : BitVec 5) (i : Nat) (f : HandleSlot → HandleSlot) : (s.modHandle p i f).records = s.records := rfl
@[simp] theorem State.modHandle_pfRecords (s : State) (p : BitVec 5) (i : Nat) (f : HandleSlot → HandleSlot) : (s.modHandle p i f).pfRecords = s.pfRecords := rfl
@[simp] theorem State.modHandle_served (s : State) (p : BitVec 5) (i : Nat) (f : HandleSlot → HandleSlot) : (s.modHandle p i f).served = s.served := rfl
@[simp] theorem State.modHandle_gates (s : State) (p : BitVec 5) (i : Nat) (f : HandleSlot → HandleSlot) : (s.modHandle p i f).gates = s.gates := rfl
@[simp] theorem State.modHandle_stallCeil (s : State) (p : BitVec 5) (i : Nat) (f : HandleSlot → HandleSlot) : (s.modHandle p i f).stallCeil = s.stallCeil := rfl
@[simp] theorem State.modHandle_unitCeil (s : State) (p : BitVec 5) (i : Nat) (f : HandleSlot → HandleSlot) : (s.modHandle p i f).unitCeil = s.unitCeil := rfl
@[simp] theorem State.modHandle_power (s : State) (p : BitVec 5) (i : Nat) (f : HandleSlot → HandleSlot) : (s.modHandle p i f).power = s.power := rfl
@[simp] theorem State.modHandle_thermal (s : State) (p : BitVec 5) (i : Nat) (f : HandleSlot → HandleSlot) : (s.modHandle p i f).thermal = s.thermal := rfl
@[simp] theorem State.modHandle_watchdog (s : State) (p : BitVec 5) (i : Nat) (f : HandleSlot → HandleSlot) : (s.modHandle p i f).watchdog = s.watchdog := rfl
@[simp] theorem State.modHandle_timeout (s : State) (p : BitVec 5) (i : Nat) (f : HandleSlot → HandleSlot) : (s.modHandle p i f).timeout = s.timeout := rfl
@[simp] theorem State.modHandle_counters (s : State) (p : BitVec 5) (i : Nat) (f : HandleSlot → HandleSlot) : (s.modHandle p i f).counters = s.counters := rfl
@[simp] theorem State.modHandle_pkg (s : State) (p : BitVec 5) (i : Nat) (f : HandleSlot → HandleSlot) : (s.modHandle p i f).pkg = s.pkg := rfl
@[simp] theorem State.modHandle_routes (s : State) (p : BitVec 5) (i : Nat) (f : HandleSlot → HandleSlot) : (s.modHandle p i f).routes = s.routes := rfl
@[simp] theorem State.modHandle_staged (s : State) (p : BitVec 5) (i : Nat) (f : HandleSlot → HandleSlot) : (s.modHandle p i f).staged = s.staged := rfl
@[simp] theorem State.modHandle_ubeacUp (s : State) (p : BitVec 5) (i : Nat) (f : HandleSlot → HandleSlot) : (s.modHandle p i f).ubeacUp = s.ubeacUp := rfl
@[simp] theorem State.modHandle_laneUp (s : State) (p : BitVec 5) (i : Nat) (f : HandleSlot → HandleSlot) : (s.modHandle p i f).laneUp = s.laneUp := rfl
@[simp] theorem State.modHandle_laneReplays (s : State) (p : BitVec 5) (i : Nat) (f : HandleSlot → HandleSlot) : (s.modHandle p i f).laneReplays = s.laneReplays := rfl
@[simp] theorem State.modHandle_up (s : State) (p : BitVec 5) (i : Nat) (f : HandleSlot → HandleSlot) : (s.modHandle p i f).up = s.up := rfl
@[simp] theorem State.modHandle_stopped (s : State) (p : BitVec 5) (i : Nat) (f : HandleSlot → HandleSlot) : (s.modHandle p i f).stopped = s.stopped := rfl
@[simp] theorem State.modHandle_romGood (s : State) (p : BitVec 5) (i : Nat) (f : HandleSlot → HandleSlot) : (s.modHandle p i f).romGood = s.romGood := rfl
@[simp] theorem State.modHandle_engines (s : State) (p : BitVec 5) (i : Nat) (f : HandleSlot → HandleSlot) : (s.modHandle p i f).engines = s.engines := rfl
@[simp] theorem State.modHandle_storesWait (s : State) (p : BitVec 5) (i : Nat) (f : HandleSlot → HandleSlot) : (s.modHandle p i f).storesWait = s.storesWait := rfl
@[simp] theorem State.modHandle_work (s : State) (p : BitVec 5) (i : Nat) (f : HandleSlot → HandleSlot) : (s.modHandle p i f).work = s.work := rfl
@[simp] theorem State.modHandle_sent (s : State) (p : BitVec 5) (i : Nat) (f : HandleSlot → HandleSlot) : (s.modHandle p i f).sent = s.sent := rfl
@[simp] theorem State.leaveTolls_time (s : State) (i : Fin 64) : (s.leaveTolls i).time = s.time := rfl
@[simp] theorem State.leaveTolls_mem (s : State) (i : Fin 64) : (s.leaveTolls i).mem = s.mem := rfl
@[simp] theorem State.leaveTolls_ecc (s : State) (i : Fin 64) : (s.leaveTolls i).ecc = s.ecc := rfl
@[simp] theorem State.leaveTolls_tlb (s : State) (i : Fin 64) : (s.leaveTolls i).tlb = s.tlb := rfl
@[simp] theorem State.leaveTolls_harts (s : State) (i : Fin 64) : (s.leaveTolls i).harts = s.harts := rfl
@[simp] theorem State.leaveTolls_cur (s : State) (i : Fin 64) : (s.leaveTolls i).cur = s.cur := rfl
@[simp] theorem State.leaveTolls_agenda (s : State) (i : Fin 64) : (s.leaveTolls i).agenda = s.agenda := rfl
@[simp] theorem State.leaveTolls_free (s : State) (i : Fin 64) : (s.leaveTolls i).free = s.free := rfl
@[simp] theorem State.leaveTolls_parts (s : State) (i : Fin 64) : (s.leaveTolls i).parts = s.parts := rfl
@[simp] theorem State.leaveTolls_exports (s : State) (i : Fin 64) : (s.leaveTolls i).exports = s.exports := rfl
@[simp] theorem State.leaveTolls_fenced (s : State) (i : Fin 64) : (s.leaveTolls i).fenced = s.fenced := rfl
@[simp] theorem State.leaveTolls_roots2 (s : State) (i : Fin 64) : (s.leaveTolls i).roots2 = s.roots2 := rfl
@[simp] theorem State.leaveTolls_funcs (s : State) (i : Fin 64) : (s.leaveTolls i).funcs = s.funcs := rfl
@[simp] theorem State.leaveTolls_tasks (s : State) (i : Fin 64) : (s.leaveTolls i).tasks = s.tasks := rfl
@[simp] theorem State.leaveTolls_waiters (s : State) (i : Fin 64) : (s.leaveTolls i).waiters = s.waiters := rfl
@[simp] theorem State.leaveTolls_nextTask (s : State) (i : Fin 64) : (s.leaveTolls i).nextTask = s.nextTask := rfl
@[simp] theorem State.leaveTolls_saves (s : State) (i : Fin 64) : (s.leaveTolls i).saves = s.saves := rfl
@[simp] theorem State.leaveTolls_records (s : State) (i : Fin 64) : (s.leaveTolls i).records = s.records := rfl
@[simp] theorem State.leaveTolls_pfRecords (s : State) (i : Fin 64) : (s.leaveTolls i).pfRecords = s.pfRecords := rfl
@[simp] theorem State.leaveTolls_served (s : State) (i : Fin 64) : (s.leaveTolls i).served = s.served := rfl
@[simp] theorem State.leaveTolls_handles (s : State) (i : Fin 64) : (s.leaveTolls i).handles = s.handles := rfl
@[simp] theorem State.leaveTolls_stallCeil (s : State) (i : Fin 64) : (s.leaveTolls i).stallCeil = s.stallCeil := rfl
@[simp] theorem State.leaveTolls_unitCeil (s : State) (i : Fin 64) : (s.leaveTolls i).unitCeil = s.unitCeil := rfl
@[simp] theorem State.leaveTolls_power (s : State) (i : Fin 64) : (s.leaveTolls i).power = s.power := rfl
@[simp] theorem State.leaveTolls_thermal (s : State) (i : Fin 64) : (s.leaveTolls i).thermal = s.thermal := rfl
@[simp] theorem State.leaveTolls_watchdog (s : State) (i : Fin 64) : (s.leaveTolls i).watchdog = s.watchdog := rfl
@[simp] theorem State.leaveTolls_timeout (s : State) (i : Fin 64) : (s.leaveTolls i).timeout = s.timeout := rfl
@[simp] theorem State.leaveTolls_counters (s : State) (i : Fin 64) : (s.leaveTolls i).counters = s.counters := rfl
@[simp] theorem State.leaveTolls_pkg (s : State) (i : Fin 64) : (s.leaveTolls i).pkg = s.pkg := rfl
@[simp] theorem State.leaveTolls_routes (s : State) (i : Fin 64) : (s.leaveTolls i).routes = s.routes := rfl
@[simp] theorem State.leaveTolls_staged (s : State) (i : Fin 64) : (s.leaveTolls i).staged = s.staged := rfl
@[simp] theorem State.leaveTolls_ubeacUp (s : State) (i : Fin 64) : (s.leaveTolls i).ubeacUp = s.ubeacUp := rfl
@[simp] theorem State.leaveTolls_laneUp (s : State) (i : Fin 64) : (s.leaveTolls i).laneUp = s.laneUp := rfl
@[simp] theorem State.leaveTolls_laneReplays (s : State) (i : Fin 64) : (s.leaveTolls i).laneReplays = s.laneReplays := rfl
@[simp] theorem State.leaveTolls_up (s : State) (i : Fin 64) : (s.leaveTolls i).up = s.up := rfl
@[simp] theorem State.leaveTolls_stopped (s : State) (i : Fin 64) : (s.leaveTolls i).stopped = s.stopped := rfl
@[simp] theorem State.leaveTolls_romGood (s : State) (i : Fin 64) : (s.leaveTolls i).romGood = s.romGood := rfl
@[simp] theorem State.leaveTolls_engines (s : State) (i : Fin 64) : (s.leaveTolls i).engines = s.engines := rfl
@[simp] theorem State.leaveTolls_storesWait (s : State) (i : Fin 64) : (s.leaveTolls i).storesWait = s.storesWait := rfl
@[simp] theorem State.leaveTolls_work (s : State) (i : Fin 64) : (s.leaveTolls i).work = s.work := rfl
@[simp] theorem State.leaveTolls_sent (s : State) (i : Fin 64) : (s.leaveTolls i).sent = s.sent := rfl
@[simp] theorem State.dropPages_time (s : State) (p : CachedPage → Bool) : (s.dropPages p).time = s.time := rfl
@[simp] theorem State.dropPages_mem (s : State) (p : CachedPage → Bool) : (s.dropPages p).mem = s.mem := rfl
@[simp] theorem State.dropPages_ecc (s : State) (p : CachedPage → Bool) : (s.dropPages p).ecc = s.ecc := rfl
@[simp] theorem State.dropPages_harts (s : State) (p : CachedPage → Bool) : (s.dropPages p).harts = s.harts := rfl
@[simp] theorem State.dropPages_cur (s : State) (p : CachedPage → Bool) : (s.dropPages p).cur = s.cur := rfl
@[simp] theorem State.dropPages_agenda (s : State) (p : CachedPage → Bool) : (s.dropPages p).agenda = s.agenda := rfl
@[simp] theorem State.dropPages_free (s : State) (p : CachedPage → Bool) : (s.dropPages p).free = s.free := rfl
@[simp] theorem State.dropPages_parts (s : State) (p : CachedPage → Bool) : (s.dropPages p).parts = s.parts := rfl
@[simp] theorem State.dropPages_exports (s : State) (p : CachedPage → Bool) : (s.dropPages p).exports = s.exports := rfl
@[simp] theorem State.dropPages_fenced (s : State) (p : CachedPage → Bool) : (s.dropPages p).fenced = s.fenced := rfl
@[simp] theorem State.dropPages_roots2 (s : State) (p : CachedPage → Bool) : (s.dropPages p).roots2 = s.roots2 := rfl
@[simp] theorem State.dropPages_funcs (s : State) (p : CachedPage → Bool) : (s.dropPages p).funcs = s.funcs := rfl
@[simp] theorem State.dropPages_tasks (s : State) (p : CachedPage → Bool) : (s.dropPages p).tasks = s.tasks := rfl
@[simp] theorem State.dropPages_waiters (s : State) (p : CachedPage → Bool) : (s.dropPages p).waiters = s.waiters := rfl
@[simp] theorem State.dropPages_nextTask (s : State) (p : CachedPage → Bool) : (s.dropPages p).nextTask = s.nextTask := rfl
@[simp] theorem State.dropPages_saves (s : State) (p : CachedPage → Bool) : (s.dropPages p).saves = s.saves := rfl
@[simp] theorem State.dropPages_records (s : State) (p : CachedPage → Bool) : (s.dropPages p).records = s.records := rfl
@[simp] theorem State.dropPages_pfRecords (s : State) (p : CachedPage → Bool) : (s.dropPages p).pfRecords = s.pfRecords := rfl
@[simp] theorem State.dropPages_served (s : State) (p : CachedPage → Bool) : (s.dropPages p).served = s.served := rfl
@[simp] theorem State.dropPages_gates (s : State) (p : CachedPage → Bool) : (s.dropPages p).gates = s.gates := rfl
@[simp] theorem State.dropPages_handles (s : State) (p : CachedPage → Bool) : (s.dropPages p).handles = s.handles := rfl
@[simp] theorem State.dropPages_stallCeil (s : State) (p : CachedPage → Bool) : (s.dropPages p).stallCeil = s.stallCeil := rfl
@[simp] theorem State.dropPages_unitCeil (s : State) (p : CachedPage → Bool) : (s.dropPages p).unitCeil = s.unitCeil := rfl
@[simp] theorem State.dropPages_power (s : State) (p : CachedPage → Bool) : (s.dropPages p).power = s.power := rfl
@[simp] theorem State.dropPages_thermal (s : State) (p : CachedPage → Bool) : (s.dropPages p).thermal = s.thermal := rfl
@[simp] theorem State.dropPages_watchdog (s : State) (p : CachedPage → Bool) : (s.dropPages p).watchdog = s.watchdog := rfl
@[simp] theorem State.dropPages_timeout (s : State) (p : CachedPage → Bool) : (s.dropPages p).timeout = s.timeout := rfl
@[simp] theorem State.dropPages_counters (s : State) (p : CachedPage → Bool) : (s.dropPages p).counters = s.counters := rfl
@[simp] theorem State.dropPages_pkg (s : State) (p : CachedPage → Bool) : (s.dropPages p).pkg = s.pkg := rfl
@[simp] theorem State.dropPages_routes (s : State) (p : CachedPage → Bool) : (s.dropPages p).routes = s.routes := rfl
@[simp] theorem State.dropPages_staged (s : State) (p : CachedPage → Bool) : (s.dropPages p).staged = s.staged := rfl
@[simp] theorem State.dropPages_ubeacUp (s : State) (p : CachedPage → Bool) : (s.dropPages p).ubeacUp = s.ubeacUp := rfl
@[simp] theorem State.dropPages_laneUp (s : State) (p : CachedPage → Bool) : (s.dropPages p).laneUp = s.laneUp := rfl
@[simp] theorem State.dropPages_laneReplays (s : State) (p : CachedPage → Bool) : (s.dropPages p).laneReplays = s.laneReplays := rfl
@[simp] theorem State.dropPages_up (s : State) (p : CachedPage → Bool) : (s.dropPages p).up = s.up := rfl
@[simp] theorem State.dropPages_stopped (s : State) (p : CachedPage → Bool) : (s.dropPages p).stopped = s.stopped := rfl
@[simp] theorem State.dropPages_romGood (s : State) (p : CachedPage → Bool) : (s.dropPages p).romGood = s.romGood := rfl
@[simp] theorem State.dropPages_engines (s : State) (p : CachedPage → Bool) : (s.dropPages p).engines = s.engines := rfl
@[simp] theorem State.dropPages_storesWait (s : State) (p : CachedPage → Bool) : (s.dropPages p).storesWait = s.storesWait := rfl
@[simp] theorem State.dropPages_work (s : State) (p : CachedPage → Bool) : (s.dropPages p).work = s.work := rfl
@[simp] theorem State.dropPages_sent (s : State) (p : CachedPage → Bool) : (s.dropPages p).sent = s.sent := rfl

/-! ### The hart: registers and retirement -/

@[simp] theorem Hart.setS_run (h : Hart) (n : BitVec 6) (x : Word) : (h.setS n x).run = h.run := by unfold Hart.setS; split <;> rfl
@[simp] theorem Hart.setS_asReturn (h : Hart) (n : BitVec 6) (x : Word) : (h.setS n x).asReturn = h.asReturn := by unfold Hart.setS; split <;> rfl
@[simp] theorem Hart.setS_f (h : Hart) (n : BitVec 6) (x : Word) : (h.setS n x).f = h.f := by unfold Hart.setS; split <;> rfl
@[simp] theorem Hart.setS_v (h : Hart) (n : BitVec 6) (x : Word) : (h.setS n x).v = h.v := by unfold Hart.setS; split <;> rfl
@[simp] theorem Hart.setS_m (h : Hart) (n : BitVec 6) (x : Word) : (h.setS n x).m = h.m := by unfold Hart.setS; split <;> rfl
@[simp] theorem Hart.setS_c (h : Hart) (n : BitVec 6) (x : Word) : (h.setS n x).c = h.c := by unfold Hart.setS; split <;> rfl
@[simp] theorem Hart.setS_vLive (h : Hart) (n : BitVec 6) (x : Word) : (h.setS n x).vLive = h.vLive := by unfold Hart.setS; split <;> rfl
@[simp] theorem Hart.setS_mLive (h : Hart) (n : BitVec 6) (x : Word) : (h.setS n x).mLive = h.mLive := by unfold Hart.setS; split <;> rfl
@[simp] theorem Hart.setS_cLive (h : Hart) (n : BitVec 6) (x : Word) : (h.setS n x).cLive = h.cLive := by unfold Hart.setS; split <;> rfl
@[simp] theorem Hart.setS_pc (h : Hart) (n : BitVec 6) (x : Word) : (h.setS n x).pc = h.pc := by unfold Hart.setS; split <;> rfl
@[simp] theorem Hart.setS_ld (h : Hart) (n : BitVec 6) (x : Word) : (h.setS n x).ld = h.ld := by unfold Hart.setS; split <;> rfl
@[simp] theorem Hart.setS_status (h : Hart) (n : BitVec 6) (x : Word) : (h.setS n x).status = h.status := by unfold Hart.setS; split <;> rfl
@[simp] theorem Hart.setS_cause (h : Hart) (n : BitVec 6) (x : Word) : (h.setS n x).cause = h.cause := by unfold Hart.setS; split <;> rfl
@[simp] theorem Hart.setS_epc (h : Hart) (n : BitVec 6) (x : Word) : (h.setS n x).epc = h.epc := by unfold Hart.setS; split <;> rfl
@[simp] theorem Hart.setS_ei (h : Hart) (n : BitVec 6) (x : Word) : (h.setS n x).ei = h.ei := by unfold Hart.setS; split <;> rfl
@[simp] theorem Hart.setS_faddr (h : Hart) (n : BitVec 6) (x : Word) : (h.setS n x).faddr = h.faddr := by unfold Hart.setS; split <;> rfl
@[simp] theorem Hart.setS_et (h : Hart) (n : BitVec 6) (x : Word) : (h.setS n x).et = h.et := by unfold Hart.setS; split <;> rfl
@[simp] theorem Hart.setS_vl (h : Hart) (n : BitVec 6) (x : Word) : (h.setS n x).vl = h.vl := by unfold Hart.setS; split <;> rfl
@[simp] theorem Hart.setS_grant (h : Hart) (n : BitVec 6) (x : Word) : (h.setS n x).grant = h.grant := by unfold Hart.setS; split <;> rfl
@[simp] theorem Hart.setS_lease (h : Hart) (n : BitVec 6) (x : Word) : (h.setS n x).lease = h.lease := by unfold Hart.setS; split <;> rfl
@[simp] theorem Hart.setS_vstat (h : Hart) (n : BitVec 6) (x : Word) : (h.setS n x).vstat = h.vstat := by unfold Hart.setS; split <;> rfl
@[simp] theorem Hart.setS_ffmask (h : Hart) (n : BitVec 6) (x : Word) : (h.setS n x).ffmask = h.ffmask := by unfold Hart.setS; split <;> rfl
@[simp] theorem Hart.setS_cmask (h : Hart) (n : BitVec 6) (x : Word) : (h.setS n x).cmask = h.cmask := by unfold Hart.setS; split <;> rfl
@[simp] theorem Hart.setS_scope (h : Hart) (n : BitVec 6) (x : Word) : (h.setS n x).scope = h.scope := by unfold Hart.setS; split <;> rfl
@[simp] theorem Hart.setS_rng (h : Hart) (n : BitVec 6) (x : Word) : (h.setS n x).rng = h.rng := by unfold Hart.setS; split <;> rfl
@[simp] theorem Hart.setS_viq (h : Hart) (n : BitVec 6) (x : Word) : (h.setS n x).viq = h.viq := by unfold Hart.setS; split <;> rfl
@[simp] theorem Hart.setS_piq (h : Hart) (n : BitVec 6) (x : Word) : (h.setS n x).piq = h.piq := by unfold Hart.setS; split <;> rfl
@[simp] theorem Hart.setS_miq (h : Hart) (n : BitVec 6) (x : Word) : (h.setS n x).miq = h.miq := by unfold Hart.setS; split <;> rfl
@[simp] theorem Hart.setS_srq (h : Hart) (n : BitVec 6) (x : Word) : (h.setS n x).srq = h.srq := by unfold Hart.setS; split <;> rfl
@[simp] theorem Hart.setS_bq (h : Hart) (n : BitVec 6) (x : Word) : (h.setS n x).bq = h.bq := by unfold Hart.setS; split <;> rfl
@[simp] theorem Hart.setS_nextSeq (h : Hart) (n : BitVec 6) (x : Word) : (h.setS n x).nextSeq = h.nextSeq := by unfold Hart.setS; split <;> rfl
@[simp] theorem Hart.setS_held (h : Hart) (n : BitVec 6) (x : Word) : (h.setS n x).held = h.held := by unfold Hart.setS; split <;> rfl
@[simp] theorem Hart.setS_outer (h : Hart) (n : BitVec 6) (x : Word) : (h.setS n x).outer = h.outer := by unfold Hart.setS; split <;> rfl
@[simp] theorem Hart.setS_dbg (h : Hart) (n : BitVec 6) (x : Word) : (h.setS n x).dbg = h.dbg := by unfold Hart.setS; split <;> rfl
@[simp] theorem Hart.setS_streams (h : Hart) (n : BitVec 6) (x : Word) : (h.setS n x).streams = h.streams := by unfold Hart.setS; split <;> rfl
@[simp] theorem Hart.setS_copies (h : Hart) (n : BitVec 6) (x : Word) : (h.setS n x).copies = h.copies := by unfold Hart.setS; split <;> rfl
@[simp] theorem Hart.setS_links (h : Hart) (n : BitVec 6) (x : Word) : (h.setS n x).links = h.links := by unfold Hart.setS; split <;> rfl
@[simp] theorem Hart.setS_fnodes (h : Hart) (n : BitVec 6) (x : Word) : (h.setS n x).fnodes = h.fnodes := by unfold Hart.setS; split <;> rfl
@[simp] theorem Hart.setS_ftokens (h : Hart) (n : BitVec 6) (x : Word) : (h.setS n x).ftokens = h.ftokens := by unfold Hart.setS; split <;> rfl
@[simp] theorem Hart.setS_bell (h : Hart) (n : BitVec 6) (x : Word) : (h.setS n x).bell = h.bell := by unfold Hart.setS; split <;> rfl
@[simp] theorem Hart.setS_windows (h : Hart) (n : BitVec 6) (x : Word) : (h.setS n x).windows = h.windows := by unfold Hart.setS; split <;> rfl
@[simp] theorem Hart.setS_chain (h : Hart) (n : BitVec 6) (x : Word) : (h.setS n x).chain = h.chain := by unfold Hart.setS; split <;> rfl
@[simp] theorem Hart.setS_onodes (h : Hart) (n : BitVec 6) (x : Word) : (h.setS n x).onodes = h.onodes := by unfold Hart.setS; split <;> rfl
@[simp] theorem Hart.setS_skip (h : Hart) (n : BitVec 6) (x : Word) : (h.setS n x).skip = h.skip := by unfold Hart.setS; split <;> rfl
@[simp] theorem Hart.setS_skipV (h : Hart) (n : BitVec 6) (x : Word) : (h.setS n x).skipV = h.skipV := by unfold Hart.setS; split <;> rfl
@[simp] theorem Hart.setS_mreq (h : Hart) (n : BitVec 6) (x : Word) : (h.setS n x).mreq = h.mreq := by unfold Hart.setS; split <;> rfl
@[simp] theorem Hart.setS_units (h : Hart) (n : BitVec 6) (x : Word) : (h.setS n x).units = h.units := by unfold Hart.setS; split <;> rfl
@[simp] theorem Hart.setS_unitSince (h : Hart) (n : BitVec 6) (x : Word) : (h.setS n x).unitSince = h.unitSince := by unfold Hart.setS; split <;> rfl
@[simp] theorem Hart.setS_unitTarget (h : Hart) (n : BitVec 6) (x : Word) : (h.setS n x).unitTarget = h.unitTarget := by unfold Hart.setS; split <;> rfl
@[simp] theorem Hart.setS_stallSince (h : Hart) (n : BitVec 6) (x : Word) : (h.setS n x).stallSince = h.stallSince := by unfold Hart.setS; split <;> rfl
@[simp] theorem Hart.setS_target (h : Hart) (n : BitVec 6) (x : Word) : (h.setS n x).target = h.target := by unfold Hart.setS; split <;> rfl
@[simp] theorem Hart.setS_armed (h : Hart) (n : BitVec 6) (x : Word) : (h.setS n x).armed = h.armed := by unfold Hart.setS; split <;> rfl
@[simp] theorem Hart.setS_stepping (h : Hart) (n : BitVec 6) (x : Word) : (h.setS n x).stepping = h.stepping := by unfold Hart.setS; split <;> rfl
@[simp] theorem Hart.setS_lateStores (h : Hart) (n : BitVec 6) (x : Word) : (h.setS n x).lateStores = h.lateStores := by unfold Hart.setS; split <;> rfl
@[simp] theorem Hart.setS_late (h : Hart) (n : BitVec 6) (x : Word) : (h.setS n x).late = h.late := by unfold Hart.setS; split <;> rfl
@[simp] theorem Hart.setS_unperformed (h : Hart) (n : BitVec 6) (x : Word) : (h.setS n x).unperformed = h.unperformed := by unfold Hart.setS; split <;> rfl
@[simp] theorem Hart.setS_leaving (h : Hart) (n : BitVec 6) (x : Word) : (h.setS n x).leaving = h.leaving := by unfold Hart.setS; split <;> rfl
@[simp] theorem Hart.setS_unitsDue (h : Hart) (n : BitVec 6) (x : Word) : (h.setS n x).unitsDue = h.unitsDue := by unfold Hart.setS; split <;> rfl
@[simp] theorem Hart.setS_gateWait (h : Hart) (n : BitVec 6) (x : Word) : (h.setS n x).gateWait = h.gateWait := by unfold Hart.setS; split <;> rfl
@[simp] theorem Hart.setS_wdogOwed (h : Hart) (n : BitVec 6) (x : Word) : (h.setS n x).wdogOwed = h.wdogOwed := by unfold Hart.setS; split <;> rfl
@[simp] theorem Hart.setS_fn (h : Hart) (n : BitVec 6) (x : Word) : (h.setS n x).fn = h.fn := by unfold Hart.setS; split <;> rfl
@[simp] theorem Hart.setS_seq (h : Hart) (n : BitVec 6) (x : Word) : (h.setS n x).seq = h.seq := by unfold Hart.setS; split <;> rfl
@[simp] theorem Hart.setS_index (h : Hart) (n : BitVec 6) (x : Word) : (h.setS n x).index = h.index := by unfold Hart.setS; split <;> rfl
@[simp] theorem Hart.setS_handler (h : Hart) (n : BitVec 6) (x : Word) : (h.setS n x).handler = h.handler := by unfold Hart.setS; split <;> rfl
@[simp] theorem Hart.setS_recordFn (h : Hart) (n : BitVec 6) (x : Word) : (h.setS n x).recordFn = h.recordFn := by unfold Hart.setS; split <;> rfl
@[simp] theorem Hart.setF_run (h : Hart) (n : BitVec 5) (x : Word) : (h.setF n x).run = h.run := rfl
@[simp] theorem Hart.setF_asReturn (h : Hart) (n : BitVec 5) (x : Word) : (h.setF n x).asReturn = h.asReturn := rfl
@[simp] theorem Hart.setF_s (h : Hart) (n : BitVec 5) (x : Word) : (h.setF n x).s = h.s := rfl
@[simp] theorem Hart.setF_v (h : Hart) (n : BitVec 5) (x : Word) : (h.setF n x).v = h.v := rfl
@[simp] theorem Hart.setF_m (h : Hart) (n : BitVec 5) (x : Word) : (h.setF n x).m = h.m := rfl
@[simp] theorem Hart.setF_c (h : Hart) (n : BitVec 5) (x : Word) : (h.setF n x).c = h.c := rfl
@[simp] theorem Hart.setF_vLive (h : Hart) (n : BitVec 5) (x : Word) : (h.setF n x).vLive = h.vLive := rfl
@[simp] theorem Hart.setF_mLive (h : Hart) (n : BitVec 5) (x : Word) : (h.setF n x).mLive = h.mLive := rfl
@[simp] theorem Hart.setF_cLive (h : Hart) (n : BitVec 5) (x : Word) : (h.setF n x).cLive = h.cLive := rfl
@[simp] theorem Hart.setF_pc (h : Hart) (n : BitVec 5) (x : Word) : (h.setF n x).pc = h.pc := rfl
@[simp] theorem Hart.setF_ld (h : Hart) (n : BitVec 5) (x : Word) : (h.setF n x).ld = h.ld := rfl
@[simp] theorem Hart.setF_status (h : Hart) (n : BitVec 5) (x : Word) : (h.setF n x).status = h.status := rfl
@[simp] theorem Hart.setF_cause (h : Hart) (n : BitVec 5) (x : Word) : (h.setF n x).cause = h.cause := rfl
@[simp] theorem Hart.setF_epc (h : Hart) (n : BitVec 5) (x : Word) : (h.setF n x).epc = h.epc := rfl
@[simp] theorem Hart.setF_ei (h : Hart) (n : BitVec 5) (x : Word) : (h.setF n x).ei = h.ei := rfl
@[simp] theorem Hart.setF_faddr (h : Hart) (n : BitVec 5) (x : Word) : (h.setF n x).faddr = h.faddr := rfl
@[simp] theorem Hart.setF_et (h : Hart) (n : BitVec 5) (x : Word) : (h.setF n x).et = h.et := rfl
@[simp] theorem Hart.setF_vl (h : Hart) (n : BitVec 5) (x : Word) : (h.setF n x).vl = h.vl := rfl
@[simp] theorem Hart.setF_grant (h : Hart) (n : BitVec 5) (x : Word) : (h.setF n x).grant = h.grant := rfl
@[simp] theorem Hart.setF_lease (h : Hart) (n : BitVec 5) (x : Word) : (h.setF n x).lease = h.lease := rfl
@[simp] theorem Hart.setF_vstat (h : Hart) (n : BitVec 5) (x : Word) : (h.setF n x).vstat = h.vstat := rfl
@[simp] theorem Hart.setF_ffmask (h : Hart) (n : BitVec 5) (x : Word) : (h.setF n x).ffmask = h.ffmask := rfl
@[simp] theorem Hart.setF_cmask (h : Hart) (n : BitVec 5) (x : Word) : (h.setF n x).cmask = h.cmask := rfl
@[simp] theorem Hart.setF_scope (h : Hart) (n : BitVec 5) (x : Word) : (h.setF n x).scope = h.scope := rfl
@[simp] theorem Hart.setF_rng (h : Hart) (n : BitVec 5) (x : Word) : (h.setF n x).rng = h.rng := rfl
@[simp] theorem Hart.setF_viq (h : Hart) (n : BitVec 5) (x : Word) : (h.setF n x).viq = h.viq := rfl
@[simp] theorem Hart.setF_piq (h : Hart) (n : BitVec 5) (x : Word) : (h.setF n x).piq = h.piq := rfl
@[simp] theorem Hart.setF_miq (h : Hart) (n : BitVec 5) (x : Word) : (h.setF n x).miq = h.miq := rfl
@[simp] theorem Hart.setF_srq (h : Hart) (n : BitVec 5) (x : Word) : (h.setF n x).srq = h.srq := rfl
@[simp] theorem Hart.setF_bq (h : Hart) (n : BitVec 5) (x : Word) : (h.setF n x).bq = h.bq := rfl
@[simp] theorem Hart.setF_nextSeq (h : Hart) (n : BitVec 5) (x : Word) : (h.setF n x).nextSeq = h.nextSeq := rfl
@[simp] theorem Hart.setF_held (h : Hart) (n : BitVec 5) (x : Word) : (h.setF n x).held = h.held := rfl
@[simp] theorem Hart.setF_outer (h : Hart) (n : BitVec 5) (x : Word) : (h.setF n x).outer = h.outer := rfl
@[simp] theorem Hart.setF_dbg (h : Hart) (n : BitVec 5) (x : Word) : (h.setF n x).dbg = h.dbg := rfl
@[simp] theorem Hart.setF_streams (h : Hart) (n : BitVec 5) (x : Word) : (h.setF n x).streams = h.streams := rfl
@[simp] theorem Hart.setF_copies (h : Hart) (n : BitVec 5) (x : Word) : (h.setF n x).copies = h.copies := rfl
@[simp] theorem Hart.setF_links (h : Hart) (n : BitVec 5) (x : Word) : (h.setF n x).links = h.links := rfl
@[simp] theorem Hart.setF_fnodes (h : Hart) (n : BitVec 5) (x : Word) : (h.setF n x).fnodes = h.fnodes := rfl
@[simp] theorem Hart.setF_ftokens (h : Hart) (n : BitVec 5) (x : Word) : (h.setF n x).ftokens = h.ftokens := rfl
@[simp] theorem Hart.setF_bell (h : Hart) (n : BitVec 5) (x : Word) : (h.setF n x).bell = h.bell := rfl
@[simp] theorem Hart.setF_windows (h : Hart) (n : BitVec 5) (x : Word) : (h.setF n x).windows = h.windows := rfl
@[simp] theorem Hart.setF_chain (h : Hart) (n : BitVec 5) (x : Word) : (h.setF n x).chain = h.chain := rfl
@[simp] theorem Hart.setF_onodes (h : Hart) (n : BitVec 5) (x : Word) : (h.setF n x).onodes = h.onodes := rfl
@[simp] theorem Hart.setF_skip (h : Hart) (n : BitVec 5) (x : Word) : (h.setF n x).skip = h.skip := rfl
@[simp] theorem Hart.setF_skipV (h : Hart) (n : BitVec 5) (x : Word) : (h.setF n x).skipV = h.skipV := rfl
@[simp] theorem Hart.setF_mreq (h : Hart) (n : BitVec 5) (x : Word) : (h.setF n x).mreq = h.mreq := rfl
@[simp] theorem Hart.setF_units (h : Hart) (n : BitVec 5) (x : Word) : (h.setF n x).units = h.units := rfl
@[simp] theorem Hart.setF_unitSince (h : Hart) (n : BitVec 5) (x : Word) : (h.setF n x).unitSince = h.unitSince := rfl
@[simp] theorem Hart.setF_unitTarget (h : Hart) (n : BitVec 5) (x : Word) : (h.setF n x).unitTarget = h.unitTarget := rfl
@[simp] theorem Hart.setF_stallSince (h : Hart) (n : BitVec 5) (x : Word) : (h.setF n x).stallSince = h.stallSince := rfl
@[simp] theorem Hart.setF_target (h : Hart) (n : BitVec 5) (x : Word) : (h.setF n x).target = h.target := rfl
@[simp] theorem Hart.setF_armed (h : Hart) (n : BitVec 5) (x : Word) : (h.setF n x).armed = h.armed := rfl
@[simp] theorem Hart.setF_stepping (h : Hart) (n : BitVec 5) (x : Word) : (h.setF n x).stepping = h.stepping := rfl
@[simp] theorem Hart.setF_lateStores (h : Hart) (n : BitVec 5) (x : Word) : (h.setF n x).lateStores = h.lateStores := rfl
@[simp] theorem Hart.setF_late (h : Hart) (n : BitVec 5) (x : Word) : (h.setF n x).late = h.late := rfl
@[simp] theorem Hart.setF_unperformed (h : Hart) (n : BitVec 5) (x : Word) : (h.setF n x).unperformed = h.unperformed := rfl
@[simp] theorem Hart.setF_leaving (h : Hart) (n : BitVec 5) (x : Word) : (h.setF n x).leaving = h.leaving := rfl
@[simp] theorem Hart.setF_unitsDue (h : Hart) (n : BitVec 5) (x : Word) : (h.setF n x).unitsDue = h.unitsDue := rfl
@[simp] theorem Hart.setF_gateWait (h : Hart) (n : BitVec 5) (x : Word) : (h.setF n x).gateWait = h.gateWait := rfl
@[simp] theorem Hart.setF_wdogOwed (h : Hart) (n : BitVec 5) (x : Word) : (h.setF n x).wdogOwed = h.wdogOwed := rfl
@[simp] theorem Hart.setF_fn (h : Hart) (n : BitVec 5) (x : Word) : (h.setF n x).fn = h.fn := rfl
@[simp] theorem Hart.setF_seq (h : Hart) (n : BitVec 5) (x : Word) : (h.setF n x).seq = h.seq := rfl
@[simp] theorem Hart.setF_index (h : Hart) (n : BitVec 5) (x : Word) : (h.setF n x).index = h.index := rfl
@[simp] theorem Hart.setF_handler (h : Hart) (n : BitVec 5) (x : Word) : (h.setF n x).handler = h.handler := rfl
@[simp] theorem Hart.setF_recordFn (h : Hart) (n : BitVec 5) (x : Word) : (h.setF n x).recordFn = h.recordFn := rfl

@[simp] theorem Hart.retireS_run (h : Hart) (len : Nat) (d : BitVec 6) (x : Word) : (h.retireS len d x).run = h.run := Hart.setS_run h d x
@[simp] theorem Hart.retireS_asReturn (h : Hart) (len : Nat) (d : BitVec 6) (x : Word) : (h.retireS len d x).asReturn = h.asReturn := Hart.setS_asReturn h d x
@[simp] theorem Hart.retireS_f (h : Hart) (len : Nat) (d : BitVec 6) (x : Word) : (h.retireS len d x).f = h.f := Hart.setS_f h d x
@[simp] theorem Hart.retireS_v (h : Hart) (len : Nat) (d : BitVec 6) (x : Word) : (h.retireS len d x).v = h.v := Hart.setS_v h d x
@[simp] theorem Hart.retireS_m (h : Hart) (len : Nat) (d : BitVec 6) (x : Word) : (h.retireS len d x).m = h.m := Hart.setS_m h d x
@[simp] theorem Hart.retireS_c (h : Hart) (len : Nat) (d : BitVec 6) (x : Word) : (h.retireS len d x).c = h.c := Hart.setS_c h d x
@[simp] theorem Hart.retireS_vLive (h : Hart) (len : Nat) (d : BitVec 6) (x : Word) : (h.retireS len d x).vLive = h.vLive := Hart.setS_vLive h d x
@[simp] theorem Hart.retireS_mLive (h : Hart) (len : Nat) (d : BitVec 6) (x : Word) : (h.retireS len d x).mLive = h.mLive := Hart.setS_mLive h d x
@[simp] theorem Hart.retireS_cLive (h : Hart) (len : Nat) (d : BitVec 6) (x : Word) : (h.retireS len d x).cLive = h.cLive := Hart.setS_cLive h d x
@[simp] theorem Hart.retireS_status (h : Hart) (len : Nat) (d : BitVec 6) (x : Word) : (h.retireS len d x).status = h.status := Hart.setS_status h d x
@[simp] theorem Hart.retireS_cause (h : Hart) (len : Nat) (d : BitVec 6) (x : Word) : (h.retireS len d x).cause = h.cause := Hart.setS_cause h d x
@[simp] theorem Hart.retireS_epc (h : Hart) (len : Nat) (d : BitVec 6) (x : Word) : (h.retireS len d x).epc = h.epc := Hart.setS_epc h d x
@[simp] theorem Hart.retireS_ei (h : Hart) (len : Nat) (d : BitVec 6) (x : Word) : (h.retireS len d x).ei = h.ei := Hart.setS_ei h d x
@[simp] theorem Hart.retireS_faddr (h : Hart) (len : Nat) (d : BitVec 6) (x : Word) : (h.retireS len d x).faddr = h.faddr := Hart.setS_faddr h d x
@[simp] theorem Hart.retireS_et (h : Hart) (len : Nat) (d : BitVec 6) (x : Word) : (h.retireS len d x).et = h.et := Hart.setS_et h d x
@[simp] theorem Hart.retireS_vl (h : Hart) (len : Nat) (d : BitVec 6) (x : Word) : (h.retireS len d x).vl = h.vl := Hart.setS_vl h d x
@[simp] theorem Hart.retireS_grant (h : Hart) (len : Nat) (d : BitVec 6) (x : Word) : (h.retireS len d x).grant = h.grant := Hart.setS_grant h d x
@[simp] theorem Hart.retireS_lease (h : Hart) (len : Nat) (d : BitVec 6) (x : Word) : (h.retireS len d x).lease = h.lease := Hart.setS_lease h d x
@[simp] theorem Hart.retireS_vstat (h : Hart) (len : Nat) (d : BitVec 6) (x : Word) : (h.retireS len d x).vstat = h.vstat := Hart.setS_vstat h d x
@[simp] theorem Hart.retireS_ffmask (h : Hart) (len : Nat) (d : BitVec 6) (x : Word) : (h.retireS len d x).ffmask = h.ffmask := Hart.setS_ffmask h d x
@[simp] theorem Hart.retireS_cmask (h : Hart) (len : Nat) (d : BitVec 6) (x : Word) : (h.retireS len d x).cmask = h.cmask := Hart.setS_cmask h d x
@[simp] theorem Hart.retireS_scope (h : Hart) (len : Nat) (d : BitVec 6) (x : Word) : (h.retireS len d x).scope = h.scope := Hart.setS_scope h d x
@[simp] theorem Hart.retireS_rng (h : Hart) (len : Nat) (d : BitVec 6) (x : Word) : (h.retireS len d x).rng = h.rng := Hart.setS_rng h d x
@[simp] theorem Hart.retireS_viq (h : Hart) (len : Nat) (d : BitVec 6) (x : Word) : (h.retireS len d x).viq = h.viq := Hart.setS_viq h d x
@[simp] theorem Hart.retireS_piq (h : Hart) (len : Nat) (d : BitVec 6) (x : Word) : (h.retireS len d x).piq = h.piq := Hart.setS_piq h d x
@[simp] theorem Hart.retireS_miq (h : Hart) (len : Nat) (d : BitVec 6) (x : Word) : (h.retireS len d x).miq = h.miq := Hart.setS_miq h d x
@[simp] theorem Hart.retireS_srq (h : Hart) (len : Nat) (d : BitVec 6) (x : Word) : (h.retireS len d x).srq = h.srq := Hart.setS_srq h d x
@[simp] theorem Hart.retireS_bq (h : Hart) (len : Nat) (d : BitVec 6) (x : Word) : (h.retireS len d x).bq = h.bq := Hart.setS_bq h d x
@[simp] theorem Hart.retireS_nextSeq (h : Hart) (len : Nat) (d : BitVec 6) (x : Word) : (h.retireS len d x).nextSeq = h.nextSeq := Hart.setS_nextSeq h d x
@[simp] theorem Hart.retireS_held (h : Hart) (len : Nat) (d : BitVec 6) (x : Word) : (h.retireS len d x).held = h.held := Hart.setS_held h d x
@[simp] theorem Hart.retireS_outer (h : Hart) (len : Nat) (d : BitVec 6) (x : Word) : (h.retireS len d x).outer = h.outer := Hart.setS_outer h d x
@[simp] theorem Hart.retireS_dbg (h : Hart) (len : Nat) (d : BitVec 6) (x : Word) : (h.retireS len d x).dbg = h.dbg := Hart.setS_dbg h d x
@[simp] theorem Hart.retireS_streams (h : Hart) (len : Nat) (d : BitVec 6) (x : Word) : (h.retireS len d x).streams = h.streams := Hart.setS_streams h d x
@[simp] theorem Hart.retireS_copies (h : Hart) (len : Nat) (d : BitVec 6) (x : Word) : (h.retireS len d x).copies = h.copies := Hart.setS_copies h d x
@[simp] theorem Hart.retireS_links (h : Hart) (len : Nat) (d : BitVec 6) (x : Word) : (h.retireS len d x).links = h.links := Hart.setS_links h d x
@[simp] theorem Hart.retireS_fnodes (h : Hart) (len : Nat) (d : BitVec 6) (x : Word) : (h.retireS len d x).fnodes = h.fnodes := Hart.setS_fnodes h d x
@[simp] theorem Hart.retireS_ftokens (h : Hart) (len : Nat) (d : BitVec 6) (x : Word) : (h.retireS len d x).ftokens = h.ftokens := Hart.setS_ftokens h d x
@[simp] theorem Hart.retireS_bell (h : Hart) (len : Nat) (d : BitVec 6) (x : Word) : (h.retireS len d x).bell = h.bell := Hart.setS_bell h d x
@[simp] theorem Hart.retireS_windows (h : Hart) (len : Nat) (d : BitVec 6) (x : Word) : (h.retireS len d x).windows = h.windows := Hart.setS_windows h d x
@[simp] theorem Hart.retireS_chain (h : Hart) (len : Nat) (d : BitVec 6) (x : Word) : (h.retireS len d x).chain = h.chain := Hart.setS_chain h d x
@[simp] theorem Hart.retireS_onodes (h : Hart) (len : Nat) (d : BitVec 6) (x : Word) : (h.retireS len d x).onodes = h.onodes := Hart.setS_onodes h d x
@[simp] theorem Hart.retireS_skip (h : Hart) (len : Nat) (d : BitVec 6) (x : Word) : (h.retireS len d x).skip = h.skip := Hart.setS_skip h d x
@[simp] theorem Hart.retireS_skipV (h : Hart) (len : Nat) (d : BitVec 6) (x : Word) : (h.retireS len d x).skipV = h.skipV := Hart.setS_skipV h d x
@[simp] theorem Hart.retireS_mreq (h : Hart) (len : Nat) (d : BitVec 6) (x : Word) : (h.retireS len d x).mreq = h.mreq := Hart.setS_mreq h d x
@[simp] theorem Hart.retireS_units (h : Hart) (len : Nat) (d : BitVec 6) (x : Word) : (h.retireS len d x).units = h.units := Hart.setS_units h d x
@[simp] theorem Hart.retireS_unitSince (h : Hart) (len : Nat) (d : BitVec 6) (x : Word) : (h.retireS len d x).unitSince = h.unitSince := Hart.setS_unitSince h d x
@[simp] theorem Hart.retireS_unitTarget (h : Hart) (len : Nat) (d : BitVec 6) (x : Word) : (h.retireS len d x).unitTarget = h.unitTarget := Hart.setS_unitTarget h d x
@[simp] theorem Hart.retireS_stallSince (h : Hart) (len : Nat) (d : BitVec 6) (x : Word) : (h.retireS len d x).stallSince = h.stallSince := Hart.setS_stallSince h d x
@[simp] theorem Hart.retireS_target (h : Hart) (len : Nat) (d : BitVec 6) (x : Word) : (h.retireS len d x).target = h.target := Hart.setS_target h d x
@[simp] theorem Hart.retireS_armed (h : Hart) (len : Nat) (d : BitVec 6) (x : Word) : (h.retireS len d x).armed = h.armed := Hart.setS_armed h d x
@[simp] theorem Hart.retireS_stepping (h : Hart) (len : Nat) (d : BitVec 6) (x : Word) : (h.retireS len d x).stepping = h.stepping := Hart.setS_stepping h d x
@[simp] theorem Hart.retireS_lateStores (h : Hart) (len : Nat) (d : BitVec 6) (x : Word) : (h.retireS len d x).lateStores = h.lateStores := Hart.setS_lateStores h d x
@[simp] theorem Hart.retireS_late (h : Hart) (len : Nat) (d : BitVec 6) (x : Word) : (h.retireS len d x).late = h.late := Hart.setS_late h d x
@[simp] theorem Hart.retireS_unperformed (h : Hart) (len : Nat) (d : BitVec 6) (x : Word) : (h.retireS len d x).unperformed = h.unperformed := Hart.setS_unperformed h d x
@[simp] theorem Hart.retireS_leaving (h : Hart) (len : Nat) (d : BitVec 6) (x : Word) : (h.retireS len d x).leaving = h.leaving := Hart.setS_leaving h d x
@[simp] theorem Hart.retireS_unitsDue (h : Hart) (len : Nat) (d : BitVec 6) (x : Word) : (h.retireS len d x).unitsDue = h.unitsDue := Hart.setS_unitsDue h d x
@[simp] theorem Hart.retireS_gateWait (h : Hart) (len : Nat) (d : BitVec 6) (x : Word) : (h.retireS len d x).gateWait = h.gateWait := Hart.setS_gateWait h d x
@[simp] theorem Hart.retireS_wdogOwed (h : Hart) (len : Nat) (d : BitVec 6) (x : Word) : (h.retireS len d x).wdogOwed = h.wdogOwed := Hart.setS_wdogOwed h d x
@[simp] theorem Hart.retireS_fn (h : Hart) (len : Nat) (d : BitVec 6) (x : Word) : (h.retireS len d x).fn = h.fn := Hart.setS_fn h d x
@[simp] theorem Hart.retireS_seq (h : Hart) (len : Nat) (d : BitVec 6) (x : Word) : (h.retireS len d x).seq = h.seq := Hart.setS_seq h d x
@[simp] theorem Hart.retireS_index (h : Hart) (len : Nat) (d : BitVec 6) (x : Word) : (h.retireS len d x).index = h.index := Hart.setS_index h d x
@[simp] theorem Hart.retireS_handler (h : Hart) (len : Nat) (d : BitVec 6) (x : Word) : (h.retireS len d x).handler = h.handler := Hart.setS_handler h d x
@[simp] theorem Hart.retireS_recordFn (h : Hart) (len : Nat) (d : BitVec 6) (x : Word) : (h.retireS len d x).recordFn = h.recordFn := Hart.setS_recordFn h d x
@[simp] theorem Hart.retire_run (h : Hart) : (h.retire).run = h.run := rfl
@[simp] theorem Hart.retire_asReturn (h : Hart) : (h.retire).asReturn = h.asReturn := rfl
@[simp] theorem Hart.retire_s (h : Hart) : (h.retire).s = h.s := rfl
@[simp] theorem Hart.retire_f (h : Hart) : (h.retire).f = h.f := rfl
@[simp] theorem Hart.retire_v (h : Hart) : (h.retire).v = h.v := rfl
@[simp] theorem Hart.retire_m (h : Hart) : (h.retire).m = h.m := rfl
@[simp] theorem Hart.retire_c (h : Hart) : (h.retire).c = h.c := rfl
@[simp] theorem Hart.retire_vLive (h : Hart) : (h.retire).vLive = h.vLive := rfl
@[simp] theorem Hart.retire_mLive (h : Hart) : (h.retire).mLive = h.mLive := rfl
@[simp] theorem Hart.retire_cLive (h : Hart) : (h.retire).cLive = h.cLive := rfl
@[simp] theorem Hart.retire_status (h : Hart) : (h.retire).status = h.status := rfl
@[simp] theorem Hart.retire_cause (h : Hart) : (h.retire).cause = h.cause := rfl
@[simp] theorem Hart.retire_epc (h : Hart) : (h.retire).epc = h.epc := rfl
@[simp] theorem Hart.retire_ei (h : Hart) : (h.retire).ei = h.ei := rfl
@[simp] theorem Hart.retire_faddr (h : Hart) : (h.retire).faddr = h.faddr := rfl
@[simp] theorem Hart.retire_et (h : Hart) : (h.retire).et = h.et := rfl
@[simp] theorem Hart.retire_vl (h : Hart) : (h.retire).vl = h.vl := rfl
@[simp] theorem Hart.retire_grant (h : Hart) : (h.retire).grant = h.grant := rfl
@[simp] theorem Hart.retire_lease (h : Hart) : (h.retire).lease = h.lease := rfl
@[simp] theorem Hart.retire_vstat (h : Hart) : (h.retire).vstat = h.vstat := rfl
@[simp] theorem Hart.retire_ffmask (h : Hart) : (h.retire).ffmask = h.ffmask := rfl
@[simp] theorem Hart.retire_cmask (h : Hart) : (h.retire).cmask = h.cmask := rfl
@[simp] theorem Hart.retire_scope (h : Hart) : (h.retire).scope = h.scope := rfl
@[simp] theorem Hart.retire_rng (h : Hart) : (h.retire).rng = h.rng := rfl
@[simp] theorem Hart.retire_viq (h : Hart) : (h.retire).viq = h.viq := rfl
@[simp] theorem Hart.retire_piq (h : Hart) : (h.retire).piq = h.piq := rfl
@[simp] theorem Hart.retire_miq (h : Hart) : (h.retire).miq = h.miq := rfl
@[simp] theorem Hart.retire_srq (h : Hart) : (h.retire).srq = h.srq := rfl
@[simp] theorem Hart.retire_bq (h : Hart) : (h.retire).bq = h.bq := rfl
@[simp] theorem Hart.retire_nextSeq (h : Hart) : (h.retire).nextSeq = h.nextSeq := rfl
@[simp] theorem Hart.retire_held (h : Hart) : (h.retire).held = h.held := rfl
@[simp] theorem Hart.retire_outer (h : Hart) : (h.retire).outer = h.outer := rfl
@[simp] theorem Hart.retire_dbg (h : Hart) : (h.retire).dbg = h.dbg := rfl
@[simp] theorem Hart.retire_streams (h : Hart) : (h.retire).streams = h.streams := rfl
@[simp] theorem Hart.retire_copies (h : Hart) : (h.retire).copies = h.copies := rfl
@[simp] theorem Hart.retire_links (h : Hart) : (h.retire).links = h.links := rfl
@[simp] theorem Hart.retire_fnodes (h : Hart) : (h.retire).fnodes = h.fnodes := rfl
@[simp] theorem Hart.retire_ftokens (h : Hart) : (h.retire).ftokens = h.ftokens := rfl
@[simp] theorem Hart.retire_bell (h : Hart) : (h.retire).bell = h.bell := rfl
@[simp] theorem Hart.retire_windows (h : Hart) : (h.retire).windows = h.windows := rfl
@[simp] theorem Hart.retire_chain (h : Hart) : (h.retire).chain = h.chain := rfl
@[simp] theorem Hart.retire_onodes (h : Hart) : (h.retire).onodes = h.onodes := rfl
@[simp] theorem Hart.retire_skip (h : Hart) : (h.retire).skip = h.skip := rfl
@[simp] theorem Hart.retire_skipV (h : Hart) : (h.retire).skipV = h.skipV := rfl
@[simp] theorem Hart.retire_mreq (h : Hart) : (h.retire).mreq = h.mreq := rfl
@[simp] theorem Hart.retire_units (h : Hart) : (h.retire).units = h.units := rfl
@[simp] theorem Hart.retire_unitSince (h : Hart) : (h.retire).unitSince = h.unitSince := rfl
@[simp] theorem Hart.retire_unitTarget (h : Hart) : (h.retire).unitTarget = h.unitTarget := rfl
@[simp] theorem Hart.retire_stallSince (h : Hart) : (h.retire).stallSince = h.stallSince := rfl
@[simp] theorem Hart.retire_target (h : Hart) : (h.retire).target = h.target := rfl
@[simp] theorem Hart.retire_armed (h : Hart) : (h.retire).armed = h.armed := rfl
@[simp] theorem Hart.retire_stepping (h : Hart) : (h.retire).stepping = h.stepping := rfl
@[simp] theorem Hart.retire_lateStores (h : Hart) : (h.retire).lateStores = h.lateStores := rfl
@[simp] theorem Hart.retire_late (h : Hart) : (h.retire).late = h.late := rfl
@[simp] theorem Hart.retire_unperformed (h : Hart) : (h.retire).unperformed = h.unperformed := rfl
@[simp] theorem Hart.retire_leaving (h : Hart) : (h.retire).leaving = h.leaving := rfl
@[simp] theorem Hart.retire_unitsDue (h : Hart) : (h.retire).unitsDue = h.unitsDue := rfl
@[simp] theorem Hart.retire_gateWait (h : Hart) : (h.retire).gateWait = h.gateWait := rfl
@[simp] theorem Hart.retire_wdogOwed (h : Hart) : (h.retire).wdogOwed = h.wdogOwed := rfl
@[simp] theorem Hart.retire_fn (h : Hart) : (h.retire).fn = h.fn := rfl
@[simp] theorem Hart.retire_seq (h : Hart) : (h.retire).seq = h.seq := rfl
@[simp] theorem Hart.retire_index (h : Hart) : (h.retire).index = h.index := rfl
@[simp] theorem Hart.retire_handler (h : Hart) : (h.retire).handler = h.handler := rfl
@[simp] theorem Hart.retire_recordFn (h : Hart) : (h.retire).recordFn = h.recordFn := rfl
@[simp] theorem Hart.goto_run (h : Hart) (pc : Word) : (h.goto pc).run = h.run := rfl
@[simp] theorem Hart.goto_asReturn (h : Hart) (pc : Word) : (h.goto pc).asReturn = h.asReturn := rfl
@[simp] theorem Hart.goto_s (h : Hart) (pc : Word) : (h.goto pc).s = h.s := rfl
@[simp] theorem Hart.goto_f (h : Hart) (pc : Word) : (h.goto pc).f = h.f := rfl
@[simp] theorem Hart.goto_v (h : Hart) (pc : Word) : (h.goto pc).v = h.v := rfl
@[simp] theorem Hart.goto_m (h : Hart) (pc : Word) : (h.goto pc).m = h.m := rfl
@[simp] theorem Hart.goto_c (h : Hart) (pc : Word) : (h.goto pc).c = h.c := rfl
@[simp] theorem Hart.goto_vLive (h : Hart) (pc : Word) : (h.goto pc).vLive = h.vLive := rfl
@[simp] theorem Hart.goto_mLive (h : Hart) (pc : Word) : (h.goto pc).mLive = h.mLive := rfl
@[simp] theorem Hart.goto_cLive (h : Hart) (pc : Word) : (h.goto pc).cLive = h.cLive := rfl
@[simp] theorem Hart.goto_status (h : Hart) (pc : Word) : (h.goto pc).status = h.status := rfl
@[simp] theorem Hart.goto_cause (h : Hart) (pc : Word) : (h.goto pc).cause = h.cause := rfl
@[simp] theorem Hart.goto_epc (h : Hart) (pc : Word) : (h.goto pc).epc = h.epc := rfl
@[simp] theorem Hart.goto_ei (h : Hart) (pc : Word) : (h.goto pc).ei = h.ei := rfl
@[simp] theorem Hart.goto_faddr (h : Hart) (pc : Word) : (h.goto pc).faddr = h.faddr := rfl
@[simp] theorem Hart.goto_et (h : Hart) (pc : Word) : (h.goto pc).et = h.et := rfl
@[simp] theorem Hart.goto_vl (h : Hart) (pc : Word) : (h.goto pc).vl = h.vl := rfl
@[simp] theorem Hart.goto_grant (h : Hart) (pc : Word) : (h.goto pc).grant = h.grant := rfl
@[simp] theorem Hart.goto_lease (h : Hart) (pc : Word) : (h.goto pc).lease = h.lease := rfl
@[simp] theorem Hart.goto_vstat (h : Hart) (pc : Word) : (h.goto pc).vstat = h.vstat := rfl
@[simp] theorem Hart.goto_ffmask (h : Hart) (pc : Word) : (h.goto pc).ffmask = h.ffmask := rfl
@[simp] theorem Hart.goto_cmask (h : Hart) (pc : Word) : (h.goto pc).cmask = h.cmask := rfl
@[simp] theorem Hart.goto_scope (h : Hart) (pc : Word) : (h.goto pc).scope = h.scope := rfl
@[simp] theorem Hart.goto_rng (h : Hart) (pc : Word) : (h.goto pc).rng = h.rng := rfl
@[simp] theorem Hart.goto_viq (h : Hart) (pc : Word) : (h.goto pc).viq = h.viq := rfl
@[simp] theorem Hart.goto_piq (h : Hart) (pc : Word) : (h.goto pc).piq = h.piq := rfl
@[simp] theorem Hart.goto_miq (h : Hart) (pc : Word) : (h.goto pc).miq = h.miq := rfl
@[simp] theorem Hart.goto_srq (h : Hart) (pc : Word) : (h.goto pc).srq = h.srq := rfl
@[simp] theorem Hart.goto_bq (h : Hart) (pc : Word) : (h.goto pc).bq = h.bq := rfl
@[simp] theorem Hart.goto_nextSeq (h : Hart) (pc : Word) : (h.goto pc).nextSeq = h.nextSeq := rfl
@[simp] theorem Hart.goto_held (h : Hart) (pc : Word) : (h.goto pc).held = h.held := rfl
@[simp] theorem Hart.goto_outer (h : Hart) (pc : Word) : (h.goto pc).outer = h.outer := rfl
@[simp] theorem Hart.goto_dbg (h : Hart) (pc : Word) : (h.goto pc).dbg = h.dbg := rfl
@[simp] theorem Hart.goto_streams (h : Hart) (pc : Word) : (h.goto pc).streams = h.streams := rfl
@[simp] theorem Hart.goto_copies (h : Hart) (pc : Word) : (h.goto pc).copies = h.copies := rfl
@[simp] theorem Hart.goto_links (h : Hart) (pc : Word) : (h.goto pc).links = h.links := rfl
@[simp] theorem Hart.goto_fnodes (h : Hart) (pc : Word) : (h.goto pc).fnodes = h.fnodes := rfl
@[simp] theorem Hart.goto_ftokens (h : Hart) (pc : Word) : (h.goto pc).ftokens = h.ftokens := rfl
@[simp] theorem Hart.goto_bell (h : Hart) (pc : Word) : (h.goto pc).bell = h.bell := rfl
@[simp] theorem Hart.goto_windows (h : Hart) (pc : Word) : (h.goto pc).windows = h.windows := rfl
@[simp] theorem Hart.goto_chain (h : Hart) (pc : Word) : (h.goto pc).chain = h.chain := rfl
@[simp] theorem Hart.goto_onodes (h : Hart) (pc : Word) : (h.goto pc).onodes = h.onodes := rfl
@[simp] theorem Hart.goto_skip (h : Hart) (pc : Word) : (h.goto pc).skip = h.skip := rfl
@[simp] theorem Hart.goto_skipV (h : Hart) (pc : Word) : (h.goto pc).skipV = h.skipV := rfl
@[simp] theorem Hart.goto_mreq (h : Hart) (pc : Word) : (h.goto pc).mreq = h.mreq := rfl
@[simp] theorem Hart.goto_units (h : Hart) (pc : Word) : (h.goto pc).units = h.units := rfl
@[simp] theorem Hart.goto_unitSince (h : Hart) (pc : Word) : (h.goto pc).unitSince = h.unitSince := rfl
@[simp] theorem Hart.goto_unitTarget (h : Hart) (pc : Word) : (h.goto pc).unitTarget = h.unitTarget := rfl
@[simp] theorem Hart.goto_stallSince (h : Hart) (pc : Word) : (h.goto pc).stallSince = h.stallSince := rfl
@[simp] theorem Hart.goto_target (h : Hart) (pc : Word) : (h.goto pc).target = h.target := rfl
@[simp] theorem Hart.goto_armed (h : Hart) (pc : Word) : (h.goto pc).armed = h.armed := rfl
@[simp] theorem Hart.goto_stepping (h : Hart) (pc : Word) : (h.goto pc).stepping = h.stepping := rfl
@[simp] theorem Hart.goto_lateStores (h : Hart) (pc : Word) : (h.goto pc).lateStores = h.lateStores := rfl
@[simp] theorem Hart.goto_late (h : Hart) (pc : Word) : (h.goto pc).late = h.late := rfl
@[simp] theorem Hart.goto_unperformed (h : Hart) (pc : Word) : (h.goto pc).unperformed = h.unperformed := rfl
@[simp] theorem Hart.goto_leaving (h : Hart) (pc : Word) : (h.goto pc).leaving = h.leaving := rfl
@[simp] theorem Hart.goto_unitsDue (h : Hart) (pc : Word) : (h.goto pc).unitsDue = h.unitsDue := rfl
@[simp] theorem Hart.goto_gateWait (h : Hart) (pc : Word) : (h.goto pc).gateWait = h.gateWait := rfl
@[simp] theorem Hart.goto_wdogOwed (h : Hart) (pc : Word) : (h.goto pc).wdogOwed = h.wdogOwed := rfl
@[simp] theorem Hart.goto_fn (h : Hart) (pc : Word) : (h.goto pc).fn = h.fn := rfl
@[simp] theorem Hart.goto_seq (h : Hart) (pc : Word) : (h.goto pc).seq = h.seq := rfl
@[simp] theorem Hart.goto_index (h : Hart) (pc : Word) : (h.goto pc).index = h.index := rfl
@[simp] theorem Hart.goto_handler (h : Hart) (pc : Word) : (h.goto pc).handler = h.handler := rfl
@[simp] theorem Hart.goto_recordFn (h : Hart) (pc : Word) : (h.goto pc).recordFn = h.recordFn := rfl
@[simp] theorem Hart.flag_run (h : Hart) (fl : Fl) : (h.flag fl).run = h.run := rfl
@[simp] theorem Hart.flag_asReturn (h : Hart) (fl : Fl) : (h.flag fl).asReturn = h.asReturn := rfl
@[simp] theorem Hart.flag_s (h : Hart) (fl : Fl) : (h.flag fl).s = h.s := rfl
@[simp] theorem Hart.flag_f (h : Hart) (fl : Fl) : (h.flag fl).f = h.f := rfl
@[simp] theorem Hart.flag_v (h : Hart) (fl : Fl) : (h.flag fl).v = h.v := rfl
@[simp] theorem Hart.flag_m (h : Hart) (fl : Fl) : (h.flag fl).m = h.m := rfl
@[simp] theorem Hart.flag_c (h : Hart) (fl : Fl) : (h.flag fl).c = h.c := rfl
@[simp] theorem Hart.flag_vLive (h : Hart) (fl : Fl) : (h.flag fl).vLive = h.vLive := rfl
@[simp] theorem Hart.flag_mLive (h : Hart) (fl : Fl) : (h.flag fl).mLive = h.mLive := rfl
@[simp] theorem Hart.flag_cLive (h : Hart) (fl : Fl) : (h.flag fl).cLive = h.cLive := rfl
@[simp] theorem Hart.flag_pc (h : Hart) (fl : Fl) : (h.flag fl).pc = h.pc := rfl
@[simp] theorem Hart.flag_ld (h : Hart) (fl : Fl) : (h.flag fl).ld = h.ld := rfl
@[simp] theorem Hart.flag_status (h : Hart) (fl : Fl) : (h.flag fl).status = h.status := rfl
@[simp] theorem Hart.flag_cause (h : Hart) (fl : Fl) : (h.flag fl).cause = h.cause := rfl
@[simp] theorem Hart.flag_epc (h : Hart) (fl : Fl) : (h.flag fl).epc = h.epc := rfl
@[simp] theorem Hart.flag_ei (h : Hart) (fl : Fl) : (h.flag fl).ei = h.ei := rfl
@[simp] theorem Hart.flag_faddr (h : Hart) (fl : Fl) : (h.flag fl).faddr = h.faddr := rfl
@[simp] theorem Hart.flag_et (h : Hart) (fl : Fl) : (h.flag fl).et = h.et := rfl
@[simp] theorem Hart.flag_vl (h : Hart) (fl : Fl) : (h.flag fl).vl = h.vl := rfl
@[simp] theorem Hart.flag_grant (h : Hart) (fl : Fl) : (h.flag fl).grant = h.grant := rfl
@[simp] theorem Hart.flag_lease (h : Hart) (fl : Fl) : (h.flag fl).lease = h.lease := rfl
@[simp] theorem Hart.flag_ffmask (h : Hart) (fl : Fl) : (h.flag fl).ffmask = h.ffmask := rfl
@[simp] theorem Hart.flag_cmask (h : Hart) (fl : Fl) : (h.flag fl).cmask = h.cmask := rfl
@[simp] theorem Hart.flag_scope (h : Hart) (fl : Fl) : (h.flag fl).scope = h.scope := rfl
@[simp] theorem Hart.flag_rng (h : Hart) (fl : Fl) : (h.flag fl).rng = h.rng := rfl
@[simp] theorem Hart.flag_viq (h : Hart) (fl : Fl) : (h.flag fl).viq = h.viq := rfl
@[simp] theorem Hart.flag_piq (h : Hart) (fl : Fl) : (h.flag fl).piq = h.piq := rfl
@[simp] theorem Hart.flag_miq (h : Hart) (fl : Fl) : (h.flag fl).miq = h.miq := rfl
@[simp] theorem Hart.flag_srq (h : Hart) (fl : Fl) : (h.flag fl).srq = h.srq := rfl
@[simp] theorem Hart.flag_bq (h : Hart) (fl : Fl) : (h.flag fl).bq = h.bq := rfl
@[simp] theorem Hart.flag_nextSeq (h : Hart) (fl : Fl) : (h.flag fl).nextSeq = h.nextSeq := rfl
@[simp] theorem Hart.flag_held (h : Hart) (fl : Fl) : (h.flag fl).held = h.held := rfl
@[simp] theorem Hart.flag_outer (h : Hart) (fl : Fl) : (h.flag fl).outer = h.outer := rfl
@[simp] theorem Hart.flag_dbg (h : Hart) (fl : Fl) : (h.flag fl).dbg = h.dbg := rfl
@[simp] theorem Hart.flag_streams (h : Hart) (fl : Fl) : (h.flag fl).streams = h.streams := rfl
@[simp] theorem Hart.flag_copies (h : Hart) (fl : Fl) : (h.flag fl).copies = h.copies := rfl
@[simp] theorem Hart.flag_links (h : Hart) (fl : Fl) : (h.flag fl).links = h.links := rfl
@[simp] theorem Hart.flag_fnodes (h : Hart) (fl : Fl) : (h.flag fl).fnodes = h.fnodes := rfl
@[simp] theorem Hart.flag_ftokens (h : Hart) (fl : Fl) : (h.flag fl).ftokens = h.ftokens := rfl
@[simp] theorem Hart.flag_bell (h : Hart) (fl : Fl) : (h.flag fl).bell = h.bell := rfl
@[simp] theorem Hart.flag_windows (h : Hart) (fl : Fl) : (h.flag fl).windows = h.windows := rfl
@[simp] theorem Hart.flag_chain (h : Hart) (fl : Fl) : (h.flag fl).chain = h.chain := rfl
@[simp] theorem Hart.flag_onodes (h : Hart) (fl : Fl) : (h.flag fl).onodes = h.onodes := rfl
@[simp] theorem Hart.flag_skip (h : Hart) (fl : Fl) : (h.flag fl).skip = h.skip := rfl
@[simp] theorem Hart.flag_skipV (h : Hart) (fl : Fl) : (h.flag fl).skipV = h.skipV := rfl
@[simp] theorem Hart.flag_mreq (h : Hart) (fl : Fl) : (h.flag fl).mreq = h.mreq := rfl
@[simp] theorem Hart.flag_units (h : Hart) (fl : Fl) : (h.flag fl).units = h.units := rfl
@[simp] theorem Hart.flag_unitSince (h : Hart) (fl : Fl) : (h.flag fl).unitSince = h.unitSince := rfl
@[simp] theorem Hart.flag_unitTarget (h : Hart) (fl : Fl) : (h.flag fl).unitTarget = h.unitTarget := rfl
@[simp] theorem Hart.flag_stallSince (h : Hart) (fl : Fl) : (h.flag fl).stallSince = h.stallSince := rfl
@[simp] theorem Hart.flag_target (h : Hart) (fl : Fl) : (h.flag fl).target = h.target := rfl
@[simp] theorem Hart.flag_armed (h : Hart) (fl : Fl) : (h.flag fl).armed = h.armed := rfl
@[simp] theorem Hart.flag_stepping (h : Hart) (fl : Fl) : (h.flag fl).stepping = h.stepping := rfl
@[simp] theorem Hart.flag_lateStores (h : Hart) (fl : Fl) : (h.flag fl).lateStores = h.lateStores := rfl
@[simp] theorem Hart.flag_late (h : Hart) (fl : Fl) : (h.flag fl).late = h.late := rfl
@[simp] theorem Hart.flag_unperformed (h : Hart) (fl : Fl) : (h.flag fl).unperformed = h.unperformed := rfl
@[simp] theorem Hart.flag_leaving (h : Hart) (fl : Fl) : (h.flag fl).leaving = h.leaving := rfl
@[simp] theorem Hart.flag_unitsDue (h : Hart) (fl : Fl) : (h.flag fl).unitsDue = h.unitsDue := rfl
@[simp] theorem Hart.flag_gateWait (h : Hart) (fl : Fl) : (h.flag fl).gateWait = h.gateWait := rfl
@[simp] theorem Hart.flag_wdogOwed (h : Hart) (fl : Fl) : (h.flag fl).wdogOwed = h.wdogOwed := rfl
@[simp] theorem Hart.flag_fn (h : Hart) (fl : Fl) : (h.flag fl).fn = h.fn := rfl
@[simp] theorem Hart.flag_seq (h : Hart) (fl : Fl) : (h.flag fl).seq = h.seq := rfl
@[simp] theorem Hart.flag_index (h : Hart) (fl : Fl) : (h.flag fl).index = h.index := rfl
@[simp] theorem Hart.flag_handler (h : Hart) (fl : Fl) : (h.flag fl).handler = h.handler := rfl
@[simp] theorem Hart.flag_recordFn (h : Hart) (fl : Fl) : (h.flag fl).recordFn = h.recordFn := rfl

/-! ### The hart: what the engines keep -/

@[simp] theorem Hart.modStream_run (h : Hart) (t : BitVec 4) (f : Stream → Stream) : (h.modStream t f).run = h.run := rfl
@[simp] theorem Hart.modStream_asReturn (h : Hart) (t : BitVec 4) (f : Stream → Stream) : (h.modStream t f).asReturn = h.asReturn := rfl
@[simp] theorem Hart.modStream_s (h : Hart) (t : BitVec 4) (f : Stream → Stream) : (h.modStream t f).s = h.s := rfl
@[simp] theorem Hart.modStream_f (h : Hart) (t : BitVec 4) (f : Stream → Stream) : (h.modStream t f).f = h.f := rfl
@[simp] theorem Hart.modStream_v (h : Hart) (t : BitVec 4) (f : Stream → Stream) : (h.modStream t f).v = h.v := rfl
@[simp] theorem Hart.modStream_m (h : Hart) (t : BitVec 4) (f : Stream → Stream) : (h.modStream t f).m = h.m := rfl
@[simp] theorem Hart.modStream_c (h : Hart) (t : BitVec 4) (f : Stream → Stream) : (h.modStream t f).c = h.c := rfl
@[simp] theorem Hart.modStream_vLive (h : Hart) (t : BitVec 4) (f : Stream → Stream) : (h.modStream t f).vLive = h.vLive := rfl
@[simp] theorem Hart.modStream_mLive (h : Hart) (t : BitVec 4) (f : Stream → Stream) : (h.modStream t f).mLive = h.mLive := rfl
@[simp] theorem Hart.modStream_cLive (h : Hart) (t : BitVec 4) (f : Stream → Stream) : (h.modStream t f).cLive = h.cLive := rfl
@[simp] theorem Hart.modStream_pc (h : Hart) (t : BitVec 4) (f : Stream → Stream) : (h.modStream t f).pc = h.pc := rfl
@[simp] theorem Hart.modStream_ld (h : Hart) (t : BitVec 4) (f : Stream → Stream) : (h.modStream t f).ld = h.ld := rfl
@[simp] theorem Hart.modStream_status (h : Hart) (t : BitVec 4) (f : Stream → Stream) : (h.modStream t f).status = h.status := rfl
@[simp] theorem Hart.modStream_cause (h : Hart) (t : BitVec 4) (f : Stream → Stream) : (h.modStream t f).cause = h.cause := rfl
@[simp] theorem Hart.modStream_epc (h : Hart) (t : BitVec 4) (f : Stream → Stream) : (h.modStream t f).epc = h.epc := rfl
@[simp] theorem Hart.modStream_ei (h : Hart) (t : BitVec 4) (f : Stream → Stream) : (h.modStream t f).ei = h.ei := rfl
@[simp] theorem Hart.modStream_faddr (h : Hart) (t : BitVec 4) (f : Stream → Stream) : (h.modStream t f).faddr = h.faddr := rfl
@[simp] theorem Hart.modStream_et (h : Hart) (t : BitVec 4) (f : Stream → Stream) : (h.modStream t f).et = h.et := rfl
@[simp] theorem Hart.modStream_vl (h : Hart) (t : BitVec 4) (f : Stream → Stream) : (h.modStream t f).vl = h.vl := rfl
@[simp] theorem Hart.modStream_grant (h : Hart) (t : BitVec 4) (f : Stream → Stream) : (h.modStream t f).grant = h.grant := rfl
@[simp] theorem Hart.modStream_lease (h : Hart) (t : BitVec 4) (f : Stream → Stream) : (h.modStream t f).lease = h.lease := rfl
@[simp] theorem Hart.modStream_vstat (h : Hart) (t : BitVec 4) (f : Stream → Stream) : (h.modStream t f).vstat = h.vstat := rfl
@[simp] theorem Hart.modStream_ffmask (h : Hart) (t : BitVec 4) (f : Stream → Stream) : (h.modStream t f).ffmask = h.ffmask := rfl
@[simp] theorem Hart.modStream_cmask (h : Hart) (t : BitVec 4) (f : Stream → Stream) : (h.modStream t f).cmask = h.cmask := rfl
@[simp] theorem Hart.modStream_scope (h : Hart) (t : BitVec 4) (f : Stream → Stream) : (h.modStream t f).scope = h.scope := rfl
@[simp] theorem Hart.modStream_rng (h : Hart) (t : BitVec 4) (f : Stream → Stream) : (h.modStream t f).rng = h.rng := rfl
@[simp] theorem Hart.modStream_viq (h : Hart) (t : BitVec 4) (f : Stream → Stream) : (h.modStream t f).viq = h.viq := rfl
@[simp] theorem Hart.modStream_piq (h : Hart) (t : BitVec 4) (f : Stream → Stream) : (h.modStream t f).piq = h.piq := rfl
@[simp] theorem Hart.modStream_miq (h : Hart) (t : BitVec 4) (f : Stream → Stream) : (h.modStream t f).miq = h.miq := rfl
@[simp] theorem Hart.modStream_srq (h : Hart) (t : BitVec 4) (f : Stream → Stream) : (h.modStream t f).srq = h.srq := rfl
@[simp] theorem Hart.modStream_bq (h : Hart) (t : BitVec 4) (f : Stream → Stream) : (h.modStream t f).bq = h.bq := rfl
@[simp] theorem Hart.modStream_nextSeq (h : Hart) (t : BitVec 4) (f : Stream → Stream) : (h.modStream t f).nextSeq = h.nextSeq := rfl
@[simp] theorem Hart.modStream_held (h : Hart) (t : BitVec 4) (f : Stream → Stream) : (h.modStream t f).held = h.held := rfl
@[simp] theorem Hart.modStream_outer (h : Hart) (t : BitVec 4) (f : Stream → Stream) : (h.modStream t f).outer = h.outer := rfl
@[simp] theorem Hart.modStream_dbg (h : Hart) (t : BitVec 4) (f : Stream → Stream) : (h.modStream t f).dbg = h.dbg := rfl
@[simp] theorem Hart.modStream_copies (h : Hart) (t : BitVec 4) (f : Stream → Stream) : (h.modStream t f).copies = h.copies := rfl
@[simp] theorem Hart.modStream_links (h : Hart) (t : BitVec 4) (f : Stream → Stream) : (h.modStream t f).links = h.links := rfl
@[simp] theorem Hart.modStream_fnodes (h : Hart) (t : BitVec 4) (f : Stream → Stream) : (h.modStream t f).fnodes = h.fnodes := rfl
@[simp] theorem Hart.modStream_ftokens (h : Hart) (t : BitVec 4) (f : Stream → Stream) : (h.modStream t f).ftokens = h.ftokens := rfl
@[simp] theorem Hart.modStream_bell (h : Hart) (t : BitVec 4) (f : Stream → Stream) : (h.modStream t f).bell = h.bell := rfl
@[simp] theorem Hart.modStream_windows (h : Hart) (t : BitVec 4) (f : Stream → Stream) : (h.modStream t f).windows = h.windows := rfl
@[simp] theorem Hart.modStream_chain (h : Hart) (t : BitVec 4) (f : Stream → Stream) : (h.modStream t f).chain = h.chain := rfl
@[simp] theorem Hart.modStream_onodes (h : Hart) (t : BitVec 4) (f : Stream → Stream) : (h.modStream t f).onodes = h.onodes := rfl
@[simp] theorem Hart.modStream_skip (h : Hart) (t : BitVec 4) (f : Stream → Stream) : (h.modStream t f).skip = h.skip := rfl
@[simp] theorem Hart.modStream_skipV (h : Hart) (t : BitVec 4) (f : Stream → Stream) : (h.modStream t f).skipV = h.skipV := rfl
@[simp] theorem Hart.modStream_mreq (h : Hart) (t : BitVec 4) (f : Stream → Stream) : (h.modStream t f).mreq = h.mreq := rfl
@[simp] theorem Hart.modStream_units (h : Hart) (t : BitVec 4) (f : Stream → Stream) : (h.modStream t f).units = h.units := rfl
@[simp] theorem Hart.modStream_unitSince (h : Hart) (t : BitVec 4) (f : Stream → Stream) : (h.modStream t f).unitSince = h.unitSince := rfl
@[simp] theorem Hart.modStream_unitTarget (h : Hart) (t : BitVec 4) (f : Stream → Stream) : (h.modStream t f).unitTarget = h.unitTarget := rfl
@[simp] theorem Hart.modStream_stallSince (h : Hart) (t : BitVec 4) (f : Stream → Stream) : (h.modStream t f).stallSince = h.stallSince := rfl
@[simp] theorem Hart.modStream_target (h : Hart) (t : BitVec 4) (f : Stream → Stream) : (h.modStream t f).target = h.target := rfl
@[simp] theorem Hart.modStream_armed (h : Hart) (t : BitVec 4) (f : Stream → Stream) : (h.modStream t f).armed = h.armed := rfl
@[simp] theorem Hart.modStream_stepping (h : Hart) (t : BitVec 4) (f : Stream → Stream) : (h.modStream t f).stepping = h.stepping := rfl
@[simp] theorem Hart.modStream_lateStores (h : Hart) (t : BitVec 4) (f : Stream → Stream) : (h.modStream t f).lateStores = h.lateStores := rfl
@[simp] theorem Hart.modStream_late (h : Hart) (t : BitVec 4) (f : Stream → Stream) : (h.modStream t f).late = h.late := rfl
@[simp] theorem Hart.modStream_unperformed (h : Hart) (t : BitVec 4) (f : Stream → Stream) : (h.modStream t f).unperformed = h.unperformed := rfl
@[simp] theorem Hart.modStream_leaving (h : Hart) (t : BitVec 4) (f : Stream → Stream) : (h.modStream t f).leaving = h.leaving := rfl
@[simp] theorem Hart.modStream_unitsDue (h : Hart) (t : BitVec 4) (f : Stream → Stream) : (h.modStream t f).unitsDue = h.unitsDue := rfl
@[simp] theorem Hart.modStream_gateWait (h : Hart) (t : BitVec 4) (f : Stream → Stream) : (h.modStream t f).gateWait = h.gateWait := rfl
@[simp] theorem Hart.modStream_wdogOwed (h : Hart) (t : BitVec 4) (f : Stream → Stream) : (h.modStream t f).wdogOwed = h.wdogOwed := rfl
@[simp] theorem Hart.modStream_fn (h : Hart) (t : BitVec 4) (f : Stream → Stream) : (h.modStream t f).fn = h.fn := rfl
@[simp] theorem Hart.modStream_seq (h : Hart) (t : BitVec 4) (f : Stream → Stream) : (h.modStream t f).seq = h.seq := rfl
@[simp] theorem Hart.modStream_index (h : Hart) (t : BitVec 4) (f : Stream → Stream) : (h.modStream t f).index = h.index := rfl
@[simp] theorem Hart.modStream_handler (h : Hart) (t : BitVec 4) (f : Stream → Stream) : (h.modStream t f).handler = h.handler := rfl
@[simp] theorem Hart.modStream_recordFn (h : Hart) (t : BitVec 4) (f : Stream → Stream) : (h.modStream t f).recordFn = h.recordFn := rfl
@[simp] theorem Hart.modCopy_run (h : Hart) (k : BitVec 4) (f : Token → Token) : (h.modCopy k f).run = h.run := rfl
@[simp] theorem Hart.modCopy_asReturn (h : Hart) (k : BitVec 4) (f : Token → Token) : (h.modCopy k f).asReturn = h.asReturn := rfl
@[simp] theorem Hart.modCopy_s (h : Hart) (k : BitVec 4) (f : Token → Token) : (h.modCopy k f).s = h.s := rfl
@[simp] theorem Hart.modCopy_f (h : Hart) (k : BitVec 4) (f : Token → Token) : (h.modCopy k f).f = h.f := rfl
@[simp] theorem Hart.modCopy_v (h : Hart) (k : BitVec 4) (f : Token → Token) : (h.modCopy k f).v = h.v := rfl
@[simp] theorem Hart.modCopy_m (h : Hart) (k : BitVec 4) (f : Token → Token) : (h.modCopy k f).m = h.m := rfl
@[simp] theorem Hart.modCopy_c (h : Hart) (k : BitVec 4) (f : Token → Token) : (h.modCopy k f).c = h.c := rfl
@[simp] theorem Hart.modCopy_vLive (h : Hart) (k : BitVec 4) (f : Token → Token) : (h.modCopy k f).vLive = h.vLive := rfl
@[simp] theorem Hart.modCopy_mLive (h : Hart) (k : BitVec 4) (f : Token → Token) : (h.modCopy k f).mLive = h.mLive := rfl
@[simp] theorem Hart.modCopy_cLive (h : Hart) (k : BitVec 4) (f : Token → Token) : (h.modCopy k f).cLive = h.cLive := rfl
@[simp] theorem Hart.modCopy_pc (h : Hart) (k : BitVec 4) (f : Token → Token) : (h.modCopy k f).pc = h.pc := rfl
@[simp] theorem Hart.modCopy_ld (h : Hart) (k : BitVec 4) (f : Token → Token) : (h.modCopy k f).ld = h.ld := rfl
@[simp] theorem Hart.modCopy_status (h : Hart) (k : BitVec 4) (f : Token → Token) : (h.modCopy k f).status = h.status := rfl
@[simp] theorem Hart.modCopy_cause (h : Hart) (k : BitVec 4) (f : Token → Token) : (h.modCopy k f).cause = h.cause := rfl
@[simp] theorem Hart.modCopy_epc (h : Hart) (k : BitVec 4) (f : Token → Token) : (h.modCopy k f).epc = h.epc := rfl
@[simp] theorem Hart.modCopy_ei (h : Hart) (k : BitVec 4) (f : Token → Token) : (h.modCopy k f).ei = h.ei := rfl
@[simp] theorem Hart.modCopy_faddr (h : Hart) (k : BitVec 4) (f : Token → Token) : (h.modCopy k f).faddr = h.faddr := rfl
@[simp] theorem Hart.modCopy_et (h : Hart) (k : BitVec 4) (f : Token → Token) : (h.modCopy k f).et = h.et := rfl
@[simp] theorem Hart.modCopy_vl (h : Hart) (k : BitVec 4) (f : Token → Token) : (h.modCopy k f).vl = h.vl := rfl
@[simp] theorem Hart.modCopy_grant (h : Hart) (k : BitVec 4) (f : Token → Token) : (h.modCopy k f).grant = h.grant := rfl
@[simp] theorem Hart.modCopy_lease (h : Hart) (k : BitVec 4) (f : Token → Token) : (h.modCopy k f).lease = h.lease := rfl
@[simp] theorem Hart.modCopy_vstat (h : Hart) (k : BitVec 4) (f : Token → Token) : (h.modCopy k f).vstat = h.vstat := rfl
@[simp] theorem Hart.modCopy_ffmask (h : Hart) (k : BitVec 4) (f : Token → Token) : (h.modCopy k f).ffmask = h.ffmask := rfl
@[simp] theorem Hart.modCopy_cmask (h : Hart) (k : BitVec 4) (f : Token → Token) : (h.modCopy k f).cmask = h.cmask := rfl
@[simp] theorem Hart.modCopy_scope (h : Hart) (k : BitVec 4) (f : Token → Token) : (h.modCopy k f).scope = h.scope := rfl
@[simp] theorem Hart.modCopy_rng (h : Hart) (k : BitVec 4) (f : Token → Token) : (h.modCopy k f).rng = h.rng := rfl
@[simp] theorem Hart.modCopy_viq (h : Hart) (k : BitVec 4) (f : Token → Token) : (h.modCopy k f).viq = h.viq := rfl
@[simp] theorem Hart.modCopy_piq (h : Hart) (k : BitVec 4) (f : Token → Token) : (h.modCopy k f).piq = h.piq := rfl
@[simp] theorem Hart.modCopy_miq (h : Hart) (k : BitVec 4) (f : Token → Token) : (h.modCopy k f).miq = h.miq := rfl
@[simp] theorem Hart.modCopy_srq (h : Hart) (k : BitVec 4) (f : Token → Token) : (h.modCopy k f).srq = h.srq := rfl
@[simp] theorem Hart.modCopy_bq (h : Hart) (k : BitVec 4) (f : Token → Token) : (h.modCopy k f).bq = h.bq := rfl
@[simp] theorem Hart.modCopy_nextSeq (h : Hart) (k : BitVec 4) (f : Token → Token) : (h.modCopy k f).nextSeq = h.nextSeq := rfl
@[simp] theorem Hart.modCopy_held (h : Hart) (k : BitVec 4) (f : Token → Token) : (h.modCopy k f).held = h.held := rfl
@[simp] theorem Hart.modCopy_outer (h : Hart) (k : BitVec 4) (f : Token → Token) : (h.modCopy k f).outer = h.outer := rfl
@[simp] theorem Hart.modCopy_dbg (h : Hart) (k : BitVec 4) (f : Token → Token) : (h.modCopy k f).dbg = h.dbg := rfl
@[simp] theorem Hart.modCopy_streams (h : Hart) (k : BitVec 4) (f : Token → Token) : (h.modCopy k f).streams = h.streams := rfl
@[simp] theorem Hart.modCopy_links (h : Hart) (k : BitVec 4) (f : Token → Token) : (h.modCopy k f).links = h.links := rfl
@[simp] theorem Hart.modCopy_fnodes (h : Hart) (k : BitVec 4) (f : Token → Token) : (h.modCopy k f).fnodes = h.fnodes := rfl
@[simp] theorem Hart.modCopy_ftokens (h : Hart) (k : BitVec 4) (f : Token → Token) : (h.modCopy k f).ftokens = h.ftokens := rfl
@[simp] theorem Hart.modCopy_bell (h : Hart) (k : BitVec 4) (f : Token → Token) : (h.modCopy k f).bell = h.bell := rfl
@[simp] theorem Hart.modCopy_windows (h : Hart) (k : BitVec 4) (f : Token → Token) : (h.modCopy k f).windows = h.windows := rfl
@[simp] theorem Hart.modCopy_chain (h : Hart) (k : BitVec 4) (f : Token → Token) : (h.modCopy k f).chain = h.chain := rfl
@[simp] theorem Hart.modCopy_onodes (h : Hart) (k : BitVec 4) (f : Token → Token) : (h.modCopy k f).onodes = h.onodes := rfl
@[simp] theorem Hart.modCopy_skip (h : Hart) (k : BitVec 4) (f : Token → Token) : (h.modCopy k f).skip = h.skip := rfl
@[simp] theorem Hart.modCopy_skipV (h : Hart) (k : BitVec 4) (f : Token → Token) : (h.modCopy k f).skipV = h.skipV := rfl
@[simp] theorem Hart.modCopy_mreq (h : Hart) (k : BitVec 4) (f : Token → Token) : (h.modCopy k f).mreq = h.mreq := rfl
@[simp] theorem Hart.modCopy_units (h : Hart) (k : BitVec 4) (f : Token → Token) : (h.modCopy k f).units = h.units := rfl
@[simp] theorem Hart.modCopy_unitSince (h : Hart) (k : BitVec 4) (f : Token → Token) : (h.modCopy k f).unitSince = h.unitSince := rfl
@[simp] theorem Hart.modCopy_unitTarget (h : Hart) (k : BitVec 4) (f : Token → Token) : (h.modCopy k f).unitTarget = h.unitTarget := rfl
@[simp] theorem Hart.modCopy_stallSince (h : Hart) (k : BitVec 4) (f : Token → Token) : (h.modCopy k f).stallSince = h.stallSince := rfl
@[simp] theorem Hart.modCopy_target (h : Hart) (k : BitVec 4) (f : Token → Token) : (h.modCopy k f).target = h.target := rfl
@[simp] theorem Hart.modCopy_armed (h : Hart) (k : BitVec 4) (f : Token → Token) : (h.modCopy k f).armed = h.armed := rfl
@[simp] theorem Hart.modCopy_stepping (h : Hart) (k : BitVec 4) (f : Token → Token) : (h.modCopy k f).stepping = h.stepping := rfl
@[simp] theorem Hart.modCopy_lateStores (h : Hart) (k : BitVec 4) (f : Token → Token) : (h.modCopy k f).lateStores = h.lateStores := rfl
@[simp] theorem Hart.modCopy_late (h : Hart) (k : BitVec 4) (f : Token → Token) : (h.modCopy k f).late = h.late := rfl
@[simp] theorem Hart.modCopy_unperformed (h : Hart) (k : BitVec 4) (f : Token → Token) : (h.modCopy k f).unperformed = h.unperformed := rfl
@[simp] theorem Hart.modCopy_leaving (h : Hart) (k : BitVec 4) (f : Token → Token) : (h.modCopy k f).leaving = h.leaving := rfl
@[simp] theorem Hart.modCopy_unitsDue (h : Hart) (k : BitVec 4) (f : Token → Token) : (h.modCopy k f).unitsDue = h.unitsDue := rfl
@[simp] theorem Hart.modCopy_gateWait (h : Hart) (k : BitVec 4) (f : Token → Token) : (h.modCopy k f).gateWait = h.gateWait := rfl
@[simp] theorem Hart.modCopy_wdogOwed (h : Hart) (k : BitVec 4) (f : Token → Token) : (h.modCopy k f).wdogOwed = h.wdogOwed := rfl
@[simp] theorem Hart.modCopy_fn (h : Hart) (k : BitVec 4) (f : Token → Token) : (h.modCopy k f).fn = h.fn := rfl
@[simp] theorem Hart.modCopy_seq (h : Hart) (k : BitVec 4) (f : Token → Token) : (h.modCopy k f).seq = h.seq := rfl
@[simp] theorem Hart.modCopy_index (h : Hart) (k : BitVec 4) (f : Token → Token) : (h.modCopy k f).index = h.index := rfl
@[simp] theorem Hart.modCopy_handler (h : Hart) (k : BitVec 4) (f : Token → Token) : (h.modCopy k f).handler = h.handler := rfl
@[simp] theorem Hart.modCopy_recordFn (h : Hart) (k : BitVec 4) (f : Token → Token) : (h.modCopy k f).recordFn = h.recordFn := rfl
@[simp] theorem Hart.modLink_run (h : Hart) (k : BitVec 3) (f : Token → Token) : (h.modLink k f).run = h.run := rfl
@[simp] theorem Hart.modLink_asReturn (h : Hart) (k : BitVec 3) (f : Token → Token) : (h.modLink k f).asReturn = h.asReturn := rfl
@[simp] theorem Hart.modLink_s (h : Hart) (k : BitVec 3) (f : Token → Token) : (h.modLink k f).s = h.s := rfl
@[simp] theorem Hart.modLink_f (h : Hart) (k : BitVec 3) (f : Token → Token) : (h.modLink k f).f = h.f := rfl
@[simp] theorem Hart.modLink_v (h : Hart) (k : BitVec 3) (f : Token → Token) : (h.modLink k f).v = h.v := rfl
@[simp] theorem Hart.modLink_m (h : Hart) (k : BitVec 3) (f : Token → Token) : (h.modLink k f).m = h.m := rfl
@[simp] theorem Hart.modLink_c (h : Hart) (k : BitVec 3) (f : Token → Token) : (h.modLink k f).c = h.c := rfl
@[simp] theorem Hart.modLink_vLive (h : Hart) (k : BitVec 3) (f : Token → Token) : (h.modLink k f).vLive = h.vLive := rfl
@[simp] theorem Hart.modLink_mLive (h : Hart) (k : BitVec 3) (f : Token → Token) : (h.modLink k f).mLive = h.mLive := rfl
@[simp] theorem Hart.modLink_cLive (h : Hart) (k : BitVec 3) (f : Token → Token) : (h.modLink k f).cLive = h.cLive := rfl
@[simp] theorem Hart.modLink_pc (h : Hart) (k : BitVec 3) (f : Token → Token) : (h.modLink k f).pc = h.pc := rfl
@[simp] theorem Hart.modLink_ld (h : Hart) (k : BitVec 3) (f : Token → Token) : (h.modLink k f).ld = h.ld := rfl
@[simp] theorem Hart.modLink_status (h : Hart) (k : BitVec 3) (f : Token → Token) : (h.modLink k f).status = h.status := rfl
@[simp] theorem Hart.modLink_cause (h : Hart) (k : BitVec 3) (f : Token → Token) : (h.modLink k f).cause = h.cause := rfl
@[simp] theorem Hart.modLink_epc (h : Hart) (k : BitVec 3) (f : Token → Token) : (h.modLink k f).epc = h.epc := rfl
@[simp] theorem Hart.modLink_ei (h : Hart) (k : BitVec 3) (f : Token → Token) : (h.modLink k f).ei = h.ei := rfl
@[simp] theorem Hart.modLink_faddr (h : Hart) (k : BitVec 3) (f : Token → Token) : (h.modLink k f).faddr = h.faddr := rfl
@[simp] theorem Hart.modLink_et (h : Hart) (k : BitVec 3) (f : Token → Token) : (h.modLink k f).et = h.et := rfl
@[simp] theorem Hart.modLink_vl (h : Hart) (k : BitVec 3) (f : Token → Token) : (h.modLink k f).vl = h.vl := rfl
@[simp] theorem Hart.modLink_grant (h : Hart) (k : BitVec 3) (f : Token → Token) : (h.modLink k f).grant = h.grant := rfl
@[simp] theorem Hart.modLink_lease (h : Hart) (k : BitVec 3) (f : Token → Token) : (h.modLink k f).lease = h.lease := rfl
@[simp] theorem Hart.modLink_vstat (h : Hart) (k : BitVec 3) (f : Token → Token) : (h.modLink k f).vstat = h.vstat := rfl
@[simp] theorem Hart.modLink_ffmask (h : Hart) (k : BitVec 3) (f : Token → Token) : (h.modLink k f).ffmask = h.ffmask := rfl
@[simp] theorem Hart.modLink_cmask (h : Hart) (k : BitVec 3) (f : Token → Token) : (h.modLink k f).cmask = h.cmask := rfl
@[simp] theorem Hart.modLink_scope (h : Hart) (k : BitVec 3) (f : Token → Token) : (h.modLink k f).scope = h.scope := rfl
@[simp] theorem Hart.modLink_rng (h : Hart) (k : BitVec 3) (f : Token → Token) : (h.modLink k f).rng = h.rng := rfl
@[simp] theorem Hart.modLink_viq (h : Hart) (k : BitVec 3) (f : Token → Token) : (h.modLink k f).viq = h.viq := rfl
@[simp] theorem Hart.modLink_piq (h : Hart) (k : BitVec 3) (f : Token → Token) : (h.modLink k f).piq = h.piq := rfl
@[simp] theorem Hart.modLink_miq (h : Hart) (k : BitVec 3) (f : Token → Token) : (h.modLink k f).miq = h.miq := rfl
@[simp] theorem Hart.modLink_srq (h : Hart) (k : BitVec 3) (f : Token → Token) : (h.modLink k f).srq = h.srq := rfl
@[simp] theorem Hart.modLink_bq (h : Hart) (k : BitVec 3) (f : Token → Token) : (h.modLink k f).bq = h.bq := rfl
@[simp] theorem Hart.modLink_nextSeq (h : Hart) (k : BitVec 3) (f : Token → Token) : (h.modLink k f).nextSeq = h.nextSeq := rfl
@[simp] theorem Hart.modLink_held (h : Hart) (k : BitVec 3) (f : Token → Token) : (h.modLink k f).held = h.held := rfl
@[simp] theorem Hart.modLink_outer (h : Hart) (k : BitVec 3) (f : Token → Token) : (h.modLink k f).outer = h.outer := rfl
@[simp] theorem Hart.modLink_dbg (h : Hart) (k : BitVec 3) (f : Token → Token) : (h.modLink k f).dbg = h.dbg := rfl
@[simp] theorem Hart.modLink_streams (h : Hart) (k : BitVec 3) (f : Token → Token) : (h.modLink k f).streams = h.streams := rfl
@[simp] theorem Hart.modLink_copies (h : Hart) (k : BitVec 3) (f : Token → Token) : (h.modLink k f).copies = h.copies := rfl
@[simp] theorem Hart.modLink_fnodes (h : Hart) (k : BitVec 3) (f : Token → Token) : (h.modLink k f).fnodes = h.fnodes := rfl
@[simp] theorem Hart.modLink_ftokens (h : Hart) (k : BitVec 3) (f : Token → Token) : (h.modLink k f).ftokens = h.ftokens := rfl
@[simp] theorem Hart.modLink_bell (h : Hart) (k : BitVec 3) (f : Token → Token) : (h.modLink k f).bell = h.bell := rfl
@[simp] theorem Hart.modLink_windows (h : Hart) (k : BitVec 3) (f : Token → Token) : (h.modLink k f).windows = h.windows := rfl
@[simp] theorem Hart.modLink_chain (h : Hart) (k : BitVec 3) (f : Token → Token) : (h.modLink k f).chain = h.chain := rfl
@[simp] theorem Hart.modLink_onodes (h : Hart) (k : BitVec 3) (f : Token → Token) : (h.modLink k f).onodes = h.onodes := rfl
@[simp] theorem Hart.modLink_skip (h : Hart) (k : BitVec 3) (f : Token → Token) : (h.modLink k f).skip = h.skip := rfl
@[simp] theorem Hart.modLink_skipV (h : Hart) (k : BitVec 3) (f : Token → Token) : (h.modLink k f).skipV = h.skipV := rfl
@[simp] theorem Hart.modLink_mreq (h : Hart) (k : BitVec 3) (f : Token → Token) : (h.modLink k f).mreq = h.mreq := rfl
@[simp] theorem Hart.modLink_units (h : Hart) (k : BitVec 3) (f : Token → Token) : (h.modLink k f).units = h.units := rfl
@[simp] theorem Hart.modLink_unitSince (h : Hart) (k : BitVec 3) (f : Token → Token) : (h.modLink k f).unitSince = h.unitSince := rfl
@[simp] theorem Hart.modLink_unitTarget (h : Hart) (k : BitVec 3) (f : Token → Token) : (h.modLink k f).unitTarget = h.unitTarget := rfl
@[simp] theorem Hart.modLink_stallSince (h : Hart) (k : BitVec 3) (f : Token → Token) : (h.modLink k f).stallSince = h.stallSince := rfl
@[simp] theorem Hart.modLink_target (h : Hart) (k : BitVec 3) (f : Token → Token) : (h.modLink k f).target = h.target := rfl
@[simp] theorem Hart.modLink_armed (h : Hart) (k : BitVec 3) (f : Token → Token) : (h.modLink k f).armed = h.armed := rfl
@[simp] theorem Hart.modLink_stepping (h : Hart) (k : BitVec 3) (f : Token → Token) : (h.modLink k f).stepping = h.stepping := rfl
@[simp] theorem Hart.modLink_lateStores (h : Hart) (k : BitVec 3) (f : Token → Token) : (h.modLink k f).lateStores = h.lateStores := rfl
@[simp] theorem Hart.modLink_late (h : Hart) (k : BitVec 3) (f : Token → Token) : (h.modLink k f).late = h.late := rfl
@[simp] theorem Hart.modLink_unperformed (h : Hart) (k : BitVec 3) (f : Token → Token) : (h.modLink k f).unperformed = h.unperformed := rfl
@[simp] theorem Hart.modLink_leaving (h : Hart) (k : BitVec 3) (f : Token → Token) : (h.modLink k f).leaving = h.leaving := rfl
@[simp] theorem Hart.modLink_unitsDue (h : Hart) (k : BitVec 3) (f : Token → Token) : (h.modLink k f).unitsDue = h.unitsDue := rfl
@[simp] theorem Hart.modLink_gateWait (h : Hart) (k : BitVec 3) (f : Token → Token) : (h.modLink k f).gateWait = h.gateWait := rfl
@[simp] theorem Hart.modLink_wdogOwed (h : Hart) (k : BitVec 3) (f : Token → Token) : (h.modLink k f).wdogOwed = h.wdogOwed := rfl
@[simp] theorem Hart.modLink_fn (h : Hart) (k : BitVec 3) (f : Token → Token) : (h.modLink k f).fn = h.fn := rfl
@[simp] theorem Hart.modLink_seq (h : Hart) (k : BitVec 3) (f : Token → Token) : (h.modLink k f).seq = h.seq := rfl
@[simp] theorem Hart.modLink_index (h : Hart) (k : BitVec 3) (f : Token → Token) : (h.modLink k f).index = h.index := rfl
@[simp] theorem Hart.modLink_handler (h : Hart) (k : BitVec 3) (f : Token → Token) : (h.modLink k f).handler = h.handler := rfl
@[simp] theorem Hart.modLink_recordFn (h : Hart) (k : BitVec 3) (f : Token → Token) : (h.modLink k f).recordFn = h.recordFn := rfl
@[simp] theorem Hart.modNode_run (h : Hart) (n : Nat) (f : FabricNode → FabricNode) : (h.modNode n f).run = h.run := rfl
@[simp] theorem Hart.modNode_asReturn (h : Hart) (n : Nat) (f : FabricNode → FabricNode) : (h.modNode n f).asReturn = h.asReturn := rfl
@[simp] theorem Hart.modNode_s (h : Hart) (n : Nat) (f : FabricNode → FabricNode) : (h.modNode n f).s = h.s := rfl
@[simp] theorem Hart.modNode_f (h : Hart) (n : Nat) (f : FabricNode → FabricNode) : (h.modNode n f).f = h.f := rfl
@[simp] theorem Hart.modNode_v (h : Hart) (n : Nat) (f : FabricNode → FabricNode) : (h.modNode n f).v = h.v := rfl
@[simp] theorem Hart.modNode_m (h : Hart) (n : Nat) (f : FabricNode → FabricNode) : (h.modNode n f).m = h.m := rfl
@[simp] theorem Hart.modNode_c (h : Hart) (n : Nat) (f : FabricNode → FabricNode) : (h.modNode n f).c = h.c := rfl
@[simp] theorem Hart.modNode_vLive (h : Hart) (n : Nat) (f : FabricNode → FabricNode) : (h.modNode n f).vLive = h.vLive := rfl
@[simp] theorem Hart.modNode_mLive (h : Hart) (n : Nat) (f : FabricNode → FabricNode) : (h.modNode n f).mLive = h.mLive := rfl
@[simp] theorem Hart.modNode_cLive (h : Hart) (n : Nat) (f : FabricNode → FabricNode) : (h.modNode n f).cLive = h.cLive := rfl
@[simp] theorem Hart.modNode_pc (h : Hart) (n : Nat) (f : FabricNode → FabricNode) : (h.modNode n f).pc = h.pc := rfl
@[simp] theorem Hart.modNode_ld (h : Hart) (n : Nat) (f : FabricNode → FabricNode) : (h.modNode n f).ld = h.ld := rfl
@[simp] theorem Hart.modNode_status (h : Hart) (n : Nat) (f : FabricNode → FabricNode) : (h.modNode n f).status = h.status := rfl
@[simp] theorem Hart.modNode_cause (h : Hart) (n : Nat) (f : FabricNode → FabricNode) : (h.modNode n f).cause = h.cause := rfl
@[simp] theorem Hart.modNode_epc (h : Hart) (n : Nat) (f : FabricNode → FabricNode) : (h.modNode n f).epc = h.epc := rfl
@[simp] theorem Hart.modNode_ei (h : Hart) (n : Nat) (f : FabricNode → FabricNode) : (h.modNode n f).ei = h.ei := rfl
@[simp] theorem Hart.modNode_faddr (h : Hart) (n : Nat) (f : FabricNode → FabricNode) : (h.modNode n f).faddr = h.faddr := rfl
@[simp] theorem Hart.modNode_et (h : Hart) (n : Nat) (f : FabricNode → FabricNode) : (h.modNode n f).et = h.et := rfl
@[simp] theorem Hart.modNode_vl (h : Hart) (n : Nat) (f : FabricNode → FabricNode) : (h.modNode n f).vl = h.vl := rfl
@[simp] theorem Hart.modNode_grant (h : Hart) (n : Nat) (f : FabricNode → FabricNode) : (h.modNode n f).grant = h.grant := rfl
@[simp] theorem Hart.modNode_lease (h : Hart) (n : Nat) (f : FabricNode → FabricNode) : (h.modNode n f).lease = h.lease := rfl
@[simp] theorem Hart.modNode_vstat (h : Hart) (n : Nat) (f : FabricNode → FabricNode) : (h.modNode n f).vstat = h.vstat := rfl
@[simp] theorem Hart.modNode_ffmask (h : Hart) (n : Nat) (f : FabricNode → FabricNode) : (h.modNode n f).ffmask = h.ffmask := rfl
@[simp] theorem Hart.modNode_cmask (h : Hart) (n : Nat) (f : FabricNode → FabricNode) : (h.modNode n f).cmask = h.cmask := rfl
@[simp] theorem Hart.modNode_scope (h : Hart) (n : Nat) (f : FabricNode → FabricNode) : (h.modNode n f).scope = h.scope := rfl
@[simp] theorem Hart.modNode_rng (h : Hart) (n : Nat) (f : FabricNode → FabricNode) : (h.modNode n f).rng = h.rng := rfl
@[simp] theorem Hart.modNode_viq (h : Hart) (n : Nat) (f : FabricNode → FabricNode) : (h.modNode n f).viq = h.viq := rfl
@[simp] theorem Hart.modNode_piq (h : Hart) (n : Nat) (f : FabricNode → FabricNode) : (h.modNode n f).piq = h.piq := rfl
@[simp] theorem Hart.modNode_miq (h : Hart) (n : Nat) (f : FabricNode → FabricNode) : (h.modNode n f).miq = h.miq := rfl
@[simp] theorem Hart.modNode_srq (h : Hart) (n : Nat) (f : FabricNode → FabricNode) : (h.modNode n f).srq = h.srq := rfl
@[simp] theorem Hart.modNode_bq (h : Hart) (n : Nat) (f : FabricNode → FabricNode) : (h.modNode n f).bq = h.bq := rfl
@[simp] theorem Hart.modNode_nextSeq (h : Hart) (n : Nat) (f : FabricNode → FabricNode) : (h.modNode n f).nextSeq = h.nextSeq := rfl
@[simp] theorem Hart.modNode_held (h : Hart) (n : Nat) (f : FabricNode → FabricNode) : (h.modNode n f).held = h.held := rfl
@[simp] theorem Hart.modNode_outer (h : Hart) (n : Nat) (f : FabricNode → FabricNode) : (h.modNode n f).outer = h.outer := rfl
@[simp] theorem Hart.modNode_dbg (h : Hart) (n : Nat) (f : FabricNode → FabricNode) : (h.modNode n f).dbg = h.dbg := rfl
@[simp] theorem Hart.modNode_streams (h : Hart) (n : Nat) (f : FabricNode → FabricNode) : (h.modNode n f).streams = h.streams := rfl
@[simp] theorem Hart.modNode_copies (h : Hart) (n : Nat) (f : FabricNode → FabricNode) : (h.modNode n f).copies = h.copies := rfl
@[simp] theorem Hart.modNode_links (h : Hart) (n : Nat) (f : FabricNode → FabricNode) : (h.modNode n f).links = h.links := rfl
@[simp] theorem Hart.modNode_ftokens (h : Hart) (n : Nat) (f : FabricNode → FabricNode) : (h.modNode n f).ftokens = h.ftokens := rfl
@[simp] theorem Hart.modNode_bell (h : Hart) (n : Nat) (f : FabricNode → FabricNode) : (h.modNode n f).bell = h.bell := rfl
@[simp] theorem Hart.modNode_windows (h : Hart) (n : Nat) (f : FabricNode → FabricNode) : (h.modNode n f).windows = h.windows := rfl
@[simp] theorem Hart.modNode_chain (h : Hart) (n : Nat) (f : FabricNode → FabricNode) : (h.modNode n f).chain = h.chain := rfl
@[simp] theorem Hart.modNode_onodes (h : Hart) (n : Nat) (f : FabricNode → FabricNode) : (h.modNode n f).onodes = h.onodes := rfl
@[simp] theorem Hart.modNode_skip (h : Hart) (n : Nat) (f : FabricNode → FabricNode) : (h.modNode n f).skip = h.skip := rfl
@[simp] theorem Hart.modNode_skipV (h : Hart) (n : Nat) (f : FabricNode → FabricNode) : (h.modNode n f).skipV = h.skipV := rfl
@[simp] theorem Hart.modNode_mreq (h : Hart) (n : Nat) (f : FabricNode → FabricNode) : (h.modNode n f).mreq = h.mreq := rfl
@[simp] theorem Hart.modNode_units (h : Hart) (n : Nat) (f : FabricNode → FabricNode) : (h.modNode n f).units = h.units := rfl
@[simp] theorem Hart.modNode_unitSince (h : Hart) (n : Nat) (f : FabricNode → FabricNode) : (h.modNode n f).unitSince = h.unitSince := rfl
@[simp] theorem Hart.modNode_unitTarget (h : Hart) (n : Nat) (f : FabricNode → FabricNode) : (h.modNode n f).unitTarget = h.unitTarget := rfl
@[simp] theorem Hart.modNode_stallSince (h : Hart) (n : Nat) (f : FabricNode → FabricNode) : (h.modNode n f).stallSince = h.stallSince := rfl
@[simp] theorem Hart.modNode_target (h : Hart) (n : Nat) (f : FabricNode → FabricNode) : (h.modNode n f).target = h.target := rfl
@[simp] theorem Hart.modNode_armed (h : Hart) (n : Nat) (f : FabricNode → FabricNode) : (h.modNode n f).armed = h.armed := rfl
@[simp] theorem Hart.modNode_stepping (h : Hart) (n : Nat) (f : FabricNode → FabricNode) : (h.modNode n f).stepping = h.stepping := rfl
@[simp] theorem Hart.modNode_lateStores (h : Hart) (n : Nat) (f : FabricNode → FabricNode) : (h.modNode n f).lateStores = h.lateStores := rfl
@[simp] theorem Hart.modNode_late (h : Hart) (n : Nat) (f : FabricNode → FabricNode) : (h.modNode n f).late = h.late := rfl
@[simp] theorem Hart.modNode_unperformed (h : Hart) (n : Nat) (f : FabricNode → FabricNode) : (h.modNode n f).unperformed = h.unperformed := rfl
@[simp] theorem Hart.modNode_leaving (h : Hart) (n : Nat) (f : FabricNode → FabricNode) : (h.modNode n f).leaving = h.leaving := rfl
@[simp] theorem Hart.modNode_unitsDue (h : Hart) (n : Nat) (f : FabricNode → FabricNode) : (h.modNode n f).unitsDue = h.unitsDue := rfl
@[simp] theorem Hart.modNode_gateWait (h : Hart) (n : Nat) (f : FabricNode → FabricNode) : (h.modNode n f).gateWait = h.gateWait := rfl
@[simp] theorem Hart.modNode_wdogOwed (h : Hart) (n : Nat) (f : FabricNode → FabricNode) : (h.modNode n f).wdogOwed = h.wdogOwed := rfl
@[simp] theorem Hart.modNode_fn (h : Hart) (n : Nat) (f : FabricNode → FabricNode) : (h.modNode n f).fn = h.fn := rfl
@[simp] theorem Hart.modNode_seq (h : Hart) (n : Nat) (f : FabricNode → FabricNode) : (h.modNode n f).seq = h.seq := rfl
@[simp] theorem Hart.modNode_index (h : Hart) (n : Nat) (f : FabricNode → FabricNode) : (h.modNode n f).index = h.index := rfl
@[simp] theorem Hart.modNode_handler (h : Hart) (n : Nat) (f : FabricNode → FabricNode) : (h.modNode n f).handler = h.handler := rfl
@[simp] theorem Hart.modNode_recordFn (h : Hart) (n : Nat) (f : FabricNode → FabricNode) : (h.modNode n f).recordFn = h.recordFn := rfl
@[simp] theorem Hart.modWindow_run (h : Hart) (k : BitVec 3) (f : Window → Window) : (h.modWindow k f).run = h.run := rfl
@[simp] theorem Hart.modWindow_asReturn (h : Hart) (k : BitVec 3) (f : Window → Window) : (h.modWindow k f).asReturn = h.asReturn := rfl
@[simp] theorem Hart.modWindow_s (h : Hart) (k : BitVec 3) (f : Window → Window) : (h.modWindow k f).s = h.s := rfl
@[simp] theorem Hart.modWindow_f (h : Hart) (k : BitVec 3) (f : Window → Window) : (h.modWindow k f).f = h.f := rfl
@[simp] theorem Hart.modWindow_v (h : Hart) (k : BitVec 3) (f : Window → Window) : (h.modWindow k f).v = h.v := rfl
@[simp] theorem Hart.modWindow_m (h : Hart) (k : BitVec 3) (f : Window → Window) : (h.modWindow k f).m = h.m := rfl
@[simp] theorem Hart.modWindow_c (h : Hart) (k : BitVec 3) (f : Window → Window) : (h.modWindow k f).c = h.c := rfl
@[simp] theorem Hart.modWindow_vLive (h : Hart) (k : BitVec 3) (f : Window → Window) : (h.modWindow k f).vLive = h.vLive := rfl
@[simp] theorem Hart.modWindow_mLive (h : Hart) (k : BitVec 3) (f : Window → Window) : (h.modWindow k f).mLive = h.mLive := rfl
@[simp] theorem Hart.modWindow_cLive (h : Hart) (k : BitVec 3) (f : Window → Window) : (h.modWindow k f).cLive = h.cLive := rfl
@[simp] theorem Hart.modWindow_pc (h : Hart) (k : BitVec 3) (f : Window → Window) : (h.modWindow k f).pc = h.pc := rfl
@[simp] theorem Hart.modWindow_ld (h : Hart) (k : BitVec 3) (f : Window → Window) : (h.modWindow k f).ld = h.ld := rfl
@[simp] theorem Hart.modWindow_status (h : Hart) (k : BitVec 3) (f : Window → Window) : (h.modWindow k f).status = h.status := rfl
@[simp] theorem Hart.modWindow_cause (h : Hart) (k : BitVec 3) (f : Window → Window) : (h.modWindow k f).cause = h.cause := rfl
@[simp] theorem Hart.modWindow_epc (h : Hart) (k : BitVec 3) (f : Window → Window) : (h.modWindow k f).epc = h.epc := rfl
@[simp] theorem Hart.modWindow_ei (h : Hart) (k : BitVec 3) (f : Window → Window) : (h.modWindow k f).ei = h.ei := rfl
@[simp] theorem Hart.modWindow_faddr (h : Hart) (k : BitVec 3) (f : Window → Window) : (h.modWindow k f).faddr = h.faddr := rfl
@[simp] theorem Hart.modWindow_et (h : Hart) (k : BitVec 3) (f : Window → Window) : (h.modWindow k f).et = h.et := rfl
@[simp] theorem Hart.modWindow_vl (h : Hart) (k : BitVec 3) (f : Window → Window) : (h.modWindow k f).vl = h.vl := rfl
@[simp] theorem Hart.modWindow_grant (h : Hart) (k : BitVec 3) (f : Window → Window) : (h.modWindow k f).grant = h.grant := rfl
@[simp] theorem Hart.modWindow_lease (h : Hart) (k : BitVec 3) (f : Window → Window) : (h.modWindow k f).lease = h.lease := rfl
@[simp] theorem Hart.modWindow_vstat (h : Hart) (k : BitVec 3) (f : Window → Window) : (h.modWindow k f).vstat = h.vstat := rfl
@[simp] theorem Hart.modWindow_ffmask (h : Hart) (k : BitVec 3) (f : Window → Window) : (h.modWindow k f).ffmask = h.ffmask := rfl
@[simp] theorem Hart.modWindow_cmask (h : Hart) (k : BitVec 3) (f : Window → Window) : (h.modWindow k f).cmask = h.cmask := rfl
@[simp] theorem Hart.modWindow_scope (h : Hart) (k : BitVec 3) (f : Window → Window) : (h.modWindow k f).scope = h.scope := rfl
@[simp] theorem Hart.modWindow_rng (h : Hart) (k : BitVec 3) (f : Window → Window) : (h.modWindow k f).rng = h.rng := rfl
@[simp] theorem Hart.modWindow_viq (h : Hart) (k : BitVec 3) (f : Window → Window) : (h.modWindow k f).viq = h.viq := rfl
@[simp] theorem Hart.modWindow_piq (h : Hart) (k : BitVec 3) (f : Window → Window) : (h.modWindow k f).piq = h.piq := rfl
@[simp] theorem Hart.modWindow_miq (h : Hart) (k : BitVec 3) (f : Window → Window) : (h.modWindow k f).miq = h.miq := rfl
@[simp] theorem Hart.modWindow_srq (h : Hart) (k : BitVec 3) (f : Window → Window) : (h.modWindow k f).srq = h.srq := rfl
@[simp] theorem Hart.modWindow_bq (h : Hart) (k : BitVec 3) (f : Window → Window) : (h.modWindow k f).bq = h.bq := rfl
@[simp] theorem Hart.modWindow_nextSeq (h : Hart) (k : BitVec 3) (f : Window → Window) : (h.modWindow k f).nextSeq = h.nextSeq := rfl
@[simp] theorem Hart.modWindow_held (h : Hart) (k : BitVec 3) (f : Window → Window) : (h.modWindow k f).held = h.held := rfl
@[simp] theorem Hart.modWindow_outer (h : Hart) (k : BitVec 3) (f : Window → Window) : (h.modWindow k f).outer = h.outer := rfl
@[simp] theorem Hart.modWindow_dbg (h : Hart) (k : BitVec 3) (f : Window → Window) : (h.modWindow k f).dbg = h.dbg := rfl
@[simp] theorem Hart.modWindow_streams (h : Hart) (k : BitVec 3) (f : Window → Window) : (h.modWindow k f).streams = h.streams := rfl
@[simp] theorem Hart.modWindow_copies (h : Hart) (k : BitVec 3) (f : Window → Window) : (h.modWindow k f).copies = h.copies := rfl
@[simp] theorem Hart.modWindow_links (h : Hart) (k : BitVec 3) (f : Window → Window) : (h.modWindow k f).links = h.links := rfl
@[simp] theorem Hart.modWindow_fnodes (h : Hart) (k : BitVec 3) (f : Window → Window) : (h.modWindow k f).fnodes = h.fnodes := rfl
@[simp] theorem Hart.modWindow_ftokens (h : Hart) (k : BitVec 3) (f : Window → Window) : (h.modWindow k f).ftokens = h.ftokens := rfl
@[simp] theorem Hart.modWindow_bell (h : Hart) (k : BitVec 3) (f : Window → Window) : (h.modWindow k f).bell = h.bell := rfl
@[simp] theorem Hart.modWindow_chain (h : Hart) (k : BitVec 3) (f : Window → Window) : (h.modWindow k f).chain = h.chain := rfl
@[simp] theorem Hart.modWindow_onodes (h : Hart) (k : BitVec 3) (f : Window → Window) : (h.modWindow k f).onodes = h.onodes := rfl
@[simp] theorem Hart.modWindow_skip (h : Hart) (k : BitVec 3) (f : Window → Window) : (h.modWindow k f).skip = h.skip := rfl
@[simp] theorem Hart.modWindow_skipV (h : Hart) (k : BitVec 3) (f : Window → Window) : (h.modWindow k f).skipV = h.skipV := rfl
@[simp] theorem Hart.modWindow_mreq (h : Hart) (k : BitVec 3) (f : Window → Window) : (h.modWindow k f).mreq = h.mreq := rfl
@[simp] theorem Hart.modWindow_units (h : Hart) (k : BitVec 3) (f : Window → Window) : (h.modWindow k f).units = h.units := rfl
@[simp] theorem Hart.modWindow_unitSince (h : Hart) (k : BitVec 3) (f : Window → Window) : (h.modWindow k f).unitSince = h.unitSince := rfl
@[simp] theorem Hart.modWindow_unitTarget (h : Hart) (k : BitVec 3) (f : Window → Window) : (h.modWindow k f).unitTarget = h.unitTarget := rfl
@[simp] theorem Hart.modWindow_stallSince (h : Hart) (k : BitVec 3) (f : Window → Window) : (h.modWindow k f).stallSince = h.stallSince := rfl
@[simp] theorem Hart.modWindow_target (h : Hart) (k : BitVec 3) (f : Window → Window) : (h.modWindow k f).target = h.target := rfl
@[simp] theorem Hart.modWindow_armed (h : Hart) (k : BitVec 3) (f : Window → Window) : (h.modWindow k f).armed = h.armed := rfl
@[simp] theorem Hart.modWindow_stepping (h : Hart) (k : BitVec 3) (f : Window → Window) : (h.modWindow k f).stepping = h.stepping := rfl
@[simp] theorem Hart.modWindow_lateStores (h : Hart) (k : BitVec 3) (f : Window → Window) : (h.modWindow k f).lateStores = h.lateStores := rfl
@[simp] theorem Hart.modWindow_late (h : Hart) (k : BitVec 3) (f : Window → Window) : (h.modWindow k f).late = h.late := rfl
@[simp] theorem Hart.modWindow_unperformed (h : Hart) (k : BitVec 3) (f : Window → Window) : (h.modWindow k f).unperformed = h.unperformed := rfl
@[simp] theorem Hart.modWindow_leaving (h : Hart) (k : BitVec 3) (f : Window → Window) : (h.modWindow k f).leaving = h.leaving := rfl
@[simp] theorem Hart.modWindow_unitsDue (h : Hart) (k : BitVec 3) (f : Window → Window) : (h.modWindow k f).unitsDue = h.unitsDue := rfl
@[simp] theorem Hart.modWindow_gateWait (h : Hart) (k : BitVec 3) (f : Window → Window) : (h.modWindow k f).gateWait = h.gateWait := rfl
@[simp] theorem Hart.modWindow_wdogOwed (h : Hart) (k : BitVec 3) (f : Window → Window) : (h.modWindow k f).wdogOwed = h.wdogOwed := rfl
@[simp] theorem Hart.modWindow_fn (h : Hart) (k : BitVec 3) (f : Window → Window) : (h.modWindow k f).fn = h.fn := rfl
@[simp] theorem Hart.modWindow_seq (h : Hart) (k : BitVec 3) (f : Window → Window) : (h.modWindow k f).seq = h.seq := rfl
@[simp] theorem Hart.modWindow_index (h : Hart) (k : BitVec 3) (f : Window → Window) : (h.modWindow k f).index = h.index := rfl
@[simp] theorem Hart.modWindow_handler (h : Hart) (k : BitVec 3) (f : Window → Window) : (h.modWindow k f).handler = h.handler := rfl
@[simp] theorem Hart.modWindow_recordFn (h : Hart) (k : BitVec 3) (f : Window → Window) : (h.modWindow k f).recordFn = h.recordFn := rfl
@[simp] theorem Hart.modOnode_run (h : Hart) (n : BitVec 4) (f : OperandNode → OperandNode) : (h.modOnode n f).run = h.run := rfl
@[simp] theorem Hart.modOnode_asReturn (h : Hart) (n : BitVec 4) (f : OperandNode → OperandNode) : (h.modOnode n f).asReturn = h.asReturn := rfl
@[simp] theorem Hart.modOnode_s (h : Hart) (n : BitVec 4) (f : OperandNode → OperandNode) : (h.modOnode n f).s = h.s := rfl
@[simp] theorem Hart.modOnode_f (h : Hart) (n : BitVec 4) (f : OperandNode → OperandNode) : (h.modOnode n f).f = h.f := rfl
@[simp] theorem Hart.modOnode_v (h : Hart) (n : BitVec 4) (f : OperandNode → OperandNode) : (h.modOnode n f).v = h.v := rfl
@[simp] theorem Hart.modOnode_m (h : Hart) (n : BitVec 4) (f : OperandNode → OperandNode) : (h.modOnode n f).m = h.m := rfl
@[simp] theorem Hart.modOnode_c (h : Hart) (n : BitVec 4) (f : OperandNode → OperandNode) : (h.modOnode n f).c = h.c := rfl
@[simp] theorem Hart.modOnode_vLive (h : Hart) (n : BitVec 4) (f : OperandNode → OperandNode) : (h.modOnode n f).vLive = h.vLive := rfl
@[simp] theorem Hart.modOnode_mLive (h : Hart) (n : BitVec 4) (f : OperandNode → OperandNode) : (h.modOnode n f).mLive = h.mLive := rfl
@[simp] theorem Hart.modOnode_cLive (h : Hart) (n : BitVec 4) (f : OperandNode → OperandNode) : (h.modOnode n f).cLive = h.cLive := rfl
@[simp] theorem Hart.modOnode_pc (h : Hart) (n : BitVec 4) (f : OperandNode → OperandNode) : (h.modOnode n f).pc = h.pc := rfl
@[simp] theorem Hart.modOnode_ld (h : Hart) (n : BitVec 4) (f : OperandNode → OperandNode) : (h.modOnode n f).ld = h.ld := rfl
@[simp] theorem Hart.modOnode_status (h : Hart) (n : BitVec 4) (f : OperandNode → OperandNode) : (h.modOnode n f).status = h.status := rfl
@[simp] theorem Hart.modOnode_cause (h : Hart) (n : BitVec 4) (f : OperandNode → OperandNode) : (h.modOnode n f).cause = h.cause := rfl
@[simp] theorem Hart.modOnode_epc (h : Hart) (n : BitVec 4) (f : OperandNode → OperandNode) : (h.modOnode n f).epc = h.epc := rfl
@[simp] theorem Hart.modOnode_ei (h : Hart) (n : BitVec 4) (f : OperandNode → OperandNode) : (h.modOnode n f).ei = h.ei := rfl
@[simp] theorem Hart.modOnode_faddr (h : Hart) (n : BitVec 4) (f : OperandNode → OperandNode) : (h.modOnode n f).faddr = h.faddr := rfl
@[simp] theorem Hart.modOnode_et (h : Hart) (n : BitVec 4) (f : OperandNode → OperandNode) : (h.modOnode n f).et = h.et := rfl
@[simp] theorem Hart.modOnode_vl (h : Hart) (n : BitVec 4) (f : OperandNode → OperandNode) : (h.modOnode n f).vl = h.vl := rfl
@[simp] theorem Hart.modOnode_grant (h : Hart) (n : BitVec 4) (f : OperandNode → OperandNode) : (h.modOnode n f).grant = h.grant := rfl
@[simp] theorem Hart.modOnode_lease (h : Hart) (n : BitVec 4) (f : OperandNode → OperandNode) : (h.modOnode n f).lease = h.lease := rfl
@[simp] theorem Hart.modOnode_vstat (h : Hart) (n : BitVec 4) (f : OperandNode → OperandNode) : (h.modOnode n f).vstat = h.vstat := rfl
@[simp] theorem Hart.modOnode_ffmask (h : Hart) (n : BitVec 4) (f : OperandNode → OperandNode) : (h.modOnode n f).ffmask = h.ffmask := rfl
@[simp] theorem Hart.modOnode_cmask (h : Hart) (n : BitVec 4) (f : OperandNode → OperandNode) : (h.modOnode n f).cmask = h.cmask := rfl
@[simp] theorem Hart.modOnode_scope (h : Hart) (n : BitVec 4) (f : OperandNode → OperandNode) : (h.modOnode n f).scope = h.scope := rfl
@[simp] theorem Hart.modOnode_rng (h : Hart) (n : BitVec 4) (f : OperandNode → OperandNode) : (h.modOnode n f).rng = h.rng := rfl
@[simp] theorem Hart.modOnode_viq (h : Hart) (n : BitVec 4) (f : OperandNode → OperandNode) : (h.modOnode n f).viq = h.viq := rfl
@[simp] theorem Hart.modOnode_piq (h : Hart) (n : BitVec 4) (f : OperandNode → OperandNode) : (h.modOnode n f).piq = h.piq := rfl
@[simp] theorem Hart.modOnode_miq (h : Hart) (n : BitVec 4) (f : OperandNode → OperandNode) : (h.modOnode n f).miq = h.miq := rfl
@[simp] theorem Hart.modOnode_srq (h : Hart) (n : BitVec 4) (f : OperandNode → OperandNode) : (h.modOnode n f).srq = h.srq := rfl
@[simp] theorem Hart.modOnode_bq (h : Hart) (n : BitVec 4) (f : OperandNode → OperandNode) : (h.modOnode n f).bq = h.bq := rfl
@[simp] theorem Hart.modOnode_nextSeq (h : Hart) (n : BitVec 4) (f : OperandNode → OperandNode) : (h.modOnode n f).nextSeq = h.nextSeq := rfl
@[simp] theorem Hart.modOnode_held (h : Hart) (n : BitVec 4) (f : OperandNode → OperandNode) : (h.modOnode n f).held = h.held := rfl
@[simp] theorem Hart.modOnode_outer (h : Hart) (n : BitVec 4) (f : OperandNode → OperandNode) : (h.modOnode n f).outer = h.outer := rfl
@[simp] theorem Hart.modOnode_dbg (h : Hart) (n : BitVec 4) (f : OperandNode → OperandNode) : (h.modOnode n f).dbg = h.dbg := rfl
@[simp] theorem Hart.modOnode_streams (h : Hart) (n : BitVec 4) (f : OperandNode → OperandNode) : (h.modOnode n f).streams = h.streams := rfl
@[simp] theorem Hart.modOnode_copies (h : Hart) (n : BitVec 4) (f : OperandNode → OperandNode) : (h.modOnode n f).copies = h.copies := rfl
@[simp] theorem Hart.modOnode_links (h : Hart) (n : BitVec 4) (f : OperandNode → OperandNode) : (h.modOnode n f).links = h.links := rfl
@[simp] theorem Hart.modOnode_fnodes (h : Hart) (n : BitVec 4) (f : OperandNode → OperandNode) : (h.modOnode n f).fnodes = h.fnodes := rfl
@[simp] theorem Hart.modOnode_ftokens (h : Hart) (n : BitVec 4) (f : OperandNode → OperandNode) : (h.modOnode n f).ftokens = h.ftokens := rfl
@[simp] theorem Hart.modOnode_bell (h : Hart) (n : BitVec 4) (f : OperandNode → OperandNode) : (h.modOnode n f).bell = h.bell := rfl
@[simp] theorem Hart.modOnode_windows (h : Hart) (n : BitVec 4) (f : OperandNode → OperandNode) : (h.modOnode n f).windows = h.windows := rfl
@[simp] theorem Hart.modOnode_chain (h : Hart) (n : BitVec 4) (f : OperandNode → OperandNode) : (h.modOnode n f).chain = h.chain := rfl
@[simp] theorem Hart.modOnode_skip (h : Hart) (n : BitVec 4) (f : OperandNode → OperandNode) : (h.modOnode n f).skip = h.skip := rfl
@[simp] theorem Hart.modOnode_skipV (h : Hart) (n : BitVec 4) (f : OperandNode → OperandNode) : (h.modOnode n f).skipV = h.skipV := rfl
@[simp] theorem Hart.modOnode_mreq (h : Hart) (n : BitVec 4) (f : OperandNode → OperandNode) : (h.modOnode n f).mreq = h.mreq := rfl
@[simp] theorem Hart.modOnode_units (h : Hart) (n : BitVec 4) (f : OperandNode → OperandNode) : (h.modOnode n f).units = h.units := rfl
@[simp] theorem Hart.modOnode_unitSince (h : Hart) (n : BitVec 4) (f : OperandNode → OperandNode) : (h.modOnode n f).unitSince = h.unitSince := rfl
@[simp] theorem Hart.modOnode_unitTarget (h : Hart) (n : BitVec 4) (f : OperandNode → OperandNode) : (h.modOnode n f).unitTarget = h.unitTarget := rfl
@[simp] theorem Hart.modOnode_stallSince (h : Hart) (n : BitVec 4) (f : OperandNode → OperandNode) : (h.modOnode n f).stallSince = h.stallSince := rfl
@[simp] theorem Hart.modOnode_target (h : Hart) (n : BitVec 4) (f : OperandNode → OperandNode) : (h.modOnode n f).target = h.target := rfl
@[simp] theorem Hart.modOnode_armed (h : Hart) (n : BitVec 4) (f : OperandNode → OperandNode) : (h.modOnode n f).armed = h.armed := rfl
@[simp] theorem Hart.modOnode_stepping (h : Hart) (n : BitVec 4) (f : OperandNode → OperandNode) : (h.modOnode n f).stepping = h.stepping := rfl
@[simp] theorem Hart.modOnode_lateStores (h : Hart) (n : BitVec 4) (f : OperandNode → OperandNode) : (h.modOnode n f).lateStores = h.lateStores := rfl
@[simp] theorem Hart.modOnode_late (h : Hart) (n : BitVec 4) (f : OperandNode → OperandNode) : (h.modOnode n f).late = h.late := rfl
@[simp] theorem Hart.modOnode_unperformed (h : Hart) (n : BitVec 4) (f : OperandNode → OperandNode) : (h.modOnode n f).unperformed = h.unperformed := rfl
@[simp] theorem Hart.modOnode_leaving (h : Hart) (n : BitVec 4) (f : OperandNode → OperandNode) : (h.modOnode n f).leaving = h.leaving := rfl
@[simp] theorem Hart.modOnode_unitsDue (h : Hart) (n : BitVec 4) (f : OperandNode → OperandNode) : (h.modOnode n f).unitsDue = h.unitsDue := rfl
@[simp] theorem Hart.modOnode_gateWait (h : Hart) (n : BitVec 4) (f : OperandNode → OperandNode) : (h.modOnode n f).gateWait = h.gateWait := rfl
@[simp] theorem Hart.modOnode_wdogOwed (h : Hart) (n : BitVec 4) (f : OperandNode → OperandNode) : (h.modOnode n f).wdogOwed = h.wdogOwed := rfl
@[simp] theorem Hart.modOnode_fn (h : Hart) (n : BitVec 4) (f : OperandNode → OperandNode) : (h.modOnode n f).fn = h.fn := rfl
@[simp] theorem Hart.modOnode_seq (h : Hart) (n : BitVec 4) (f : OperandNode → OperandNode) : (h.modOnode n f).seq = h.seq := rfl
@[simp] theorem Hart.modOnode_index (h : Hart) (n : BitVec 4) (f : OperandNode → OperandNode) : (h.modOnode n f).index = h.index := rfl
@[simp] theorem Hart.modOnode_handler (h : Hart) (n : BitVec 4) (f : OperandNode → OperandNode) : (h.modOnode n f).handler = h.handler := rfl
@[simp] theorem Hart.modOnode_recordFn (h : Hart) (n : BitVec 4) (f : OperandNode → OperandNode) : (h.modOnode n f).recordFn = h.recordFn := rfl
@[simp] theorem Hart.setTile_run (h : Hart) (c : BitVec 4) (xs : List Nat) : (h.setTile c xs).run = h.run := rfl
@[simp] theorem Hart.setTile_asReturn (h : Hart) (c : BitVec 4) (xs : List Nat) : (h.setTile c xs).asReturn = h.asReturn := rfl
@[simp] theorem Hart.setTile_s (h : Hart) (c : BitVec 4) (xs : List Nat) : (h.setTile c xs).s = h.s := rfl
@[simp] theorem Hart.setTile_f (h : Hart) (c : BitVec 4) (xs : List Nat) : (h.setTile c xs).f = h.f := rfl
@[simp] theorem Hart.setTile_v (h : Hart) (c : BitVec 4) (xs : List Nat) : (h.setTile c xs).v = h.v := rfl
@[simp] theorem Hart.setTile_m (h : Hart) (c : BitVec 4) (xs : List Nat) : (h.setTile c xs).m = h.m := rfl
@[simp] theorem Hart.setTile_vLive (h : Hart) (c : BitVec 4) (xs : List Nat) : (h.setTile c xs).vLive = h.vLive := rfl
@[simp] theorem Hart.setTile_mLive (h : Hart) (c : BitVec 4) (xs : List Nat) : (h.setTile c xs).mLive = h.mLive := rfl
@[simp] theorem Hart.setTile_pc (h : Hart) (c : BitVec 4) (xs : List Nat) : (h.setTile c xs).pc = h.pc := rfl
@[simp] theorem Hart.setTile_ld (h : Hart) (c : BitVec 4) (xs : List Nat) : (h.setTile c xs).ld = h.ld := rfl
@[simp] theorem Hart.setTile_status (h : Hart) (c : BitVec 4) (xs : List Nat) : (h.setTile c xs).status = h.status := rfl
@[simp] theorem Hart.setTile_cause (h : Hart) (c : BitVec 4) (xs : List Nat) : (h.setTile c xs).cause = h.cause := rfl
@[simp] theorem Hart.setTile_epc (h : Hart) (c : BitVec 4) (xs : List Nat) : (h.setTile c xs).epc = h.epc := rfl
@[simp] theorem Hart.setTile_ei (h : Hart) (c : BitVec 4) (xs : List Nat) : (h.setTile c xs).ei = h.ei := rfl
@[simp] theorem Hart.setTile_faddr (h : Hart) (c : BitVec 4) (xs : List Nat) : (h.setTile c xs).faddr = h.faddr := rfl
@[simp] theorem Hart.setTile_et (h : Hart) (c : BitVec 4) (xs : List Nat) : (h.setTile c xs).et = h.et := rfl
@[simp] theorem Hart.setTile_vl (h : Hart) (c : BitVec 4) (xs : List Nat) : (h.setTile c xs).vl = h.vl := rfl
@[simp] theorem Hart.setTile_grant (h : Hart) (c : BitVec 4) (xs : List Nat) : (h.setTile c xs).grant = h.grant := rfl
@[simp] theorem Hart.setTile_lease (h : Hart) (c : BitVec 4) (xs : List Nat) : (h.setTile c xs).lease = h.lease := rfl
@[simp] theorem Hart.setTile_vstat (h : Hart) (c : BitVec 4) (xs : List Nat) : (h.setTile c xs).vstat = h.vstat := rfl
@[simp] theorem Hart.setTile_ffmask (h : Hart) (c : BitVec 4) (xs : List Nat) : (h.setTile c xs).ffmask = h.ffmask := rfl
@[simp] theorem Hart.setTile_cmask (h : Hart) (c : BitVec 4) (xs : List Nat) : (h.setTile c xs).cmask = h.cmask := rfl
@[simp] theorem Hart.setTile_scope (h : Hart) (c : BitVec 4) (xs : List Nat) : (h.setTile c xs).scope = h.scope := rfl
@[simp] theorem Hart.setTile_rng (h : Hart) (c : BitVec 4) (xs : List Nat) : (h.setTile c xs).rng = h.rng := rfl
@[simp] theorem Hart.setTile_viq (h : Hart) (c : BitVec 4) (xs : List Nat) : (h.setTile c xs).viq = h.viq := rfl
@[simp] theorem Hart.setTile_piq (h : Hart) (c : BitVec 4) (xs : List Nat) : (h.setTile c xs).piq = h.piq := rfl
@[simp] theorem Hart.setTile_miq (h : Hart) (c : BitVec 4) (xs : List Nat) : (h.setTile c xs).miq = h.miq := rfl
@[simp] theorem Hart.setTile_srq (h : Hart) (c : BitVec 4) (xs : List Nat) : (h.setTile c xs).srq = h.srq := rfl
@[simp] theorem Hart.setTile_bq (h : Hart) (c : BitVec 4) (xs : List Nat) : (h.setTile c xs).bq = h.bq := rfl
@[simp] theorem Hart.setTile_nextSeq (h : Hart) (c : BitVec 4) (xs : List Nat) : (h.setTile c xs).nextSeq = h.nextSeq := rfl
@[simp] theorem Hart.setTile_held (h : Hart) (c : BitVec 4) (xs : List Nat) : (h.setTile c xs).held = h.held := rfl
@[simp] theorem Hart.setTile_outer (h : Hart) (c : BitVec 4) (xs : List Nat) : (h.setTile c xs).outer = h.outer := rfl
@[simp] theorem Hart.setTile_dbg (h : Hart) (c : BitVec 4) (xs : List Nat) : (h.setTile c xs).dbg = h.dbg := rfl
@[simp] theorem Hart.setTile_streams (h : Hart) (c : BitVec 4) (xs : List Nat) : (h.setTile c xs).streams = h.streams := rfl
@[simp] theorem Hart.setTile_copies (h : Hart) (c : BitVec 4) (xs : List Nat) : (h.setTile c xs).copies = h.copies := rfl
@[simp] theorem Hart.setTile_links (h : Hart) (c : BitVec 4) (xs : List Nat) : (h.setTile c xs).links = h.links := rfl
@[simp] theorem Hart.setTile_fnodes (h : Hart) (c : BitVec 4) (xs : List Nat) : (h.setTile c xs).fnodes = h.fnodes := rfl
@[simp] theorem Hart.setTile_ftokens (h : Hart) (c : BitVec 4) (xs : List Nat) : (h.setTile c xs).ftokens = h.ftokens := rfl
@[simp] theorem Hart.setTile_bell (h : Hart) (c : BitVec 4) (xs : List Nat) : (h.setTile c xs).bell = h.bell := rfl
@[simp] theorem Hart.setTile_windows (h : Hart) (c : BitVec 4) (xs : List Nat) : (h.setTile c xs).windows = h.windows := rfl
@[simp] theorem Hart.setTile_chain (h : Hart) (c : BitVec 4) (xs : List Nat) : (h.setTile c xs).chain = h.chain := rfl
@[simp] theorem Hart.setTile_onodes (h : Hart) (c : BitVec 4) (xs : List Nat) : (h.setTile c xs).onodes = h.onodes := rfl
@[simp] theorem Hart.setTile_skip (h : Hart) (c : BitVec 4) (xs : List Nat) : (h.setTile c xs).skip = h.skip := rfl
@[simp] theorem Hart.setTile_skipV (h : Hart) (c : BitVec 4) (xs : List Nat) : (h.setTile c xs).skipV = h.skipV := rfl
@[simp] theorem Hart.setTile_mreq (h : Hart) (c : BitVec 4) (xs : List Nat) : (h.setTile c xs).mreq = h.mreq := rfl
@[simp] theorem Hart.setTile_units (h : Hart) (c : BitVec 4) (xs : List Nat) : (h.setTile c xs).units = h.units := rfl
@[simp] theorem Hart.setTile_unitSince (h : Hart) (c : BitVec 4) (xs : List Nat) : (h.setTile c xs).unitSince = h.unitSince := rfl
@[simp] theorem Hart.setTile_unitTarget (h : Hart) (c : BitVec 4) (xs : List Nat) : (h.setTile c xs).unitTarget = h.unitTarget := rfl
@[simp] theorem Hart.setTile_stallSince (h : Hart) (c : BitVec 4) (xs : List Nat) : (h.setTile c xs).stallSince = h.stallSince := rfl
@[simp] theorem Hart.setTile_target (h : Hart) (c : BitVec 4) (xs : List Nat) : (h.setTile c xs).target = h.target := rfl
@[simp] theorem Hart.setTile_armed (h : Hart) (c : BitVec 4) (xs : List Nat) : (h.setTile c xs).armed = h.armed := rfl
@[simp] theorem Hart.setTile_stepping (h : Hart) (c : BitVec 4) (xs : List Nat) : (h.setTile c xs).stepping = h.stepping := rfl
@[simp] theorem Hart.setTile_lateStores (h : Hart) (c : BitVec 4) (xs : List Nat) : (h.setTile c xs).lateStores = h.lateStores := rfl
@[simp] theorem Hart.setTile_late (h : Hart) (c : BitVec 4) (xs : List Nat) : (h.setTile c xs).late = h.late := rfl
@[simp] theorem Hart.setTile_unperformed (h : Hart) (c : BitVec 4) (xs : List Nat) : (h.setTile c xs).unperformed = h.unperformed := rfl
@[simp] theorem Hart.setTile_leaving (h : Hart) (c : BitVec 4) (xs : List Nat) : (h.setTile c xs).leaving = h.leaving := rfl
@[simp] theorem Hart.setTile_unitsDue (h : Hart) (c : BitVec 4) (xs : List Nat) : (h.setTile c xs).unitsDue = h.unitsDue := rfl
@[simp] theorem Hart.setTile_gateWait (h : Hart) (c : BitVec 4) (xs : List Nat) : (h.setTile c xs).gateWait = h.gateWait := rfl
@[simp] theorem Hart.setTile_wdogOwed (h : Hart) (c : BitVec 4) (xs : List Nat) : (h.setTile c xs).wdogOwed = h.wdogOwed := rfl
@[simp] theorem Hart.setTile_fn (h : Hart) (c : BitVec 4) (xs : List Nat) : (h.setTile c xs).fn = h.fn := rfl
@[simp] theorem Hart.setTile_seq (h : Hart) (c : BitVec 4) (xs : List Nat) : (h.setTile c xs).seq = h.seq := rfl
@[simp] theorem Hart.setTile_index (h : Hart) (c : BitVec 4) (xs : List Nat) : (h.setTile c xs).index = h.index := rfl
@[simp] theorem Hart.setTile_handler (h : Hart) (c : BitVec 4) (xs : List Nat) : (h.setTile c xs).handler = h.handler := rfl
@[simp] theorem Hart.setTile_recordFn (h : Hart) (c : BitVec 4) (xs : List Nat) : (h.setTile c xs).recordFn = h.recordFn := rfl
@[simp] theorem Hart.releaseChain_run (h : Hart) : (h.releaseChain).run = h.run := rfl
@[simp] theorem Hart.releaseChain_asReturn (h : Hart) : (h.releaseChain).asReturn = h.asReturn := rfl
@[simp] theorem Hart.releaseChain_s (h : Hart) : (h.releaseChain).s = h.s := rfl
@[simp] theorem Hart.releaseChain_f (h : Hart) : (h.releaseChain).f = h.f := rfl
@[simp] theorem Hart.releaseChain_v (h : Hart) : (h.releaseChain).v = h.v := rfl
@[simp] theorem Hart.releaseChain_m (h : Hart) : (h.releaseChain).m = h.m := rfl
@[simp] theorem Hart.releaseChain_c (h : Hart) : (h.releaseChain).c = h.c := rfl
@[simp] theorem Hart.releaseChain_vLive (h : Hart) : (h.releaseChain).vLive = h.vLive := rfl
@[simp] theorem Hart.releaseChain_mLive (h : Hart) : (h.releaseChain).mLive = h.mLive := rfl
@[simp] theorem Hart.releaseChain_cLive (h : Hart) : (h.releaseChain).cLive = h.cLive := rfl
@[simp] theorem Hart.releaseChain_pc (h : Hart) : (h.releaseChain).pc = h.pc := rfl
@[simp] theorem Hart.releaseChain_ld (h : Hart) : (h.releaseChain).ld = h.ld := rfl
@[simp] theorem Hart.releaseChain_status (h : Hart) : (h.releaseChain).status = h.status := rfl
@[simp] theorem Hart.releaseChain_cause (h : Hart) : (h.releaseChain).cause = h.cause := rfl
@[simp] theorem Hart.releaseChain_epc (h : Hart) : (h.releaseChain).epc = h.epc := rfl
@[simp] theorem Hart.releaseChain_ei (h : Hart) : (h.releaseChain).ei = h.ei := rfl
@[simp] theorem Hart.releaseChain_faddr (h : Hart) : (h.releaseChain).faddr = h.faddr := rfl
@[simp] theorem Hart.releaseChain_et (h : Hart) : (h.releaseChain).et = h.et := rfl
@[simp] theorem Hart.releaseChain_vl (h : Hart) : (h.releaseChain).vl = h.vl := rfl
@[simp] theorem Hart.releaseChain_grant (h : Hart) : (h.releaseChain).grant = h.grant := rfl
@[simp] theorem Hart.releaseChain_lease (h : Hart) : (h.releaseChain).lease = h.lease := rfl
@[simp] theorem Hart.releaseChain_vstat (h : Hart) : (h.releaseChain).vstat = h.vstat := rfl
@[simp] theorem Hart.releaseChain_ffmask (h : Hart) : (h.releaseChain).ffmask = h.ffmask := rfl
@[simp] theorem Hart.releaseChain_cmask (h : Hart) : (h.releaseChain).cmask = h.cmask := rfl
@[simp] theorem Hart.releaseChain_scope (h : Hart) : (h.releaseChain).scope = h.scope := rfl
@[simp] theorem Hart.releaseChain_rng (h : Hart) : (h.releaseChain).rng = h.rng := rfl
@[simp] theorem Hart.releaseChain_viq (h : Hart) : (h.releaseChain).viq = h.viq := rfl
@[simp] theorem Hart.releaseChain_piq (h : Hart) : (h.releaseChain).piq = h.piq := rfl
@[simp] theorem Hart.releaseChain_miq (h : Hart) : (h.releaseChain).miq = h.miq := rfl
@[simp] theorem Hart.releaseChain_srq (h : Hart) : (h.releaseChain).srq = h.srq := rfl
@[simp] theorem Hart.releaseChain_bq (h : Hart) : (h.releaseChain).bq = h.bq := rfl
@[simp] theorem Hart.releaseChain_nextSeq (h : Hart) : (h.releaseChain).nextSeq = h.nextSeq := rfl
@[simp] theorem Hart.releaseChain_held (h : Hart) : (h.releaseChain).held = h.held := rfl
@[simp] theorem Hart.releaseChain_outer (h : Hart) : (h.releaseChain).outer = h.outer := rfl
@[simp] theorem Hart.releaseChain_dbg (h : Hart) : (h.releaseChain).dbg = h.dbg := rfl
@[simp] theorem Hart.releaseChain_streams (h : Hart) : (h.releaseChain).streams = h.streams := rfl
@[simp] theorem Hart.releaseChain_copies (h : Hart) : (h.releaseChain).copies = h.copies := rfl
@[simp] theorem Hart.releaseChain_links (h : Hart) : (h.releaseChain).links = h.links := rfl
@[simp] theorem Hart.releaseChain_fnodes (h : Hart) : (h.releaseChain).fnodes = h.fnodes := rfl
@[simp] theorem Hart.releaseChain_ftokens (h : Hart) : (h.releaseChain).ftokens = h.ftokens := rfl
@[simp] theorem Hart.releaseChain_bell (h : Hart) : (h.releaseChain).bell = h.bell := rfl
@[simp] theorem Hart.releaseChain_windows (h : Hart) : (h.releaseChain).windows = h.windows := rfl
@[simp] theorem Hart.releaseChain_onodes (h : Hart) : (h.releaseChain).onodes = h.onodes := rfl
@[simp] theorem Hart.releaseChain_skip (h : Hart) : (h.releaseChain).skip = h.skip := rfl
@[simp] theorem Hart.releaseChain_skipV (h : Hart) : (h.releaseChain).skipV = h.skipV := rfl
@[simp] theorem Hart.releaseChain_mreq (h : Hart) : (h.releaseChain).mreq = h.mreq := rfl
@[simp] theorem Hart.releaseChain_units (h : Hart) : (h.releaseChain).units = h.units := rfl
@[simp] theorem Hart.releaseChain_unitSince (h : Hart) : (h.releaseChain).unitSince = h.unitSince := rfl
@[simp] theorem Hart.releaseChain_unitTarget (h : Hart) : (h.releaseChain).unitTarget = h.unitTarget := rfl
@[simp] theorem Hart.releaseChain_stallSince (h : Hart) : (h.releaseChain).stallSince = h.stallSince := rfl
@[simp] theorem Hart.releaseChain_target (h : Hart) : (h.releaseChain).target = h.target := rfl
@[simp] theorem Hart.releaseChain_armed (h : Hart) : (h.releaseChain).armed = h.armed := rfl
@[simp] theorem Hart.releaseChain_stepping (h : Hart) : (h.releaseChain).stepping = h.stepping := rfl
@[simp] theorem Hart.releaseChain_lateStores (h : Hart) : (h.releaseChain).lateStores = h.lateStores := rfl
@[simp] theorem Hart.releaseChain_late (h : Hart) : (h.releaseChain).late = h.late := rfl
@[simp] theorem Hart.releaseChain_unperformed (h : Hart) : (h.releaseChain).unperformed = h.unperformed := rfl
@[simp] theorem Hart.releaseChain_leaving (h : Hart) : (h.releaseChain).leaving = h.leaving := rfl
@[simp] theorem Hart.releaseChain_unitsDue (h : Hart) : (h.releaseChain).unitsDue = h.unitsDue := rfl
@[simp] theorem Hart.releaseChain_gateWait (h : Hart) : (h.releaseChain).gateWait = h.gateWait := rfl
@[simp] theorem Hart.releaseChain_wdogOwed (h : Hart) : (h.releaseChain).wdogOwed = h.wdogOwed := rfl
@[simp] theorem Hart.releaseChain_fn (h : Hart) : (h.releaseChain).fn = h.fn := rfl
@[simp] theorem Hart.releaseChain_seq (h : Hart) : (h.releaseChain).seq = h.seq := rfl
@[simp] theorem Hart.releaseChain_index (h : Hart) : (h.releaseChain).index = h.index := rfl
@[simp] theorem Hart.releaseChain_handler (h : Hart) : (h.releaseChain).handler = h.handler := rfl
@[simp] theorem Hart.releaseChain_recordFn (h : Hart) : (h.releaseChain).recordFn = h.recordFn := rfl
/-- A break changes the chain alone. -/
theorem Hart.breakChain_only (h : Hart) (c : BitVec 4) (k : BitVec 6) : h.breakChain c k = { h with chain := (h.breakChain c k).chain } := by
  unfold Hart.breakChain
  split
  · rfl
  · rfl
  · dsimp only []
    split <;> rfl
  · rfl
  · rfl
@[simp] theorem Hart.breakChain_run (h : Hart) (c : BitVec 4) (k : BitVec 6) : (h.breakChain c k).run = h.run := by rw [Hart.breakChain_only]
@[simp] theorem Hart.breakChain_asReturn (h : Hart) (c : BitVec 4) (k : BitVec 6) : (h.breakChain c k).asReturn = h.asReturn := by rw [Hart.breakChain_only]
@[simp] theorem Hart.breakChain_s (h : Hart) (c : BitVec 4) (k : BitVec 6) : (h.breakChain c k).s = h.s := by rw [Hart.breakChain_only]
@[simp] theorem Hart.breakChain_f (h : Hart) (c : BitVec 4) (k : BitVec 6) : (h.breakChain c k).f = h.f := by rw [Hart.breakChain_only]
@[simp] theorem Hart.breakChain_v (h : Hart) (c : BitVec 4) (k : BitVec 6) : (h.breakChain c k).v = h.v := by rw [Hart.breakChain_only]
@[simp] theorem Hart.breakChain_m (h : Hart) (c : BitVec 4) (k : BitVec 6) : (h.breakChain c k).m = h.m := by rw [Hart.breakChain_only]
@[simp] theorem Hart.breakChain_c (h : Hart) (c : BitVec 4) (k : BitVec 6) : (h.breakChain c k).c = h.c := by rw [Hart.breakChain_only]
@[simp] theorem Hart.breakChain_vLive (h : Hart) (c : BitVec 4) (k : BitVec 6) : (h.breakChain c k).vLive = h.vLive := by rw [Hart.breakChain_only]
@[simp] theorem Hart.breakChain_mLive (h : Hart) (c : BitVec 4) (k : BitVec 6) : (h.breakChain c k).mLive = h.mLive := by rw [Hart.breakChain_only]
@[simp] theorem Hart.breakChain_cLive (h : Hart) (c : BitVec 4) (k : BitVec 6) : (h.breakChain c k).cLive = h.cLive := by rw [Hart.breakChain_only]
@[simp] theorem Hart.breakChain_pc (h : Hart) (c : BitVec 4) (k : BitVec 6) : (h.breakChain c k).pc = h.pc := by rw [Hart.breakChain_only]
@[simp] theorem Hart.breakChain_ld (h : Hart) (c : BitVec 4) (k : BitVec 6) : (h.breakChain c k).ld = h.ld := by rw [Hart.breakChain_only]
@[simp] theorem Hart.breakChain_status (h : Hart) (c : BitVec 4) (k : BitVec 6) : (h.breakChain c k).status = h.status := by rw [Hart.breakChain_only]
@[simp] theorem Hart.breakChain_cause (h : Hart) (c : BitVec 4) (k : BitVec 6) : (h.breakChain c k).cause = h.cause := by rw [Hart.breakChain_only]
@[simp] theorem Hart.breakChain_epc (h : Hart) (c : BitVec 4) (k : BitVec 6) : (h.breakChain c k).epc = h.epc := by rw [Hart.breakChain_only]
@[simp] theorem Hart.breakChain_ei (h : Hart) (c : BitVec 4) (k : BitVec 6) : (h.breakChain c k).ei = h.ei := by rw [Hart.breakChain_only]
@[simp] theorem Hart.breakChain_faddr (h : Hart) (c : BitVec 4) (k : BitVec 6) : (h.breakChain c k).faddr = h.faddr := by rw [Hart.breakChain_only]
@[simp] theorem Hart.breakChain_et (h : Hart) (c : BitVec 4) (k : BitVec 6) : (h.breakChain c k).et = h.et := by rw [Hart.breakChain_only]
@[simp] theorem Hart.breakChain_vl (h : Hart) (c : BitVec 4) (k : BitVec 6) : (h.breakChain c k).vl = h.vl := by rw [Hart.breakChain_only]
@[simp] theorem Hart.breakChain_grant (h : Hart) (c : BitVec 4) (k : BitVec 6) : (h.breakChain c k).grant = h.grant := by rw [Hart.breakChain_only]
@[simp] theorem Hart.breakChain_lease (h : Hart) (c : BitVec 4) (k : BitVec 6) : (h.breakChain c k).lease = h.lease := by rw [Hart.breakChain_only]
@[simp] theorem Hart.breakChain_vstat (h : Hart) (c : BitVec 4) (k : BitVec 6) : (h.breakChain c k).vstat = h.vstat := by rw [Hart.breakChain_only]
@[simp] theorem Hart.breakChain_ffmask (h : Hart) (c : BitVec 4) (k : BitVec 6) : (h.breakChain c k).ffmask = h.ffmask := by rw [Hart.breakChain_only]
@[simp] theorem Hart.breakChain_cmask (h : Hart) (c : BitVec 4) (k : BitVec 6) : (h.breakChain c k).cmask = h.cmask := by rw [Hart.breakChain_only]
@[simp] theorem Hart.breakChain_scope (h : Hart) (c : BitVec 4) (k : BitVec 6) : (h.breakChain c k).scope = h.scope := by rw [Hart.breakChain_only]
@[simp] theorem Hart.breakChain_rng (h : Hart) (c : BitVec 4) (k : BitVec 6) : (h.breakChain c k).rng = h.rng := by rw [Hart.breakChain_only]
@[simp] theorem Hart.breakChain_viq (h : Hart) (c : BitVec 4) (k : BitVec 6) : (h.breakChain c k).viq = h.viq := by rw [Hart.breakChain_only]
@[simp] theorem Hart.breakChain_piq (h : Hart) (c : BitVec 4) (k : BitVec 6) : (h.breakChain c k).piq = h.piq := by rw [Hart.breakChain_only]
@[simp] theorem Hart.breakChain_miq (h : Hart) (c : BitVec 4) (k : BitVec 6) : (h.breakChain c k).miq = h.miq := by rw [Hart.breakChain_only]
@[simp] theorem Hart.breakChain_srq (h : Hart) (c : BitVec 4) (k : BitVec 6) : (h.breakChain c k).srq = h.srq := by rw [Hart.breakChain_only]
@[simp] theorem Hart.breakChain_bq (h : Hart) (c : BitVec 4) (k : BitVec 6) : (h.breakChain c k).bq = h.bq := by rw [Hart.breakChain_only]
@[simp] theorem Hart.breakChain_nextSeq (h : Hart) (c : BitVec 4) (k : BitVec 6) : (h.breakChain c k).nextSeq = h.nextSeq := by rw [Hart.breakChain_only]
@[simp] theorem Hart.breakChain_held (h : Hart) (c : BitVec 4) (k : BitVec 6) : (h.breakChain c k).held = h.held := by rw [Hart.breakChain_only]
@[simp] theorem Hart.breakChain_outer (h : Hart) (c : BitVec 4) (k : BitVec 6) : (h.breakChain c k).outer = h.outer := by rw [Hart.breakChain_only]
@[simp] theorem Hart.breakChain_dbg (h : Hart) (c : BitVec 4) (k : BitVec 6) : (h.breakChain c k).dbg = h.dbg := by rw [Hart.breakChain_only]
@[simp] theorem Hart.breakChain_streams (h : Hart) (c : BitVec 4) (k : BitVec 6) : (h.breakChain c k).streams = h.streams := by rw [Hart.breakChain_only]
@[simp] theorem Hart.breakChain_copies (h : Hart) (c : BitVec 4) (k : BitVec 6) : (h.breakChain c k).copies = h.copies := by rw [Hart.breakChain_only]
@[simp] theorem Hart.breakChain_links (h : Hart) (c : BitVec 4) (k : BitVec 6) : (h.breakChain c k).links = h.links := by rw [Hart.breakChain_only]
@[simp] theorem Hart.breakChain_fnodes (h : Hart) (c : BitVec 4) (k : BitVec 6) : (h.breakChain c k).fnodes = h.fnodes := by rw [Hart.breakChain_only]
@[simp] theorem Hart.breakChain_ftokens (h : Hart) (c : BitVec 4) (k : BitVec 6) : (h.breakChain c k).ftokens = h.ftokens := by rw [Hart.breakChain_only]
@[simp] theorem Hart.breakChain_bell (h : Hart) (c : BitVec 4) (k : BitVec 6) : (h.breakChain c k).bell = h.bell := by rw [Hart.breakChain_only]
@[simp] theorem Hart.breakChain_windows (h : Hart) (c : BitVec 4) (k : BitVec 6) : (h.breakChain c k).windows = h.windows := by rw [Hart.breakChain_only]
@[simp] theorem Hart.breakChain_onodes (h : Hart) (c : BitVec 4) (k : BitVec 6) : (h.breakChain c k).onodes = h.onodes := by rw [Hart.breakChain_only]
@[simp] theorem Hart.breakChain_skip (h : Hart) (c : BitVec 4) (k : BitVec 6) : (h.breakChain c k).skip = h.skip := by rw [Hart.breakChain_only]
@[simp] theorem Hart.breakChain_skipV (h : Hart) (c : BitVec 4) (k : BitVec 6) : (h.breakChain c k).skipV = h.skipV := by rw [Hart.breakChain_only]
@[simp] theorem Hart.breakChain_mreq (h : Hart) (c : BitVec 4) (k : BitVec 6) : (h.breakChain c k).mreq = h.mreq := by rw [Hart.breakChain_only]
@[simp] theorem Hart.breakChain_units (h : Hart) (c : BitVec 4) (k : BitVec 6) : (h.breakChain c k).units = h.units := by rw [Hart.breakChain_only]
@[simp] theorem Hart.breakChain_unitSince (h : Hart) (c : BitVec 4) (k : BitVec 6) : (h.breakChain c k).unitSince = h.unitSince := by rw [Hart.breakChain_only]
@[simp] theorem Hart.breakChain_unitTarget (h : Hart) (c : BitVec 4) (k : BitVec 6) : (h.breakChain c k).unitTarget = h.unitTarget := by rw [Hart.breakChain_only]
@[simp] theorem Hart.breakChain_stallSince (h : Hart) (c : BitVec 4) (k : BitVec 6) : (h.breakChain c k).stallSince = h.stallSince := by rw [Hart.breakChain_only]
@[simp] theorem Hart.breakChain_target (h : Hart) (c : BitVec 4) (k : BitVec 6) : (h.breakChain c k).target = h.target := by rw [Hart.breakChain_only]
@[simp] theorem Hart.breakChain_armed (h : Hart) (c : BitVec 4) (k : BitVec 6) : (h.breakChain c k).armed = h.armed := by rw [Hart.breakChain_only]
@[simp] theorem Hart.breakChain_stepping (h : Hart) (c : BitVec 4) (k : BitVec 6) : (h.breakChain c k).stepping = h.stepping := by rw [Hart.breakChain_only]
@[simp] theorem Hart.breakChain_lateStores (h : Hart) (c : BitVec 4) (k : BitVec 6) : (h.breakChain c k).lateStores = h.lateStores := by rw [Hart.breakChain_only]
@[simp] theorem Hart.breakChain_late (h : Hart) (c : BitVec 4) (k : BitVec 6) : (h.breakChain c k).late = h.late := by rw [Hart.breakChain_only]
@[simp] theorem Hart.breakChain_unperformed (h : Hart) (c : BitVec 4) (k : BitVec 6) : (h.breakChain c k).unperformed = h.unperformed := by rw [Hart.breakChain_only]
@[simp] theorem Hart.breakChain_leaving (h : Hart) (c : BitVec 4) (k : BitVec 6) : (h.breakChain c k).leaving = h.leaving := by rw [Hart.breakChain_only]
@[simp] theorem Hart.breakChain_unitsDue (h : Hart) (c : BitVec 4) (k : BitVec 6) : (h.breakChain c k).unitsDue = h.unitsDue := by rw [Hart.breakChain_only]
@[simp] theorem Hart.breakChain_gateWait (h : Hart) (c : BitVec 4) (k : BitVec 6) : (h.breakChain c k).gateWait = h.gateWait := by rw [Hart.breakChain_only]
@[simp] theorem Hart.breakChain_wdogOwed (h : Hart) (c : BitVec 4) (k : BitVec 6) : (h.breakChain c k).wdogOwed = h.wdogOwed := by rw [Hart.breakChain_only]
@[simp] theorem Hart.breakChain_fn (h : Hart) (c : BitVec 4) (k : BitVec 6) : (h.breakChain c k).fn = h.fn := by rw [Hart.breakChain_only]
@[simp] theorem Hart.breakChain_seq (h : Hart) (c : BitVec 4) (k : BitVec 6) : (h.breakChain c k).seq = h.seq := by rw [Hart.breakChain_only]
@[simp] theorem Hart.breakChain_index (h : Hart) (c : BitVec 4) (k : BitVec 6) : (h.breakChain c k).index = h.index := by rw [Hart.breakChain_only]
@[simp] theorem Hart.breakChain_handler (h : Hart) (c : BitVec 4) (k : BitVec 6) : (h.breakChain c k).handler = h.handler := by rw [Hart.breakChain_only]
@[simp] theorem Hart.breakChain_recordFn (h : Hart) (c : BitVec 4) (k : BitVec 6) : (h.breakChain c k).recordFn = h.recordFn := by rw [Hart.breakChain_only]
@[simp] theorem Hart.modQueueOf_run (h : Hart) (q : BitVec 2) (f : List Entry → List Entry) : (h.modQueueOf q f).run = h.run := by unfold Hart.modQueueOf; repeat (first | rfl | split)
@[simp] theorem Hart.modQueueOf_asReturn (h : Hart) (q : BitVec 2) (f : List Entry → List Entry) : (h.modQueueOf q f).asReturn = h.asReturn := by unfold Hart.modQueueOf; repeat (first | rfl | split)
@[simp] theorem Hart.modQueueOf_s (h : Hart) (q : BitVec 2) (f : List Entry → List Entry) : (h.modQueueOf q f).s = h.s := by unfold Hart.modQueueOf; repeat (first | rfl | split)
@[simp] theorem Hart.modQueueOf_f (h : Hart) (q : BitVec 2) (f : List Entry → List Entry) : (h.modQueueOf q f).f = h.f := by unfold Hart.modQueueOf; repeat (first | rfl | split)
@[simp] theorem Hart.modQueueOf_v (h : Hart) (q : BitVec 2) (f : List Entry → List Entry) : (h.modQueueOf q f).v = h.v := by unfold Hart.modQueueOf; repeat (first | rfl | split)
@[simp] theorem Hart.modQueueOf_m (h : Hart) (q : BitVec 2) (f : List Entry → List Entry) : (h.modQueueOf q f).m = h.m := by unfold Hart.modQueueOf; repeat (first | rfl | split)
@[simp] theorem Hart.modQueueOf_c (h : Hart) (q : BitVec 2) (f : List Entry → List Entry) : (h.modQueueOf q f).c = h.c := by unfold Hart.modQueueOf; repeat (first | rfl | split)
@[simp] theorem Hart.modQueueOf_vLive (h : Hart) (q : BitVec 2) (f : List Entry → List Entry) : (h.modQueueOf q f).vLive = h.vLive := by unfold Hart.modQueueOf; repeat (first | rfl | split)
@[simp] theorem Hart.modQueueOf_mLive (h : Hart) (q : BitVec 2) (f : List Entry → List Entry) : (h.modQueueOf q f).mLive = h.mLive := by unfold Hart.modQueueOf; repeat (first | rfl | split)
@[simp] theorem Hart.modQueueOf_cLive (h : Hart) (q : BitVec 2) (f : List Entry → List Entry) : (h.modQueueOf q f).cLive = h.cLive := by unfold Hart.modQueueOf; repeat (first | rfl | split)
@[simp] theorem Hart.modQueueOf_pc (h : Hart) (q : BitVec 2) (f : List Entry → List Entry) : (h.modQueueOf q f).pc = h.pc := by unfold Hart.modQueueOf; repeat (first | rfl | split)
@[simp] theorem Hart.modQueueOf_ld (h : Hart) (q : BitVec 2) (f : List Entry → List Entry) : (h.modQueueOf q f).ld = h.ld := by unfold Hart.modQueueOf; repeat (first | rfl | split)
@[simp] theorem Hart.modQueueOf_status (h : Hart) (q : BitVec 2) (f : List Entry → List Entry) : (h.modQueueOf q f).status = h.status := by unfold Hart.modQueueOf; repeat (first | rfl | split)
@[simp] theorem Hart.modQueueOf_cause (h : Hart) (q : BitVec 2) (f : List Entry → List Entry) : (h.modQueueOf q f).cause = h.cause := by unfold Hart.modQueueOf; repeat (first | rfl | split)
@[simp] theorem Hart.modQueueOf_epc (h : Hart) (q : BitVec 2) (f : List Entry → List Entry) : (h.modQueueOf q f).epc = h.epc := by unfold Hart.modQueueOf; repeat (first | rfl | split)
@[simp] theorem Hart.modQueueOf_ei (h : Hart) (q : BitVec 2) (f : List Entry → List Entry) : (h.modQueueOf q f).ei = h.ei := by unfold Hart.modQueueOf; repeat (first | rfl | split)
@[simp] theorem Hart.modQueueOf_faddr (h : Hart) (q : BitVec 2) (f : List Entry → List Entry) : (h.modQueueOf q f).faddr = h.faddr := by unfold Hart.modQueueOf; repeat (first | rfl | split)
@[simp] theorem Hart.modQueueOf_et (h : Hart) (q : BitVec 2) (f : List Entry → List Entry) : (h.modQueueOf q f).et = h.et := by unfold Hart.modQueueOf; repeat (first | rfl | split)
@[simp] theorem Hart.modQueueOf_vl (h : Hart) (q : BitVec 2) (f : List Entry → List Entry) : (h.modQueueOf q f).vl = h.vl := by unfold Hart.modQueueOf; repeat (first | rfl | split)
@[simp] theorem Hart.modQueueOf_grant (h : Hart) (q : BitVec 2) (f : List Entry → List Entry) : (h.modQueueOf q f).grant = h.grant := by unfold Hart.modQueueOf; repeat (first | rfl | split)
@[simp] theorem Hart.modQueueOf_lease (h : Hart) (q : BitVec 2) (f : List Entry → List Entry) : (h.modQueueOf q f).lease = h.lease := by unfold Hart.modQueueOf; repeat (first | rfl | split)
@[simp] theorem Hart.modQueueOf_vstat (h : Hart) (q : BitVec 2) (f : List Entry → List Entry) : (h.modQueueOf q f).vstat = h.vstat := by unfold Hart.modQueueOf; repeat (first | rfl | split)
@[simp] theorem Hart.modQueueOf_ffmask (h : Hart) (q : BitVec 2) (f : List Entry → List Entry) : (h.modQueueOf q f).ffmask = h.ffmask := by unfold Hart.modQueueOf; repeat (first | rfl | split)
@[simp] theorem Hart.modQueueOf_cmask (h : Hart) (q : BitVec 2) (f : List Entry → List Entry) : (h.modQueueOf q f).cmask = h.cmask := by unfold Hart.modQueueOf; repeat (first | rfl | split)
@[simp] theorem Hart.modQueueOf_scope (h : Hart) (q : BitVec 2) (f : List Entry → List Entry) : (h.modQueueOf q f).scope = h.scope := by unfold Hart.modQueueOf; repeat (first | rfl | split)
@[simp] theorem Hart.modQueueOf_rng (h : Hart) (q : BitVec 2) (f : List Entry → List Entry) : (h.modQueueOf q f).rng = h.rng := by unfold Hart.modQueueOf; repeat (first | rfl | split)
@[simp] theorem Hart.modQueueOf_srq (h : Hart) (q : BitVec 2) (f : List Entry → List Entry) : (h.modQueueOf q f).srq = h.srq := by unfold Hart.modQueueOf; repeat (first | rfl | split)
@[simp] theorem Hart.modQueueOf_bq (h : Hart) (q : BitVec 2) (f : List Entry → List Entry) : (h.modQueueOf q f).bq = h.bq := by unfold Hart.modQueueOf; repeat (first | rfl | split)
@[simp] theorem Hart.modQueueOf_nextSeq (h : Hart) (q : BitVec 2) (f : List Entry → List Entry) : (h.modQueueOf q f).nextSeq = h.nextSeq := by unfold Hart.modQueueOf; repeat (first | rfl | split)
@[simp] theorem Hart.modQueueOf_held (h : Hart) (q : BitVec 2) (f : List Entry → List Entry) : (h.modQueueOf q f).held = h.held := by unfold Hart.modQueueOf; repeat (first | rfl | split)
@[simp] theorem Hart.modQueueOf_outer (h : Hart) (q : BitVec 2) (f : List Entry → List Entry) : (h.modQueueOf q f).outer = h.outer := by unfold Hart.modQueueOf; repeat (first | rfl | split)
@[simp] theorem Hart.modQueueOf_dbg (h : Hart) (q : BitVec 2) (f : List Entry → List Entry) : (h.modQueueOf q f).dbg = h.dbg := by unfold Hart.modQueueOf; repeat (first | rfl | split)
@[simp] theorem Hart.modQueueOf_streams (h : Hart) (q : BitVec 2) (f : List Entry → List Entry) : (h.modQueueOf q f).streams = h.streams := by unfold Hart.modQueueOf; repeat (first | rfl | split)
@[simp] theorem Hart.modQueueOf_copies (h : Hart) (q : BitVec 2) (f : List Entry → List Entry) : (h.modQueueOf q f).copies = h.copies := by unfold Hart.modQueueOf; repeat (first | rfl | split)
@[simp] theorem Hart.modQueueOf_links (h : Hart) (q : BitVec 2) (f : List Entry → List Entry) : (h.modQueueOf q f).links = h.links := by unfold Hart.modQueueOf; repeat (first | rfl | split)
@[simp] theorem Hart.modQueueOf_fnodes (h : Hart) (q : BitVec 2) (f : List Entry → List Entry) : (h.modQueueOf q f).fnodes = h.fnodes := by unfold Hart.modQueueOf; repeat (first | rfl | split)
@[simp] theorem Hart.modQueueOf_ftokens (h : Hart) (q : BitVec 2) (f : List Entry → List Entry) : (h.modQueueOf q f).ftokens = h.ftokens := by unfold Hart.modQueueOf; repeat (first | rfl | split)
@[simp] theorem Hart.modQueueOf_bell (h : Hart) (q : BitVec 2) (f : List Entry → List Entry) : (h.modQueueOf q f).bell = h.bell := by unfold Hart.modQueueOf; repeat (first | rfl | split)
@[simp] theorem Hart.modQueueOf_windows (h : Hart) (q : BitVec 2) (f : List Entry → List Entry) : (h.modQueueOf q f).windows = h.windows := by unfold Hart.modQueueOf; repeat (first | rfl | split)
@[simp] theorem Hart.modQueueOf_chain (h : Hart) (q : BitVec 2) (f : List Entry → List Entry) : (h.modQueueOf q f).chain = h.chain := by unfold Hart.modQueueOf; repeat (first | rfl | split)
@[simp] theorem Hart.modQueueOf_onodes (h : Hart) (q : BitVec 2) (f : List Entry → List Entry) : (h.modQueueOf q f).onodes = h.onodes := by unfold Hart.modQueueOf; repeat (first | rfl | split)
@[simp] theorem Hart.modQueueOf_skip (h : Hart) (q : BitVec 2) (f : List Entry → List Entry) : (h.modQueueOf q f).skip = h.skip := by unfold Hart.modQueueOf; repeat (first | rfl | split)
@[simp] theorem Hart.modQueueOf_skipV (h : Hart) (q : BitVec 2) (f : List Entry → List Entry) : (h.modQueueOf q f).skipV = h.skipV := by unfold Hart.modQueueOf; repeat (first | rfl | split)
@[simp] theorem Hart.modQueueOf_mreq (h : Hart) (q : BitVec 2) (f : List Entry → List Entry) : (h.modQueueOf q f).mreq = h.mreq := by unfold Hart.modQueueOf; repeat (first | rfl | split)
@[simp] theorem Hart.modQueueOf_units (h : Hart) (q : BitVec 2) (f : List Entry → List Entry) : (h.modQueueOf q f).units = h.units := by unfold Hart.modQueueOf; repeat (first | rfl | split)
@[simp] theorem Hart.modQueueOf_unitSince (h : Hart) (q : BitVec 2) (f : List Entry → List Entry) : (h.modQueueOf q f).unitSince = h.unitSince := by unfold Hart.modQueueOf; repeat (first | rfl | split)
@[simp] theorem Hart.modQueueOf_unitTarget (h : Hart) (q : BitVec 2) (f : List Entry → List Entry) : (h.modQueueOf q f).unitTarget = h.unitTarget := by unfold Hart.modQueueOf; repeat (first | rfl | split)
@[simp] theorem Hart.modQueueOf_stallSince (h : Hart) (q : BitVec 2) (f : List Entry → List Entry) : (h.modQueueOf q f).stallSince = h.stallSince := by unfold Hart.modQueueOf; repeat (first | rfl | split)
@[simp] theorem Hart.modQueueOf_target (h : Hart) (q : BitVec 2) (f : List Entry → List Entry) : (h.modQueueOf q f).target = h.target := by unfold Hart.modQueueOf; repeat (first | rfl | split)
@[simp] theorem Hart.modQueueOf_armed (h : Hart) (q : BitVec 2) (f : List Entry → List Entry) : (h.modQueueOf q f).armed = h.armed := by unfold Hart.modQueueOf; repeat (first | rfl | split)
@[simp] theorem Hart.modQueueOf_stepping (h : Hart) (q : BitVec 2) (f : List Entry → List Entry) : (h.modQueueOf q f).stepping = h.stepping := by unfold Hart.modQueueOf; repeat (first | rfl | split)
@[simp] theorem Hart.modQueueOf_lateStores (h : Hart) (q : BitVec 2) (f : List Entry → List Entry) : (h.modQueueOf q f).lateStores = h.lateStores := by unfold Hart.modQueueOf; repeat (first | rfl | split)
@[simp] theorem Hart.modQueueOf_late (h : Hart) (q : BitVec 2) (f : List Entry → List Entry) : (h.modQueueOf q f).late = h.late := by unfold Hart.modQueueOf; repeat (first | rfl | split)
@[simp] theorem Hart.modQueueOf_unperformed (h : Hart) (q : BitVec 2) (f : List Entry → List Entry) : (h.modQueueOf q f).unperformed = h.unperformed := by unfold Hart.modQueueOf; repeat (first | rfl | split)
@[simp] theorem Hart.modQueueOf_leaving (h : Hart) (q : BitVec 2) (f : List Entry → List Entry) : (h.modQueueOf q f).leaving = h.leaving := by unfold Hart.modQueueOf; repeat (first | rfl | split)
@[simp] theorem Hart.modQueueOf_unitsDue (h : Hart) (q : BitVec 2) (f : List Entry → List Entry) : (h.modQueueOf q f).unitsDue = h.unitsDue := by unfold Hart.modQueueOf; repeat (first | rfl | split)
@[simp] theorem Hart.modQueueOf_gateWait (h : Hart) (q : BitVec 2) (f : List Entry → List Entry) : (h.modQueueOf q f).gateWait = h.gateWait := by unfold Hart.modQueueOf; repeat (first | rfl | split)
@[simp] theorem Hart.modQueueOf_wdogOwed (h : Hart) (q : BitVec 2) (f : List Entry → List Entry) : (h.modQueueOf q f).wdogOwed = h.wdogOwed := by unfold Hart.modQueueOf; repeat (first | rfl | split)
@[simp] theorem Hart.modQueueOf_fn (h : Hart) (q : BitVec 2) (f : List Entry → List Entry) : (h.modQueueOf q f).fn = h.fn := by unfold Hart.modQueueOf; repeat (first | rfl | split)
@[simp] theorem Hart.modQueueOf_seq (h : Hart) (q : BitVec 2) (f : List Entry → List Entry) : (h.modQueueOf q f).seq = h.seq := by unfold Hart.modQueueOf; repeat (first | rfl | split)
@[simp] theorem Hart.modQueueOf_index (h : Hart) (q : BitVec 2) (f : List Entry → List Entry) : (h.modQueueOf q f).index = h.index := by unfold Hart.modQueueOf; repeat (first | rfl | split)
@[simp] theorem Hart.modQueueOf_handler (h : Hart) (q : BitVec 2) (f : List Entry → List Entry) : (h.modQueueOf q f).handler = h.handler := by unfold Hart.modQueueOf; repeat (first | rfl | split)
@[simp] theorem Hart.modQueueOf_recordFn (h : Hart) (q : BitVec 2) (f : List Entry → List Entry) : (h.modQueueOf q f).recordFn = h.recordFn := by unfold Hart.modQueueOf; repeat (first | rfl | split)
@[simp] theorem Hart.popQueue_run (h : Hart) (q : BitVec 2) : (h.popQueue q).run = h.run := Hart.modQueueOf_run h q _
@[simp] theorem Hart.popQueue_asReturn (h : Hart) (q : BitVec 2) : (h.popQueue q).asReturn = h.asReturn := Hart.modQueueOf_asReturn h q _
@[simp] theorem Hart.popQueue_s (h : Hart) (q : BitVec 2) : (h.popQueue q).s = h.s := Hart.modQueueOf_s h q _
@[simp] theorem Hart.popQueue_f (h : Hart) (q : BitVec 2) : (h.popQueue q).f = h.f := Hart.modQueueOf_f h q _
@[simp] theorem Hart.popQueue_v (h : Hart) (q : BitVec 2) : (h.popQueue q).v = h.v := Hart.modQueueOf_v h q _
@[simp] theorem Hart.popQueue_m (h : Hart) (q : BitVec 2) : (h.popQueue q).m = h.m := Hart.modQueueOf_m h q _
@[simp] theorem Hart.popQueue_c (h : Hart) (q : BitVec 2) : (h.popQueue q).c = h.c := Hart.modQueueOf_c h q _
@[simp] theorem Hart.popQueue_vLive (h : Hart) (q : BitVec 2) : (h.popQueue q).vLive = h.vLive := Hart.modQueueOf_vLive h q _
@[simp] theorem Hart.popQueue_mLive (h : Hart) (q : BitVec 2) : (h.popQueue q).mLive = h.mLive := Hart.modQueueOf_mLive h q _
@[simp] theorem Hart.popQueue_cLive (h : Hart) (q : BitVec 2) : (h.popQueue q).cLive = h.cLive := Hart.modQueueOf_cLive h q _
@[simp] theorem Hart.popQueue_pc (h : Hart) (q : BitVec 2) : (h.popQueue q).pc = h.pc := Hart.modQueueOf_pc h q _
@[simp] theorem Hart.popQueue_ld (h : Hart) (q : BitVec 2) : (h.popQueue q).ld = h.ld := Hart.modQueueOf_ld h q _
@[simp] theorem Hart.popQueue_status (h : Hart) (q : BitVec 2) : (h.popQueue q).status = h.status := Hart.modQueueOf_status h q _
@[simp] theorem Hart.popQueue_cause (h : Hart) (q : BitVec 2) : (h.popQueue q).cause = h.cause := Hart.modQueueOf_cause h q _
@[simp] theorem Hart.popQueue_epc (h : Hart) (q : BitVec 2) : (h.popQueue q).epc = h.epc := Hart.modQueueOf_epc h q _
@[simp] theorem Hart.popQueue_ei (h : Hart) (q : BitVec 2) : (h.popQueue q).ei = h.ei := Hart.modQueueOf_ei h q _
@[simp] theorem Hart.popQueue_faddr (h : Hart) (q : BitVec 2) : (h.popQueue q).faddr = h.faddr := Hart.modQueueOf_faddr h q _
@[simp] theorem Hart.popQueue_et (h : Hart) (q : BitVec 2) : (h.popQueue q).et = h.et := Hart.modQueueOf_et h q _
@[simp] theorem Hart.popQueue_vl (h : Hart) (q : BitVec 2) : (h.popQueue q).vl = h.vl := Hart.modQueueOf_vl h q _
@[simp] theorem Hart.popQueue_grant (h : Hart) (q : BitVec 2) : (h.popQueue q).grant = h.grant := Hart.modQueueOf_grant h q _
@[simp] theorem Hart.popQueue_lease (h : Hart) (q : BitVec 2) : (h.popQueue q).lease = h.lease := Hart.modQueueOf_lease h q _
@[simp] theorem Hart.popQueue_vstat (h : Hart) (q : BitVec 2) : (h.popQueue q).vstat = h.vstat := Hart.modQueueOf_vstat h q _
@[simp] theorem Hart.popQueue_ffmask (h : Hart) (q : BitVec 2) : (h.popQueue q).ffmask = h.ffmask := Hart.modQueueOf_ffmask h q _
@[simp] theorem Hart.popQueue_cmask (h : Hart) (q : BitVec 2) : (h.popQueue q).cmask = h.cmask := Hart.modQueueOf_cmask h q _
@[simp] theorem Hart.popQueue_scope (h : Hart) (q : BitVec 2) : (h.popQueue q).scope = h.scope := Hart.modQueueOf_scope h q _
@[simp] theorem Hart.popQueue_rng (h : Hart) (q : BitVec 2) : (h.popQueue q).rng = h.rng := Hart.modQueueOf_rng h q _
@[simp] theorem Hart.popQueue_srq (h : Hart) (q : BitVec 2) : (h.popQueue q).srq = h.srq := Hart.modQueueOf_srq h q _
@[simp] theorem Hart.popQueue_bq (h : Hart) (q : BitVec 2) : (h.popQueue q).bq = h.bq := Hart.modQueueOf_bq h q _
@[simp] theorem Hart.popQueue_nextSeq (h : Hart) (q : BitVec 2) : (h.popQueue q).nextSeq = h.nextSeq := Hart.modQueueOf_nextSeq h q _
@[simp] theorem Hart.popQueue_held (h : Hart) (q : BitVec 2) : (h.popQueue q).held = h.held := Hart.modQueueOf_held h q _
@[simp] theorem Hart.popQueue_outer (h : Hart) (q : BitVec 2) : (h.popQueue q).outer = h.outer := Hart.modQueueOf_outer h q _
@[simp] theorem Hart.popQueue_dbg (h : Hart) (q : BitVec 2) : (h.popQueue q).dbg = h.dbg := Hart.modQueueOf_dbg h q _
@[simp] theorem Hart.popQueue_streams (h : Hart) (q : BitVec 2) : (h.popQueue q).streams = h.streams := Hart.modQueueOf_streams h q _
@[simp] theorem Hart.popQueue_copies (h : Hart) (q : BitVec 2) : (h.popQueue q).copies = h.copies := Hart.modQueueOf_copies h q _
@[simp] theorem Hart.popQueue_links (h : Hart) (q : BitVec 2) : (h.popQueue q).links = h.links := Hart.modQueueOf_links h q _
@[simp] theorem Hart.popQueue_fnodes (h : Hart) (q : BitVec 2) : (h.popQueue q).fnodes = h.fnodes := Hart.modQueueOf_fnodes h q _
@[simp] theorem Hart.popQueue_ftokens (h : Hart) (q : BitVec 2) : (h.popQueue q).ftokens = h.ftokens := Hart.modQueueOf_ftokens h q _
@[simp] theorem Hart.popQueue_bell (h : Hart) (q : BitVec 2) : (h.popQueue q).bell = h.bell := Hart.modQueueOf_bell h q _
@[simp] theorem Hart.popQueue_windows (h : Hart) (q : BitVec 2) : (h.popQueue q).windows = h.windows := Hart.modQueueOf_windows h q _
@[simp] theorem Hart.popQueue_chain (h : Hart) (q : BitVec 2) : (h.popQueue q).chain = h.chain := Hart.modQueueOf_chain h q _
@[simp] theorem Hart.popQueue_onodes (h : Hart) (q : BitVec 2) : (h.popQueue q).onodes = h.onodes := Hart.modQueueOf_onodes h q _
@[simp] theorem Hart.popQueue_skip (h : Hart) (q : BitVec 2) : (h.popQueue q).skip = h.skip := Hart.modQueueOf_skip h q _
@[simp] theorem Hart.popQueue_skipV (h : Hart) (q : BitVec 2) : (h.popQueue q).skipV = h.skipV := Hart.modQueueOf_skipV h q _
@[simp] theorem Hart.popQueue_mreq (h : Hart) (q : BitVec 2) : (h.popQueue q).mreq = h.mreq := Hart.modQueueOf_mreq h q _
@[simp] theorem Hart.popQueue_units (h : Hart) (q : BitVec 2) : (h.popQueue q).units = h.units := Hart.modQueueOf_units h q _
@[simp] theorem Hart.popQueue_unitSince (h : Hart) (q : BitVec 2) : (h.popQueue q).unitSince = h.unitSince := Hart.modQueueOf_unitSince h q _
@[simp] theorem Hart.popQueue_unitTarget (h : Hart) (q : BitVec 2) : (h.popQueue q).unitTarget = h.unitTarget := Hart.modQueueOf_unitTarget h q _
@[simp] theorem Hart.popQueue_stallSince (h : Hart) (q : BitVec 2) : (h.popQueue q).stallSince = h.stallSince := Hart.modQueueOf_stallSince h q _
@[simp] theorem Hart.popQueue_target (h : Hart) (q : BitVec 2) : (h.popQueue q).target = h.target := Hart.modQueueOf_target h q _
@[simp] theorem Hart.popQueue_armed (h : Hart) (q : BitVec 2) : (h.popQueue q).armed = h.armed := Hart.modQueueOf_armed h q _
@[simp] theorem Hart.popQueue_stepping (h : Hart) (q : BitVec 2) : (h.popQueue q).stepping = h.stepping := Hart.modQueueOf_stepping h q _
@[simp] theorem Hart.popQueue_lateStores (h : Hart) (q : BitVec 2) : (h.popQueue q).lateStores = h.lateStores := Hart.modQueueOf_lateStores h q _
@[simp] theorem Hart.popQueue_late (h : Hart) (q : BitVec 2) : (h.popQueue q).late = h.late := Hart.modQueueOf_late h q _
@[simp] theorem Hart.popQueue_unperformed (h : Hart) (q : BitVec 2) : (h.popQueue q).unperformed = h.unperformed := Hart.modQueueOf_unperformed h q _
@[simp] theorem Hart.popQueue_leaving (h : Hart) (q : BitVec 2) : (h.popQueue q).leaving = h.leaving := Hart.modQueueOf_leaving h q _
@[simp] theorem Hart.popQueue_unitsDue (h : Hart) (q : BitVec 2) : (h.popQueue q).unitsDue = h.unitsDue := Hart.modQueueOf_unitsDue h q _
@[simp] theorem Hart.popQueue_gateWait (h : Hart) (q : BitVec 2) : (h.popQueue q).gateWait = h.gateWait := Hart.modQueueOf_gateWait h q _
@[simp] theorem Hart.popQueue_wdogOwed (h : Hart) (q : BitVec 2) : (h.popQueue q).wdogOwed = h.wdogOwed := Hart.modQueueOf_wdogOwed h q _
@[simp] theorem Hart.popQueue_fn (h : Hart) (q : BitVec 2) : (h.popQueue q).fn = h.fn := Hart.modQueueOf_fn h q _
@[simp] theorem Hart.popQueue_seq (h : Hart) (q : BitVec 2) : (h.popQueue q).seq = h.seq := Hart.modQueueOf_seq h q _
@[simp] theorem Hart.popQueue_index (h : Hart) (q : BitVec 2) : (h.popQueue q).index = h.index := Hart.modQueueOf_index h q _
@[simp] theorem Hart.popQueue_handler (h : Hart) (q : BitVec 2) : (h.popQueue q).handler = h.handler := Hart.modQueueOf_handler h q _
@[simp] theorem Hart.popQueue_recordFn (h : Hart) (q : BitVec 2) : (h.popQueue q).recordFn = h.recordFn := Hart.modQueueOf_recordFn h q _

/-! ### The hart: groups and masks -/

@[simp] theorem Hart.setVelems_run (h : Hart) (w vn g : Nat) (xs : List Nat) : (h.setVelems w vn g xs).run = h.run :=
  foldl_keeps (fun h : Hart => h.run) _ (fun h k => by simp only []; split <;> rfl) _ h
@[simp] theorem Hart.setVelems_asReturn (h : Hart) (w vn g : Nat) (xs : List Nat) : (h.setVelems w vn g xs).asReturn = h.asReturn :=
  foldl_keeps (fun h : Hart => h.asReturn) _ (fun h k => by simp only []; split <;> rfl) _ h
@[simp] theorem Hart.setVelems_s (h : Hart) (w vn g : Nat) (xs : List Nat) : (h.setVelems w vn g xs).s = h.s :=
  foldl_keeps (fun h : Hart => h.s) _ (fun h k => by simp only []; split <;> rfl) _ h
@[simp] theorem Hart.setVelems_f (h : Hart) (w vn g : Nat) (xs : List Nat) : (h.setVelems w vn g xs).f = h.f :=
  foldl_keeps (fun h : Hart => h.f) _ (fun h k => by simp only []; split <;> rfl) _ h
@[simp] theorem Hart.setVelems_m (h : Hart) (w vn g : Nat) (xs : List Nat) : (h.setVelems w vn g xs).m = h.m :=
  foldl_keeps (fun h : Hart => h.m) _ (fun h k => by simp only []; split <;> rfl) _ h
@[simp] theorem Hart.setVelems_c (h : Hart) (w vn g : Nat) (xs : List Nat) : (h.setVelems w vn g xs).c = h.c :=
  foldl_keeps (fun h : Hart => h.c) _ (fun h k => by simp only []; split <;> rfl) _ h
@[simp] theorem Hart.setVelems_mLive (h : Hart) (w vn g : Nat) (xs : List Nat) : (h.setVelems w vn g xs).mLive = h.mLive :=
  foldl_keeps (fun h : Hart => h.mLive) _ (fun h k => by simp only []; split <;> rfl) _ h
@[simp] theorem Hart.setVelems_cLive (h : Hart) (w vn g : Nat) (xs : List Nat) : (h.setVelems w vn g xs).cLive = h.cLive :=
  foldl_keeps (fun h : Hart => h.cLive) _ (fun h k => by simp only []; split <;> rfl) _ h
@[simp] theorem Hart.setVelems_pc (h : Hart) (w vn g : Nat) (xs : List Nat) : (h.setVelems w vn g xs).pc = h.pc :=
  foldl_keeps (fun h : Hart => h.pc) _ (fun h k => by simp only []; split <;> rfl) _ h
@[simp] theorem Hart.setVelems_ld (h : Hart) (w vn g : Nat) (xs : List Nat) : (h.setVelems w vn g xs).ld = h.ld :=
  foldl_keeps (fun h : Hart => h.ld) _ (fun h k => by simp only []; split <;> rfl) _ h
@[simp] theorem Hart.setVelems_status (h : Hart) (w vn g : Nat) (xs : List Nat) : (h.setVelems w vn g xs).status = h.status :=
  foldl_keeps (fun h : Hart => h.status) _ (fun h k => by simp only []; split <;> rfl) _ h
@[simp] theorem Hart.setVelems_cause (h : Hart) (w vn g : Nat) (xs : List Nat) : (h.setVelems w vn g xs).cause = h.cause :=
  foldl_keeps (fun h : Hart => h.cause) _ (fun h k => by simp only []; split <;> rfl) _ h
@[simp] theorem Hart.setVelems_epc (h : Hart) (w vn g : Nat) (xs : List Nat) : (h.setVelems w vn g xs).epc = h.epc :=
  foldl_keeps (fun h : Hart => h.epc) _ (fun h k => by simp only []; split <;> rfl) _ h
@[simp] theorem Hart.setVelems_ei (h : Hart) (w vn g : Nat) (xs : List Nat) : (h.setVelems w vn g xs).ei = h.ei :=
  foldl_keeps (fun h : Hart => h.ei) _ (fun h k => by simp only []; split <;> rfl) _ h
@[simp] theorem Hart.setVelems_faddr (h : Hart) (w vn g : Nat) (xs : List Nat) : (h.setVelems w vn g xs).faddr = h.faddr :=
  foldl_keeps (fun h : Hart => h.faddr) _ (fun h k => by simp only []; split <;> rfl) _ h
@[simp] theorem Hart.setVelems_et (h : Hart) (w vn g : Nat) (xs : List Nat) : (h.setVelems w vn g xs).et = h.et :=
  foldl_keeps (fun h : Hart => h.et) _ (fun h k => by simp only []; split <;> rfl) _ h
@[simp] theorem Hart.setVelems_vl (h : Hart) (w vn g : Nat) (xs : List Nat) : (h.setVelems w vn g xs).vl = h.vl :=
  foldl_keeps (fun h : Hart => h.vl) _ (fun h k => by simp only []; split <;> rfl) _ h
@[simp] theorem Hart.setVelems_grant (h : Hart) (w vn g : Nat) (xs : List Nat) : (h.setVelems w vn g xs).grant = h.grant :=
  foldl_keeps (fun h : Hart => h.grant) _ (fun h k => by simp only []; split <;> rfl) _ h
@[simp] theorem Hart.setVelems_lease (h : Hart) (w vn g : Nat) (xs : List Nat) : (h.setVelems w vn g xs).lease = h.lease :=
  foldl_keeps (fun h : Hart => h.lease) _ (fun h k => by simp only []; split <;> rfl) _ h
@[simp] theorem Hart.setVelems_vstat (h : Hart) (w vn g : Nat) (xs : List Nat) : (h.setVelems w vn g xs).vstat = h.vstat :=
  foldl_keeps (fun h : Hart => h.vstat) _ (fun h k => by simp only []; split <;> rfl) _ h
@[simp] theorem Hart.setVelems_ffmask (h : Hart) (w vn g : Nat) (xs : List Nat) : (h.setVelems w vn g xs).ffmask = h.ffmask :=
  foldl_keeps (fun h : Hart => h.ffmask) _ (fun h k => by simp only []; split <;> rfl) _ h
@[simp] theorem Hart.setVelems_cmask (h : Hart) (w vn g : Nat) (xs : List Nat) : (h.setVelems w vn g xs).cmask = h.cmask :=
  foldl_keeps (fun h : Hart => h.cmask) _ (fun h k => by simp only []; split <;> rfl) _ h
@[simp] theorem Hart.setVelems_scope (h : Hart) (w vn g : Nat) (xs : List Nat) : (h.setVelems w vn g xs).scope = h.scope :=
  foldl_keeps (fun h : Hart => h.scope) _ (fun h k => by simp only []; split <;> rfl) _ h
@[simp] theorem Hart.setVelems_rng (h : Hart) (w vn g : Nat) (xs : List Nat) : (h.setVelems w vn g xs).rng = h.rng :=
  foldl_keeps (fun h : Hart => h.rng) _ (fun h k => by simp only []; split <;> rfl) _ h
@[simp] theorem Hart.setVelems_viq (h : Hart) (w vn g : Nat) (xs : List Nat) : (h.setVelems w vn g xs).viq = h.viq :=
  foldl_keeps (fun h : Hart => h.viq) _ (fun h k => by simp only []; split <;> rfl) _ h
@[simp] theorem Hart.setVelems_piq (h : Hart) (w vn g : Nat) (xs : List Nat) : (h.setVelems w vn g xs).piq = h.piq :=
  foldl_keeps (fun h : Hart => h.piq) _ (fun h k => by simp only []; split <;> rfl) _ h
@[simp] theorem Hart.setVelems_miq (h : Hart) (w vn g : Nat) (xs : List Nat) : (h.setVelems w vn g xs).miq = h.miq :=
  foldl_keeps (fun h : Hart => h.miq) _ (fun h k => by simp only []; split <;> rfl) _ h
@[simp] theorem Hart.setVelems_srq (h : Hart) (w vn g : Nat) (xs : List Nat) : (h.setVelems w vn g xs).srq = h.srq :=
  foldl_keeps (fun h : Hart => h.srq) _ (fun h k => by simp only []; split <;> rfl) _ h
@[simp] theorem Hart.setVelems_bq (h : Hart) (w vn g : Nat) (xs : List Nat) : (h.setVelems w vn g xs).bq = h.bq :=
  foldl_keeps (fun h : Hart => h.bq) _ (fun h k => by simp only []; split <;> rfl) _ h
@[simp] theorem Hart.setVelems_nextSeq (h : Hart) (w vn g : Nat) (xs : List Nat) : (h.setVelems w vn g xs).nextSeq = h.nextSeq :=
  foldl_keeps (fun h : Hart => h.nextSeq) _ (fun h k => by simp only []; split <;> rfl) _ h
@[simp] theorem Hart.setVelems_held (h : Hart) (w vn g : Nat) (xs : List Nat) : (h.setVelems w vn g xs).held = h.held :=
  foldl_keeps (fun h : Hart => h.held) _ (fun h k => by simp only []; split <;> rfl) _ h
@[simp] theorem Hart.setVelems_outer (h : Hart) (w vn g : Nat) (xs : List Nat) : (h.setVelems w vn g xs).outer = h.outer :=
  foldl_keeps (fun h : Hart => h.outer) _ (fun h k => by simp only []; split <;> rfl) _ h
@[simp] theorem Hart.setVelems_dbg (h : Hart) (w vn g : Nat) (xs : List Nat) : (h.setVelems w vn g xs).dbg = h.dbg :=
  foldl_keeps (fun h : Hart => h.dbg) _ (fun h k => by simp only []; split <;> rfl) _ h
@[simp] theorem Hart.setVelems_streams (h : Hart) (w vn g : Nat) (xs : List Nat) : (h.setVelems w vn g xs).streams = h.streams :=
  foldl_keeps (fun h : Hart => h.streams) _ (fun h k => by simp only []; split <;> rfl) _ h
@[simp] theorem Hart.setVelems_copies (h : Hart) (w vn g : Nat) (xs : List Nat) : (h.setVelems w vn g xs).copies = h.copies :=
  foldl_keeps (fun h : Hart => h.copies) _ (fun h k => by simp only []; split <;> rfl) _ h
@[simp] theorem Hart.setVelems_links (h : Hart) (w vn g : Nat) (xs : List Nat) : (h.setVelems w vn g xs).links = h.links :=
  foldl_keeps (fun h : Hart => h.links) _ (fun h k => by simp only []; split <;> rfl) _ h
@[simp] theorem Hart.setVelems_fnodes (h : Hart) (w vn g : Nat) (xs : List Nat) : (h.setVelems w vn g xs).fnodes = h.fnodes :=
  foldl_keeps (fun h : Hart => h.fnodes) _ (fun h k => by simp only []; split <;> rfl) _ h
@[simp] theorem Hart.setVelems_ftokens (h : Hart) (w vn g : Nat) (xs : List Nat) : (h.setVelems w vn g xs).ftokens = h.ftokens :=
  foldl_keeps (fun h : Hart => h.ftokens) _ (fun h k => by simp only []; split <;> rfl) _ h
@[simp] theorem Hart.setVelems_bell (h : Hart) (w vn g : Nat) (xs : List Nat) : (h.setVelems w vn g xs).bell = h.bell :=
  foldl_keeps (fun h : Hart => h.bell) _ (fun h k => by simp only []; split <;> rfl) _ h
@[simp] theorem Hart.setVelems_windows (h : Hart) (w vn g : Nat) (xs : List Nat) : (h.setVelems w vn g xs).windows = h.windows :=
  foldl_keeps (fun h : Hart => h.windows) _ (fun h k => by simp only []; split <;> rfl) _ h
@[simp] theorem Hart.setVelems_chain (h : Hart) (w vn g : Nat) (xs : List Nat) : (h.setVelems w vn g xs).chain = h.chain :=
  foldl_keeps (fun h : Hart => h.chain) _ (fun h k => by simp only []; split <;> rfl) _ h
@[simp] theorem Hart.setVelems_onodes (h : Hart) (w vn g : Nat) (xs : List Nat) : (h.setVelems w vn g xs).onodes = h.onodes :=
  foldl_keeps (fun h : Hart => h.onodes) _ (fun h k => by simp only []; split <;> rfl) _ h
@[simp] theorem Hart.setVelems_skip (h : Hart) (w vn g : Nat) (xs : List Nat) : (h.setVelems w vn g xs).skip = h.skip :=
  foldl_keeps (fun h : Hart => h.skip) _ (fun h k => by simp only []; split <;> rfl) _ h
@[simp] theorem Hart.setVelems_skipV (h : Hart) (w vn g : Nat) (xs : List Nat) : (h.setVelems w vn g xs).skipV = h.skipV :=
  foldl_keeps (fun h : Hart => h.skipV) _ (fun h k => by simp only []; split <;> rfl) _ h
@[simp] theorem Hart.setVelems_mreq (h : Hart) (w vn g : Nat) (xs : List Nat) : (h.setVelems w vn g xs).mreq = h.mreq :=
  foldl_keeps (fun h : Hart => h.mreq) _ (fun h k => by simp only []; split <;> rfl) _ h
@[simp] theorem Hart.setVelems_units (h : Hart) (w vn g : Nat) (xs : List Nat) : (h.setVelems w vn g xs).units = h.units :=
  foldl_keeps (fun h : Hart => h.units) _ (fun h k => by simp only []; split <;> rfl) _ h
@[simp] theorem Hart.setVelems_unitSince (h : Hart) (w vn g : Nat) (xs : List Nat) : (h.setVelems w vn g xs).unitSince = h.unitSince :=
  foldl_keeps (fun h : Hart => h.unitSince) _ (fun h k => by simp only []; split <;> rfl) _ h
@[simp] theorem Hart.setVelems_unitTarget (h : Hart) (w vn g : Nat) (xs : List Nat) : (h.setVelems w vn g xs).unitTarget = h.unitTarget :=
  foldl_keeps (fun h : Hart => h.unitTarget) _ (fun h k => by simp only []; split <;> rfl) _ h
@[simp] theorem Hart.setVelems_stallSince (h : Hart) (w vn g : Nat) (xs : List Nat) : (h.setVelems w vn g xs).stallSince = h.stallSince :=
  foldl_keeps (fun h : Hart => h.stallSince) _ (fun h k => by simp only []; split <;> rfl) _ h
@[simp] theorem Hart.setVelems_target (h : Hart) (w vn g : Nat) (xs : List Nat) : (h.setVelems w vn g xs).target = h.target :=
  foldl_keeps (fun h : Hart => h.target) _ (fun h k => by simp only []; split <;> rfl) _ h
@[simp] theorem Hart.setVelems_armed (h : Hart) (w vn g : Nat) (xs : List Nat) : (h.setVelems w vn g xs).armed = h.armed :=
  foldl_keeps (fun h : Hart => h.armed) _ (fun h k => by simp only []; split <;> rfl) _ h
@[simp] theorem Hart.setVelems_stepping (h : Hart) (w vn g : Nat) (xs : List Nat) : (h.setVelems w vn g xs).stepping = h.stepping :=
  foldl_keeps (fun h : Hart => h.stepping) _ (fun h k => by simp only []; split <;> rfl) _ h
@[simp] theorem Hart.setVelems_lateStores (h : Hart) (w vn g : Nat) (xs : List Nat) : (h.setVelems w vn g xs).lateStores = h.lateStores :=
  foldl_keeps (fun h : Hart => h.lateStores) _ (fun h k => by simp only []; split <;> rfl) _ h
@[simp] theorem Hart.setVelems_late (h : Hart) (w vn g : Nat) (xs : List Nat) : (h.setVelems w vn g xs).late = h.late :=
  foldl_keeps (fun h : Hart => h.late) _ (fun h k => by simp only []; split <;> rfl) _ h
@[simp] theorem Hart.setVelems_unperformed (h : Hart) (w vn g : Nat) (xs : List Nat) : (h.setVelems w vn g xs).unperformed = h.unperformed :=
  foldl_keeps (fun h : Hart => h.unperformed) _ (fun h k => by simp only []; split <;> rfl) _ h
@[simp] theorem Hart.setVelems_leaving (h : Hart) (w vn g : Nat) (xs : List Nat) : (h.setVelems w vn g xs).leaving = h.leaving :=
  foldl_keeps (fun h : Hart => h.leaving) _ (fun h k => by simp only []; split <;> rfl) _ h
@[simp] theorem Hart.setVelems_unitsDue (h : Hart) (w vn g : Nat) (xs : List Nat) : (h.setVelems w vn g xs).unitsDue = h.unitsDue :=
  foldl_keeps (fun h : Hart => h.unitsDue) _ (fun h k => by simp only []; split <;> rfl) _ h
@[simp] theorem Hart.setVelems_gateWait (h : Hart) (w vn g : Nat) (xs : List Nat) : (h.setVelems w vn g xs).gateWait = h.gateWait :=
  foldl_keeps (fun h : Hart => h.gateWait) _ (fun h k => by simp only []; split <;> rfl) _ h
@[simp] theorem Hart.setVelems_wdogOwed (h : Hart) (w vn g : Nat) (xs : List Nat) : (h.setVelems w vn g xs).wdogOwed = h.wdogOwed :=
  foldl_keeps (fun h : Hart => h.wdogOwed) _ (fun h k => by simp only []; split <;> rfl) _ h
@[simp] theorem Hart.setVelems_fn (h : Hart) (w vn g : Nat) (xs : List Nat) : (h.setVelems w vn g xs).fn = h.fn :=
  foldl_keeps (fun h : Hart => h.fn) _ (fun h k => by simp only []; split <;> rfl) _ h
@[simp] theorem Hart.setVelems_seq (h : Hart) (w vn g : Nat) (xs : List Nat) : (h.setVelems w vn g xs).seq = h.seq :=
  foldl_keeps (fun h : Hart => h.seq) _ (fun h k => by simp only []; split <;> rfl) _ h
@[simp] theorem Hart.setVelems_index (h : Hart) (w vn g : Nat) (xs : List Nat) : (h.setVelems w vn g xs).index = h.index :=
  foldl_keeps (fun h : Hart => h.index) _ (fun h k => by simp only []; split <;> rfl) _ h
@[simp] theorem Hart.setVelems_handler (h : Hart) (w vn g : Nat) (xs : List Nat) : (h.setVelems w vn g xs).handler = h.handler :=
  foldl_keeps (fun h : Hart => h.handler) _ (fun h k => by simp only []; split <;> rfl) _ h
@[simp] theorem Hart.setVelems_recordFn (h : Hart) (w vn g : Nat) (xs : List Nat) : (h.setVelems w vn g xs).recordFn = h.recordFn :=
  foldl_keeps (fun h : Hart => h.recordFn) _ (fun h k => by simp only []; split <;> rfl) _ h
@[simp] theorem Hart.setMbits_run (h : Hart) (mn k : Nat) (xs : List Bool) : (h.setMbits mn k xs).run = h.run :=
  foldl_keeps (fun h : Hart => h.run) _ (fun h k => by simp only []; split <;> rfl) _ h
@[simp] theorem Hart.setMbits_asReturn (h : Hart) (mn k : Nat) (xs : List Bool) : (h.setMbits mn k xs).asReturn = h.asReturn :=
  foldl_keeps (fun h : Hart => h.asReturn) _ (fun h k => by simp only []; split <;> rfl) _ h
@[simp] theorem Hart.setMbits_s (h : Hart) (mn k : Nat) (xs : List Bool) : (h.setMbits mn k xs).s = h.s :=
  foldl_keeps (fun h : Hart => h.s) _ (fun h k => by simp only []; split <;> rfl) _ h
@[simp] theorem Hart.setMbits_f (h : Hart) (mn k : Nat) (xs : List Bool) : (h.setMbits mn k xs).f = h.f :=
  foldl_keeps (fun h : Hart => h.f) _ (fun h k => by simp only []; split <;> rfl) _ h
@[simp] theorem Hart.setMbits_v (h : Hart) (mn k : Nat) (xs : List Bool) : (h.setMbits mn k xs).v = h.v :=
  foldl_keeps (fun h : Hart => h.v) _ (fun h k => by simp only []; split <;> rfl) _ h
@[simp] theorem Hart.setMbits_c (h : Hart) (mn k : Nat) (xs : List Bool) : (h.setMbits mn k xs).c = h.c :=
  foldl_keeps (fun h : Hart => h.c) _ (fun h k => by simp only []; split <;> rfl) _ h
@[simp] theorem Hart.setMbits_vLive (h : Hart) (mn k : Nat) (xs : List Bool) : (h.setMbits mn k xs).vLive = h.vLive :=
  foldl_keeps (fun h : Hart => h.vLive) _ (fun h k => by simp only []; split <;> rfl) _ h
@[simp] theorem Hart.setMbits_cLive (h : Hart) (mn k : Nat) (xs : List Bool) : (h.setMbits mn k xs).cLive = h.cLive :=
  foldl_keeps (fun h : Hart => h.cLive) _ (fun h k => by simp only []; split <;> rfl) _ h
@[simp] theorem Hart.setMbits_pc (h : Hart) (mn k : Nat) (xs : List Bool) : (h.setMbits mn k xs).pc = h.pc :=
  foldl_keeps (fun h : Hart => h.pc) _ (fun h k => by simp only []; split <;> rfl) _ h
@[simp] theorem Hart.setMbits_ld (h : Hart) (mn k : Nat) (xs : List Bool) : (h.setMbits mn k xs).ld = h.ld :=
  foldl_keeps (fun h : Hart => h.ld) _ (fun h k => by simp only []; split <;> rfl) _ h
@[simp] theorem Hart.setMbits_status (h : Hart) (mn k : Nat) (xs : List Bool) : (h.setMbits mn k xs).status = h.status :=
  foldl_keeps (fun h : Hart => h.status) _ (fun h k => by simp only []; split <;> rfl) _ h
@[simp] theorem Hart.setMbits_cause (h : Hart) (mn k : Nat) (xs : List Bool) : (h.setMbits mn k xs).cause = h.cause :=
  foldl_keeps (fun h : Hart => h.cause) _ (fun h k => by simp only []; split <;> rfl) _ h
@[simp] theorem Hart.setMbits_epc (h : Hart) (mn k : Nat) (xs : List Bool) : (h.setMbits mn k xs).epc = h.epc :=
  foldl_keeps (fun h : Hart => h.epc) _ (fun h k => by simp only []; split <;> rfl) _ h
@[simp] theorem Hart.setMbits_ei (h : Hart) (mn k : Nat) (xs : List Bool) : (h.setMbits mn k xs).ei = h.ei :=
  foldl_keeps (fun h : Hart => h.ei) _ (fun h k => by simp only []; split <;> rfl) _ h
@[simp] theorem Hart.setMbits_faddr (h : Hart) (mn k : Nat) (xs : List Bool) : (h.setMbits mn k xs).faddr = h.faddr :=
  foldl_keeps (fun h : Hart => h.faddr) _ (fun h k => by simp only []; split <;> rfl) _ h
@[simp] theorem Hart.setMbits_et (h : Hart) (mn k : Nat) (xs : List Bool) : (h.setMbits mn k xs).et = h.et :=
  foldl_keeps (fun h : Hart => h.et) _ (fun h k => by simp only []; split <;> rfl) _ h
@[simp] theorem Hart.setMbits_vl (h : Hart) (mn k : Nat) (xs : List Bool) : (h.setMbits mn k xs).vl = h.vl :=
  foldl_keeps (fun h : Hart => h.vl) _ (fun h k => by simp only []; split <;> rfl) _ h
@[simp] theorem Hart.setMbits_grant (h : Hart) (mn k : Nat) (xs : List Bool) : (h.setMbits mn k xs).grant = h.grant :=
  foldl_keeps (fun h : Hart => h.grant) _ (fun h k => by simp only []; split <;> rfl) _ h
@[simp] theorem Hart.setMbits_lease (h : Hart) (mn k : Nat) (xs : List Bool) : (h.setMbits mn k xs).lease = h.lease :=
  foldl_keeps (fun h : Hart => h.lease) _ (fun h k => by simp only []; split <;> rfl) _ h
@[simp] theorem Hart.setMbits_vstat (h : Hart) (mn k : Nat) (xs : List Bool) : (h.setMbits mn k xs).vstat = h.vstat :=
  foldl_keeps (fun h : Hart => h.vstat) _ (fun h k => by simp only []; split <;> rfl) _ h
@[simp] theorem Hart.setMbits_ffmask (h : Hart) (mn k : Nat) (xs : List Bool) : (h.setMbits mn k xs).ffmask = h.ffmask :=
  foldl_keeps (fun h : Hart => h.ffmask) _ (fun h k => by simp only []; split <;> rfl) _ h
@[simp] theorem Hart.setMbits_cmask (h : Hart) (mn k : Nat) (xs : List Bool) : (h.setMbits mn k xs).cmask = h.cmask :=
  foldl_keeps (fun h : Hart => h.cmask) _ (fun h k => by simp only []; split <;> rfl) _ h
@[simp] theorem Hart.setMbits_scope (h : Hart) (mn k : Nat) (xs : List Bool) : (h.setMbits mn k xs).scope = h.scope :=
  foldl_keeps (fun h : Hart => h.scope) _ (fun h k => by simp only []; split <;> rfl) _ h
@[simp] theorem Hart.setMbits_rng (h : Hart) (mn k : Nat) (xs : List Bool) : (h.setMbits mn k xs).rng = h.rng :=
  foldl_keeps (fun h : Hart => h.rng) _ (fun h k => by simp only []; split <;> rfl) _ h
@[simp] theorem Hart.setMbits_viq (h : Hart) (mn k : Nat) (xs : List Bool) : (h.setMbits mn k xs).viq = h.viq :=
  foldl_keeps (fun h : Hart => h.viq) _ (fun h k => by simp only []; split <;> rfl) _ h
@[simp] theorem Hart.setMbits_piq (h : Hart) (mn k : Nat) (xs : List Bool) : (h.setMbits mn k xs).piq = h.piq :=
  foldl_keeps (fun h : Hart => h.piq) _ (fun h k => by simp only []; split <;> rfl) _ h
@[simp] theorem Hart.setMbits_miq (h : Hart) (mn k : Nat) (xs : List Bool) : (h.setMbits mn k xs).miq = h.miq :=
  foldl_keeps (fun h : Hart => h.miq) _ (fun h k => by simp only []; split <;> rfl) _ h
@[simp] theorem Hart.setMbits_srq (h : Hart) (mn k : Nat) (xs : List Bool) : (h.setMbits mn k xs).srq = h.srq :=
  foldl_keeps (fun h : Hart => h.srq) _ (fun h k => by simp only []; split <;> rfl) _ h
@[simp] theorem Hart.setMbits_bq (h : Hart) (mn k : Nat) (xs : List Bool) : (h.setMbits mn k xs).bq = h.bq :=
  foldl_keeps (fun h : Hart => h.bq) _ (fun h k => by simp only []; split <;> rfl) _ h
@[simp] theorem Hart.setMbits_nextSeq (h : Hart) (mn k : Nat) (xs : List Bool) : (h.setMbits mn k xs).nextSeq = h.nextSeq :=
  foldl_keeps (fun h : Hart => h.nextSeq) _ (fun h k => by simp only []; split <;> rfl) _ h
@[simp] theorem Hart.setMbits_held (h : Hart) (mn k : Nat) (xs : List Bool) : (h.setMbits mn k xs).held = h.held :=
  foldl_keeps (fun h : Hart => h.held) _ (fun h k => by simp only []; split <;> rfl) _ h
@[simp] theorem Hart.setMbits_outer (h : Hart) (mn k : Nat) (xs : List Bool) : (h.setMbits mn k xs).outer = h.outer :=
  foldl_keeps (fun h : Hart => h.outer) _ (fun h k => by simp only []; split <;> rfl) _ h
@[simp] theorem Hart.setMbits_dbg (h : Hart) (mn k : Nat) (xs : List Bool) : (h.setMbits mn k xs).dbg = h.dbg :=
  foldl_keeps (fun h : Hart => h.dbg) _ (fun h k => by simp only []; split <;> rfl) _ h
@[simp] theorem Hart.setMbits_streams (h : Hart) (mn k : Nat) (xs : List Bool) : (h.setMbits mn k xs).streams = h.streams :=
  foldl_keeps (fun h : Hart => h.streams) _ (fun h k => by simp only []; split <;> rfl) _ h
@[simp] theorem Hart.setMbits_copies (h : Hart) (mn k : Nat) (xs : List Bool) : (h.setMbits mn k xs).copies = h.copies :=
  foldl_keeps (fun h : Hart => h.copies) _ (fun h k => by simp only []; split <;> rfl) _ h
@[simp] theorem Hart.setMbits_links (h : Hart) (mn k : Nat) (xs : List Bool) : (h.setMbits mn k xs).links = h.links :=
  foldl_keeps (fun h : Hart => h.links) _ (fun h k => by simp only []; split <;> rfl) _ h
@[simp] theorem Hart.setMbits_fnodes (h : Hart) (mn k : Nat) (xs : List Bool) : (h.setMbits mn k xs).fnodes = h.fnodes :=
  foldl_keeps (fun h : Hart => h.fnodes) _ (fun h k => by simp only []; split <;> rfl) _ h
@[simp] theorem Hart.setMbits_ftokens (h : Hart) (mn k : Nat) (xs : List Bool) : (h.setMbits mn k xs).ftokens = h.ftokens :=
  foldl_keeps (fun h : Hart => h.ftokens) _ (fun h k => by simp only []; split <;> rfl) _ h
@[simp] theorem Hart.setMbits_bell (h : Hart) (mn k : Nat) (xs : List Bool) : (h.setMbits mn k xs).bell = h.bell :=
  foldl_keeps (fun h : Hart => h.bell) _ (fun h k => by simp only []; split <;> rfl) _ h
@[simp] theorem Hart.setMbits_windows (h : Hart) (mn k : Nat) (xs : List Bool) : (h.setMbits mn k xs).windows = h.windows :=
  foldl_keeps (fun h : Hart => h.windows) _ (fun h k => by simp only []; split <;> rfl) _ h
@[simp] theorem Hart.setMbits_chain (h : Hart) (mn k : Nat) (xs : List Bool) : (h.setMbits mn k xs).chain = h.chain :=
  foldl_keeps (fun h : Hart => h.chain) _ (fun h k => by simp only []; split <;> rfl) _ h
@[simp] theorem Hart.setMbits_onodes (h : Hart) (mn k : Nat) (xs : List Bool) : (h.setMbits mn k xs).onodes = h.onodes :=
  foldl_keeps (fun h : Hart => h.onodes) _ (fun h k => by simp only []; split <;> rfl) _ h
@[simp] theorem Hart.setMbits_skip (h : Hart) (mn k : Nat) (xs : List Bool) : (h.setMbits mn k xs).skip = h.skip :=
  foldl_keeps (fun h : Hart => h.skip) _ (fun h k => by simp only []; split <;> rfl) _ h
@[simp] theorem Hart.setMbits_skipV (h : Hart) (mn k : Nat) (xs : List Bool) : (h.setMbits mn k xs).skipV = h.skipV :=
  foldl_keeps (fun h : Hart => h.skipV) _ (fun h k => by simp only []; split <;> rfl) _ h
@[simp] theorem Hart.setMbits_mreq (h : Hart) (mn k : Nat) (xs : List Bool) : (h.setMbits mn k xs).mreq = h.mreq :=
  foldl_keeps (fun h : Hart => h.mreq) _ (fun h k => by simp only []; split <;> rfl) _ h
@[simp] theorem Hart.setMbits_units (h : Hart) (mn k : Nat) (xs : List Bool) : (h.setMbits mn k xs).units = h.units :=
  foldl_keeps (fun h : Hart => h.units) _ (fun h k => by simp only []; split <;> rfl) _ h
@[simp] theorem Hart.setMbits_unitSince (h : Hart) (mn k : Nat) (xs : List Bool) : (h.setMbits mn k xs).unitSince = h.unitSince :=
  foldl_keeps (fun h : Hart => h.unitSince) _ (fun h k => by simp only []; split <;> rfl) _ h
@[simp] theorem Hart.setMbits_unitTarget (h : Hart) (mn k : Nat) (xs : List Bool) : (h.setMbits mn k xs).unitTarget = h.unitTarget :=
  foldl_keeps (fun h : Hart => h.unitTarget) _ (fun h k => by simp only []; split <;> rfl) _ h
@[simp] theorem Hart.setMbits_stallSince (h : Hart) (mn k : Nat) (xs : List Bool) : (h.setMbits mn k xs).stallSince = h.stallSince :=
  foldl_keeps (fun h : Hart => h.stallSince) _ (fun h k => by simp only []; split <;> rfl) _ h
@[simp] theorem Hart.setMbits_target (h : Hart) (mn k : Nat) (xs : List Bool) : (h.setMbits mn k xs).target = h.target :=
  foldl_keeps (fun h : Hart => h.target) _ (fun h k => by simp only []; split <;> rfl) _ h
@[simp] theorem Hart.setMbits_armed (h : Hart) (mn k : Nat) (xs : List Bool) : (h.setMbits mn k xs).armed = h.armed :=
  foldl_keeps (fun h : Hart => h.armed) _ (fun h k => by simp only []; split <;> rfl) _ h
@[simp] theorem Hart.setMbits_stepping (h : Hart) (mn k : Nat) (xs : List Bool) : (h.setMbits mn k xs).stepping = h.stepping :=
  foldl_keeps (fun h : Hart => h.stepping) _ (fun h k => by simp only []; split <;> rfl) _ h
@[simp] theorem Hart.setMbits_lateStores (h : Hart) (mn k : Nat) (xs : List Bool) : (h.setMbits mn k xs).lateStores = h.lateStores :=
  foldl_keeps (fun h : Hart => h.lateStores) _ (fun h k => by simp only []; split <;> rfl) _ h
@[simp] theorem Hart.setMbits_late (h : Hart) (mn k : Nat) (xs : List Bool) : (h.setMbits mn k xs).late = h.late :=
  foldl_keeps (fun h : Hart => h.late) _ (fun h k => by simp only []; split <;> rfl) _ h
@[simp] theorem Hart.setMbits_unperformed (h : Hart) (mn k : Nat) (xs : List Bool) : (h.setMbits mn k xs).unperformed = h.unperformed :=
  foldl_keeps (fun h : Hart => h.unperformed) _ (fun h k => by simp only []; split <;> rfl) _ h
@[simp] theorem Hart.setMbits_leaving (h : Hart) (mn k : Nat) (xs : List Bool) : (h.setMbits mn k xs).leaving = h.leaving :=
  foldl_keeps (fun h : Hart => h.leaving) _ (fun h k => by simp only []; split <;> rfl) _ h
@[simp] theorem Hart.setMbits_unitsDue (h : Hart) (mn k : Nat) (xs : List Bool) : (h.setMbits mn k xs).unitsDue = h.unitsDue :=
  foldl_keeps (fun h : Hart => h.unitsDue) _ (fun h k => by simp only []; split <;> rfl) _ h
@[simp] theorem Hart.setMbits_gateWait (h : Hart) (mn k : Nat) (xs : List Bool) : (h.setMbits mn k xs).gateWait = h.gateWait :=
  foldl_keeps (fun h : Hart => h.gateWait) _ (fun h k => by simp only []; split <;> rfl) _ h
@[simp] theorem Hart.setMbits_wdogOwed (h : Hart) (mn k : Nat) (xs : List Bool) : (h.setMbits mn k xs).wdogOwed = h.wdogOwed :=
  foldl_keeps (fun h : Hart => h.wdogOwed) _ (fun h k => by simp only []; split <;> rfl) _ h
@[simp] theorem Hart.setMbits_fn (h : Hart) (mn k : Nat) (xs : List Bool) : (h.setMbits mn k xs).fn = h.fn :=
  foldl_keeps (fun h : Hart => h.fn) _ (fun h k => by simp only []; split <;> rfl) _ h
@[simp] theorem Hart.setMbits_seq (h : Hart) (mn k : Nat) (xs : List Bool) : (h.setMbits mn k xs).seq = h.seq :=
  foldl_keeps (fun h : Hart => h.seq) _ (fun h k => by simp only []; split <;> rfl) _ h
@[simp] theorem Hart.setMbits_index (h : Hart) (mn k : Nat) (xs : List Bool) : (h.setMbits mn k xs).index = h.index :=
  foldl_keeps (fun h : Hart => h.index) _ (fun h k => by simp only []; split <;> rfl) _ h
@[simp] theorem Hart.setMbits_handler (h : Hart) (mn k : Nat) (xs : List Bool) : (h.setMbits mn k xs).handler = h.handler :=
  foldl_keeps (fun h : Hart => h.handler) _ (fun h k => by simp only []; split <;> rfl) _ h
@[simp] theorem Hart.setMbits_recordFn (h : Hart) (mn k : Nat) (xs : List Bool) : (h.setMbits mn k xs).recordFn = h.recordFn :=
  foldl_keeps (fun h : Hart => h.recordFn) _ (fun h k => by simp only []; split <;> rfl) _ h

end Sys2Proof.Machine
end

