-- ==== Sys2Proof/Laws/Memory.lean ====
section
/-!
SUPPORT. Memory keeps its canonical form, a byte read after a write is the byte written there and the old byte elsewhere, and
what the accesses over it do.
-/

namespace Sys2Proof.Machine

/-! ### One byte -/

theorem Memory.read_of_above (m : Memory) (a : Nat) (h : ∀ c ∈ m, a < c.1) : Memory.read m a = 0 := by
  induction m with
  | nil => rfl
  | cons c m ih =>
    obtain ⟨k, b⟩ := c
    have hk : a < k := h _ (List.mem_cons_self ..)
    simp only [Memory.read, show k ≠ a by omega, if_false]
    exact ih fun c hc => h c (List.mem_cons_of_mem _ hc)

theorem Memory.mem_write (m : Memory) (a : Nat) (b : Byte) (c : Host.Cell) (hc : c ∈ Memory.write m a b) :
    (c.1 = a ∧ c.2 = b ∧ b ≠ 0) ∨ c ∈ m := by
  induction m with
  | nil =>
    simp only [Memory.write] at hc
    split at hc <;> simp_all
  | cons d m ih =>
    obtain ⟨k, e⟩ := d
    simp only [Memory.write] at hc
    split at hc
    · split at hc
      · exact .inr hc
      · rcases List.mem_cons.1 hc with rfl | hc <;> [simp_all; exact .inr hc]
    · split at hc
      · split at hc
        · exact .inr (List.mem_cons_of_mem _ hc)
        · rcases List.mem_cons.1 hc with rfl | hc <;> [simp_all; exact .inr (List.mem_cons_of_mem _ hc)]
      · rcases List.mem_cons.1 hc with rfl | hc
        · exact .inr (List.mem_cons_self ..)
        · exact (ih hc).imp id (List.mem_cons_of_mem _)

/-- A write keeps the canonical form. -/
theorem Memory.write_wf (m : Memory) (a : Nat) (b : Byte) (h : Memory.wf m) : Memory.wf (Memory.write m a b) := by
  refine ⟨?_, fun c hc => ?_⟩
  · obtain ⟨h, -⟩ := h
    induction m with
    | nil => simp only [Memory.write]; split <;> simp
    | cons d m ih =>
      obtain ⟨k, e⟩ := d
      obtain ⟨hk, hm⟩ := List.pairwise_cons.1 h
      simp only [Memory.write]
      split
      · rename_i hak
        split
        · exact h
        · refine List.pairwise_cons.2 ⟨fun c hc => ?_, h⟩
          rcases List.mem_cons.1 hc with rfl | hc
          · exact hak
          · exact Nat.lt_trans hak (hk c hc)
      · split
        · rename_i hak _
          split
          · exact hm
          · exact List.pairwise_cons.2 ⟨fun c hc => by simpa [‹a = k›] using hk c hc, hm⟩
        · refine List.pairwise_cons.2 ⟨fun c hc => ?_, ih hm⟩
          rcases Memory.mem_write _ _ _ _ hc with ⟨h1, -, -⟩ | hc
          · simp only; omega
          · exact hk c hc
  · rcases Memory.mem_write _ _ _ _ hc with ⟨-, h2, h3⟩ | hc
    · exact h2 ▸ h3
    · exact h.2 c hc

/-- A byte after a write: the byte written at its own place, the old byte elsewhere. -/
theorem Memory.read_write (m : Memory) (a : Nat) (b : Byte) (h : Memory.wf m) (x : Nat) :
    Memory.read (Memory.write m a b) x = if x = a then b else Memory.read m x := by
  obtain ⟨h, -⟩ := h
  induction m with
  | nil =>
    simp only [Memory.write]
    split
    · simp [Memory.read, *]
    · simp only [Memory.read, eq_comm (a := x)]
  | cons d m ih =>
    obtain ⟨k, e⟩ := d
    obtain ⟨hk, hm⟩ := List.pairwise_cons.1 h
    have above : ∀ y, y ≤ k → y ≠ k → Memory.read ((k, e) :: m) y = 0 := fun y hy hne =>
      Memory.read_of_above _ _ fun c hc => by
        rcases List.mem_cons.1 hc with rfl | hc
        · simp only; omega
        · have := hk c hc; simp only at this; omega
    simp only [Memory.write]
    split
    · rename_i hak
      split
      · split
        · subst x; rw [above a (by omega) (by omega)]; exact Eq.symm ‹_›
        · rfl
      · simp only [Memory.read, eq_comm (a := x)]
    · split
      · subst a
        split
        · split
          · subst x
            rw [Memory.read_of_above m k hk]; exact Eq.symm ‹_›
          · simp [Memory.read, Ne.symm ‹¬x = k›]
        · simp only [Memory.read, eq_comm (a := x)]
          split <;> simp_all
      · simp only [Memory.read]
        split
        · subst x; simp [show k ≠ a by omega]
        · exact ih hm

/-! ### Bytes of the package -/

@[simp] theorem State.setByte_mem (s : State) (a : Nat) (b : Byte) : (s.setByte a b).mem = Memory.write s.mem a b := rfl

theorem State.setByte_wf (s : State) (a : Nat) (b : Byte) (h : Memory.wf s.mem) : Memory.wf (s.setByte a b).mem :=
  Memory.write_wf _ _ _ h

/-- A fold of writes keeps the canonical form. -/
theorem setBytes_wf (p : Nat × Byte → Bool) (cells : List (Nat × Byte)) (s : State) (h : Memory.wf s.mem) :
    Memory.wf (cells.foldl (fun t c => if p c then t else t.setByte c.1 c.2) s).mem := by
  induction cells generalizing s with
  | nil => exact h
  | cons c cs ih => rw [List.foldl_cons]; refine ih _ ?_; split <;> [exact h; exact State.setByte_wf _ _ _ h]

/-- A fold of writes changes memory alone. -/
theorem setBytes_only (p : Nat × Byte → Bool) (cells : List (Nat × Byte)) (s : State) :
    cells.foldl (fun t c => if p c then t else t.setByte c.1 c.2) s =
      { s with mem := (cells.foldl (fun t c => if p c then t else t.setByte c.1 c.2) s).mem } := by
  induction cells generalizing s with
  | nil => rfl
  | cons c cs ih =>
    rw [List.foldl_cons, ih]
    split <;> rfl

/-- Every byte outside the places written reads as before. -/
theorem setBytes_outside (cells : List (Nat × Byte)) (s : State) (h : Memory.wf s.mem) (a : Nat) (ha : a ∉ cells.map Prod.fst) :
    Memory.read (cells.foldl (fun s c => s.setByte c.1 c.2) s).mem a = Memory.read s.mem a := by
  induction cells generalizing s with
  | nil => rfl
  | cons c cs ih =>
    rw [List.foldl_cons, ih _ (State.setByte_wf _ _ _ h) fun hm => ha (List.mem_cons_of_mem _ hm), State.setByte_mem,
      Memory.read_write _ _ _ h]
    exact if_neg fun e => ha (by simp [e])

/-- At places that differ from each other the bytes written read back. -/
theorem setBytes_inside (cells : List (Nat × Byte)) (s : State) (h : Memory.wf s.mem) (hn : (cells.map Prod.fst).Nodup)
    (c : Nat × Byte) (hc : c ∈ cells) : Memory.read (cells.foldl (fun s c => s.setByte c.1 c.2) s).mem c.1 = c.2 := by
  induction cells generalizing s with
  | nil => cases hc
  | cons d cs ih =>
    obtain ⟨hd, hn⟩ := List.nodup_cons.1 hn
    rw [List.foldl_cons]
    rcases List.mem_cons.1 hc with rfl | hc
    · rw [setBytes_outside _ _ (State.setByte_wf _ _ _ h) _ hd, State.setByte_mem, Memory.read_write _ _ _ h, if_pos rfl]
    · exact ih _ (State.setByte_wf _ _ _ h) hn hc

/-- What a write of some places can change: memory, and where a granule is bad also the errors, their count, the records, the
fences, whether the package is stopped and the stores that the work in hand keeps. -/
theorem State.writeLocs_only (s : State) (fn : BitVec 8) (addr : Word) (cells : List (Nat × Byte)) :
    ∃ m e c r f z k, s.writeLocs fn addr cells =
      { s with mem := m, ecc := e, counters := c, records := r, fenced := f, stopped := z, work := k } := by
  have h0 : ∀ q : Nat × Byte → Bool, ∃ m, cells.foldl (fun t c => if q c then t else t.setByte c.1 c.2) s = { s with mem := m } :=
    fun q => ⟨_, setBytes_only q cells s⟩
  unfold State.writeLocs
  dsimp only []
  split
  · obtain ⟨m, h⟩ := h0 fun _ => false
    simp only [Bool.false_eq_true, if_false] at h
    exact ⟨m, s.ecc, s.counters, s.records, s.fenced, s.stopped, s.work, h⟩
  · split
    · rw [setBytes_only]
      exact ⟨_, _, _, _, _, _, _, rfl⟩
    · rw [setBytes_only]
      split
      · unfold State.eccRecord
        split <;> exact ⟨_, _, _, _, _, _, _, rfl⟩
      · exact ⟨_, _, _, _, _, _, _, rfl⟩

theorem State.writeLocs_wf (s : State) (fn : BitVec 8) (addr : Word) (cells : List (Nat × Byte)) (h : Memory.wf s.mem) :
    Memory.wf (s.writeLocs fn addr cells).mem := by
  unfold State.writeLocs
  dsimp only []
  split
  · simpa using setBytes_wf (fun _ => false) cells s h
  · split
    · exact setBytes_wf _ cells s h
    · split
      · unfold State.eccRecord
        split <;> exact setBytes_wf _ cells s h
      · exact setBytes_wf _ cells s h

/-- Where no granule is bad, a write of some places is the fold of its bytes. -/
theorem State.writeLocs_good (s : State) (fn : BitVec 8) (addr : Word) (cells : List (Nat × Byte))
    (h : ∀ c ∈ cells, s.badAt c.1 = false) : s.writeLocs fn addr cells = cells.foldl (fun s c => s.setByte c.1 c.2) s := by
  have : cells.filter (fun c => s.badAt c.1) = [] := List.filter_eq_nil_iff.2 fun c hc => by simp [h c hc]
  simp [State.writeLocs, this]

/-- Reading places without a bad granule answers their bytes and changes nothing. -/
theorem readLocs_good (s : State) (locs : List Nat) (addr : Word) (h : ∀ l ∈ locs, s.badAt l = false) :
    readLocs locs addr s = .ok (locs.map (Memory.read s.mem)) s := by
  have : locs.find? s.badAt = none := List.find?_eq_none.2 fun l hl => by simp [h l hl]
  simp [readLocs, this]

theorem toBytes_length (n x : Nat) : (toBytes n x).length = n := by
  induction n generalizing x with
  | zero => rfl
  | succ n ih => simp [toBytes, ih]

theorem toBytes_getElem (n x k : Nat) (h : k < (toBytes n x).length) : (toBytes n x)[k] = BitVec.ofNat 8 (x / 256 ^ k) := by
  induction n generalizing x k with
  | zero => simp [toBytes] at h
  | succ n ih =>
    cases k with
    | zero => simp [toBytes]
    | succ k => simp only [toBytes, List.getElem_cons_succ]; rw [ih, Nat.div_div_eq_div_mul, Nat.pow_succ']

end Sys2Proof.Machine
end

