-- ==== Sys2Proof/Laws/Access.lean ====
section
/-!
SUPPORT. What an access can change: memory, the cached translations and, where it meets an uncorrectable error, the errors, their
count, the records, the fences and whether the package is stopped; memory keeps its canonical form.
-/

namespace Sys2Proof.Machine

/-- From `s` to `t` only what an access can change has changed, and memory keeps its canonical form: of the harts, that a request
of the one that moves is to fail, when one is. -/
def AccessOnly (s t : State) : Prop :=
  (Memory.wf s.mem → Memory.wf t.mem) ∧
  ∃ m l e c r f z k a, t = { s with mem := m, tlb := l, ecc := e, counters := c, records := r, fenced := f, stopped := z, work := k,
                                    harts := s.harts.set s.cur { s.harts[s.cur] with late := a } } ∧
    (s.harts[s.cur].late = none → a = none)

/-- What leaves the harts alone. -/
theorem AccessOnly.of {s t : State} (h : Memory.wf s.mem → Memory.wf t.mem)
    (k : ∃ m l e c r f z k, t = { s with mem := m, tlb := l, ecc := e, counters := c, records := r, fenced := f, stopped := z,
                                         work := k }) :
    AccessOnly s t := by
  obtain ⟨m, l, e, c, r, f, z, k, rfl⟩ := k
  refine ⟨h, m, l, e, c, r, f, z, k, s.harts[s.cur].late, ?_, id⟩
  have e : s.harts.set s.cur s.harts[s.cur] = s.harts := Vector.set_getElem_self _
  exact congrArg (fun v => ({ s with mem := m, tlb := l, ecc := _, counters := c, records := r, fenced := f, stopped := z,
                                     work := k, harts := v } : State)) e.symm

theorem AccessOnly.refl (s : State) : AccessOnly s s := .of id ⟨_, _, _, _, _, _, _, _, rfl⟩

theorem AccessOnly.trans {s t u : State} (h : AccessOnly s t) (k : AccessOnly t u) : AccessOnly s u := by
  obtain ⟨h1, m, l, e, c, r, f, z, w, a, rfl, ha⟩ := h
  obtain ⟨k1, m', l', e', c', r', f', z', w', a', rfl, ka⟩ := k
  refine ⟨k1 ∘ h1, m', l', e', c', r', f', z', w', a', ?_, fun x => ka ?_⟩
  · simp
  · simpa using ha x

theorem AccessOnly.cur {s t : State} (h : AccessOnly s t) : t.cur = s.cur := by
  obtain ⟨-, _, _, _, _, _, _, _, _, _, rfl, -⟩ := h; rfl

/-- Where no request is to fail, an access leaves the harts alone. -/
theorem AccessOnly.harts {s t : State} (h : AccessOnly s t) (k : s.harts[s.cur].late = none) : t.harts = s.harts := by
  obtain ⟨-, m, l, e, c, r, f, z, w, a, rfl, ha⟩ := h
  have : ({ s.harts[s.cur] with late := a } : Hart) = s.harts[s.cur] := by rw [ha k, ← k]
  simp only [this]
  exact Vector.set_getElem_self _

theorem AccessOnly.hart {s t : State} (h : AccessOnly s t) (k : s.hart.late = none) : t.hart = s.hart := by
  have e := h.harts k
  obtain ⟨-, m, l, _, c, r, f, z, w, a, rfl, -⟩ := h
  exact congrArg (fun v : Vector Hart 64 => v[s.cur]) e

/-- An access changes only what an access can change, whether it answers or faults. -/
structure AccessOk (a : Acc α) : Prop where
  /-- Whatever the access ends in. -/
  run : ∀ s, match a s with
    | .ok _ t => AccessOnly s t
    | .error _ t => AccessOnly s t

theorem AccessOk.of_ok {a : Acc α} (h : AccessOk a) {s t : State} {x : α} (k : a s = .ok x t) : AccessOnly s t := by
  have := h.run s; rw [k] at this; exact this

theorem AccessOk.of_error {a : Acc α} (h : AccessOk a) {s t : State} {e : Fail} (k : a s = .error e t) : AccessOnly s t := by
  have := h.run s; rw [k] at this; exact this

theorem AccessOk.pure (x : α) : AccessOk (pure x : Acc α) := ⟨fun s => AccessOnly.refl s⟩

theorem AccessOk.throw (e : Fail) : AccessOk (throw e : Acc α) := ⟨fun s => AccessOnly.refl s⟩

theorem AccessOk.get : AccessOk (get : Acc State) := ⟨fun s => AccessOnly.refl s⟩

theorem AccessOk.bind {a : Acc α} {f : α → Acc β} (h : AccessOk a) (k : ∀ x, AccessOk (f x)) : AccessOk (a >>= f) := by
  refine ⟨fun s => ?_⟩
  show match EStateM.bind a f s with | .ok _ t => AccessOnly s t | .error _ t => AccessOnly s t
  unfold EStateM.bind
  cases hs : a s with
  | ok x t =>
    have h1 := h.of_ok hs
    have h2 := (k x).run t
    simp only []
    split <;> simp_all only <;> exact h1.trans h2
  | error e t => exact h.of_error hs

theorem AccessOk.ite {a b : Acc α} {p : Prop} [Decidable p] (h : AccessOk a) (k : AccessOk b) :
    AccessOk (if p then a else b) := by split <;> assumption

theorem AccessOk.mapM {f : α → Acc β} (h : ∀ x, AccessOk (f x)) (xs : List α) : AccessOk (xs.mapM f) := by
  induction xs with
  | nil => exact AccessOk.pure _
  | cons x xs ih => rw [List.mapM_cons]; exact (h x).bind fun _ => ih.bind fun _ => AccessOk.pure _

theorem AccessOk.forM {f : α → Acc PUnit} (h : ∀ x, AccessOk (f x)) (xs : List α) : AccessOk (xs.forM f) := by
  induction xs with
  | nil => exact AccessOk.pure _
  | cons x xs ih => exact (h x).bind fun _ => ih

theorem AccessOnly.writeLocs (s : State) (fn : BitVec 8) (addr : Word) (cells : List (Nat × Byte)) :
    AccessOnly s (s.writeLocs fn addr cells) :=
  .of (s.writeLocs_wf fn addr cells)
    (by obtain ⟨m, e, c, r, f, z, k, h⟩ := s.writeLocs_only fn addr cells; exact ⟨m, _, e, c, r, f, z, k, h⟩)

theorem readLocs_ok (locs : List Nat) (addr : Word) : AccessOk (readLocs locs addr) := by
  refine ⟨fun s => ?_⟩
  unfold readLocs
  cases locs.find? s.badAt with
  | none => exact AccessOnly.refl s
  | some a => exact .of id ⟨_, _, _, _, _, _, _, _, rfl⟩

theorem readPte_ok (w : Agent) (a : Nat) (f : Fail) : AccessOk (readPte w a f) := by
  refine ⟨fun s => ?_⟩
  unfold readPte
  by_cases h : s.mapped { w with host := true } a
  · by_cases k : s.linkServes a
    · simp only [h, k, Bool.not_true, Bool.false_eq_true, if_false]
      have := (readLocs_ok (dwLocs a) f.addr).run s
      cases hs : readLocs (dwLocs a) f.addr s <;> simpa only [hs] using this
    · simp only [h, k, Bool.not_true, Bool.false_eq_true, if_false, Bool.not_false, if_true]; exact AccessOnly.refl s
  · simp only [h, Bool.not_false, if_true]; exact AccessOnly.refl s

theorem setAd_ok (fn : BitVec 8) (a : Nat) (e : Word) (acc : Access) : AccessOk (setAd fn a e acc) := by
  refine ⟨fun s => ?_⟩
  unfold setAd
  by_cases h : e &&& adBits acc = adBits acc
  · simp only [h, if_true]; exact AccessOnly.refl s
  · simp only [h, if_false]; exact AccessOnly.writeLocs ..

theorem walk2_ok (w : Agent) (acc : Access) (gpa : Nat) (f : Fail) (ls : List WalkLevel) (table : Nat) :
    AccessOk (walk2 w acc gpa f ls table) := by
  induction ls generalizing table with
  | nil => exact AccessOk.throw _
  | cons l rest ih =>
    refine (readPte_ok _ _ _).bind fun e => ?_
    refine AccessOk.ite (AccessOk.throw _) (AccessOk.ite (AccessOk.ite (AccessOk.throw _) ?_) (ih _))
    exact (setAd_ok _ _ _ _).bind fun _ => AccessOk.pure _

theorem stage2_ok (w : Agent) (acc : Access) (va : Word) (gpa : Nat) : AccessOk (stage2 w acc va gpa) := by
  refine AccessOk.get.bind fun s => ?_
  cases s.roots2[w.part.toNat]? with
  | none => exact AccessOk.throw _
  | some root => exact (walk2_ok ..).bind fun pa => AccessOk.get.bind fun s => AccessOk.ite (AccessOk.pure _) (AccessOk.throw _)

theorem tableLoc_ok (w : Agent) (acc : Access) (va : Word) (a : Nat) : AccessOk (tableLoc w acc va a) := by
  refine AccessOk.ite (AccessOk.get.bind fun s => AccessOk.ite (AccessOk.pure _) (AccessOk.throw _)) ?_
  exact (stage2_ok ..).bind fun _ => AccessOk.pure _

theorem walk1_ok (w : Agent) (acc : Access) (va : Word) (ls : List WalkLevel) (table : Nat) :
    AccessOk (walk1 w acc va ls table) := by
  induction ls generalizing table with
  | nil => exact AccessOk.throw _
  | cons l rest ih =>
    refine (tableLoc_ok ..).bind fun loc => (readPte_ok ..).bind fun e => ?_
    refine AccessOk.ite (AccessOk.throw _) (AccessOk.ite (AccessOk.ite (AccessOk.throw _) ?_) (ih _))
    refine AccessOk.get.bind fun s => AccessOk.ite (AccessOk.throw _) ?_
    refine AccessOk.ite ?_ (AccessOk.pure _)
    exact ((tableLoc_ok ..).bind fun _ => (setAd_ok ..).bind fun _ => AccessOk.pure _)

theorem AccessOk.tlb (f : State → List CachedPage) : AccessOk (modify fun s => { s with tlb := f s } : Acc PUnit) :=
  ⟨fun _ => AccessOnly.of id ⟨_, _, _, _, _, _, _, _, rfl⟩⟩

theorem stage2Kept_ok (w : Agent) (acc : Access) (va : Word) (gpa : Nat) : AccessOk (stage2Kept w acc va gpa) := by
  refine AccessOk.get.bind fun s => ?_
  cases s.work.bind fun k => k.pins.find? fun c => c.covers2 w gpa with
  | none => exact stage2_ok ..
  | some c =>
    have h : AccessOk (do
        let pa := c.loc + gpa - c.gpage * 0x2000
        let s ← get
        if s.mapped w pa then pure (pa, c.span2) else throw ⟨eHpage, va, word gpa⟩ : Acc (Nat × Nat)) :=
      AccessOk.get.bind fun s => AccessOk.ite (AccessOk.pure _) (AccessOk.throw _)
    exact AccessOk.ite ((stage2_ok ..).bind fun _ => h) h

theorem walkBoth_ok (w : Agent) (acc : Access) (va : Word) : AccessOk (walkBoth w acc va) := by
  refine AccessOk.get.bind fun s => (walk1_ok ..).bind fun ⟨t, e⟩ => ?_
  cases t with
  | tile => exact (AccessOk.pure _).bind fun _ => (AccessOk.tlb _).bind fun _ => AccessOk.pure _
  | phys gpa =>
    refine AccessOk.ite ?_ ((stage2Kept_ok ..).bind fun _ => (AccessOk.pure _).bind fun _ => (AccessOk.tlb _).bind fun _ => AccessOk.pure _)
    refine AccessOk.get.bind fun s => AccessOk.ite ?_ ((AccessOk.throw _).bind fun _ => ?_)
    · exact (AccessOk.pure _).bind fun _ => (AccessOk.tlb _).bind fun _ => AccessOk.pure _
    · exact (AccessOk.tlb _).bind fun _ => AccessOk.pure _

theorem target_ok (c : CachedPage) (w : Agent) (va : Word) : AccessOk (c.target w va) := by
  refine AccessOk.get.bind fun s => AccessOk.ite (AccessOk.ite (AccessOk.throw _) (AccessOk.pure _)) ?_
  exact AccessOk.ite (AccessOk.pure _) (AccessOk.throw _)

theorem translateNew_ok (w : Agent) (acc : Access) (va : Word) : AccessOk (translateNew w acc va) := by
  refine AccessOk.get.bind fun s => ?_
  split
  · exact walkBoth_ok ..
  · exact AccessOk.ite (target_ok ..) (walkBoth_ok ..)

theorem AccessOnly.pin (s : State) (c : CachedPage) : AccessOnly s (s.pin c) := by
  unfold State.pin
  split
  · exact AccessOnly.refl s
  · exact .of id ⟨_, _, _, _, _, _, _, _, rfl⟩

theorem pinPage_ok (w : Agent) (acc : Access) (va : Word) (c : Option CachedPage) : AccessOk (pinPage w acc va c) := by
  refine ⟨fun s => ?_⟩
  unfold pinPage
  cases s.tlb.find? fun d => d.serves w acc va.toNat with
  | none => exact AccessOnly.refl s
  | some d =>
    cases c with
    | none => exact AccessOnly.pin ..
    | some c =>
      have h : AccessOnly s { s with work := s.work.map fun k => { k with pins := k.pins.filter (· != c) } } :=
        .of id ⟨_, _, _, _, _, _, _, _, rfl⟩
      exact h.trans (AccessOnly.pin ..)

theorem AccessOk.pin (f : CachedPage) : AccessOk (modify (·.pin f) : Acc PUnit) := ⟨fun s => AccessOnly.pin s f⟩

theorem beside_ok (c : CachedPage) (w : Agent) (acc : Access) (va : Word) : AccessOk (c.beside w acc va) :=
  AccessOk.ite (AccessOk.pure _) (AccessOk.ite (AccessOk.pure _) ((stage2Kept_ok ..).bind fun _ => AccessOk.pure _))

theorem translate_ok (w : Agent) (acc : Access) (va : Word) : AccessOk (translate w acc va) := by
  refine AccessOk.ite (AccessOk.throw _) (AccessOk.get.bind fun s => ?_)
  split
  · exact translateNew_ok ..
  · split
    · split
      · exact (translateNew_ok ..).bind fun _ => (pinPage_ok ..).bind fun _ => AccessOk.pure _
      · next c _ =>
        have h : AccessOk (do
            let d ← c.beside w acc va
            modify (·.pin (d.shown acc))
            d.target w va : Acc Target) := (beside_ok ..).bind fun _ => (AccessOk.pin _).bind fun _ => target_ok ..
        exact AccessOk.ite ((translateNew_ok ..).bind fun _ => h) h
    · exact AccessOk.ite (target_ok ..)
        ((translateNew_ok ..).bind fun _ => (pinPage_ok ..).bind fun _ => target_ok ..)

/-- A request that is to fail fails once. -/
theorem lateAt_ok (w : Agent) (store : Bool) (locs : List Nat) (va : Word) (n : Nat) : AccessOk (lateAt w store locs va n) := by
  refine ⟨fun s => ?_⟩
  unfold lateAt
  cases h : s.harts[s.cur].late with
  | none => simp only [h]; exact AccessOnly.refl s
  | some p =>
    simp only [h]
    by_cases k : (w.core.isSome && w.task == some s.harts[s.cur].seq && decide ((p.1 - va).toNat < n) &&
        (if p.2 = eLink then locs.any isPeer else !store)) = true
    · simp only [k, if_true]; exact ⟨id, s.mem, s.tlb, s.ecc, s.counters, s.records, s.fenced, s.stopped, s.work, none, rfl, fun _ => rfl⟩
    · simp only [k]; exact AccessOnly.refl s

/-- Where no request is to fail, an access goes on. -/
theorem lateAt_none (w : Agent) (store : Bool) (locs : List Nat) (va : Word) (n : Nat) (s : State) (h : s.hart.late = none) :
    lateAt w store locs va n s = .ok () s := by
  simp only [lateAt, show s.harts[s.cur].late = none from h]

theorem locate_ok (w : Agent) (acc : Access) (va : Word) (n : Nat) : AccessOk (locate w acc va n) := by
  refine (translate_ok ..).bind fun t => ?_
  cases t with
  | phys pa => exact AccessOk.get.bind fun s => AccessOk.ite (AccessOk.pure _) (AccessOk.throw _)
  | tile =>
    refine AccessOk.get.bind fun s => AccessOk.mapM (fun i => ?_) _
    split
    · exact AccessOk.pure _
    · exact AccessOk.throw _

theorem loadElem_ok (w : Agent) (va : Word) (n : Nat) : AccessOk (loadElem w va n) :=
  (locate_ok ..).bind fun _ => (lateAt_ok ..).bind fun _ => (readLocs_ok ..).bind fun _ => AccessOk.pure _

theorem storeElem_ok (w : Agent) (va : Word) (n x : Nat) : AccessOk (storeElem w va n x) :=
  (locate_ok ..).bind fun _ => (lateAt_ok ..).bind fun _ => ⟨fun _ => AccessOnly.writeLocs ..⟩

/-- Where no store of the step waits, a scalar store is a store of its element (04_memory_model.md R120). -/
theorem storeScalar_now (w : Agent) (va : Word) (n x : Nat) {s : State} (h : s.storesWait = false) :
    storeScalar w va n x s = storeElem w va n x s := by
  show (if s.storesWait then _ else storeElem w va n x : Acc Unit) s = _
  rw [h]; rfl

theorem rmwElem_ok (w : Agent) (va : Word) (n : Nat) (f : Nat → Option Nat) : AccessOk (rmwElem w va n f) := by
  refine (locate_ok ..).bind fun locs => AccessOk.ite (AccessOk.throw _) ((lateAt_ok ..).bind fun _ => (readLocs_ok ..).bind fun bs => ?_)
  split
  · exact (AccessOk.pure _).bind fun _ => AccessOk.pure _
  · exact AccessOk.bind ⟨fun _ => AccessOnly.writeLocs ..⟩ fun _ => AccessOk.pure _

theorem loadDws_ok (w : Agent) (va : Word) (n : Nat) : AccessOk (loadDws w va n) :=
  AccessOk.mapM (fun _ => (loadElem_ok ..).bind fun _ => AccessOk.pure _) _

theorem storeDws_ok (w : Agent) (va : Word) (xs : List Word) : AccessOk (storeDws w va xs) :=
  AccessOk.forM (fun _ => storeElem_ok ..) _

/-! ### An access whose places are known -/

/-- A load whose places are found, with no request to fail and no bad granule among them, answers the value of their bytes. -/
theorem loadElem_found {w : Agent} {va : Word} {n : Nat} {s t : State} {locs : List Nat} (h : locate w .load va n s = .ok locs t)
    (l : t.hart.late = none) (k : ∀ l ∈ locs, t.badAt l = false) :
    loadElem w va n s = .ok (ofBytes (locs.map (Memory.read t.mem))) t := by
  show EStateM.bind _ _ s = _
  simp only [EStateM.bind, h]
  show EStateM.bind _ _ t = _
  simp only [EStateM.bind, lateAt_none _ _ _ _ _ t l]
  show EStateM.bind _ _ t = _
  simp only [EStateM.bind, readLocs_good t locs va k]
  rfl

/-- A store whose places are found, with no request to fail, writes the bytes of its value there. -/
theorem storeElem_found {w : Agent} {va : Word} {n x : Nat} {s t : State} {locs : List Nat}
    (h : locate w .store va n s = .ok locs t) (l : t.hart.late = none) :
    storeElem w va n x s = .ok () (t.writeLocs w.fn va (locs.zip (toBytes n x))) := by
  show EStateM.bind _ _ s = _
  simp only [EStateM.bind, h]
  show EStateM.bind _ _ t = _
  simp only [EStateM.bind, lateAt_none _ _ _ _ _ t l]
  rfl

/-- An RMW whose places are found, with no request to fail, outside host memory and in good granules, answers the old value and
writes the new one. -/
theorem rmwElem_found {w : Agent} {va : Word} {n : Nat} {f : Nat → Option Nat} {s t : State} {locs : List Nat}
    (h : locate w .atomic va n s = .ok locs t) (l : t.hart.late = none) (k : ∀ l ∈ locs, t.badAt l = false)
    (o : ∀ l ∈ locs, levelOf l ≠ .host) :
    rmwElem w va n f s = .ok (ofBytes (locs.map (Memory.read t.mem)))
      (match f (ofBytes (locs.map (Memory.read t.mem))) with
        | none => t
        | some x => t.writeLocs w.fn va (locs.zip (toBytes n x))) := by
  have ho : locs.any (fun a => levelOf a = .host) = false := List.any_eq_false.2 fun l hl => by simpa using o l hl
  show EStateM.bind _ _ s = _
  simp only [EStateM.bind, h, ho, Bool.false_eq_true, if_false]
  show EStateM.bind _ _ t = _
  simp only [EStateM.bind, lateAt_none _ _ _ _ _ t l]
  show EStateM.bind _ _ t = _
  simp only [EStateM.bind, readLocs_good t locs va k]
  cases f (ofBytes (locs.map (Memory.read t.mem))) <;> rfl

end Sys2Proof.Machine
end

