-- ==== Sys2Proof/Laws/Ops.lean ====
section
/-!
SUPPORT. The shared operations on the hart that moves: what each can do, said once.
-/

namespace Sys2Proof.Machine

/-! ### The hart that moves -/

@[simp] theorem State.hart_setHart (s : State) (h : Hart) : (s.setHart h).hart = h := by
  simp [State.hart, State.setHart]

@[simp] theorem State.setHart_setHart (s : State) (h k : Hart) : (s.setHart h).setHart k = s.setHart k := by
  simp [State.setHart]

@[simp] theorem State.setHart_hart (s : State) : s.setHart s.hart = s := by
  simp [State.hart, State.setHart]

theorem State.setHart_hart_of_eq (s : State) (h : Hart) (k : h = s.hart) : s.setHart h = s := by subst k; simp

theorem State.setHart_slot (s : State) (h : Hart) (i : Fin 64) (k : i ≠ s.cur) : (s.setHart h).harts[i] = s.harts[i] := by
  simp only [State.setHart, Fin.getElem_fin]
  exact Vector.getElem_set_ne _ _ (by simpa [Fin.ext_iff, eq_comm] using k)

/-! ### Registers -/

theorem Hart.sreg_setS (h : Hart) (d : BitVec 6) (x : Word) (n : BitVec 6) :
    (h.setS d x).sreg n = if n = d ∧ n ≠ 0 then x else h.sreg n := by
  unfold Hart.setS Hart.sreg
  by_cases hd : d = 0
  · by_cases hn : n = 0
    · simp [hn]
    · simp only [hd, if_true, hn, if_false, false_and]
  · by_cases hn : n = 0
    · simp [hn]
    · by_cases hnd : n = d
      · subst hnd
        simp only [hn, if_false, ne_eq, not_false_eq_true, and_self, if_true, Vector.getElem_set_self]
      · have : d.toNat ≠ n.toNat := fun e => hnd (BitVec.eq_of_toNat_eq e.symm)
        simp only [hd, hn, hnd, if_false, false_and]
        exact Vector.getElem_set_ne _ _ this

theorem Hart.sreg_congr {h k : Hart} (e : h.s = k.s) (n : BitVec 6) : h.sreg n = k.sreg n := by
  unfold Hart.sreg; rw [e]

theorem Hart.freg_setF (h : Hart) (d : BitVec 5) (x : Word) (n : BitVec 5) : (h.setF d x).freg n = if n = d then x else h.freg n := by
  unfold Hart.setF Hart.freg
  by_cases e : n = d
  · subst e; simp
  · have : d.toNat ≠ n.toNat := fun k => e (BitVec.eq_of_toNat_eq k.symm)
    simp only [e, if_false]
    exact Vector.getElem_set_ne _ _ this

theorem Hart.freg_congr {h k : Hart} (e : h.f = k.f) (n : BitVec 5) : h.freg n = k.freg n := by
  unfold Hart.freg; rw [e]

@[simp] theorem Hart.retireS_pc (h : Hart) (len : Nat) (d : BitVec 6) (x : Word) : (h.retireS len d x).pc = h.pc + word len := rfl
@[simp] theorem Hart.retireS_ld (h : Hart) (len : Nat) (d : BitVec 6) (x : Word) : (h.retireS len d x).ld = d := rfl
theorem Hart.retireS_s (h : Hart) (len : Nat) (d : BitVec 6) (x : Word) : (h.retireS len d x).s = (h.setS d x).s := rfl

theorem Hart.sreg_retireS (h : Hart) (len : Nat) (d : BitVec 6) (x : Word) (n : BitVec 6) :
    (h.retireS len d x).sreg n = if n = d ∧ n ≠ 0 then x else h.sreg n := by
  rw [← Hart.sreg_setS]; exact Hart.sreg_congr rfl n

/-- Writing a scalar register changes the registers alone. -/
theorem Hart.setS_only (h : Hart) (d : BitVec 6) (x : Word) : h.setS d x = { h with s := (h.setS d x).s } := by
  unfold Hart.setS; split <;> rfl

/-- Retirement with a scalar result changes the registers, the pc and `ld` alone. -/
theorem Hart.retireS_only (h : Hart) (len : Nat) (d : BitVec 6) (x : Word) :
    h.retireS len d x = { h with s := (h.retireS len d x).s, pc := h.pc + word len, ld := d } := by
  unfold Hart.retireS; rw [Hart.setS_only]

/-! ### Draining -/

theorem Hart.quiet_iff (h : Hart) : h.quiet = true ↔ h.viq = [] ∧ h.piq = [] ∧ h.miq = [] := by
  simp [Hart.quiet, and_assoc]

/-- The engines of a hart without entries do nothing. -/
theorem State.pump_quiet (s : State) (h : s.hart.quiet = true) : s.pump = (false, s) := by
  simp [State.pump, h]

theorem Hart.drained_quiet (h : Hart) (q : BitVec 3) (k : h.quiet = true) : h.drained q = true := by
  obtain ⟨a, b, c⟩ := h.quiet_iff.1 k
  simp [Hart.drained, a, b, c]

/-- On a hart without entries, what waits for a drain goes on at once. -/
theorem State.afterDrain_quiet (s : State) (q : BitVec 3) (k : State → Out) (h : s.hart.quiet = true) : s.afterDrain q k = k s := by
  simp [State.afterDrain, State.pump_quiet s h, Hart.drained_quiet _ _ h]

theorem Hart.takeLate_nil (h : Hart) (p : BitVec 2 → Bool) (k : h.lateStores = []) : h.takeLate p = none := by
  simp [Hart.takeLate, k]

/-- Where no store has timed out, nothing is raised for one. -/
theorem State.afterLate_nil (s : State) (p : BitVec 2 → Bool) (src : BitVec 4) (k : State → Out) (h : s.hart.lateStores = []) :
    s.afterLate p src k = k s := by
  simp [State.afterLate, Hart.takeLate_nil _ _ h]

theorem Hart.clampScope_only (h : Hart) (c : BitVec 3) :
    (h.clampScope c).1 = if h.scope.getLsbD 26 = false ∧ 4 < c.toNat then { h with status := h.status ||| 0x80 } else h := by
  unfold Hart.clampScope
  simp only [Bool.and_eq_true, Bool.not_eq_true', decide_eq_true_eq]
  split <;> rfl

theorem Hart.clampScope_lateStores (h : Hart) (c : BitVec 3) : (h.clampScope c).1.lateStores = h.lateStores := by
  rw [Hart.clampScope_only]; split <;> rfl

/-- Where the queues are empty and no store has timed out, a release or fence goes on at once, its scope clamped. -/
theorem State.afterRelease_quiet (s : State) (c : BitVec 3) (src : BitVec 4) (k : State → Out) (h : s.hart.quiet = true)
    (l : s.hart.lateStores = []) : s.afterRelease c src k = k (s.clamp c) := by
  rw [State.afterRelease, State.afterDrain_quiet s _ _ h, State.afterLate_nil]
  rw [State.clamp, State.hart_setHart, Hart.clampScope_lateStores, l]

theorem State.raise_quiet (s : State) (code : BitVec 8) (src : BitVec 4) (addr : Option Word) (gpa : Word) (past : Bool)
    (h : s.hart.quiet = true) : s.raise code src addr gpa past = .next (s.takeHartTrap code src addr gpa past) := by
  simp [State.raise, State.afterDrain_quiet s _ _ h]

theorem State.raiseFail_quiet (s : State) (src : BitVec 4) (e : Fail) (h : s.hart.quiet = true) :
    s.raiseFail src e = .next (s.takeHartTrap e.code src (some e.addr) e.gpa false) := by
  simp [State.raiseFail, State.pump_quiet s h, Hart.drained_quiet _ _ h, State.raise_quiet s _ _ _ _ _ h]

/-- Where no store has timed out, a trap is for its own cause. -/
theorem Hart.lateFirst_nil (h : Hart) (code : BitVec 8) (k : h.lateStores = []) : h.lateFirst code = none := by
  simp [Hart.lateFirst, Hart.takeLate_nil _ _ k]

/-- A trap outside a handler for a cause that goes to the task's handler raises no store in its place. -/
theorem Hart.lateFirst_handler (h : Hart) (code : BitVec 8) (th : h.th = false) (hh : h.handler ≠ 0) (hc : toRecord code = false) :
    h.lateFirst code = none := by
  simp only [Hart.lateFirst, th, hh, hc]
  rfl

/-! ### Taking a trap -/

theorem withBit_getLsbD (w : Word) (i k : Nat) (b : Bool) (hi : i < 64) :
    (withBit w i b).getLsbD k = if k = i then b else w.getLsbD k := by
  unfold withBit
  by_cases hk : k = i
  · subst hk
    cases b <;> simp [hi]
  · cases b <;> simp [BitVec.getLsbD_twoPow, hk, eq_comm (a := i)]
    exact fun h => BitVec.lt_of_getLsbD h

theorem statusWith_getLsbD (w : Word) (th held : Bool) (k : Nat) :
    (statusWith w th held).getLsbD k = if k = 5 then held else if k = 6 then th else w.getLsbD k := by
  unfold statusWith
  rw [withBit_getLsbD _ _ _ _ (by decide), withBit_getLsbD _ _ _ _ (by decide)]

/-- A trap of the hart outside a handler, for a cause that goes to the task's handler: the hart is what `hartEntry` makes of it,
at the handler's pc, and an instruction that waited on a toll waits no longer. -/
theorem State.takeHartTrap_handler (s : State) (code : BitVec 8) (src : BitVec 4) (addr : Option Word) (gpa : Word)
    (th : s.hart.th = false) (hh : s.hart.handler ≠ 0) (hc : toRecord code = false) :
    s.takeHartTrap code src addr gpa false =
      (if s.hart.gateWait.isSome then s.leaveTolls s.cur else s).setHart
        { s.hart.hartEntry s.hart.pc code src addr with pc := s.hart.handler, gateWait := none } := by
  simp only [State.takeHartTrap, Hart.lateFirst_handler _ _ th hh hc, State.takeTrap, th, hc, hh, Bool.false_eq_true, or_self, if_false]

/-! ### Records and places -/

/-- KIND of a record (12_command.md R368). -/
theorem mkRecord_kind (fn : BitVec 8) (seq : BitVec 32) (part : BitVec 5) (queue src : BitVec 4) (code : BitVec 8) (kind : BitVec 7)
    (core : BitVec 4) (index : BitVec 6) (epc faddr ei d0 d1 d2 : Word) :
    ((mkRecord fn seq part queue src code kind core index epc faddr ei d0 d1 d2).dw[0]).extractLsb' 1 7 = kind := by
  apply BitVec.eq_of_getLsbD_eq; intro i hi
  change (BitVec.extractLsb' _ _ (seq ++ 0#3 ++ part ++ queue ++ src ++ code ++ kind ++ 1#1 : BitVec 64)).getLsbD i = _
  interval_cases i <;> simp only [BitVec.getLsbD_extractLsb', BitVec.getLsbD_append] <;> rfl

/-- CODE of a record. -/
theorem mkRecord_code (fn : BitVec 8) (seq : BitVec 32) (part : BitVec 5) (queue src : BitVec 4) (code : BitVec 8) (kind : BitVec 7)
    (core : BitVec 4) (index : BitVec 6) (epc faddr ei d0 d1 d2 : Word) :
    ((mkRecord fn seq part queue src code kind core index epc faddr ei d0 d1 d2).dw[0]).extractLsb' 8 8 = code := by
  apply BitVec.eq_of_getLsbD_eq; intro i hi
  change (BitVec.extractLsb' _ _ (seq ++ 0#3 ++ part ++ queue ++ src ++ code ++ kind ++ 1#1 : BitVec 64)).getLsbD i = _
  interval_cases i <;> simp only [BitVec.getLsbD_extractLsb', BitVec.getLsbD_append] <;> rfl

/-- SRC of a record. -/
theorem mkRecord_src (fn : BitVec 8) (seq : BitVec 32) (part : BitVec 5) (queue src : BitVec 4) (code : BitVec 8) (kind : BitVec 7)
    (core : BitVec 4) (index : BitVec 6) (epc faddr ei d0 d1 d2 : Word) :
    ((mkRecord fn seq part queue src code kind core index epc faddr ei d0 d1 d2).dw[0]).extractLsb' 16 4 = src := by
  apply BitVec.eq_of_getLsbD_eq; intro i hi
  change (BitVec.extractLsb' _ _ (seq ++ 0#3 ++ part ++ queue ++ src ++ code ++ kind ++ 1#1 : BitVec 64)).getLsbD i = _
  interval_cases i <;> simp only [BitVec.getLsbD_extractLsb', BitVec.getLsbD_append] <;> rfl

/-- A place in a run lies in one of the run's channels (15_partitions.md R413). -/
theorem runPlace_channel (n a off : Nat) (h : 0 < n) : a ≤ (runPlace n a off).1 ∧ (runPlace n a off).1 < a + n := by
  simp only [runPlace]
  exact ⟨Nat.le_add_right _ _, Nat.add_lt_add_left (Nat.mod_lt _ h) _⟩

end Sys2Proof.Machine
end

