-- ==== Sys2Proof/Laws/Issue.lean ====
section
/-!
SUPPORT. What an engine instruction that nothing holds back does: its entry is taken at once, and the hart goes on behind it. The
completion statements of the VIQ's instructions follow from this one lemma and a lemma about the entry's own meaning.
-/

set_option Elab.async false

namespace Sys2Proof.Machine

/-- The entry that an instruction becomes (13_context.md R382). -/
def entryOf (h : Hart) (i : Instr) (ops : List Word) : Entry :=
  { instr := i, raw := none, pc := h.pc, vl := entryVl i ops h.vl, prog := 0, et := h.et, aux := 0,
      op0 := (ops[0]?).getD 0, op1 := (ops[1]?).getD 0, op2 := (ops[2]?).getD 0, seq := h.nextSeq, started := false, base := 0, blocks := [] }

/-- The hart with that entry alone in the VIQ, past the instruction. -/
def waitingFor (h : Hart) (e : Entry) : Hart :=
  { h with viq := [e], nextSeq := h.nextSeq + 1, pc := h.pc + 4, ld := 0 }

/-- An instruction of the VIQ whose entry completes goes to the state its entry left, with the entry taken out (01_engines.md R13 to
R16). -/
theorem issue_viq (i : Instr) (rs : List (BitVec 6)) (s : State) (a : s.hart.quiet = true) (b : s.engines = true) (c : s.hart.unitsDue = false)
    (d : givesSrq i = true → s.hart.srq.length < 16) (g : givesBq i = true → s.hart.bq.length < 16)
    (hd : ∀ h ops, Hart.draws h i ops = none) (hw : ∀ h, Hart.runWaits h i = false)
    (hi : ∀ n, i ≠ .chrun n) (u : State)
    (hu : working (runEntry (entryOf s.hart i (rs.map s.hart.sreg))) (s.setHart (waitingFor s.hart (entryOf s.hart i (rs.map s.hart.sreg)))) = .ok () u)
    (hq : u.hart.viq.length = 1 ∧ u.hart.piq = [] ∧ u.hart.miq = []) :
    issue i 1 rs s = .next (u.setHart (u.hart.popQueue 1)) := by
  obtain ⟨v, p, m⟩ := (Hart.quiet_iff _).1 a
  obtain ⟨q1, q2, q3⟩ := hq
  have hE : s.hart.enqueue i 1 (rs.map s.hart.sreg) = waitingFor s.hart (entryOf s.hart i (rs.map s.hart.sreg)) := by
    simp [Hart.enqueue, hd, Hart.modQueueOf, Hart.retire, v, entryOf, waitingFor, word]
  have hr : s.hart.hasRoom i 1 = true := by
    simp [Hart.hasRoom, v, p, m, Hart.queueOf, queueCap]
    constructor
    · cases k : givesSrq i <;> simp_all
    · cases k : givesBq i <;> simp_all
  have ha : s.hart.acquiring = false := by simp [Hart.acquiring, v, p]
  rw [issue]
  simp only [ha, hr, hw, Bool.not_true, Bool.or_false, hE]
  have hh : (s.setHart (waitingFor s.hart (entryOf s.hart i (rs.map s.hart.sreg)))).hart = waitingFor s.hart (entryOf s.hart i (rs.map s.hart.sreg)) := by simp
  generalize hX : s.setHart (waitingFor s.hart (entryOf s.hart i (rs.map s.hart.sreg))) = X at *
  have e1 : X.hart.viq = [entryOf s.hart i (rs.map s.hart.sreg)] := by rw [hh]; rfl
  have e2 : X.hart.piq = [] := by rw [hh]; exact p
  have e3 : X.hart.miq = [] := by rw [hh]; exact m
  have e4 : X.engines = true := by rw [← hX]; exact b
  have e5 : X.hart.unitsDue = false := by rw [hh]; exact c
  have hu' : u.hart.viq.drop 1 = [] := by rcases hv : u.hart.viq with _ | ⟨x, _ | ⟨y, l⟩⟩ <;> simp_all
  generalize hY : u.setHart (u.hart.popQueue 1) = Y at *
  have y1 : Y.hart.viq = [] := by rw [← hY]; simp [Hart.popQueue, Hart.modQueueOf, hu']
  have y2 : Y.hart.piq = [] := by rw [← hY]; simp [Hart.popQueue, Hart.modQueueOf, q2]
  have y3 : Y.hart.miq = [] := by rw [← hY]; simp [Hart.popQueue, Hart.modQueueOf, q3]
  have fin : ∀ n, Y.pumpFor n = (false, Y) := by
    intro n
    have : Y.hart.queueOrder = [] := by simp [Hart.queueOrder, Hart.attached, Hart.headOrder, Hart.queueOf, y1, y2, y3, sortBy]
    cases n with
    | zero => rfl
    | succ n => rw [State.pumpFor, this]; rfl
  have : X.pump = (false, Y) := by
    rw [State.pump]
    have : (X.hart.quiet || !X.engines) = false := by simp [Hart.quiet, e1, e4]
    simp only [this, State.unitsApply, e5]
    have o : X.hart.queueOrder = [1] := by
      simp [Hart.queueOrder, Hart.attached, Hart.headOrder, Hart.queueOf, e1, e2, e3, sortBy, insertBy, entryOf, Entry.isRun]
    have nb : ∀ e : Entry, X.hart.viq = [e] → X.hart.blocked e = false := by
      intro e k
      unfold Hart.blocked
      split <;> simp [e2, e3, k]
    have body : (entryOf s.hart i (rs.map s.hart.sreg)).body X = .ok () u := by
      simp only [Entry.body]; exact hu
    have tk : X.takeViq = .moved (u.setHart (u.hart.popQueue 1)) := by
      simp only [State.takeViq]
      rw [e1]
      simp only [Hart.attached, e1, nb _ e1]
      have : (entryOf s.hart i (rs.map s.hart.sreg)).isRun = false := by simp [Entry.isRun, entryOf]
      simp only [this]
      have : (entryOf s.hart i (rs.map s.hart.sreg)).instr = i := rfl
      simp only [this]
      simp only [Bool.false_eq_true, ite_false]
      split
      · rename_i h _; exact absurd rfl (hi _)
      · simp [State.tryHead, body]
    have l : X.hart.viq.length + X.hart.piq.length + X.hart.miq.length + 1 = 2 := by simp [e1, e2, e3]
    simp only [l, Bool.false_eq_true, ite_false]
    rw [State.pumpFor, o]
    simp only [State.takeOne, if_true, tk]
    first | exact fin 1 | (rw [hY]; exact fin 1)
  simp [this]
end Sys2Proof.Machine
end

