-- ==== Sys2Proof/Laws/PerInstr.lean ====
section
/-!
SUPPORT. The family of statements made per instruction: Encoding, what the lowest bit of an encoded instruction says of its length
(02_encoding.md R51, R52).
-/

set_option Elab.async false

namespace Sys2Proof.Laws.Encoding

/-- The lowest bit of an instruction's word says how long it is (02_encoding.md R51, R52); an event has no word. -/
def Statement (i : Instr) : Prop :=
  match encode i with
  | some (.half w) => isLong w = false
  | some (.full w) => isLong (w.setWidth 16) = true
  | none => True

theorem full_low7 (x : BitVec 25) (m : BitVec 7) (h : m.getLsbD 0 = true) : isLong ((x ++ m).setWidth 16) = true := by
  rw [isLong, BitVec.getLsbD_setWidth, BitVec.getLsbD_append]; simpa using h

theorem full_low11 (x : BitVec 21) (m : BitVec 11) (h : m.getLsbD 0 = true) : isLong ((x ++ m).setWidth 16) = true := by
  rw [isLong, BitVec.getLsbD_setWidth, BitVec.getLsbD_append]; simpa using h

theorem full_low12 (x : BitVec 20) (m : BitVec 12) (h : m.getLsbD 0 = true) : isLong ((x ++ m).setWidth 16) = true := by
  rw [isLong, BitVec.getLsbD_setWidth, BitVec.getLsbD_append]; simpa using h

theorem full_low13 (x : BitVec 19) (m : BitVec 13) (h : m.getLsbD 0 = true) : isLong ((x ++ m).setWidth 16) = true := by
  rw [isLong, BitVec.getLsbD_setWidth, BitVec.getLsbD_append]; simpa using h

theorem full_low18 (x : BitVec 14) (m : BitVec 18) (h : m.getLsbD 0 = true) : isLong ((x ++ m).setWidth 16) = true := by
  rw [isLong, BitVec.getLsbD_setWidth, BitVec.getLsbD_append]; simpa using h

theorem full_low19 (x : BitVec 13) (m : BitVec 19) (h : m.getLsbD 0 = true) : isLong ((x ++ m).setWidth 16) = true := by
  rw [isLong, BitVec.getLsbD_setWidth, BitVec.getLsbD_append]; simpa using h

theorem full_low25 (x : BitVec 7) (m : BitVec 25) (h : m.getLsbD 0 = true) : isLong ((x ++ m).setWidth 16) = true := by
  rw [isLong, BitVec.getLsbD_setWidth, BitVec.getLsbD_append]; simpa using h

theorem half_low (x : BitVec 12) (m : BitVec 4) (h : m.getLsbD 0 = false) : isLong (x ++ m) = false := by
  rw [isLong, BitVec.getLsbD_append]; simpa using h

theorem cAdd (d b) : Statement (.cAdd d b) := by simp only [Statement, encode]; exact half_low _ _ rfl
theorem cSub (d b) : Statement (.cSub d b) := by simp only [Statement, encode]; exact half_low _ _ rfl
theorem cAnd (d b) : Statement (.cAnd d b) := by simp only [Statement, encode]; exact half_low _ _ rfl
theorem cOr (d b) : Statement (.cOr d b) := by simp only [Statement, encode]; exact half_low _ _ rfl
theorem cXor (d b) : Statement (.cXor d b) := by simp only [Statement, encode]; exact half_low _ _ rfl
theorem cShl (d b) : Statement (.cShl d b) := by simp only [Statement, encode]; exact half_low _ _ rfl
theorem cAddi (d i) : Statement (.cAddi d i) := by simp only [Statement, encode]; exact half_low _ _ rfl
theorem add (d a b) : Statement (.add d a b) := by simp only [Statement, encode]; exact full_low7 _ _ rfl
theorem sub (d a b) : Statement (.sub d a b) := by simp only [Statement, encode]; exact full_low7 _ _ rfl
theorem and (d a b) : Statement (.and d a b) := by simp only [Statement, encode]; exact full_low7 _ _ rfl
theorem or (d a b) : Statement (.or d a b) := by simp only [Statement, encode]; exact full_low7 _ _ rfl
theorem xor (d a b) : Statement (.xor d a b) := by simp only [Statement, encode]; exact full_low7 _ _ rfl
theorem shl (d a b) : Statement (.shl d a b) := by simp only [Statement, encode]; exact full_low7 _ _ rfl
theorem shr (d a b) : Statement (.shr d a b) := by simp only [Statement, encode]; exact full_low7 _ _ rfl
theorem sra (d a b) : Statement (.sra d a b) := by simp only [Statement, encode]; exact full_low7 _ _ rfl
theorem slt (d a b) : Statement (.slt d a b) := by simp only [Statement, encode]; exact full_low7 _ _ rfl
theorem sltn (d a b) : Statement (.sltn d a b) := by simp only [Statement, encode]; exact full_low7 _ _ rfl
theorem mul (d a b) : Statement (.mul d a b) := by simp only [Statement, encode]; exact full_low7 _ _ rfl
theorem mulh (d a b) : Statement (.mulh d a b) := by simp only [Statement, encode]; exact full_low7 _ _ rfl
theorem mulhn (d a b) : Statement (.mulhn d a b) := by simp only [Statement, encode]; exact full_low7 _ _ rfl
theorem div (d a b) : Statement (.div d a b) := by simp only [Statement, encode]; exact full_low7 _ _ rfl
theorem divn (d a b) : Statement (.divn d a b) := by simp only [Statement, encode]; exact full_low7 _ _ rfl
theorem rem (d a b) : Statement (.rem d a b) := by simp only [Statement, encode]; exact full_low7 _ _ rfl
theorem remn (d a b) : Statement (.remn d a b) := by simp only [Statement, encode]; exact full_low7 _ _ rfl
theorem addi (d a i) : Statement (.addi d a i) := by simp only [Statement, encode]; exact full_low7 _ _ rfl
theorem slti (d a i) : Statement (.slti d a i) := by simp only [Statement, encode]; exact full_low7 _ _ rfl
theorem andi (d a i) : Statement (.andi d a i) := by simp only [Statement, encode]; exact full_low7 _ _ rfl
theorem ori (d a i) : Statement (.ori d a i) := by simp only [Statement, encode]; exact full_low7 _ _ rfl
theorem xori (d a i) : Statement (.xori d a i) := by simp only [Statement, encode]; exact full_low7 _ _ rfl
theorem shli (d a s) : Statement (.shli d a s) := by simp only [Statement, encode]; exact full_low7 _ _ rfl
theorem shri (d a s) : Statement (.shri d a s) := by simp only [Statement, encode]; exact full_low7 _ _ rfl
theorem srai (d a s) : Statement (.srai d a s) := by simp only [Statement, encode]; exact full_low7 _ _ rfl
theorem ld64 (d a i) : Statement (.ld64 d a i) := by simp only [Statement, encode]; exact full_low7 _ _ rfl
theorem ld32 (d a i) : Statement (.ld32 d a i) := by simp only [Statement, encode]; exact full_low7 _ _ rfl
theorem ld16 (d a i) : Statement (.ld16 d a i) := by simp only [Statement, encode]; exact full_low7 _ _ rfl
theorem ld8 (d a i) : Statement (.ld8 d a i) := by simp only [Statement, encode]; exact full_low7 _ _ rfl
theorem ldn32 (d a i) : Statement (.ldn32 d a i) := by simp only [Statement, encode]; exact full_low7 _ _ rfl
theorem ldn16 (d a i) : Statement (.ldn16 d a i) := by simp only [Statement, encode]; exact full_low7 _ _ rfl
theorem ldn8 (d a i) : Statement (.ldn8 d a i) := by simp only [Statement, encode]; exact full_low7 _ _ rfl
theorem fld32 (d a i) : Statement (.fld32 d a i) := by simp only [Statement, encode]; exact full_low7 _ _ rfl
theorem fld64 (d a i) : Statement (.fld64 d a i) := by simp only [Statement, encode]; exact full_low7 _ _ rfl
theorem st64 (d a i) : Statement (.st64 d a i) := by simp only [Statement, encode]; exact full_low7 _ _ rfl
theorem st32 (d a i) : Statement (.st32 d a i) := by simp only [Statement, encode]; exact full_low7 _ _ rfl
theorem st16 (d a i) : Statement (.st16 d a i) := by simp only [Statement, encode]; exact full_low7 _ _ rfl
theorem st8 (d a i) : Statement (.st8 d a i) := by simp only [Statement, encode]; exact full_low7 _ _ rfl
theorem fst32 (d a i) : Statement (.fst32 d a i) := by simp only [Statement, encode]; exact full_low7 _ _ rfl
theorem fst64 (d a i) : Statement (.fst64 d a i) := by simp only [Statement, encode]; exact full_low7 _ _ rfl
theorem jlr (d a i) : Statement (.jlr d a i) := by simp only [Statement, encode]; exact full_low7 _ _ rfl
theorem beq (a b o) : Statement (.beq a b o) := by simp only [Statement, encode]; exact full_low7 _ _ rfl
theorem bne (a b o) : Statement (.bne a b o) := by simp only [Statement, encode]; exact full_low7 _ _ rfl
theorem blt (a b o) : Statement (.blt a b o) := by simp only [Statement, encode]; exact full_low7 _ _ rfl
theorem bge (a b o) : Statement (.bge a b o) := by simp only [Statement, encode]; exact full_low7 _ _ rfl
theorem bltn (a b o) : Statement (.bltn a b o) := by simp only [Statement, encode]; exact full_low7 _ _ rfl
theorem bgen (a b o) : Statement (.bgen a b o) := by simp only [Statement, encode]; exact full_low7 _ _ rfl
theorem sbnz (a b o) : Statement (.sbnz a b o) := by simp only [Statement, encode]; exact full_low7 _ _ rfl
theorem j (o) : Statement (.j o) := by simp only [Statement, encode]; exact full_low12 _ _ rfl
theorem jl (o) : Statement (.jl o) := by simp only [Statement, encode]; exact full_low12 _ _ rfl
theorem bqz (q o) : Statement (.bqz q o) := by simp only [Statement, encode]; exact full_low7 _ _ rfl
theorem bqnz (q o) : Statement (.bqnz q o) := by simp only [Statement, encode]; exact full_low7 _ _ rfl
theorem fadd (d a b t) : Statement (.fadd d a b t) := by simp only [Statement, encode]; exact full_low7 _ _ rfl
theorem fsub (d a b t) : Statement (.fsub d a b t) := by simp only [Statement, encode]; exact full_low7 _ _ rfl
theorem fmul (d a b t) : Statement (.fmul d a b t) := by simp only [Statement, encode]; exact full_low7 _ _ rfl
theorem fdiv (d a b t) : Statement (.fdiv d a b t) := by simp only [Statement, encode]; exact full_low7 _ _ rfl
theorem fsqrt (d a t) : Statement (.fsqrt d a t) := by simp only [Statement, encode]; exact full_low7 _ _ rfl
theorem fmin (d a b t) : Statement (.fmin d a b t) := by simp only [Statement, encode]; exact full_low7 _ _ rfl
theorem fmax (d a b t) : Statement (.fmax d a b t) := by simp only [Statement, encode]; exact full_low7 _ _ rfl
theorem fmac (d a b t) : Statement (.fmac d a b t) := by simp only [Statement, encode]; exact full_low7 _ _ rfl
theorem feq (d a b t) : Statement (.feq d a b t) := by simp only [Statement, encode]; exact full_low7 _ _ rfl
theorem flt (d a b t) : Statement (.flt d a b t) := by simp only [Statement, encode]; exact full_low7 _ _ rfl
theorem fle (d a b t) : Statement (.fle d a b t) := by simp only [Statement, encode]; exact full_low7 _ _ rfl
theorem fcvtF (d a t) : Statement (.fcvtF d a t) := by simp only [Statement, encode]; exact full_low7 _ _ rfl
theorem fcvtI (d a t) : Statement (.fcvtI d a t) := by simp only [Statement, encode]; exact full_low7 _ _ rfl
theorem fcvtFf (d a t) : Statement (.fcvtFf d a t) := by simp only [Statement, encode]; exact full_low7 _ _ rfl
theorem fmvSF (d a t) : Statement (.fmvSF d a t) := by simp only [Statement, encode]; exact full_low7 _ _ rfl
theorem fmvFS (d a t) : Statement (.fmvFS d a t) := by simp only [Statement, encode]; exact full_low7 _ _ rfl
theorem fclass (d a t) : Statement (.fclass d a t) := by simp only [Statement, encode]; exact full_low7 _ _ rfl
theorem amoswap (d a b c r) : Statement (.amoswap d a b c r) := by simp only [Statement, encode]; exact full_low7 _ _ rfl
theorem amoadd (d a b c r) : Statement (.amoadd d a b c r) := by simp only [Statement, encode]; exact full_low7 _ _ rfl
theorem amoand (d a b c r) : Statement (.amoand d a b c r) := by simp only [Statement, encode]; exact full_low7 _ _ rfl
theorem amoor (d a b c r) : Statement (.amoor d a b c r) := by simp only [Statement, encode]; exact full_low7 _ _ rfl
theorem amomax (d a b c r) : Statement (.amomax d a b c r) := by simp only [Statement, encode]; exact full_low7 _ _ rfl
theorem amomaxn (d a b c r) : Statement (.amomaxn d a b c r) := by simp only [Statement, encode]; exact full_low7 _ _ rfl
theorem amocas (d a b c r) : Statement (.amocas d a b c r) := by simp only [Statement, encode]; exact full_low7 _ _ rfl
theorem ldaq (d a c) : Statement (.ldaq d a c) := by simp only [Statement, encode]; exact full_low7 _ _ rfl
theorem strl (a b c) : Statement (.strl a b c) := by simp only [Statement, encode]; exact full_low13 _ _ rfl
theorem fence (c) : Statement (.fence c) := by simp only [Statement, encode]; exact full_low25 _ _ rfl
theorem fenceAcq (c) : Statement (.fenceAcq c) := by simp only [Statement, encode]; exact full_low25 _ _ rfl
theorem fenceRel (c) : Statement (.fenceRel c) := by simp only [Statement, encode]; exact full_low25 _ _ rfl
theorem fenceSc (c) : Statement (.fenceSc c) := by simp only [Statement, encode]; exact full_low25 _ _ rfl
theorem qdrain (q) : Statement (.qdrain q) := by simp only [Statement, encode]; exact full_low19 _ _ rfl
theorem mvq (d q) : Statement (.mvq d q) := by simp only [Statement, encode]; exact full_low7 _ _ rfl
theorem csrr (d s) : Statement (.csrr d s) := by simp only [Statement, encode]; exact full_low7 _ _ rfl
theorem csrw (a s) : Statement (.csrw a s) := by simp only [Statement, encode]; exact full_low13 _ _ rfl
theorem csrs (d a s) : Statement (.csrs d a s) := by simp only [Statement, encode]; exact full_low7 _ _ rfl
theorem csrc (d a s) : Statement (.csrc d a s) := by simp only [Statement, encode]; exact full_low7 _ _ rfl
theorem trap : Statement (.trap) := by simp only [Statement, encode]; rfl
theorem tret : Statement (.tret) := by simp only [Statement, encode]; rfl
theorem waitt (a) : Statement (.waitt a) := by simp only [Statement, encode]; exact full_low13 _ _ rfl
theorem brk : Statement (.brk) := by simp only [Statement, encode]; rfl
theorem setvl (d a i) : Statement (.setvl d a i) := by simp only [Statement, encode]; exact full_low7 _ _ rfl
theorem vadd (d a b m) : Statement (.vadd d a b m) := by simp only [Statement, encode]; exact full_low7 _ _ rfl
theorem vsub (d a b m) : Statement (.vsub d a b m) := by simp only [Statement, encode]; exact full_low7 _ _ rfl
theorem vmul (d a b m) : Statement (.vmul d a b m) := by simp only [Statement, encode]; exact full_low7 _ _ rfl
theorem vmulh (d a b m) : Statement (.vmulh d a b m) := by simp only [Statement, encode]; exact full_low7 _ _ rfl
theorem vdiv (d a b m) : Statement (.vdiv d a b m) := by simp only [Statement, encode]; exact full_low7 _ _ rfl
theorem vrem (d a b m) : Statement (.vrem d a b m) := by simp only [Statement, encode]; exact full_low7 _ _ rfl
theorem vmin (d a b m) : Statement (.vmin d a b m) := by simp only [Statement, encode]; exact full_low7 _ _ rfl
theorem vmax (d a b m) : Statement (.vmax d a b m) := by simp only [Statement, encode]; exact full_low7 _ _ rfl
theorem vand (d a b m) : Statement (.vand d a b m) := by simp only [Statement, encode]; exact full_low7 _ _ rfl
theorem vor (d a b m) : Statement (.vor d a b m) := by simp only [Statement, encode]; exact full_low7 _ _ rfl
theorem vxor (d a b m) : Statement (.vxor d a b m) := by simp only [Statement, encode]; exact full_low7 _ _ rfl
theorem vshl (d a b m) : Statement (.vshl d a b m) := by simp only [Statement, encode]; exact full_low7 _ _ rfl
theorem vshr (d a b m) : Statement (.vshr d a b m) := by simp only [Statement, encode]; exact full_low7 _ _ rfl
theorem vsra (d a b m) : Statement (.vsra d a b m) := by simp only [Statement, encode]; exact full_low7 _ _ rfl
theorem vadds (d a b m) : Statement (.vadds d a b m) := by simp only [Statement, encode]; exact full_low7 _ _ rfl
theorem vsubs (d a b m) : Statement (.vsubs d a b m) := by simp only [Statement, encode]; exact full_low7 _ _ rfl
theorem vmac (d a b m) : Statement (.vmac d a b m) := by simp only [Statement, encode]; exact full_low7 _ _ rfl
theorem vnmac (d a b m) : Statement (.vnmac d a b m) := by simp only [Statement, encode]; exact full_low7 _ _ rfl
theorem vsqrt (d a m) : Statement (.vsqrt d a m) := by simp only [Statement, encode]; exact full_low7 _ _ rfl
theorem vabs (d a m) : Statement (.vabs d a m) := by simp only [Statement, encode]; exact full_low7 _ _ rfl
theorem vaddmin (d a b m) : Statement (.vaddmin d a b m) := by simp only [Statement, encode]; exact full_low7 _ _ rfl
theorem vmerge (d a b m) : Statement (.vmerge d a b m) := by simp only [Statement, encode]; exact full_low7 _ _ rfl
theorem vmv (d a m) : Statement (.vmv d a m) := by simp only [Statement, encode]; exact full_low7 _ _ rfl
theorem vseq (d a b m) : Statement (.vseq d a b m) := by simp only [Statement, encode]; exact full_low7 _ _ rfl
theorem vsne (d a b m) : Statement (.vsne d a b m) := by simp only [Statement, encode]; exact full_low7 _ _ rfl
theorem vslt (d a b m) : Statement (.vslt d a b m) := by simp only [Statement, encode]; exact full_low7 _ _ rfl
theorem vsle (d a b m) : Statement (.vsle d a b m) := by simp only [Statement, encode]; exact full_low7 _ _ rfl
theorem vaddVs (d a s m) : Statement (.vaddVs d a s m) := by simp only [Statement, encode]; exact full_low7 _ _ rfl
theorem vsubVs (d a s m) : Statement (.vsubVs d a s m) := by simp only [Statement, encode]; exact full_low7 _ _ rfl
theorem vmulVs (d a s m) : Statement (.vmulVs d a s m) := by simp only [Statement, encode]; exact full_low7 _ _ rfl
theorem vminVs (d a s m) : Statement (.vminVs d a s m) := by simp only [Statement, encode]; exact full_low7 _ _ rfl
theorem vmaxVs (d a s m) : Statement (.vmaxVs d a s m) := by simp only [Statement, encode]; exact full_low7 _ _ rfl
theorem vshlVs (d a s m) : Statement (.vshlVs d a s m) := by simp only [Statement, encode]; exact full_low7 _ _ rfl
theorem vshrVs (d a s m) : Statement (.vshrVs d a s m) := by simp only [Statement, encode]; exact full_low7 _ _ rfl
theorem vsraVs (d a s m) : Statement (.vsraVs d a s m) := by simp only [Statement, encode]; exact full_low7 _ _ rfl
theorem vmacVs (d a s m) : Statement (.vmacVs d a s m) := by simp only [Statement, encode]; exact full_low7 _ _ rfl
theorem vaddminVs (d a s m) : Statement (.vaddminVs d a s m) := by simp only [Statement, encode]; exact full_low7 _ _ rfl
theorem vbcast (d s m) : Statement (.vbcast d s m) := by simp only [Statement, encode]; exact full_low7 _ _ rfl
theorem vrsubVs (d a s m) : Statement (.vrsubVs d a s m) := by simp only [Statement, encode]; exact full_low7 _ _ rfl
theorem vaddVi (d a i) : Statement (.vaddVi d a i) := by simp only [Statement, encode]; exact full_low7 _ _ rfl
theorem vandVi (d a i) : Statement (.vandVi d a i) := by simp only [Statement, encode]; exact full_low7 _ _ rfl
theorem vorVi (d a i) : Statement (.vorVi d a i) := by simp only [Statement, encode]; exact full_low7 _ _ rfl
theorem vxorVi (d a i) : Statement (.vxorVi d a i) := by simp only [Statement, encode]; exact full_low7 _ _ rfl
theorem vshlVi (d a i) : Statement (.vshlVi d a i) := by simp only [Statement, encode]; exact full_low7 _ _ rfl
theorem vshrVi (d a i) : Statement (.vshrVi d a i) := by simp only [Statement, encode]; exact full_low7 _ _ rfl
theorem vsraVi (d a i) : Statement (.vsraVi d a i) := by simp only [Statement, encode]; exact full_low7 _ _ rfl
theorem vrsubVi (d a i) : Statement (.vrsubVi d a i) := by simp only [Statement, encode]; exact full_low7 _ _ rfl
theorem vidx (d s p) : Statement (.vidx d s p) := by simp only [Statement, encode]; exact full_low7 _ _ rfl
theorem vredsum (d a b m) : Statement (.vredsum d a b m) := by simp only [Statement, encode]; exact full_low7 _ _ rfl
theorem vredmin (d a b m) : Statement (.vredmin d a b m) := by simp only [Statement, encode]; exact full_low7 _ _ rfl
theorem vredmax (d a b m) : Statement (.vredmax d a b m) := by simp only [Statement, encode]; exact full_low7 _ _ rfl
theorem vredand (d a b m) : Statement (.vredand d a b m) := by simp only [Statement, encode]; exact full_low7 _ _ rfl
theorem vredor (d a b m) : Statement (.vredor d a b m) := by simp only [Statement, encode]; exact full_low7 _ _ rfl
theorem vredxor (d a b m) : Statement (.vredxor d a b m) := by simp only [Statement, encode]; exact full_low7 _ _ rfl
theorem vscan (d a b m) : Statement (.vscan d a b m) := by simp only [Statement, encode]; exact full_low7 _ _ rfl
theorem vscanx (d a b m) : Statement (.vscanx d a b m) := by simp only [Statement, encode]; exact full_low7 _ _ rfl
theorem vslideup (d a s m) : Statement (.vslideup d a s m) := by simp only [Statement, encode]; exact full_low7 _ _ rfl
theorem vslidedn (d a s m) : Statement (.vslidedn d a s m) := by simp only [Statement, encode]; exact full_low7 _ _ rfl
theorem vslide1up (d a s m) : Statement (.vslide1up d a s m) := by simp only [Statement, encode]; exact full_low7 _ _ rfl
theorem vslide1dn (d a s m) : Statement (.vslide1dn d a s m) := by simp only [Statement, encode]; exact full_low7 _ _ rfl
theorem vperm (d a b m) : Statement (.vperm d a b m) := by simp only [Statement, encode]; exact full_low7 _ _ rfl
theorem vcompress (d a m) : Statement (.vcompress d a m) := by simp only [Statement, encode]; exact full_low7 _ _ rfl
theorem vexpand (d a m) : Statement (.vexpand d a m) := by simp only [Statement, encode]; exact full_low7 _ _ rfl
theorem vrev (d a m) : Statement (.vrev d a m) := by simp only [Statement, encode]; exact full_low7 _ _ rfl
theorem vzip (d a b m) : Statement (.vzip d a b m) := by simp only [Statement, encode]; exact full_low7 _ _ rfl
theorem vunzip (d a m) : Statement (.vunzip d a m) := by simp only [Statement, encode]; exact full_low7 _ _ rfl
theorem vconflict (d a m) : Statement (.vconflict d a m) := by simp only [Statement, encode]; exact full_low7 _ _ rfl
theorem vcvt (d a t f m) : Statement (.vcvt d a t f m) := by simp only [Statement, encode]; exact full_low7 _ _ rfl
theorem mand (d a b) : Statement (.mand d a b) := by simp only [Statement, encode]; exact full_low7 _ _ rfl
theorem mor (d a b) : Statement (.mor d a b) := by simp only [Statement, encode]; exact full_low7 _ _ rfl
theorem mxor (d a b) : Statement (.mxor d a b) := by simp only [Statement, encode]; exact full_low7 _ _ rfl
theorem mandn (d a b) : Statement (.mandn d a b) := by simp only [Statement, encode]; exact full_low7 _ _ rfl
theorem morn (d a b) : Statement (.morn d a b) := by simp only [Statement, encode]; exact full_low7 _ _ rfl
theorem mnand (d a b) : Statement (.mnand d a b) := by simp only [Statement, encode]; exact full_low7 _ _ rfl
theorem mnor (d a b) : Statement (.mnor d a b) := by simp only [Statement, encode]; exact full_low7 _ _ rfl
theorem mxnor (d a b) : Statement (.mxnor d a b) := by simp only [Statement, encode]; exact full_low7 _ _ rfl
theorem mmv (d a) : Statement (.mmv d a) := by simp only [Statement, encode]; exact full_low7 _ _ rfl
theorem mnot (d a) : Statement (.mnot d a) := by simp only [Statement, encode]; exact full_low7 _ _ rfl
theorem msetbf (d a) : Statement (.msetbf d a) := by simp only [Statement, encode]; exact full_low7 _ _ rfl
theorem msetif (d a) : Statement (.msetif d a) := by simp only [Statement, encode]; exact full_low7 _ _ rfl
theorem msetof (d a) : Statement (.msetof d a) := by simp only [Statement, encode]; exact full_low7 _ _ rfl
theorem mclr (d) : Statement (.mclr d) := by simp only [Statement, encode]; exact full_low7 _ _ rfl
theorem mset (d) : Statement (.mset d) := by simp only [Statement, encode]; exact full_low7 _ _ rfl
theorem vext (a b) : Statement (.vext a b) := by simp only [Statement, encode]; exact full_low7 _ _ rfl
theorem mpop (m) : Statement (.mpop m) := by simp only [Statement, encode]; exact full_low18 _ _ rfl
theorem mfind (m) : Statement (.mfind m) := by simp only [Statement, encode]; exact full_low18 _ _ rfl
theorem mbany (m) : Statement (.mbany m) := by simp only [Statement, encode]; exact full_low18 _ _ rfl
theorem mball (m) : Statement (.mball m) := by simp only [Statement, encode]; exact full_low18 _ _ rfl
theorem vld (v a b m) : Statement (.vld v a b m) := by simp only [Statement, encode]; exact full_low7 _ _ rfl
theorem vst (v a b m) : Statement (.vst v a b m) := by simp only [Statement, encode]; exact full_low7 _ _ rfl
theorem vlds (v a b m) : Statement (.vlds v a b m) := by simp only [Statement, encode]; exact full_low7 _ _ rfl
theorem vsts (v a b m) : Statement (.vsts v a b m) := by simp only [Statement, encode]; exact full_low7 _ _ rfl
theorem vldx (v a i m) : Statement (.vldx v a i m) := by simp only [Statement, encode]; exact full_low7 _ _ rfl
theorem vstx (v a i m) : Statement (.vstx v a i m) := by simp only [Statement, encode]; exact full_low7 _ _ rfl
theorem vldff (v a b m) : Statement (.vldff v a b m) := by simp only [Statement, encode]; exact full_low7 _ _ rfl
theorem vldsff (v a b m) : Statement (.vldsff v a b m) := by simp only [Statement, encode]; exact full_low7 _ _ rfl
theorem vldI (v a i) : Statement (.vldI v a i) := by simp only [Statement, encode]; exact full_low7 _ _ rfl
theorem vstI (v a i) : Statement (.vstI v a i) := by simp only [Statement, encode]; exact full_low7 _ _ rfl
theorem vldffI (v a i) : Statement (.vldffI v a i) := by simp only [Statement, encode]; exact full_low7 _ _ rfl
theorem tbindl (t a) : Statement (.tbindl t a) := by simp only [Statement, encode]; exact full_low12 _ _ rfl
theorem tbinds (t a) : Statement (.tbinds t a) := by simp only [Statement, encode]; exact full_low12 _ _ rfl
theorem tfree (t) : Statement (.tfree t) := by simp only [Statement, encode]; exact full_low12 _ _ rfl
theorem tflush (t) : Statement (.tflush t) := by simp only [Statement, encode]; exact full_low12 _ _ rfl
theorem tget (v t m) : Statement (.tget v t m) := by simp only [Statement, encode]; exact full_low7 _ _ rfl
theorem tsend (v t m) : Statement (.tsend v t m) := by simp only [Statement, encode]; exact full_low7 _ _ rfl
theorem acopy (a b c k) : Statement (.acopy a b c k) := by simp only [Statement, encode]; exact full_low7 _ _ rfl
theorem cwait (k) : Statement (.cwait k) := by simp only [Statement, encode]; exact full_low25 _ _ rfl
theorem ctest (k) : Statement (.ctest k) := by simp only [Statement, encode]; exact full_low25 _ _ rfl
theorem fload (a n) : Statement (.fload a n) := by simp only [Statement, encode]; exact full_low7 _ _ rfl
theorem fstart (n) : Statement (.fstart n) := by simp only [Statement, encode]; exact full_low13 _ _ rfl
theorem fstop (n) : Statement (.fstop n) := by simp only [Statement, encode]; exact full_low13 _ _ rfl
theorem fdrain (n) : Statement (.fdrain n) := by simp only [Statement, encode]; exact full_low13 _ _ rfl
theorem fstat (n) : Statement (.fstat n) := by simp only [Statement, encode]; exact full_low13 _ _ rfl
theorem fgather (v i a m) : Statement (.fgather v i a m) := by simp only [Statement, encode]; exact full_low7 _ _ rfl
theorem fscatter (v i a m) : Statement (.fscatter v i a m) := by simp only [Statement, encode]; exact full_low7 _ _ rfl
theorem fwgather (v i a m) : Statement (.fwgather v i a m) := by simp only [Statement, encode]; exact full_low7 _ _ rfl
theorem vamoadd (v i a m) : Statement (.vamoadd v i a m) := by simp only [Statement, encode]; exact full_low7 _ _ rfl
theorem vamomin (v i a m) : Statement (.vamomin v i a m) := by simp only [Statement, encode]; exact full_low7 _ _ rfl
theorem vamomax (v i a m) : Statement (.vamomax v i a m) := by simp only [Statement, encode]; exact full_low7 _ _ rfl
theorem fas (v i a m) : Statement (.fas v i a m) := by simp only [Statement, encode]; exact full_low7 _ _ rfl
theorem awadd (v i k m) : Statement (.awadd v i k m) := by simp only [Statement, encode]; exact full_low7 _ _ rfl
theorem awmin (v i k m) : Statement (.awmin v i k m) := by simp only [Statement, encode]; exact full_low7 _ _ rfl
theorem awmax (v i k m) : Statement (.awmax v i k m) := by simp only [Statement, encode]; exact full_low7 _ _ rfl
theorem awopen (a b k) : Statement (.awopen a b k) := by simp only [Statement, encode]; exact full_low7 _ _ rfl
theorem accmerge (k) : Statement (.accmerge k) := by simp only [Statement, encode]; exact full_low19 _ _ rfl
theorem awdiscard (k) : Statement (.awdiscard k) := by simp only [Statement, encode]; exact full_low19 _ _ rfl
theorem chform (a) : Statement (.chform a) := by simp only [Statement, encode]; exact full_low13 _ _ rfl
theorem chrun (a) : Statement (.chrun a) := by simp only [Statement, encode]; exact full_low13 _ _ rfl
theorem chwait : Statement (.chwait) := by simp only [Statement, encode]; rfl
theorem chbreak : Statement (.chbreak) := by simp only [Statement, encode]; rfl
theorem chfree : Statement (.chfree) := by simp only [Statement, encode]; rfl
theorem chstat : Statement (.chstat) := by simp only [Statement, encode]; rfl
theorem chidx (a) : Statement (.chidx a) := by simp only [Statement, encode]; exact full_low13 _ _ rfl
theorem qrd (x) : Statement (.qrd x) := by simp only [Statement, encode]; exact full_low7 _ _ rfl
theorem qwr (x a) : Statement (.qwr x a) := by simp only [Statement, encode]; exact full_low7 _ _ rfl
theorem qlen (x) : Statement (.qlen x) := by simp only [Statement, encode]; exact full_low7 _ _ rfl
theorem mmac (c a b x) : Statement (.mmac c a b x) := by simp only [Statement, encode]; exact full_low7 _ _ rfl
theorem mmacsa (c a b x) : Statement (.mmacsa c a b x) := by simp only [Statement, encode]; exact full_low7 _ _ rfl
theorem mmacsb (c a b x) : Statement (.mmacsb c a b x) := by simp only [Statement, encode]; exact full_low7 _ _ rfl
theorem mldc (c a) : Statement (.mldc c a) := by simp only [Statement, encode]; exact full_low7 _ _ rfl
theorem mstc (c a x) : Statement (.mstc c a x) := by simp only [Statement, encode]; exact full_low7 _ _ rfl
theorem mzero (c) : Statement (.mzero c) := by simp only [Statement, encode]; exact full_low7 _ _ rfl
theorem mskip (a b x) : Statement (.mskip a b x) := by simp only [Statement, encode]; exact full_low11 _ _ rfl
theorem mshape (a) : Statement (.mshape a) := by simp only [Statement, encode]; exact full_low11 _ _ rfl
theorem mprune (a b x) : Statement (.mprune a b x) := by simp only [Statement, encode]; exact full_low11 _ _ rfl
theorem mnode (c a) : Statement (.mnode c a) := by simp only [Statement, encode]; exact full_low7 _ _ rfl
theorem mfill (c) : Statement (.mfill c) := by simp only [Statement, encode]; exact full_low7 _ _ rfl
theorem mwait (c) : Statement (.mwait c) := by simp only [Statement, encode]; exact full_low7 _ _ rfl
theorem mscale (c a) : Statement (.mscale c a) := by simp only [Statement, encode]; exact full_low7 _ _ rfl
theorem mstat (c) : Statement (.mstat c) := by simp only [Statement, encode]; exact full_low7 _ _ rfl
theorem gpost (a b) : Statement (.gpost a b) := by simp only [Statement, encode]; exact full_low13 _ _ rfl
theorem gpostPayload (d a b) : Statement (.gpostPayload d a b) := by simp only [Statement, encode]; exact full_low7 _ _ rfl
theorem gwait (d a b) : Statement (.gwait d a b) := by simp only [Statement, encode]; exact full_low7 _ _ rfl
theorem gtry (d a b) : Statement (.gtry d a b) := by simp only [Statement, encode]; exact full_low7 _ _ rfl
theorem gread (d a) : Statement (.gread d a) := by simp only [Statement, encode]; exact full_low7 _ _ rfl
theorem gopen (d a b) : Statement (.gopen d a b) := by simp only [Statement, encode]; exact full_low7 _ _ rfl
theorem gclose (a) : Statement (.gclose a) := by simp only [Statement, encode]; exact full_low13 _ _ rfl
theorem fclaim (d a b) : Statement (.fclaim d a b) := by simp only [Statement, encode]; exact full_low7 _ _ rfl
theorem fend : Statement (.fend) := by simp only [Statement, encode]; rfl
theorem sigdec (a b) : Statement (.sigdec a b) := by simp only [Statement, encode]; exact full_low13 _ _ rfl
theorem sigwait (a b) : Statement (.sigwait a b) := by simp only [Statement, encode]; exact full_low13 _ _ rfl
theorem launch (a b) : Statement (.launch a b) := by simp only [Statement, encode]; exact full_low13 _ _ rfl
theorem lput (a b c k) : Statement (.lput a b c k) := by simp only [Statement, encode]; exact full_low7 _ _ rfl
theorem lget (a b c k) : Statement (.lget a b c k) := by simp only [Statement, encode]; exact full_low7 _ _ rfl
theorem lcred (a b c k) : Statement (.lcred a b c k) := by simp only [Statement, encode]; exact full_low7 _ _ rfl
theorem lcgat (a b c k) : Statement (.lcgat a b c k) := by simp only [Statement, encode]; exact full_low7 _ _ rfl
theorem lcbc (a b c k) : Statement (.lcbc a b c k) := by simp only [Statement, encode]; exact full_low7 _ _ rfl
theorem lwait (k) : Statement (.lwait k) := by simp only [Statement, encode]; exact full_low25 _ _ rfl
theorem lfence : Statement (.lfence) := by simp only [Statement, encode]; rfl
theorem ltest (k) : Statement (.ltest k) := by simp only [Statement, encode]; exact full_low25 _ _ rfl
theorem ctxsave (a b) : Statement (.ctxsave a b) := by simp only [Statement, encode]; exact full_low13 _ _ rfl
theorem ctxload (a b) : Statement (.ctxload a b) := by simp only [Statement, encode]; exact full_low13 _ _ rfl
theorem dbgwin (d a b) : Statement (.dbgwin d a b) := by simp only [Statement, encode]; exact full_low7 _ _ rfl
theorem engineTrap (slot queue code addr) : Statement (.engineTrap slot queue code addr) := trivial
theorem hartTrap (slot code addr) : Statement (.hartTrap slot code addr) := trivial
theorem preEmption (slot trigger) : Statement (.preEmption slot trigger) := trivial
theorem contextSave (slot) : Statement (.contextSave slot) := trivial
theorem contextRestore (part saved slot) : Statement (.contextRestore part saved slot) := trivial
theorem hartAdmit (core) : Statement (.hartAdmit core) := trivial
theorem placement (seq cores start) : Statement (.placement seq cores start) := trivial
theorem notify (fn q) : Statement (.notify fn q) := trivial
theorem queueScan (fn q) : Statement (.queueScan fn q) := trivial
theorem launchPacket (fn q) : Statement (.launchPacket fn q) := trivial
theorem signalPacket (fn q) : Statement (.signalPacket fn q) := trivial
theorem waitPacket (fn q) : Statement (.waitPacket fn q) := trivial
theorem waitReread (fn q) : Statement (.waitReread fn q) := trivial
theorem nopPacket (fn q) : Statement (.nopPacket fn q) := trivial
theorem recordDeliver (fn) : Statement (.recordDeliver fn) := trivial
theorem recordRetry (fn) : Statement (.recordRetry fn) := trivial
theorem queueCreate (cmd) : Statement (.queueCreate cmd) := trivial
theorem queueDestroy (cmd) : Statement (.queueDestroy cmd) := trivial
theorem queueRestart (cmd) : Statement (.queueRestart cmd) := trivial
theorem evqCreate (cmd) : Statement (.evqCreate cmd) := trivial
theorem resume (cmd) : Statement (.resume cmd) := trivial
theorem resumeAbort (cmd) : Statement (.resumeAbort cmd) := trivial
theorem taskAbort (cmd) : Statement (.taskAbort cmd) := trivial
theorem resumeSave (cmd) : Statement (.resumeSave cmd) := trivial
theorem rootSet (cmd) : Statement (.rootSet cmd) := trivial
theorem invalidate (cmd) : Statement (.invalidate cmd) := trivial
theorem gateCreate (cmd) : Statement (.gateCreate cmd) := trivial
theorem gateList (cmd) : Statement (.gateList cmd) := trivial
theorem gateSet (cmd) : Statement (.gateSet cmd) := trivial
theorem gateRevoke (cmd) : Statement (.gateRevoke cmd) := trivial
theorem gateDelete (cmd) : Statement (.gateDelete cmd) := trivial
theorem migrateOut (cmd) : Statement (.migrateOut cmd) := trivial
theorem migrateIn (cmd) : Statement (.migrateIn cmd) := trivial
theorem partSet (cmd) : Statement (.partSet cmd) := trivial
theorem exportRange (cmd) : Statement (.exportRange cmd) := trivial
theorem exportRemove (cmd) : Statement (.exportRemove cmd) := trivial
theorem vfReset (cmd) : Statement (.vfReset cmd) := trivial
theorem attest (cmd) : Statement (.attest cmd) := trivial
theorem powerSet (cmd) : Statement (.powerSet cmd) := trivial
theorem limitSet (cmd) : Statement (.limitSet cmd) := trivial
theorem counters (cmd) : Statement (.counters cmd) := trivial
theorem debugHalt (cmd) : Statement (.debugHalt cmd) := trivial
theorem debugResume (cmd) : Statement (.debugResume cmd) := trivial
theorem debugStep (cmd) : Statement (.debugStep cmd) := trivial
theorem debugRead (cmd) : Statement (.debugRead cmd) := trivial
theorem debugWrite (cmd) : Statement (.debugWrite cmd) := trivial
theorem debugArm (cmd) : Statement (.debugArm cmd) := trivial
theorem debugDisarm (cmd) : Statement (.debugDisarm cmd) := trivial
theorem tollRefill : Statement (.tollRefill) := trivial
theorem gpostAdmit (slot) : Statement (.gpostAdmit slot) := trivial
theorem gwaitWake (slot) : Statement (.gwaitWake slot) := trivial
theorem gateEccRevoke (gate) : Statement (.gateEccRevoke gate) := trivial
theorem waittExpire (slot) : Statement (.waittExpire slot) := trivial
theorem sigwaitMet (slot) : Statement (.sigwaitMet slot) := trivial
theorem copyComplete (slot k) : Statement (.copyComplete slot k) := trivial
theorem copyFault (slot k) : Statement (.copyFault slot k) := trivial
theorem linkOpComplete (slot k) : Statement (.linkOpComplete slot k) := trivial
theorem linkOpFault (slot k) : Statement (.linkOpFault slot k) := trivial
theorem chainBreak (slot cause stage) : Statement (.chainBreak slot cause stage) := trivial
theorem chainReform (slot) : Statement (.chainReform slot) := trivial
theorem chainDetach (slot) : Statement (.chainDetach slot) := trivial
theorem nodeFinish (slot n) : Statement (.nodeFinish slot n) := trivial
theorem bellGrant (slot src n inp) : Statement (.bellGrant slot src n inp) := trivial
theorem fabricWatchdog (slot) : Statement (.fabricWatchdog slot) := trivial
theorem requestTimeout (slot unit k addr) : Statement (.requestTimeout slot unit k addr) := trivial
theorem nodeTileFill (slot o) : Statement (.nodeTileFill slot o) := trivial
theorem operandNodeFault (slot o) : Statement (.operandNodeFault slot o) := trivial
theorem eccUncorrectable (part addr) : Statement (.eccUncorrectable part addr) := trivial
theorem internalUncorrectable : Statement (.internalUncorrectable) := trivial
theorem laneLinkDown (core port) : Statement (.laneLinkDown core port) := trivial
theorem laneLinkUp (core port) : Statement (.laneLinkUp core port) := trivial
theorem ubeacPortFail (port) : Statement (.ubeacPortFail port) := trivial
theorem thermalThrottle : Statement (.thermalThrottle) := trivial
theorem thermalRecover : Statement (.thermalRecover) := trivial
theorem thermalTrip : Statement (.thermalTrip) := trivial
theorem packageReset (romGood) : Statement (.packageReset romGood) := trivial
theorem vfFlr (fn) : Statement (.vfFlr fn) := trivial
theorem bootConfiguration (words) : Statement (.bootConfiguration words) := trivial
theorem bootConfigTimeout : Statement (.bootConfigTimeout) := trivial
theorem peerAccess (op size addr data expect) : Statement (.peerAccess op size addr data expect) := trivial
theorem cxlMemAccess (write size off data) : Statement (.cxlMemAccess write size off data) := trivial
theorem configurationRequest : Statement (.configurationRequest) := trivial
theorem laneLinkReplay (core port) : Statement (.laneLinkReplay core port) := trivial
theorem flitReplay (port) : Statement (.flitReplay port) := trivial
theorem streamElementArrival (slot t) : Statement (.streamElementArrival slot t) := trivial

end Sys2Proof.Laws.Encoding
end

