-- ==== Sys2Proof/Tests/Slice0.lean ====
section
/-!
SUPPORT. Tests: ill-formed terms that are refused, a word of every instruction, small steps with results worked out from the spec,
and for every obligation a state and operands that meet its hypotheses together.
-/

set_option Elab.async false

namespace Sys2Proof.Tests

open Sys2Proof Sys2Proof.Machine Sys2Proof.Claims

/-! ### Helpers -/

/-- The machine with an instruction at the pc of hart slot 0, in host mode, with a handler and the first GiB mapped. -/
def ready : State :=
  let s := State.reset.withFetchWord 32 0x02000031
  s.setHart { s.hart with handler := 0x4000 }

/-- The machine with the hart that moves changed. -/
def State.on (s : State) (f : Hart → Hart) : State := s.setHart (f s.hart)

/-- The machine `ready` with scalar registers. -/
def withS (l : List (Fin 64 × Word)) : State := State.on ready fun h => { h with s := l.foldl (fun v p => v.set p.1 p.2) h.s }

/-- The machine `ready` inside a handler. -/
def inHandler : State := State.on ready fun h => { h with status := 0x60 }

/-- The outcome is a next state with a property. -/
def nextHas (o : Host.Outcome State Fault Refusal) (p : State → Bool) : Bool :=
  match o with
  | .next t => p t
  | .fault _ | .refused _ => false

/-- An access succeeds, with a property of its value and state. -/
def accHas (x : EStateM ε State α) (s : State) (p : α → State → Bool) : Bool :=
  match x s with
  | .ok a u => p a u
  | .error _ _ => false

/-- What `accHas` says. -/
theorem accHas_iff (x : EStateM ε State α) (s : State) (p : α → State → Bool) (h : accHas x s p = true) :
    ∃ a u, x s = .ok a u ∧ p a u = true := by
  unfold accHas at h
  split at h
  · exact ⟨_, _, by assumption, h⟩
  · cases h

/-- The places of an access are found, are apart and hold no bad granule; memory stays in its form, the hart stays as it was and the
places are in the package. -/
def findsOk (s : State) (acc : Access) (va : Word) (n : Nat) : Bool :=
  accHas (locate s.hart.agent acc va n) s fun locs u => decide (locs.Nodup) && locs.all (fun l => u.badAt l == false && levelOf l != .host) &&
    decide (Memory.wf u.mem) && u.hart == s.hart && s.hart.late == none

/-- What `findsOk` says. -/
theorem findsOk_iff (s : State) (acc : Access) (va : Word) (n : Nat) (h : findsOk s acc va n = true) :
    ∃ locs u, Finds s acc va n locs u ∧ Memory.wf u.mem ∧ u.hart = s.hart ∧ ∀ l ∈ locs, levelOf l ≠ .host := by
  obtain ⟨locs, u, h1, h2⟩ := accHas_iff _ _ _ h
  simp only [Bool.and_eq_true, decide_eq_true_eq, List.all_eq_true, beq_iff_eq, bne_iff_ne] at h2
  exact ⟨locs, u, ⟨h1, h2.1.1.1.1, fun l hl => (h2.1.1.1.2 l hl).1, h2.2⟩, h2.1.1.2, h2.1.2, fun l hl => (h2.1.1.1.2 l hl).2⟩

/-! ### Ill-formed terms -/

/-- m96 is no mask (02_encoding.md R48). -/
theorem test_mask_refused : (Instr.vadd 1 2 3 96).wellFormed = false := by decide +kernel
/-- m0 is no destination (02_encoding.md R48). -/
theorem test_mask_destination_refused : (Instr.mset 0).wellFormed = false := by decide +kernel
/-- Scope 7 is illegal (02_encoding.md R59). -/
theorem test_scope_refused : (Instr.fence 7).wellFormed = false := by decide +kernel
/-- RM 5 in a type descriptor is illegal (02_encoding.md R55). -/
theorem test_rounding_mode_refused : (Instr.setvl 1 2 0x502).wellFormed = false := by decide +kernel
/-- State number 15 is illegal (02_encoding.md R60). -/
theorem test_state_number_refused : (Instr.csrr 1 15).wellFormed = false := by decide +kernel
/-- A queue mask of 0 is illegal (02_encoding.md R59). -/
theorem test_drain_mask_refused : (Instr.qdrain 0).wellFormed = false := by decide +kernel
/-- Queue 0 of `mvq` is illegal (02_encoding.md R59). -/
theorem test_return_queue_refused : (Instr.mvq 1 0).wellFormed = false := by decide +kernel
/-- Queue 3 of `bqz` is illegal (05_hart.md R158). -/
theorem test_branch_queue_refused : (Instr.bqz 3 0).wellFormed = false := by decide +kernel
/-- There is no function 129 (12_command.md R348). -/
theorem test_function_refused : (Instr.notify 129 0).wellFormed = false := by decide +kernel
/-- There is no partition 24 (15_partitions.md R411). -/
theorem test_partition_refused : (Instr.eccUncorrectable 24 0).wellFormed = false := by decide +kernel
/-- There is no port 12 (14_link.md R399). -/
theorem test_port_refused : (Instr.ubeacPortFail 12).wellFormed = false := by decide +kernel
/-- There is no trigger 3 (13_context.md R376). -/
theorem test_trigger_refused : (Instr.preEmption 0 3).wellFormed = false := by decide +kernel
/-- A command comes from a function that exists (12_command.md R348). -/
theorem test_command_refused : (Instr.counters ⟨200, false, 0, 0, 0, 0, 0, 0, 0, 0⟩).wellFormed = false := by decide +kernel

/-- Words that are none (02_encoding.md R61): an unassigned major, an unassigned function, a nonzero unused field, a mask above 95, and a
compact word with op 0. -/
theorem test_refused_words : [decode (.full 0x0000007D), decode (.full 0x3F000003), decode (.full 0x02000081),
    decode (.full 0x18020133), decode (.half 0x0000)].all (fun r => r.toOption.isNone) = true := by decide +kernel

/-! ### A word of every instruction -/

/-- The compact words: words with their fields placed by 02_encoding.md R51, R52 and R57 to R60, and what they decode to. -/
theorem test_decode_compact : ([
  (.half 0x4852, .cAdd 5 18), (.half 0x4854, .cSub 5 18), (.half 0x4856, .cAnd 5 18), (.half 0x4858, .cOr 5 18),
  (.half 0x485A, .cXor 5 18), (.half 0x485C, .cShl 5 18), (.half 0x485E, .cAddi 5 18)] : List (Encoded × Instr)).all (fun x => decode x.1 == .ok x.2) = true := by decide +kernel

/-- Major 1: words with their fields placed by 02_encoding.md R51, R52 and R57 to R60, and what they decode to. -/
theorem test_decode_scalar : ([
  (.full 0x013A4283, .add 5 18 39), (.full 0x033A4283, .sub 5 18 39), (.full 0x053A4283, .and 5 18 39),
  (.full 0x073A4283, .or 5 18 39), (.full 0x093A4283, .xor 5 18 39), (.full 0x0B3A4283, .shl 5 18 39),
  (.full 0x0D3A4283, .shr 5 18 39), (.full 0x0F3A4283, .sra 5 18 39), (.full 0x113A4283, .slt 5 18 39),
  (.full 0x133A4283, .sltn 5 18 39), (.full 0x153A4283, .mul 5 18 39), (.full 0x173A4283, .mulh 5 18 39),
  (.full 0x193A4283, .mulhn 5 18 39), (.full 0x1B3A4283, .div 5 18 39), (.full 0x1D3A4283, .divn 5 18 39),
  (.full 0x1F3A4283, .rem 5 18 39), (.full 0x213A4283, .remn 5 18 39)] : List (Encoded × Instr)).all (fun x => decode x.1 == .ok x.2) = true := by decide +kernel

/-- Majors 2 to 12: words with their fields placed by 02_encoding.md R51, R52 and R57 to R60, and what they decode to. -/
theorem test_decode_immediate : ([
  (.full 0x45324285, .addi 5 18 2214), (.full 0xC5324285, .slti 5 18 2214), (.full 0x45324287, .andi 5 18 2214),
  (.full 0xC5324287, .ori 5 18 2214), (.full 0x45324289, .xori 5 18 2214), (.full 0x813A4289, .shli 5 18 39),
  (.full 0x833A4289, .shri 5 18 39), (.full 0x853A4289, .srai 5 18 39), (.full 0x4532428B, .ld64 5 18 2214),
  (.full 0xC532428B, .ld32 5 18 2214), (.full 0x4532428D, .ld16 5 18 2214), (.full 0xC532428D, .ld8 5 18 2214),
  (.full 0x4532428F, .ldn32 5 18 2214), (.full 0xC532428F, .ldn16 5 18 2214), (.full 0x45324291, .ldn8 5 18 2214),
  (.full 0xC5324291, .fld32 5 18 2214), (.full 0x45324293, .fld64 5 18 2214), (.full 0xC5324293, .st64 5 18 2214),
  (.full 0x45324295, .st32 5 18 2214), (.full 0xC5324295, .st16 5 18 2214), (.full 0x45324297, .st8 5 18 2214),
  (.full 0xC5324297, .fst32 5 18 2214), (.full 0x45324299, .fst64 5 18 2214), (.full 0xC5324299, .jlr 5 18 2214)] : List (Encoded × Instr)).all (fun x => decode x.1 == .ok x.2) = true := by decide +kernel

/-- Majors 13 to 17: words with their fields placed by 02_encoding.md R51, R52 and R57 to R60, and what they decode to. -/
theorem test_decode_branch : ([
  (.full 0x7CEA429B, .beq 5 18 3997), (.full 0xFCEA429B, .bne 5 18 3997), (.full 0x7CEA429D, .blt 5 18 3997),
  (.full 0xFCEA429D, .bge 5 18 3997), (.full 0x7CEA429F, .bltn 5 18 3997), (.full 0xFCEA429F, .bgen 5 18 3997),
  (.full 0x7CEA42A1, .sbnz 5 18 3997), (.full 0xFFE3B023, .j 1048123), (.full 0xFFE3B0A3, .jl 1048123),
  (.full 0xFFE3B323, .bqz 2 1048123), (.full 0xFFE3B523, .bqnz 2 1048123)] : List (Encoded × Instr)).all (fun x => decode x.1 == .ok x.2) = true := by decide +kernel

/-- Major 18: words with their fields placed by 02_encoding.md R51, R52 and R57 to R60, and what they decode to. -/
theorem test_decode_float : ([
  (.full 0x023A42A5, .fadd 5 18 7 1), (.full 0x0A3A42A5, .fsub 5 18 7 1), (.full 0x123A42A5, .fmul 5 18 7 1),
  (.full 0x1A3A42A5, .fdiv 5 18 7 1), (.full 0x220242A5, .fsqrt 5 18 1), (.full 0x2A3A42A5, .fmin 5 18 7 1),
  (.full 0x323A42A5, .fmax 5 18 7 1), (.full 0x3A3A42A5, .fmac 5 18 7 1), (.full 0x423A42A5, .feq 5 18 7 1),
  (.full 0x4A3A42A5, .flt 5 18 7 1), (.full 0x523A42A5, .fle 5 18 7 1), (.full 0x5A0242A5, .fcvtF 5 18 1),
  (.full 0x620242A5, .fcvtI 5 18 1), (.full 0x6A0242A5, .fcvtFf 5 18 1), (.full 0x720242A5, .fmvSF 5 18 1),
  (.full 0x7A0242A5, .fmvFS 5 18 1), (.full 0x820242A5, .fclass 5 18 1)] : List (Encoded × Instr)).all (fun x => decode x.1 == .ok x.2) = true := by decide +kernel

/-- Majors 19 to 21: words with their fields placed by 02_encoding.md R51, R52 and R57 to R60, and what they decode to. -/
theorem test_decode_atomic : ([
  (.full 0x3B3A42A7, .amoswap 5 18 39 5 3), (.full 0x7B3A42A7, .amoadd 5 18 39 5 3), (.full 0xBB3A42A7, .amoand 5 18 39 5 3),
  (.full 0xFB3A42A7, .amoor 5 18 39 5 3), (.full 0x3B3A42A9, .amomax 5 18 39 5 3), (.full 0x7B3A42A9, .amomaxn 5 18 39 5 3),
  (.full 0xBB3A42A9, .amocas 5 18 39 5 3), (.full 0xDA0242A9, .ldaq 5 18 5), (.full 0x2A90A02B, .strl 5 18 5),
  (.full 0x4A00002B, .fence 5), (.full 0x5A00002B, .fenceAcq 5), (.full 0x6A00002B, .fenceRel 5),
  (.full 0x7A00002B, .fenceSc 5), (.full 0x8030002B, .qdrain 6), (.full 0xC01002AB, .mvq 5 2)] : List (Encoded × Instr)).all (fun x => decode x.1 == .ok x.2) = true := by decide +kernel

/-- Majors 22 to 24 and 41: words with their fields placed by 02_encoding.md R51, R52 and R57 to R60, and what they decode to. -/
theorem test_decode_system : ([
  (.full 0x004802AD, .csrr 5 9), (.full 0x8048A02D, .csrw 5 9), (.full 0x004A42AF, .csrs 5 18 9),
  (.full 0x804A42AF, .csrc 5 18 9), (.full 0x00000031, .trap), (.full 0x02000031, .tret), (.full 0x0400A031, .waitt 5),
  (.full 0x06000031, .brk), (.full 0x253242D3, .setvl 5 18 1190)] : List (Encoded × Instr)).all (fun x => decode x.1 == .ok x.2) = true := by decide +kernel

/-- Majors 25 to 27: words with their fields placed by 02_encoding.md R51, R52 and R57 to R60, and what they decode to. -/
theorem test_decode_lane_v : ([
  (.full 0x174F22B3, .vadd 5 18 7 93), (.full 0x374F22B3, .vsub 5 18 7 93), (.full 0x574F22B3, .vmul 5 18 7 93),
  (.full 0x774F22B3, .vmulh 5 18 7 93), (.full 0x974F22B3, .vdiv 5 18 7 93), (.full 0xB74F22B3, .vrem 5 18 7 93),
  (.full 0xD74F22B3, .vmin 5 18 7 93), (.full 0xF74F22B3, .vmax 5 18 7 93), (.full 0x174F22B5, .vand 5 18 7 93),
  (.full 0x374F22B5, .vor 5 18 7 93), (.full 0x574F22B5, .vxor 5 18 7 93), (.full 0x774F22B5, .vshl 5 18 7 93),
  (.full 0x974F22B5, .vshr 5 18 7 93), (.full 0xB74F22B5, .vsra 5 18 7 93), (.full 0xD74F22B5, .vadds 5 18 7 93),
  (.full 0xF74F22B5, .vsubs 5 18 7 93), (.full 0x174F22B7, .vmac 5 18 7 93), (.full 0x374F22B7, .vnmac 5 18 7 93),
  (.full 0x574122B7, .vsqrt 5 18 93), (.full 0x774122B7, .vabs 5 18 93), (.full 0x974F22B7, .vaddmin 5 18 7 93),
  (.full 0xB74F22B7, .vmerge 5 18 7 93), (.full 0xD74122B7, .vmv 5 18 93)] : List (Encoded × Instr)).all (fun x => decode x.1 == .ok x.2) = true := by decide +kernel

/-- Majors 28 to 32: words with their fields placed by 02_encoding.md R51, R52 and R57 to R60, and what they decode to. -/
theorem test_decode_lane_vc_vs : ([
  (.full 0x5D3CA6B9, .vseq 77 18 7 93), (.full 0xDD3CA6B9, .vsne 77 18 7 93), (.full 0x5D3CA6BB, .vslt 77 18 7 93),
  (.full 0xDD3CA6BB, .vsle 77 18 7 93), (.full 0x2ECF22BD, .vaddVs 5 18 39 93), (.full 0x6ECF22BD, .vsubVs 5 18 39 93),
  (.full 0xAECF22BD, .vmulVs 5 18 39 93), (.full 0xEECF22BD, .vminVs 5 18 39 93), (.full 0x2ECF22BF, .vmaxVs 5 18 39 93),
  (.full 0x6ECF22BF, .vshlVs 5 18 39 93), (.full 0xAECF22BF, .vshrVs 5 18 39 93), (.full 0xEECF22BF, .vsraVs 5 18 39 93),
  (.full 0x2ECF22C1, .vmacVs 5 18 39 93), (.full 0x6ECF22C1, .vaddminVs 5 18 39 93), (.full 0xAEA402C1, .vbcast 5 18 93),
  (.full 0xEECF22C1, .vrsubVs 5 18 39 93)] : List (Encoded × Instr)).all (fun x => decode x.1 == .ok x.2) = true := by decide +kernel

/-- Majors 33 to 37: words with their fields placed by 02_encoding.md R51, R52 and R57 to R60, and what they decode to. -/
theorem test_decode_lane_vi : ([
  (.full 0x114D22C3, .vaddVi 5 18 2214), (.full 0x314D22C3, .vandVi 5 18 2214), (.full 0x514D22C3, .vorVi 5 18 2214),
  (.full 0x714D22C3, .vxorVi 5 18 2214), (.full 0x914D22C3, .vshlVi 5 18 2214), (.full 0xB14D22C3, .vshrVi 5 18 2214),
  (.full 0xD14D22C3, .vsraVi 5 18 2214), (.full 0xF14D22C3, .vrsubVi 5 18 2214), (.full 0x873A52C5, .vidx 5 933 540),
  (.full 0x174F22C7, .vredsum 5 18 7 93), (.full 0x374F22C7, .vredmin 5 18 7 93), (.full 0x574F22C7, .vredmax 5 18 7 93),
  (.full 0x774F22C7, .vredand 5 18 7 93), (.full 0x974F22C7, .vredor 5 18 7 93), (.full 0xB74F22C7, .vredxor 5 18 7 93),
  (.full 0xD74F22C7, .vscan 5 18 7 93), (.full 0xF74F22C7, .vscanx 5 18 7 93), (.full 0x2ECF22C9, .vslideup 5 18 39 93),
  (.full 0x6ECF22C9, .vslidedn 5 18 39 93), (.full 0xAECF22C9, .vslide1up 5 18 39 93),
  (.full 0xEECF22C9, .vslide1dn 5 18 39 93), (.full 0x174F22CB, .vperm 5 18 7 93), (.full 0x374122CB, .vcompress 5 18 93),
  (.full 0x574122CB, .vexpand 5 18 93), (.full 0x774122CB, .vrev 5 18 93), (.full 0x974F22CB, .vzip 5 18 7 93),
  (.full 0xB74122CB, .vunzip 5 18 93), (.full 0xD74122CB, .vconflict 5 18 93)] : List (Encoded × Instr)).all (fun x => decode x.1 == .ok x.2) = true := by decide +kernel

/-- Majors 38 to 40: words with their fields placed by 02_encoding.md R51, R52 and R57 to R60, and what they decode to. -/
theorem test_decode_lane_mask : ([
  (.full 0xBB4F22CD, .vcvt 5 18 7 10 93), (.full 0x0134A6CF, .mand 77 82 9), (.full 0x1134A6CF, .mor 77 82 9),
  (.full 0x2134A6CF, .mxor 77 82 9), (.full 0x3134A6CF, .mandn 77 82 9), (.full 0x4134A6CF, .morn 77 82 9),
  (.full 0x5134A6CF, .mnand 77 82 9), (.full 0x6134A6CF, .mnor 77 82 9), (.full 0x7134A6CF, .mxnor 77 82 9),
  (.full 0x8014A6CF, .mmv 77 82), (.full 0x9014A6CF, .mnot 77 82), (.full 0xA014A6CF, .msetbf 77 82),
  (.full 0xB014A6CF, .msetif 77 82), (.full 0xC014A6CF, .msetof 77 82), (.full 0xD00026CF, .mclr 77),
  (.full 0xE00026CF, .mset 77), (.full 0x000122D1, .vext 5 18), (.full 0x03740051, .mpop 93), (.full 0x05740051, .mfind 93),
  (.full 0x07740051, .mbany 93), (.full 0x09740051, .mball 93)] : List (Encoded × Instr)).all (fun x => decode x.1 == .ok x.2) = true := by decide +kernel

/-- Majors 42 to 46: words with their fields placed by 02_encoding.md R51, R52 and R57 to R60, and what they decode to. -/
theorem test_decode_port : ([
  (.full 0x5D9D22D5, .vld 5 18 39 93), (.full 0xDD9D22D5, .vst 5 18 39 93), (.full 0x5D9D22D7, .vlds 5 18 39 93),
  (.full 0xDD9D22D7, .vsts 5 18 39 93), (.full 0x2E9D22D9, .vldx 5 18 7 93), (.full 0x6E9D22D9, .vstx 5 18 7 93),
  (.full 0x5D9D22DB, .vldff 5 18 39 93), (.full 0xDD9D22DB, .vldsff 5 18 39 93), (.full 0x229922DD, .vldI 5 18 2214),
  (.full 0x629922DD, .vstI 5 18 2214), (.full 0xA29922DD, .vldffI 5 18 2214)] : List (Encoded × Instr)).all (fun x => decode x.1 == .ok x.2) = true := by decide +kernel

/-- Majors 47 to 49: words with their fields placed by 02_encoding.md R51, R52 and R57 to R60, and what they decode to. -/
theorem test_decode_stream_copy : ([
  (.full 0x0024505F, .tbindl 5 18), (.full 0x4024505F, .tbinds 5 18), (.full 0x8000505F, .tfree 5),
  (.full 0xC000505F, .tflush 5), (.full 0x2E8022E1, .tget 5 2 93), (.full 0x6E8022E1, .tsend 5 2 93),
  (.full 0x153A42E3, .acopy 5 18 39 10), (.full 0x2A000063, .cwait 5), (.full 0x4A000063, .ctest 5)] : List (Encoded × Instr)).all (fun x => decode x.1 == .ok x.2) = true := by decide +kernel

/-- Majors 50 to 54: words with their fields placed by 02_encoding.md R51, R52 and R57 to R60, and what they decode to. -/
theorem test_decode_fabric : ([
  (.full 0x001642E5, .fload 5 178), (.full 0x20164065, .fstart 178), (.full 0x40164065, .fstop 178),
  (.full 0x60164065, .fdrain 178), (.full 0x80164065, .fstat 178), (.full 0x2ECF22E7, .fgather 5 18 39 93),
  (.full 0x6ECF22E7, .fscatter 5 18 39 93), (.full 0xAECF22E7, .fwgather 5 18 39 93), (.full 0x2ECF22E9, .vamoadd 5 18 39 93),
  (.full 0x6ECF22E9, .vamomin 5 18 39 93), (.full 0xAECF22E9, .vamomax 5 18 39 93), (.full 0xEECF22E9, .fas 5 18 39 93),
  (.full 0x2E8F22EB, .awadd 5 18 7 93), (.full 0x6E8F22EB, .awmin 5 18 7 93), (.full 0xAE8F22EB, .awmax 5 18 7 93),
  (.full 0x003A42ED, .awopen 5 18 7), (.full 0x2028006D, .accmerge 5), (.full 0x4028006D, .awdiscard 5)] : List (Encoded × Instr)).all (fun x => decode x.1 == .ok x.2) = true := by decide +kernel

/-- Major 55: words with their fields placed by 02_encoding.md R51, R52 and R57 to R60, and what they decode to. -/
theorem test_decode_chain : ([
  (.full 0x0000A06F, .chform 5), (.full 0x0200A06F, .chrun 5), (.full 0x0400006F, .chwait), (.full 0x0600006F, .chbreak),
  (.full 0x0800006F, .chfree), (.full 0x0A00006F, .chstat), (.full 0x0C00A06F, .chidx 5), (.full 0x0E0002EF, .qrd 5),
  (.full 0x100242EF, .qwr 5 18), (.full 0x120002EF, .qlen 5)] : List (Encoded × Instr)).all (fun x => decode x.1 == .ok x.2) = true := by decide +kernel

/-- Majors 56 and 57: words with their fields placed by 02_encoding.md R51, R52 and R57 to R60, and what they decode to. -/
theorem test_decode_matrix : ([
  (.full 0x054E92F1, .mmac 5 18 39 10), (.full 0x254E92F1, .mmacsa 5 18 39 10), (.full 0x454E92F1, .mmacsb 5 18 39 10),
  (.full 0x600092F1, .mldc 5 18), (.full 0x938092F1, .mstc 5 18 39), (.full 0xA00002F1, .mzero 5),
  (.full 0xD3A42871, .mskip 5 18 39), (.full 0xE0002871, .mshape 5), (.full 0x13A42873, .mprune 5 18 39),
  (.full 0x200092F3, .mnode 5 18), (.full 0x400002F3, .mfill 5), (.full 0x600002F3, .mwait 5),
  (.full 0x800092F3, .mscale 5 18), (.full 0xA00002F3, .mstat 5)] : List (Encoded × Instr)).all (fun x => decode x.1 == .ok x.2) = true := by decide +kernel

/-- Majors 58 to 61: words with their fields placed by 02_encoding.md R51, R52 and R57 to R60, and what they decode to. -/
theorem test_decode_gate_task_link : ([
  (.full 0x0090A075, .gpost 5 18), (.full 0x033A42F5, .gpostPayload 5 18 39), (.full 0x213A42F5, .gwait 5 18 39),
  (.full 0x413A42F5, .gtry 5 18 39), (.full 0x600242F5, .gread 5 18), (.full 0x813A42F5, .gopen 5 18 39),
  (.full 0xA000A075, .gclose 5), (.full 0x013A42F7, .fclaim 5 18 39), (.full 0x02000077, .fend),
  (.full 0x0490A077, .sigdec 5 18), (.full 0x0690A077, .sigwait 5 18), (.full 0x0890A077, .launch 5 18),
  (.full 0x053A42F9, .lput 5 18 39 2), (.full 0x153A42F9, .lget 5 18 39 2), (.full 0x253A42F9, .lcred 5 18 39 2),
  (.full 0x353A42F9, .lcgat 5 18 39 2), (.full 0x453A42F9, .lcbc 5 18 39 2), (.full 0x5A000079, .lwait 5),
  (.full 0x60000079, .lfence), (.full 0x7A000079, .ltest 5), (.full 0x0090A07B, .ctxsave 5 18),
  (.full 0x0290A07B, .ctxload 5 18), (.full 0x053A42FB, .dbgwin 5 18 39)] : List (Encoded × Instr)).all (fun x => decode x.1 == .ok x.2) = true := by decide +kernel

/-! ### A package in which accesses succeed -/

/-- Cached pages that lead where the tables of `ready` lead. -/
def Leads (l : List CachedPage) : Prop := ∀ c ∈ l, c.tile = false ∧ c.loc = c.page * 0x2000 ∧ c.gpage = c.page

/-- The entry in hand has stored into no bad granule, and its pages lead where the tables lead. -/
def Works (k : Option Work) : Prop := ∀ x, k = some x → x.stores = [] ∧ Leads x.pins

/-- A package whose PF tables are those of `ready`, without errors and with no request to fail, with cached pages that lead where the
tables lead. -/
structure Flat (s : State) : Prop where
  root : (s.funcs[0]?).map Func.root = some 0x200000
  ecc : s.ecc = []
  wf : Memory.wf s.mem
  ptr : (dwLocs 0x200000).map (Memory.read s.mem) = toBytes 8 0x210001
  leaf : (dwLocs 0x210000).map (Memory.read s.mem) = toBytes 8 0xCF
  tlb : Leads s.tlb
  work : Works s.work
  late : s.hart.late = none

/-- An agent of the PF. -/
def pfAgent (p : BitVec 5) (c : Option (BitVec 4) := none) (k : Option (BitVec 32) := none) : Agent :=
  { host := true, part := p, core := c, fn := 0, task := k }

variable {α β : Type} {s : State} {p : BitVec 5} {c : Option (BitVec 4)} {k : Option (BitVec 32)}

theorem Flat.pte (h : Flat s) {a x : Nat} (f : Fail) (hl : levelOf a = .hbm 0 a) (m : s.mapped (pfAgent p c k) a = true)
    (e : (dwLocs a).map (Memory.read s.mem) = toBytes 8 x) (hx : ofBytes (toBytes 8 x) = x) :
    readPte (pfAgent p c k) a f s = .ok (word x) s := by
  have : readLocs (dwLocs a) f.addr s = .ok (toBytes 8 x) s := by
    rw [readLocs_good, e]; intro l _; unfold State.badAt; rw [h.ecc]; split <;> rfl
  have m' : s.mapped { pfAgent p c k with host := true } a = true := m
  simp only [readPte, m', Bool.not_true, Bool.false_eq_true, if_false, State.linkServes, hl, this, hx]

theorem Flat.walk1 (h : Flat s) (acc : Access) (va : Word) (hv : va.toNat < 2 ^ 30) :
    walk1 (pfAgent p c k) acc va walkLevels 0x200000 s = .ok (.phys va.toNat, 30) s := by
  have h1 : va.toNat / 2 ^ 43 % 2 ^ 13 = 0 := by omega
  have h2 : va.toNat / 2 ^ 30 % 2 ^ 13 = 0 := by omega
  have h3 : va.toNat % 2 ^ 30 = va.toNat := by omega
  have hm : ∀ a, levelOf a = .hbm 0 a → s.mapped (pfAgent p c k) a = true := fun a e => by simp [State.mapped, e, pfAgent]
  have p1 : tableLoc (pfAgent p c k) .load va 0x200000 s = .ok 0x200000 s := by
    simp only [tableLoc, pfAgent]
    show (if s.mapped (pfAgent p c k) 0x200000 = true then (pure 0x200000 : Acc Nat) else throw ⟨ePage, va, 0⟩) s = _
    rw [if_pos (hm _ (by decide +kernel))]; rfl
  have p2 : tableLoc (pfAgent p c k) .load va 0x210000 s = .ok 0x210000 s := by
    simp only [tableLoc, pfAgent]
    show (if s.mapped (pfAgent p c k) 0x210000 = true then (pure 0x210000 : Acc Nat) else throw ⟨ePage, va, 0⟩) s = _
    rw [if_pos (hm _ (by decide +kernel))]; rfl
  have r1 := fun f => h.pte (p := p) (c := c) (k := k) f (a := 0x200000) (x := 0x210001) (by decide +kernel) (hm _ (by decide +kernel)) h.ptr
    (by decide +kernel)
  have r2 := fun f => h.pte (p := p) (c := c) (k := k) f (a := 0x210000) (x := 0xCF) (by decide +kernel) (hm _ (by decide +kernel)) h.leaf
    (by decide +kernel)
  unfold Machine.walk1 walkLevels
  simp only [h1, Nat.mul_zero, Nat.add_zero]
  show EStateM.bind _ _ s = _
  simp only [EStateM.bind, p1]
  show EStateM.bind _ _ s = _
  simp only [EStateM.bind, r1]
  rw [if_neg (by decide +kernel), if_neg (by decide +kernel)]
  have e : pteAddr (word 0x210001) = 0x210000 := by decide +kernel
  rw [e]
  unfold Machine.walk1
  simp only [h2, Nat.mul_zero, Nat.add_zero]
  show EStateM.bind _ _ s = _
  simp only [EStateM.bind, p2]
  show EStateM.bind _ _ s = _
  simp only [EStateM.bind, r2]
  have e1 : pteRight (word 0xCF) acc = true := by cases acc <;> decide +kernel
  rw [if_neg (by decide +kernel), if_pos (by decide +kernel), if_neg (by rw [e1]; decide)]
  show EStateM.bind _ _ s = _
  have e2 : pteTile (word 0xCF) = false := by decide +kernel
  have e3 : pteAddr (word 0xCF) = 0 := by decide +kernel
  have e4 : ¬ (word 0xCF &&& adBits acc ≠ adBits acc) := by cases acc <;> decide +kernel
  simp only [EStateM.bind, get, getThe, MonadStateOf.get, EStateM.get, e2, e4, Bool.false_and, Bool.false_eq_true, if_false, e3, Nat.zero_add, h3]
  rfl

/-- The access can only have added a cached page, to the cache and to those of the entry in hand. -/
def AddsPage (s t : State) : Prop := ∃ l k, t = { s with tlb := l, work := k } ∧ Leads l ∧ Works k ∧ k.isSome = s.work.isSome

theorem AddsPage.flat {t : State} (g : AddsPage s t) (h : Flat s) : Flat t := by
  obtain ⟨l, k, rfl, hl, hk, -⟩ := g
  exact ⟨h.root, h.ecc, h.wf, h.ptr, h.leaf, hl, hk, h.late⟩

theorem Flat.adds (h : Flat s) : AddsPage s s := ⟨_, _, rfl, h.tlb, h.work, rfl⟩

theorem AddsPage.trans {t u : State} (g : AddsPage s t) (h : AddsPage t u) : AddsPage s u := by
  obtain ⟨l, k, rfl, -, -, e⟩ := g
  obtain ⟨l', k', rfl, a, b, e'⟩ := h
  exact ⟨l', k', rfl, a, b, e'.trans e⟩

theorem levelOf_low (a : Nat) (h : a < 2 ^ 30) : levelOf a = .hbm 0 a := by
  unfold levelOf localLevel; rw [if_pos (by omega), if_pos (by omega)]

theorem Flat.walkBoth (h : Flat s) (acc : Access) (va : Word) (hv : va.toNat < 2 ^ 30) :
    ∃ t, walkBoth (pfAgent p c k) acc va s = .ok (.phys va.toNat) t ∧ AddsPage s t := by
  have hr : ((s.funcs[(pfAgent p c k).fn.toNat]?).getD .reset).root.toNat = 0x200000 := by
    have := h.root
    simp at this; simp [pfAgent, this]
  have hm : s.mapped (pfAgent p c k) va.toNat = true := by simp [State.mapped, levelOf_low _ hv, pfAgent]
  have hw : Machine.walkBoth (pfAgent p c k) acc va s = .ok (.phys va.toNat) { s with
      tlb :=
        ({ fn := 0, part := p, host := true, task := k.getD 0, page := va.toNat / 0x2000, gpage := va.toNat / 0x2000,
           loc := va.toNat / 0x2000 * 0x2000, tile := false, r := false, w := false, x := false, dirty := false, span := 30,
           span2 := 13 } : CachedPage).shown acc ::
        s.tlb.filter (fun e => !(e.serves (pfAgent p c k) acc va.toNat)) } := by
    unfold Machine.walkBoth
    show EStateM.bind _ _ s = _
    simp only [EStateM.bind, get, getThe, MonadStateOf.get, EStateM.get, hr]
    show EStateM.bind _ _ s = _
    simp only [EStateM.bind, h.walk1 acc va hv]
    rw [if_pos (show (pfAgent p c k).host = true from rfl)]
    show EStateM.bind _ _ s = _
    simp only [EStateM.bind, EStateM.get]
    rw [if_pos hm]
    rfl
  refine ⟨_, hw, _, _, rfl, fun e he => ?_, h.work, rfl⟩
  rcases List.mem_cons.1 he with rfl | he
  · exact ⟨rfl, rfl, rfl⟩
  · exact h.tlb e (List.mem_filter.1 he).1

theorem Flat.target (_h : Flat s) (va : Word) (hv : va.toNat < 2 ^ 30) {e : CachedPage} (k1 : e.tile = false)
    (k2 : e.loc = e.page * 0x2000) (k3 : e.page = va.toNat / 0x2000) : e.target (pfAgent p c k) va s = .ok (.phys va.toNat) s := by
  have hm : s.mapped (pfAgent p c k) va.toNat = true := by simp [State.mapped, levelOf_low _ hv, pfAgent]
  have : e.loc + va.toNat % 0x2000 = va.toNat := by rw [k2, k3]; omega
  unfold CachedPage.target
  show EStateM.bind _ _ s = _
  simp only [EStateM.bind, get, getThe, MonadStateOf.get, EStateM.get, k1, Bool.false_eq_true, if_false, this, hm, if_true]
  rfl

theorem Flat.new (h : Flat s) (acc : Access) (va : Word) (hv : va.toNat < 2 ^ 30) :
    ∃ t, translateNew (pfAgent p c k) acc va s = .ok (.phys va.toNat) t ∧ AddsPage s t := by
  unfold translateNew
  show ∃ t, EStateM.bind _ _ s = _ ∧ _
  simp only [EStateM.bind, get, getThe, MonadStateOf.get, EStateM.get]
  cases hc : s.tlb.find? (fun e => e.serves (pfAgent p c k) acc va.toNat) with
  | none => exact h.walkBoth acc va hv
  | some e =>
    obtain ⟨k1, k2, -⟩ := h.tlb e (List.mem_of_find?_eq_some hc)
    have k3 := List.find?_some hc
    simp only [CachedPage.serves, CachedPage.isPage, Bool.and_eq_true, beq_iff_eq] at k3
    by_cases hu : (s.agrees (pfAgent p c k) acc va e || Config.usesOldEntry s.free) = true
    · simp only [hu, if_true]
      exact ⟨s, h.target va hv k1 k2 k3.1.1, h.adds⟩
    · simp only [hu]
      exact h.walkBoth acc va hv

theorem Flat.pinPage (h : Flat s) (acc : Access) (va : Word) (o : Option CachedPage)
    (ho : ∀ d, o = some d → d.tile = false ∧ d.loc = d.page * 0x2000 ∧ d.gpage = d.page) :
    ∃ t, pinPage (pfAgent p c k) acc va o s = .ok () t ∧ AddsPage s t := by
  have hp : ∀ {t : State} {d : CachedPage}, AddsPage s t → (d.tile = false ∧ d.loc = d.page * 0x2000 ∧ d.gpage = d.page) → AddsPage s (t.pin d) := by
    intro t d ⟨l, w, e, hl, hw, i⟩ hd
    subst e
    unfold State.pin
    cases w with
    | none => exact ⟨_, _, rfl, hl, hw, i⟩
    | some w =>
      refine ⟨_, _, rfl, hl, fun x hx => ?_, i⟩
      obtain ⟨w1, w2⟩ := hw w rfl
      cases hx
      refine ⟨w1, fun y hy => ?_⟩
      rcases List.mem_cons.1 hy with rfl | hy
      · exact hd
      · exact w2 y (List.mem_filter.1 hy).1
  unfold Machine.pinPage
  cases hf : s.tlb.find? (fun e => e.serves (pfAgent p c k) acc va.toNat) with
  | none => exact ⟨s, by cases o <;> rfl, h.adds⟩
  | some d =>
    have hd := h.tlb d (List.mem_of_find?_eq_some hf)
    cases o with
    | none => exact ⟨_, rfl, hp h.adds hd⟩
    | some e =>
      refine ⟨_, rfl, hp (d := e.join d) ⟨s.tlb, s.work.map (fun k => { k with pins := k.pins.filter (· != e) }), rfl, h.tlb, ?_, ?_⟩ (ho e rfl)⟩
      · intro x hx
        cases hw : s.work with
        | none => rw [hw] at hx; cases hx
        | some w =>
          rw [hw] at hx
          cases hx
          obtain ⟨w1, w2⟩ := h.work w hw
          exact ⟨w1, fun y hy => w2 y (List.mem_filter.1 hy).1⟩
      · cases s.work <;> rfl

theorem Flat.pin (h : Flat s) (d : CachedPage) (hd : d.tile = false ∧ d.loc = d.page * 0x2000 ∧ d.gpage = d.page) : AddsPage s (s.pin d) := by
  unfold State.pin
  cases hw : s.work with
  | none => exact h.adds
  | some w =>
    refine ⟨s.tlb, some { w with pins := d :: w.pins.filter (· != d) }, rfl, h.tlb, fun x hx => ?_, by rw [hw]; rfl⟩
    obtain ⟨w1, w2⟩ := h.work w hw
    cases hx
    refine ⟨w1, fun y hy => ?_⟩
    rcases List.mem_cons.1 hy with rfl | hy
    · exact hd
    · exact w2 y (List.mem_filter.1 hy).1

/-- Another 8 KiB of a page in which addresses stay as they are. -/
def placed (d : CachedPage) (va : Word) : CachedPage :=
  { d with page := va.toNat / 0x2000, gpage := va.toNat / 0x2000, loc := va.toNat / 0x2000 * 0x2000 }

theorem Flat.beside (acc : Access) (va : Word) (s : State) {d : CachedPage} (k1 : d.tile = false) (k3 : d.gpage = d.page) :
    d.beside (pfAgent p c k) acc va s = .ok (placed d va) s := by
  have e : d.page * 0x2000 + va.toNat - d.page * 0x2000 = va.toNat := by omega
  cases d
  simp only at k1 k3 e
  subst k1; subst k3
  unfold Machine.CachedPage.beside
  simp only [e]
  rfl

theorem Flat.translate (h : Flat s) (acc : Access) (va : Word) (hv : va.toNat < 2 ^ 30) :
    ∃ t, translate (pfAgent p c k) acc va s = .ok (.phys va.toNat) t ∧ AddsPage s t := by
  unfold Machine.translate
  rw [if_neg (by simp [bits]; omega)]
  show ∃ t, EStateM.bind _ _ s = _ ∧ _
  simp only [EStateM.bind, get, getThe, MonadStateOf.get, EStateM.get]
  cases hw : s.work with
  | none => exact h.new acc va hv
  | some w =>
    simp only
    cases hf : w.pins.find? (fun e => e.isPage (pfAgent p c k) va.toNat) with
    | none =>
      cases hb : w.pins.find? (fun e => e.covers (pfAgent p c k) va.toNat) with
      | none =>
        obtain ⟨t, e, g⟩ := h.new (p := p) (c := c) (k := k) acc va hv
        obtain ⟨u, e', g'⟩ := (g.flat h).pinPage (p := p) (c := c) (k := k) acc va none (fun _ hd => by cases hd)
        refine ⟨u, ?_, g.trans g'⟩
        simp only
        show EStateM.bind _ _ s = _
        simp only [EStateM.bind, e]
        show EStateM.bind _ _ t = _
        simp only [EStateM.bind, e']
        rfl
      | some d =>
        obtain ⟨k1, k2, k3⟩ := (h.work w hw).2 d (List.mem_of_find?_eq_some hb)
        have hd := fun (s : State) => Flat.beside (p := p) (c := c) (k := k) acc va s k1 k3
        have done : ∀ t, AddsPage s t → ∃ u, (do
            let d ← d.beside (pfAgent p c k) acc va
            modify (·.pin (d.shown acc))
            d.target (pfAgent p c k) va : Acc Target) t = .ok (.phys va.toNat) u ∧ AddsPage s u := fun t g => by
          have g' := (g.flat h).pin ((placed d va).shown acc) ⟨k1, rfl, rfl⟩
          refine ⟨t.pin ((placed d va).shown acc), ?_, g.trans g'⟩
          show EStateM.bind _ _ t = _
          simp only [EStateM.bind, hd]
          exact (g'.flat (g.flat h)).target va hv (e := placed d va) k1 rfl rfl
        by_cases hg : d.grants acc = true
        · simp only [hg, Bool.not_true, Bool.false_eq_true, if_false]
          exact done s h.adds
        · obtain ⟨t, e, g⟩ := h.new (p := p) (c := c) (k := k) acc va hv
          obtain ⟨u, e', g'⟩ := done t g
          refine ⟨u, ?_, g'⟩
          simp only [hg, Bool.not_false, if_true]
          show EStateM.bind _ _ s = _
          simp only [EStateM.bind, e]
          exact e'
    | some d =>
      obtain ⟨k1, k2, k4⟩ := (h.work w hw).2 d (List.mem_of_find?_eq_some hf)
      have k3 := List.find?_some hf
      simp only [CachedPage.isPage, Bool.and_eq_true, beq_iff_eq] at k3
      by_cases hg : d.grants acc = true
      · simp only [hg, if_true]
        exact ⟨s, h.target va hv k1 k2 k3.1, h.adds⟩
      · simp only [hg]
        obtain ⟨t, e, g⟩ := h.new (p := p) (c := c) (k := k) acc va hv
        obtain ⟨u, e', g'⟩ := (g.flat h).pinPage (p := p) (c := c) (k := k) acc va (some d) (fun _ hd => by cases hd; exact ⟨k1, k2, k4⟩)
        refine ⟨u, ?_, g.trans g'⟩
        show EStateM.bind _ _ s = _
        simp only [EStateM.bind, e]
        show EStateM.bind _ _ t = _
        simp only [EStateM.bind, e']
        exact (g'.flat (g.flat h)).target va hv k1 k2 k3.1

/-- Bytes below 1 GiB are found, and nothing but the cached pages changes. -/
theorem Flat.locate (h : Flat s) (acc : Access) (va : Word) (hv : va.toNat < 2 ^ 30) (n : Nat) :
    ∃ t, locate (pfAgent p c k) acc va n s = .ok ((List.range n).map (va.toNat + ·)) t ∧ AddsPage s t := by
  obtain ⟨t, ht, hl⟩ := h.translate (p := p) (c := c) (k := k) acc va hv
  refine ⟨t, ?_, hl⟩
  show EStateM.bind _ _ s = _
  simp only [EStateM.bind, ht]
  show EStateM.bind get _ _ = _
  simp only [EStateM.bind, get, getThe, MonadStateOf.get, EStateM.get, State.linkServes, levelOf_low _ hv]
  rfl

theorem Flat.write (h : Flat s) (fn : BitVec 8) (va : Word) (n : Nat) (hv : va.toNat + n ≤ 0x200000) (bs : List Byte) :
    Flat (s.writeLocs fn va (((List.range n).map (va.toNat + ·)).zip bs)) := by
  rw [State.writeLocs_good _ _ _ _ fun c _ => by unfold State.badAt; rw [h.ecc]; split <;> rfl]
  generalize hc : List.zip ((List.range n).map (va.toNat + ·)) bs = cs
  have ho : ∀ a, 0x200000 ≤ a → a ∉ cs.map Prod.fst := by
    intro a ha hm
    obtain ⟨c, hc', rfl⟩ := List.mem_map.1 hm
    rw [← hc] at hc'
    have := List.of_mem_zip hc'
    obtain ⟨i, hi, e⟩ := List.mem_map.1 this.1
    simp at hi; omega
  have hs := setBytes_only (fun _ => false) cs s
  simp only [Bool.false_eq_true, if_false] at hs
  have hwf : Memory.wf (cs.foldl (fun (t : State) c => t.setByte c.1 c.2) s).mem := by
    simpa using setBytes_wf (fun _ => false) cs s h.wf
  have hread : ∀ a, 0x200000 ≤ a → Memory.read (cs.foldl (fun (t : State) c => t.setByte c.1 c.2) s).mem a = Memory.read s.mem a :=
    fun a ha => setBytes_outside cs s h.wf a (ho a ha)
  refine ⟨?_, ?_, hwf, ?_, ?_, ?_, ?_, ?_⟩
  · rw [hs]; exact h.root
  · rw [hs]; exact h.ecc
  · rw [← h.ptr]; exact List.map_congr_left fun a ha => hread a (by simp [dwLocs] at ha; omega)
  · rw [← h.leaf]; exact List.map_congr_left fun a ha => hread a (by simp [dwLocs] at ha; omega)
  · rw [hs]; exact h.tlb
  · rw [hs]; exact h.work
  · rw [hs]; exact h.late

/-- An access that succeeds in such a package and leaves one, with a property of its value. -/
def Okay (a : Acc α) (P : α → Prop := fun _ => True) : Prop := ∀ s, Flat s → ∃ x t, a s = .ok x t ∧ Flat t ∧ P x

theorem Okay.pure {P : α → Prop} (x : α) (h : P x) : Okay (pure x : Acc α) P := fun s hs => ⟨x, s, rfl, hs, h⟩

theorem Okay.bind {a : Acc α} {f : α → Acc β} {P : α → Prop} {Q : β → Prop} (h : Okay a P) (g : ∀ x, P x → Okay (f x) Q) :
    Okay (a >>= f) Q := fun s hs => by
  obtain ⟨x, t, e, ht, hx⟩ := h s hs
  obtain ⟨y, u, e', hu, hy⟩ := g x hx t ht
  refine ⟨y, u, ?_, hu, hy⟩
  show EStateM.bind _ _ s = _
  simp only [EStateM.bind, e, e']

theorem Okay.mapM {f : α → Acc β} (xs : List α) (h : ∀ x ∈ xs, Okay (f x)) : Okay (xs.mapM f) fun ys => ys.length = xs.length := by
  induction xs with
  | nil => exact Okay.pure _ rfl
  | cons x xs ih =>
    rw [List.mapM_cons]
    exact (h x (by simp)).bind fun y _ => (ih fun z hz => h z (by simp [hz])).bind fun ys e => Okay.pure _ (by simp [e])

theorem Okay.forM {f : α → Acc PUnit} (xs : List α) (h : ∀ x ∈ xs, Okay (f x)) : Okay (xs.forM f) := by
  induction xs with
  | nil => exact Okay.pure _ trivial
  | cons x xs ih => exact (h x (by simp)).bind fun _ _ => ih fun z hz => h z (by simp [hz])

theorem Okay.locate (acc : Access) (va : Word) (hv : va.toNat < 2 ^ 30) (n : Nat) : Okay (Machine.locate (pfAgent p c k) acc va n) :=
  fun s h => by
    obtain ⟨t, e, g⟩ := h.locate (p := p) (c := c) (k := k) acc va hv n
    exact ⟨_, t, e, g.flat h, trivial⟩

theorem Okay.load (va : Word) (hv : va.toNat < 2 ^ 30) (n : Nat) : Okay (loadElem (pfAgent p c k) va n) := fun s h => by
  obtain ⟨t, e, g⟩ := h.locate (p := p) (c := c) (k := k) .load va hv n
  have hb : ∀ l ∈ (List.range n).map (va.toNat + ·), t.badAt l = false := fun l _ => by
    unfold State.badAt; rw [(g.flat h).ecc]; split <;> rfl
  exact ⟨_, t, loadElem_found e (g.flat h).late hb, g.flat h, trivial⟩

theorem Okay.store (va : Word) (n : Nat) (hv : va.toNat + n ≤ 0x200000) (x : Nat) : Okay (storeElem (pfAgent p c k) va n x) := fun s h => by
  obtain ⟨t, e, g⟩ := h.locate (p := p) (c := c) (k := k) .store va (by omega) n
  exact ⟨(), _, storeElem_found e (g.flat h).late, (g.flat h).write 0 va n hv _, trivial⟩

/-- An address with an offset that does not wrap. -/
theorem toNat_offset (va : Word) (i : Nat) (h : va.toNat + i < 2 ^ 64) : (va + word i).toNat = va.toNat + i := by
  simp only [word, BitVec.toNat_add, BitVec.toNat_ofNat]; omega

theorem Okay.loadDws (va : Word) (n : Nat) (hv : va.toNat + 8 * n < 2 ^ 30) : Okay (loadDws (pfAgent p c k) va n) fun ws => ws.length = n := by
  have := Okay.mapM (f := fun i => do let x ← loadElem (pfAgent p c k) (va + word (8 * i)) 8; Pure.pure (word x)) (List.range n) fun i hi => by
    have := List.mem_range.1 hi
    exact (Okay.load _ (by rw [toNat_offset] <;> omega) 8).bind fun _ _ => Okay.pure _ trivial
  simp only [List.length_range] at this
  exact this

theorem Okay.storeDws (va : Word) (xs : List Word) (hv : va.toNat + 8 * xs.length < 0x200000) : Okay (storeDws (pfAgent p c k) va xs) :=
  Okay.forM _ fun q hq => by
    have := List.snd_lt_of_mem_zipIdx hq
    exact Okay.store _ 8 (by rw [toNat_offset] <;> omega) _

theorem Okay.loadBytes (va : Word) (n : Nat) (hv : va.toNat + n < 2 ^ 30) : Okay (loadBytes (pfAgent p c k) va n) fun ws => ws.length = n := by
  have := Okay.mapM (f := fun i => do let x ← loadElem (pfAgent p c k) (va + word i) 1; Pure.pure (BitVec.ofNat 8 x)) (List.range n) fun i hi => by
    have := List.mem_range.1 hi
    exact (Okay.load _ (by rw [toNat_offset] <;> omega) 1).bind fun _ _ => Okay.pure _ trivial
  simp only [List.length_range] at this
  exact this

theorem Okay.group (va : Word) (t : Ty) (kg g : Nat) (hg : g < kg) (hv : va.toNat + 32 * kg * (4 * tyWidth t) < 2 ^ 30) :
    Okay (denseGroup (pfAgent p c k) va t kg false g) := by
  unfold denseGroup
  refine (Okay.mapM _ fun i hi => ?_).bind fun ls _ => Okay.bind (P := fun _ => True) (Okay.pure _ trivial) fun _ _ => Okay.pure _ trivial
  have h1 := List.mem_range.1 hi
  have h2 : i * kg + g + 1 ≤ 32 * kg := by nlinarith
  have h3 : (i * kg + g + 1) * (4 * tyWidth t) ≤ 32 * kg * (4 * tyWidth t) := Nat.mul_le_mul_right _ h2
  have h4 : i * kg * (4 * tyWidth t) + g * (4 * tyWidth t) + 4 * tyWidth t = (i * kg + g + 1) * (4 * tyWidth t) := by ring
  exact (Okay.loadBytes _ _ (by rw [toNat_offset] <;> omega)).bind fun _ _ => Okay.pure _ trivial

theorem Okay.places (val : Nat → Nat) (addr : Nat → Word) (idx : Nat → Nat) (w : Nat) (hw : w ≠ 4) :
    (is : List Nat) → (∀ i ∈ is, (addr i).toNat % (w / 8) = 0 ∧ (addr i).toNat + w / 8 ≤ 0x200000) →
    Okay (Claims.storePlaces (pfAgent p c k) w addr idx val is)
  | [], _ => Okay.pure _ trivial
  | i :: is, h => by
    obtain ⟨h1, h2⟩ := h i (by simp)
    unfold Claims.storePlaces
    refine Okay.bind (P := fun _ => True) (fun s hs => ?_) fun _ _ => Okay.bind (P := fun _ => True) ?_ fun _ _ =>
      (Okay.places val addr idx w hw is fun j hj => h j (by simp [hj])).bind fun _ _ => Okay.pure _ trivial
    · obtain ⟨t, e, g⟩ := hs.locate (p := p) (c := c) (k := k) .store (addr i) (by omega) (max 1 (w / 8))
      exact ⟨(List.range (max 1 (w / 8))).map ((addr i).toNat + ·), s, by simp only [e], hs, trivial⟩
    · unfold storeAt
      rw [if_neg hw]
      refine Okay.bind (P := fun _ => True) ?_ fun _ _ => Okay.store _ _ h2 _
      unfold aligned
      rw [if_pos h1]
      exact Okay.pure _ trivial

theorem Okay.late (st : Bool) (locs : List Nat) (va : Word) (n : Nat) : Okay (lateAt (pfAgent p c k) st locs va n) := fun s h => by
  refine ⟨(), s, ?_, h, trivial⟩
  have e := h.late
  unfold State.hart at e
  unfold lateAt
  simp only [e]

theorem Okay.mayStore (runs : List (Word × Nat)) (h : ∀ x ∈ runs, x.1.toNat + x.2 ≤ 0x200000) : Okay (mayStore (pfAgent p c k) runs) := by
  have hv : ∀ va ∈ runs.flatMap (fun (va, n) => (List.range n).map (fun i => va + word i)), va.toNat < 2 ^ 30 := by
    intro va hva
    obtain ⟨x, hx, hy⟩ := List.mem_flatMap.1 hva
    obtain ⟨i, hi, rfl⟩ := List.mem_map.1 hy
    have := h x hx
    have := List.mem_range.1 hi
    rw [toNat_offset] <;> omega
  unfold Machine.mayStore
  refine (Okay.forM _ fun va hva => ?_).bind fun _ _ => Okay.forM _ fun va hva => ?_
  · exact (Okay.locate _ _ (hv va hva) _).bind fun _ _ => Okay.pure _ trivial
  · exact (Okay.locate _ _ (hv va hva) _).bind fun _ _ => Okay.late _ _ _ _

theorem Okay.bytes (va : Word) (bs : List Byte) (hv : va.toNat + bs.length ≤ 0x200000) : Okay (Claims.putBytes (pfAgent p c k) va 1 bs) := by
  unfold Claims.putBytes
  refine (Okay.mayStore _ fun x hx => by rw [List.mem_singleton.1 hx]; exact hv).bind fun _ _ => Okay.places _ _ _ 8 (by decide) _ fun j hj => ⟨Nat.mod_one _, ?_⟩
  have := List.mem_range.1 hj
  have := toNat_offset va (j * 1) (by omega)
  simp only [word] at this
  omega

theorem Okay.runs (xs : List (Word × List Byte)) (h : ∀ x ∈ xs, x.1.toNat + x.2.length ≤ 0x200000) :
    Okay (Claims.putRuns (pfAgent p c k) xs) := by
  unfold Claims.putRuns
  refine (Okay.mayStore _ fun x hx => by
    obtain ⟨y, hy, rfl⟩ := List.mem_map.1 hx
    exact h y hy).bind fun _ _ => ?_
  refine (Okay.mapM xs fun x hx => ?_).bind (Q := fun _ => True) fun _ _ => Okay.pure _ trivial
  have := h x hx
  refine Okay.places _ _ _ 8 (by decide) _ fun j hj => ⟨Nat.mod_one _, ?_⟩
  have hj' := List.mem_range.1 hj
  have := toNat_offset x.1 j (by omega)
  simp only [word] at this
  omega

theorem flat_ready : Flat ready := ⟨by decide +kernel, by decide +kernel, by decide +kernel, by decide +kernel, by decide +kernel,
  (fun c hc => by cases hc), (fun x e => by cases e), by decide +kernel⟩

theorem Flat.setHart (h : Flat s) (g : Hart) (l : g.late = none) : Flat (s.setHart g) :=
  ⟨h.root, h.ecc, h.wf, h.ptr, h.leaf, h.tlb, h.work, by simpa [State.hart, State.setHart] using l⟩

theorem Flat.on (h : Flat s) (f : Hart → Hart) (l : (f s.hart).late = none := by rfl) : Flat (State.on s f) := h.setHart _ l

/-- An access of the hart of such a package, as an entry or a transfer makes it. -/
theorem Okay.worked {a : Acc α} {P : α → Prop} (h : Okay a P) (hs : Flat s) : ∃ x u, working a s = .ok x u ∧ Flat u := by
  unfold working
  by_cases w : s.work.isSome = true
  · obtain ⟨x, u, e, hu, -⟩ := h s hs
    exact ⟨x, u, by simp only [w, if_true, e], hu⟩
  · have hw : Works (some ⟨[], []⟩) := fun y hy => by cases hy; exact ⟨rfl, fun c hc => by cases hc⟩
    obtain ⟨x, u, e, hu, -⟩ := h { s with work := some ⟨[], []⟩ } ⟨hs.root, hs.ecc, hs.wf, hs.ptr, hs.leaf, hs.tlb, hw, hs.late⟩
    refine ⟨x, u.closeWork, by simp only [w, e]; rfl, ?_⟩
    unfold State.closeWork
    cases k : u.work with
    | none => exact hu
    | some y =>
      have : y.stores = [] := (hu.work y k).1
      simp only [this]
      exact ⟨hu.root, hu.ecc, hu.wf, hu.ptr, hu.leaf, hu.tlb, (fun _ e => by cases e), hu.late⟩

/-- An access of the hart of such a package. -/
theorem Okay.there {a : Acc α} {P : α → Prop} (h : Okay a P) (hs : Flat s) : ∃ x u, a s = .ok x u ∧ Flat u := by
  obtain ⟨x, u, e, hu, -⟩ := h s hs
  exact ⟨x, u, e, hu⟩

/-! ### Small steps -/

/-- 0x7FFFFFFFFFFFFFFF + 1 wraps (05_hart.md R152). -/
theorem test_add_wraps : nextHas (exec (.add 5 6 7) (withS [(6, 0x7FFFFFFFFFFFFFFF), (7, 1)])) (fun t =>
    t.hart.sreg 5 == 0x8000000000000000 && t.hart.pc == 0x1004) = true := by decide +kernel
/-- s0 stays 0 (05_hart.md R143). -/
theorem test_s0_discards : nextHas (exec (.addi 0 6 1) (withS [(6, 9)])) (fun t => t.hart.sreg 0 == 0 && t.hart.ld == 0) = true := by
  decide +kernel
/-- The most negative number divided by -1 is itself, and division by 0 gives all ones and DZ (03_arithmetic.md R76). -/
theorem test_division_corners : (nextHas (exec (.div 5 6 7) (withS [(6, 0x8000000000000000), (7, 0xFFFFFFFFFFFFFFFF)])) (fun t =>
    t.hart.sreg 5 == 0x8000000000000000 && t.hart.vstat == 0) &&
    nextHas (exec (.div 5 6 7) (withS [(6, 12)])) (fun t => t.hart.sreg 5 == 0xFFFFFFFFFFFFFFFF && t.hart.vstat == 2)) = true := by
  decide +kernel
/-- `sbnz` leaves its loop when the difference is 0 (05_hart.md R156). -/
theorem test_sbnz_ends : nextHas (exec (.sbnz 9 10 0xFFA) (withS [(9, 1), (10, 1)])) (fun t =>
    t.hart.sreg 9 == 0 && t.hart.pc == 0x1004) = true := by decide +kernel
/-- `ldn16` of 0xFFFE at an address above 0 zero-extends, little-endian (00_scope.md R1; 05_hart.md R154). -/
theorem test_load_bytes : nextHas (exec (.ldn16 5 6 2) (((withS [(6, 0x2000)]).setByte 0x2002 0xFE).setByte 0x2003 0xFF)) (fun t =>
    t.hart.sreg 5 == 0xFFFE) = true := by decide +kernel
/-- `st32` writes four bytes, lowest first, and no fifth (05_hart.md R154). -/
theorem test_store_bytes : nextHas (exec (.st32 5 6 0) (withS [(5, 0x1122334455667788), (6, 0x2000)])) (fun t =>
    Memory.read t.mem 0x2000 == 0x88 && Memory.read t.mem 0x2003 == 0x55 && Memory.read t.mem 0x2004 == 0) = true := by decide +kernel
/-- `amomaxn` compares as unsigned numbers (05_hart.md R161). -/
theorem test_amomaxn : nextHas (exec (.amomaxn 5 6 7 0 0) (withS [(6, 0x2000), (7, 0xFFFFFFFFFFFFFFFF)])) (fun t =>
    t.hart.sreg 5 == 0 && Memory.read t.mem 0x2007 == 0xFF) = true := by decide +kernel
/-- A misaligned load raises `E_ALIGN` (code 2) with FADDR (04_memory_model.md R114; 05_hart.md R149). -/
theorem test_misaligned : nextHas (exec (.ld32 5 6 0) (withS [(6, 0x2002)])) (fun t =>
    t.hart.cause == 2 && t.hart.faddr == 0x2002 && t.hart.epc == 0x1000 && t.hart.pc == 0x4000) = true := by decide +kernel
/-- `trap` saves pc + 4 and `brk` the pc (05_hart.md R165, R167). -/
theorem test_trap_and_brk : (nextHas (exec .trap ready) (fun t => t.hart.epc == 0x1004 && t.hart.cause == 6) &&
    nextHas (exec .brk ready) (fun t => t.hart.epc == 0x1000 && t.hart.cause == 7)) = true := by decide +kernel
/-- `csrw` of STATUS clears CLAMP by writing 0 there and sets nothing (05_hart.md R147, R163). -/
theorem test_sticky : nextHas (exec (.csrw 0 0) (State.on ready fun h => { h with status := 0x80 })) (fun t => t.hart.status == 0) = true := by
  decide +kernel
/-- `waitt` for a time to come stays at its pc (05_hart.md R167). -/
theorem test_waitt_waits : nextHas (exec (.waitt 6) (withS [(6, 5)])) (fun t => t.hart.pc == 0x1000) = true := by decide +kernel
/-- `fadd` of 1.0 and 2.0 in f32 is 3.0 (03_arithmetic.md R85). -/
theorem test_fadd : nextHas (exec (.fadd 1 2 3 0) (State.on ready fun h => { h with f := (h.f.set 2 0x3F800000).set 3 0x40000000 })) (fun t =>
    t.hart.freg 1 == 0x40400000 && t.hart.vstat == 0) = true := by decide +kernel
/-- `fdiv` of 1.0 by 0 is infinity with DZ (03_arithmetic.md R94). -/
theorem test_fdiv_by_zero : nextHas (exec (.fdiv 1 2 3 0) (State.on ready fun h => { h with f := h.f.set 2 0x3F800000 })) (fun t =>
    t.hart.freg 1 == 0x7F800000 && t.hart.vstat == 2) = true := by decide +kernel
/-- A second trap inside the handler is a double trap: the hart stops and CAUSE stays (05_hart.md R168). -/
theorem test_double_trap : nextHas (exec .trap inHandler) (fun t => t.hart.run == .stopped && t.hart.cause == 0 &&
    t.records.length == 1) = true := by decide +kernel

/-! ### What meets the hypotheses: the hart -/

/-- StepRunsInstruction. -/
theorem meets_step : ReadyToRun ready ∧ (let g := ready.tick.pickHart
    accHas (fetchWord g.hart.agent g.hart.pc) g fun enc u => decode enc == .ok .tret && u.hart.quiet && decide (HasHandler u)) = true := by
  decide +kernel
/-- StepRunsInstruction, a word that is none. -/
theorem meets_step_illegal : ReadyToRun (ready.setByte 0x1000 0) ∧ (let g := (ready.setByte 0x1000 0).tick.pickHart
    accHas (fetchWord g.hart.agent g.hart.pc) g fun enc u => (decode enc).toOption.isNone && u.hart.quiet && decide (HasHandler u)) = true := by
  decide +kernel
/-- StepRunsInstruction, an event, and a stopped package. -/
theorem meets_step_event : encode .tollRefill = none ∧ ({ ready with agenda := [.event .tollRefill] }).stopped = false ∧
    ({ ready with stopped := true }).agenda = [] := by decide +kernel
/-- StepKeepsMemory and TranslationFrame. -/
theorem meets_memory : Memory.wf ready.mem ∧ accHas (locate ready.hart.agent .store 0x2000 8) ready (fun _ _ => true) = true := by
  decide +kernel
/-- EncodeDecode. -/
theorem meets_encode : (Instr.fas 5 6 7 95).wellFormed = true ∧ (encode (.fas 5 6 7 95)).isSome = true ∧
    (decode (.half 0x000E)).toOption.isSome = true := by decide +kernel
/-- ScalarArithmetic and ControlTransfers. -/
theorem meets_scalar : (scalarResult ready.hart (.cAddi 63 63)).isSome = true ∧ (divResult ready.hart (.remn 63 0 0)).isSome = true ∧
    (branchResult ready.hart (.bgen 0 63 0x800)).isSome = true ∧ linkResult (withS [(63, 0x2000)]).hart (.jlr 0 63 0) = some (0, 0x1004, 0x2000) := by
  decide +kernel
/-- ScalarAccesses: a load to s, a load to f, and a store, at the last byte that the map holds. -/
theorem meets_accesses : (loadOf (.ldn8 5 6 0)).isSome = true ∧ (loadFOf (.fld64 5 6 0)).isSome = true ∧
    (storeOf ready.hart (.st8 5 6 0)).isSome = true ∧ (withS [(6, 0x3FFFFFFF)]).hart.acquiring = false ∧
    findsOk (withS [(6, 0x3FFFFFFF)]) .load 0x3FFFFFFF 1 = true ∧ findsOk (withS [(6, 0x2000)]) .load 0x2000 8 = true ∧
    findsOk (withS [(6, 0x3FFFFFFF)]) .store 0x3FFFFFFF 1 = true := by decide +kernel
/-- MisalignedAccess. -/
theorem meets_misaligned : (accessOf (.fst64 5 6 0)).isSome = true ∧ ready.hart.quiet = true ∧ HasHandler ready ∧ (0x2004 : Nat) % 8 ≠ 0 := by
  decide +kernel
/-- MisalignedAccess: an atomic. -/
theorem meets_misaligned_atomic : (atomicAt (.strl 6 0 3)).isSome = true ∧ Quiet ready ∧ HasHandler ready ∧
    ((withS [(6, 0x2004)]).hart.sreg 6).toNat % 8 ≠ 0 := by decide +kernel
/-- AddressRange: the first address outside, and one that the addition brings round to the top. -/
theorem meets_range : (accessOf (.ld64 5 6 0)).isSome = true ∧ ready.hart.quiet = true ∧ ready.hart.status.getLsbD 6 = false ∧
    ((0x0100000000000000 : Word).toNat : Int) = (((withS [(6, 0x0100000000000000)]).hart.sreg 6).toNat + (0 : BitVec 12).toInt) % 2 ^ 64 ∧
    ((0xFFFFFFFFFFFFFFFF : Word).toNat : Int) = ((ready.hart.sreg 0).toNat + (0xFFF : BitVec 12).toInt) % 2 ^ 64 ∧
    ready.freeSave ready.hart.part = none := by decide +kernel
/-- Atomics: a releasing RMW, a load that acquires and a store that releases. -/
theorem meets_atomics : (amoOf ready.hart (.amocas 5 6 7 6 3)).isSome = true ∧ Quiet (withS [(6, 0x2000)]) ∧
    (clamped (withS [(6, 0x2000)]) 6).hart = (withS [(6, 0x2000)]).hart ∧ findsOk (clamped (withS [(6, 0x2000)]) 6) .atomic 0x2000 8 = true ∧
    findsOk (clamped (withS [(6, 0x2000)]) 0) .load 0x2000 8 = true ∧ findsOk (clamped (withS [(6, 0x2000)]) 0) .store 0x2000 8 = true := by
  decide +kernel
/-- OrderingAndWaits. -/
theorem meets_ordering : (fenceOf (.fenceSc 6)).isSome = true ∧ Quiet ready ∧ ((withS [(6, 0)]).hart.sreg 6).toNat ≤ ready.time.toNat ∧
    ready.time.toNat < ((withS [(6, 1)]).hart.sreg 6).toNat := by decide +kernel
/-- The machine with return entries. -/
def withReturns : State := State.on ready fun h => { h with srq := [⟨7, 3⟩], bq := [⟨1, 3⟩] }
/-- ReturnQueues: entries of the queue named, and of another. -/
theorem meets_returns : withReturns.hart.quiet = true ∧ HasHandler withReturns ∧ withReturns.hart.srq.map (·.src) = [3] ∧
    withReturns.hart.bq.map (·.src) = [(2 : BitVec 2) + 1] ∧ (∀ e ∈ withReturns.hart.srq.head?, e.src ≠ 1) ∧
    (∀ e ∈ withReturns.hart.bq.head?, e.src ≠ (0 : BitVec 2) + 1) := by decide +kernel
/-- StateRegisters: et at its greatest RM, the last register, and an RM above 4. -/
theorem meets_state : CsrReady ready 14 ∧ CsrReady ready 9 ∧ (14 : BitVec 12).toNat < 15 ∧
    (csrWriteOf (withS [(6, 0x4FF)]).hart (.csrs 5 6 5)).map (fun r => r.1) = some 5 ∧ ((0x4FF : Word).extractLsb' 8 3).toNat ≤ 4 ∧
    (csrWriteOf (withS [(6, 0x500)]).hart (.csrw 6 5)).map (fun r => r.2.1 0) = some 0x500 ∧ 4 < ((0x500 : Word).extractLsb' 8 3).toNat := by
  decide +kernel
/-- TrapAndBreak. -/
theorem meets_traps : ready.hart.quiet = true ∧ HasHandler ready ∧ ready.hart.armed = false ∧
    (State.on ready fun h => { h with armed := true }).hart.armed = true := by decide +kernel
/-- HartTrapEntry: the last code of the handler, and a second trap. -/
theorem meets_hart_traps : ready.cur = 0 ∧ ready.runs 0 = true ∧ toHandler 0x0F = true ∧ inHandler.runs 0 = true ∧
    inHandler.hart.quiet = true ∧ inHandler.hart.status.getLsbD 6 = true ∧ inHandler.freeSave inHandler.hart.part = none := by decide +kernel
/-- TrapReturn. -/
theorem meets_trap_return : inHandler.hart.quiet = true ∧ inHandler.hart.status.getLsbD 6 = true ∧
    (∀ e ∈ inHandler.hart.held.viq, ordinary e = true) := by decide +kernel
/-- The machine with a target of two stalls in a partition that has stalls. -/
def withTarget : State :=
  let s := State.on ready fun h => { h with target := 2 }
  { s with parts := s.parts.set 0 { s.parts[0] with stalls := Vector.replicate 16 (BitVec.allOnes 16) } }
/-- SetVl: two stalls are taken, or none is granted. -/
theorem meets_setvl : min withTarget.hart.target.toNat withTarget.hart.minStalls ≤ (withTarget.freeStalls withTarget.hart).length ∧
    (withTarget.takeBack.freeStalls withTarget.takeBack.hart).take 2 = [0, 1] ∧ withTarget.hart.target ≠ 0 ∧
    withTarget.cur.val / 4 = withTarget.hart.core ∧ withTarget.hart.run = .running ∧ (∀ k, k < 16 → withTarget.hart.chain.stalls.getLsbD k = false) ∧
    ready.hart.target = 0 ∧ ready.hart.quiet = true ∧ HasHandler ready := by decide +kernel
/-- A core that lent a stall takes it back for a hart that has too few, and the chain breaks with cause 3 (01_engines.md R29; 09_chain.md
R271). -/
theorem test_take_back :
    let s := State.on withTarget fun h => { h with lease := 0x10010 }
    let s := { s with harts := s.harts.set 8 { Hart.reset with run := .running, chain := { Chain.reset with state := .standing, lent := [(0, 15)] } } }
    s.freeStalls s.hart = List.range 15 ∧ s.lentOut 0 15 = true ∧
      (State.on s fun h => { h with target := 16 }).takeBack.harts[8].chain.cause = 3 ∧
      (State.on s fun h => { h with target := 16 }).takeBack.harts[8].chain.lent = [] := by decide +kernel
/-- The route from core 0 to core 12 goes through the lowest core numbers (14_link.md R396, R397). -/
theorem test_route : (route (BitVec.allOnes 64) 0 12).map (·.1) = [0, 1, 2, 3, 7] ∧ routeCycles (route (BitVec.allOnes 64) 0 12) = 36 := by
  decide +kernel
/-- ScalarFloat. -/
theorem meets_float : (floatResult ready.hart (.fcvtFf 31 31 0)).isSome = true ∧ (floatTest ready.hart (.fclass 63 31 1)).isSome = true := by
  decide +kernel

/-! ### What meets the hypotheses: gates, tasks, contexts -/

/-- The machine with a gate 5 whose entry for partition 0 has every right, a toll and `level` tokens, 256 to the token, and with an open
handle 0 of partition 0 on it under GEN 1; s6 names the handle and s7 is 2. -/
def withGateAt (st : GateState) (level : BitVec 24) (posts : List (Fin 64)) : State :=
  let s := withS [(6, 0x100), (7, 2)]
  { s with
    gates := [⟨5, st, 3, 0xAA, 0, [⟨true, 0, true, true, true, true, 4, 1, level⟩], posts⟩]
    handles := s.handles.set 0 ((s.handles[0]).set 0 ⟨true, 5, 7, 1, false⟩) }

/-- The gate of `withGateAt`. -/
def gateOf (s : State) : Gate := (s.gate 5).getD ⟨0, .revoked, 0, 0, 0, [], []⟩

/-- GateInstructions: a post that the toll admits, and one that it does not. -/
theorem meets_gates : (let s := withGateAt .active 256 []
    Quiet s ∧ s.hart.acquiring = false ∧ (postForm s.hart (.gpostPayload 5 6 7)).isSome = true ∧ s.handleSlot 0 0x100 = some ⟨true, 5, 7, 1, false⟩ ∧
    s.hart.gateWait = none ∧ (gateOf s).state = .active ∧ ((gateOf s).entry s.hart.part).isSome = true ∧ 256 ≤ ((gateOf s).list.map (·.level.toNat)).sum) ∧
    (let s := withGateAt .active 255 []
    Quiet s ∧ (s.handleSlot 0 0x100).isSome = true ∧ ((gateOf s).list.map (·.level.toNat)).sum < 256 ∧ (gateOf s).ctr.toNat = 3) := by
  decide +kernel
/-- Gates and GateChecks: a hart that waits at a gate which has judged it. -/
theorem meets_judged : let s (v : GateVerdict) : State := State.on (withGateAt .active 0 []) fun h => { h with gateWait := some ⟨0x100, false, 9, some v⟩ }
    (s (.met 7)).hart.acquiring = false ∧ (s (.met 7)).hart.gateWait.bind (·.verdict) = some (.met 7) ∧ waitsAtGate (.gwait 5 6 7) = true ∧
    Quiet (s (.failed 0x0C 5)) ∧ HasHandler (s (.failed 0x0C 5)) ∧ (s (.failed 0x0C 5)).hart.gateWait.bind (·.verdict) = some (.failed 0x0C 5) := by
  decide +kernel
/-- GateInstructions, `gopen` and `gclose`: the second slot is the lowest free one. -/
theorem meets_handles : (let s := withGateAt .active 256 []
    s.hart.part.toNat < 24 ∧ (s.handles[s.hart.part.toNat]?.bind fun t => t[1]?.map (·.isOpen)) = some false ∧
    (s.handles[s.hart.part.toNat]?.bind fun t => t[0]?.map (·.isOpen)) = some true ∧
    (s.gate ((5 : Word).setWidth 12)).isSome = true ∧ ((gateOf s).list.map (·.rights)) = [7] ∧ (0x100 : Word).toNat % 256 = 0) := by decide +kernel
/-- GateChecks: every failing check, and the operand checks of `gopen` at both ends. -/
theorem meets_gate_checks : (gateForm (.gread 5 6)).isSome = true ∧ Quiet ready ∧ HasHandler ready ∧
    gateFails ready 0x100 1 = some (0x0D, 0x100) ∧ gateFails (withGateAt .revoked 0 []) 0x100 1 = some (0x0C, 5) ∧
    gateFails { withGateAt .active 0 [] with gates := [] } 0x100 4 = some (0x0C, 5) ∧
    gateFails (State.on (withGateAt .active 0 []) fun h => { h with scope := 0x0C000006 }) 0x100 2 = some (0x0D, 0x100) ∧
    gateFails { withGateAt .active 0 [] with gates := [⟨5, .active, 0, 0, 0, [], []⟩] } 0x100 2 = some (0x0B, 5) ∧
    ready.hart.sreg 7 = 0 ∧ 8 ≤ ((withS [(7, 8)]).hart.sreg 7).toNat ∧ ready.handleSlot ready.hart.part 0 = none := by decide +kernel

/-- A task of the PF with one hart in slot 0 and a farm of 10 strips, 8 of them taken. -/
def aTask : Task :=
  { seq := 9, fn := 0, queue := 0, part := 0, prio := 0, min := 0, pref := 0, entry := 0x1000, handler := 0x4000, args := 0, signal := 0
    reply := 0, status := 0x02, why := 0, start := 0, finish := 0, farms := (Vector.replicate 4 none).set 3 (some ⟨10, 8, false⟩), tiles := []
    cores := [0], places := [.resident 0] }

/-- The machine whose hart is of that task, with scalar registers. -/
def inTask (l : List (Fin 64 × Word)) : State := { State.on (withS l) fun h => { h with seq := 9 } with tasks := [aTask], nextTask := 9 }

/-- The machine with a user queue 63 of the PF of the hart kind, with 16 packets at 0x3000, and a packet at 0x2000 in s6. -/
def withQueue (ridx widx : Word) : State :=
  let s := withS [(6, 0x2000), (7, 63)]
  { s with funcs := s.funcs.set 0 { s.funcs[0] with queues := [⟨63, 0x3000, 0, 0x5000, ridx, widx, true, 0, false, []⟩] } }

/-- TaskInstructions: a claim of more than is left, a farm that is not declared, a signal, and both sides of its threshold. -/
theorem meets_task : (let s := inTask [(6, 3), (7, 5)]
    s.hart.acquiring = false ∧ s.task s.hart.seq = some aTask ∧ (s.hart.sreg 6).toNat = 3 ∧ aTask.farms[3] = some ⟨10, 8, false⟩ ∧ (8 : Nat) ≤ 10) ∧
    (let s := inTask [(6, 4)]
    s.hart.quiet = true ∧ HasHandler s ∧ (∀ n : Fin 4, (s.hart.sreg 6).toNat ≠ n.val)) ∧
    (let k := { aTask with farms := aTask.farms.set 3 (some ⟨10, 8, true⟩) }
    let s := { inTask [(6, 3)] with tasks := [k] }
    s.hart.quiet = true ∧ s.task s.hart.seq = some k ∧ s.hart.status.getLsbD 6 = false ∧ k.farms[3] = some ⟨10, 8, true⟩) ∧
    findsOk (withS [(6, 0x2000)]) .atomic 0x2000 8 = true ∧ findsOk (withS [(6, 0x2000)]) .load 0x2000 8 = true ∧
    accHas (locate ready.hart.agent .load 0x2000 8) ready (fun l u => valueAt u l == 0) = true ∧
    accHas (locate ready.hart.agent .load 0x1000 8) ready (fun l u => decide (0 < valueAt u l)) = true := by decide +kernel
/-- TaskInstructions, `launch`: the last slot that is free. -/
theorem meets_launch : (let s := withQueue 0 15
    Quiet s ∧ (s.hart.sreg 7).toNat < 64 ∧ (s.queue s.hart.fn 63).map (fun q => (q.hartKind, decide ((q.widx - q.ridx).toNat < q.size))) = some (true, true) ∧
    accHas (loadDws s.hart.agent (s.hart.sreg 6) 8) s (fun dw u => (s.queue s.hart.fn 63).all fun q =>
      accHas (placePacket (s.fnAgent s.hart.fn) q dw) u (fun _ _ => true)) = true) := by decide +kernel
/-- TaskInstructions, the end of a hart. -/
theorem meets_end : (let s := inTask []
    Quiet s ∧ (∀ j : Fin 16, s.hart.copies[j].state ≠ .busy) ∧ (∀ j : Fin 8, s.hart.links[j].state ≠ .busy) ∧
    (∀ j : Fin 8, s.hart.fnodes[j].state = .idle) ∧ s.task s.hart.seq = some aTask ∧ s.hart.index.toNat < aTask.places.length ∧
    aTask.reply = 0 ∧ aTask.signal = 0) := by decide +kernel
/-- The machine with a choice of context parts in s7. -/
def withParts (x : Word) : State := withS [(6, 0x2000), (7, x)]

theorem flat_parts (x : Word) : Flat (withParts x) := by
  unfold withParts withS
  exact flat_ready.on _

/-- The image of one c register and the masks. -/
def partWords : List Word := imageWords (withParts 0x1000100000000).hart 0x1000100000000

/-- ContextImages: one c register and the masks, and each check. -/
theorem meets_images : (let s := withParts 0x1000100000000
    Quiet s ∧ (s.hart.sreg 7).toNat < 2 ^ 49 ∧ (s.hart.sreg 6).toNat % 64 = 0 ∧ s.hart.sreg 6 = 0x2000 ∧ s.hart.sreg 7 = 0x1000100000000 ∧
    s.hart.agent = pfAgent 0 (some 0) (some 0)) ∧
    (∃ x u, storeDws (pfAgent 0 (some 0) (some 0)) 0x2000 partWords (withParts 0x1000100000000) = .ok x u) ∧
    (∃ xs u, loadDws (pfAgent 0 (some 0) (some 0)) 0x2000 partWords.length (withParts 0x1000100000000) = .ok xs u) ∧
    2 ^ 49 ≤ ((withS [(7, 0x2000000000000)]).hart.sreg 7).toNat ∧ ((withS [(6, 0x2020)]).hart.sreg 6).toNat % 64 ≠ 0 ∧
    ready.hart.status.getLsbD 5 = false ∧ inHandler.hart.status.getLsbD 5 = true ∧ heldCell inHandler.hart.held 2 = some .counts ∧
    heldCell inHandler.hart.held 0x100 = none := by
  have hn : partWords.length = 6592 := by decide +kernel
  refine ⟨by decide +kernel, ?_, ?_, by decide +kernel⟩
  · obtain ⟨x, u, h, -⟩ := (Okay.storeDws 0x2000 partWords (by rw [hn]; decide)).there (flat_parts 0x1000100000000)
    exact ⟨x, u, h⟩
  · obtain ⟨xs, u, h, -⟩ := (Okay.loadDws 0x2000 partWords.length (by rw [hn]; decide)).there (flat_parts 0x1000100000000)
    exact ⟨xs, u, h⟩

/-- A gate's counter saturates (11_gate.md R333), and the token is paid. -/
theorem test_gpost : nextHas (exec (.gpost 6 7) (withGateAt .active 256 [])) (fun t =>
    (gateOf t).ctr == 5 && (gateOf t).list.map (·.level) == [0]) = true := by decide +kernel
/-- A farm hands out what it still has (12_command.md R363). -/
theorem test_fclaim : nextHas (exec (.fclaim 5 6 7) (inTask [(6, 3), (7, 5)])) (fun t => t.hart.sreg 5 == 0x200000008) = true := by
  decide +kernel
/-- The last hart of a task ends it (12_command.md R364). -/
theorem test_fend : nextHas (exec .fend (inTask [])) (fun t => t.tasks == [] && t.harts[0].run == .absent) = true := by decide +kernel

/-! ### What meets the hypotheses: the engines -/

/-- The machine with a type descriptor and a vector length. -/
def shaped (et vl : Word) (l : List (Fin 64 × Word)) : State := State.on (withS l) fun h => { h with et := et, vl := vl }

/-- Elements of `w` bits as a vector register. -/
def vreg (w : Nat) (xs : List Nat) : BitVec 131072 := BitVec.ofNat 131072 (packElems w xs)

/-- LaneResults: i32 in groups of eight at the last group, with the last mask span that fits, and `vidx`. -/
theorem meets_lane : (let s := shaped 0x32 32 []
    (elemForm s.hart (.vadd 24 16 8 95)).all (fun x => elemChecks s.hart x) = true ∧ Free s (.vadd 24 16 8 95) ∧
    Free s (.vidx 24 0x1FF 0x200) ∧ classI (etTy s.hart.et) = true ∧ (24 : BitVec 5).toNat % etGroup s.hart.et = 0) := by decide +kernel
/-- EngineChecks: a group that is not aligned; no unit; a control word with a reserved bit. -/
theorem meets_engine_checks : (let s := shaped 0x32 32 []
    (elemForm s.hart (.vadd 25 16 8 0)).map (elemChecks s.hart) = some false ∧ Free s (.vadd 25 16 8 0) ∧ HasHandler s ∧
    Free s (.mzero 15) ∧ s.hart.units = 0 ∧ s.hart.mreq = 0) ∧
    (let s := State.on (withS [(7, 0x40)]) fun h => { h with units := 1 }
    (mulForm (.mmac 0 5 6 7)).isSome = true ∧ Free s (.mmac 0 5 6 7) ∧ HasUnit s ∧ HasHandler s ∧ mulOk .none (s.hart.sreg 7) = false) := by
  decide +kernel
/-- LaneConvert: f32 to bf16 under `rsr`, and in place at one width. -/
theorem meets_convert : (let s := shaped 0x409 5 []
    Free s (.vcvt 4 2 11 9 0) ∧ cvtOk 9 11 = true ∧ etSew s.hart.et = 32 ∧ cvtStochastic 9 11 = true ∧ overlaps 4 1 2 1 = false ∧
    spanOk 0 (lanes s.hart) = true) ∧ cvtOk 2 9 = true ∧ tyWidth 2 = tyWidth 9 := by decide +kernel
/-- MasksAndCompares: the destination as its own mask, and a cross-element form apart from its source. -/
theorem meets_masks : (let s := shaped 0x02 40 []
    (cmpForm (.vsle 95 3 4 95)).isSome = true ∧ Free s (.vsle 95 3 4 95) ∧ (classI (etTy s.hart.et) = true) ∧ spanOk 95 (lanes s.hart) = true ∧
    dstSpanOk 95 (lanes s.hart) = true ∧ (maskForm (.msetof 95 94)).isSome = true ∧ Free s (.msetof 95 94) ∧
    overlaps 95 (maskSpan 40) 94 (maskSpan 40) = false) := by decide +kernel
/-- LaneScalarResults: the last element, and masks. -/
theorem meets_lane_scalars : (let s := shaped 0x02 40 [(6, 39)]
    Free s (.vext 31 6) ∧ (31 : BitVec 5).toNat % etGroup s.hart.et = 0 ∧ (s.hart.sreg 6).toNat < lanes s.hart ∧ Free s (.mpop 95) ∧
    Free s (.mfind 95) ∧ Free s (.mbany 95) ∧ Free s (.mball 95) ∧ spanOk 95 (lanes s.hart) = true) := by decide +kernel
/-- ReductionsAndScans: three groups apart, with active elements and without. -/
theorem meets_reductions : (let s := shaped 0x12 40 []
    (redForm (.vredxor 2 4 6 0)).isSome = true ∧ Free s (.vredxor 2 4 6 0) ∧ RedOp.xor.accepts (etTy s.hart.et) = true ∧
    groupsApart (etGroup s.hart.et) [2, 4, 6] ∧ spanOk 0 (lanes s.hart) = true ∧ classI (etTy s.hart.et) = true ∧
    activeBits s.hart 95 (lanes s.hart) = [] ∧ activeBits s.hart 0 3 = [0, 1, 2] ∧ Free s (.vscan 2 4 6 0) ∧ Free s (.vscanx 2 4 6 0)) := by
  decide +kernel
/-- Permutes: `vconflict` at the greatest length its elements hold. -/
theorem meets_permutes : (let s := shaped 0x00 256 []
    (moveForm s.hart (.vconflict 2 4 0)).isSome = true ∧ Free s (.vconflict 2 4 0) ∧ groupsApart (etGroup s.hart.et) [2, 4] ∧
    spanOk 0 (lanes s.hart) = true ∧ lanes s.hart ≤ 2 ^ etSew s.hart.et ∧ Free s (.vcompress 2 4 0) ∧ Free s (.vexpand 2 4 0)) := by
  decide +kernel
/-- ElementAccess: whole bytes, aligned and not, and a 4-bit element. -/
theorem meets_elements : (0x2001 : Word).toNat % (64 / 8) ≠ 0 ∧ (0x2000 : Word).toNat % (64 / 8) = 0 ∧ findsOk ready .load 0x2000 8 = true ∧
    findsOk ready .store 0x2000 8 = true ∧ accHas (locate ready.hart.agent .load 0x2001 1) ready (fun l u => l == [0x2001] && !u.badAt 0x2001) = true ∧
    accHas (locate ready.hart.agent .store 0x2001 1) ready (fun l _ => l == [0x2001]) = true := by decide +kernel

/-- The checks at issue of a vector access, as they are decided. -/
def checksHold (h : Hart) (x : RowForm) (load : Bool) : Bool :=
  decide (x.v.toNat % etGroup h.et = 0) && spanOk x.m.toNat (lanes h) && decide (x.form ≠ .unit → etSew h.et ≠ 4) &&
  match x.form with
  | .indexed vi => decide (vi % etGroup h.et = 0) &&
      decide (load = true → vi = x.v.toNat ∨ overlaps x.v.toNat (etGroup h.et) vi (etGroup h.et) = false)
  | .unit | .strided => true

/-- What `checksHold` says. -/
theorem checksHold_iff (h : Hart) (x : RowForm) (load : Bool) (k : checksHold h x load = true) : rowChecks h x load := by
  simp only [checksHold, Bool.and_eq_true, decide_eq_true_eq] at k
  refine ⟨k.1.1.1, k.1.1.2, k.1.2, fun vi e => ?_⟩
  have := k.2
  rw [e] at this
  simpa only [Bool.and_eq_true, decide_eq_true_eq] using this

/-- VectorLoads: an indexed load over its own index. -/
theorem meets_vector_loads : let s := shaped 0x02 3 [(6, 0x2000)]
    (loadRow s.hart (.vldx 4 6 4 0)).all (fun x => checksHold s.hart x true &&
      accHas (working (rowProbes s.hart x .load (activeBits s.hart 0 3) >>= fun _ =>
        (activeBits s.hart 0 3).mapM fun k => loadAt s.hart.agent 32 (x.addr k) k)) s fun xs _ => xs.length == 3) = true ∧
    Free s (.vldx 4 6 4 0) ∧ etSew s.hart.et = 32 := by decide +kernel
/-- FirstFault: a load that fails at the end of what is mapped. -/
theorem meets_first_fault : let s := shaped 0x02 3 [(6, 0x3FFFFFF8)]
    (loadRow s.hart (.vldff 4 6 0 0)).all (fun x => x.ff && checksHold s.hart x true &&
      accHas (working (failsAfter ((activeBits s.hart 0 2).mapM fun k => loadAt s.hart.agent 32 (x.addr k) k)
        (loadAt s.hart.agent 32 (x.addr 2) 2))) s fun r _ => r.2.code == 0x10) = true ∧
    Free s (.vldff 4 6 0 0) ∧ 2 < lanes s.hart ∧ s.hart.mbit 0 2 = true ∧ activeBits s.hart 0 2 ≠ [] ∧ etSew s.hart.et = 32 := by decide +kernel
/-- VectorStores: an indexed store. -/
theorem meets_vector_stores : let s := shaped 0x02 3 [(6, 0x2000)]
    (storeRow s.hart (.vstx 4 6 8 0)).all (fun x => checksHold s.hart x false &&
      accHas (working (rowProbes s.hart x .probeStore (activeBits s.hart 0 3) >>= fun _ =>
        storePlaces s.hart.agent 32 x.addr id (s.hart.velem 32 4) (activeBits s.hart 0 3))) s fun ls _ => ls.length == 12) = true ∧
    Free s (.vstx 4 6 8 0) ∧ etSew s.hart.et = 32 := by decide +kernel

/-- Doublewords at an address. -/
def withDws (s : State) (a : Nat) (xs : List Word) : State :=
  xs.zipIdx.foldl (fun s (x, i) => (toBytes 8 x.toNat).zipIdx.foldl (fun s (b, j) => s.setByte (a + 8 * i + j) b) s) s

/-- A descriptor of 3 × 2 elements of i32 at 0x2000, rows 64 bytes apart. -/
def aDescriptor : List Word := [0x2000, 0x12, 0x300000004, 0x200000040, 0]

/-- The machine with a stream of a kind at the end of that descriptor but two. -/
def withStream (k : StreamKind) : State := State.on (shaped 0x02 3 []) fun h =>
  { h with streams := h.streams.set 15 ⟨k, ⟨aDescriptor.toArray, rfl⟩, 4, 6, 4, [], 0⟩ }

/-- Streams: binding, a misaligned and an illegal descriptor. -/
theorem meets_stream_binding : let s := withDws (withS [(6, 0x2800)]) 0x2800 aDescriptor
    Free s (.tbindl 15 6) ∧ Free s (.tbinds 15 6) ∧ (s.hart.sreg 6).toNat % 8 = 0 ∧ LegalStream aDescriptor ∧
    accHas (working (loadDws s.hart.agent (s.hart.sreg 6) 5)) s (fun d _ => d == aDescriptor) = true ∧ HasHandler s ∧ ¬ LegalStream [0, 0x3E, 0, 0, 0] ∧
    ((withS [(6, 0x2804)]).hart.sreg 6).toNat % 8 ≠ 0 := by decide +kernel
/-- Streams: a load that the stream ends within. -/
theorem meets_stream_load : let s := withStream .load
    Free s (.tget 31 15 0) ∧ (s.hart.stream 15).kind = .load ∧ tyWidth (bits (s.hart.stream 15).desc[1] 0 4) = etSew s.hart.et ∧
    min (lanes s.hart) ((s.hart.stream 15).len - (s.hart.stream 15).pos) = 2 ∧
    accHas (working ((List.range 2).mapM fun k => streamElem 15 32 (4 + k))) s (fun xs _ => xs.all (fun x => x.toOption.isSome) && xs.length == 2) = true := by
  decide +kernel
/-- Streams: a store that the stream ends within, and releases. -/
theorem meets_stream_store : let s := withStream .store
    Free s (.tsend 31 15 0) ∧ accHas (working (storePlaces s.hart.agent 32 (fun k => (s.hart.stream 15).addr (4 + k)) (4 + ·) (s.hart.velem 32 31)
      (activeBits s.hart 0 2))) s (fun _ _ => true) = true ∧ Free s (.tfree 15) ∧ Free s (.tflush 15) := by decide +kernel

/-- The machine with a copy token in a state. -/
def withCopy (st : TokenState) : State := State.on (withS [(5, 0x2000), (6, 0x2010), (7, 0x10), (8, 0x11), (9, 0x10000000000)]) fun h =>
  { h with copies := h.copies.set 15 { Token.reset with state := st, cause := 0x0F } }

/-- Copies: ranges that just do not meet, ranges that do, a length of 2^40, and the three states. -/
theorem meets_copies : (let s := withCopy .done
    Free s (.acopy 5 6 7 15) ∧ (s.hart.sreg 7).toNat < 2 ^ 40 ∧ rangesMeet (s.hart.sreg 5) (s.hart.sreg 6) (s.hart.sreg 7).toNat = false ∧
    (s.hart.copy 15).state ≠ .busy ∧ rangesMeet (s.hart.sreg 5) (s.hart.sreg 6) (s.hart.sreg 8).toNat = true ∧ 2 ^ 40 ≤ (s.hart.sreg 9).toNat ∧
    HasHandler s ∧ Free s (.cwait 15) ∧ s.hart.lateStores = [] ∧ (s.hart.copy 15).state = .done ∧ Free s (.ctest 15)) ∧
    ((withCopy .fault).hart.copy 15).state = .fault ∧ toHandler ((withCopy .fault).hart.copy 15).cause = true ∧
    ((withCopy .busy).hart.copy 15).state = .busy := by decide +kernel

/-- The machine with a unit. -/
def withUnit (et : Word) (l : List (Fin 64 × Word)) : State := State.on (shaped et 0 l) fun h => { h with units := 1 }

/-- MatrixTransfers. -/
theorem meets_matrix : (let s := withUnit 0x02 [(6, 0x2000), (7, 0x19)]
    Free s (.mzero 15) ∧ HasUnit s ∧ Free s (.mldc 15 6) ∧ (s.hart.sreg 6).toNat % 32 = 0 ∧ Free s (.mscale 15 6) ∧ Free s (.mstc 15 6 7) ∧
    storeOk (s.hart.sreg 7) = true ∧ accHas (working ((List.range 32).mapM fun i =>
      loadElem s.hart.agent (s.hart.sreg 6 + BitVec.ofNat 64 (4 * i)) 4)) s (fun x _ => x.length == 32) = true) := by decide +kernel
/-- SkipAndUnits: one key block; a request of 0, and one that takes the core's only free unit. -/
theorem meets_skip : (let s := withUnit 0x02 [(6, 0x2000), (7, 0x2100)]
    Free s (.mskip 6 7 8) ∧ HasUnit s ∧ bits (s.hart.sreg 8) 38 26 = 0 ∧ (s.hart.sreg 6).toNat % 4 = 0 ∧ (s.hart.sreg 7).toNat % 4 = 0 ∧
    accHas (working (do
      let us ← (List.range 1).mapM fun g => loadElem s.hart.agent (s.hart.sreg 6 + BitVec.ofNat 64 (4 * g)) 4
      let ms ← (List.range 32).mapM fun i => loadElem s.hart.agent (s.hart.sreg 7 + BitVec.ofNat 64 (4 * i)) 4
      pure (us, ms))) s (fun x _ => x.1.length == 1 && x.2.length == 32) = true ∧ Free s (.mshape 8)) ∧
    (let s := withS [(6, 3)]
    Free s (.mshape 6) ∧ BitVec.ofNat 2 (min (s.hart.sreg 6).toNat 3) ≠ 0 ∧ 1 ≤ (s.requestUnits 3).hart.unitTarget.toNat ∧
    s.freeUnits (s.cur.val / 4) ≠ [] ∧ s.hart.run = .running) := by decide +kernel

/-- The machine with an operand node in a state. -/
def withNode (st : OperandState) : State := State.on (withUnit 0x02 [(6, 0x2000)]) fun h =>
  { h with onodes := h.onodes.set 15 { OperandNode.reset with state := st, used := 7 } }

/-- The descriptor of an operand node: two tiles of 32 bytes, at 0x3000, and one buffer at 0x8000. -/
def aNode : Vector Word 8 := ⟨#[0x3000, 0x8000, 32, 2, 0, 32, 0, 0], rfl⟩

/-- A task with a tile region, whose hart configures a node by the descriptor at 0x2800. -/
def nodeTask : State :=
  withDws { State.on (withS [(6, 0x2800)]) fun h => { h with seq := 9 } with
    tasks := [{ aTask with tiles := [⟨0x8000, 0x2000, false, some (0, 0)⟩] }], nextTask := 9 } 0x2800 aNode.toList

/-- OperandNodes: a legal descriptor whose buffer lies in the tile region. -/
theorem meets_node_config : Free nodeTask (.mnode 15 6) ∧ (nodeTask.hart.onode 15).state ∉ [.running, .held] ∧
    (nodeTask.hart.sreg 6).toNat % 8 = 0 ∧ nodeOk aNode = true ∧
    accHas (working (loadDws nodeTask.hart.agent (nodeTask.hart.sreg 6) 8)) nodeTask (fun xs u =>
      xs == aNode.toList && u.bufsHomed nodeTask.hart.agent aNode) = true := by decide +kernel
/-- OperandNodes: each state that a clause names. -/
theorem meets_operand_nodes : Free (withNode .idle) (.mnode 15 6) ∧ ((withNode .idle).hart.sreg 6).toNat % 8 = 0 ∧
    Free (withNode .armed) (.mfill 15) ∧ ((withNode .armed).hart.onode 15).state = .armed ∧ ((withNode .done).hart.onode 15).state = .done ∧
    ((withNode .idle).hart.onode 15).state ∉ [.running, .held] ∧ HasHandler (withNode .idle) ∧ Free (withNode .done) (.mwait 15) ∧
    Free (withNode .held) (.mstat 15) ∧ ((withNode .held).hart.onode 15).used < 2 ^ 32 := by decide +kernel

theorem Okay.dense (va : Word) (x : Word) (hv : va.toNat < 2 ^ 20) (hx : x = 0) : Okay ((Machine.Ready.dense va 0).group (pfAgent p c k) x 0) := by
  subst hx
  exact Okay.group va 0 _ _ (by decide) (by
    have : 32 * mulKg 0 * (4 * tyWidth 0) < 2 ^ 20 := by decide
    omega)

theorem keep_length (et x : Word) (lines : List (List Nat)) (h : hdrKind (pruneHdr x) = 0) :
    (bandValues et x lines).1.length = lines.length := by
  show (keepBand (pruneHdr x) (pruneIty x) lines).length = _
  unfold keepBand; rw [if_pos h]; simp

theorem okay_prune (et : Word) : Okay (pruneAll (pfAgent p c k) et 0x2000 0x4000 0x11) := by
  unfold pruneAll
  have e1 : sparseVb (pruneHdr 0x11) (pruneKg 0x11) = 8 := by decide +kernel
  have e2 : sparseRb (pruneHdr 0x11) (pruneKg 0x11) = 4 := by decide +kernel
  have e3 : sparseRow (pruneHdr 0x11) (pruneKg 0x11) = 288 := by decide +kernel
  have e4 : hdrKind (pruneHdr 0x11) = 0 := by decide +kernel
  have e5 : ∀ n m, (toBytes n m).length = n := fun n m => toBytes_length n m
  simp only [e1, e2, e3, e4]
  have off : ∀ i, i < 1000 → ((0x2000 : Word) + word i).toNat = 0x2000 + i := fun i hi =>
    toNat_offset 0x2000 i (by show 0x2000 + i < _; omega)
  refine (Okay.mapM _ fun i hi => ?_).bind fun bands _ => (Okay.runs _ fun x hx => ?_).bind fun _ _ => Okay.pure _ trivial
  · have hi := List.mem_range.1 hi
    have keep : Okay (pruneBand (pfAgent p c k) 0x11 0x4000 i) fun lines => lines.length = 4 := by
      unfold pruneBand
      refine (Okay.mapM _ fun l hl => ?_)
      have hl := List.mem_range.1 hl
      have e6 : 32 * pruneKg 0x11 * tyWidth (pruneIty 0x11) / 8 = 32 := by decide +kernel
      have := toNat_offset 0x4000 ((4 * i + l) * 32) (by show 0x4000 + _ < _; omega)
      simp only [e6]
      refine (Okay.loadBytes _ _ ?_).bind fun _ _ => Okay.pure _ trivial
      rw [this]; show 0x4000 + _ + _ < _; omega
    refine keep.bind fun lines hl => (Okay.runs _ fun x hx => ?_).bind fun _ _ => Okay.pure _ trivial
    have h4 : (bandValues et 0x11 lines).1.length = 4 := (keep_length _ _ _ e4).trans hl
    have h5 : ∀ q ∈ (bandValues et 0x11 lines).1.zipIdx, q.2 < 4 := fun q hq => by
      have := List.snd_lt_of_mem_zipIdx hq; omega
    have h6 : ∀ q ∈ (bandValues et 0x11 lines).2.zipIdx, q.2 < 4 := fun q hq => by
      have h1 := List.snd_lt_of_mem_zipIdx hq
      have : (bandValues et 0x11 lines).2.length ≤ lines.length := by
        simp only [bandValues, List.length_map, List.length_zip]; omega
      omega
    rcases List.mem_append.1 hx with hx | hx
    all_goals
      obtain ⟨q, hq, rfl⟩ := List.mem_map.1 hx
      have := (by first | exact h6 q hq | exact h5 q hq : q.2 < 4)
      simp only [e5]
      rw [off _ (by omega)]; omega
  · simp only [List.range_zero, List.map_nil, List.nil_append, if_neg (by decide : ¬ (0 : Nat) = 1), List.mem_cons, List.not_mem_nil, or_false] at hx
    rcases hx with rfl | rfl
    · decide
    · simp only [e5]; decide

/-- The machine with a unit and operands below the page tables. -/
def operands (a b x : Word) : State := withUnit 0x02 [(6, a), (7, b), (8, x)]

theorem flat_operands (a b x : Word) : Flat (operands a b x) := by
  unfold operands withUnit shaped withS
  exact ((flat_ready.on _).on _).on _

/-- MatrixMultiply: two dense i8 operands of one K-group. -/
theorem meets_multiply : (let s := operands 0x2000 0x2400 0
    (mulForm (.mmac 15 6 7 8)).isSome = true ∧ Free s (.mmac 15 6 7 8) ∧ HasUnit s ∧ mulOk .none (s.hart.sreg 8) = true ∧
    mulRefs s.hart .none (s.hart.sreg 6) (s.hart.sreg 7) (s.hart.sreg 8) = none ∧ refBase s.hart (s.hart.sreg 6) 0 = some 0x2000 ∧
    refBase s.hart (s.hart.sreg 7) 0 = some 0x2400 ∧ refNode (s.hart.sreg 6) = false ∧ refNode (s.hart.sreg 7) = false ∧ s.hart.skipV = false ∧
    s.hart.sreg 8 = 0 ∧ s.hart.agent = pfAgent 0 (some 0) (some 0)) ∧
    ∃ gs u, working (mulOperands (operands 0x2000 0x2400 0).hart .none 0x2000 0x2400 0 0x2000 0x2400 0) (operands 0x2000 0x2400 0) = .ok gs u := by
  refine ⟨by decide +kernel, ?_⟩
  have ha : (operands 0x2000 0x2400 0).hart.agent = pfAgent 0 (some 0) (some 0) := by decide +kernel
  have : Okay (mulOperands (operands 0x2000 0x2400 0).hart .none 0x2000 0x2400 0 0x2000 0x2400 0) := by
    unfold mulOperands
    rw [ha]
    refine Okay.bind (P := fun r => r = .dense 0x2000 0) (Okay.pure _ rfl) fun ra ea =>
      Okay.bind (P := fun r => r = .dense 0x2400 0) (Okay.pure _ rfl) fun rb eb => ?_
    subst ea eb
    have := Okay.mapM (f := fun g => do
        let ga ← (Machine.Ready.dense 0x2000 0).group (pfAgent 0 (some 0) (some 0)) 0 g
        let gb ← (Machine.Ready.dense 0x2400 0).group (pfAgent 0 (some 0) (some 0)) 0 g
        Pure.pure (ga, gb)) ((List.range (mulKg 0)).filter fun g => !(0 : Word).getLsbD g) fun g hg => by
      have : g = 0 := by
        have : g < mulKg 0 := List.mem_range.1 (List.mem_filter.1 hg).1
        have e : mulKg 0 = 1 := by decide
        omega
      subst this
      exact (Okay.dense 0x2000 0 (by decide) rfl).bind fun _ _ => (Okay.dense 0x2400 0 (by decide) rfl).bind fun _ _ => Okay.pure _ trivial
    exact fun s hs => by
      obtain ⟨x, t, h1, h2, -⟩ := this s hs
      exact ⟨x, t, h1, h2, trivial⟩
  obtain ⟨gs, u, h, -⟩ := this.worked (flat_operands 0x2000 0x2400 0)
  exact ⟨gs, u, h⟩

/-- MatrixLoads: 32 rows of 32 words. -/
theorem meets_matrix_load : ∃ rows u, working ((List.range 32).mapM fun i => (List.range 32).mapM fun j =>
    loadElem (pfAgent 0 (some 0) (some 0)) (0x2000 + BitVec.ofNat 64 (128 * i + 4 * j)) 4) (operands 0x2000 0 0) = .ok rows u := by
  have : Okay ((List.range 32).mapM fun i => (List.range 32).mapM fun j =>
      loadElem (pfAgent 0 (some 0) (some 0)) (0x2000 + BitVec.ofNat 64 (128 * i + 4 * j)) 4) fun _ => True :=
    fun s hs => by
      obtain ⟨x, t, h1, h2, -⟩ := Okay.mapM (f := fun i => (List.range 32).mapM fun j =>
        loadElem (pfAgent 0 (some 0) (some 0)) (0x2000 + BitVec.ofNat 64 (128 * i + 4 * j)) 4) (List.range 32) (fun i hi => by
          intro s hs
          obtain ⟨x, t, h1, h2, -⟩ := Okay.mapM (f := fun j =>
            loadElem (pfAgent 0 (some 0) (some 0)) (0x2000 + BitVec.ofNat 64 (128 * i + 4 * j)) 4) (List.range 32) (fun j hj => by
              have h1 := List.mem_range.1 hi
              have h2 := List.mem_range.1 hj
              have h3 := toNat_offset 0x2000 (128 * i + 4 * j) (by show 0x2000 + _ < _; omega)
              simp only [word] at h3
              exact Okay.load _ (by rw [h3]; show 0x2000 + _ < _; omega) 4) s hs
          exact ⟨x, t, h1, h2, trivial⟩) s hs
      exact ⟨x, t, h1, h2, trivial⟩
  obtain ⟨rows, u, h, -⟩ := this.worked (flat_operands 0x2000 0 0)
  exact ⟨rows, u, h⟩

/-- MatrixStore: i32 to i8, 32 rows of 32 bytes. -/
theorem meets_matrix_store : (let s := operands 0x2000 0 0x10
    Free s (.mstc 15 6 8) ∧ HasUnit s ∧ storeOk (s.hart.sreg 8) = true ∧ (s.hart.sreg 6).toNat % 32 = 0 ∧ tyWidth (storeDst (s.hart.sreg 8)) = 8 ∧
    s.hart.agent = pfAgent 0 (some 0) (some 0)) ∧
    ∀ r : Nat → Nat, ∃ ls u, working ((List.range 32).mapM fun i =>
      putBytes (pfAgent 0 (some 0) (some 0)) (0x2000 + BitVec.ofNat 64 (i * 4 * 8)) 1 (rowBytes 8 r i)) (operands 0x2000 0 0x10) = .ok ls u := by
  refine ⟨by decide +kernel, fun r => ?_⟩
  have : Okay ((List.range 32).mapM fun i =>
      putBytes (pfAgent 0 (some 0) (some 0)) (0x2000 + BitVec.ofNat 64 (i * 4 * 8)) 1 (rowBytes 8 r i)) fun _ => True := fun s hs => by
    obtain ⟨x, t, h1, h2, -⟩ := Okay.mapM (f := fun i =>
      putBytes (pfAgent 0 (some 0) (some 0)) (0x2000 + BitVec.ofNat 64 (i * 4 * 8)) 1 (rowBytes 8 r i)) (List.range 32) (fun i hi => by
        have h1 := List.mem_range.1 hi
        have h3 := toNat_offset 0x2000 (i * 4 * 8) (by show 0x2000 + _ < _; omega)
        simp only [word] at h3
        refine Okay.bytes _ _ ?_
        rw [h3, rowBytes, toBytes_length]; show 0x2000 + _ + _ ≤ _; omega) s hs
    exact ⟨x, t, h1, h2, trivial⟩
  obtain ⟨ls, u, h, -⟩ := this.worked (flat_operands 0x2000 0 0x10)
  exact ⟨ls, u, h⟩
/-- Pruning: i8 to 1 of 4. -/
theorem meets_prune : (let s := operands 0x2000 0x4000 0x11
    Free s (.mprune 6 7 8) ∧ HasUnit s ∧ pruneOk (s.hart.sreg 8) = true ∧ s.hart.sreg 6 = 0x2000 ∧ s.hart.sreg 7 = 0x4000 ∧
    s.hart.sreg 8 = 0x11 ∧ s.hart.agent = pfAgent 0 (some 0) (some 0)) ∧
    ∃ x u, working (pruneAll (pfAgent 0 (some 0) (some 0)) (operands 0x2000 0x4000 0x11).hart.et 0x2000 0x4000 0x11)
      (operands 0x2000 0x4000 0x11) = .ok x u := by
  refine ⟨by decide +kernel, ?_⟩
  obtain ⟨x, u, h, -⟩ := (okay_prune _).worked (flat_operands 0x2000 0x4000 0x11)
  exact ⟨x, u, h⟩

/-! ### What meets the hypotheses: fabric, chains, links -/

/-- FabricLoads: a gather over its own index, and a windowed gather with an index at LEN. -/
theorem meets_fabric_loads : let s := withDws (shaped 0x02 2 [(6, 0x2000), (7, 0x2800)]) 0x2800 [0x2000, 1]
    let gathers (v x : BitVec 5) (a : BitVec 6) (desc : Bool) (place : Word × Nat → Nat → Option Word) (n : Nat) : Bool :=
      fabricChecks s.hart v x 0 true && accHas (working (do
        let d ← windowAt s.hart desc (s.hart.sreg a)
        (Touches [0, 1] (place d)).forM fun p => probeAt s.hart.agent .load 32 p.2
        let xs ← (Touches [0, 1] (place d)).mapM fun p => loadAt s.hart.agent 32 p.2 p.1
        pure (d, xs))) s fun r _ => r.2.length == n && decide (r.1.2 < 2 ^ 32)
    (fabricLoadForm (.fgather 4 4 6 0)).isSome = true ∧ Free s (.fgather 4 4 6 0) ∧
    gathers 4 4 6 false (fun w k => some (indexedAt s.hart 4 w.1 k)) 2 = true ∧
    (fabricLoadForm (.fwgather 4 5 7 0)).isSome = true ∧ Free s (.fwgather 4 5 7 0) ∧ (s.hart.sreg 7).toNat % 8 = 0 ∧
    gathers 4 5 7 true (fun w k => if k < w.2 then some (w.1 + BitVec.ofNat 64 (s.hart.velem 32 5 k * 4)) else none) 1 = true ∧
    activeBits s.hart 0 2 = [0, 1] ∧ etSew s.hart.et = 32 := by decide +kernel
/-- FabricScatter. -/
theorem meets_scatter : let s := shaped 0x02 2 [(6, 0x2000)]
    Free s (.fscatter 4 5 6 0) ∧ fabricChecks s.hart 4 5 0 false ∧ activeBits s.hart 0 2 = [0, 1] ∧
    accHas (working (do
      [0, 1].forM fun k => probeAt s.hart.agent .probeStore 32 (indexedAt s.hart 5 0x2000 k)
      [0, 1].forM fun k => checkRead s.hart.agent .probeStore (indexedAt s.hart 5 0x2000 k) 4
      storePlaces s.hart.agent 32 (indexedAt s.hart 5 0x2000) id (s.hart.velem 32 4) [0, 1])) s (fun ls _ => ls.length == 8) = true := by
  decide +kernel
/-- VectorAtomics: two updates of one word that combine. -/
theorem meets_vector_atomics : let s := withDws (shaped 0x02 2 [(6, 0x2000), (7, 0x2800)]) 0x2800 [0x2000, 1]
    let f : Nat → Nat → Nat × Word := fun p q => redStep .sum (etTy s.hart.et) (rmOf (etRm s.hart.et)) p q
    (vamoForm (.vamoadd 4 5 7 0)).isSome = true ∧ Free s (.vamoadd 4 5 7 0) ∧ fabricChecks s.hart 4 5 0 false ∧ classI (etTy s.hart.et) = true ∧
    (∀ k ∈ activeBits s.hart 0 2, s.hart.velem 32 5 k < 1) ∧ (s.hart.sreg 7).toNat % 8 = 0 ∧
    accHas (working (do
      let d ← windowAt s.hart true (s.hart.sreg 7)
      [0, 1].forM fun _ => probeRmw s.hart.agent 32 d.1
      [0, 1].forM fun _ => checkRead s.hart.agent .probeAtomic d.1 4
      let r ← rmwPlaces s.hart.agent 4 f (vamoUpdates s.hart f (fun _ => d.1) 4 0)
      pure (d, r))) s (fun r _ => r.1.2 == 1 && r.2.1.length == 4) = true := by decide +kernel
/-- FetchAddScan. -/
theorem meets_fetch_add : let s := shaped 0x02 2 [(6, 0x2000)]
    Free s (.fas 4 5 6 0) ∧ classI (etTy s.hart.et) = true ∧ 32 ≤ etSew s.hart.et ∧ overlaps 4 1 5 1 = false ∧ (s.hart.sreg 6).toNat % 4 = 0 ∧
    accHas (working (rmwThere s.hart.agent 0x2000 4 fun x => x % 2 ^ 32)) s (fun r _ => decide r.1.Nodup) = true := by decide +kernel

/-- The machine with a window 7 of one word. -/
def withWindow : State := State.on (shaped 0x02 2 [(6, 0x2000), (7, 4)]) fun h => { h with windows := h.windows.set 7 ⟨true, 0x2000, 4, 2, 0, [(4096, 3)]⟩ }

/-- Windows: open and closed. -/
theorem meets_windows : (let s := shaped 0x02 2 [(6, 0x2000), (7, 0x4000)]
    Free s (.awopen 6 7 7) ∧ (s.hart.window 7).isOpen = false ∧ etSew s.hart.et / 8 = 4 ∧ (s.hart.sreg 7).toNat % 4 = 0 ∧
    ((s.hart.windows.toList.filter (·.isOpen)).map (·.bytes)).sum + (s.hart.sreg 7).toNat ≤ 16384 ∧ Free s (.accmerge 7) ∧ Free s (.awdiscard 7)) ∧
    (let s := withWindow
    (windowForm (.awmax 4 5 7 0)).isSome = true ∧ Free s (.awmax 4 5 7 0) ∧ fabricChecks s.hart 4 5 0 false ∧ (s.hart.window 7).isOpen = true ∧
    (s.hart.window 7).typ.toNat = etTy s.hart.et ∧ (s.hart.window 7).op = 0 ∧ (∀ e ∈ activeBits s.hart 0 2, s.hart.velem 32 5 e < (s.hart.window 7).words) ∧
    accHas (working (mergeAll s.hart.agent (s.hart.window 7) .rne)) s (fun r _ => r.1.length == 4) = true) := by decide +kernel

/-- The block of the example under 08_gather_fabric.md R236. -/
def gatherBlock : List Word :=
  [0x02003900, 0x64, 0, 0x3000000010000001, 0x40000000, 0, 0x51000000, 0x50000000, 0]

/-- That block configures a node for 100 elements of f32 into stream 3 (08_gather_fabric.md R236). -/
theorem test_gather_block : (let b : Vector Word 9 := ⟨gatherBlock.toArray, rfl⟩
    blockOk b none && blockOuts b == 100 && blockT b == 3 && blockTy b == 9) = true := by decide +kernel

/-- The machine with node 0 configured and nodes that physical nodes are free for. -/
def withFabric (st : NodeState) : State :=
  let s := State.on (withDws (withS [(6, 0x2800)]) 0x2800 gatherBlock) fun h => { h with
    fnodes := h.fnodes.set 0 { FabricNode.reset with state := st, block := ⟨gatherBlock.toArray, rfl⟩ } }
  s

/-- FabricLoadsBlocks. -/
theorem meets_fabric_load : let s := withFabric .idle
    Free s (.fload 6 0x80) ∧ (s.hart.sreg 6).toNat % 8 = 0 ∧ AtRest s.hart 0x80 ∧ (named 0x80).length = 1 ∧
    accHas (working ((List.range 1).mapM fun i => readBlock s.hart.agent (s.hart.sreg 6 + BitVec.ofNat 64 (72 * i)))) s
      (fun bs _ => bs.all (blockOk · none)) = true ∧ 1 + 2 ≤ (s.physFree s.hart.core).length := by decide +kernel
/-- FabricStops, FabricStatus and FabricEmptyMask. -/
theorem meets_fabric_masks : let s := withFabric .idle
    Free s (.fstop 1) ∧ Free s (.fstat 0xFF) ∧ Free s (.fstart 0) ∧ HasHandler s := by decide +kernel
/-- FabricStarts: a LOADED node whose graph is whole. -/
theorem meets_fabric_start : let s := withFabric .loaded
    Free s (.fstart 1) ∧ (∀ n ∈ named 1, (s.hart.fnode n).state ≠ .idle ∧ (s.hart.fnode n).state ≠ .done) ∧ s.hart.graphOk = true := by
  decide +kernel
/-- FabricDrains: a node that is DONE. -/
theorem meets_fabric_drain : let s := withFabric .done
    Free s (.fdrain 1) ∧ AtRest s.hart 1 ∧ (∀ n ∈ named 1, (s.hart.fnode n).owed.isNone = true) := by decide +kernel

/-- A chain of one stage: `vidx` into queue 0. -/
def chainWords : List (BitVec 32) := [0x01000080, 0xFFE02202, 5, 0, 1, 0]

/-- The machine with the words of a chain at 0x2000, which s6 names. -/
def withChainWords (ws : List (BitVec 32)) : State :=
  ws.zipIdx.foldl (fun s (x, i) => (toBytes 4 x.toNat).zipIdx.foldl (fun s (b, j) => s.setByte (0x2000 + 4 * i + j) b) s) (withS [(6, 0x2000)])

/-- The machine with that chain formed, and s6, s7. -/
def withChain (st : ChainState) (l : List (Fin 64 × Word)) : State := State.on (shaped 0x02 4 l) fun h => { h with
  grant := 0x30002, chain := { Chain.reset with state := st, words := chainWords, p := [0], q := h.chain.q.set 0 [9] } }

/-- ChainRuns, `chform`: a block that is well formed, one whose version is wrong, and a misaligned address. -/
theorem meets_chform : (let s := withChainWords chainWords
    Free s (.chform 6) ∧ (s.hart.sreg 6).toNat % 4 = 0 ∧ accHas (working (readChain (s.hart.sreg 6))) s (fun ws _ => ws == chainWords) = true ∧ chainBad chainWords = none) ∧
    (let s := withChainWords [0x02000080, 0xFFE02202, 5, 0, 1, 0]
    accHas (working (readChain (s.hart.sreg 6))) s (fun ws _ => chainBad ws == some 0) = true ∧ HasHandler s) ∧
    ((withS [(6, 0x2002)]).hart.sreg 6).toNat % 4 ≠ 0 := by decide +kernel
/-- ChainRuns, `chrun`: no element, the most elements, and one too many. -/
theorem meets_chrun : (let s := withChain .idle [(6, 0), (7, 0xFFFFFFFFFFFF)]
    Free s (.chrun 6) ∧ s.hart.chain.state ≠ .none ∧ s.hart.sreg 6 = 0 ∧ s.hart.grant.toNat % 32 ≠ 0 ∧ (s.hart.sreg 7).toNat < 2 ^ 48 ∧ lanes s.hart ≠ 0 ∧
    accHas ((chainStages s.hart.chain.words).forM (fun x => stageCheck x s.hart.et (lanes s.hart))) s (fun _ u => u.mem == s.mem) = true) ∧
    2 ^ 48 ≤ ((withChain .idle [(7, 0x1000000000000)]).hart.sreg 7).toNat ∧ HasHandler ready ∧ ready.hart.chain.state = .none := by decide +kernel
/-- ChainControl, `qwr`: a chain whose one stage takes its elements from queue 0. -/
theorem meets_qwr : let ws : List (BitVec 32) := [0x01000040, 0xFFE07739, 0, 0]
    let s := State.on (shaped 0x02 4 []) fun h => { h with chain := { Chain.reset with state := .idle, words := ws, p := [0] } }
    chainBad ws = none ∧ Free s (.qwr 0 6) ∧ s.hart.chain.state ≠ .none ∧ s.hart.chain.inQueue 0 = true ∧ (s.hart.chain.q[0]).length < 512 ∧ s.hart.lateStores = [] := by
  decide +kernel
/-- ChainControl: every other clause. -/
theorem meets_chain_control : (let s := withChain .temporal [(6, 0), (7, 1)]
    Free s .chwait ∧ Free s .chfree ∧ Free s .chbreak ∧ Free s .chstat ∧ Free s (.chidx 6) ∧ s.hart.chain.state ≠ .none ∧
    s.hart.chain.p[(s.hart.sreg 6).toNat]? = some 0 ∧ Free s (.qrd 0) ∧ s.hart.chain.outQueue 0 = true ∧ s.hart.chain.q[0] = [9] ∧ Free s (.qlen 31) ∧
    s.hart.chain.p.length ≤ (s.hart.sreg 7).toNat ∧ s.hart.chain.outQueue 1 = false ∧ s.hart.chain.inQueue 0 = false ∧ HasHandler s) := by decide +kernel
/-- LinkTokens: the longest transfer and one longer, and a collective. -/
theorem meets_link_operands : linkGood 0 0x2000 0x3000 0xFFFFFFFFFF ∧ ¬ linkGood 0 0x2000 0x3000 0x10000000000 := by
  refine ⟨?_, ?_⟩ <;> (unfold linkGood; decide +kernel)
/-- LinkTokens: a reduction. -/
theorem meets_collective : linkGood 2 0x2000 0x3000 0x200000004 := by unfold linkGood; decide +kernel
/-- LinkTokens: the instructions with a token that is DONE. -/
theorem meets_links : (linkForm (.lput 5 6 7 7)).isSome = true ∧ Free ready (.lput 5 6 7 7) ∧ ready.hart.links[7].state = .done ∧ HasHandler ready ∧
    Free ready (.lwait 7) ∧ Free ready .lfence ∧ (∀ k : Fin 8, ready.hart.links[k].state ≠ .busy) ∧ Free ready (.ltest 7) := by decide +kernel
/-- LinkTokens: a token that is FAULT. -/
theorem meets_link_fault : let s := State.on ready fun h => { h with links := h.links.set 7 { Token.reset with state := .fault, cause := 0x0F } }
    s.hart.links[7].state = .fault ∧ toHandler s.hart.links[7].cause = true ∧ HasHandler s ∧ Free s (.lwait 7) := by decide +kernel

/-! ### What meets the hypotheses: commands -/

/-- A command of the PF that comes directly, with operands. -/
def pf (a b c d : Word) : Cmd := ⟨0, false, 0, 0, a, b, c, d, 0, 0⟩

/-- The answer of a command goes nowhere and cannot fail, where there is no reply address and no signal. -/
theorem meets_answers (st : BitVec 8) (v : Word) : ∃ t, finishCommand (ready.fnAgent 0) 0 0 (st, v) ready = .ok () t := ⟨_, rfl⟩

/-- The machine with a user queue 3 of the PF that is STOPPED or not, and an event queue if `evq`. -/
def withQueues (stopped evq : Bool) : State :=
  { ready with funcs := ready.funcs.set 0 { ready.funcs[0] with
      queues := [⟨3, 0x3000, 0, 0x5000, 0, 0, false, 0, stopped, []⟩]
      evq := if evq then some ⟨0x6000, 0, 7, 0, false⟩ else none } }

/-- QueueAndGateCommands: a queue in the first number, a queue there and one STOPPED, an event queue, and roots of both stages. -/
theorem meets_queue_commands : Issued ready (pf 0x40000 0x5000 0x3108 0) 0x01 ∧ (0x3108 : Word) &&& 0xFFFFFFFFFFFFCEF0 = 0 ∧
    Issued ready (pf 3 0 0 0) 0x02 ∧ ((withQueues false false).queue 0 3).map (·.stopped) = some false ∧
    Issued ready (pf 3 0 0 0) 0x03 ∧ ((withQueues true false).queue 0 3).map (·.stopped) = some true ∧
    Issued ready (pf 0x6000 0x7FF00 0 0) 0x04 ∧ (0x7FF00 : Word) &&& 0xFFFFFFFFFFF800F0 = 0 := by decide +kernel
/-- QueueAndGateCommands: storing RIDX, roots of both stages, and invalidations of both kinds. -/
theorem meets_root_commands : accHas (storeElem (ready.fnAgent 0) 0x5000 8 0) ready (fun _ _ => true) = true ∧
    Issued ready (pf 128 1 0x2000 0) 0x10 ∧ Issued ready (pf 0 2 0x2000 0) 0x10 ∧
    ({ ready with parts := ready.parts.set 23 { ready.parts[23] with host := true } }.partOfFn 0) = some 23 ∧
    Issued ready (pf 128 1 0x2000 0x2000) 0x11 ∧ Issued ready (pf 23 2 0 0) 0x11 := by decide +kernel

/-- QueueAndGateCommands: gates. -/
theorem meets_gate_commands : Issued ready (pf 4095 0x2000 1 2) 0x20 ∧ (0x2000 : Word).toNat % 128 = 0 ∧
    accHas (loadDws (ready.fnAgent 0) 0x2000 16) ready (fun ws _ => (accessList ws).isSome) = true ∧ (pf 0 0 0 0).owner.toNat < 24 ∧
    ready.gate 4095 = none ∧ Issued ready (pf 5 0x2000 0 0) 0x21 ∧ ((withGateAt .active 0 []).gate 5).isSome = true ∧
    Issued ready (pf 5 1 2 0) 0x22 ∧ Issued ready (pf 5 0 0 0) 0x23 ∧ Issued ready (pf 5 0 0 0) 0x24 := by decide +kernel

/-- DeviceCommands: power, limits and their ends, counters, and an export that is there. -/
theorem meets_device_commands : Issued ready (pf 800 0 0 0) 0x50 ∧ Issued ready (pf 1801 0 0 0) 0x50 ∧
    Issued ready (pf 0x1000 0x10000000000 0 0) 0x51 ∧ Issued ready (pf 0x2000 0 0 0) 0x52 ∧ (0x2000 : Word).toNat % 64 = 0 ∧
    accHas (storeDws (ready.fnAgent 0) 0x2000 ready.counterDws) ready (fun _ _ => true) = true ∧ Issued ready (pf 1 2 0x2000 0) 0x41 := by
  decide +kernel
/-- DeviceCommands: the all-zero configuration of a partition that no task uses, the reset of a function, and a range of HBM that a
partition owns. -/
theorem meets_partition_commands : Issued ready (pf 23 0x2000 0 0) 0x40 ∧ accHas (loadDws (ready.fnAgent 0) 0x2000 96) ready (fun ws _ => partitionOk ws &&
    (List.finRange 24).all (fun j => j.val == 23 || !(partitionOf ws).clashes ready.parts[j])) = true ∧ ready.partBusy 23 = false ∧ ready.exports = [] ∧
    Issued ready (pf 128 0x4000 0 0) 0x42 ∧ ready.partAppliedOf 128 = [] ∧ (0x4000 : Word).toNat % 16384 = 0 := by decide +kernel

/-- CommandForms: a reserved operand, a function that may not, and a packet that a queue has reached. -/
theorem meets_command_checks : (commandOf (.powerSet (pf 800 1 0 0))).isSome = true ∧ commandOk 0x50 0 [800, 1, 0, 0] = false ∧
    rowTakes (.powerSet (pf 800 1 0 0)) = true ∧ commandOk 0x50 0 [800, 0, 0, 0] = true ∧ pfOnly 0x50 = true ∧ (1 : BitVec 8) ≠ 0 := by decide +kernel

/-! ### What meets the hypotheses: queues, tasks, events -/

/-- The machine whose partition 0 is the host's, with every stall and a pool of two save slots at 16 MiB, and whose hart is hart 0 of
task 9. -/
def hosted : State :=
  let s := inTask []
  { s with parts := s.parts.set 0 { s.parts[0] with host := true, stalls := Vector.replicate 16 (BitVec.allOnes 16), pool := 0x1000000, slots := 2 } }

/-- A packet. -/
def packetOf (dw : Vector Word 8) (st : PacketState) : Packet := ⟨dw, st⟩

/-- The machine `hosted` without a task and with a queue 3 of the PF that has these packets in hand. -/
def withPackets (ps : List Packet) : State :=
  { hosted with
    tasks := []
    funcs := hosted.funcs.set 0 { hosted.funcs[0] with queues := [⟨3, 0x3000, 0, 0x5000, 0, 0, false, 0, false, ps⟩] } }

/-- A LAUNCH packet of one hart at 0x1000 with MIN 1 and PREF 2. -/
def launchPk : Packet := packetOf #v[3, 0x1000, 0, 0x0002010100000000, 0, 0, 0, 0] .fresh
/-- A COMMAND packet: POWER_SET of 900 W. -/
def commandPk : Packet := packetOf #v[9, 0x50, 900, 0, 0, 0, 0, 0] .fresh
/-- A WAIT packet on the doubleword at 0x2000, with threshold 0. -/
def waitPk (st : PacketState) : Packet := packetOf #v[7, 0, 0x2000, 0, 0, 0, 0, 0] st

/-- CommandForms: a command that a queue has reached. -/
theorem meets_ring_command : (let s := withPackets [commandPk]
    let x : Cmd := ⟨0, true, 3, 0, 0, 0, 0, 0, 0, 0⟩
    (commandOf (.powerSet x)).isSome = true ∧ ((s.queue 0 3).bind (·.reached)) = some (0, commandPk) ∧ commandPk.state = .fresh ∧ commandPk.typ = 4 ∧
    commandPk.ok = true ∧ s.denies 0 3 commandPk = false ∧ s.nextQueue = some (queueKey 0 3) ∧ (commandPk.at 1).toNat % 2 ^ 16 = 0x50 ∧
    accHas (finishCommand (s.fnAgent 0) 0 0 (0, 0)) (inHand s 0 3 0) (fun _ u => u.sent == []) = true) := by decide +kernel
/-- QueuesAndPackets: no queue, one that is STOPPED, one whose next slot has V clear, and one whose next slot has V set. -/
theorem meets_scans : ready.queue 0 3 = none ∧ ((withQueues true false).queue 0 3).map (·.stopped) = some true ∧
    ((withQueues false false).queue 0 3).all (fun u => accHas (scanSlot ((withQueues false false).fnAgent 0) u) (withQueues false false)
      (fun p _ => p.isNone)) = true ∧
    (let s := withDws (withQueues false false) 0x3000 [11]
    (s.queue 0 3).all (fun u => accHas (scanSlot (s.fnAgent 0) u) s fun p v => p.isSome &&
      (let u' := { u with ridx := u.ridx + 1, pending := u.pending ++ p.toList }
      accHas (scanSlot (s.fnAgent 0) u') (v.modQueue 0 3 fun _ => u') (fun p _ => p.isNone))) = true) := by decide +kernel
/-- QueuesAndPackets: a SIGNAL and a NOP, and a WAIT at its threshold and above it. -/
theorem meets_packets : (let p := packetOf #v[5, 1, 0, 0, 0, 0, 0x2000, 0] .fresh
    let s := withPackets [p]
    ((s.queue 0 3).bind (·.reached)) = some (0, p) ∧ p.ok = true ∧ p.typ = 2 ∧ s.denies 0 3 p = false ∧ s.nextQueue = some (queueKey 0 3) ∧
    accHas (crierSignal (s.fnAgent 0) (p.at 6) (p.at 1).toNat) (inHand s 0 3 0) (fun _ _ => true) = true) ∧
    (packetOf #v[11, 0, 0, 0, 0, 0, 0, 0] .fresh).ok = true ∧ (packetOf #v[11, 0, 0, 0, 0, 0, 0, 0] .fresh).typ = 5 ∧
    (let s := withPackets [waitPk .waiting]
    ((s.queue 0 3).bind (·.reached)) = some (0, waitPk .waiting) ∧ (waitPk .waiting).ok = true ∧ s.denies 0 3 (waitPk .waiting) = false ∧
    accHas (loadElem (s.fnAgent 0) 0x2000 8) (handed s 0 3 0 (waitPk .waiting)) (fun x _ => x == 0) = true ∧
    accHas (loadElem (s.fnAgent 0) 0x2000 8) (handed (s.setByte 0x2000 1) 0 3 0 (waitPk .waiting)) (fun x _ => x == 1) = true) := by decide +kernel
/-- QueuesAndPackets: a LAUNCH that is accepted, one with a reserved bit, and one that is denied. -/
theorem meets_launch_packet : (let s := withPackets [launchPk]
    ((s.queue 0 3).bind (·.reached)) = some (0, launchPk) ∧ launchPk.typ = 1 ∧ launchPk.ok = true ∧ s.denies 0 3 launchPk = false ∧ s.nextQueue = some (queueKey 0 3) ∧
    (launchPk.terms []).all (fun k => decide (k.min ≤ 16 ∧ k.min ≤ k.pref ∧ k.pref ≤ 16) && s.sizeOk 0 k 1 && s.tileOk 0 k 1 && s.gatesOk 0 k) = true ∧
    (launchPk.terms []).isSome = true ∧ s.partOfFn 0 = some 0) ∧ (packetOf #v[0x803, 0x1000, 0, 0x100000000, 0, 0, 0, 0] .fresh).ok = false ∧
    ready.denies 0 3 launchPk = true := by decide +kernel

/-- The machine `hosted` with one task that is to be placed. -/
def queuedTask : State := { hosted with tasks := [{ aTask with status := 0x01, places := [.unplaced], cores := [] }] }
/-- The machine `hosted` with its task's hart in the hart queue of core 1. -/
def waitingHart : State := { hosted with
  tasks := [{ aTask with places := [.queued 1], cores := [1] }], waiters := [⟨9, 0, 1, 0⟩] }
/-- The machine `hosted` whose hart asks for more stalls than the power ceiling leaves. -/
def overPower : State := { State.on hosted fun h => { h with lease := 0x10101 } with power := 680, stallCeil := hosted.stallCeil.set 0 0 }

/-- TaskEvents: placement and admission. -/
theorem meets_placement : (let s := queuedTask
    (s.task 9).all (fun k => k.status == 0x01 && s.placeable k && s.coresOk k [1] 1 && (s.taskHomes k 1 1).isSome) = true ∧ (s.task 9).isSome = true) ∧
    (let s := waitingHart
    s.firstAnswered 1 = none ∧ (s.firstWaiter 1).map (·.seq) = some 9 ∧ s.freeHart 1 = some 4 ∧ (s.task 9).isSome = true ∧ s.fits 1 0 0 = (true, true)) := by
  decide +kernel
/-- TaskEvents: pre-emption with a save slot, and without. -/
theorem meets_preemption : (let s := overPower
    s.preempts 0 1 = true ∧ s.harts[0].lateStores = [] ∧ s.freeSave s.harts[0].part = some 0) ∧
    (let s := { overPower with parts := overPower.parts.set 0 { overPower.parts[0] with slots := 0 } }
    s.preempts 0 1 = true ∧ s.freeSave s.harts[0].part = none) := by decide +kernel
/-- TaskEvents: delivery of a record. -/
theorem meets_record : (let s := { withQueues false true with records := [⟨0, Vector.replicate 8 0⟩] }
    (s.eventQueue 0).all (fun e => accHas (writeRecord (s.fnAgent 0) e ⟨0, Vector.replicate 8 0⟩) s (fun b _ => b) && !e.faulted) = true ∧
    (s.eventQueue 0).isSome = true ∧ s.records.find? (fun r => s.recordDest r = 0) = some ⟨0, Vector.replicate 8 0⟩) := by decide +kernel

/-! ### What meets the hypotheses: tasks and contexts, the debugger -/

/-- The package with the hart of slot 0 changed. -/
def slot0 (s : State) (f : Hart → Hart) : State := { s with harts := s.harts.set 0 (f s.harts[0]) }

/-- The saved context of the hart of `hosted`, whose record waits for RESUME, or not. -/
def savedSlot (st : SlotState) (waits : Bool) : SaveSlot :=
  { part := 0, idx := 0, state := st, core := 0, pend := 0, waiting := waits, since := 0, dest := 0, ctx := hosted.harts[0], got := [] }

/-- A RESUME by the PF of hart 0 of task 9. -/
def answerTo (c : Word) : Command := ⟨0, 5, 0, 9, 0, c, 0⟩

/-- TaskCommands, RESUME: a saved context, a hart stopped in place, an operand node, a chain, and nothing that waits. -/
theorem meets_resume : Issued hosted (pf 9 0 0 0) 0x05 ∧ Issued hosted (pf 9 0 1 0) 0x05 ∧
    (answerTo 0).waiting { hosted with saves := [savedSlot .saved true] } = some (.saved 0 0) ∧
    (answerTo 0).waiting (slot0 hosted fun h => { h with run := .stopped }) = some (.inPlace 0) ∧
    (answerTo 1).waiting (slot0 hosted fun h => { h with
      onodes := h.onodes.set 15 { h.onodes[15] with state := .held, heldBy := some 0 } }) = some (.node 0 15) ∧
    (answerTo 0).waiting (slot0 hosted fun h => { h with chain := { h.chain with state := .held, heldBy := some 0 } }) = some (.chain 0) ∧
    (answerTo 0).waiting hosted = none := by decide +kernel
/-- TaskCommands, TASK_ABORT and RESUME_SAVE: a task, and no, one and two transfers that wait. -/
theorem meets_task_commands : Issued hosted (pf 9 0 0 0) 0x06 ∧ hosted.task 9 = some aTask ∧ aTask.fn = 0 ∧
    Issued hosted (pf 0 0 0 0) 0x07 ∧ pendingOn hosted 0 0 = [] ∧
    (pendingOn { hosted with saves := [savedSlot .savePending false] } 0 0).map (·.state) = [.savePending] ∧
    (pendingOn { hosted with saves := [savedSlot .restorePending false, { savedSlot .savePending false with idx := 1 }] } 0 0).length = 2 := by
  decide +kernel

/-- A mask of partition 5, which has nothing. -/
def onlyFive : Word := 0x20
/-- The sections of its image: the empty handle table. -/
def fiveSections : List (List Word) := [section_ 6 (5 :: List.replicate 1280 0)]

/-- The package before the image is written. -/
def savedFive : State := hosted.saveAll onlyFive

/-- TaskCommands, MIGRATE_OUT, at the greatest destination: the command is issued, nothing stays, and the image has its sections. -/
theorem meets_migrate_out : Issued hosted (pf 0x20 1791 0x2000 0) 0x30 ∧ hosted.slotPending onlyFive = false ∧ hosted.gates.isEmpty = true ∧
    savedFive.staysOn onlyFive = false ∧ savedFive.slotPending onlyFive = false ∧
    accHas (imageSections onlyFive) savedFive (fun xs _ => xs == fiveSections) = true := by decide +kernel
/-- TaskCommands, MIGRATE_OUT: of no partition, with the place for the image. -/
theorem meets_migrate_none : Issued hosted (pf 0 0 0x2000 0) 0x30 ∧ hosted.slotPending 0 = false ∧ hosted.gates.isEmpty = true ∧
    (hosted.saveAll 0).staysOn 0 = false ∧ (hosted.saveAll 0).slotPending 0 = false ∧
    accHas (imageSections 0) (hosted.saveAll 0) (fun xs v => xs == [] &&
      accHas (storeDws (hosted.fnAgent 0) 0x2000 (imageHeader 0 0 0 0 0)) v (fun _ _ => true)) = true := by decide +kernel

/-- The machine with an image of one gate at 0x2000, for a partition 0 that is configured. -/
def withImage : State :=
  let xs := section_ 5 (putGate ⟨9, .active, 3, 4, 0, [], []⟩)
  withDws { hosted with parts := hosted.parts.set 0 { hosted.parts[0] with raw := 1 :: List.replicate 767 0 } } 0x2000
    (imageHeader 1 7 0 0 1 ++ xs)
/-- TaskCommands, MIGRATE_IN. -/
theorem meets_migrate_in : Issued withImage (pf 0x2000 0 0 0) 0x31 ∧ accHas (loadDws (withImage.fnAgent 0) 0x2000 8) withImage (fun hd u =>
      hd[0]? == some 0x4145444901000000 && hd[3]? == some (withImage.pkg.setWidth 64) && hd[1]? == some 1 &&
      (withImage.parts[0].raw.any (· ≠ 0)) && accHas (readSections (withImage.fnAgent 0) 1 0x2040) u (fun xs v =>
        xs.all (fun y => y.1 == 5 && v.gate (rdGate.of y.2).id == none) && accHas (sectionsIn xs) v fun b w => b && w.gates.length == 1)) = true := by
  decide +kernel

/-- The machine `hosted` whose hart is in debug halt, with its window open. -/
def inHalt : State := slot0 hosted fun h => { h with run := .halted, dbg := some h.held }

/-- DebugCommands: a hart that runs. -/
theorem meets_debug (c : Fin 7) : Issued hosted (pf 9 0 (BitVec.ofNat 64 c.val) 0) 0x60 ∧ Debugs hosted (pf 9 0 (BitVec.ofNat 64 c.val) 0) 0 :=
  ⟨by revert c; decide +kernel, aTask, by revert c; decide +kernel⟩
/-- DebugCommands: a hart in debug halt, a word that is writable and one that is none. -/
theorem meets_halted : hosted.harts[0].run = .running ∧ inHalt.harts[0].run = .halted ∧ inHalt.harts[0].dbg = some hosted.harts[0].held ∧
    (inHalt.harts[0].windowWrite hosted.harts[0].held 0 0x1005 7).isSome = true ∧
    (inHalt.harts[0].windowWrite hosted.harts[0].held 0 0x7FFFFF00 7).isSome = false := by decide +kernel
/-- DebugCommands: the hart in debug halt is the one that READ and WRITE name. -/
theorem meets_halted_command : Debugs inHalt (pf 9 0 4 0) 0 := ⟨aTask, by decide +kernel⟩

/-! ### What meets the hypotheses: an image of any contents -/

theorem bytesDws_length (n : Nat) (bs : List Byte) : (bytesDws n bs).length = n := by
  induction n generalizing bs with
  | zero => rfl
  | succ n ih => simp [bytesDws, ih]

/-- A package is flat, as it is decided. -/
def flatHere (s : State) : Bool :=
  decide ((s.funcs[0]?).map Func.root = some 0x200000 ∧ s.ecc = [] ∧ Memory.wf s.mem ∧
    (dwLocs 0x200000).map (Memory.read s.mem) = toBytes 8 0x210001 ∧ (dwLocs 0x210000).map (Memory.read s.mem) = toBytes 8 0xCF ∧
    (∀ c ∈ s.tlb, c.tile = false ∧ c.loc = c.page * 0x2000 ∧ c.gpage = c.page) ∧ s.work.isNone = true ∧ s.hart.late.isNone = true)

/-- What `flatHere` says. -/
theorem flatHere_iff (s : State) (h : flatHere s = true) : Flat s := by
  obtain ⟨k1, k2, k3, k4, k5, k6, k7, k8⟩ := of_decide_eq_true h
  exact ⟨k1, k2, k3, k4, k5, k6, (fun x e => by rw [e] at k7; cases k7), Option.isNone_iff_eq_none.1 k8⟩

/-- DeviceCommands: ATTEST, whatever the device signs with. -/
theorem meets_attest : Issued ready (pf 0x3000 0x4000 0 0) 0x43 ∧ ready.fnAgent 0 = (pfAgent 31) ∧ ∃ u v w,
    (List.range 32).mapM (fun k => loadElem (pfAgent 31) (0x3000 + BitVec.ofNat 64 k) 1) ready = .ok (List.replicate 32 0) u ∧
    let body := u.reportBody 0 ((List.replicate 32 0).map (BitVec.ofNat 8))
    storeDws (pfAgent 31) 0x4000 (bytesDws 32 body) u = .ok () v ∧
    storeDws (pfAgent 31) 0x4100 (bytesDws 982 (identitySignature body)) v = .ok () w := by
  obtain ⟨bs, u, h1, h2⟩ := accHas_iff ((List.range 32).mapM (fun k => loadElem (pfAgent 31) (0x3000 + BitVec.ofNat 64 k) 1)) ready
    (fun bs (s : State) => decide (bs = List.replicate 32 0) && flatHere s) (by decide +kernel)
  obtain ⟨rfl, k⟩ := (Bool.and_eq_true _ _ ▸ h2 : _ ∧ _).imp_left of_decide_eq_true
  obtain ⟨⟨⟩, v, hv, gf, -⟩ := Okay.storeDws (p := 31) (c := none) (k := none) 0x4000
    (bytesDws 32 (u.reportBody 0 ((List.replicate 32 0).map (BitVec.ofNat 8)))) (by rw [bytesDws_length]; decide) u (flatHere_iff u k)
  obtain ⟨⟨⟩, w, hw, -, -⟩ := Okay.storeDws (p := 31) (c := none) (k := none) 0x4100 (bytesDws 982
    (identitySignature (u.reportBody 0 ((List.replicate 32 0).map (BitVec.ofNat 8))))) (by rw [bytesDws_length]; decide) v gf
  exact ⟨by decide +kernel, by decide +kernel, u, v, w, h1, hv, hw⟩

/-- TaskCommands, MIGRATE_OUT of partition 5 with the place for its image. -/
theorem meets_migrate_place : hosted.fnAgent 0 = pfAgent 0 ∧ ∃ v w, imageSections onlyFive savedFive = .ok fiveSections v ∧
    storeDws (pfAgent 0) 0x2000 (imageHeader onlyFive 0 1791 0 1 ++ fiveSections.flatten) v = .ok () w := by
  obtain ⟨xs, v, h1, h2⟩ := accHas_iff (imageSections onlyFive) savedFive
    (fun xs (s : State) => decide (xs = fiveSections) && flatHere s) (by decide +kernel)
  obtain ⟨rfl, k⟩ := (Bool.and_eq_true _ _ ▸ h2 : _ ∧ _).imp_left of_decide_eq_true
  obtain ⟨⟨⟩, w, hw, -, -⟩ := Okay.storeDws (p := 0) (c := none) (k := none) 0x2000 (imageHeader onlyFive 0 1791 0 1 ++ fiveSections.flatten)
    (by decide +kernel) v (flatHere_iff v k)
  exact ⟨by decide +kernel, v, w, h1, hw⟩

/-! ### What meets the hypotheses: contexts, waits and events -/

/-- The task of `hosted` with a tile region at 1 GiB homed on core 0, and a partition with two banks there. -/
def withRegion (l : List (Fin 64 × Word)) : State :=
  let s := withDws (withDws (withDws (inTask l) 0x210008 [0x220001]) 0x220000 [0x221001]) 0x221000 [0xD7]
  { s with
    parts := s.parts.set 0 { s.parts[0] with host := true, banks := s.parts[0].banks.set 0 3 }
    tasks := [{ aTask with tiles := [⟨0x40000000, 0x1000, false, some (0, 0)⟩] }] }

/-- A descriptor of two tiles of 32 bytes from 0x2000 to a buffer of two in that region. -/
def nodeDesc : List Word := [0x2000, 0x40000000, 0x100000020, 2, 0, 0x20, 0, 0]
/-- The same as a node's. -/
def nodeVec : Vector Word 8 := ⟨nodeDesc.toArray, rfl⟩

/-- The lane row of eight elements of 4 bytes, `n` words apart from word 0 of a region at HOME 0, over 240 banks. -/
def strideRow (n : Nat) : List Nat :=
  (List.range 8).flatMap fun e => (List.range 4).map fun b => tileLoc 0 (n * e % 240) (n * e / 240) b

/-- The table of strides of 06_port.md (after R187). -/
theorem test_row_cost : [1, 2, 30, 120, 240].map (fun n => rowCost (strideRow n)) = [1, 1, 1, 4, 8] := by decide +kernel

/-- The machine whose standing chain loads eight elements from host memory, at 1 GiB. -/
def withHostChain : State := State.on (withDws (shaped 0x02 8 []) 0x210008 [0x80000000000C7]) fun h => { h with
  grant := 0x10001
  chain := { Chain.reset with
    state := .standing, words := [0x01000080, 0xFFE02A02, 0x40000000, 0, 0, 0], p := [0], n := 8, l := 8, et := 0x02, plan := [(8, [0])] } }

/-- ChainContract: the bounds of banks and rows, elements in host memory, in one bank and in two, and a stage that breaks. -/
theorem meets_contract : bankOf (tileLoc 15 255 6143 3) = some (4095, 6143) ∧ bankOf (0x8100000000 + 15 * 0x80000 + 0x7FFFF) = some (4351, 4095) ∧
    (withHostChain.elemsReach .load 4 [0x40000000]).any (fun xs => xs.any fun p => p.2.any fun l => levelOf l == .host) = true ∧
    (withRegion []).rowKeeps true .load 4 [0x40000000, 0x40000008] = false ∧ (withRegion []).rowKeeps true .load 4 [0x40000000, 0x40000004] = true ∧
    (withHostChain.nextRow 0).any (fun (x, start, hi, top) => top == 8 &&
      withHostChain.rowBreaks x 0 0x02 (withHostChain.hart.chain.inputs 0 start hi top)) = true ∧ withHostChain.hart.chain.state = .standing := by
  decide +kernel

/-- A stage that reaches host memory breaks its chain (04_memory_model.md R102), with nothing of the lane row done. -/
theorem test_contract_break : accHas (runConvoy [0]) withHostChain (fun b t =>
    b && t.hart.chain.state == .temporal && t.hart.chain.cause == 4 && t.hart.chain.slot == 0 && t.hart.chain.breaks == 1 &&
    t.hart.chain.p == [0]) = true := by decide +kernel

/-- TaskEvents: the save of a context. -/
theorem meets_save : (let s := { slot0 hosted (fun h => { h with run := .preempted }) with saves := [savedSlot .saving false] }
    let v := savedSlot .saving false
    s.saves.find? (fun v => v.dest = 0 ∧ v.state = .saving) = some v ∧
    (match poolWrite (s.poolAgent v.part v.ctx.fn) (s.slotBase v.part v.idx) [(0, ((headerDws v.ctx s.time 1 0)[0]?).getD 0)] s with
      | (some _, _) => false
      | (none, a) => (poolWrite (s.poolAgent v.part v.ctx.fn) (s.slotBase v.part v.idx)
        ((saveSections v.ctx s.time).flatMap (fun (off, xs) => xs.zipIdx.map fun (x, i) => (off + 8 * i, x)) ++
          (headerDws v.ctx s.time 2 0).zipIdx.map fun (x, i) => (8 * i, x)) a).1.isNone) = true) := by decide +kernel

/-- The machine `hosted` with its hart in save slot 0 and hart slot 4 free for it. -/
def inSlot : State :=
  let v := savedSlot .saved false
  withDws { hosted with
    saves := [v], harts := hosted.harts.set 0 Hart.reset, tasks := [{ aTask with places := [.saved 0] }] } 0x1000000 ((headerDws v.ctx 0 2 0).take 2)

/-- The save slot of `inSlot` while it is restored to hart slot 4. -/
def restoring : SaveSlot := { savedSlot .saved false with state := .restoring, dest := 4, core := 1 }

/-- The package `inSlot` with its restore under way. -/
def underWay : State :=
  let w1 := inSlot.modSave 0 0 (fun _ => restoring)
  { w1 with harts := w1.harts.set 4 (restoring.placeholder (w1.physFree 1) 4) }

/-- TaskEvents: the restore of a context. -/
theorem meets_restore : inSlot.save 0 0 = some (savedSlot .saved false) ∧ inSlot.mayRestore (savedSlot .saved false) 4 = true ∧
    inSlot.homesFor (savedSlot .saved false) 1 = some inSlot ∧
    (match poolSection (underWay.poolAgent 0 0) (underWay.slotBase 0 0) 0 32 ⟨underWay, [], []⟩ with
      | (.ok hd, r) => ((hd[0]?).getD 0).toNat / 2 ^ 32 == 0x41454448 && ((hd[0]?).getD 0).toNat / 2 ^ 24 % 2 ^ 8 == 1 && hd.length == 32 &&
          ((hd[1]?).getD 0).toNat % 2 ^ 32 == 9 &&
          (match poolWrite (underWay.poolAgent 0 0) (underWay.slotBase 0 0) [(0, withSlotState ((hd[0]?).getD 0) 4)] r.s with
            | (none, x) => (match poolBody (underWay.poolAgent 0 0) (underWay.slotBase 0 0) hd { r with s := x } with
                | (.ok _, _) => true
                | (.error _, _) => false)
            | (some _, _) => false)
      | (.error _, _) => false) = true := by
  refine ⟨by decide +kernel, by decide +kernel, ?_, by decide +kernel⟩
  have h : ((inSlot.task (savedSlot .saved false).ctx.seq).map fun t => t.homedFor 1) = some true := by decide +kernel
  unfold State.homesFor
  cases e : inSlot.task (savedSlot .saved false).ctx.seq with
  | none => rw [e] at h; cases h
  | some t => rw [e] at h; exact if_pos (Option.some.inj h)

/-- TaskEvents: a record that is retried. -/
theorem meets_retry : (let r : HeldRecord := ⟨0, Vector.replicate 8 0⟩
    let e : EventQueue := ⟨0x6000, 0, 7, 0, true⟩
    let s := { ready with funcs := ready.funcs.set 0 { ready.funcs[0] with evq := some e }, records := [r] }
    s.eventQueue 0 = some e ∧ s.records.find? (fun r => s.recordDest r = 0) = some r ∧
    accHas (writeRecord (s.fnAgent 0) e r) s (fun b _ => b) = true) := by decide +kernel

/-- DeviceCommands: an export of a range that the exporter owns. -/
theorem meets_export : (let s := { ready with parts := ready.parts.set 3 { ready.parts[3] with c0 := 1 } }
    Issued s (pf 3 4 0x2000 0x2000) 0x41 ∧ ((s.part 3).getD .reset).ownsRange 0x2000 0x2000 = true ∧ s.exports.length < 256) := by decide +kernel

/-- The machine whose hart is at an instruction word, with a gate and its handle in s18. -/
def atWord (w : BitVec 32) (posts : List (Fin 64)) : State :=
  let s := withGateAt .active 0 posts
  let s := (toBytes 4 w.toNat).zipIdx.foldl (fun s (b, i) => s.setByte (0x1000 + i) b) s
  State.on s fun h => { h with s := (h.s.set 18 0x100).set 5 0x100 }

/-- The word at the hart's pc is one of an instruction. -/
def wordIs (w : BitVec 32) (i : Instr) (s : State) : Prop :=
  s.runs 0 = true ∧ s.harts[0].stepping = 0 ∧ decode (.full w) = .ok i ∧
  accHas (fetchWord s.harts[0].agent s.harts[0].pc) (atSlot s 0) (fun e _ => e == .full w) = true

/-- WaitEvents: the posts, with the hart among those that wait. -/
theorem meets_posts : wordIs 0x0090A075 (.gpost 5 18) (atWord 0x0090A075 [0]) ∧ wordIs 0x033A42F5 (.gpostPayload 5 18 39) (atWord 0x033A42F5 [0]) ∧
    (∃ g ∈ (atWord 0x0090A075 [0]).gates, (0 : Fin 64) ∈ g.posts) := by unfold wordIs; decide +kernel
/-- WaitEvents: the waits. -/
theorem meets_waits : wordIs 0x213A42F5 (.gwait 5 18 39) (atWord 0x213A42F5 []) ∧ wordIs 0x0690A077 (.sigwait 5 18) (atWord 0x0690A077 []) ∧
    wordIs 0x0400A031 (.waitt 5) (atWord 0x0400A031 []) := by unfold wordIs; decide +kernel

/-- A trap of an engine falls on the head of a queue: an entry of a scalar access in the PIQ. -/
def withEntry : State := State.on (withS [(6, 0x2002)]) fun h => { h with piq := [⟨.tfree 3, none, 0x1000, 0, 0, 0, 0, 0, 0, 0, 1, false, 0, []⟩] }
/-- EngineEvents: a trap. -/
theorem meets_engine_trap : withEntry.runs 0 = true ∧ ((withEntry.harts[0].queueOf 2).head?).isSome = true ∧ toHandler 0x0F = true ∧
    HasHandler (atSlot withEntry 0) := by decide +kernel

/-- The machine with a busy copy and a busy `lget` of 16 bytes; package 1 is at 1 GiB. -/
def withBusy (src : Word) : State :=
  let s := State.on (withDws ready 0x210008 [0x10100000000C7]) fun h =>
    { h with copies := h.copies.set 15 { Token.reset with state := .busy, dst := 0x3000, src := src, len := 16 }
             links := h.links.set 7 { Token.reset with state := .busy, dst := 0x3000, src := src, len := 16, op := 1 } }
  { s with routes := [(1, 1)] }
/-- EngineEvents: copies that end, fail and time out. -/
theorem meets_copy_events : (let s := withBusy 0x2000
    s.runs 0 = true ∧ (s.harts[0].copy 15).state = .busy ∧
    (workingOn (copyBytes s.harts[0].agent (s.harts[0].copy 15) 0 16) (atSlot s 0)).1 = (16, none) ∧
    ((workingOn (copyBytes s.harts[0].agent (s.harts[0].copy 15) 0 16) (withLate s 0 0x2008)).1.2.map fun (e : Fail) => e.code) = some 0x09) ∧
    (let s := withBusy 0x80000000
    ((workingOn (copyBytes s.harts[0].agent (s.harts[0].copy 15) 0 16) (atSlot s 0)).1.2.map fun (e : Fail) => e.code) = some 0x10) := by
  decide +kernel
/-- EngineEvents: link operations that end, fail and time out. -/
theorem meets_link_events : (let s := withBusy 0x40000000
    let n := s.harts[0].links[7].unit.2
    s.runs 0 = true ∧ s.harts[0].links[7].state = .busy ∧
    (workingOn (linkElems s.harts[0].agent s.harts[0].links[7] 0 n) (atSlot s 0)).1.2 = none ∧
    ((workingOn (linkElems s.harts[0].agent s.harts[0].links[7] 0 n) (withLate s 0 0x40000008)).1.2.map fun (e : Fail) => e.code) = some 0x09) ∧
    (let s := withBusy 0x80000000
    let n := s.harts[0].links[7].unit.2
    ((workingOn (linkElems s.harts[0].agent s.harts[0].links[7] 0 n) (atSlot s 0)).1.2.map fun (e : Fail) => e.code) = some 0x10) := by
  decide +kernel
/-- EngineEvents: an element that arrives, and one that fails. -/
theorem meets_arrival : (let s := withStream .load
    let x := s.harts[0].streams[15]
    let n := x.first + x.ahead.length
    s.runs 0 = true ∧ x.kind = .load ∧ n < x.len ∧
    accHas (loadAt s.harts[0].agent (tyWidth x.ty) (x.addr n) n) (atSlot s 0) (fun _ _ => true) = true ∧
    (match loadAt s.harts[0].agent (tyWidth x.ty) (x.addr n) n (withLate s 0 (x.addr n)) with
      | .ok _ _ => false
      | .error e _ => e.code == 0x09) = true) := by decide +kernel

/-- The machine with that chain attached, in a state, at element `p` of 64 in strips of 32. -/
def attachedAt (st : ChainState) (p : Nat) : State :=
  State.on (withChain st []) fun h => { h with
    chain := { h.chain with p := [p], n := 64, l := 32, et := 0x02 }
    viq := [⟨.chrun 6, none, 0x1000, 0, 0, 0, 0, 0, 0, 0, 1, true, 0, []⟩] }
/-- The machine with a standing run of two stalls under a ceiling, with a lent stall of core 1 and a link that it crosses. -/
def takenStalls (own ceil : Nat) (lent : List (Nat × Nat)) : State :=
  let s := attachedAt .standing 0
  { State.on s fun h => { h with target := 1, chain := { h.chain with lent := lent, links := 4 } } with
    stallCeil := (s.stallCeil.set 0 own).set 1 ceil }
/-- ChainAndNodeEvents: a run that breaks. -/
theorem meets_chain_break : (let s := takenStalls 1 16 []
    s.runs 0 = true ∧ s.harts[0].chain.state = .standing ∧ 0 < blockS s.harts[0].chain.words ∧ s.harts[0].chain.links = 4 ∧
    s.harts[0].chain.lent = [] ∧ (atSlot s 0).stallsShort 0 s.harts[0].scopePart 0 = 1 ∧ s.harts[0].target = 1 ∧
    ((List.range 16).filter fun i => s.harts[0].grant.getLsbD (16 + i)) = [0, 1]) ∧
    (atSlot (takenStalls 16 16 []) 0).stallsShort 0 0 0 = 0 ∧
    0 < (atSlot (takenStalls 16 0 [(1, 0)]) 0).stallsShort 1 0 1 := by decide +kernel
/-- ChainAndNodeEvents: a run that re-forms. -/
theorem meets_chain_reform : let s := attachedAt .temporal 32
    s.runs 0 = true ∧ s.harts[0].attached = true ∧ s.harts[0].chain.pin = false ∧ (∀ x ∈ s.harts[0].chain.p, x = 32) ∧
    s.harts[0].chain.p ≠ [] ∧ s.harts[0].chain.notBefore ≤ 32 ∧ s.harts[0].chain.cause ≠ 7 ∧ 32 % s.harts[0].chain.l = 0 ∧
    (atSlot s 0).formation.1 = [] ∧ (atSlot s 0).formation.2.toOption.isSome = true := by decide +kernel
/-- ChainAndNodeEvents: a run that ends. -/
theorem meets_chain_detach : let s := attachedAt .temporal 64
    s.runs 0 = true ∧ s.harts[0].attached = true ∧ s.harts[0].chain.p ≠ [] ∧ (∀ x ∈ s.harts[0].chain.p, s.harts[0].chain.n ≤ x) := by decide +kernel

/-- ChainAndNodeEvents: the last iteration of a node. -/
theorem meets_node_finish : (let s := State.on (withFabric .running) fun h => { h with fnodes := h.fnodes.set 0 { h.fnodes[0] with iter := 99 } }
    s.runs 0 = true ∧ (s.harts[0].fnode 0).state = .running ∧ blockIters (s.harts[0].fnode 0).block = 100 ∧
    blockFollow (s.harts[0].fnode 0).block = false ∧ ((atSlot s 0).nodeIter 0).isSome = true) := by decide +kernel
/-- The block of a node that waits for a token, and sends what it receives to its router. -/
def waitingBlock : Vector Word 9 := #v[0x02010900, 0x64, 0, 0x70000000, 0, 0, 0, 0, 0]
/-- The machine with that node running, before full links or without tokens. -/
def waitingNode (ts : List FabricToken) : State := State.on ready fun h =>
  { h with fnodes := h.fnodes.set 0 { FabricNode.reset with state := .running, block := waitingBlock }, ftokens := ts }

/-- A round in which no node and no router can do anything. -/
theorem fabricRound_still (s : State) (h1 : ∀ n ∈ List.range 8, (s.nodeIter n).isNone = true)
    (h2 : ∀ n ∈ List.range 8, (s.hart.routerStep n).isNone = true) : s.fabricRound = (false, s) := by
  unfold State.fabricRound
  suffices H : ∀ l : List Nat, (∀ n ∈ l, (s.nodeIter n).isNone = true) → (∀ n ∈ l, (s.hart.routerStep n).isNone = true) →
      l.foldl (fun (x : Bool × State) n =>
        let (moved, s) := match x.2.nodeIter n with
          | some s => (true, s)
          | none => (x.1, x.2)
        if (s.hart.fnode n).routes then match s.hart.routerStep n with
          | some h => (true, s.setHart h)
          | none => (moved, s)
        else (moved, s)) (false, s) = (false, s) from H _ h1 h2
  intro l
  induction l with
  | nil => intro _ _; rfl
  | cons n l ih =>
    intro k1 k2
    have e1 := Option.isNone_iff_eq_none.1 (k1 n (by simp))
    have e2 := Option.isNone_iff_eq_none.1 (k2 n (by simp))
    rw [List.foldl_cons]
    simp only [e1, e2, ite_self]
    exact ih (fun m hm => k1 m (by simp [hm])) (fun m hm => k2 m (by simp [hm]))

/-- ChainAndNodeEvents: a token before a full link, and a graph that waits for a token which nothing sends. -/
theorem meets_bell : blockOk waitingBlock none = true ∧ (let s := waitingNode (⟨0, 0, 3, false, ⟨5, none⟩⟩ :: List.replicate 4 ⟨0, 0, 0, false, ⟨5, none⟩⟩)
    s.runs 0 = true ∧ (atSlot s 0).bellMay 0 0 0 = true) ∧
    (let s := waitingNode []
    s.harts[0].quiet = true ∧ s.harts[0].fabricWork = true ∧ (atSlot s 0).fabricRound = (false, atSlot s 0) ∧ (atSlot s 0).bellSomewhere = false) :=
  ⟨by decide +kernel, by decide +kernel, by decide +kernel, by decide +kernel,
    fabricRound_still _ (by decide +kernel) (by decide +kernel), by decide +kernel⟩

/-- The machine with that node running and an `fdrain` of it waiting. -/
def waitingDrain : State := State.on (waitingNode []) fun h => { h with viq := [⟨.fdrain 1, none, 0x1000, 0, 0, 0, 0, 0, 0, 0, 1, true, 0, []⟩] }
/-- ChainAndNodeEvents: an entry that waits on a graph which moves nothing. -/
theorem meets_watchdog : let s := waitingDrain
    s.runs 0 = true ∧ (atSlot s 0).pump = (false, atSlot s 0) ∧ s.harts[0].fabricWork = true ∧ (atSlot s 0).fabricRound.1 = false ∧
    (atSlot s 0).bellSomewhere = false ∧ s.harts[0].fabricWaiter.map (·.1) = some 1 ∧ HasHandler (atSlot s 0) := by decide +kernel

/-- The machine `withRegion` with a running operand node 15 whose tiles come from an address. -/
def withFilling (src : Word) : State := State.on (withRegion []) fun h =>
  { h with onodes := h.onodes.set 15 ⟨.running, nodeVec.set 0 src, 1, 0, 1, none, none⟩ }
/-- ChainAndNodeEvents: a tile that is filled, one whose fetch fails, and EngineEvents: one whose fetch times out. -/
theorem meets_fill : (let s := withFilling 0x2000
    s.runs 0 = true ∧ s.harts[0].onodes[15].state = .running ∧ s.harts[0].onodes[15].owed = none ∧ s.harts[0].inTimeout 15 = false ∧
    1 < nodeTiles s.harts[0].onodes[15].desc ∧ s.harts[0].onodes[15].full.getLsbD (1 % nodeDepth s.harts[0].onodes[15].desc) = false ∧
    accHas (fillTile s.harts[0].agent s.harts[0].onodes[15]) (atSlot s 0) (fun _ _ => true) = true ∧
    (match fillTile s.harts[0].agent s.harts[0].onodes[15] (withLate s 0 0x2030) with
      | .ok _ _ => false
      | .error e _ => e.code == 0x09) = true) ∧
    (let s := withFilling 0x80000000
    match fillTile s.harts[0].agent s.harts[0].onodes[15] (atSlot s 0) with
      | .ok _ _ => false
      | .error e _ => e.code == 0x10) = true := by decide +kernel

/-- GateEccRevoked, LaneLinks, PortsAndFlits and ThermalLimits: a gate and none, a lane link that is joined to another, a replay below 15 and at it, a port, and the temperatures. -/
theorem meets_device_events : ((withGateAt .active 0 []).gate 5).isSome = true ∧ ready.gate 5 = none ∧ (joined 0 1).isNone = true ∧ (joined 0 0).isSome = true ∧
    ready.laneUp.getLsbD 0 = true ∧ ready.laneReplays[0]? = some 0 ∧ (11 : BitVec 4).toNat < 12 ∧
    95000 ≤ ({ ready.counters with tmax := 95000 }).tmax.toNat ∧ 850 ≤ ready.thermal ∧
    ({ ready.counters with tmax := 89999 }).tmax.toNat < 90000 ∧ (1750 : Nat) < 1800 := by decide +kernel
/-- ResetsAndRequests: a function of a VF, no boot configuration, an access of a peer that is served and one that is not, and one
from CXL.mem. -/
theorem meets_requests : 105000 ≤ ({ ready.counters with tmax := 105000 }).tmax.toNat ∧ (128 : BitVec 8).toNat ≤ 128 ∧ ready.staged = none ∧
    (peerLocs ready 0x2000 8).isSome = true ∧ Memory.wf ready.mem ∧ (∀ l ∈ (peerLocs ready 0x2000 8).getD [], ready.badAt l = false) ∧
    (peerResult 8 (7 : BitVec 64) 0 0).isSome = true ∧ (typedOp 14).isSome = true ∧ tyWidth 3 = 64 ∧ classI 3 = true ∧ peerLocs ready 0x8100000000 8 = none ∧
    (∀ l ∈ (List.range 8).map (0x2000 + ·), (match levelOf l with | .hbm _ _ => true | _ => false) = true) := by decide +kernel

/-- 15_partitions.md R413: an unowned channel is one run, and a partition's channels share its run in blocks of 256 bytes. -/
theorem test_hbmPlace : State.reset.hbmPlace 0 (channelBytes + 300) = some (1, 1, 44) ∧
    ({ State.reset with parts := State.reset.parts.set 0 { Partition.reset with c0 := 3, clo0 := 2 } } : State).hbmPlace 0
      (2 * channelBytes + 1031) = some (3, 1, 7) ∧
    State.reset.hbmPlace 1 (768 * channelBytes) = none := by decide +kernel

/-! ### What meets the hypotheses: the clauses beside those above -/

/-- StepRunsInstruction: an input finds the package with its stores performed, nothing waits in `ready`, and no error has stopped it. -/
theorem meets_step_input : let s : State := { ready with agenda := [.event .tollRefill] }
    s.agenda = .event .tollRefill :: [] ∧ encode .tollRefill = none ∧ (atInput s []).stopped = false ∧
    ready.harts[0].unperformed = [] ∧ (atTurn ready).runs (atTurn ready).cur = true := by decide +kernel
/-- ControlTransfers: `jlr` to an odd target. -/
theorem meets_jlr_odd : (let s := withS [(6, 0x2000)]
    s.hart.quiet = true ∧ HasHandler s ∧ (s.hart.sreg 6 + (1 : BitVec 12).signExtend 64).getLsbD 0 = true) := by decide +kernel
/-- Such a jump raises `E_ALIGN` with FADDR the target, and the link register stays (05_hart.md R157). -/
theorem test_jlr_odd : nextHas (execJlr 5 6 1 (withS [(5, 7), (6, 0x2000)])) (fun t =>
    t.hart.cause == 2 && t.hart.faddr == 0x2001 && t.hart.sreg 5 == 7 && t.hart.pc == 0x4000) = true := by decide +kernel
/-- HartTrapEntry: the cause of `trap`, one of a gate, and a second trap with a free save slot. -/
theorem meets_hart_trap_causes : toHandler 0x06 = true ∧ toHandler 0x0B = true ∧ (let s := State.on hosted fun h => { h with status := 0x60 }
    s.cur = 0 ∧ s.runs 0 = true ∧ Quiet s ∧ s.hart.status.getLsbD 6 = true ∧ s.hart.unperformed = [] ∧ s.freeSave s.hart.part = some 0) := by
  decide +kernel
/-- A trap with the cause of `trap` lies after its instruction, and one of a gate has SRC 6 (05_hart.md R167; 11_gate.md R330). -/
theorem test_hart_trap_causes : nextHas (execHartTrap 0 0x06 0x77 (State.on ready fun h => { h with ld := 9 })) (fun t =>
      t.hart.epc == 0x1004 && t.hart.cause == 6 && t.hart.held.ld == 0 && t.hart.faddr == 0) = true ∧
    nextHas (execHartTrap 0 0x0B 5 ready) (fun t => t.hart.epc == 0x1000 && t.hart.cause == 0x60000B && t.hart.faddr == 5) = true := by
  decide +kernel
/-- GateChecks: `gopen` with a full table, and without the right asked for, which is also no gate. -/
theorem meets_gopen : (let s := { withGateAt .active 256 [] with handles := Vector.replicate 24 (Vector.replicate 256 ⟨true, 5, 7, 1, false⟩) }
    s.hart.part.toNat < 24 ∧ s.hart.quiet = true ∧ HasHandler s ∧ s.hart.sreg 7 ≠ 0 ∧ (s.hart.sreg 7).toNat < 8 ∧
    (List.range 256).all (fun k => (s.handles[s.hart.part.toNat]?.bind fun t => t[k]?.map (·.isOpen)) == some true) = true) ∧
    (let s := { withGateAt .active 256 [] with gates := [⟨5, .active, 3, 0xAA, 0, [⟨true, 0, true, true, true, true, 4, 1, 256⟩], []⟩] }
    (s.handles[s.hart.part.toNat]?.bind fun t => t[1]?.map (·.isOpen)) = some false ∧ HasHandler s ∧
    4096 ≤ ((withS [(6, 0x1000), (7, 2)]).hart.sreg 6).toNat ∧
    (gateOf { s with gates := [⟨5, .active, 3, 0xAA, 0, [], []⟩] }).entry 0 = none) := by decide +kernel
/-- Gates: a post that waits behind one of its partition. -/
theorem meets_toll : (let s := State.on (withGateAt .active 256 [1, 0]) id
    let s := { s with harts := s.harts.set 1 { s.harts[0] with gateWait := some ⟨0x100, true, 0, none⟩ } }
    waitingPosts s (gateOf s) = [1] ∧ (waitingPosts s (gateOf s)).takeWhile (· != s.cur) ≠ [] ∧ Unjudged s) := by decide +kernel
/-- TaskInstructions: misaligned addresses, and a `launch` without a hart queue of its number. -/
theorem meets_task_checks : (let s := State.on (withQueue 0 15) fun h => { h with s := h.s.set 6 0x2004 }
    Quiet s ∧ HasHandler s ∧ (s.hart.sreg 6).toNat % 8 ≠ 0 ∧ (s.hart.sreg 6).toNat % 64 ≠ 0 ∧ (s.hart.sreg 7).toNat < 64 ∧
    ((s.queue s.hart.fn ((s.hart.sreg 7).setWidth 6)).map (·.hartKind)) = some true) ∧
    (let s := withS [(7, 64)]
    Quiet s ∧ HasHandler s ∧ ¬ (s.hart.sreg 7).toNat < 64) := by decide +kernel
/-- A `launch` of a misaligned packet raises `E_ALIGN` with CAUSE.SRC 7, and one that names no queue `E_OPERAND` (12_command.md R362). -/
theorem test_launch_checks : nextHas (execLaunch 6 7 (State.on (withQueue 0 15) fun h => { h with s := h.s.set 6 0x2020 })) (fun t =>
      t.hart.cause == 0x700002 && t.hart.faddr == 0x2020 && t.funcs == (withQueue 0 15).funcs) = true ∧
    nextHas (execLaunch 6 7 (withS [(6, 0x2000), (7, 63)])) (fun t => t.hart.cause == 0x700003 && t.hart.faddr == 0) = true := by decide +kernel
/-- The task of `inTask` with a pitch at 0x2000 and a signal at 0x3000. -/
def pitchTask : Task := { aTask with reply := 0x2000, signal := 0x3000 }
/-- The machine whose one hart is of that task, with 5 in its signal. -/
def withPitch : State := (inTask []).setByte 0x3000 5 |> fun s => { s with tasks := [pitchTask] }
/-- The task as its last hart ends. -/
def endedTask : Task := { pitchTask with places := [.ended], status := 0x03, why := 0, finish := withPitch.time }
/-- The package as that hart's slot is freed. -/
def freedPitch : State :=
  withTasks (withPitch.freeSlot withPitch.cur) withPitch.hart.seq (fun x => { x with places := x.places.set withPitch.hart.index.toNat .ended })
/-- TaskInstructions: the end of a task's last hart, with REPLY and SIGNAL, and a hart with a token BUSY. -/
theorem meets_last_end : Quiet withPitch ∧ withPitch.task withPitch.hart.seq = some pitchTask ∧ withPitch.hart.index.toNat < pitchTask.places.length ∧
    (pitchTask.places.set withPitch.hart.index.toNat .ended).all (· == .ended) = true ∧
    accHas (do storeDws (freedPitch.fnAgent 0) 0x2000 endedTask.pitch; signalDec (freedPitch.fnAgent 0) 0x3000 1) freedPitch
      (fun _ u => Memory.read u.mem 0x3000 == 4 && Memory.read u.mem 0x2000 == 3) = true ∧
    (withBusy 0x2000).hart.copies[15].state = .busy ∧ Quiet (withBusy 0x2000) := by decide +kernel
/-- `fend` of that hart writes the pitch and takes the signal down (12_command.md R360, R361). -/
theorem test_last_end : nextHas (execFend withPitch) (fun t =>
    t.tasks == [] && Memory.read t.mem 0x3000 == 4 && Memory.read t.mem 0x2000 == 3 && t.harts[0].run == .absent) = true := by decide +kernel
/-- ScalarAccesses: a store that waits to be performed. -/
theorem meets_late_store : (let s := { withS [(6, 0x2000)] with storesWait := true }
    s.storesWait = true ∧ findsOk s .store 0x2000 8 = true ∧ s.hart.acquiring = false) := by decide +kernel
/-- OperandNodes: an illegal descriptor, a misaligned one, a node that runs or is held, and one that is ARMED. -/
theorem meets_node_checks : (let s := State.on nodeTask fun h => { h with s := h.s.set 6 0x2808 }
    Free s (.mnode 15 6) ∧ HasHandler s ∧ accHas (working (loadDws s.hart.agent (s.hart.sreg 6) 8)) s (fun xs _ =>
      xs == [0x8000, 32, 2, 0, 32, 0, 0, 0] && !(nodeOk #v[0x8000, 32, 2, 0, 32, 0, 0, 0])) = true) ∧
    ((withNode .idle).hart.sreg 7).toNat % 8 = 0 ∧ ((withUnit 0x02 [(6, 0x2004)]).hart.sreg 6).toNat % 8 ≠ 0 ∧ Free (withUnit 0x02 [(6, 0x2004)]) (.mnode 15 6) ∧
    Free (withNode .running) (.mnode 15 6) ∧ Free (withNode .held) (.mwait 15) ∧ ((withNode .running).hart.onode 15).state = .running ∧
    ((withNode .held).hart.onode 15).state = .held ∧ Free (withNode .armed) (.mwait 15) ∧ HasHandler (withNode .armed) := by decide +kernel
/-- FabricLoadsBlocks: no named node is LOADED. -/
theorem meets_fabric_unloaded : ∀ n ∈ named 0x80, ((withFabric .idle).hart.fnode n).state ≠ .loaded := by decide +kernel

/-- A chain of two stages: `vidx`, and one that takes its elements from queue 0 into queue 1. -/
def heldRun (i : Instr) (ops : Word) (qs : List (List Word)) : State :=
  State.on (attachedAt .held 0) fun h => { h with
    chain := { h.chain with q := qs.zipIdx.foldl (fun v (x, i) => v.set (i % 32) x (Nat.mod_lt _ (by decide))) h.chain.q }
    viq := h.viq ++ [⟨i, none, 0x1004, 0, 0, 0, 0, ops, 0, 0, 2, false, 0, []⟩] }
/-- The entry of `heldRun` behind the run. -/
def heldEntry (s : State) : Entry := (s.hart.viq[1]?).getD ⟨.chwait, none, 0, 0, 0, 0, 0, 0, 0, 0, 0, false, 0, []⟩
/-- Whether an attempt waits, with a property. -/
def tookWaits (x : Took) (p : State → Bool) : Bool :=
  match x with
  | .waits u => p u
  | .moved _ | .trapped _ => false
/-- ChainControl: entries behind a run that is HELD and cannot move. -/
theorem meets_behind : (let s := heldRun .chwait 0 []
    s.hart.attached = true ∧ s.hart.viq.length = 2 ∧ (heldEntry s).raw = none ∧ (heldEntry s).prog = 0 ∧ (heldEntry s).instr = .chwait ∧
    tookWaits s.runHead (fun u => u.hart.viq == s.hart.viq && u.work == none && u.hart.chain.state == .held && u.hart.chain.p[0]? == some 0 &&
      u.hart.chain.outQueue 0 && u.hart.chain.q[0] == [9] && u.hart.lateStores == [] && u.hart.piq == [] && u.hart.miq == []) = true) ∧
    tookWaits (heldRun (.qrd 0) 0 [[]]).runHead (fun u => u.hart.chain.q[0] == []) = true := by decide +kernel
/-- ChainControl: an instruction enqueued behind a run while the engines stand still. -/
theorem meets_enqueue_behind : (let s := { attachedAt .held 0 with engines := false }
    behindForm (.qwr 0 6) = true ∧ s.engines = false ∧ s.hart.viq.length = 1 ∧ s.hart.viq.all (·.isRun) = true ∧ s.hart.piq = [] ∧ s.hart.miq = [] ∧
    s.hart.srq.length < 16) := by decide +kernel
/-- ChainControl: a `qwr` behind a run, into a queue that a stage takes its elements from. -/
theorem meets_qwr_behind : (let s := State.on (heldRun (.qwr 0 6) 7 [[]]) fun h => { h with
      chain := { h.chain with words := [0x01000040, 0xFFE07739, 0, 0] } }
    tookWaits s.runHead (fun u => u.hart.chain.inQueue 0 && u.hart.viq == s.hart.viq) = true) := by decide +kernel
/-- `qlen` behind a HELD run answers and leaves the run alone (09_chain.md R278). -/
theorem test_qlen_behind : (match (heldRun (.qlen 0) 0 []).takeViq with
    | .moved t => t.hart.srq == [⟨1, 1⟩] && t.hart.viq.length == 1 && t.hart.chain.state == .held
    | .waits _ | .trapped _ => false) = true := by decide +kernel

/-- The machine with 1 GiB of host memory mapped at 1 GiB. -/
def withHostPage : State := withDws ready 0x210008 [0x80000000000C7]
/-- CommandForms: a command with REPLY and SIGNAL, and one whose SIGNAL is in host memory. -/
theorem meets_answered : (let x : Cmd := { pf 900 0 0 0 with reply := 0x2000, signal := 0x3000 }
    commandOf (.powerSet x) = some (x, 0x50) ∧ rowTakes (.powerSet x) = true ∧ Issued ready x 0x50 ∧
    nextHas (exec (withCmd { x with reply := 0, signal := 0 } (.powerSet x)) ready) (fun v => v.sent == [.reply 0 0 0]) = true) ∧
    accHas (commandReply (withHostPage.fnAgent 0) 0x2000 (0, 0)) withHostPage (fun _ w =>
      match crierSignal (withHostPage.fnAgent 0) 0x40000000 1 w with
      | .ok _ _ => false
      | .error e y => e.code == 0x08 && accHas (commandReply (withHostPage.fnAgent 0) 0x2000 (0x10, 0)) y (fun _ _ => true)) = true := by
  decide +kernel
/-- A command whose SIGNAL is in host memory: its effect stands, and REPLY has BADPACKET (12_command.md R361; log 72). -/
theorem test_host_signal : nextHas (exec (.powerSet { pf 900 0 0 0 with reply := 0x2000, signal := 0x40000000 }) withHostPage) (fun t =>
    t.power == 900 && Memory.read t.mem 0x2000 == 0x10 && t.sent == [.reply 0 0x10 0]) = true := by decide +kernel

/-- QueuesAndPackets: a slot whose V is set is read, and V and RIDX are stored. -/
theorem meets_scan_slot : (let s := withDws (withQueues false false) 0x3000 [11]
    let w := s.fnAgent 0
    accHas (do let h ← loadElem w 0x3000 8; let r ← loadDws w 0x3008 7; storeElem w 0x3000 8 (h - 1); storeElem w 0x5000 8 1; pure (h, r)) s
      (fun x _ => x.1 == 11 && x.2.length == 7) = true) := by decide +kernel
/-- A scan takes both packets that stand in the ring (12_command.md R350). -/
theorem test_scan_two : nextHas (exec (.notify 0 3) (withDws (withDws (withQueues false false) 0x3000 [11]) 0x3040 [11])) (fun t =>
    ((t.queue 0 3).map fun u => (u.ridx, u.pending.length)) == some (2, 2) && Memory.read t.mem 0x3000 == 10 && Memory.read t.mem 0x3040 == 10 &&
    Memory.read t.mem 0x5000 == 2) = true := by decide +kernel
/-- QueuesAndPackets: a SIGNAL and a NOP whose doubleword is in host memory. -/
theorem meets_host_packets : (let p := packetOf #v[5, 1, 0, 0, 0, 0, 0x40000000, 0] .fresh
    let s := withDws (withPackets [p]) 0x210008 [0x80000000000C7]
    ((s.queue 0 3).bind (·.reached)) = some (0, p) ∧ p.ok = true ∧ p.typ = 2 ∧ s.denies 0 3 p = false ∧ s.nextQueue = some (queueKey 0 3) ∧
    (packetOf #v[11, 0, 0, 0, 0, 0, 0x40000000, 0] .fresh).ok = true ∧
    (match crierSignal (s.fnAgent 0) 0x40000000 1 (inHand s 0 3 0) with
      | .ok _ _ => false
      | .error e _ => e.code == 0x08) = true) := by decide +kernel
/-- A LAUNCH of a hart count, MIN and PREF, with a launch record at an address. -/
def launchOf (min pref harts : Nat) (recs : Word) : Packet :=
  packetOf #v[3, 0x1000, 0, word (pref * 2 ^ 48 + min * 2 ^ 40 + harts * 2 ^ 32), recs, 0, 0, 0x2000] .fresh
/-- The machine with such packets, and launch records: a GATE record at 0x2800 that asks for rights on no gate, two TILE records at 0x2880
that overlap, and a record of no KIND at 0x2900. -/
def withLaunch (p : Packet) : State :=
  withDws (withDws (withDws (withPackets [p]) 0x2800 [0x104, 7, 0, 0, 0, 0, 0, 0]) 0x2880 [2, 0x8000, 0x2000, 0, 2, 0x8000, 0x2000, 0, 0, 0, 0, 0])
    0x2900 [9, 0, 0, 0]
/-- The status with which the checks of a LAUNCH turn it away, from its records. -/
def launchStatus (p : Packet) : Option (BitVec 8) :=
  let s := withLaunch p
  let w := s.fnAgent 0
  let of (rs : Option (List (List Word))) : Option (BitVec 8) :=
    match rs.bind p.terms with
    | none => some 0x10
    | some k =>
      let n := (p.at 3).toNat / 2 ^ 32 % 2 ^ 7
      if ¬ (k.min ≤ 16 ∧ k.min ≤ k.pref ∧ k.pref ≤ 16) then some 0x11
      else if !s.sizeOk 0 k n then some 0x12 else if !s.tileOk 0 k n then some 0x13 else if !s.gatesOk 0 k then some 0x14 else none
  if p.at 4 = 0 then of (some [])
  else match loadRecords w 64 (p.at 4) (inHand s 0 3 0) with
    | .ok rs _ => of rs
    | .error _ _ => none
/-- QueuesAndPackets: a LAUNCH that each check of R357 turns away, and one with a record that is none. -/
theorem meets_launch_checks : launchStatus (launchOf 17 17 1 0) = some 0x11 ∧ launchStatus (launchOf 2 1 1 0) = some 0x11 ∧
    launchStatus (launchOf 16 16 64 0) = some 0x12 ∧ launchStatus (launchOf 1 1 1 0x2880) = some 0x13 ∧ launchStatus (launchOf 1 1 1 0x2800) = some 0x14 ∧
    launchStatus (launchOf 1 1 1 0x2900) = some 0x10 ∧ launchStatus (launchOf 1 1 1 0) = none ∧ (launchOf 1 1 1 0x2900).ok = true ∧
    ((withLaunch (launchOf 17 17 1 0)).fnAgent 0).part = 0 := by decide +kernel
/-- A LAUNCH whose MIN is above 16 gets LEASE at REPLY and is no task (12_command.md R357). -/
theorem test_launch_lease : nextHas (exec (.launchPacket 0 3) (withLaunch (launchOf 17 17 1 0))) (fun t =>
    t.tasks == [] && Memory.read t.mem 0x2000 == 0x11 && ((t.queue 0 3).map (·.pending)) == some []) = true := by decide +kernel
/-- QueuesAndPackets: what a rejected packet does at REPLY and SIGNAL. -/
theorem meets_turned_away : (let p := launchOf 17 17 1 0
    accHas (storeElem ((withLaunch p).fnAgent 0) (p.at 7) 8 0x11) (inHand (withLaunch p) 0 3 0) (fun _ _ => true) = true ∧
    (p.at 7).toNat % 8 = 0 ∧ p.at 6 = 0) := by decide +kernel

/-- ChainAndNodeEvents: a HELD run that loses a stall, and a stage with a latency class. -/
theorem meets_held_break : (let s := State.on (takenStalls 1 16 []) fun h => { h with chain := { h.chain with state := .held } }
    s.runs 0 = true ∧ s.harts[0].chain.state = .held ∧ (atSlot s 0).stallsShort 0 s.harts[0].scopePart 0 = 1) ∧
    (let s := State.on (takenStalls 1 16 []) fun h => { h with chain := { h.chain with classed := [0] } }
    s.harts[0].chain.state = .standing ∧ s.harts[0].chain.classed.contains (0 : BitVec 6).toNat = true) := by decide +kernel
/-- EngineEvents: an illegal entry, which leaves FADDR. -/
theorem test_engine_illegal : nextHas (execEngineTrap 0 2 0x01 0x77 (State.on withEntry fun h => { h with faddr := 5 })) (fun t =>
    t.hart.faddr == 5 && t.hart.cause == 0x220001) = true := by decide +kernel
/-- DeviceEvents: the one task has a pitch, or none has. -/
theorem meets_internal_error : withPitch.tasks = [pitchTask] ∧ pitchTask.reply ≠ 0 ∧
    accHas (storeDws (withPitch.fnAgent 0) 0x2000 ({ pitchTask with status := 0x15, why := 0, finish := withPitch.time } : Task).pitch) withPitch.countUe
      (fun _ v => Memory.read v.mem 0x2000 == 0x15) = true ∧ (∀ k ∈ (inTask []).tasks, k.reply = 0) := by decide +kernel

/-! ### Small steps -/

/-- Three harts of a core: PRIO 1, MIN 4, PREF 8; PRIO 1, MIN 2, PREF 8; PRIO 2, MIN 2, PREF 16 (01_engines.md R31's example), under a
ceiling. -/
def threeHarts (ceil : Nat) : State :=
  let one (lease : Word) : Hart := { hosted.harts[0] with lease := lease, stallSince := 0 }
  { hosted with harts := ((hosted.harts.set 0 (one 0x10804)).set 1 (one 0x10802)).set 2 (one 0x21002), stallCeil := hosted.stallCeil.set 0 ceil }
/-- The targets of that example, and those after its ceiling is lowered to 10. -/
theorem test_stall_rounds :
    ([0, 1, 2] : List Nat).map (fun i => (((threeHarts 16).arbitrateStalls 0).harts[i]?.map (·.target.toNat))) = [some 8, some 6, some 2] ∧
    ([0, 1, 2] : List Nat).map (fun i => (((threeHarts 10).arbitrateStalls 0).harts[i]?.map (·.target.toNat))) = [some 5, some 3, some 2] := by
  decide +kernel
/-- A scalar store that may wait leaves memory as it is until it is performed (04_memory_model.md R120). -/
theorem test_late_store : nextHas (execSt64 5 6 0 { withS [(5, 7), (6, 0x2000)] with storesWait := true }) (fun t =>
    Memory.read t.mem 0x2000 == 0 && t.hart.pc == 0x1004 && Memory.read (t.perform 0).mem 0x2000 == 7 && (t.perform 0).hart.unperformed == []) = true := by
  decide +kernel
/-- The first `n` elements of a store of nibbles at 0x2000, whose granule holds an uncorrectable error. -/
def nibbles (n : Nat) (p : State → Bool) : Bool :=
  accHas (working ((List.range n).forM fun i => storeAt ready.hart.agent 4 (unitAddr 4 0x2000 i) i (i % 16))) { ready with ecc := [0x2000] } (fun _ t => p t)
/-- Nibbles that cover a granule with an uncorrectable error clear it and are all written; without the last one it stays
(04_memory_model.md R140). -/
theorem test_nibble_granule : nibbles 64 (fun t => t.ecc == [] && Memory.read t.mem 0x2000 == 0x10 && Memory.read t.mem 0x201F == 0xFE) = true ∧
    nibbles 63 (fun t => t.ecc == [0x2000]) = true := by decide +kernel
/-- A QUEUE_CREATE with SZ 9 breaks the packet's layout (12_command.md R354, R373). -/
theorem test_size_checked : commandOk 0x01 0 [0x40000, 0x5000, 0x3108, 0] = true ∧ commandOk 0x01 0 [0x40000, 0x5000, 0x3109, 0] = false := by
  decide +kernel
/-- A step in which the package meets an error that no partition owns leaves no hart and no task (16_device.md R426). -/
theorem test_halt_unowned : nextHas (haltUnowned ready (.next { ready with stopped := true })) (fun t =>
    t.harts[0].run == .absent && t.tasks == [] && t.sent == [.aer]) = true := by decide +kernel

end Sys2Proof.Tests
end

section
/-!
PROOFS. What a transfer leaves of the hart that moves: accesses, copies and link operations change of it only the request that is to
fail and VSTAT.
-/

namespace Sys2Proof.Machine

/-! ### Accesses inside an entry or a transfer -/

theorem AccessOnly.countUe (s : State) : AccessOnly s s.countUe := .of id ⟨_, _, _, _, _, _, _, _, rfl⟩

theorem AccessOnly.setWork (s : State) (k : Option Work) : AccessOnly s { s with work := k } := .of id ⟨_, _, _, _, _, _, _, _, rfl⟩

theorem AccessOnly.eccRecord (s : State) (fn : BitVec 8) (a : Nat) (addr : Word) : AccessOnly s (s.eccRecord fn a addr) := by
  unfold State.eccRecord
  split <;> exact .of id ⟨_, _, _, _, _, _, _, _, rfl⟩

theorem AccessOnly.foldl {f : State → β → State} (h : ∀ s b, AccessOnly s (f s b)) (bs : List β) (s : State) :
    AccessOnly s (bs.foldl f s) := by
  induction bs generalizing s with
  | nil => exact AccessOnly.refl s
  | cons b bs ih => exact (h s b).trans (ih _)

theorem AccessOnly.closeWork (s : State) : AccessOnly s s.closeWork := by
  unfold State.closeWork
  split
  · exact AccessOnly.refl s
  · refine (AccessOnly.setWork s none).trans (AccessOnly.foldl (fun t g => ?_) _ _)
    dsimp only []
    split
    · exact AccessOnly.writeLocs ..
    · exact (AccessOnly.countUe t).trans (AccessOnly.eccRecord ..)

theorem AccessOnly.unstore (s : State) : AccessOnly s s.unstore.2 := by
  unfold State.unstore
  split
  · exact AccessOnly.refl s
  · split
    · exact AccessOnly.refl s
    · dsimp only []
      split
      · exact AccessOnly.setWork ..
      · exact AccessOnly.refl s

theorem loadAt_ok (w : Agent) (n : Nat) (va : Word) (i : Nat) : AccessOk (loadAt w n va i) :=
  AccessOk.ite ((loadElem_ok ..).bind fun _ => AccessOk.pure _)
    ((AccessOk.ite (AccessOk.pure _) (AccessOk.throw _)).bind fun _ => loadElem_ok ..)

theorem fillTile_ok (w : Agent) (o : OperandNode) : AccessOk (fillTile w o) :=
  AccessOk.forM (fun _ => (loadElem_ok ..).bind fun _ => storeElem_ok ..) _

theorem copyByte_ok (w : Agent) (t : Token) (x : Nat) : AccessOk (copyByte w t x) := by
  refine (loadElem_ok ..).bind fun _ => (locate_ok ..).bind fun locs => (lateAt_ok ..).bind fun _ => ⟨fun s => ?_⟩
  generalize List.find? _ locs = bad
  cases bad with
  | none => exact AccessOnly.writeLocs ..
  | some _ => exact AccessOnly.countUe s

theorem sideLocs_ok (w : Agent) (a : Access) (peer : Bool) (va : Word) (n : Nat) : AccessOk (sideLocs w a peer va n) := by
  have places : AccessOk (do
      let locs ← locate w a va n
      if locs.all (fun l => if peer then isPeer l else !isPeer l && levelOf l != .host) then pure locs
      else throw ⟨eOperand, va, 0⟩ : Acc (List Nat)) :=
    (locate_ok ..).bind fun _ => AccessOk.ite (AccessOk.pure _) (AccessOk.throw _)
  refine AccessOk.ite ((translate_ok ..).bind fun t => ?_) places
  cases t with
  | phys pa => exact AccessOk.ite ((AccessOk.throw _).bind fun _ => places) places
  | tile => exact places

theorem sideLoad_ok (w : Agent) (peer rw : Bool) (va : Word) (n : Nat) : AccessOk (sideLoad w peer rw va n) := by
  refine (sideLocs_ok ..).bind fun locs => ?_
  have rest : AccessOk (do
      lateAt w false locs va n
      let bs ← readLocs locs va
      pure (ofBytes bs) : Acc Nat) := (lateAt_ok ..).bind fun _ => (readLocs_ok ..).bind fun _ => AccessOk.pure _
  exact AccessOk.ite ((locate_ok ..).bind fun _ => rest) rest

theorem sideStore_ok (w : Agent) (peer rw : Bool) (va : Word) (lo off len n x : Nat) :
    AccessOk (sideStore w peer rw va lo off len n x) := by
  refine (sideLocs_ok ..).bind fun locs => ?_
  refine AccessOk.ite ((locate_ok ..).bind fun _ => ?rest) ?rest
  refine (lateAt_ok ..).bind fun _ => ⟨fun s => ?_⟩
  dsimp only
  generalize List.find? _ locs.zipIdx = bad
  cases bad with
  | none => exact AccessOnly.writeLocs ..
  | some _ => exact AccessOnly.countUe s

theorem linkElem_ok (w : Agent) (t : Token) (x : Nat) : AccessOk (linkElem w t x) :=
  (sideLoad_ok ..).bind fun _ => AccessOk.ite
    ((sideLoad_ok ..).bind fun _ => (sideStore_ok ..).bind fun _ => AccessOk.pure _)
    ((sideStore_ok ..).bind fun _ => AccessOk.pure _)

theorem linkFlag_ok (w : Agent) (t : Token) : AccessOk (linkFlag w t) :=
  AccessOk.ite (AccessOk.pure _) ((sideLocs_ok ..).bind fun _ => (rmwElem_ok ..).bind fun _ => AccessOk.pure _)

/-! ### The hart that moves, over a whole transfer -/

/-- From `s` to `t` the same hart moves, and of it only the request that is to fail and VSTAT have changed. -/
def HartKept (s t : State) : Prop := t.cur = s.cur ∧ ∃ l v, t.hart = { s.hart with late := l, vstat := v }

theorem HartKept.refl (s : State) : HartKept s s := ⟨rfl, _, _, rfl⟩

theorem HartKept.trans {s t u : State} (h : HartKept s t) (k : HartKept t u) : HartKept s u := by
  obtain ⟨hc, l, v, hh⟩ := h
  obtain ⟨kc, l', v', kh⟩ := k
  exact ⟨kc.trans hc, l', v', by rw [kh, hh]⟩

theorem AccessOnly.hartKept {s t : State} (h : AccessOnly s t) : HartKept s t := by
  obtain ⟨-, m, l, e, c, r, f, z, w, a, rfl, -⟩ := h
  exact ⟨rfl, a, s.hart.vstat, by simp [State.hart]⟩

theorem HartKept.flag (s : State) (fl : Fl) : HartKept s (s.setHart (s.hart.flag fl)) :=
  ⟨rfl, s.hart.late, s.hart.vstat ||| fl, by simp [Hart.flag]⟩

theorem HartKept.copy {s t : State} (h : HartKept s t) (k : BitVec 4) : t.hart.copy k = s.hart.copy k := by
  obtain ⟨-, _, _, e⟩ := h; rw [e]; rfl

theorem HartKept.linkTok {s t : State} (h : HartKept s t) (k : BitVec 3) : t.hart.linkTok k = s.hart.linkTok k := by
  obtain ⟨-, _, _, e⟩ := h; rw [e]; rfl

theorem HartKept.stream {s t : State} (h : HartKept s t) (k : BitVec 4) : t.hart.stream k = s.hart.stream k := by
  obtain ⟨-, _, _, e⟩ := h; rw [e]; rfl

theorem HartKept.onode {s t : State} (h : HartKept s t) (k : BitVec 4) : t.hart.onode k = s.hart.onode k := by
  obtain ⟨-, _, _, e⟩ := h; rw [e]; rfl

theorem copyBytes_hartKept (w : Agent) (t : Token) (x fuel : Nat) (s : State) : HartKept s (copyBytes w t x fuel s).2 := by
  induction fuel generalizing x s with
  | zero => exact HartKept.refl s
  | succ fuel ih =>
    unfold copyBytes
    cases h : copyByte w t x s with
    | ok _ u => exact ((copyByte_ok w t x).of_ok h).hartKept.trans (ih _ _)
    | error e u => exact (((copyByte_ok w t x).of_error h).trans (AccessOnly.unstore u)).hartKept

theorem linkElems_hartKept (w : Agent) (t : Token) (x fuel : Nat) (s : State) : HartKept s (linkElems w t x fuel s).2 := by
  induction fuel generalizing x s with
  | zero =>
    unfold linkElems tryAcc
    cases h : linkFlag w t s with
    | ok _ u => exact ((linkFlag_ok w t).of_ok h).hartKept
    | error e u => exact ((linkFlag_ok w t).of_error h).hartKept
  | succ fuel ih =>
    unfold linkElems
    cases h : linkElem w t x s with
    | ok fl u => exact ((linkElem_ok w t x).of_ok h).hartKept.trans ((HartKept.flag u fl).trans (ih _ _))
    | error e u => exact (((linkElem_ok w t x).of_error h).trans (AccessOnly.unstore u)).hartKept

theorem HartKept.of_workingOn {f : State → α × State} (hf : ∀ u, HartKept u (f u).2) {s v : State} {x : α}
    (hr : workingOn f s = (x, v)) : HartKept s v := by
  have kept : HartKept s (workingOn f s).2 := by
    unfold workingOn
    split
    · exact hf s
    · exact (AccessOnly.setWork s _).hartKept.trans ((hf _).trans (AccessOnly.closeWork _).hartKept)
  rwa [hr] at kept

end Sys2Proof.Machine
end

section
/-!
PROOFS. EngineEvents: the events that trap, finish or fail engine work, bring an element, or time a request out.
-/

namespace Sys2Proof.Machine

open Sys2Proof.Claims

/-! ### What a transfer or a fetch comes to -/

/-- A copy that comes to its end is DONE (06_port.md R196). -/
theorem State.copyRun_done {s v : State} {k : BitVec 4} {tk : Token} {x : Nat} (ht : s.hart.copy k = tk) (hb : tk.state = .busy)
    (hr : workingOn (copyBytes s.hart.agent tk tk.x (tk.len.toNat - tk.x)) s = ((x, none), v)) :
    s.copyRun k = v.setHart (v.hart.modCopy k fun _ => { tk with state := .done, x := x }) := by
  subst ht
  have hk : HartKept s v := .of_workingOn (copyBytes_hartKept _ _ _ _) hr
  simp [State.copyRun, hb, hr, Hart.modCopy, hk.copy]

/-- A copy that a fault stops is FAULT, with its cause and address (06_port.md R199). -/
theorem State.copyRun_fault {s v : State} {k : BitVec 4} {tk : Token} {x : Nat} {e : Fail} (ht : s.hart.copy k = tk)
    (hb : tk.state = .busy) (he : e.code ≠ eEcc)
    (hr : workingOn (copyBytes s.hart.agent tk tk.x (tk.len.toNat - tk.x)) s = ((x, some e), v)) :
    s.copyRun k = v.setHart (v.hart.modCopy k fun _ => { tk with state := .fault, x := x, cause := e.code, addr := e.addr }) := by
  subst ht
  have hk : HartKept s v := .of_workingOn (copyBytes_hartKept _ _ _ _) hr
  simp [State.copyRun, hb, hr, he, Hart.modCopy, hk.copy]

/-- A link operation that comes to its end is DONE (14_link.md R404). -/
theorem State.linkRun_done {s v : State} {k : BitVec 3} {tk : Token} {x : Nat} (ht : s.hart.linkTok k = tk) (hb : tk.state = .busy)
    (hr : workingOn (linkElems s.hart.agent tk tk.x (tk.unit.2 - tk.x)) s = ((x, none), v)) :
    s.linkRun k = v.setHart (v.hart.modLink k fun _ => { tk with state := .done, x := x }) := by
  subst ht
  have hk : HartKept s v := .of_workingOn (linkElems_hartKept _ _ _ _) hr
  simp [State.linkRun, hb, hr, Hart.modLink, hk.linkTok]

/-- A link operation that a fault stops is FAULT, with its cause and address (14_link.md R408). -/
theorem State.linkRun_fault {s v : State} {k : BitVec 3} {tk : Token} {x : Nat} {e : Fail} (ht : s.hart.linkTok k = tk)
    (hb : tk.state = .busy) (he : e.code ≠ eEcc)
    (hr : workingOn (linkElems s.hart.agent tk tk.x (tk.unit.2 - tk.x)) s = ((x, some e), v)) :
    s.linkRun k = v.setHart (v.hart.modLink k fun _ => { tk with state := .fault, x := x, cause := e.code, addr := e.addr }) := by
  subst ht
  have hk : HartKept s v := .of_workingOn (linkElems_hartKept _ _ _ _) hr
  simp [State.linkRun, hb, hr, he, Hart.modLink, hk.linkTok]

@[simp] theorem Hart.copy_modCopy (h : Hart) (k : BitVec 4) (f : Token → Token) : (h.modCopy k f).copy k = f (h.copy k) := by
  simp [Hart.modCopy, Hart.copy]

@[simp] theorem Hart.linkTok_modLink (h : Hart) (k : BitVec 3) (f : Token → Token) : (h.modLink k f).linkTok k = f (h.linkTok k) := by
  simp [Hart.modLink, Hart.linkTok]

@[simp] theorem Hart.onode_modOnode (h : Hart) (n : BitVec 4) (f : OperandNode → OperandNode) :
    (h.modOnode n f).onode n = f (h.onode n) := by
  simp [Hart.modOnode, Hart.onode]

/-- A fetch that an operand node has to make, and that fails (10_matrix.md R317). -/
theorem State.nodeFetch_fails {s v : State} {n : BitVec 4} {nd : OperandNode} {e : Fail} (hn : s.hart.onode n = nd)
    (hs : nd.state = .running) (ho : nd.owed = none) (hi : s.hart.inTimeout n = false) (ht : nd.t < nodeTiles nd.desc)
    (hf : nd.full.getLsbD (nd.t % nodeDepth nd.desc) = false) (hr : fillTile s.hart.agent nd s = .error e v) :
    s.nodeFetch n = some (some e, v) := by
  simp [State.nodeFetch, hn, hs, ho, hi, Nat.not_le.2 ht, hf, tryAcc, hr]

/-- A fetch that fails for a cause of no record is owed to a consumer (10_matrix.md R317). -/
theorem State.nodeFault_owed (s : State) (n : BitVec 4) {e : Fail} (he : toRecord e.code = false) :
    s.nodeFault n e = s.setHart (s.hart.modOnode n fun o => { o with owed := some (e.code, e.addr) }) := by
  simp only [toRecord, Bool.or_eq_false_iff, beq_eq_false_iff_ne] at he
  obtain ⟨⟨⟨hp, hh⟩, hc⟩, -⟩ := he
  simp [State.nodeFault, hp, hh, hc]

/-! ### Events of a hart that runs -/

/-- What an event of a hart that runs ends in. -/
theorem endsIn_of_eventOn {s : State} {i : Instr} {slot : Fin 64} {f : State → State} {t : State} (hr : s.runs slot = true)
    (hi : exec i s = s.eventOn slot f) (ht : f (atSlot s slot) = t) : EndsIn s i t := by
  subst ht
  rw [EndsIn, hi, State.eventOn, if_pos hr]
  rfl

/-- A change that comes out as the event says is made. -/
theorem keepIf_of {p : State → Bool} {f : State → State} {s t : State} (hf : f s = t) (hp : p t = true) : keepIf p f s = t := by
  subst hf; exact if_pos hp

/-- A transfer or a fetch that fails as its request times out. -/
theorem State.timingOut_of {s t : State} {slot : Fin 64} {addr : Word} {f : State → State} {p : State → Bool}
    (hf : f (withLate s slot addr) = t) (hp : p t = true) :
    (atSlot s slot).timingOut addr f p = t.setHart { t.hart with late := none } := by
  subst hf; exact if_pos hp

@[simp] theorem withLate_hart (s : State) (slot : Fin 64) (addr : Word) :
    (withLate s slot addr).hart = { s.harts[slot] with late := some (addr, 0x09) } := State.hart_setHart _ _

/-- The element that a load brings: its bits, or the fault it carries (06_port.md R194). -/
def loadedElem : Except Fail Nat → Elem
  | .ok y => ⟨word y, none⟩
  | .error e => ⟨0, some (e.code, e.addr)⟩

/-- An element that a load stream reads ahead arrives behind those that have (06_port.md R194). -/
theorem streamElementArrival_load {s v : State} {slot : Fin 64} {t : BitVec 4} {x : Stream} {n : Nat} {r : Except Fail Nat}
    (hr : s.runs slot = true) (hx : s.harts[slot].stream t = x) (hk : x.kind = .load) (hn : n = x.first + x.ahead.length)
    (hlt : n < x.len) (hl : tryAcc (loadAt s.harts[slot].agent (tyWidth x.ty) (x.addr n) n) (atSlot s slot) = (r, v)) :
    EndsIn s (.streamElementArrival slot t)
      (v.setHart (v.hart.modStream t fun _ => { x with ahead := x.ahead ++ [loadedElem r] })) := by
  subst hn
  have hv : v.hart.stream t = x := by
    refine Eq.trans (HartKept.stream (s := atSlot s slot) ?_ t) hx
    unfold tryAcc at hl
    split at hl <;> rename_i h <;> obtain ⟨-, rfl⟩ := hl
    · exact ((loadAt_ok ..).of_ok h).hartKept
    · exact ((loadAt_ok ..).of_error h).hartKept
  refine endsIn_of_eventOn hr rfl ?_
  have hs : (atSlot s slot).hart = s.harts[slot] := rfl
  simp only [hs, hx, hk, Nat.not_le.2 hlt, if_false, hl, Hart.modStream, hv]
  cases r <;> rfl

/-! ### The trap of an engine -/

/-- What a break makes of the chain depends on the chain alone. -/
theorem Hart.breakChain_chain_congr {h k : Hart} (e : h.chain = k.chain) (cause : BitVec 4) (slot : BitVec 6) :
    (h.breakChain cause slot).chain = (k.breakChain cause slot).chain := by
  unfold Hart.breakChain
  rw [e]
  cases k.chain.state with
  | standing | held => rfl
  | none | idle => exact e
  | temporal =>
    dsimp only
    split
    · rfl
    · exact e

/-- A change of a queue changes the queues alone. -/
theorem Hart.modQueueOf_only (h : Hart) (q : BitVec 2) (f : List Entry → List Entry) :
    h.modQueueOf q f = { h with viq := (h.modQueueOf q f).viq, piq := (h.modQueueOf q f).piq, miq := (h.modQueueOf q f).miq } := by
  unfold Hart.modQueueOf
  split
  · rfl
  · split
    · rfl
    · split <;> rfl

/-- A queue after a change of a queue. -/
theorem Hart.queueOf_modQueueOf (h : Hart) (q p : BitVec 2) (f : List Entry → List Entry) :
    (h.modQueueOf q f).queueOf p = if p = q ∧ q ≠ 0 then f (h.queueOf p) else h.queueOf p := by
  have cases4 : ∀ x : BitVec 2, x = 0 ∨ x = 1 ∨ x = 2 ∨ x = 3 := by decide
  rcases cases4 q with rfl | rfl | rfl | rfl <;> rcases cases4 p with rfl | rfl | rfl | rfl <;> rfl

theorem Hart.queueOf_breakChain (h : Hart) (c : BitVec 4) (k : BitVec 6) (p : BitVec 2) : (h.breakChain c k).queueOf p = h.queueOf p := by
  rw [Hart.breakChain_only]; rfl

/-- A change at the head of a queue that leaves the instructions alone. -/
theorem modHead_instr {f : Entry → Entry} (hf : ∀ e, (f e).instr = e.instr) (es : List Entry) :
    (modHead f es).map (·.instr) = es.map (·.instr) := by
  cases es with
  | nil => rfl
  | cons e es => exact congrArg (· :: es.map _) (hf e)

theorem Hart.modQueueOf_instr (h : Hart) (q p : BitVec 2) {f : Entry → Entry} (hf : ∀ e, (f e).instr = e.instr) :
    ((h.modQueueOf q (modHead f)).queueOf p).map (·.instr) = (h.queueOf p).map (·.instr) := by
  rw [Hart.queueOf_modQueueOf]
  split
  · exact modHead_instr hf _
  · rfl

/-- The head of the queue that is changed there. -/
theorem Hart.modQueueOf_head {h : Hart} {q : BitVec 2} {e : Entry} (he : (h.queueOf q).head? = some e) (f : Entry → Entry) :
    ((h.modQueueOf q (modHead f)).queueOf q).head? = some (f e) := by
  have hq : q ≠ 0 := by rintro rfl; cases he
  rw [Hart.queueOf_modQueueOf, if_pos ⟨rfl, hq⟩]
  cases hl : h.queueOf q with
  | nil => rw [hl] at he; cases he
  | cons e' es =>
    rw [hl] at he
    cases he
    rfl

/-- The vl that ei is counted against is all that the sized entry differs in. -/
theorem Hart.sized_only (h : Hart) (e : Entry) : h.sized e = { e with vl := (h.sized e).vl } := by
  unfold Hart.sized
  split
  · dsimp only
    split <;> rfl
  · rfl

theorem Hart.sized_instr (h : Hart) (e : Entry) : (h.sized e).instr = e.instr := by rw [Hart.sized_only]

theorem Hart.sized_pc (h : Hart) (e : Entry) : (h.sized e).pc = e.pc := by rw [Hart.sized_only]

/-- CMASK of a hart whose head entry has stopped where it stands (08_gather_fabric.md R251). -/
theorem Hart.stopAccess_head {h : Hart} {q : BitVec 2} {e : Entry} (he : (h.queueOf q).head? = some e) :
    h.stopAccess q e.prog.toNat = { h with cmask := stoppedMask e h.cmask } := by
  simp only [Hart.stopAccess, he, stoppedMask, Bool.and_eq_true, Option.isNone_iff_eq_none]
  split <;> rfl

/-- The hart as the trap of an engine finds it: CMASK says how far the head of the queue has come, whose vl is the one that ei is
counted against. -/
def Hart.atTrap (h : Hart) (q : BitVec 2) (e : Entry) : Hart :=
  ({ h with cmask := stoppedMask e h.cmask } : Hart).modQueueOf q (modHead h.sized)

/-- A trap outside a handler, for a cause that goes to the task's handler. -/
theorem State.takeTrap_handler (s : State) {h : Hart} (entered : Hart) (q : BitVec 2) {code : BitVec 8} (src : BitVec 4) (pc : Word)
    (addr : Option Word) (gpa : Word) (th : h.th = false) (hh : h.handler ≠ 0) (hc : toRecord code = false) :
    s.takeTrap h entered q code src pc addr gpa =
      (if h.gateWait.isSome then s.leaveTolls s.cur else s).setHart { entered with pc := h.handler, gateWait := none } := by
  simp only [State.takeTrap, th, hc, hh, Bool.false_eq_true, or_self, if_false]

/-- The trap of an engine for a cause that goes to the task's handler, outside of it: the hart is what `engineEntry` makes of it, at
the handler's pc, and an instruction that waited on a toll waits no longer. -/
theorem State.takeEngineTrap_handler {s : State} {q : BitVec 2} {code : BitVec 8} {src : BitVec 4} {addr : Option Word} {gpa : Word}
    {e : Entry} (he : (s.hart.queueOf q).head? = some e) (hh : HasHandler s) (hc : toRecord code = false) :
    s.takeEngineTrap q code src addr gpa e.prog.toNat =
      (tollFree s).setHart { (s.hart.atTrap q e).engineEntry q code src addr e.prog.toNat with pc := s.hart.handler, gateWait := none } := by
  obtain ⟨hh, th⟩ := hh
  simp only [State.takeEngineTrap, Hart.lateFirst_handler _ _ th hh hc, Hart.stopAccess_head he]
  rw [State.takeTrap_handler _ _ _ _ _ _ _ (by simpa [Hart.th] using th) (by simpa using hh) hc]
  simp only [Hart.modQueueOf_gateWait, Hart.modQueueOf_handler]
  rfl

/-- What the trap of an engine leaves of the hart as it was. -/
theorem Hart.engineEntry_only (h : Hart) (q : BitVec 2) (code : BitVec 8) (src : BitVec 4) (addr : Option Word) (ei : Nat) :
    ∃ epc held, h.engineEntry q code src addr ei = { h with
      epc := epc, cause := causeWord src q code, ei := word (ei % 2 ^ 48), faddr := addr.getD h.faddr, held := held
      viq := [], piq := [], miq := [], srq := [], bq := [], ld := 0, status := statusWith h.status true true
      chain := if q = 1 then h.chain else (h.breakChain 8 0).chain } := by
  refine ⟨(h.engineEntry q code src addr ei).epc, (h.engineEntry q code src addr ei).held, ?_⟩
  unfold Hart.engineEntry
  by_cases hq : q = 1
  · simp only [hq, if_true]
    rw [Hart.modQueueOf_only]
  · simp only [hq, if_false]
    rw [Hart.modQueueOf_only, Hart.breakChain_only]

/-- What a hart holds over the trap of an engine, but for its queues (05_hart.md R165). -/
theorem Hart.engineEntry_held (h : Hart) (q : BitVec 2) (code : BitVec 8) (src : BitVec 4) (addr : Option Word) (ei : Nat) :
    let d := (h.engineEntry q code src addr ei).held
    d.queue = q ∧ d.pc = h.pc ∧ d.ld = h.ld ∧ d.srq = h.srq ∧ d.bq = h.bq := by
  unfold Hart.engineEntry
  dsimp only
  split <;> simp

/-- Every queue is held over the trap of an engine. -/
theorem Hart.engineEntry_heldOf (h : Hart) (q : BitVec 2) (code : BitVec 8) (src : BitVec 4) (addr : Option Word) (ei : Nat)
    (p : BitVec 2) (hp : p ∈ [1, 2, 3]) :
    (heldOf (h.engineEntry q code src addr ei).held p).map (·.instr) = (h.queueOf p).map (·.instr) := by
  have queues : heldOf (h.engineEntry q code src addr ei).held p =
      ((if q = 1 then h else h.breakChain 8 0).modQueueOf q (modHead fun e => { e with prog := 0 })).queueOf p := by
    simp only [List.mem_cons, List.not_mem_nil, or_false] at hp
    rcases hp with rfl | rfl | rfl <;> rfl
  rw [queues, Hart.modQueueOf_instr (f := fun e => { e with prog := 0 }) _ _ _ fun _ => rfl]
  split
  · rfl
  · rw [Hart.queueOf_breakChain]

/-- EPC is the pc of the entry that traps (05_hart.md R150). -/
theorem Hart.engineEntry_epc {h : Hart} {q : BitVec 2} {e : Entry} (he : (h.queueOf q).head? = some e) (code : BitVec 8)
    (src : BitVec 4) (addr : Option Word) (ei : Nat) : (h.engineEntry q code src addr ei).epc = epcWord e.pc := by
  have head : ((if q = 1 then h else h.breakChain 8 0).queueOf q).head? = some e := by
    split
    · exact he
    · rw [Hart.queueOf_breakChain, he]
  simp only [Hart.engineEntry, Hart.modQueueOf_head head, Option.map_some, Option.getD_some]

theorem Hart.atTrap_only (h : Hart) (q : BitVec 2) (e : Entry) : ∃ v p m, h.atTrap q e = { h with
    cmask := stoppedMask e h.cmask, viq := v, piq := p, miq := m } :=
  ⟨_, _, _, Hart.modQueueOf_only ..⟩

theorem Hart.atTrap_head {h : Hart} {q : BitVec 2} {e : Entry} (he : (h.queueOf q).head? = some e) :
    ((h.atTrap q e).queueOf q).head? = some (h.sized e) :=
  Hart.modQueueOf_head (h := { h with cmask := stoppedMask e h.cmask }) he _

theorem Hart.atTrap_instr (h : Hart) (q : BitVec 2) (e : Entry) (p : BitVec 2) :
    ((h.atTrap q e).queueOf p).map (·.instr) = (h.queueOf p).map (·.instr) :=
  Hart.modQueueOf_instr { h with cmask := stoppedMask e h.cmask } q p h.sized_instr

/-- The position of an entry as ei holds it. -/
theorem word_prog (x : BitVec 48) : word (x.toNat % 2 ^ 48) = x.zeroExtend 64 := by
  rw [Nat.mod_eq_of_lt x.isLt]
  exact BitVec.ofNat_toNat ..

/-- The trap of an engine on the head of a queue enters the task's handler (01_engines.md R20; 05_hart.md R165). -/
theorem entersEngine_takeEngineTrap {s : State} {q : BitVec 2} {code : BitVec 8} {src : BitVec 4} {addr : Option Word} {gpa : Word}
    {e : Entry} (he : (s.hart.queueOf q).head? = some e) (hh : HasHandler s) (hc : toRecord code = false) :
    EntersEngine s (s.takeEngineTrap q code src addr gpa e.prog.toNat) q code src e (addr.getD s.hart.faddr) := by
  have hepc := Hart.engineEntry_epc (Hart.atTrap_head he) code src addr e.prog.toNat
  have queues := (s.hart.atTrap q e).engineEntry_heldOf q code src addr e.prog.toNat
  have rest := (s.hart.atTrap q e).engineEntry_held q code src addr e.prog.toNat
  simp only [Hart.atTrap_instr] at queues
  rw [State.takeEngineTrap_handler he hh hc]
  obtain ⟨epc, held, entered⟩ := (s.hart.atTrap q e).engineEntry_only q code src addr e.prog.toNat
  obtain ⟨viq, piq, miq, stopped⟩ := s.hart.atTrap_only q e
  have chain : ((s.hart.atTrap q e).breakChain 8 0).chain = (s.hart.breakChain 8 0).chain :=
    Hart.breakChain_chain_congr (by rw [stopped]) 8 0
  rw [entered] at hepc queues rest ⊢
  rw [stopped] at rest
  rw [chain, stopped]
  rw [Hart.sized_pc] at hepc
  obtain ⟨hq, hpc, hld, hsrq, hbq⟩ := rest
  have status : ∀ k, (statusWith s.hart.status true true).getLsbD k = if k = 5 then true else if k = 6 then true else s.hart.status.getLsbD k :=
    fun k => statusWith_getLsbD ..
  unfold EntersEngine
  rw [State.hart_setHart]
  exact ⟨rfl, word_prog _, hepc, rfl, queues, hq, hpc, hld, hsrq, hbq, status 6, status 5,
    fun k h5 h6 => by rw [status, if_neg h5, if_neg h6], rfl⟩

/-- A cause that goes to the handler goes to no record, and is one that a trap may have (05_hart.md R149). -/
theorem toHandler_codes {code : BitVec 8} (h : toHandler code = true) : toRecord code = false ∧ trapCode code = true := by
  simp only [toHandler, Bool.and_eq_true, decide_eq_true_eq] at h
  obtain ⟨low, high⟩ := h
  have above : ∀ c : BitVec 8, 0x0F < c.toNat → (code == c) = false := fun c hc => by
    rw [beq_eq_false_iff_ne]
    rintro rfl
    omega
  refine ⟨?_, ?_⟩
  · simp only [toRecord, above ePage (by decide), above eHpage (by decide), above eEcc (by decide), above eDouble (by decide), Bool.or_self]
  · simp only [trapCode, Bool.and_eq_true, decide_eq_true_eq]
    omega

/-- FADDR after the trap of an engine (01_engines.md R20): an illegal entry leaves it, and so do the causes without an address. -/
theorem engineAddr_getD (h : Hart) (code : BitVec 8) (addr : Word) :
    (engineAddr code addr).getD h.faddr = if code = 0x01 then h.faddr else faddrAfter h code addr := by
  have listed : [eOperand, eLease, eQueue, eTrap, eBreak, eWatchdog].contains code = true ↔
      code.toNat ∈ [0x03, 0x04, 0x05, 0x06, 0x07, 0x0E] := by
    simp [← BitVec.toNat_inj, eOperand, eLease, eQueue, eTrap, eBreak, eWatchdog]
  simp only [engineAddr, eIllegal, faultAddr, faddrAfter, listed]
  split
  · rfl
  · split <;> rfl

/-- An engine stops on the head of a queue that is no attached run, and the task's handler is entered (01_engines.md R20). -/
theorem engineTrap_enters {s : State} {slot : Fin 64} {q : BitVec 2} {code : BitVec 8} {addr : Word} {e : Entry}
    (hr : s.runs slot = true) (he : (s.harts[slot].queueOf q).head? = some e) (ha : q = 1 → s.harts[slot].attached = false)
    (hc : toHandler code = true) (hh : HasHandler (atSlot s slot)) :
    ∃ t, EndsIn s (.engineTrap slot q code addr) t ∧ EntersEngine (atSlot s slot) t q code (entrySrc e.instr) e
      (if code = 0x01 then s.harts[slot].faddr else faddrAfter s.harts[slot] code addr) := by
  obtain ⟨record, trap⟩ := toHandler_codes hc
  rw [← engineAddr_getD]
  refine ⟨_, endsIn_of_eventOn hr rfl ?_, entersEngine_takeEngineTrap (s := atSlot s slot)
    (gpa := (atSlot s slot).gpaOf s.harts[slot].agent code addr) he hh record⟩
  have head : ((atSlot s slot).hart.queueOf q).head? = some e := he
  have detached : (decide (q = 1) && (atSlot s slot).hart.attached) = false := by
    rw [Bool.and_eq_false_imp, decide_eq_true_iff]
    exact ha
  simp only [trap, if_true, State.trapHead, head, detached, Bool.false_eq_true, if_false]
  rfl

/-! ### Requests that time out -/

/-- A load or an RMW of the hart or of an engine: its request is to fail where it is made (04_memory_model.md R141). -/
theorem requestTimeout_load {s : State} {slot : Fin 64} {u : BitVec 3} {k : BitVec 4} {addr : Word} (hr : s.runs slot = true)
    (hu : u.toNat ≤ 3) : EndsIn s (.requestTimeout slot u k addr) (withLate s slot addr) := by
  refine endsIn_of_eventOn hr rfl ?_
  simp only [hu, if_true]
  rfl

/-- A store of a queue, whose bytes stay written (log 60). -/
theorem requestTimeout_store {s : State} {slot : Fin 64} {k : BitVec 4} {addr : Word} (hr : s.runs slot = true) :
    EndsIn s (.requestTimeout slot 4 k addr)
      ((atSlot s slot).setHart { s.harts[slot] with lateStores := s.harts[slot].lateStores ++ [(k.setWidth 2, addr)] }) :=
  endsIn_of_eventOn hr rfl rfl

/-- A token whose transfer a request that timed out has stopped. -/
def Token.timedOut (t : Token) : Bool := t.state == .fault && t.cause == eMemTimeout

/-- A fetch that an operand node has to make, with what its failure comes to. -/
def State.fetchTile (s : State) (k : BitVec 4) : State :=
  match s.nodeFetch k with
  | some (some e, t) => t.nodeFault k e
  | some (none, t) => t
  | none => s

theorem exec_requestTimeout_copy (s : State) (slot : Fin 64) (k : BitVec 4) (addr : Word) :
    exec (.requestTimeout slot 5 k addr) s = s.eventOn slot fun s => if (s.hart.copy k).state = .busy then
      s.timingOut addr (·.copyRun k) fun t => (t.hart.copy k).timedOut else s := rfl

theorem exec_requestTimeout_link (s : State) (slot : Fin 64) (k : BitVec 4) (addr : Word) :
    exec (.requestTimeout slot 6 k addr) s = s.eventOn slot fun s => if (s.hart.linkTok (k.setWidth 3)).state = .busy then
      s.timingOut addr (·.linkRun (k.setWidth 3)) fun t => (t.hart.linkTok (k.setWidth 3)).timedOut else s := rfl

theorem exec_requestTimeout_node (s : State) (slot : Fin 64) (k : BitVec 4) (addr : Word) :
    exec (.requestTimeout slot 7 k addr) s = s.eventOn slot fun s =>
      s.timingOut addr (·.fetchTile k) fun t => (t.hart.onode k).owed.isSome && (s.hart.onode k).owed.isNone := rfl

/-- A copy whose request times out is FAULT (06_port.md R199). -/
theorem requestTimeout_copy {s v : State} {slot : Fin 64} {k : BitVec 4} {addr : Word} {x : Nat} {tk : Token} {e : Fail}
    (hr : s.runs slot = true) (ht : s.harts[slot].copy k = tk) (hb : tk.state = .busy) (he : e.code = eMemTimeout)
    (hw : workingOn (copyBytes s.harts[slot].agent tk tk.x (tk.len.toNat - tk.x)) (withLate s slot addr) = ((x, some e), v)) :
    EndsIn s (.requestTimeout slot 5 k addr) (v.setHart { (v.hart.modCopy k fun _ =>
      { tk with state := .fault, x := x, cause := eMemTimeout, addr := e.addr }) with late := none }) := by
  have ran := State.copyRun_fault (s := withLate s slot addr) (by rw [withLate_hart]; exact ht) hb (by rw [he]; decide)
    (by rw [withLate_hart]; exact hw)
  have busy : ((atSlot s slot).hart.copy k).state = .busy := (congrArg Token.state ht).trans hb
  refine endsIn_of_eventOn hr (exec_requestTimeout_copy ..) ?_
  rw [if_pos busy, State.timingOut_of ran (by simp [Token.timedOut, he]), State.hart_setHart, State.setHart_setHart, he]

/-- A link operation whose request times out is FAULT (14_link.md R408). -/
theorem requestTimeout_link {s v : State} {slot : Fin 64} {k : BitVec 4} {addr : Word} {x : Nat} {tk : Token} {e : Fail}
    (hr : s.runs slot = true) (ht : s.harts[slot].linkTok (k.setWidth 3) = tk) (hb : tk.state = .busy) (he : e.code = eMemTimeout)
    (hw : workingOn (linkElems s.harts[slot].agent tk tk.x (tk.unit.2 - tk.x)) (withLate s slot addr) = ((x, some e), v)) :
    EndsIn s (.requestTimeout slot 6 k addr) (v.setHart { (v.hart.modLink (k.setWidth 3) fun _ =>
      { tk with state := .fault, x := x, cause := eMemTimeout, addr := e.addr }) with late := none }) := by
  have ran := State.linkRun_fault (s := withLate s slot addr) (by rw [withLate_hart]; exact ht) hb (by rw [he]; decide)
    (by rw [withLate_hart]; exact hw)
  have busy : ((atSlot s slot).hart.linkTok (k.setWidth 3)).state = .busy := (congrArg Token.state ht).trans hb
  refine endsIn_of_eventOn hr (exec_requestTimeout_link ..) ?_
  rw [if_pos busy, State.timingOut_of ran (by simp [Token.timedOut, he]), State.hart_setHart, State.setHart_setHart, he]

/-- A fetch of an operand node whose request times out is owed to a consumer (10_matrix.md R317). -/
theorem requestTimeout_node {s v : State} {slot : Fin 64} {k : BitVec 4} {addr : Word} {nd : OperandNode} {e : Fail}
    (hr : s.runs slot = true) (hn : s.harts[slot].onode k = nd) (hs : nd.state = .running) (ho : nd.owed = none)
    (hi : s.harts[slot].inTimeout k = false) (ht : nd.t < nodeTiles nd.desc)
    (hf : nd.full.getLsbD (nd.t % nodeDepth nd.desc) = false) (he : e.code = eMemTimeout)
    (hw : fillTile s.harts[slot].agent nd (withLate s slot addr) = .error e v) :
    EndsIn s (.requestTimeout slot 7 k addr) (v.setHart { (v.hart.modOnode k fun _ =>
      { nd with owed := some (eMemTimeout, e.addr) }) with late := none }) := by
  have fetched := State.nodeFetch_fails (s := withLate s slot addr) (by rw [withLate_hart]; exact hn) hs ho
    (by rw [withLate_hart]; exact hi) ht hf (by rw [withLate_hart]; exact hw)
  have kept : v.hart.onode k = nd := by
    rw [((fillTile_ok ..).of_error hw).hartKept.onode, withLate_hart]
    exact hn
  have ran : (withLate s slot addr).fetchTile k =
      v.setHart (v.hart.modOnode k fun _ => { nd with owed := some (eMemTimeout, e.addr) }) := by
    rw [State.fetchTile, fetched, ← he]
    simp only [State.nodeFault_owed v k (e := e) (by rw [he]; decide), Hart.modOnode, kept]
  refine endsIn_of_eventOn hr (exec_requestTimeout_node ..) ?_
  have free : (atSlot s slot).hart.onode k = nd := hn
  rw [State.timingOut_of ran (by simp [free, ho]), State.hart_setHart, State.setHart_setHart]

/-- Settles O57, event by event: what the trap, the transfer, the load or the fetch comes to with the event's hart as the one that moves
is what the event ends in. -/
theorem engineEvents : Obligations.EngineEvents := by
  unfold Obligations.EngineEvents
  refine ⟨fun s slot q code addr e hr he ha hc hh => engineTrap_enters hr he ha hc hh, ?copyDone, ?copyFault, ?linkDone, ?linkFault,
    ?arrival, fun s slot u k addr hr => ⟨requestTimeout_load hr, requestTimeout_store hr⟩, ?copyTimeout, ?linkTimeout, ?nodeTimeout⟩
  case copyDone =>
    intro s v slot k x tk hr ht hb hw
    refine ⟨_, endsIn_of_eventOn hr rfl (keepIf_of (State.copyRun_done ht hb hw) ?_), rfl⟩
    simp
  case copyFault =>
    intro s v slot k x tk e hr ht hb hw he
    refine ⟨_, endsIn_of_eventOn hr rfl (keepIf_of (State.copyRun_fault ht hb he hw) ?_), rfl⟩
    simp
  case linkDone =>
    intro s v slot k x tk hr ht hb hw
    refine ⟨_, endsIn_of_eventOn hr rfl (keepIf_of (State.linkRun_done ht hb hw) ?_), rfl⟩
    simp
  case linkFault =>
    intro s v slot k x tk e hr ht hb hw he
    refine ⟨_, endsIn_of_eventOn hr rfl (keepIf_of (State.linkRun_fault ht hb he hw) ?_), rfl⟩
    simp
  case arrival =>
    intro s v slot t x n y e hr hx hk hn hlt
    exact ⟨fun hl => streamElementArrival_load (r := .ok y) hr hx hk hn hlt (by simp only [tryAcc, hl]),
      fun hl => streamElementArrival_load (r := .error e) hr hx hk hn hlt (by simp only [tryAcc, hl])⟩
  case copyTimeout =>
    intro s v slot k addr x tk e hr ht hb he hw
    exact requestTimeout_copy hr ht hb he hw
  case linkTimeout =>
    rintro s v slot k _ addr x tk e hr rfl ht hb he hw
    exact requestTimeout_link hr ht hb he hw
  case nodeTimeout =>
    intro s v slot k addr nd e hr hn hs ho hi ht hf he hw
    exact requestTimeout_node hr hn hs ho hi ht hf he hw

end Sys2Proof.Machine
end

section
/-!
PROOFS. EncodeDecode: a word is the fields it is cut into, so the encoder and the decoder of each major opcode undo each other
(02_encoding.md R46, R51, R52, R57 to R61). `fields2` to `fields9` cut a word into as many fields as a format has; both directions read
them, one from the encoder's fields to the decoder's slices, the other back.
-/

namespace Sys2Proof.Words

/-! ### Fields of a word -/

section
variable {N k n1 n2 n3 n4 n5 n6 n7 n8 n9 : Nat} {w : BitVec N} {x1 : BitVec n1} {x2 : BitVec n2} {x3 : BitVec n3}
  {x4 : BitVec n4} {x5 : BitVec n5} {x6 : BitVec n6} {x7 : BitVec n7} {x8 : BitVec n8} {x9 : BitVec n9}

/-- Two fields side by side are a slice of a word when each is its own part of the slice. -/
theorem fields2 :
    x1 ++ x2 = w.extractLsb' k (n1 + n2) ↔ x1 = w.extractLsb' (k + n2) n1 ∧ x2 = w.extractLsb' k n2 := by
  constructor
  · intro h
    have high : x1 = (x1 ++ x2).extractLsb' n2 n1 := by
      rw [BitVec.extractLsb'_append_eq_of_le (Nat.le_refl _), Nat.sub_self, BitVec.extractLsb'_eq_self]
    have low : x2 = (x1 ++ x2).extractLsb' 0 n2 := by
      rw [BitVec.extractLsb'_append_eq_of_add_le (by omega), BitVec.extractLsb'_eq_self]
    rw [h] at high low
    constructor
    · rw [high]; ext i hi; simp [Nat.add_assoc]; omega
    · rw [low]; ext i hi; simp; omega
  · rintro ⟨rfl, rfl⟩
    ext i hi
    simp only [BitVec.getElem_append, BitVec.getElem_extractLsb']
    split
    · rfl
    · congr 1; omega

theorem fields3 : x1 ++ x2 ++ x3 = w.extractLsb' k (n1 + n2 + n3) ↔
    x1 = w.extractLsb' (k + n3 + n2) n1 ∧ x2 = w.extractLsb' (k + n3) n2 ∧ x3 = w.extractLsb' k n3 :=
  fields2.trans ((and_congr_left' fields2).trans and_assoc)

theorem fields4 : x1 ++ x2 ++ x3 ++ x4 = w.extractLsb' k (n1 + n2 + n3 + n4) ↔
    x1 = w.extractLsb' (k + n4 + n3 + n2) n1 ∧ x2 = w.extractLsb' (k + n4 + n3) n2 ∧ x3 = w.extractLsb' (k + n4) n3 ∧
    x4 = w.extractLsb' k n4 :=
  fields2.trans ((and_congr_left' fields3).trans (by simp only [and_assoc]))

theorem fields5 : x1 ++ x2 ++ x3 ++ x4 ++ x5 = w.extractLsb' k (n1 + n2 + n3 + n4 + n5) ↔
    x1 = w.extractLsb' (k + n5 + n4 + n3 + n2) n1 ∧ x2 = w.extractLsb' (k + n5 + n4 + n3) n2 ∧
    x3 = w.extractLsb' (k + n5 + n4) n3 ∧ x4 = w.extractLsb' (k + n5) n4 ∧ x5 = w.extractLsb' k n5 :=
  fields2.trans ((and_congr_left' fields4).trans (by simp only [and_assoc]))

theorem fields6 : x1 ++ x2 ++ x3 ++ x4 ++ x5 ++ x6 = w.extractLsb' k (n1 + n2 + n3 + n4 + n5 + n6) ↔
    x1 = w.extractLsb' (k + n6 + n5 + n4 + n3 + n2) n1 ∧ x2 = w.extractLsb' (k + n6 + n5 + n4 + n3) n2 ∧
    x3 = w.extractLsb' (k + n6 + n5 + n4) n3 ∧ x4 = w.extractLsb' (k + n6 + n5) n4 ∧ x5 = w.extractLsb' (k + n6) n5 ∧
    x6 = w.extractLsb' k n6 :=
  fields2.trans ((and_congr_left' fields5).trans (by simp only [and_assoc]))

theorem fields7 : x1 ++ x2 ++ x3 ++ x4 ++ x5 ++ x6 ++ x7 = w.extractLsb' k (n1 + n2 + n3 + n4 + n5 + n6 + n7) ↔
    x1 = w.extractLsb' (k + n7 + n6 + n5 + n4 + n3 + n2) n1 ∧ x2 = w.extractLsb' (k + n7 + n6 + n5 + n4 + n3) n2 ∧
    x3 = w.extractLsb' (k + n7 + n6 + n5 + n4) n3 ∧ x4 = w.extractLsb' (k + n7 + n6 + n5) n4 ∧
    x5 = w.extractLsb' (k + n7 + n6) n5 ∧ x6 = w.extractLsb' (k + n7) n6 ∧ x7 = w.extractLsb' k n7 :=
  fields2.trans ((and_congr_left' fields6).trans (by simp only [and_assoc]))

theorem fields8 : x1 ++ x2 ++ x3 ++ x4 ++ x5 ++ x6 ++ x7 ++ x8 = w.extractLsb' k (n1 + n2 + n3 + n4 + n5 + n6 + n7 + n8) ↔
    x1 = w.extractLsb' (k + n8 + n7 + n6 + n5 + n4 + n3 + n2) n1 ∧ x2 = w.extractLsb' (k + n8 + n7 + n6 + n5 + n4 + n3) n2 ∧
    x3 = w.extractLsb' (k + n8 + n7 + n6 + n5 + n4) n3 ∧ x4 = w.extractLsb' (k + n8 + n7 + n6 + n5) n4 ∧
    x5 = w.extractLsb' (k + n8 + n7 + n6) n5 ∧ x6 = w.extractLsb' (k + n8 + n7) n6 ∧ x7 = w.extractLsb' (k + n8) n7 ∧
    x8 = w.extractLsb' k n8 :=
  fields2.trans ((and_congr_left' fields7).trans (by simp only [and_assoc]))

theorem fields9 :
    x1 ++ x2 ++ x3 ++ x4 ++ x5 ++ x6 ++ x7 ++ x8 ++ x9 = w.extractLsb' k (n1 + n2 + n3 + n4 + n5 + n6 + n7 + n8 + n9) ↔
    x1 = w.extractLsb' (k + n9 + n8 + n7 + n6 + n5 + n4 + n3 + n2) n1 ∧
    x2 = w.extractLsb' (k + n9 + n8 + n7 + n6 + n5 + n4 + n3) n2 ∧ x3 = w.extractLsb' (k + n9 + n8 + n7 + n6 + n5 + n4) n3 ∧
    x4 = w.extractLsb' (k + n9 + n8 + n7 + n6 + n5) n4 ∧ x5 = w.extractLsb' (k + n9 + n8 + n7 + n6) n5 ∧
    x6 = w.extractLsb' (k + n9 + n8 + n7) n6 ∧ x7 = w.extractLsb' (k + n9 + n8) n7 ∧ x8 = w.extractLsb' (k + n9) n8 ∧
    x9 = w.extractLsb' k n9 :=
  fields2.trans ((and_congr_left' fields8).trans (by simp only [and_assoc]))

/-- A part of a fixed field is fixed. -/
theorem slice_slice (h : x1 = w.extractLsb' k n1) (j l : Nat) (hl : j + l ≤ n1 := by decide) :
    w.extractLsb' (k + j) l = x1.extractLsb' j l := by
  subst h
  ext i hi
  simp [Nat.add_assoc]
  omega

/-- The lowest bit of a fixed field is fixed. -/
theorem getLsbD_zero_of_slice (h : x1 = w.extractLsb' 0 n1) (hn : 0 < n1) : w.getLsbD 0 = x1.getLsbD 0 := by
  subst h
  simp [hn]

end

/-! ### Values of a field -/

/-- A field whose value is known is a constant. -/
theorem ofNat_of_toNat {n k : Nat} {x : BitVec n} (h : x.toNat = k) : BitVec.ofNat n k = x := by
  subst h
  simp

/-- The last arm of a decoder takes the one value its field has left. -/
theorem eq_one_of_ne {x : BitVec 1} (h0 : x.toNat ≠ 0) : 1#1 = x :=
  ofNat_of_toNat (k := 1) (by have := x.isLt; omega)

theorem eq_three_of_ne {x : BitVec 2} (h0 : x.toNat ≠ 0) (h1 : x.toNat ≠ 1) (h2 : x.toNat ≠ 2) : 3#2 = x :=
  ofNat_of_toNat (k := 3) (by have := x.isLt; omega)

theorem eq_seven_of_ne {x : BitVec 3} (h0 : x.toNat ≠ 0) (h1 : x.toNat ≠ 1) (h2 : x.toNat ≠ 2) (h3 : x.toNat ≠ 3) (h4 : x.toNat ≠ 4)
    (h5 : x.toNat ≠ 5) (h6 : x.toNat ≠ 6) : 7#3 = x :=
  ofNat_of_toNat (k := 7) (by have := x.isLt; omega)

theorem zero_of_getLsbD {w : BitVec 16} (h : w.getLsbD 0 = false) : 0#1 = w.extractLsb' 0 1 := by
  ext i hi
  obtain rfl : i = 0 := by omega
  simpa using h

/-- The queues of `bqz` and `bqnz` (05_hart.md R158). -/
theorem queue_of_bqOk {q : BitVec 2} (h : bqOk q = true) : q = 0#2 ∨ q = 1#2 ∨ q = 2#2 := by
  revert q; decide

/-! ### Words and their decoders -/

section
variable {w : BitVec 32} {i : Instr}

theorem full_eq {a : BitVec 32} : some (Encoded.full a) = some (Encoded.full w) ↔ a = w.extractLsb' 0 32 := by
  rw [Option.some_inj, Encoded.full.injEq, BitVec.extractLsb'_eq_self]

theorem half_eq {a v : BitVec 16} : some (Encoded.half a) = some (Encoded.half v) ↔ a = v.extractLsb' 0 16 := by
  rw [Option.some_inj, Encoded.half.injEq, BitVec.extractLsb'_eq_self]

/-- The decoder of a major opcode. -/
noncomputable def majorDecoder (k : Nat) (w : BitVec 32) : Except DecodeError Instr :=
  match k with
  | 1 => decodeMajor1 w
  | 2 => decodeMajor2 w
  | 3 => decodeMajor3 w
  | 4 => decodeMajor4 w
  | 5 => decodeMajor5 w
  | 6 => decodeMajor6 w
  | 7 => decodeMajor7 w
  | 8 => decodeMajor8 w
  | 9 => decodeMajor9 w
  | 10 => decodeMajor10 w
  | 11 => decodeMajor11 w
  | 12 => decodeMajor12 w
  | 13 => decodeMajor13 w
  | 14 => decodeMajor14 w
  | 15 => decodeMajor15 w
  | 16 => decodeMajor16 w
  | 17 => decodeMajor17 w
  | 18 => decodeMajor18 w
  | 19 => decodeMajor19 w
  | 20 => decodeMajor20 w
  | 21 => decodeMajor21 w
  | 22 => decodeMajor22 w
  | 23 => decodeMajor23 w
  | 24 => decodeMajor24 w
  | 25 => decodeMajor25 w
  | 26 => decodeMajor26 w
  | 27 => decodeMajor27 w
  | 28 => decodeMajor28 w
  | 29 => decodeMajor29 w
  | 30 => decodeMajor30 w
  | 31 => decodeMajor31 w
  | 32 => decodeMajor32 w
  | 33 => decodeMajor33 w
  | 34 => decodeMajor34 w
  | 35 => decodeMajor35 w
  | 36 => decodeMajor36 w
  | 37 => decodeMajor37 w
  | 38 => decodeMajor38 w
  | 39 => decodeMajor39 w
  | 40 => decodeMajor40 w
  | 41 => decodeMajor41 w
  | 42 => decodeMajor42 w
  | 43 => decodeMajor43 w
  | 44 => decodeMajor44 w
  | 45 => decodeMajor45 w
  | 46 => decodeMajor46 w
  | 47 => decodeMajor47 w
  | 48 => decodeMajor48 w
  | 49 => decodeMajor49 w
  | 50 => decodeMajor50 w
  | 51 => decodeMajor51 w
  | 52 => decodeMajor52 w
  | 53 => decodeMajor53 w
  | 54 => decodeMajor54 w
  | 55 => decodeMajor55 w
  | 56 => decodeMajor56 w
  | 57 => decodeMajor57 w
  | 58 => decodeMajor58 w
  | 59 => decodeMajor59 w
  | 60 => decodeMajor60 w
  | 61 => decodeMajor61 w
  | _ => .error .unassignedMajor

/-- The two tables that a word's major opcode goes through, the queued majors' and the others', are one (02_encoding.md R57). -/
theorem decodeFields_eq (w : BitVec 32) : decodeFields w = majorDecoder (w.extractLsb' 1 6).toNat w := by
  unfold decodeFields
  split
  case h_29 =>
    unfold decodeQueuedFields
    split
    case h_34 =>
      unfold majorDecoder
      split
      case h_62 => rfl
      all_goals contradiction
    all_goals rename_i hk; rw [hk]; rfl
  all_goals rename_i hk; rw [hk]; rfl

/-- The low 7 bits of a 32-bit word of a major opcode (02_encoding.md R51). -/
abbrev HasMajor (w : BitVec 32) (k : Nat) : Prop := BitVec.ofNat 7 (2 * k + 1) = w.extractLsb' 0 7

theorem hasMajor_of_bits {k : Nat} (h0 : w.getLsbD 0 = true) (hk : (w.extractLsb' 1 6).toNat = k) : HasMajor w k := by
  rw [BitVec.getLsbD, Nat.testBit_zero, decide_eq_true_eq] at h0
  rw [BitVec.extractLsb'_toNat, Nat.shiftRight_eq_div_pow] at hk
  refine ofNat_of_toNat ?_
  rw [BitVec.extractLsb'_toNat, Nat.shiftRight_eq_div_pow]
  omega

theorem checkFields_eq_ok {r : Except DecodeError Instr} : checkFields r = .ok i ↔ r = .ok i ∧ i.wellFormed = true := by
  cases r with
  | error e => simp [checkFields]
  | ok j =>
    by_cases hj : j.wellFormed = true
    · rw [checkFields, if_pos hj]
      exact ⟨fun h => ⟨h, by cases h; exact hj⟩, And.left⟩
    · rw [checkFields, if_neg hj]
      exact ⟨nofun, fun ⟨h, hi⟩ => absurd hi (by cases h; exact hj)⟩

/-- A word whose fixed low bits name a major opcode decodes to what that opcode's decoder makes of it. -/
theorem decode_full {n : Nat} {c : BitVec n} (k : Nat) (hi : i.wellFormed = true) (ho : c = w.extractLsb' 0 n)
    (h : majorDecoder k w = .ok i) (hk : (c.extractLsb' 1 6).toNat = k := by rfl) (hc : c.getLsbD 0 = true := by rfl)
    (hn : 7 ≤ n := by decide) : decode (.full w) = .ok i := by
  have odd : w.getLsbD 0 = true := (getLsbD_zero_of_slice ho (by omega)).trans hc
  have fields : decodeFields w = .ok i := by
    rw [decodeFields_eq, ← h, ← hk, ← slice_slice ho 1 6 (by omega)]
  simp only [decode, odd, if_true, decode32, checkFields_eq_ok, fields, hi, and_self]

/-- The same of a compact word. -/
theorem decode_half {v : BitVec 16} {c : BitVec 4} (hi : i.wellFormed = true) (ho : c = v.extractLsb' 0 4)
    (h : decodeCompactFields v = .ok i) (hc : c.getLsbD 0 = false := by rfl) : decode (.half v) = .ok i := by
  have even : v.getLsbD 0 = false := (getLsbD_zero_of_slice ho (by omega)).trans hc
  simp only [decode, isLong, even, Bool.false_eq_true, if_false, decode16, checkFields_eq_ok, h, hi, and_self]

theorem decode_full_eq_ok : decode (.full w) = .ok i ↔ w.getLsbD 0 = true ∧ decodeFields w = .ok i ∧ i.wellFormed = true := by
  rw [decode, ← checkFields_eq_ok]
  cases w.getLsbD 0 <;> simp [decode32]

theorem decode_half_eq_ok {v : BitVec 16} :
    decode (.half v) = .ok i ↔ v.getLsbD 0 = false ∧ decodeCompactFields v = .ok i ∧ i.wellFormed = true := by
  rw [decode, isLong, ← checkFields_eq_ok]
  cases v.getLsbD 0 <;> simp [decode16]

/-! ### From the word to the instruction and back -/

/-- What decodes under a check has passed it. -/
theorem passed_of_ite_ok {p : Prop} [Decidable p] {r : Except DecodeError Instr} {e : DecodeError} (h : (if p then r else .error e) = .ok i) :
    p ∧ r = .ok i := by
  split at h
  · exact ⟨‹_›, h⟩
  · cases h

theorem encode_of_decodeMajor1 (ho : HasMajor w 1) (h : decodeMajor1 w = .ok i) : encode i = some (.full w) := by
  unfold decodeMajor1 at h
  split at h
  iterate 17 · rename_i hf; cases h; exact full_eq.2 (fields5.2 ⟨ofNat_of_toNat hf, rfl, rfl, rfl, ho⟩)
  · cases h

theorem encode_of_decodeMajor2 (ho : HasMajor w 2) (h : decodeMajor2 w = .ok i) : encode i = some (.full w) := by
  unfold decodeMajor2 at h
  split at h
  · rename_i hf; cases h; exact full_eq.2 (fields5.2 ⟨ofNat_of_toNat hf, rfl, rfl, rfl, ho⟩)
  · cases h; exact full_eq.2 (fields5.2 ⟨eq_one_of_ne ‹_›, rfl, rfl, rfl, ho⟩)

theorem encode_of_decodeMajor3 (ho : HasMajor w 3) (h : decodeMajor3 w = .ok i) : encode i = some (.full w) := by
  unfold decodeMajor3 at h
  split at h
  · rename_i hf; cases h; exact full_eq.2 (fields5.2 ⟨ofNat_of_toNat hf, rfl, rfl, rfl, ho⟩)
  · cases h; exact full_eq.2 (fields5.2 ⟨eq_one_of_ne ‹_›, rfl, rfl, rfl, ho⟩)

theorem encode_of_decodeMajor4 (ho : HasMajor w 4) (h : decodeMajor4 w = .ok i) : encode i = some (.full w) := by
  unfold decodeMajor4 at h
  split at h
  · rename_i hf; cases h; exact full_eq.2 (fields5.2 ⟨ofNat_of_toNat hf, rfl, rfl, rfl, ho⟩)
  · obtain ⟨hz, h⟩ := passed_of_ite_ok h
    split at h
    iterate 3
      · rename_i hs; cases h
        exact full_eq.2 (fields5.2 ⟨(fields3.2 ⟨eq_one_of_ne ‹_›, hz.symm, ofNat_of_toNat hs⟩ :), rfl, rfl, rfl, ho⟩)
    · cases h

theorem encode_of_decodeMajor5 (ho : HasMajor w 5) (h : decodeMajor5 w = .ok i) : encode i = some (.full w) := by
  unfold decodeMajor5 at h
  split at h
  · rename_i hf; cases h; exact full_eq.2 (fields5.2 ⟨ofNat_of_toNat hf, rfl, rfl, rfl, ho⟩)
  · cases h; exact full_eq.2 (fields5.2 ⟨eq_one_of_ne ‹_›, rfl, rfl, rfl, ho⟩)

theorem encode_of_decodeMajor6 (ho : HasMajor w 6) (h : decodeMajor6 w = .ok i) : encode i = some (.full w) := by
  unfold decodeMajor6 at h
  split at h
  · rename_i hf; cases h; exact full_eq.2 (fields5.2 ⟨ofNat_of_toNat hf, rfl, rfl, rfl, ho⟩)
  · cases h; exact full_eq.2 (fields5.2 ⟨eq_one_of_ne ‹_›, rfl, rfl, rfl, ho⟩)

theorem encode_of_decodeMajor7 (ho : HasMajor w 7) (h : decodeMajor7 w = .ok i) : encode i = some (.full w) := by
  unfold decodeMajor7 at h
  split at h
  · rename_i hf; cases h; exact full_eq.2 (fields5.2 ⟨ofNat_of_toNat hf, rfl, rfl, rfl, ho⟩)
  · cases h; exact full_eq.2 (fields5.2 ⟨eq_one_of_ne ‹_›, rfl, rfl, rfl, ho⟩)

theorem encode_of_decodeMajor8 (ho : HasMajor w 8) (h : decodeMajor8 w = .ok i) : encode i = some (.full w) := by
  unfold decodeMajor8 at h
  split at h
  · rename_i hf; cases h; exact full_eq.2 (fields5.2 ⟨ofNat_of_toNat hf, rfl, rfl, rfl, ho⟩)
  · obtain ⟨hz, ⟨⟩⟩ := passed_of_ite_ok h; exact full_eq.2 (fields6.2 ⟨eq_one_of_ne ‹_›, rfl, rfl, hz.symm, rfl, ho⟩)

theorem encode_of_decodeMajor9 (ho : HasMajor w 9) (h : decodeMajor9 w = .ok i) : encode i = some (.full w) := by
  unfold decodeMajor9 at h
  split at h
  · rename_i hf; obtain ⟨hz, ⟨⟩⟩ := passed_of_ite_ok h
    exact full_eq.2 (fields6.2 ⟨ofNat_of_toNat hf, rfl, rfl, hz.symm, rfl, ho⟩)
  · cases h; exact full_eq.2 (fields5.2 ⟨eq_one_of_ne ‹_›, rfl, rfl, rfl, ho⟩)

theorem encode_of_decodeMajor10 (ho : HasMajor w 10) (h : decodeMajor10 w = .ok i) : encode i = some (.full w) := by
  unfold decodeMajor10 at h
  split at h
  · rename_i hf; cases h; exact full_eq.2 (fields5.2 ⟨ofNat_of_toNat hf, rfl, rfl, rfl, ho⟩)
  · cases h; exact full_eq.2 (fields5.2 ⟨eq_one_of_ne ‹_›, rfl, rfl, rfl, ho⟩)

theorem encode_of_decodeMajor11 (ho : HasMajor w 11) (h : decodeMajor11 w = .ok i) : encode i = some (.full w) := by
  unfold decodeMajor11 at h
  split at h
  · rename_i hf; cases h; exact full_eq.2 (fields5.2 ⟨ofNat_of_toNat hf, rfl, rfl, rfl, ho⟩)
  · obtain ⟨hz, ⟨⟩⟩ := passed_of_ite_ok h; exact full_eq.2 (fields6.2 ⟨eq_one_of_ne ‹_›, rfl, rfl, hz.symm, rfl, ho⟩)

theorem encode_of_decodeMajor12 (ho : HasMajor w 12) (h : decodeMajor12 w = .ok i) : encode i = some (.full w) := by
  unfold decodeMajor12 at h
  split at h
  · rename_i hf; obtain ⟨hz, ⟨⟩⟩ := passed_of_ite_ok h
    exact full_eq.2 (fields6.2 ⟨ofNat_of_toNat hf, rfl, rfl, hz.symm, rfl, ho⟩)
  · cases h; exact full_eq.2 (fields5.2 ⟨eq_one_of_ne ‹_›, rfl, rfl, rfl, ho⟩)

theorem encode_of_decodeMajor13 (ho : HasMajor w 13) (h : decodeMajor13 w = .ok i) : encode i = some (.full w) := by
  unfold decodeMajor13 at h
  split at h
  · rename_i hf; cases h; exact full_eq.2 (fields5.2 ⟨ofNat_of_toNat hf, rfl, rfl, rfl, ho⟩)
  · cases h; exact full_eq.2 (fields5.2 ⟨eq_one_of_ne ‹_›, rfl, rfl, rfl, ho⟩)

theorem encode_of_decodeMajor14 (ho : HasMajor w 14) (h : decodeMajor14 w = .ok i) : encode i = some (.full w) := by
  unfold decodeMajor14 at h
  split at h
  · rename_i hf; cases h; exact full_eq.2 (fields5.2 ⟨ofNat_of_toNat hf, rfl, rfl, rfl, ho⟩)
  · cases h; exact full_eq.2 (fields5.2 ⟨eq_one_of_ne ‹_›, rfl, rfl, rfl, ho⟩)

theorem encode_of_decodeMajor15 (ho : HasMajor w 15) (h : decodeMajor15 w = .ok i) : encode i = some (.full w) := by
  unfold decodeMajor15 at h
  split at h
  · rename_i hf; cases h; exact full_eq.2 (fields5.2 ⟨ofNat_of_toNat hf, rfl, rfl, rfl, ho⟩)
  · cases h; exact full_eq.2 (fields5.2 ⟨eq_one_of_ne ‹_›, rfl, rfl, rfl, ho⟩)

theorem encode_of_decodeMajor16 (ho : HasMajor w 16) (h : decodeMajor16 w = .ok i) : encode i = some (.full w) := by
  unfold decodeMajor16 at h
  split at h
  · rename_i hf; cases h; exact full_eq.2 (fields5.2 ⟨ofNat_of_toNat hf, rfl, rfl, rfl, ho⟩)
  · cases h

theorem encode_of_decodeMajor17 (ho : HasMajor w 17) (h : decodeMajor17 w = .ok i) : encode i = some (.full w) := by
  unfold decodeMajor17 at h
  split at h
  iterate 2 · rename_i hf; cases h; exact full_eq.2 (fields2.2 ⟨rfl, (fields2.2 ⟨ofNat_of_toNat hf, ho⟩ :)⟩)
  iterate 6 · rename_i hf; cases h; exact full_eq.2 (fields4.2 ⟨rfl, (slice_slice (ofNat_of_toNat hf) 2 3).symm, rfl, ho⟩)
  · cases h

theorem encode_of_decodeMajor18 (ho : HasMajor w 18) (h : decodeMajor18 w = .ok i) : encode i = some (.full w) := by
  unfold decodeMajor18 at h
  split at h
  iterate 4
    · rename_i hf; obtain ⟨⟨hz1, hz2, hz3, hz4⟩, ⟨⟩⟩ := passed_of_ite_ok h
      exact full_eq.2 (fields9.2 ⟨(fields2.2 ⟨ofNat_of_toNat hf, hz1.symm⟩ :), rfl, hz2.symm, rfl, hz3.symm, rfl, hz4.symm, rfl, ho⟩)
  · rename_i hf; obtain ⟨⟨hz1, hz2, hz3⟩, ⟨⟩⟩ := passed_of_ite_ok h
    exact full_eq.2 (fields7.2 ⟨(fields2.2 ⟨ofNat_of_toNat hf, hz1.symm⟩ :), rfl, hz2.symm, rfl, hz3.symm, rfl, ho⟩)
  iterate 3
    · rename_i hf; obtain ⟨⟨hz1, hz2, hz3, hz4⟩, ⟨⟩⟩ := passed_of_ite_ok h
      exact full_eq.2 (fields9.2 ⟨(fields2.2 ⟨ofNat_of_toNat hf, hz1.symm⟩ :), rfl, hz2.symm, rfl, hz3.symm, rfl, hz4.symm, rfl, ho⟩)
  iterate 3
    · rename_i hf; obtain ⟨⟨hz1, hz2, hz3⟩, ⟨⟩⟩ := passed_of_ite_ok h
      exact full_eq.2 (fields8.2 ⟨(fields2.2 ⟨ofNat_of_toNat hf, hz1.symm⟩ :), rfl, hz2.symm, rfl, hz3.symm, rfl, rfl, ho⟩)
  · rename_i hf; obtain ⟨⟨hz1, hz2, hz3⟩, ⟨⟩⟩ := passed_of_ite_ok h
    exact full_eq.2 (fields7.2 ⟨(fields2.2 ⟨ofNat_of_toNat hf, hz1.symm⟩ :), rfl, hz2.symm, rfl, hz3.symm, rfl, ho⟩)
  · rename_i hf; obtain ⟨⟨hz1, hz2⟩, ⟨⟩⟩ := passed_of_ite_ok h
    exact full_eq.2 (fields6.2 ⟨(fields2.2 ⟨ofNat_of_toNat hf, hz1.symm⟩ :), rfl, hz2.symm, rfl, rfl, ho⟩)
  · rename_i hf; obtain ⟨⟨hz1, hz2, hz3⟩, ⟨⟩⟩ := passed_of_ite_ok h
    exact full_eq.2 (fields7.2 ⟨(fields2.2 ⟨ofNat_of_toNat hf, hz1.symm⟩ :), rfl, hz2.symm, rfl, hz3.symm, rfl, ho⟩)
  · rename_i hf; obtain ⟨⟨hz1, hz2⟩, ⟨⟩⟩ := passed_of_ite_ok h
    exact full_eq.2 (fields6.2 ⟨(fields2.2 ⟨ofNat_of_toNat hf, hz1.symm⟩ :), rfl, hz2.symm, rfl, rfl, ho⟩)
  · rename_i hf; obtain ⟨⟨hz1, hz2, hz3⟩, ⟨⟩⟩ := passed_of_ite_ok h
    exact full_eq.2 (fields7.2 ⟨(fields2.2 ⟨ofNat_of_toNat hf, hz1.symm⟩ :), rfl, hz2.symm, rfl, hz3.symm, rfl, ho⟩)
  · rename_i hf; obtain ⟨⟨hz1, hz2⟩, ⟨⟩⟩ := passed_of_ite_ok h
    exact full_eq.2 (fields6.2 ⟨(fields2.2 ⟨ofNat_of_toNat hf, hz1.symm⟩ :), rfl, hz2.symm, rfl, rfl, ho⟩)
  · cases h

theorem encode_of_decodeMajor19 (ho : HasMajor w 19) (h : decodeMajor19 w = .ok i) : encode i = some (.full w) := by
  unfold decodeMajor19 at h
  split at h
  iterate 3 · rename_i hf; cases h; exact full_eq.2 (fields7.2 ⟨ofNat_of_toNat hf, rfl, rfl, rfl, rfl, rfl, ho⟩)
  · cases h; exact full_eq.2 (fields7.2 ⟨eq_three_of_ne ‹_› ‹_› ‹_›, rfl, rfl, rfl, rfl, rfl, ho⟩)

theorem encode_of_decodeMajor20 (ho : HasMajor w 20) (h : decodeMajor20 w = .ok i) : encode i = some (.full w) := by
  unfold decodeMajor20 at h
  split at h
  iterate 3 · rename_i hf; cases h; exact full_eq.2 (fields7.2 ⟨ofNat_of_toNat hf, rfl, rfl, rfl, rfl, rfl, ho⟩)
  · obtain ⟨⟨hz1, hz2⟩, ⟨⟩⟩ := passed_of_ite_ok h
    exact full_eq.2 (fields6.2 ⟨(fields2.2 ⟨eq_three_of_ne ‹_› ‹_› ‹_›, hz1.symm⟩ :), rfl, hz2.symm, rfl, rfl, ho⟩)

theorem encode_of_decodeMajor21 (ho : HasMajor w 21) (h : decodeMajor21 w = .ok i) : encode i = some (.full w) := by
  unfold decodeMajor21 at h
  split at h
  · rename_i hf; obtain ⟨⟨hr, hz⟩, ⟨⟩⟩ := passed_of_ite_ok h
    exact full_eq.2 (fields5.2 ⟨(fields2.2 ⟨ofNat_of_toNat hf, hr.symm⟩ :), rfl, rfl, rfl, (fields2.2 ⟨hz.symm, ho⟩ :)⟩)
  · rename_i hf; obtain ⟨⟨hd, ha, hb⟩, h⟩ := passed_of_ite_ok h
    have low := fields4.2 ⟨hb.symm, ha.symm, hd.symm, ho⟩
    split at h
    iterate 3 · rename_i hr; cases h; exact full_eq.2 (fields3.2 ⟨(fields2.2 ⟨ofNat_of_toNat hf, ofNat_of_toNat hr⟩ :), rfl, low⟩)
    · cases h; exact full_eq.2 (fields3.2 ⟨(fields2.2 ⟨ofNat_of_toNat hf, eq_three_of_ne ‹_› ‹_› ‹_›⟩ :), rfl, low⟩)
  · rename_i hf; obtain ⟨⟨hz, hz2⟩, ⟨⟩⟩ := passed_of_ite_ok h
    exact full_eq.2 (fields3.2 ⟨(fields2.2 ⟨ofNat_of_toNat hf, hz.symm⟩ :), rfl, (fields2.2 ⟨hz2.symm, ho⟩ :)⟩)
  · obtain ⟨⟨hz, hz2⟩, ⟨⟩⟩ := passed_of_ite_ok h
    exact full_eq.2 (fields5.2 ⟨(fields2.2 ⟨eq_three_of_ne ‹_› ‹_› ‹_›, hz.symm⟩ :), rfl, hz2.symm, rfl, ho⟩)

theorem encode_of_decodeMajor22 (ho : HasMajor w 22) (h : decodeMajor22 w = .ok i) : encode i = some (.full w) := by
  unfold decodeMajor22 at h
  split at h
  · rename_i hf; obtain ⟨hz, ⟨⟩⟩ := passed_of_ite_ok h; exact full_eq.2 (fields5.2 ⟨ofNat_of_toNat hf, rfl, hz.symm, rfl, ho⟩)
  · obtain ⟨hz, ⟨⟩⟩ := passed_of_ite_ok h
    exact full_eq.2 (fields4.2 ⟨eq_one_of_ne ‹_›, rfl, rfl, (fields2.2 ⟨hz.symm, ho⟩ :)⟩)

theorem encode_of_decodeMajor23 (ho : HasMajor w 23) (h : decodeMajor23 w = .ok i) : encode i = some (.full w) := by
  unfold decodeMajor23 at h
  split at h
  · rename_i hf; cases h; exact full_eq.2 (fields5.2 ⟨ofNat_of_toNat hf, rfl, rfl, rfl, ho⟩)
  · cases h; exact full_eq.2 (fields5.2 ⟨eq_one_of_ne ‹_›, rfl, rfl, rfl, ho⟩)

theorem encode_of_decodeMajor24 (ho : HasMajor w 24) (h : decodeMajor24 w = .ok i) : encode i = some (.full w) := by
  unfold decodeMajor24 at h
  split at h
  iterate 2
    · rename_i hf; obtain ⟨hz, ⟨⟩⟩ := passed_of_ite_ok h
      exact full_eq.2 (fields3.2 ⟨ofNat_of_toNat hf, hz.symm, ho⟩ :)
  · rename_i hf; obtain ⟨⟨hz1, hz2⟩, ⟨⟩⟩ := passed_of_ite_ok h
    exact full_eq.2 (fields3.2 ⟨(fields2.2 ⟨ofNat_of_toNat hf, hz1.symm⟩ :), rfl, (fields2.2 ⟨hz2.symm, ho⟩ :)⟩)
  · rename_i hf; obtain ⟨hz, ⟨⟩⟩ := passed_of_ite_ok h; exact full_eq.2 (fields3.2 ⟨ofNat_of_toNat hf, hz.symm, ho⟩ :)
  · cases h

theorem encode_of_decodeMajor25 (ho : HasMajor w 25) (h : decodeMajor25 w = .ok i) : encode i = some (.full w) := by
  unfold decodeMajor25 at h
  split at h
  iterate 7 · rename_i hf; cases h; exact full_eq.2 (fields6.2 ⟨ofNat_of_toNat hf, rfl, rfl, rfl, rfl, ho⟩)
  · cases h; exact full_eq.2 (fields6.2 ⟨eq_seven_of_ne ‹_› ‹_› ‹_› ‹_› ‹_› ‹_› ‹_›, rfl, rfl, rfl, rfl, ho⟩)

theorem encode_of_decodeMajor26 (ho : HasMajor w 26) (h : decodeMajor26 w = .ok i) : encode i = some (.full w) := by
  unfold decodeMajor26 at h
  split at h
  iterate 7 · rename_i hf; cases h; exact full_eq.2 (fields6.2 ⟨ofNat_of_toNat hf, rfl, rfl, rfl, rfl, ho⟩)
  · cases h; exact full_eq.2 (fields6.2 ⟨eq_seven_of_ne ‹_› ‹_› ‹_› ‹_› ‹_› ‹_› ‹_›, rfl, rfl, rfl, rfl, ho⟩)

theorem encode_of_decodeMajor27 (ho : HasMajor w 27) (h : decodeMajor27 w = .ok i) : encode i = some (.full w) := by
  unfold decodeMajor27 at h
  split at h
  iterate 2 · rename_i hf; cases h; exact full_eq.2 (fields6.2 ⟨ofNat_of_toNat hf, rfl, rfl, rfl, rfl, ho⟩)
  iterate 2
    · rename_i hf; obtain ⟨hz, ⟨⟩⟩ := passed_of_ite_ok h
      exact full_eq.2 (fields6.2 ⟨ofNat_of_toNat hf, rfl, hz.symm, rfl, rfl, ho⟩)
  iterate 2 · rename_i hf; cases h; exact full_eq.2 (fields6.2 ⟨ofNat_of_toNat hf, rfl, rfl, rfl, rfl, ho⟩)
  · rename_i hf; obtain ⟨hz, ⟨⟩⟩ := passed_of_ite_ok h
    exact full_eq.2 (fields6.2 ⟨ofNat_of_toNat hf, rfl, hz.symm, rfl, rfl, ho⟩)
  · cases h

theorem encode_of_decodeMajor28 (ho : HasMajor w 28) (h : decodeMajor28 w = .ok i) : encode i = some (.full w) := by
  unfold decodeMajor28 at h
  split at h
  · rename_i hf; cases h; exact full_eq.2 (fields6.2 ⟨ofNat_of_toNat hf, rfl, rfl, rfl, rfl, ho⟩)
  · cases h; exact full_eq.2 (fields6.2 ⟨eq_one_of_ne ‹_›, rfl, rfl, rfl, rfl, ho⟩)

theorem encode_of_decodeMajor29 (ho : HasMajor w 29) (h : decodeMajor29 w = .ok i) : encode i = some (.full w) := by
  unfold decodeMajor29 at h
  split at h
  · rename_i hf; cases h; exact full_eq.2 (fields6.2 ⟨ofNat_of_toNat hf, rfl, rfl, rfl, rfl, ho⟩)
  · cases h; exact full_eq.2 (fields6.2 ⟨eq_one_of_ne ‹_›, rfl, rfl, rfl, rfl, ho⟩)

theorem encode_of_decodeMajor30 (ho : HasMajor w 30) (h : decodeMajor30 w = .ok i) : encode i = some (.full w) := by
  unfold decodeMajor30 at h
  split at h
  iterate 3 · rename_i hf; cases h; exact full_eq.2 (fields6.2 ⟨ofNat_of_toNat hf, rfl, rfl, rfl, rfl, ho⟩)
  · cases h; exact full_eq.2 (fields6.2 ⟨eq_three_of_ne ‹_› ‹_› ‹_›, rfl, rfl, rfl, rfl, ho⟩)

theorem encode_of_decodeMajor31 (ho : HasMajor w 31) (h : decodeMajor31 w = .ok i) : encode i = some (.full w) := by
  unfold decodeMajor31 at h
  split at h
  iterate 3 · rename_i hf; cases h; exact full_eq.2 (fields6.2 ⟨ofNat_of_toNat hf, rfl, rfl, rfl, rfl, ho⟩)
  · cases h; exact full_eq.2 (fields6.2 ⟨eq_three_of_ne ‹_› ‹_› ‹_›, rfl, rfl, rfl, rfl, ho⟩)

theorem encode_of_decodeMajor32 (ho : HasMajor w 32) (h : decodeMajor32 w = .ok i) : encode i = some (.full w) := by
  unfold decodeMajor32 at h
  split at h
  iterate 2 · rename_i hf; cases h; exact full_eq.2 (fields6.2 ⟨ofNat_of_toNat hf, rfl, rfl, rfl, rfl, ho⟩)
  · rename_i hf; obtain ⟨hz, ⟨⟩⟩ := passed_of_ite_ok h
    exact full_eq.2 (fields6.2 ⟨ofNat_of_toNat hf, rfl, rfl, hz.symm, rfl, ho⟩)
  · cases h; exact full_eq.2 (fields6.2 ⟨eq_three_of_ne ‹_› ‹_› ‹_›, rfl, rfl, rfl, rfl, ho⟩)

theorem encode_of_decodeMajor33 (ho : HasMajor w 33) (h : decodeMajor33 w = .ok i) : encode i = some (.full w) := by
  unfold decodeMajor33 at h
  split at h
  iterate 7 · rename_i hf; cases h; exact full_eq.2 (fields5.2 ⟨ofNat_of_toNat hf, rfl, rfl, rfl, ho⟩)
  · cases h; exact full_eq.2 (fields5.2 ⟨eq_seven_of_ne ‹_› ‹_› ‹_› ‹_› ‹_› ‹_› ‹_›, rfl, rfl, rfl, ho⟩)

theorem encode_of_decodeMajor34 (ho : HasMajor w 34) (h : decodeMajor34 w = .ok i) : encode i = some (.full w) := by
  unfold decodeMajor34 at h
  cases h
  exact full_eq.2 (fields4.2 ⟨rfl, rfl, rfl, ho⟩)

theorem encode_of_decodeMajor35 (ho : HasMajor w 35) (h : decodeMajor35 w = .ok i) : encode i = some (.full w) := by
  unfold decodeMajor35 at h
  split at h
  iterate 7 · rename_i hf; cases h; exact full_eq.2 (fields6.2 ⟨ofNat_of_toNat hf, rfl, rfl, rfl, rfl, ho⟩)
  · cases h; exact full_eq.2 (fields6.2 ⟨eq_seven_of_ne ‹_› ‹_› ‹_› ‹_› ‹_› ‹_› ‹_›, rfl, rfl, rfl, rfl, ho⟩)

theorem encode_of_decodeMajor36 (ho : HasMajor w 36) (h : decodeMajor36 w = .ok i) : encode i = some (.full w) := by
  unfold decodeMajor36 at h
  split at h
  iterate 3 · rename_i hf; cases h; exact full_eq.2 (fields6.2 ⟨ofNat_of_toNat hf, rfl, rfl, rfl, rfl, ho⟩)
  · cases h; exact full_eq.2 (fields6.2 ⟨eq_three_of_ne ‹_› ‹_› ‹_›, rfl, rfl, rfl, rfl, ho⟩)

theorem encode_of_decodeMajor37 (ho : HasMajor w 37) (h : decodeMajor37 w = .ok i) : encode i = some (.full w) := by
  unfold decodeMajor37 at h
  split at h
  · rename_i hf; cases h; exact full_eq.2 (fields6.2 ⟨ofNat_of_toNat hf, rfl, rfl, rfl, rfl, ho⟩)
  iterate 3
    · rename_i hf; obtain ⟨hz, ⟨⟩⟩ := passed_of_ite_ok h
      exact full_eq.2 (fields6.2 ⟨ofNat_of_toNat hf, rfl, hz.symm, rfl, rfl, ho⟩)
  · rename_i hf; cases h; exact full_eq.2 (fields6.2 ⟨ofNat_of_toNat hf, rfl, rfl, rfl, rfl, ho⟩)
  iterate 2
    · rename_i hf; obtain ⟨hz, ⟨⟩⟩ := passed_of_ite_ok h
      exact full_eq.2 (fields6.2 ⟨ofNat_of_toNat hf, rfl, hz.symm, rfl, rfl, ho⟩)
  · cases h

theorem encode_of_decodeMajor38 (ho : HasMajor w 38) (h : decodeMajor38 w = .ok i) : encode i = some (.full w) := by
  unfold decodeMajor38 at h
  cases h
  exact full_eq.2 (fields6.2 ⟨rfl, rfl, rfl, rfl, rfl, ho⟩)

theorem encode_of_decodeMajor39 (ho : HasMajor w 39) (h : decodeMajor39 w = .ok i) : encode i = some (.full w) := by
  unfold decodeMajor39 at h
  split at h
  iterate 8 · rename_i hf; cases h; exact full_eq.2 (fields5.2 ⟨ofNat_of_toNat hf, rfl, rfl, rfl, ho⟩)
  iterate 5
    · rename_i hf; obtain ⟨hz, ⟨⟩⟩ := passed_of_ite_ok h
      exact full_eq.2 (fields4.2 ⟨(fields2.2 ⟨ofNat_of_toNat hf, hz.symm⟩ :), rfl, rfl, ho⟩)
  iterate 2
    · rename_i hf; obtain ⟨hz, ⟨⟩⟩ := passed_of_ite_ok h
      exact full_eq.2 (fields3.2 ⟨(fields2.2 ⟨ofNat_of_toNat hf, hz.symm⟩ :), rfl, ho⟩)
  · cases h

theorem encode_of_decodeMajor40 (ho : HasMajor w 40) (h : decodeMajor40 w = .ok i) : encode i = some (.full w) := by
  unfold decodeMajor40 at h
  split at h
  · rename_i hf; obtain ⟨hz, ⟨⟩⟩ := passed_of_ite_ok h
    exact full_eq.2 (fields4.2 ⟨(fields2.2 ⟨ofNat_of_toNat hf, hz.symm⟩ :), rfl, rfl, ho⟩)
  iterate 4
    · rename_i hf; obtain ⟨hz, ⟨⟩⟩ := passed_of_ite_ok h
      exact full_eq.2 (fields3.2 ⟨ofNat_of_toNat hf, rfl, (fields2.2 ⟨hz.symm, ho⟩ :)⟩)
  · cases h

theorem encode_of_decodeMajor41 (ho : HasMajor w 41) (h : decodeMajor41 w = .ok i) : encode i = some (.full w) := by
  unfold decodeMajor41 at h
  split at h
  · rename_i hf; cases h; exact full_eq.2 (fields5.2 ⟨ofNat_of_toNat hf, rfl, rfl, rfl, ho⟩)
  · cases h

theorem encode_of_decodeMajor42 (ho : HasMajor w 42) (h : decodeMajor42 w = .ok i) : encode i = some (.full w) := by
  unfold decodeMajor42 at h
  split at h
  · rename_i hf; cases h; exact full_eq.2 (fields6.2 ⟨ofNat_of_toNat hf, rfl, rfl, rfl, rfl, ho⟩)
  · cases h; exact full_eq.2 (fields6.2 ⟨eq_one_of_ne ‹_›, rfl, rfl, rfl, rfl, ho⟩)

theorem encode_of_decodeMajor43 (ho : HasMajor w 43) (h : decodeMajor43 w = .ok i) : encode i = some (.full w) := by
  unfold decodeMajor43 at h
  split at h
  · rename_i hf; cases h; exact full_eq.2 (fields6.2 ⟨ofNat_of_toNat hf, rfl, rfl, rfl, rfl, ho⟩)
  · cases h; exact full_eq.2 (fields6.2 ⟨eq_one_of_ne ‹_›, rfl, rfl, rfl, rfl, ho⟩)

theorem encode_of_decodeMajor44 (ho : HasMajor w 44) (h : decodeMajor44 w = .ok i) : encode i = some (.full w) := by
  unfold decodeMajor44 at h
  split at h
  iterate 2 · rename_i hf; cases h; exact full_eq.2 (fields6.2 ⟨ofNat_of_toNat hf, rfl, rfl, rfl, rfl, ho⟩)
  · cases h

theorem encode_of_decodeMajor45 (ho : HasMajor w 45) (h : decodeMajor45 w = .ok i) : encode i = some (.full w) := by
  unfold decodeMajor45 at h
  split at h
  · rename_i hf; cases h; exact full_eq.2 (fields6.2 ⟨ofNat_of_toNat hf, rfl, rfl, rfl, rfl, ho⟩)
  · cases h; exact full_eq.2 (fields6.2 ⟨eq_one_of_ne ‹_›, rfl, rfl, rfl, rfl, ho⟩)

theorem encode_of_decodeMajor46 (ho : HasMajor w 46) (h : decodeMajor46 w = .ok i) : encode i = some (.full w) := by
  unfold decodeMajor46 at h
  split at h
  iterate 3 · rename_i hf; cases h; exact full_eq.2 (fields5.2 ⟨ofNat_of_toNat hf, rfl, rfl, rfl, ho⟩)
  · cases h

theorem encode_of_decodeMajor47 (ho : HasMajor w 47) (h : decodeMajor47 w = .ok i) : encode i = some (.full w) := by
  unfold decodeMajor47 at h
  split at h
  iterate 2
    · rename_i hf; obtain ⟨⟨hz1, hz2, hz3⟩, ⟨⟩⟩ := passed_of_ite_ok h
      exact full_eq.2 (fields5.2 ⟨(fields2.2 ⟨ofNat_of_toNat hf, hz1.symm⟩ :), rfl, hz2.symm, rfl, (fields2.2 ⟨hz3.symm, ho⟩ :)⟩)
  · rename_i hf; obtain ⟨⟨hz1, hz2⟩, ⟨⟩⟩ := passed_of_ite_ok h
    exact full_eq.2 (fields3.2 ⟨(fields2.2 ⟨ofNat_of_toNat hf, hz1.symm⟩ :), rfl, (fields2.2 ⟨hz2.symm, ho⟩ :)⟩)
  · obtain ⟨⟨hz1, hz2⟩, ⟨⟩⟩ := passed_of_ite_ok h
    exact full_eq.2 (fields3.2 ⟨(fields2.2 ⟨eq_three_of_ne ‹_› ‹_› ‹_›, hz1.symm⟩ :), rfl, (fields2.2 ⟨hz2.symm, ho⟩ :)⟩)

theorem encode_of_decodeMajor48 (ho : HasMajor w 48) (h : decodeMajor48 w = .ok i) : encode i = some (.full w) := by
  unfold decodeMajor48 at h
  split at h
  iterate 2
    · rename_i hf; obtain ⟨hz, ⟨⟩⟩ := passed_of_ite_ok h
      exact full_eq.2 (fields6.2 ⟨ofNat_of_toNat hf, rfl, hz.symm, rfl, rfl, ho⟩)
  · cases h

theorem encode_of_decodeMajor49 (ho : HasMajor w 49) (h : decodeMajor49 w = .ok i) : encode i = some (.full w) := by
  unfold decodeMajor49 at h
  split at h
  · rename_i hf; cases h; exact full_eq.2 (fields6.2 ⟨ofNat_of_toNat hf, rfl, rfl, rfl, rfl, ho⟩)
  iterate 2
    · rename_i hf; obtain ⟨hz, ⟨⟩⟩ := passed_of_ite_ok h
      exact full_eq.2 (fields3.2 ⟨ofNat_of_toNat hf, rfl, (fields2.2 ⟨hz.symm, ho⟩ :)⟩)
  · cases h

theorem encode_of_decodeMajor50 (ho : HasMajor w 50) (h : decodeMajor50 w = .ok i) : encode i = some (.full w) := by
  unfold decodeMajor50 at h
  split at h
  · rename_i hf; obtain ⟨hz, ⟨⟩⟩ := passed_of_ite_ok h
    exact full_eq.2 (fields4.2 ⟨(fields2.2 ⟨ofNat_of_toNat hf, hz.symm⟩ :), rfl, rfl, ho⟩)
  iterate 4
    · rename_i hf; obtain ⟨⟨hz1, hz2⟩, ⟨⟩⟩ := passed_of_ite_ok h
      exact full_eq.2 (fields3.2 ⟨(fields2.2 ⟨ofNat_of_toNat hf, hz1.symm⟩ :), rfl, (fields2.2 ⟨hz2.symm, ho⟩ :)⟩)
  · cases h

theorem encode_of_decodeMajor51 (ho : HasMajor w 51) (h : decodeMajor51 w = .ok i) : encode i = some (.full w) := by
  unfold decodeMajor51 at h
  split at h
  iterate 3 · rename_i hf; cases h; exact full_eq.2 (fields6.2 ⟨ofNat_of_toNat hf, rfl, rfl, rfl, rfl, ho⟩)
  · cases h

theorem encode_of_decodeMajor52 (ho : HasMajor w 52) (h : decodeMajor52 w = .ok i) : encode i = some (.full w) := by
  unfold decodeMajor52 at h
  split at h
  iterate 3 · rename_i hf; cases h; exact full_eq.2 (fields6.2 ⟨ofNat_of_toNat hf, rfl, rfl, rfl, rfl, ho⟩)
  · cases h; exact full_eq.2 (fields6.2 ⟨eq_three_of_ne ‹_› ‹_› ‹_›, rfl, rfl, rfl, rfl, ho⟩)

theorem encode_of_decodeMajor53 (ho : HasMajor w 53) (h : decodeMajor53 w = .ok i) : encode i = some (.full w) := by
  unfold decodeMajor53 at h
  split at h
  iterate 3
    · rename_i hf; obtain ⟨hz, ⟨⟩⟩ := passed_of_ite_ok h
      exact full_eq.2 (fields7.2 ⟨ofNat_of_toNat hf, rfl, hz.symm, rfl, rfl, rfl, ho⟩)
  · cases h

theorem encode_of_decodeMajor54 (ho : HasMajor w 54) (h : decodeMajor54 w = .ok i) : encode i = some (.full w) := by
  unfold decodeMajor54 at h
  split at h
  · rename_i hf; obtain ⟨hz, ⟨⟩⟩ := passed_of_ite_ok h
    exact full_eq.2 (fields5.2 ⟨(fields2.2 ⟨ofNat_of_toNat hf, hz.symm⟩ :), rfl, rfl, rfl, ho⟩)
  iterate 2
    · rename_i hf; obtain ⟨⟨hz1, hz2⟩, ⟨⟩⟩ := passed_of_ite_ok h
      exact full_eq.2 (fields3.2 ⟨(fields2.2 ⟨ofNat_of_toNat hf, hz1.symm⟩ :), rfl, (fields2.2 ⟨hz2.symm, ho⟩ :)⟩)
  · cases h

theorem encode_of_decodeMajor55 (ho : HasMajor w 55) (h : decodeMajor55 w = .ok i) : encode i = some (.full w) := by
  unfold decodeMajor55 at h
  split at h
  iterate 2
    · rename_i hf; obtain ⟨⟨hz1, hz2⟩, ⟨⟩⟩ := passed_of_ite_ok h
      exact full_eq.2 (fields3.2 ⟨(fields2.2 ⟨ofNat_of_toNat hf, hz1.symm⟩ :), rfl, (fields2.2 ⟨hz2.symm, ho⟩ :)⟩)
  iterate 4
    · rename_i hf; obtain ⟨hz, ⟨⟩⟩ := passed_of_ite_ok h
      exact full_eq.2 (fields3.2 ⟨ofNat_of_toNat hf, hz.symm, ho⟩ :)
  · rename_i hf; obtain ⟨⟨hz1, hz2⟩, ⟨⟩⟩ := passed_of_ite_ok h
    exact full_eq.2 (fields3.2 ⟨(fields2.2 ⟨ofNat_of_toNat hf, hz1.symm⟩ :), rfl, (fields2.2 ⟨hz2.symm, ho⟩ :)⟩)
  · rename_i hf; obtain ⟨hz, ⟨⟩⟩ := passed_of_ite_ok h
    exact full_eq.2 (fields3.2 ⟨(fields2.2 ⟨ofNat_of_toNat hf, hz.symm⟩ :), rfl, ho⟩)
  · rename_i hf; obtain ⟨⟨hz1, hz2⟩, ⟨⟩⟩ := passed_of_ite_ok h
    exact full_eq.2 (fields5.2 ⟨(fields2.2 ⟨ofNat_of_toNat hf, hz1.symm⟩ :), rfl, hz2.symm, rfl, ho⟩)
  · rename_i hf; obtain ⟨hz, ⟨⟩⟩ := passed_of_ite_ok h
    exact full_eq.2 (fields3.2 ⟨(fields2.2 ⟨ofNat_of_toNat hf, hz.symm⟩ :), rfl, ho⟩)
  · cases h

theorem encode_of_decodeMajor56 (ho : HasMajor w 56) (h : decodeMajor56 w = .ok i) : encode i = some (.full w) := by
  unfold decodeMajor56 at h
  split at h
  iterate 3 · rename_i hf; cases h; exact full_eq.2 (fields6.2 ⟨ofNat_of_toNat hf, rfl, rfl, rfl, rfl, ho⟩)
  · rename_i hf; obtain ⟨hz, ⟨⟩⟩ := passed_of_ite_ok h
    exact full_eq.2 (fields4.2 ⟨(fields2.2 ⟨ofNat_of_toNat hf, hz.symm⟩ :), rfl, rfl, ho⟩)
  · rename_i hf; obtain ⟨hz, ⟨⟩⟩ := passed_of_ite_ok h
    exact full_eq.2 (fields6.2 ⟨ofNat_of_toNat hf, rfl, hz.symm, rfl, rfl, ho⟩)
  · rename_i hf; obtain ⟨hz, ⟨⟩⟩ := passed_of_ite_ok h
    exact full_eq.2 (fields3.2 ⟨(fields2.2 ⟨ofNat_of_toNat hf, hz.symm⟩ :), rfl, ho⟩)
  · rename_i hf; obtain ⟨hz, ⟨⟩⟩ := passed_of_ite_ok h
    exact full_eq.2 (fields5.2 ⟨ofNat_of_toNat hf, rfl, rfl, rfl, (fields2.2 ⟨hz.symm, ho⟩ :)⟩)
  · obtain ⟨⟨hz1, hz2⟩, ⟨⟩⟩ := passed_of_ite_ok h
    have high := fields2.2 ⟨eq_seven_of_ne ‹_› ‹_› ‹_› ‹_› ‹_› ‹_› ‹_›, hz1.symm⟩
    exact full_eq.2 (fields3.2 ⟨high, rfl, (fields2.2 ⟨hz2.symm, ho⟩ :)⟩)

theorem encode_of_decodeMajor57 (ho : HasMajor w 57) (h : decodeMajor57 w = .ok i) : encode i = some (.full w) := by
  unfold decodeMajor57 at h
  split at h
  · rename_i hf; obtain ⟨hz, ⟨⟩⟩ := passed_of_ite_ok h
    exact full_eq.2 (fields5.2 ⟨ofNat_of_toNat hf, rfl, rfl, rfl, (fields2.2 ⟨hz.symm, ho⟩ :)⟩)
  · rename_i hf; obtain ⟨hz, ⟨⟩⟩ := passed_of_ite_ok h
    exact full_eq.2 (fields4.2 ⟨(fields2.2 ⟨ofNat_of_toNat hf, hz.symm⟩ :), rfl, rfl, ho⟩)
  iterate 2
    · rename_i hf; obtain ⟨hz, ⟨⟩⟩ := passed_of_ite_ok h
      exact full_eq.2 (fields3.2 ⟨(fields2.2 ⟨ofNat_of_toNat hf, hz.symm⟩ :), rfl, ho⟩)
  · rename_i hf; obtain ⟨hz, ⟨⟩⟩ := passed_of_ite_ok h
    exact full_eq.2 (fields4.2 ⟨(fields2.2 ⟨ofNat_of_toNat hf, hz.symm⟩ :), rfl, rfl, ho⟩)
  · rename_i hf; obtain ⟨hz, ⟨⟩⟩ := passed_of_ite_ok h
    exact full_eq.2 (fields3.2 ⟨(fields2.2 ⟨ofNat_of_toNat hf, hz.symm⟩ :), rfl, ho⟩)
  · cases h

theorem encode_of_decodeMajor58 (ho : HasMajor w 58) (h : decodeMajor58 w = .ok i) : encode i = some (.full w) := by
  unfold decodeMajor58 at h
  split at h
  · rename_i hf
    split at h
    · rename_i hp; obtain ⟨hz, ⟨⟩⟩ := passed_of_ite_ok h
      exact full_eq.2 (fields5.2 ⟨(fields3.2 ⟨ofNat_of_toNat hf, hz.symm, hp.symm⟩ :), rfl, rfl, rfl, ho⟩)
    · obtain ⟨⟨hz, hz2⟩, ⟨⟩⟩ := passed_of_ite_ok h
      exact full_eq.2 (fields4.2 ⟨(fields2.2 ⟨ofNat_of_toNat hf, hz.symm⟩ :), rfl, rfl, (fields2.2 ⟨hz2.symm, ho⟩ :)⟩)
  iterate 2
    · rename_i hf; obtain ⟨hz, ⟨⟩⟩ := passed_of_ite_ok h
      exact full_eq.2 (fields5.2 ⟨(fields2.2 ⟨ofNat_of_toNat hf, hz.symm⟩ :), rfl, rfl, rfl, ho⟩)
  · rename_i hf; obtain ⟨hz, ⟨⟩⟩ := passed_of_ite_ok h
    exact full_eq.2 (fields4.2 ⟨(fields2.2 ⟨ofNat_of_toNat hf, hz.symm⟩ :), rfl, rfl, ho⟩)
  · rename_i hf; obtain ⟨hz, ⟨⟩⟩ := passed_of_ite_ok h
    exact full_eq.2 (fields5.2 ⟨(fields2.2 ⟨ofNat_of_toNat hf, hz.symm⟩ :), rfl, rfl, rfl, ho⟩)
  · rename_i hf; obtain ⟨⟨hz, hz2⟩, ⟨⟩⟩ := passed_of_ite_ok h
    exact full_eq.2 (fields3.2 ⟨(fields2.2 ⟨ofNat_of_toNat hf, hz.symm⟩ :), rfl, (fields2.2 ⟨hz2.symm, ho⟩ :)⟩)
  · cases h

theorem encode_of_decodeMajor59 (ho : HasMajor w 59) (h : decodeMajor59 w = .ok i) : encode i = some (.full w) := by
  unfold decodeMajor59 at h
  split at h
  · rename_i hf; cases h; exact full_eq.2 (fields5.2 ⟨ofNat_of_toNat hf, rfl, rfl, rfl, ho⟩)
  · rename_i hf; obtain ⟨hz, ⟨⟩⟩ := passed_of_ite_ok h; exact full_eq.2 (fields3.2 ⟨ofNat_of_toNat hf, hz.symm, ho⟩ :)
  iterate 3
    · rename_i hf; obtain ⟨hz, ⟨⟩⟩ := passed_of_ite_ok h
      exact full_eq.2 (fields4.2 ⟨ofNat_of_toNat hf, rfl, rfl, (fields2.2 ⟨hz.symm, ho⟩ :)⟩)
  · cases h

theorem encode_of_decodeMajor60 (ho : HasMajor w 60) (h : decodeMajor60 w = .ok i) : encode i = some (.full w) := by
  unfold decodeMajor60 at h
  split at h
  iterate 5 · rename_i hf; cases h; exact full_eq.2 (fields6.2 ⟨ofNat_of_toNat hf, rfl, rfl, rfl, rfl, ho⟩)
  · rename_i hf; obtain ⟨hz, ⟨⟩⟩ := passed_of_ite_ok h
    exact full_eq.2 (fields3.2 ⟨ofNat_of_toNat hf, rfl, (fields2.2 ⟨hz.symm, ho⟩ :)⟩)
  · rename_i hf; obtain ⟨hz, ⟨⟩⟩ := passed_of_ite_ok h; exact full_eq.2 (fields3.2 ⟨ofNat_of_toNat hf, hz.symm, ho⟩ :)
  · rename_i hf; obtain ⟨hz, ⟨⟩⟩ := passed_of_ite_ok h
    exact full_eq.2 (fields3.2 ⟨ofNat_of_toNat hf, rfl, (fields2.2 ⟨hz.symm, ho⟩ :)⟩)
  · cases h

theorem encode_of_decodeMajor61 (ho : HasMajor w 61) (h : decodeMajor61 w = .ok i) : encode i = some (.full w) := by
  unfold decodeMajor61 at h
  split at h
  iterate 2
    · rename_i hf; obtain ⟨hz, ⟨⟩⟩ := passed_of_ite_ok h
      exact full_eq.2 (fields4.2 ⟨ofNat_of_toNat hf, rfl, rfl, (fields2.2 ⟨hz.symm, ho⟩ :)⟩)
  · rename_i hf; cases h; exact full_eq.2 (fields5.2 ⟨ofNat_of_toNat hf, rfl, rfl, rfl, ho⟩)
  · cases h

/-- What a decoder makes of a word of its major opcode has that word. -/
theorem encode_of_majorDecoder {k : Nat} (ho : HasMajor w k) (h : majorDecoder k w = .ok i) : encode i = some (.full w) := by
  unfold majorDecoder at h
  split at h
  · exact encode_of_decodeMajor1 ho h
  · exact encode_of_decodeMajor2 ho h
  · exact encode_of_decodeMajor3 ho h
  · exact encode_of_decodeMajor4 ho h
  · exact encode_of_decodeMajor5 ho h
  · exact encode_of_decodeMajor6 ho h
  · exact encode_of_decodeMajor7 ho h
  · exact encode_of_decodeMajor8 ho h
  · exact encode_of_decodeMajor9 ho h
  · exact encode_of_decodeMajor10 ho h
  · exact encode_of_decodeMajor11 ho h
  · exact encode_of_decodeMajor12 ho h
  · exact encode_of_decodeMajor13 ho h
  · exact encode_of_decodeMajor14 ho h
  · exact encode_of_decodeMajor15 ho h
  · exact encode_of_decodeMajor16 ho h
  · exact encode_of_decodeMajor17 ho h
  · exact encode_of_decodeMajor18 ho h
  · exact encode_of_decodeMajor19 ho h
  · exact encode_of_decodeMajor20 ho h
  · exact encode_of_decodeMajor21 ho h
  · exact encode_of_decodeMajor22 ho h
  · exact encode_of_decodeMajor23 ho h
  · exact encode_of_decodeMajor24 ho h
  · exact encode_of_decodeMajor25 ho h
  · exact encode_of_decodeMajor26 ho h
  · exact encode_of_decodeMajor27 ho h
  · exact encode_of_decodeMajor28 ho h
  · exact encode_of_decodeMajor29 ho h
  · exact encode_of_decodeMajor30 ho h
  · exact encode_of_decodeMajor31 ho h
  · exact encode_of_decodeMajor32 ho h
  · exact encode_of_decodeMajor33 ho h
  · exact encode_of_decodeMajor34 ho h
  · exact encode_of_decodeMajor35 ho h
  · exact encode_of_decodeMajor36 ho h
  · exact encode_of_decodeMajor37 ho h
  · exact encode_of_decodeMajor38 ho h
  · exact encode_of_decodeMajor39 ho h
  · exact encode_of_decodeMajor40 ho h
  · exact encode_of_decodeMajor41 ho h
  · exact encode_of_decodeMajor42 ho h
  · exact encode_of_decodeMajor43 ho h
  · exact encode_of_decodeMajor44 ho h
  · exact encode_of_decodeMajor45 ho h
  · exact encode_of_decodeMajor46 ho h
  · exact encode_of_decodeMajor47 ho h
  · exact encode_of_decodeMajor48 ho h
  · exact encode_of_decodeMajor49 ho h
  · exact encode_of_decodeMajor50 ho h
  · exact encode_of_decodeMajor51 ho h
  · exact encode_of_decodeMajor52 ho h
  · exact encode_of_decodeMajor53 ho h
  · exact encode_of_decodeMajor54 ho h
  · exact encode_of_decodeMajor55 ho h
  · exact encode_of_decodeMajor56 ho h
  · exact encode_of_decodeMajor57 ho h
  · exact encode_of_decodeMajor58 ho h
  · exact encode_of_decodeMajor59 ho h
  · exact encode_of_decodeMajor60 ho h
  · exact encode_of_decodeMajor61 ho h
  · cases h

/-- What a compact word decodes to has that word. -/
theorem encode_of_decodeCompactFields {v : BitVec 16} (h0 : v.getLsbD 0 = false) (h : decodeCompactFields v = .ok i) :
    encode i = some (.half v) := by
  unfold decodeCompactFields at h
  split at h
  iterate 7
    · rename_i ho; cases h
      exact half_eq.2 (fields3.2 ⟨rfl, rfl, (fields2.2 ⟨ofNat_of_toNat ho, zero_of_getLsbD h0⟩ :)⟩)
  · cases h

/-- What decodes to an instruction is the word of that instruction, and the instruction is well formed. -/
theorem encode_of_decode {e : Encoded} (h : decode e = .ok i) : i.wellFormed = true ∧ encode i = some e := by
  cases e with
  | half v =>
    obtain ⟨even, fields, hi⟩ := decode_half_eq_ok.1 h
    exact ⟨hi, encode_of_decodeCompactFields even fields⟩
  | full w =>
    obtain ⟨odd, fields, hi⟩ := decode_full_eq_ok.1 h
    rw [decodeFields_eq] at fields
    exact ⟨hi, encode_of_majorDecoder (hasMajor_of_bits odd rfl) fields⟩

/-! ### From the instruction to the word and back -/

/-- A well-formed instruction of 16 bits is what its word decodes to. -/
theorem decode_of_encode_half {v : BitVec 16} (h : encode i = some (.half v)) (hi : i.wellFormed = true) :
    decode (.half v) = .ok i := by
  cases i with
  | cAdd d b | cSub d b | cAnd d b | cOr d b | cXor d b | cShl d b | cAddi d b =>
    obtain ⟨rfl, rfl, ho⟩ := fields3.1 (half_eq.1 h)
    exact decode_half hi ho (by rw [decodeCompactFields, slice_slice ho 1 3]; rfl)
  | _ => cases h

/-- A well-formed instruction of 32 bits is what its word decodes to: each group has one major opcode and one format. -/
theorem decode_of_encode_full (h : encode i = some (.full w)) (hi : i.wellFormed = true) : decode (.full w) = .ok i := by
  cases i with
  | add d a b | sub d a b | and d a b | or d a b | xor d a b | shl d a b | shr d a b | sra d a b | slt d a b | sltn d a b
  | mul d a b | mulh d a b | mulhn d a b | div d a b | divn d a b | rem d a b | remn d a b =>
    obtain ⟨hf, rfl, rfl, rfl, ho⟩ := fields5.1 (full_eq.1 h)
    exact decode_full 1 hi ho (show decodeMajor1 w = _ by rw [decodeMajor1, ← hf]; rfl)
  | addi d a i | slti d a i =>
    obtain ⟨hf, rfl, rfl, rfl, ho⟩ := fields5.1 (full_eq.1 h)
    exact decode_full 2 hi ho (show decodeMajor2 w = _ by rw [decodeMajor2, ← hf]; rfl)
  | andi d a i | ori d a i =>
    obtain ⟨hf, rfl, rfl, rfl, ho⟩ := fields5.1 (full_eq.1 h)
    exact decode_full 3 hi ho (show decodeMajor3 w = _ by rw [decodeMajor3, ← hf]; rfl)
  | ld64 d a i | ld32 d a i =>
    obtain ⟨hf, rfl, rfl, rfl, ho⟩ := fields5.1 (full_eq.1 h)
    exact decode_full 5 hi ho (show decodeMajor5 w = _ by rw [decodeMajor5, ← hf]; rfl)
  | ld16 d a i | ld8 d a i =>
    obtain ⟨hf, rfl, rfl, rfl, ho⟩ := fields5.1 (full_eq.1 h)
    exact decode_full 6 hi ho (show decodeMajor6 w = _ by rw [decodeMajor6, ← hf]; rfl)
  | ldn32 d a i | ldn16 d a i =>
    obtain ⟨hf, rfl, rfl, rfl, ho⟩ := fields5.1 (full_eq.1 h)
    exact decode_full 7 hi ho (show decodeMajor7 w = _ by rw [decodeMajor7, ← hf]; rfl)
  | ldn8 d a i =>
    obtain ⟨hf, rfl, rfl, rfl, ho⟩ := fields5.1 (full_eq.1 h)
    exact decode_full 8 hi ho (show decodeMajor8 w = _ by rw [decodeMajor8, ← hf]; rfl)
  | fld32 d a i =>
    obtain ⟨hf, rfl, rfl, hz, rfl, ho⟩ := fields6.1 (full_eq.1 h)
    exact decode_full 8 hi ho (show decodeMajor8 w = _ by rw [decodeMajor8, ← hf]; exact if_pos hz.symm)
  | fld64 d a i =>
    obtain ⟨hf, rfl, rfl, hz, rfl, ho⟩ := fields6.1 (full_eq.1 h)
    exact decode_full 9 hi ho (show decodeMajor9 w = _ by rw [decodeMajor9, ← hf]; exact if_pos hz.symm)
  | st64 d a i =>
    obtain ⟨hf, rfl, rfl, rfl, ho⟩ := fields5.1 (full_eq.1 h)
    exact decode_full 9 hi ho (show decodeMajor9 w = _ by rw [decodeMajor9, ← hf]; rfl)
  | st32 d a i | st16 d a i =>
    obtain ⟨hf, rfl, rfl, rfl, ho⟩ := fields5.1 (full_eq.1 h)
    exact decode_full 10 hi ho (show decodeMajor10 w = _ by rw [decodeMajor10, ← hf]; rfl)
  | st8 d a i =>
    obtain ⟨hf, rfl, rfl, rfl, ho⟩ := fields5.1 (full_eq.1 h)
    exact decode_full 11 hi ho (show decodeMajor11 w = _ by rw [decodeMajor11, ← hf]; rfl)
  | fst32 d a i =>
    obtain ⟨hf, rfl, rfl, hz, rfl, ho⟩ := fields6.1 (full_eq.1 h)
    exact decode_full 11 hi ho (show decodeMajor11 w = _ by rw [decodeMajor11, ← hf]; exact if_pos hz.symm)
  | fst64 d a i =>
    obtain ⟨hf, rfl, rfl, hz, rfl, ho⟩ := fields6.1 (full_eq.1 h)
    exact decode_full 12 hi ho (show decodeMajor12 w = _ by rw [decodeMajor12, ← hf]; exact if_pos hz.symm)
  | jlr d a i =>
    obtain ⟨hf, rfl, rfl, rfl, ho⟩ := fields5.1 (full_eq.1 h)
    exact decode_full 12 hi ho (show decodeMajor12 w = _ by rw [decodeMajor12, ← hf]; rfl)
  | beq a b o | bne a b o =>
    obtain ⟨hf, rfl, rfl, rfl, ho⟩ := fields5.1 (full_eq.1 h)
    exact decode_full 13 hi ho (show decodeMajor13 w = _ by rw [decodeMajor13, ← hf]; rfl)
  | blt a b o | bge a b o =>
    obtain ⟨hf, rfl, rfl, rfl, ho⟩ := fields5.1 (full_eq.1 h)
    exact decode_full 14 hi ho (show decodeMajor14 w = _ by rw [decodeMajor14, ← hf]; rfl)
  | bltn a b o | bgen a b o =>
    obtain ⟨hf, rfl, rfl, rfl, ho⟩ := fields5.1 (full_eq.1 h)
    exact decode_full 15 hi ho (show decodeMajor15 w = _ by rw [decodeMajor15, ← hf]; rfl)
  | sbnz a b o =>
    obtain ⟨hf, rfl, rfl, rfl, ho⟩ := fields5.1 (full_eq.1 h)
    exact decode_full 16 hi ho (show decodeMajor16 w = _ by rw [decodeMajor16, ← hf]; rfl)
  | fadd d a b t | fsub d a b t | fmul d a b t | fdiv d a b t | fmin d a b t | fmax d a b t | fmac d a b t =>
    obtain ⟨hf, rfl, hz, rfl, hz2, rfl, hz3, rfl, ho⟩ := fields9.1 (full_eq.1 h)
    exact decode_full 18 hi ho (show decodeMajor18 w = _ by
      rw [decodeMajor18, slice_slice hf 1 5]; exact if_pos ⟨slice_slice hf 0 1, hz.symm, hz2.symm, hz3.symm⟩)
  | fsqrt d a t | fcvtFf d a t =>
    obtain ⟨hf, rfl, hz, rfl, hz2, rfl, ho⟩ := fields7.1 (full_eq.1 h)
    exact decode_full 18 hi ho (show decodeMajor18 w = _ by
      rw [decodeMajor18, slice_slice hf 1 5]; exact if_pos ⟨slice_slice hf 0 1, hz.symm, hz2.symm⟩)
  | feq d a b t | flt d a b t | fle d a b t =>
    obtain ⟨hf, rfl, hz, rfl, hz2, rfl, rfl, ho⟩ := fields8.1 (full_eq.1 h)
    exact decode_full 18 hi ho (show decodeMajor18 w = _ by
      rw [decodeMajor18, slice_slice hf 1 5]; exact if_pos ⟨slice_slice hf 0 1, hz.symm, hz2.symm⟩)
  | fcvtF d a t | fmvFS d a t =>
    obtain ⟨hf, rfl, hz, rfl, hz2, rfl, ho⟩ := fields7.1 (full_eq.1 h)
    exact decode_full 18 hi ho (show decodeMajor18 w = _ by
      rw [decodeMajor18, slice_slice hf 1 5]; exact if_pos ⟨slice_slice hf 0 1, hz.symm, hz2.symm⟩)
  | fcvtI d a t | fmvSF d a t | fclass d a t =>
    obtain ⟨hf, rfl, hz, rfl, rfl, ho⟩ := fields6.1 (full_eq.1 h)
    exact decode_full 18 hi ho (show decodeMajor18 w = _ by
      rw [decodeMajor18, slice_slice hf 1 5]; exact if_pos ⟨slice_slice hf 0 1, hz.symm⟩)
  | amoswap d a b c r | amoadd d a b c r | amoand d a b c r | amoor d a b c r =>
    obtain ⟨hf, rfl, rfl, rfl, rfl, rfl, ho⟩ := fields7.1 (full_eq.1 h)
    exact decode_full 19 hi ho (show decodeMajor19 w = _ by rw [decodeMajor19, ← hf]; rfl)
  | amomax d a b c r | amomaxn d a b c r | amocas d a b c r =>
    obtain ⟨hf, rfl, rfl, rfl, rfl, rfl, ho⟩ := fields7.1 (full_eq.1 h)
    exact decode_full 20 hi ho (show decodeMajor20 w = _ by rw [decodeMajor20, ← hf]; rfl)
  | ldaq d a c =>
    obtain ⟨hf, rfl, hz, rfl, rfl, ho⟩ := fields6.1 (full_eq.1 h)
    exact decode_full 20 hi ho (show decodeMajor20 w = _ by
      rw [decodeMajor20, slice_slice hf 2 2]; exact if_pos ⟨slice_slice hf 0 2, hz.symm⟩)
  | csrr d s =>
    obtain ⟨hf, rfl, hz, rfl, ho⟩ := fields5.1 (full_eq.1 h)
    exact decode_full 22 hi ho (show decodeMajor22 w = _ by rw [decodeMajor22, ← hf]; exact if_pos hz.symm)
  | csrw a s =>
    obtain ⟨hf, rfl, rfl, ho⟩ := fields4.1 (full_eq.1 h)
    exact decode_full 22 hi ho (show decodeMajor22 w = _ by rw [decodeMajor22, ← hf]; exact if_pos (slice_slice ho 7 6))
  | csrs d a s | csrc d a s =>
    obtain ⟨hf, rfl, rfl, rfl, ho⟩ := fields5.1 (full_eq.1 h)
    exact decode_full 23 hi ho (show decodeMajor23 w = _ by rw [decodeMajor23, ← hf]; rfl)
  | trap | tret | brk =>
    have ho := full_eq.1 h
    exact decode_full 24 hi ho (show decodeMajor24 w = _ by rw [decodeMajor24, slice_slice ho 25 7]; exact if_pos (slice_slice ho 7 18))
  | waitt a =>
    obtain ⟨hf, rfl, ho⟩ := fields3.1 (full_eq.1 h)
    exact decode_full 24 hi ho (show decodeMajor24 w = _ by
      rw [decodeMajor24, slice_slice hf 6 7]; exact if_pos ⟨slice_slice hf 0 6, slice_slice ho 7 6⟩)
  | setvl d a i =>
    obtain ⟨hf, rfl, rfl, rfl, ho⟩ := fields5.1 (full_eq.1 h)
    exact decode_full 41 hi ho (show decodeMajor41 w = _ by rw [decodeMajor41, ← hf]; rfl)
  | vadd d a b m | vsub d a b m | vmul d a b m | vmulh d a b m | vdiv d a b m | vrem d a b m | vmin d a b m | vmax d a b m =>
    obtain ⟨hf, rfl, rfl, rfl, rfl, ho⟩ := fields6.1 (full_eq.1 h)
    exact decode_full 25 hi ho (show decodeMajor25 w = _ by rw [decodeMajor25, ← hf]; rfl)
  | vand d a b m | vor d a b m | vxor d a b m | vshl d a b m | vshr d a b m | vsra d a b m | vadds d a b m | vsubs d a b m =>
    obtain ⟨hf, rfl, rfl, rfl, rfl, ho⟩ := fields6.1 (full_eq.1 h)
    exact decode_full 26 hi ho (show decodeMajor26 w = _ by rw [decodeMajor26, ← hf]; rfl)
  | vmac d a b m | vnmac d a b m | vaddmin d a b m | vmerge d a b m =>
    obtain ⟨hf, rfl, rfl, rfl, rfl, ho⟩ := fields6.1 (full_eq.1 h)
    exact decode_full 27 hi ho (show decodeMajor27 w = _ by rw [decodeMajor27, ← hf]; rfl)
  | vsqrt d a m | vabs d a m | vmv d a m =>
    obtain ⟨hf, rfl, hz, rfl, rfl, ho⟩ := fields6.1 (full_eq.1 h)
    exact decode_full 27 hi ho (show decodeMajor27 w = _ by rw [decodeMajor27, ← hf]; exact if_pos hz.symm)
  | vseq d a b m | vsne d a b m =>
    obtain ⟨hf, rfl, rfl, rfl, rfl, ho⟩ := fields6.1 (full_eq.1 h)
    exact decode_full 28 hi ho (show decodeMajor28 w = _ by rw [decodeMajor28, ← hf]; rfl)
  | vslt d a b m | vsle d a b m =>
    obtain ⟨hf, rfl, rfl, rfl, rfl, ho⟩ := fields6.1 (full_eq.1 h)
    exact decode_full 29 hi ho (show decodeMajor29 w = _ by rw [decodeMajor29, ← hf]; rfl)
  | vaddVs d a s m | vsubVs d a s m | vmulVs d a s m | vminVs d a s m =>
    obtain ⟨hf, rfl, rfl, rfl, rfl, ho⟩ := fields6.1 (full_eq.1 h)
    exact decode_full 30 hi ho (show decodeMajor30 w = _ by rw [decodeMajor30, ← hf]; rfl)
  | vmaxVs d a s m | vshlVs d a s m | vshrVs d a s m | vsraVs d a s m =>
    obtain ⟨hf, rfl, rfl, rfl, rfl, ho⟩ := fields6.1 (full_eq.1 h)
    exact decode_full 31 hi ho (show decodeMajor31 w = _ by rw [decodeMajor31, ← hf]; rfl)
  | vmacVs d a s m | vaddminVs d a s m | vrsubVs d a s m =>
    obtain ⟨hf, rfl, rfl, rfl, rfl, ho⟩ := fields6.1 (full_eq.1 h)
    exact decode_full 32 hi ho (show decodeMajor32 w = _ by rw [decodeMajor32, ← hf]; rfl)
  | vbcast d s m =>
    obtain ⟨hf, rfl, rfl, hz, rfl, ho⟩ := fields6.1 (full_eq.1 h)
    exact decode_full 32 hi ho (show decodeMajor32 w = _ by rw [decodeMajor32, ← hf]; exact if_pos hz.symm)
  | vaddVi d a i | vandVi d a i | vorVi d a i | vxorVi d a i | vshlVi d a i | vshrVi d a i | vsraVi d a i | vrsubVi d a i =>
    obtain ⟨hf, rfl, rfl, rfl, ho⟩ := fields5.1 (full_eq.1 h)
    exact decode_full 33 hi ho (show decodeMajor33 w = _ by rw [decodeMajor33, ← hf]; rfl)
  | vidx d s p =>
    obtain ⟨rfl, rfl, rfl, ho⟩ := fields4.1 (full_eq.1 h)
    exact decode_full 34 hi ho (show decodeMajor34 w = _ by rw [decodeMajor34])
  | vredsum d a b m | vredmin d a b m | vredmax d a b m | vredand d a b m | vredor d a b m | vredxor d a b m | vscan d a b m
  | vscanx d a b m =>
    obtain ⟨hf, rfl, rfl, rfl, rfl, ho⟩ := fields6.1 (full_eq.1 h)
    exact decode_full 35 hi ho (show decodeMajor35 w = _ by rw [decodeMajor35, ← hf]; rfl)
  | vslideup d a s m | vslidedn d a s m | vslide1up d a s m | vslide1dn d a s m =>
    obtain ⟨hf, rfl, rfl, rfl, rfl, ho⟩ := fields6.1 (full_eq.1 h)
    exact decode_full 36 hi ho (show decodeMajor36 w = _ by rw [decodeMajor36, ← hf]; rfl)
  | vperm d a b m | vzip d a b m =>
    obtain ⟨hf, rfl, rfl, rfl, rfl, ho⟩ := fields6.1 (full_eq.1 h)
    exact decode_full 37 hi ho (show decodeMajor37 w = _ by rw [decodeMajor37, ← hf]; rfl)
  | vcompress d a m | vexpand d a m | vrev d a m | vunzip d a m | vconflict d a m =>
    obtain ⟨hf, rfl, hz, rfl, rfl, ho⟩ := fields6.1 (full_eq.1 h)
    exact decode_full 37 hi ho (show decodeMajor37 w = _ by rw [decodeMajor37, ← hf]; exact if_pos hz.symm)
  | vcvt d a t f m =>
    obtain ⟨rfl, rfl, rfl, rfl, rfl, ho⟩ := fields6.1 (full_eq.1 h)
    exact decode_full 38 hi ho (show decodeMajor38 w = _ by rw [decodeMajor38])
  | mand d a b | mor d a b | mxor d a b | mandn d a b | morn d a b | mnand d a b | mnor d a b | mxnor d a b =>
    obtain ⟨hf, rfl, rfl, rfl, ho⟩ := fields5.1 (full_eq.1 h)
    exact decode_full 39 hi ho (show decodeMajor39 w = _ by rw [decodeMajor39, ← hf]; rfl)
  | mmv d a | mnot d a | msetbf d a | msetif d a | msetof d a =>
    obtain ⟨hf, rfl, rfl, ho⟩ := fields4.1 (full_eq.1 h)
    exact decode_full 39 hi ho (show decodeMajor39 w = _ by rw [decodeMajor39, slice_slice hf 7 4]; exact if_pos (slice_slice hf 0 7))
  | mclr d | mset d =>
    obtain ⟨hf, rfl, ho⟩ := fields3.1 (full_eq.1 h)
    exact decode_full 39 hi ho (show decodeMajor39 w = _ by rw [decodeMajor39, slice_slice hf 14 4]; exact if_pos (slice_slice hf 0 14))
  | vext a b =>
    obtain ⟨hf, rfl, rfl, ho⟩ := fields4.1 (full_eq.1 h)
    exact decode_full 40 hi ho (show decodeMajor40 w = _ by rw [decodeMajor40, slice_slice hf 7 7]; exact if_pos (slice_slice hf 0 7))
  | mpop m | mfind m | mbany m | mball m =>
    obtain ⟨hf, rfl, ho⟩ := fields3.1 (full_eq.1 h)
    exact decode_full 40 hi ho (show decodeMajor40 w = _ by rw [decodeMajor40, ← hf]; exact if_pos (slice_slice ho 7 11))
  | vld v a b m | vst v a b m =>
    obtain ⟨hf, rfl, rfl, rfl, rfl, ho⟩ := fields6.1 (full_eq.1 h)
    exact decode_full 42 hi ho (show decodeMajor42 w = _ by rw [decodeMajor42, ← hf]; rfl)
  | vlds v a b m | vsts v a b m =>
    obtain ⟨hf, rfl, rfl, rfl, rfl, ho⟩ := fields6.1 (full_eq.1 h)
    exact decode_full 43 hi ho (show decodeMajor43 w = _ by rw [decodeMajor43, ← hf]; rfl)
  | vldx v a i m | vstx v a i m =>
    obtain ⟨hf, rfl, rfl, rfl, rfl, ho⟩ := fields6.1 (full_eq.1 h)
    exact decode_full 44 hi ho (show decodeMajor44 w = _ by rw [decodeMajor44, ← hf]; rfl)
  | vldff v a b m | vldsff v a b m =>
    obtain ⟨hf, rfl, rfl, rfl, rfl, ho⟩ := fields6.1 (full_eq.1 h)
    exact decode_full 45 hi ho (show decodeMajor45 w = _ by rw [decodeMajor45, ← hf]; rfl)
  | vldI v a i | vstI v a i | vldffI v a i =>
    obtain ⟨hf, rfl, rfl, rfl, ho⟩ := fields5.1 (full_eq.1 h)
    exact decode_full 46 hi ho (show decodeMajor46 w = _ by rw [decodeMajor46, ← hf]; rfl)
  | tbindl t a | tbinds t a =>
    obtain ⟨hf, rfl, hz, rfl, ho⟩ := fields5.1 (full_eq.1 h)
    exact decode_full 47 hi ho (show decodeMajor47 w = _ by
      rw [decodeMajor47, slice_slice hf 7 2]; exact if_pos ⟨slice_slice hf 0 7, hz.symm, slice_slice ho 7 5⟩)
  | tfree t | tflush t =>
    obtain ⟨hf, rfl, ho⟩ := fields3.1 (full_eq.1 h)
    exact decode_full 47 hi ho (show decodeMajor47 w = _ by
      rw [decodeMajor47, slice_slice hf 14 2]; exact if_pos ⟨slice_slice hf 0 14, slice_slice ho 7 5⟩)
  | tget v t m | tsend v t m =>
    obtain ⟨hf, rfl, hz, rfl, rfl, ho⟩ := fields6.1 (full_eq.1 h)
    exact decode_full 48 hi ho (show decodeMajor48 w = _ by rw [decodeMajor48, ← hf]; exact if_pos hz.symm)
  | acopy a b c k =>
    obtain ⟨hf, rfl, rfl, rfl, rfl, ho⟩ := fields6.1 (full_eq.1 h)
    exact decode_full 49 hi ho (show decodeMajor49 w = _ by rw [decodeMajor49, ← hf]; rfl)
  | cwait k | ctest k =>
    obtain ⟨hf, rfl, ho⟩ := fields3.1 (full_eq.1 h)
    exact decode_full 49 hi ho (show decodeMajor49 w = _ by rw [decodeMajor49, ← hf]; exact if_pos (slice_slice ho 7 18))
  | fload a n =>
    obtain ⟨hf, rfl, rfl, ho⟩ := fields4.1 (full_eq.1 h)
    exact decode_full 50 hi ho (show decodeMajor50 w = _ by rw [decodeMajor50, slice_slice hf 8 3]; exact if_pos (slice_slice hf 0 8))
  | fstart n | fstop n | fdrain n | fstat n =>
    obtain ⟨hf, rfl, ho⟩ := fields3.1 (full_eq.1 h)
    exact decode_full 50 hi ho (show decodeMajor50 w = _ by
      rw [decodeMajor50, slice_slice hf 8 3]; exact if_pos ⟨slice_slice hf 0 8, slice_slice ho 7 6⟩)
  | fgather v i a m | fscatter v i a m | fwgather v i a m =>
    obtain ⟨hf, rfl, rfl, rfl, rfl, ho⟩ := fields6.1 (full_eq.1 h)
    exact decode_full 51 hi ho (show decodeMajor51 w = _ by rw [decodeMajor51, ← hf]; rfl)
  | vamoadd v i a m | vamomin v i a m | vamomax v i a m | fas v i a m =>
    obtain ⟨hf, rfl, rfl, rfl, rfl, ho⟩ := fields6.1 (full_eq.1 h)
    exact decode_full 52 hi ho (show decodeMajor52 w = _ by rw [decodeMajor52, ← hf]; rfl)
  | awadd v i k m | awmin v i k m | awmax v i k m =>
    obtain ⟨hf, rfl, hz, rfl, rfl, rfl, ho⟩ := fields7.1 (full_eq.1 h)
    exact decode_full 53 hi ho (show decodeMajor53 w = _ by rw [decodeMajor53, ← hf]; exact if_pos hz.symm)
  | awopen a b k =>
    obtain ⟨hf, rfl, rfl, rfl, ho⟩ := fields5.1 (full_eq.1 h)
    exact decode_full 54 hi ho (show decodeMajor54 w = _ by rw [decodeMajor54, slice_slice hf 7 3]; exact if_pos (slice_slice hf 0 7))
  | accmerge k | awdiscard k =>
    obtain ⟨hf, rfl, ho⟩ := fields3.1 (full_eq.1 h)
    exact decode_full 54 hi ho (show decodeMajor54 w = _ by
      rw [decodeMajor54, slice_slice hf 7 3]; exact if_pos ⟨slice_slice hf 0 7, slice_slice ho 7 12⟩)
  | chform a | chrun a | chidx a =>
    obtain ⟨hf, rfl, ho⟩ := fields3.1 (full_eq.1 h)
    exact decode_full 55 hi ho (show decodeMajor55 w = _ by
      rw [decodeMajor55, slice_slice hf 6 7]; exact if_pos ⟨slice_slice hf 0 6, slice_slice ho 7 6⟩)
  | chwait | chbreak | chfree | chstat =>
    have ho := full_eq.1 h
    exact decode_full 55 hi ho (show decodeMajor55 w = _ by rw [decodeMajor55, slice_slice ho 25 7]; exact if_pos (slice_slice ho 7 18))
  | qrd x | qlen x =>
    obtain ⟨hf, rfl, ho⟩ := fields3.1 (full_eq.1 h)
    exact decode_full 55 hi ho (show decodeMajor55 w = _ by rw [decodeMajor55, slice_slice hf 13 7]; exact if_pos (slice_slice hf 0 13))
  | qwr x a =>
    obtain ⟨hf, rfl, hz, rfl, ho⟩ := fields5.1 (full_eq.1 h)
    exact decode_full 55 hi ho (show decodeMajor55 w = _ by
      rw [decodeMajor55, slice_slice hf 6 7]; exact if_pos ⟨slice_slice hf 0 6, hz.symm⟩)
  | mmac c a b x | mmacsa c a b x | mmacsb c a b x =>
    obtain ⟨hf, rfl, rfl, rfl, rfl, ho⟩ := fields6.1 (full_eq.1 h)
    exact decode_full 56 hi ho (show decodeMajor56 w = _ by rw [decodeMajor56, ← hf]; rfl)
  | mldc c a =>
    obtain ⟨hf, rfl, rfl, ho⟩ := fields4.1 (full_eq.1 h)
    exact decode_full 56 hi ho (show decodeMajor56 w = _ by rw [decodeMajor56, slice_slice hf 12 3]; exact if_pos (slice_slice hf 0 12))
  | mstc c a x =>
    obtain ⟨hf, rfl, hz, rfl, rfl, ho⟩ := fields6.1 (full_eq.1 h)
    exact decode_full 56 hi ho (show decodeMajor56 w = _ by rw [decodeMajor56, ← hf]; exact if_pos hz.symm)
  | mzero c =>
    obtain ⟨hf, rfl, ho⟩ := fields3.1 (full_eq.1 h)
    exact decode_full 56 hi ho (show decodeMajor56 w = _ by rw [decodeMajor56, slice_slice hf 18 3]; exact if_pos (slice_slice hf 0 18))
  | mskip a b x =>
    obtain ⟨hf, rfl, rfl, rfl, ho⟩ := fields5.1 (full_eq.1 h)
    exact decode_full 56 hi ho (show decodeMajor56 w = _ by rw [decodeMajor56, ← hf]; exact if_pos (slice_slice ho 7 4))
  | mshape a =>
    obtain ⟨hf, rfl, ho⟩ := fields3.1 (full_eq.1 h)
    exact decode_full 56 hi ho (show decodeMajor56 w = _ by
      rw [decodeMajor56, slice_slice hf 12 3]; exact if_pos ⟨slice_slice hf 0 12, slice_slice ho 7 4⟩)
  | mprune a b x =>
    obtain ⟨hf, rfl, rfl, rfl, ho⟩ := fields5.1 (full_eq.1 h)
    exact decode_full 57 hi ho (show decodeMajor57 w = _ by rw [decodeMajor57, ← hf]; exact if_pos (slice_slice ho 7 4))
  | mnode c a | mscale c a =>
    obtain ⟨hf, rfl, rfl, ho⟩ := fields4.1 (full_eq.1 h)
    exact decode_full 57 hi ho (show decodeMajor57 w = _ by rw [decodeMajor57, slice_slice hf 12 3]; exact if_pos (slice_slice hf 0 12))
  | mfill c | mwait c | mstat c =>
    obtain ⟨hf, rfl, ho⟩ := fields3.1 (full_eq.1 h)
    exact decode_full 57 hi ho (show decodeMajor57 w = _ by rw [decodeMajor57, slice_slice hf 18 3]; exact if_pos (slice_slice hf 0 18))
  | fclaim d a b =>
    obtain ⟨hf, rfl, rfl, rfl, ho⟩ := fields5.1 (full_eq.1 h)
    exact decode_full 59 hi ho (show decodeMajor59 w = _ by rw [decodeMajor59, ← hf]; rfl)
  | fend =>
    have ho := full_eq.1 h
    exact decode_full 59 hi ho (show decodeMajor59 w = _ by rw [decodeMajor59, slice_slice ho 25 7]; exact if_pos (slice_slice ho 7 18))
  | sigdec a b | sigwait a b | launch a b =>
    obtain ⟨hf, rfl, rfl, ho⟩ := fields4.1 (full_eq.1 h)
    exact decode_full 59 hi ho (show decodeMajor59 w = _ by rw [decodeMajor59, ← hf]; exact if_pos (slice_slice ho 7 6))
  | lput a b c k | lget a b c k | lcred a b c k | lcgat a b c k | lcbc a b c k =>
    obtain ⟨hf, rfl, rfl, rfl, rfl, ho⟩ := fields6.1 (full_eq.1 h)
    exact decode_full 60 hi ho (show decodeMajor60 w = _ by rw [decodeMajor60, ← hf]; rfl)
  | lwait k | ltest k =>
    obtain ⟨hf, rfl, ho⟩ := fields3.1 (full_eq.1 h)
    exact decode_full 60 hi ho (show decodeMajor60 w = _ by rw [decodeMajor60, ← hf]; exact if_pos (slice_slice ho 7 18))
  | lfence =>
    have ho := full_eq.1 h
    exact decode_full 60 hi ho (show decodeMajor60 w = _ by rw [decodeMajor60, slice_slice ho 28 4]; exact if_pos (slice_slice ho 7 21))
  | ctxsave a b | ctxload a b =>
    obtain ⟨hf, rfl, rfl, ho⟩ := fields4.1 (full_eq.1 h)
    exact decode_full 61 hi ho (show decodeMajor61 w = _ by rw [decodeMajor61, ← hf]; exact if_pos (slice_slice ho 7 6))
  | dbgwin d a b =>
    obtain ⟨hf, rfl, rfl, rfl, ho⟩ := fields5.1 (full_eq.1 h)
    exact decode_full 61 hi ho (show decodeMajor61 w = _ by rw [decodeMajor61, ← hf]; rfl)
  | xori d a i =>
    obtain ⟨hf, rfl, rfl, rfl, ho⟩ := fields5.1 (full_eq.1 h)
    exact decode_full 4 hi ho (show decodeMajor4 w = _ by rw [decodeMajor4, ← hf]; rfl)
  | shli d a s | shri d a s | srai d a s =>
    obtain ⟨hf, rfl, rfl, rfl, ho⟩ := fields5.1 (full_eq.1 h)
    exact decode_full 4 hi ho (show decodeMajor4 w = _ by
      rw [decodeMajor4, slice_slice hf 6 1, slice_slice hf 0 2]; exact if_pos (slice_slice hf 2 4))
  | j o | jl o =>
    obtain ⟨rfl, ho⟩ := fields2.1 (full_eq.1 h)
    exact decode_full 17 hi ho (show decodeMajor17 w = _ by rw [decodeMajor17, slice_slice ho 7 5]; rfl)
  | bqz q o | bqnz q o =>
    obtain ⟨rfl, hf, hq, ho⟩ := fields4.1 (full_eq.1 h)
    refine decode_full 17 hi ho (show decodeMajor17 w = _ from ?_)
    rw [decodeMajor17, ← fields2.2 ⟨hf, hq⟩, ← hq]
    obtain rfl | rfl | rfl := queue_of_bqOk hi <;> rfl
  | strl a b c =>
    obtain ⟨hf, rfl, rfl, rfl, ho⟩ := fields5.1 (full_eq.1 h)
    exact decode_full 21 hi ho (show decodeMajor21 w = _ by
      rw [decodeMajor21, slice_slice hf 2 2]; exact if_pos ⟨slice_slice hf 0 2, slice_slice ho 7 6⟩)
  | fence c | fenceAcq c | fenceRel c | fenceSc c =>
    obtain ⟨hf, rfl, ho⟩ := fields3.1 (full_eq.1 h)
    exact decode_full 21 hi ho (show decodeMajor21 w = _ by
      rw [decodeMajor21, slice_slice hf 2 2, slice_slice hf 0 2]
      exact if_pos ⟨slice_slice ho 7 6, slice_slice ho 13 6, slice_slice ho 19 6⟩)
  | qdrain q =>
    obtain ⟨hf, rfl, ho⟩ := fields3.1 (full_eq.1 h)
    exact decode_full 21 hi ho (show decodeMajor21 w = _ by
      rw [decodeMajor21, slice_slice hf 8 2]; exact if_pos ⟨slice_slice hf 0 8, slice_slice ho 7 12⟩)
  | mvq d q =>
    obtain ⟨hf, rfl, hz, rfl, ho⟩ := fields5.1 (full_eq.1 h)
    exact decode_full 21 hi ho (show decodeMajor21 w = _ by
      rw [decodeMajor21, slice_slice hf 9 2]; exact if_pos ⟨slice_slice hf 0 9, hz.symm⟩)
  | gpost a b =>
    obtain ⟨hf, rfl, rfl, ho⟩ := fields4.1 (full_eq.1 h)
    exact decode_full 58 hi ho (show decodeMajor58 w = _ by
      rw [decodeMajor58, slice_slice hf 4 3]
      exact (if_neg (by rw [slice_slice hf 0 1]; decide)).trans (if_pos ⟨slice_slice hf 0 4, slice_slice ho 7 6⟩))
  | gpostPayload d a b =>
    obtain ⟨hf, rfl, rfl, rfl, ho⟩ := fields5.1 (full_eq.1 h)
    exact decode_full 58 hi ho (show decodeMajor58 w = _ by
      rw [decodeMajor58, slice_slice hf 4 3]; exact (if_pos (slice_slice hf 0 1)).trans (if_pos (slice_slice hf 1 3)))
  | gwait d a b | gtry d a b | gopen d a b =>
    obtain ⟨hf, rfl, rfl, rfl, ho⟩ := fields5.1 (full_eq.1 h)
    exact decode_full 58 hi ho (show decodeMajor58 w = _ by
      rw [decodeMajor58, slice_slice hf 4 3]; exact if_pos (slice_slice hf 0 4))
  | gread d a =>
    obtain ⟨hf, rfl, rfl, ho⟩ := fields4.1 (full_eq.1 h)
    exact decode_full 58 hi ho (show decodeMajor58 w = _ by
      rw [decodeMajor58, slice_slice hf 10 3]; exact if_pos (slice_slice hf 0 10))
  | gclose a =>
    obtain ⟨hf, rfl, ho⟩ := fields3.1 (full_eq.1 h)
    exact decode_full 58 hi ho (show decodeMajor58 w = _ by
      rw [decodeMajor58, slice_slice hf 10 3]; exact if_pos ⟨slice_slice hf 0 10, slice_slice ho 7 6⟩)
  | _ => cases h

/-- A well-formed instruction is what its words decode to. -/
theorem decode_of_encode {e : Encoded} (h : encode i = some e) (hi : i.wellFormed = true) : decode e = .ok i := by
  cases e with
  | half v => exact decode_of_encode_half h hi
  | full w => exact decode_of_encode_full h hi

/-! ### Bytes -/

theorem decodeBytes_half (v : BitVec 16) (rest : List Byte) (even : v.getLsbD 0 = false) :
    decodeBytes ((Encoded.half v).bytes ++ rest) = some (decode (.half v), rest) := by
  have low : (v.extractLsb' 0 8).getLsbD 0 = false := (getLsbD_zero_of_slice (n1 := 8) rfl (by decide)).symm.trans even
  have joined : v.extractLsb' 8 8 ++ v.extractLsb' 0 8 = v.extractLsb' 0 16 := fields2.2 ⟨rfl, rfl⟩
  rw [BitVec.extractLsb'_eq_self] at joined
  simp only [Encoded.bytes, List.cons_append, List.nil_append, decodeBytes, low, Bool.false_eq_true, if_false, joined]

theorem decodeBytes_full (w : BitVec 32) (rest : List Byte) (odd : w.getLsbD 0 = true) :
    decodeBytes ((Encoded.full w).bytes ++ rest) = some (decode (.full w), rest) := by
  have low : (w.extractLsb' 0 8).getLsbD 0 = true := (getLsbD_zero_of_slice (n1 := 8) rfl (by decide)).symm.trans odd
  have joined : w.extractLsb' 24 8 ++ w.extractLsb' 16 8 ++ w.extractLsb' 8 8 ++ w.extractLsb' 0 8 = w.extractLsb' 0 32 :=
    fields4.2 ⟨rfl, rfl, rfl, rfl⟩
  rw [BitVec.extractLsb'_eq_self] at joined
  simp only [Encoded.bytes, List.cons_append, List.nil_append, decodeBytes, low, if_true, joined]

/-- The bytes of a well-formed instruction decode to it and leave what follows (02_encoding.md R46). -/
theorem decodeBytes_of_encode {e : Encoded} (rest : List Byte) (hi : i.wellFormed = true) (h : encode i = some e) :
    decodeBytes (e.bytes ++ rest) = some (.ok i, rest) := by
  have decoded := decode_of_encode h hi
  cases e with
  | half v => rw [decodeBytes_half v rest (decode_half_eq_ok.1 decoded).1, decoded]
  | full w => rw [decodeBytes_full w rest (decode_full_eq_ok.1 decoded).1, decoded]

end

/-- Settles O2: the fields of a word determine its instruction, and its instruction the fields. -/
theorem encodeDecode : Obligations.EncodeDecode := by
  unfold Obligations.EncodeDecode
  exact ⟨fun i e rest hi h => decodeBytes_of_encode rest hi h, fun e i h => encode_of_decode h⟩

end Sys2Proof.Words
end

section
/-!
PROOFS. DecodeWords: the words written out from the formats are those that the encoder gives their instructions.
-/

namespace Sys2Proof.Words

/-- The words written out from the formats are those of their instructions, which are well formed. -/
theorem encode_knownWords : ∀ x ∈ Claims.knownWords, encode x.2 = some x.1 ∧ x.2.wellFormed = true := by
  unfold Claims.knownWords
  decide +kernel

/-- Settles O1: each word is the one its instruction encodes to, so it decodes to that instruction. -/
theorem decodeWords : Obligations.DecodeWords := by
  unfold Obligations.DecodeWords
  intro x hx
  obtain ⟨word, hi⟩ := encode_knownWords x hx
  exact decode_of_encode word hi

end Sys2Proof.Words
end

section
/-!
PROOFS. StepRunsInstruction: what a turn comes to where nothing comes before the instruction at the pc, and what an input of the agenda
and a stopped package come to.
-/

namespace Sys2Proof.Machine

open Sys2Proof.Claims

/-! ### Traps into the handler -/

/-- Outside a handler, a trap of the hart for a cause that goes to the task's handler enters it (05_hart.md R165). -/
theorem State.takeHartTrap_enters (s : State) (code : BitVec 8) (src : BitVec 4) (addr : Option Word) (gpa : Word) (hh : HasHandler s)
    (hc : toRecord code = false) :
    EntersHandler s (s.takeHartTrap code src addr gpa false) code src s.hart.pc (addr.getD s.hart.faddr) s.hart.ld := by
  obtain ⟨handler, outside⟩ := hh
  rw [State.takeHartTrap_handler s code src addr gpa outside handler hc]
  have status : ∀ k, (statusWith s.hart.status true false).getLsbD k = if k = 5 then false else if k = 6 then true else s.hart.status.getLsbD k :=
    statusWith_getLsbD _ _ _
  have tolls : (if s.hart.gateWait.isSome then s.leaveTolls s.cur else s) = tollFree s := rfl
  rw [EntersHandler, State.hart_setHart, tolls]
  refine ⟨rfl, ?_, rfl, rfl, rfl, rfl, rfl, rfl, rfl, rfl, rfl, rfl, rfl, rfl, ?_, ?_, fun k h5 h6 => ?_, rfl, ?_⟩
  · simp [Hart.hartEntry, causeWord]
  · exact status 6
  · exact status 5
  · exact (status k).trans (by rw [if_neg h5, if_neg h6])
  · unfold SameBytes tollFree
    split <;> exact fun _ => rfl

/-! ### A turn -/

/-- The end of a turn changes nothing for a hart that the debugger does not step (13_context.md R392). -/
theorem endOut_of_not_stepping {s : State} (h : s.hart.stepping = 0) (i : Option Instr) (o : Out) : endOut s i o = o := by
  have unstepped (t : State) : s.endTurn t i = t := if_pos (by rw [h]; rfl)
  cases o with
  | next t => exact congrArg _ (unstepped t)
  | fault r => rfl
  | refused r => rfl

/-- The fabric and the engines of a hart at rest do nothing. -/
theorem State.engineTurn_quiet {s : State} (busy : s.hart.fabricBusy = false) (quiet : s.hart.quiet = true) : s.engineTurn = (false, s) := by
  rw [State.engineTurn, busy, Bool.and_false, if_neg Bool.false_ne_true, State.pump_quiet s quiet]

/-- A hart at rest that no debugger steps fetches the word at its pc and decodes it (02_encoding.md R46, R62). -/
theorem State.fetchNext_quiet {s u : State} {enc : Encoded} (busy : s.hart.fabricBusy = false) (quiet : s.hart.quiet = true)
    (unstepped : s.hart.stepping = 0) (hf : fetchWord s.hart.agent s.hart.pc s = .ok enc u) :
    s.fetchNext = match decode enc with
      | .error _ => .stop (u.raise eIllegal 0 (some (encodedWord enc)) 0 false)
      | .ok i => .run i u := by
  simp only [State.fetchNext, State.engineTurn_quiet busy quiet, unstepped, hf]
  refine (if_neg (by decide)).trans ?_
  cases decode enc <;> rfl

/-- A step with nothing before it is the turn of its hart (log 1). -/
theorem step_of_readyToRun {s : State} (h : ReadyToRun s) : step s = haltUnowned s (turn (atTurn s)) := by
  obtain ⟨agenda, going, -⟩ := h
  simp only [step, agenda, going, Bool.false_eq_true, if_false]
  rfl

/-- A turn of a hart at rest whose word is an instruction executes it (02_encoding.md R46). -/
theorem turn_runs {s u : State} {enc : Encoded} {i : Instr} (h : ReadyToRun s)
    (hf : fetchWord (atTurn s).hart.agent (atTurn s).hart.pc (atTurn s) = .ok enc u) (hd : decode enc = .ok i) :
    turn (atTurn s) = exec i (storesDone i u) := by
  obtain ⟨-, -, runs, busy, ⟨quiet, -⟩, unstepped⟩ := h
  have fetched := State.fetchNext_quiet busy quiet unstepped hf
  rw [hd] at fetched
  simp only [turn, runs, if_true, fetched, endOut_of_not_stepping unstepped, storesDone]

/-- A turn of a hart at rest whose word is none raises `E_ILLEGAL` with the word in FADDR (02_encoding.md R62). -/
theorem turn_illegal {s u : State} {enc : Encoded} {e : DecodeError} (h : ReadyToRun s)
    (hf : fetchWord (atTurn s).hart.agent (atTurn s).hart.pc (atTurn s) = .ok enc u) (hd : decode enc = .error e) :
    turn (atTurn s) = u.raise eIllegal 0 (some (encodedWord enc)) 0 false := by
  obtain ⟨-, -, runs, busy, ⟨quiet, -⟩, unstepped⟩ := h
  have fetched := State.fetchNext_quiet busy quiet unstepped hf
  rw [hd] at fetched
  simp only [turn, runs, if_true, fetched, endOut_of_not_stepping unstepped]

/-! ### Inputs and a package that stands still -/

/-- An event that stands first on the agenda of a package that runs takes place. -/
theorem step_of_event {s : State} {i : Instr} {rest : List Input} (ha : s.agenda = .event i :: rest) (hi : encode i = none)
    (going : (atInput s rest).stopped = false) : step s = haltUnowned s (exec i (atInput s rest)) := by
  have found : ({ s.tick with agenda := rest } : State).performBut (Input.event i).mover = atInput s rest := rfl
  simp only [step, ha, found, takeInput, hi, going, Option.isSome_none, Bool.false_and, Bool.or_false, Bool.false_eq_true, if_false]

theorem State.perform_nil {s : State} {slot : Fin 64} (h : s.harts[slot].unperformed = []) : s.perform slot = s := by
  unfold State.perform
  rw [h]

/-- A step that does not stop the package meets no error that no partition owns. -/
theorem haltUnowned_of_stopped_eq {s t : State} (h : t.stopped = s.stopped) : haltUnowned s (.next t) = .next t := by
  simp [haltUnowned, h]

theorem step_of_stopped {s : State} (ha : s.agenda = []) (hs : s.stopped = true) : step s = .fault .packageStopped := by
  simp only [step, ha, hs, if_true]

/-- Settles O4: a turn of a hart at rest is its instruction or `E_ILLEGAL`, and the other clauses are what `step` does with its agenda. -/
theorem stepRunsInstruction : Obligations.StepRunsInstruction := by
  unfold Obligations.StepRunsInstruction
  refine ⟨fun s u enc i ready hf hd => ?runs, fun s u enc e ready handler quiet hf hd => ?illegal,
    fun s i rest ha hi going => step_of_event ha hi going, fun s slot => State.perform_nil, fun s t => haltUnowned_of_stopped_eq,
    fun s => step_of_stopped⟩
  case runs => rw [step_of_readyToRun ready, turn_runs ready hf hd]
  case illegal =>
    refine ⟨u.takeHartTrap eIllegal 0 (some (encodedWord enc)) 0 false, ?_, u.takeHartTrap_enters _ _ _ _ handler rfl⟩
    rw [step_of_readyToRun ready, turn_illegal ready hf hd, State.raise_quiet _ _ _ _ _ _ quiet]

end Sys2Proof.Machine
end

section
/-!
PROOFS. ChainRuns fails: `chform` of a block that is at fault leaves a chain in state NONE as it stands (09_chain.md R276, R281), and
only a released one is as at reset.
-/

namespace Sys2Proof.Machine

open Sys2Proof.Claims

/-- A hart with a handler whose chain is in state NONE with its pin set, as a restore of an image that says so leaves it (13_context.md
R385; `restoreHart`). The memory at address 0 is zero, which is no block: its version is wrong (02_encoding.md R64). -/
def pinnedWithoutChain : State :=
  let s := State.reset.withFetchWord 32 0
  s.setHart { s.hart with handler := 0x4000, chain := { Chain.reset with pin := true } }

/-- The words of a block are read, and their check reports one. -/
def readsBadBlock (a : Word) (i : Nat) (s : State) : Bool :=
  match working (readChain a) s with
  | .ok ws _ => chainBad ws == some i
  | .error _ _ => false

theorem readsBadBlock_iff {a : Word} {i : Nat} {s : State} (h : readsBadBlock a i s = true) :
    ∃ ws u, working (readChain a) s = .ok ws u ∧ chainBad ws = some i := by
  unfold readsBadBlock at h
  split at h
  next ws u hr => exact ⟨ws, u, hr, beq_iff_eq.1 h⟩
  next => cases h

/-- The pin of the chain after an instruction. -/
def leavesPin : Out → Bool
  | .next t => t.hart.chain.pin
  | .fault _ | .refused _ => false

/-- Nothing holds back a `chform` of the block at address 0, and its check reports word 0. -/
theorem pinnedWithoutChain_meets : Free pinnedWithoutChain (.chform 0) ∧ (pinnedWithoutChain.hart.sreg 0).toNat % 4 = 0 ∧
    HasHandler pinnedWithoutChain ∧ readsBadBlock (pinnedWithoutChain.hart.sreg 0) 0 pinnedWithoutChain = true := by
  decide +kernel

/-- The `chform` releases nothing, so the pin stays set. -/
theorem pinnedWithoutChain_chform : leavesPin (exec (.chform 0) pinnedWithoutChain) = true := by
  decide +kernel

/-- Refutes O46: the second clause of `chform` has the chain as at reset after a block at fault, but a chain in state NONE is not
released, and one whose pin is set keeps it. -/
theorem not_chainRuns : ¬ Obligations.ChainRuns := by
  unfold Obligations.ChainRuns
  rintro ⟨⟨-, atFault, -⟩, -⟩
  obtain ⟨free, aligned, handler, bad⟩ := pinnedWithoutChain_meets
  obtain ⟨ws, u, read, bad⟩ := readsBadBlock_iff bad
  obtain ⟨t, executed, -, -, chain, -⟩ := atFault pinnedWithoutChain u 0 ws 0 free aligned handler read bad
  have pin := pinnedWithoutChain_chform
  rw [executed, leavesPin, chain] at pin
  exact absurd pin (by decide)

end Sys2Proof.Machine
end

section
/-!
PROOFS. OrderingAndWaits: the fences and `qdrain` of a hart at rest, and `waitt`.
-/

namespace Sys2Proof.Machine

open Sys2Proof.Claims

/-- Clamping a scope code is what the statements' `clamped` says (04_memory_model.md R119). -/
theorem State.clamp_eq_clamped (s : State) (c : BitVec 3) : s.clamp c = clamped s c := by
  rw [State.clamp, Hart.clampScope_only, clamped]
  split
  · rfl
  · exact s.setHart_hart

/-- Clamping a scope code sets at most STATUS.CLAMP of the hart that moves. -/
theorem clamped_only (s : State) (c : BitVec 3) : ∃ w, clamped s c = s.setHart { s.hart with status := w } := by
  unfold clamped
  split
  · exact ⟨_, rfl⟩
  · exact ⟨s.hart.status, s.setHart_hart.symm⟩

/-- An instruction that writes no register goes past itself. -/
theorem goesTo_retire (s : State) : GoesTo s (s.setHart s.hart.retire) (s.hart.pc + 4) := ⟨rfl, fun _ => rfl⟩

@[simp] theorem clamped_pc (s : State) (c : BitVec 3) : (clamped s c).hart.pc = s.hart.pc := by
  obtain ⟨w, h⟩ := clamped_only s c
  simp [h]

/-- A fence of a hart at rest goes on at once, its scope clamped (04_memory_model.md R125). -/
theorem fenceOp_quiet (s : State) (c : BitVec 3) (quiet : Quiet s) :
    fenceOp c s = .next ((clamped s c).setHart (clamped s c).hart.retire) := by
  obtain ⟨empty, onTime⟩ := quiet
  rw [fenceOp, State.afterRelease_quiet s c 0 _ empty onTime, State.clamp_eq_clamped]

/-- A drain of a hart at rest goes on at once (05_hart.md R162). -/
theorem execQdrain_quiet (s : State) (q : BitVec 3) (quiet : Quiet s) : execQdrain q s = .next (s.setHart s.hart.retire) := by
  obtain ⟨empty, onTime⟩ := quiet
  rw [execQdrain, State.afterDrain_quiet s q _ empty, State.afterLate_nil s _ _ _ onTime]

/-- The meaning of every fence is `fenceOp` at its scope. -/
theorem exec_fenceOf {i : Instr} {c : BitVec 3} (h : fenceOf i = some c) (s : State) : exec i s = fenceOp c s := by
  cases i <;> cases h <;> rfl

/-- Settles O13: a hart at rest has nothing to drain, and `waitt` compares TIMER with s[a]. -/
theorem orderingAndWaits : Obligations.OrderingAndWaits := by
  unfold Obligations.OrderingAndWaits
  refine ⟨⟨fun s i c hi quiet => ?fence, fun s q quiet => ?drain⟩, fun s a => ⟨fun reached => ?goes, fun early => ?waits⟩⟩
  case fence =>
    refine ⟨_, (exec_fenceOf hi s).trans (fenceOp_quiet s c quiet), ?_⟩
    rw [← clamped_pc s c]
    exact goesTo_retire _
  case drain => exact ⟨_, execQdrain_quiet s q quiet, goesTo_retire s⟩
  case goes => exact ⟨_, if_pos reached, goesTo_retire s⟩
  case waits => exact if_neg (Nat.not_le.2 early)

end Sys2Proof.Machine
end

section
/-!
PROOFS. MisalignedAccess: every scalar access checks its alignment before it translates.
-/

namespace Sys2Proof.Machine

open Sys2Proof.Claims

/-! ### A scope code clamped -/

theorem clamped_hart (s : State) (c : BitVec 3) : (clamped s c).hart = (s.hart.clampScope c).1 := by
  rw [← State.clamp_eq_clamped, State.clamp, State.hart_setHart]

/-- Clamping leaves every bit of STATUS but CLAMP as it was. -/
theorem clamped_status (s : State) (c : BitVec 3) {k : Nat} (hk : k ≠ 7) :
    (clamped s c).hart.status.getLsbD k = s.hart.status.getLsbD k := by
  unfold clamped
  split
  · have clear : (BitVec.twoPow 64 7).getLsbD k = false := by simp [Ne.symm hk]
    rw [State.hart_setHart, show (0x80 : Word) = BitVec.twoPow 64 7 from rfl, BitVec.getLsbD_or, clear, Bool.or_false]
  · rfl

theorem clamped_quiet {s : State} (c : BitVec 3) (quiet : s.hart.quiet = true) : (clamped s c).hart.quiet = true := by
  obtain ⟨w, h⟩ := clamped_only s c
  rw [h, State.hart_setHart]
  exact quiet

theorem clamped_hasHandler {s : State} (c : BitVec 3) (handler : HasHandler s) : HasHandler (clamped s c) := by
  obtain ⟨there, outside⟩ := handler
  refine ⟨?_, (clamped_status s c (by decide)).trans outside⟩
  obtain ⟨w, h⟩ := clamped_only s c
  rw [h, State.hart_setHart]
  exact there

@[simp] theorem clamped_sreg (s : State) (c : BitVec 3) (n : BitVec 6) : (clamped s c).hart.sreg n = s.hart.sreg n := by
  obtain ⟨w, h⟩ := clamped_only s c
  rw [h, State.hart_setHart]
  rfl

@[simp] theorem clamped_ld (s : State) (c : BitVec 3) : (clamped s c).hart.ld = s.hart.ld := by
  obtain ⟨w, h⟩ := clamped_only s c
  simp [h]

/-- A release or a fence of a hart at rest goes on at once, its scope clamped. -/
theorem State.afterRelease_eq_clamped {s : State} (c : BitVec 3) (src : BitVec 4) (k : State → Out) (quiet : Quiet s) :
    s.afterRelease c src k = k (clamped s c) := by
  obtain ⟨empty, onTime⟩ := quiet
  rw [State.afterRelease_quiet s c src k empty onTime, State.clamp_eq_clamped]

/-! ### The accesses of the scalar instructions -/

/-- The access begins with a translation: where that one fails, the access fails in the same way. -/
def Translated (f : Agent → Acc α) (va : Word) (n : Nat) : Prop :=
  ∀ w s e u, (∀ acc, locate w acc va n s = .error e u) → f w s = .error e u

theorem bind_of_error {a : Acc α} {f : α → Acc β} {s u : State} {e : Fail} (h : a s = .error e u) : (a >>= f) s = .error e u := by
  show EStateM.bind a f s = _
  rw [EStateM.bind, h]

theorem loadElem_translated (va : Word) (n : Nat) : Translated (fun w => loadElem w va n) va n :=
  fun _ _ _ _ fails => bind_of_error (fails .load)

theorem storeScalar_translated (va : Word) (n x : Nat) : Translated (fun w => storeScalar w va n x) va n := by
  intro w s e u fails
  show (if s.storesWait then _ else storeElem w va n x : Acc Unit) s = _
  split
  · exact bind_of_error (fails .store)
  · exact bind_of_error (fails .store)

/-- Every scalar load and store is an access at its effective address that begins with a translation (05_hart.md R154). -/
theorem exec_accessOf {i : Instr} {n : Nat} {st : Bool} {a : BitVec 6} {im : BitVec 12} (h : accessOf i = some (n, st, a, im)) (s : State) :
    ∃ (α : Type) (f : Agent → Acc α) (k : State → α → Out),
      exec i s = scalarAccess (s.hart.sreg a + im.signExtend 64) n f s k ∧ Translated f (s.hart.sreg a + im.signExtend 64) n := by
  cases i with
  | ld64 | ld32 | ldn32 | ld16 | ldn16 | ld8 | ldn8 | fld64 | fld32 => cases h; exact ⟨_, _, _, rfl, loadElem_translated _ _⟩
  | st64 | st32 | st16 | st8 | fst64 | fst32 => cases h; exact ⟨_, _, _, rfl, storeScalar_translated _ _ _⟩
  | _ => cases h

theorem atomicOp_quiet {s : State} (f : Word → Option Word) (d a : BitVec 6) (c : BitVec 3) (r : BitVec 2) (quiet : Quiet s) :
    ∃ (α : Type) (g : Agent → Acc α) (k : State → α → Out),
      atomicOp f d a c r s = scalarAccess ((clamped s c).hart.sreg a) 8 g (clamped s c) k := by
  unfold atomicOp
  dsimp only
  split
  · exact ⟨_, _, _, State.afterRelease_eq_clamped c 0 _ quiet⟩
  · rw [State.clamp_eq_clamped]
    exact ⟨_, _, _, rfl⟩

/-- Every scalar atomic of a hart at rest clamps its scope and then makes an access of eight bytes (05_hart.md R161). -/
theorem exec_atomicAt {i : Instr} {a : BitVec 6} {c : BitVec 3} (h : atomicAt i = some (a, c)) {s : State} (quiet : Quiet s) :
    ∃ (α : Type) (f : Agent → Acc α) (k : State → α → Out),
      exec i s = scalarAccess ((clamped s c).hart.sreg a) 8 f (clamped s c) k := by
  cases i with
  | amoswap d a b c r => cases h; exact atomicOp_quiet (fun _ => some (s.hart.sreg b)) d a c r quiet
  | amoadd d a b c r => cases h; exact atomicOp_quiet (fun old => some (old + s.hart.sreg b)) d a c r quiet
  | amoand d a b c r => cases h; exact atomicOp_quiet (fun old => some (old &&& s.hart.sreg b)) d a c r quiet
  | amoor d a b c r => cases h; exact atomicOp_quiet (fun old => some (old ||| s.hart.sreg b)) d a c r quiet
  | amomax d a b c r => cases h; exact atomicOp_quiet (fun old => some (if old.slt (s.hart.sreg b) then s.hart.sreg b else old)) d a c r quiet
  | amomaxn d a b c r => cases h; exact atomicOp_quiet (fun old => some (if old.ult (s.hart.sreg b) then s.hart.sreg b else old)) d a c r quiet
  | amocas d a b c r => cases h; exact atomicOp_quiet (fun old => if old = s.hart.sreg d then some (s.hart.sreg b) else none) d a c r quiet
  | ldaq d a c =>
    cases h
    rw [← State.clamp_eq_clamped]
    exact ⟨_, fun w => loadElem w ((s.clamp c).hart.sreg a) 8, _, rfl⟩
  | strl =>
    cases h
    exact ⟨_, _, _, State.afterRelease_eq_clamped _ _ _ quiet⟩
  | _ => cases h

/-! ### Alignment -/

/-- A hart with empty queues has no acquire in progress. -/
theorem Hart.acquiring_quiet {h : Hart} (quiet : h.quiet = true) : h.acquiring = false := by
  obtain ⟨viq, piq, -⟩ := h.quiet_iff.1 quiet
  simp [Hart.acquiring, viq, piq]

/-- A misaligned scalar access of a hart with a handler enters it with `E_ALIGN` (04_memory_model.md R114). -/
theorem scalarAccess_misaligned {s : State} {va : Word} {n : Nat} (f : Agent → Acc α) (k : State → α → Out) (quiet : s.hart.quiet = true)
    (handler : HasHandler s) (misaligned : va.toNat % n ≠ 0) :
    ∃ t, scalarAccess va n f s k = .next t ∧ EntersHandler s t 0x02 0 s.hart.pc va s.hart.ld := by
  refine ⟨s.takeHartTrap eAlign 0 (some va) 0 false, ?_, s.takeHartTrap_enters _ _ _ _ handler rfl⟩
  rw [scalarAccess, Hart.acquiring_quiet quiet, if_neg Bool.false_ne_true, if_pos misaligned, State.raiseFail_quiet s 0 _ quiet]

/-- Settles O10: every scalar load, store and atomic is a `scalarAccess`, which checks the alignment first. -/
theorem misalignedAccess : Obligations.MisalignedAccess := by
  unfold Obligations.MisalignedAccess
  refine ⟨fun s i n st a im hi quiet handler misaligned => ?access, fun s i a c hi quiet handler misaligned => ?atomic⟩
  case access =>
    obtain ⟨α, f, k, executed, -⟩ := exec_accessOf hi s
    rw [executed]
    exact scalarAccess_misaligned f k quiet handler misaligned
  case atomic =>
    obtain ⟨α, f, k, executed⟩ := exec_atomicAt hi quiet
    obtain ⟨empty, -⟩ := quiet
    rw [executed, clamped_sreg, ← clamped_pc s c, ← clamped_ld s c]
    exact scalarAccess_misaligned f k (clamped_quiet c empty) (clamped_hasHandler c handler) misaligned

end Sys2Proof.Machine
end

section
/-!
PROOFS. What the arbiters of a core leave alone: a hart that is not resident, such as one that stands stopped in place (01_engines.md R30).
-/

namespace Sys2Proof.Machine

theorem mem_insertBy {le : α → α → Bool} {x y : α} {ys : List α} (h : x ∈ insertBy le y ys) : x = y ∨ x ∈ ys := by
  induction ys with
  | nil => exact .inl (List.mem_singleton.1 h)
  | cons z zs ih =>
    rw [insertBy] at h
    split at h
    · exact List.mem_cons.1 h
    · rcases List.mem_cons.1 h with rfl | h
      · exact .inr (List.mem_cons_self ..)
      · exact (ih h).imp_right (List.mem_cons_of_mem _)

theorem mem_sortBy {le : α → α → Bool} {x : α} {xs : List α} (h : x ∈ sortBy le xs) : x ∈ xs := by
  induction xs with
  | nil => exact h
  | cons y ys ih =>
    rcases mem_insertBy h with rfl | h
    · exact List.mem_cons_self ..
    · exact List.mem_cons_of_mem _ (ih h)

theorem modAt_getElem_ne (v : Vector α n) (k : Nat) (f : α → α) (i : Fin n) (h : k ≠ i) : (modAt v k f)[i] = v[i] := by
  unfold modAt
  split
  · exact Vector.getElem_set_ne _ _ h
  · rfl

/-- None of some harts of a core is the one of slot `i`. -/
def Apart (core : Nat) (hs : List (Nat × Hart)) (i : Fin 64) : Prop := ∀ x ∈ hs, 4 * core + x.1 ≠ i

/-- Harts with numbers of some others are apart from what those are apart from. -/
theorem Apart.of_numbers {core : Nat} {hs ks : List (Nat × Hart)} {i : Fin 64} (h : Apart core hs i)
    (k : ∀ x ∈ ks, ∃ y ∈ hs, y.1 = x.1) : Apart core ks i := by
  intro x hx
  obtain ⟨y, hy, e⟩ := k x hx
  exact e ▸ h y hy

/-- Putting harts back leaves every other slot as it was. -/
theorem State.putHarts_slot {core : Nat} {hs : List (Nat × Hart)} {i : Fin 64} (h : Apart core hs i) (s : State) :
    (s.putHarts core hs).harts[i] = s.harts[i] := by
  show (hs.foldl _ s.harts)[i] = _
  generalize s.harts = v
  induction hs generalizing v with
  | nil => rfl
  | cons x hs ih =>
    rw [List.foldl_cons, ih fun y hy => h y (List.mem_cons_of_mem _ hy)]
    exact modAt_getElem_ne _ _ _ _ (h x (List.mem_cons_self ..))

theorem State.residents_apart {s : State} {i : Fin 64} (away : s.harts[i].resident = false) (core : Nat) :
    Apart core (s.residents core) i := by
  rintro ⟨k, h⟩ hx e
  obtain ⟨found, resident⟩ := List.mem_filter.1 hx
  obtain ⟨j, -, hj⟩ := List.mem_filterMap.1 found
  obtain ⟨g, hg, eq⟩ := Option.map_eq_some_iff.1 hj
  cases eq
  have : s.harts[i] = h := by
    have at_ : s.harts[i.val]? = some h := e ▸ hg
    simpa using at_
  rw [← this, away] at resident
  cases resident

/-- A round of the stall arbiter serves harts of the round before. -/
theorem State.stallRound_apart {core : Nat} {hs : List (Nat × Hart)} {i : Fin 64} (h : Apart core hs i) (s : State) (ceiling : Nat) :
    Apart core (s.stallRound core ceiling hs) i := by
  unfold State.stallRound
  dsimp only
  split
  · exact h
  · split
    · exact h
    · next first found =>
      refine h.of_numbers fun x hx => ?_
      rcases List.mem_append.1 hx with kept | served
      · exact ⟨x, (List.mem_filter.1 kept).1, rfl⟩
      · exact ⟨first, List.mem_of_find?_eq_some found, by rw [List.mem_singleton.1 served]⟩

/-- The stall arbiter leaves a hart that is not resident as it is. -/
theorem State.arbitrateStalls_slot {s : State} {i : Fin 64} (away : s.harts[i].resident = false) (core : Nat) :
    (s.arbitrateStalls core).harts[i] = s.harts[i] := by
  unfold State.arbitrateStalls
  refine State.putHarts_slot ?_ s
  refine List.foldlRecOn (motive := fun hs => Apart core hs i) _ _ ?_ fun hs h _ _ => s.stallRound_apart h _
  refine (s.residents_apart away core).of_numbers fun x hx => ?_
  obtain ⟨y, hy, rfl⟩ := List.mem_map.1 hx
  exact ⟨y, mem_sortBy hy, rfl⟩

/-- The unit arbiter leaves a hart that is not resident as it is. -/
theorem State.arbitrateUnits_slot {s : State} {i : Fin 64} (away : s.harts[i].resident = false) (core : Nat) :
    (s.arbitrateUnits core).harts[i] = s.harts[i] := by
  refine State.putHarts_slot ((s.residents_apart away core).of_numbers fun x hx => ?_) s
  obtain ⟨y, hy, rfl⟩ := List.mem_map.1 hx
  refine ⟨y, hy, ?_⟩
  dsimp only
  split <;> rfl

/-- A core's ceilings are all that taking effect changes. -/
theorem State.settle_only (s : State) (core : Nat) : ∃ c u, s.settle core = { s with stallCeil := c, unitCeil := u } := by
  unfold State.settle
  dsimp only
  split <;> split <;> exact ⟨_, _, rfl⟩

theorem State.settle_harts (s : State) (core : Nat) : (s.settle core).harts = s.harts := by
  obtain ⟨c, u, h⟩ := s.settle_only core
  rw [h]

/-- What the arbiters of a core can change: the harts and the core's ceilings. -/
theorem State.arbitrate_only (s : State) (core : Nat) :
    ∃ v c u, s.arbitrate core = { s with harts := v, stallCeil := c, unitCeil := u } := by
  obtain ⟨c, u, h⟩ := s.settle_only core
  unfold State.arbitrate State.arbitrateUnits State.putHarts
  unfold State.arbitrateStalls State.putHarts
  rw [h]
  exact ⟨_, c, u, rfl⟩

/-- The arbiters of a core leave a hart that is not resident as it is (01_engines.md R30). -/
theorem State.arbitrate_slot {s : State} {i : Fin 64} (away : s.harts[i].resident = false) (core : Nat) :
    (s.arbitrate core).harts[i] = s.harts[i] := by
  have settled : (s.settle core).harts[i] = s.harts[i] := by rw [State.settle_harts]
  have stalls := State.arbitrateStalls_slot (settled ▸ away) core
  rw [State.arbitrate, State.arbitrateUnits_slot (by rw [stalls, settled]; exact away), stalls, settled]

@[simp] theorem State.arbitrate_mem (s : State) (core : Nat) : (s.arbitrate core).mem = s.mem := by
  obtain ⟨v, c, u, h⟩ := s.arbitrate_only core
  rw [h]

/-- The arbiters of a core leave the hart that moves as it is where it is not resident. -/
theorem State.arbitrate_hart {s : State} (away : s.hart.resident = false) (core : Nat) : (s.arbitrate core).hart = s.hart := by
  have slot := State.arbitrate_slot away core
  obtain ⟨v, c, u, h⟩ := s.arbitrate_only core
  rw [h] at slot ⊢
  exact slot

end Sys2Proof.Machine
end

section
/-!
PROOFS. AddressRange: an address outside the virtual range fails its translation, and a scalar access that fails so is a record.
-/

namespace Sys2Proof.Machine

open Sys2Proof.Claims

/-! ### The translation -/

/-- An address from 2^56 on has a bit of [63:56] set. -/
theorem highBits_ne_zero {va : Word} (h : 2 ^ 56 ≤ va.toNat) : bits va 56 8 ≠ 0 := by
  have below : va.toNat < 2 ^ 64 := va.isLt
  unfold bits
  omega

/-- An access at an address with a bit of [63:56] set raises `E_PAGE` with the whole address (04_memory_model.md R103). -/
theorem locate_outside (s : State) (w : Agent) (acc : Access) {va : Word} (n : Nat) (h : 2 ^ 56 ≤ va.toNat) :
    locate w acc va n s = .error ⟨ePage, va, 0⟩ s := by
  have fails : translate w acc va s = .error ⟨ePage, va, 0⟩ s := by
    unfold translate
    rw [if_pos (highBits_ne_zero h)]
    rfl
  exact bind_of_error fails

/-- The effective address modulo 2^64, with the displacement signed. -/
theorem add_signExtend_eq {x ea : Word} {im : BitVec 12} (h : (ea.toNat : Int) = (x.toNat + im.toInt) % 2 ^ 64) :
    x + im.signExtend 64 = ea := by
  apply BitVec.eq_of_toNat_eq
  rw [BitVec.toNat_add, BitVec.signExtend, BitVec.toNat_ofInt]
  omega

/-! ### The record -/

/-- The hart as a record takes it: it names the record's function and waits at no gate. -/
def Hart.parked (h : Hart) (r : HeldRecord) : Hart := { h with recordFn := r.fn, gateWait := none }

theorem State.post_hart (s : State) (r : HeldRecord) : (s.post r).hart = s.hart := rfl

theorem State.mem_parkForRecord_records (s : State) (h : Hart) (r : HeldRecord) : r ∈ (s.parkForRecord h r).records := by
  unfold State.parkForRecord
  exact List.mem_append_right _ (List.mem_singleton_self r)

/-- Without a free save slot no context is saved. -/
theorem State.saveHart_full {s : State} (full : s.freeSave s.hart.part = none) (waiting : Bool) : s.saveHart s.cur waiting = none := by
  unfold State.saveHart
  have none_free : s.freeSave (BitVec.ofNat 5 (bits s.harts[s.cur].scope 27 5)) = none := full
  simp only [none_free]

/-- A hart without stores that wait and without a save slot to go to stops in place (16_device.md R431). -/
theorem State.parkForRecord_inPlace {s : State} {h : Hart} (r : HeldRecord) (done : h.unperformed = []) (full : s.freeSave h.part = none) :
    s.parkForRecord h r = ((s.setHart { h.parked r with run := .stopped }).arbitrate (s.cur.val / 4)).post r := by
  have hart : (s.setHart (h.parked r)).hart = h.parked r := s.hart_setHart _
  have performed : (s.setHart (h.parked r)).perform s.cur = s.setHart (h.parked r) := State.perform_nil ((congrArg _ hart).trans done)
  have unsaved : (s.setHart (h.parked r)).saveHart s.cur true = none := State.saveHart_full ((congrArg _ (congrArg _ hart)).trans full) true
  unfold State.parkForRecord
  dsimp only
  rw [show { h with recordFn := r.fn, gateWait := none } = h.parked r from rfl, performed]
  simp only [show (s.setHart (h.parked r)).cur = s.cur from rfl, unsaved, hart, State.setHart_setHart]

/-- A hart that has stopped in place is as the trap left it, and no byte of memory changes. -/
theorem State.parkForRecord_stopped {s : State} {h : Hart} (r : HeldRecord) (done : h.unperformed = []) (full : s.freeSave h.part = none) :
    (s.parkForRecord h r).hart = { h.parked r with run := .stopped } ∧ (s.parkForRecord h r).mem = s.mem := by
  have away : (s.setHart { h.parked r with run := .stopped }).hart.resident = false := by rw [State.hart_setHart]; rfl
  rw [State.parkForRecord_inPlace r done full, State.post_hart, State.arbitrate_hart away, State.hart_setHart, State.post_mem,
    State.arbitrate_mem, State.setHart_mem]
  exact ⟨rfl, rfl⟩

/-- The hart as the context that a record of its own trap is for (05_hart.md R149, R165). -/
def Hart.recordEntry (h : Hart) (code : BitVec 8) (src : BitVec 4) (addr : Option Word) : Hart :=
  { h.hartEntry h.pc code src addr with asReturn := true }

/-- The record of a trap of the hart that moves (12_command.md R368). -/
def State.trapRecord (s : State) (code : BitVec 8) (src : BitVec 4) (addr : Option Word) (gpa : Word) : HeldRecord :=
  hartRecord s.hart s.cur code src 0 (epcWord s.hart.pc) (addr.getD s.hart.faddr) 0 (if code = eHpage then gpa else 0)

/-- A trap of the hart outside a handler, for a cause that goes to a record and with no store timed out, is delivered as its record
(04_memory_model.md R111). -/
theorem State.takeHartTrap_record {s : State} {code : BitVec 8} (src : BitVec 4) (addr : Option Word) (gpa : Word) (th : s.hart.th = false)
    (onTime : s.hart.lateStores = []) (record : toRecord code = true) :
    s.takeHartTrap code src addr gpa false =
      (tollFree s).parkForRecord (s.hart.recordEntry code src addr) (s.trapRecord code src addr gpa) := by
  have cur : (tollFree s).cur = s.cur := by unfold tollFree; split <;> rfl
  have tolls : (if s.hart.gateWait.isSome then s.leaveTolls s.cur else s) = tollFree s := rfl
  simp only [State.takeHartTrap, Hart.lateFirst_nil _ _ onTime, State.takeTrap, th, record, tolls, cur, Bool.false_eq_true, if_false, true_or,
    if_true]
  rfl

theorem tollFree_freeSave (s : State) (p : BitVec 5) : (tollFree s).freeSave p = s.freeSave p := by
  unfold tollFree
  split <;> rfl

@[simp] theorem tollFree_mem (s : State) : (tollFree s).mem = s.mem := by
  unfold tollFree
  split <;> rfl

/-- A scalar load or store at an aligned address outside the virtual range is a trap with `E_PAGE` (05_hart.md R154). -/
theorem exec_accessOf_outside {s : State} {i : Instr} {n : Nat} {st : Bool} {a : BitVec 6} {im : BitVec 12} {ea : Word}
    (hi : accessOf i = some (n, st, a, im)) (empty : s.hart.quiet = true)
    (sum : (ea.toNat : Int) = ((s.hart.sreg a).toNat + im.toInt) % 2 ^ 64) (aligned : ea.toNat % n = 0) (high : 2 ^ 56 ≤ ea.toNat) :
    exec i s = .next (s.takeHartTrap ePage 0 (some ea) 0 false) := by
  obtain ⟨α, f, k, executed, translated⟩ := exec_accessOf hi s
  rw [add_signExtend_eq sum] at executed translated
  have fails := translated s.hart.agent s _ _ fun acc => locate_outside s s.hart.agent acc n high
  rw [executed, scalarAccess, Hart.acquiring_quiet empty, if_neg Bool.false_ne_true, if_neg (not_not.2 aligned), fails]
  exact State.raiseFail_quiet s 0 _ empty

/-- Settles O11: the check of bits [63:56] comes first in every translation, and its fault becomes a record, or stops the hart in place. -/
theorem addressRange : Obligations.AddressRange := by
  unfold Obligations.AddressRange
  refine ⟨fun s w acc va n => locate_outside s w acc n, fun s i n st a im ea hi quiet done outside sum aligned high => ?_⟩
  obtain ⟨empty, onTime⟩ := quiet
  rw [exec_accessOf_outside hi empty sum aligned high, State.takeHartTrap_record 0 _ _ outside onTime rfl]
  refine ⟨_, _, rfl, State.mem_parkForRecord_records .., rfl, mkRecord_code .., rfl, fun full => ?_⟩
  have free : (tollFree s).freeSave s.hart.part = none := (tollFree_freeSave s _).trans full
  obtain ⟨stopped, mem⟩ :=
    State.parkForRecord_stopped (h := s.hart.recordEntry ePage 0 (some ea)) (s.trapRecord ePage 0 (some ea) 0) done free
  rw [stopped, SameBytes, mem, tollFree_mem]
  exact ⟨rfl, rfl, rfl, rfl, rfl, fun _ => rfl⟩

end Sys2Proof.Machine
end

section
/-!
PROOFS. ChainContract: the banks and rows of tile memory and TCM, when a lane row keeps the contract, and what breaking it does.
-/

namespace Sys2Proof.Machine

/-! ### Banks and rows -/

theorem levelOf_tile {a : Nat} (h : tileBase ≤ a) (k : a < tileBase + 16 * 0x600000) : levelOf a = .tile ((a - tileBase) / 0x600000) := by
  unfold tileBase at h
  unfold levelOf
  rw [if_neg (by omega), if_neg (by omega), if_neg (by omega), if_neg (by omega), if_pos k]

theorem levelOf_tcm {a : Nat} (h : 0x8100000000 ≤ a) (k : a < 0x8100800000) :
    levelOf a = .tcm ((a - 0x8100000000) / 0x80000) ((a - 0x8100000000) % 0x80000) := by
  unfold levelOf localLevel
  rw [if_pos (by omega), if_neg (by omega), if_neg (by omega), if_neg (by omega), if_neg (by omega), if_pos (by omega)]

theorem bankOf_of_tile {a core : Nat} (h : levelOf a = .tile core) :
    bankOf a = some ((a - tileBase) / 0x6000, (a - tileBase) % 0x6000 / 4) := by
  rw [bankOf, h]

theorem bankOf_of_tcm {a core off : Nat} (h : levelOf a = .tcm core off) :
    bankOf a = some (4096 + 16 * core + off / 8 % 16, off / 128) := by
  rw [bankOf, h]

/-- The bank and the row of a byte of tile memory (06_port.md R183). -/
theorem bankOf_tileLoc {core bank row byte : Nat} (hc : core < 16) (hb : bank < 256) (hr : row < 6144) (hy : byte < 4) :
    bankOf (tileLoc core bank row byte) = some (256 * core + bank, row) := by
  have inside : tileLoc core bank row byte < tileBase + 16 * 0x600000 := by unfold tileLoc; omega
  have above : tileBase ≤ tileLoc core bank row byte := by unfold tileLoc; omega
  have offset : tileLoc core bank row byte - tileBase = (256 * core + bank) * 0x6000 + (4 * row + byte) := by unfold tileLoc; omega
  have place : ((256 * core + bank) * 0x6000 + (4 * row + byte)) / 0x6000 = 256 * core + bank ∧
      ((256 * core + bank) * 0x6000 + (4 * row + byte)) % 0x6000 / 4 = row := by omega
  rw [bankOf_of_tile (levelOf_tile above inside), offset, place.1, place.2]

/-- The bank and the row of a byte of a TCM (06_port.md R184). -/
theorem bankOf_tcm {core o : Nat} (hc : core < 16) (ho : o < 0x80000) :
    bankOf (0x8100000000 + core * 0x80000 + o) = some (4096 + 16 * core + o / 8 % 16, o / 128) := by
  have place : (0x8100000000 + core * 0x80000 + o - 0x8100000000) / 0x80000 = core ∧
      (0x8100000000 + core * 0x80000 + o - 0x8100000000) % 0x80000 = o := by omega
  rw [bankOf_of_tcm (levelOf_tcm (by omega) (by omega)), place.1, place.2]

/-! ### The cost of a lane row -/

theorem foldl_max_le {f : α → Nat} {xs : List α} {k m : Nat} :
    xs.foldl (fun n x => max n (f x)) k ≤ m ↔ k ≤ m ∧ ∀ x ∈ xs, f x ≤ m := by
  induction xs generalizing k with
  | nil => simp
  | cons x xs ih => rw [List.foldl_cons, ih, Nat.max_le, List.forall_mem_cons, and_assoc]

/-- A list without duplicates has at most one item exactly where its items are all the same. -/
theorem length_le_one_iff_of_nodup [DecidableEq α] {xs : List α} (h : xs.Nodup) : xs.length ≤ 1 ↔ ∀ x ∈ xs, ∀ y ∈ xs, x = y := by
  rw [← List.toFinset_card_of_nodup h, Finset.card_le_one]
  simp only [List.mem_toFinset]

/-- A lane row costs 1 at most where it touches no two rows of a bank (06_port.md R185). -/
theorem rowCost_le_one_iff (locs : List Nat) :
    rowCost locs ≤ 1 ↔ ∀ l ∈ locs, ∀ m ∈ locs, ∀ b r r', bankOf l = some (b, r) → bankOf m = some (b, r') → r = r' := by
  have ofBank (b : Nat) : ((locs.filterMap bankOf).dedup.filter (fun q => q.1 == b)).length ≤ 1 ↔
      ∀ x, (x ∈ locs.filterMap bankOf ∧ x.1 = b) → ∀ y, (y ∈ locs.filterMap bankOf ∧ y.1 = b) → x = y := by
    rw [length_le_one_iff_of_nodup ((List.nodup_dedup _).filter _)]
    simp only [List.mem_filter, List.mem_dedup, beq_iff_eq]
  unfold rowCost
  simp only [foldl_max_le, ofBank, List.mem_dedup]
  constructor
  · rintro ⟨-, same⟩ l hl m hm b r r' lies lies'
    have found : (b, r) ∈ locs.filterMap bankOf := List.mem_filterMap.2 ⟨l, hl, lies⟩
    have found' : (b, r') ∈ locs.filterMap bankOf := List.mem_filterMap.2 ⟨m, hm, lies'⟩
    exact congrArg Prod.snd (same (b, r) found (b, r) ⟨found, rfl⟩ (b, r') ⟨found', rfl⟩)
  · intro same
    refine ⟨Nat.zero_le _, fun q _ x hx y hy => ?_⟩
    obtain ⟨found, bank⟩ := hx
    obtain ⟨found', bank'⟩ := hy
    obtain ⟨l, hl, lies⟩ := List.mem_filterMap.1 found
    obtain ⟨m, hm, lies'⟩ := List.mem_filterMap.1 found'
    have banks : x.1 = y.1 := bank.trans bank'.symm
    exact Prod.ext banks (same l hl m hm x.1 x.2 y.2 lies (by rw [lies', banks]))

/-! ### Keeping the contract -/

/-- Host memory breaks the contract of every stage (04_memory_model.md R102). -/
theorem State.offContract_host (s : State) (h : Hart) (va : Word) {l : Nat} (host : levelOf l = .host) :
    s.offContract h va l = true := by
  rw [State.offContract, host]

/-- The bytes that a lane row reaches touch no two rows of a bank (06_port.md R185). -/
def OneRowPerBank (xs : List (Word × List Nat)) : Prop :=
  ∀ p ∈ xs, ∀ q ∈ xs, ∀ l ∈ p.2, ∀ m ∈ q.2, ∀ b r r', bankOf l = some (b, r) → bankOf m = some (b, r') → r = r'

theorem rowCost_flatMap_le_one_iff (xs : List (Word × List Nat)) : rowCost (xs.flatMap (·.2)) ≤ 1 ↔ OneRowPerBank xs := by
  rw [rowCost_le_one_iff]
  simp only [List.mem_flatMap]
  exact ⟨fun same p hp q hq l hl m hm => same l ⟨p, hp, hl⟩ m ⟨q, hq, hm⟩,
    fun same l ⟨p, hp, hl⟩ m ⟨q, hq, hm⟩ => same p hp q hq l hl m hm⟩

/-- When a lane row keeps the contract (09_chain.md R274). -/
theorem State.rowKeeps_iff {s : State} {acc : Access} {n : Nat} {as : List Word} {xs : List (Word × List Nat)}
    (h : s.elemsReach acc n as = some xs) (classed : Bool) :
    s.rowKeeps classed acc n as = true ↔
      (∀ p ∈ xs, ∀ l ∈ p.2, s.offContract s.hart p.1 l = false) ∧ (classed = false ∨ OneRowPerBank xs) := by
  rw [← rowCost_flatMap_le_one_iff, State.rowKeeps, h]
  simp

/-! ### Breaking it -/

/-- A stage whose lane row stands ready is one of the block, and its row is not empty (09_chain.md R270). -/
theorem State.nextRow_some {s : State} {slot start hi top : Nat} {x : Stage} (h : s.nextRow slot = some (x, start, hi, top)) :
    (chainStages s.hart.chain.words)[slot]? = some x ∧ s.hart.chain.pOf slot < top := by
  unfold State.nextRow at h
  dsimp only at h
  split at h
  · cases h
  · next y found =>
    split at h
    · next ready =>
      cases h
      simp only [Chain.ready, Bool.and_eq_true, decide_eq_true_eq] at ready
      obtain ⟨⟨⟨⟨below, -⟩, -⟩, -⟩, -⟩ := ready
      exact ⟨found, below⟩
    · cases h

/-- A stage whose next lane row breaks the contract breaks the run before that row (09_chain.md R274). -/
theorem runConvoy_breaks {s : State} {slot start hi top : Nat} {x : Stage} (rest : List Nat) (h : s.nextRow slot = some (x, start, hi, top))
    (breaks : s.rowBreaks x slot s.hart.chain.et (s.hart.chain.inputs slot start hi top) = true) :
    runConvoy (slot :: rest) s = .ok true (s.contractBreak (BitVec.ofNat 6 slot)) := by
  rw [runConvoy]
  show EStateM.bind EStateM.get _ s = _
  simp only [EStateM.bind, EStateM.get, h]
  exact congrFun (if_pos breaks) s

/-- A standing run that breaks with cause 4 (09_chain.md R284, R288). -/
theorem Hart.breakChain_standing {h : Hart} (standing : h.chain.state = .standing) (stage : BitVec 6) :
    h.breakChain 4 stage = { h with chain := { h.chain with
      state := .temporal, breaks := min 65535 (h.chain.breaks + 1), cause := 4, slot := stage, lent := [], links := 0
      brokeAt := h.chain.p, notBefore := (h.chain.minP / max 1 h.chain.l + 1) * h.chain.l } } := by
  simp [Hart.breakChain, standing]

/-- A run that breaks at this stage broke so in the first lane row since it re-formed for a break of that stage (09_chain.md R288). -/
abbrev Chain.BreaksAgain (ch : Chain) (stage : BitVec 6) : Prop :=
  ch.cause = 4 ∧ ch.slot = stage ∧ ch.reformed = true ∧ ch.pOf stage.toNat < ch.formedAt + ch.rowOf stage.toNat

/-- The chain of a standing run after a broken contract: TEMPORAL with cause 4, and pinned where it broke so again. -/
theorem State.contractBreak_standing {s : State} (stage : BitVec 6) (standing : s.hart.chain.state = .standing) :
    s.contractBreak stage = s.setHart { s.hart with chain := { s.hart.chain with
      state := .temporal, breaks := min 65535 (s.hart.chain.breaks + 1), cause := 4, slot := stage, lent := [], links := 0
      brokeAt := s.hart.chain.p, notBefore := (s.hart.chain.minP / max 1 s.hart.chain.l + 1) * s.hart.chain.l
      pin := s.hart.chain.pin || decide (s.hart.chain.BreaksAgain stage) } } := by
  have again (ch : Chain) : (decide (ch.cause = 4) && decide (ch.slot = stage) && ch.reformed &&
      decide (ch.pOf stage.toNat < ch.formedAt + ch.rowOf stage.toNat)) = decide (ch.BreaksAgain stage) := by
    simp [Bool.and_assoc]
  unfold State.contractBreak
  dsimp only
  rw [again, Hart.breakChain_standing standing]
  split
  · next same => rw [same, Bool.or_true]
  · next other => rw [Bool.eq_false_iff.2 other, Bool.or_false]

/-- Settles O49: clause by clause, from where a byte lies to what a broken contract leaves of the run. -/
theorem chainContract : Obligations.ChainContract := by
  unfold Obligations.ChainContract
  refine ⟨fun core bank row byte => bankOf_tileLoc, fun core o => bankOf_tcm, fun s classed acc n as xs reach => ⟨?host, ?twoRows, ?keeps⟩,
    fun s slot start hi top rest x next => ?ready, fun s stage standing => State.contractBreak_standing stage standing⟩
  case host =>
    rintro ⟨p, hp, l, hl, host⟩
    refine Bool.eq_false_iff.2 fun keeps => ?_
    obtain ⟨within, -⟩ := (State.rowKeeps_iff reach classed).1 keeps
    exact absurd (within p hp l hl) (by rw [s.offContract_host _ _ host]; decide)
  case twoRows =>
    rintro ⟨p, hp, q, hq, l, hl, m, hm, b, r, r', lies, lies', apart⟩
    refine Bool.eq_false_iff.2 fun keeps => ?_
    obtain ⟨-, unclassed | same⟩ := (State.rowKeeps_iff reach true).1 keeps
    · cases unclassed
    · exact apart (same p hp q hq l hl m hm b r r' lies lies')
  case keeps => exact fun within cheap => (State.rowKeeps_iff reach classed).2 ⟨within, cheap⟩
  case ready =>
    obtain ⟨stage, below⟩ := State.nextRow_some next
    exact ⟨stage, below, runConvoy_breaks rest next⟩

end Sys2Proof.Machine
end

section
/-!
PROOFS. TranslationFrame fails: the walker finds a stage-1 entry by one stage-2 walk and sets its A and D through a second one
(04_memory_model.md R110). With a stage-2 root that is no multiple of 8, which ROOT_SET takes (12_command.md R373), the pointer in the root
table can overlap a leaf of the table below it. The A bit that the first walk sets in the leaf then moves the pointer, and the second
walk leads elsewhere: the whole entry is written over bytes that are no table entry.
-/

namespace Sys2Proof.Machine

open Sys2Proof.Claims

/-- A guest of partition 0 (04_memory_model.md R106). -/
def plainGuest : Agent := ⟨false, 0, none, 0, none⟩

/-- Where the stage-1 entry of address 0 lies, in host memory. -/
def entryAt : Nat := 2 ^ 51 + 0x10000

/-- Where the walk that sets its A bit finds it. -/
def movedTo : Nat := 2 ^ 51 + 2 ^ 30 + 0x10000

/-- A stage-2 root table at 0x6FFFE whose pointer, to the table at 0x70000, ends in the first bytes of that table: the third byte of the
pointer is the low byte of the table's first leaf, and with A set there the pointer leads to the table at 0x470000. The two leaves map
the first GiB to different GiB of host memory. The second leaf at 0x70008 maps the stage-1 root table at 2^30, whose pointer leads to
the entry at `entryAt`, a readable leaf without A. -/
def overlappingTables : State :=
  { State.reset with
    roots2 := State.reset.roots2.set 0 0x6FFFE
    funcs := State.reset.funcs.set 0 { Func.reset with root := 0x40000000 }
    mem := [(0x6FFFE, 0x01), (0x70000, 0x07), (0x70006, 0x08), (0x70008, 0x47), (0x7000B, 0x80), (0x7000E, 0x08),
      (0x470000, 0xC7), (0x470003, 0x40), (0x470006, 0x08), (entryAt, 0x03), (2 ^ 51 + 2 ^ 31, 0x01), (2 ^ 51 + 2 ^ 31 + 2, 0x01)] }

/-- The access finds its bytes, and a byte of memory then reads `b`. -/
def leavesByte (a : Nat) (b : Byte) : EStateM.Result Fail State (List Nat) → Bool
  | .ok _ t => Memory.read t.mem a == b
  | .error _ _ => false

theorem leavesByte_iff {a : Nat} {b : Byte} {r : EStateM.Result Fail State (List Nat)} (h : leavesByte a b r = true) :
    ∃ locs t, r = .ok locs t ∧ Memory.read t.mem a = b := by
  cases r with
  | ok locs t => exact ⟨locs, t, rfl, beq_iff_eq.1 h⟩
  | error e t => cases h

theorem overlappingTables_wf : Memory.wf overlappingTables.mem ∧ Memory.read overlappingTables.mem movedTo = 0 := by
  decide +kernel

/-- A load at address 0 leaves the entry, with A, where no entry was. -/
theorem overlappingTables_load : leavesByte movedTo 0x43 (locate plainGuest .load 0 1 overlappingTables) = true := by
  decide +kernel

/-- A byte that a translation has changed from zero has no bit but A and D. -/
theorem onlyAd_of_zero {s t : State} (h : OnlyAd s t) {a : Nat} (zero : Memory.read s.mem a = 0) : Memory.read t.mem a &&& 0x3F = 0 := by
  obtain ⟨m, none_else, set⟩ := h a
  rw [set, zero, show (0 : Byte) ||| m = m from BitVec.zero_or]
  exact none_else

/-- Refutes O8: the load writes the entry, whose V and R are set, over a byte that was zero. -/
theorem not_translationFrame : ¬ Obligations.TranslationFrame := by
  unfold Obligations.TranslationFrame
  intro frame
  obtain ⟨wf, zero⟩ := overlappingTables_wf
  obtain ⟨locs, t, found, entry⟩ := leavesByte_iff overlappingTables_load
  obtain ⟨⟨onlyAd, -⟩, -⟩ := frame overlappingTables t plainGuest .load 0 1 locs wf found
  have left := onlyAd_of_zero onlyAd zero
  rw [entry] at left
  exact absurd left (by decide)

end Sys2Proof.Machine
end

section
/-!
PROOFS. Pieces of work: an access and what it is part of do not look at the queues of the hart, and an entry of the PIQ that nothing holds
back is taken at once.
-/

namespace Sys2Proof.Machine

open Sys2Proof.Claims

/-! ### What a computation ends in -/

/-- The outcome of a computation with its state changed. -/
def Ended.mapState (f : State → State) : EStateM.Result ε State α → EStateM.Result ε State α
  | .ok x t => .ok x (f t)
  | .error e t => .error e (f t)

theorem run_bind_ok {a : EStateM ε State α} {s t : State} {x : α} (h : a s = .ok x t) (f : α → EStateM ε State β) : (a >>= f) s = f x t := by
  show EStateM.bind a f s = _
  rw [EStateM.bind, h]

theorem run_bind_error {a : EStateM ε State α} {s t : State} {e : ε} (h : a s = .error e t) (f : α → EStateM ε State β) :
    (a >>= f) s = .error e t := by
  show EStateM.bind a f s = _
  rw [EStateM.bind, h]

/-- What a sequence of two computations that ends well has passed through. -/
theorem exists_of_run_bind_ok {a : EStateM ε State α} {f : α → EStateM ε State β} {s u : State} {y : β} (h : (a >>= f) s = .ok y u) :
    ∃ x t, a s = .ok x t ∧ f x t = .ok y u := by
  cases ha : a s with
  | ok x t => exact ⟨x, t, rfl, (run_bind_ok ha f).symm.trans h⟩
  | error e t => rw [run_bind_error ha f] at h; cases h

/-! ### The hart that moves, changed -/

/-- The package with the hart that moves changed. -/
def State.mapHart (s : State) (g : Hart → Hart) : State := s.setHart (g s.hart)

@[simp] theorem State.mapHart_hart (s : State) (g : Hart → Hart) : (s.mapHart g).hart = g s.hart := State.hart_setHart ..

@[simp] theorem State.mapHart_mapHart (s : State) (g f : Hart → Hart) : (s.mapHart g).mapHart f = s.mapHart fun h => f (g h) := by
  simp [State.mapHart]

@[simp] theorem State.mapHart_id (s : State) : s.mapHart id = s := State.setHart_hart s

/-! ### Pieces of work -/

/-- The package with another piece of work in hand. -/
def State.atWork (s : State) (k : Option Work) : State := { s with work := k }

theorem State.atWork_work (s : State) : s.atWork s.work = s := rfl

/-- Within a piece of work another one is part of it. -/
theorem working_of_isSome (m : EStateM ε State α) {s : State} (h : s.work.isSome = true) : working m s = m s := if_pos h

/-- A piece of work begins with nothing kept and is closed at its end. -/
theorem working_of_none (m : EStateM ε State α) {s : State} (h : s.work = none) :
    working m s = Ended.mapState State.closeWork (m (s.atWork (some ⟨[], []⟩))) := by
  unfold working
  rw [h]
  refine (if_neg (by decide)).trans ?_
  show (match m (s.atWork _) with | .ok x s => _ | .error e s => _) = _
  cases m (s.atWork (some ⟨[], []⟩)) <;> rfl

/-- What makes no access is the same as a piece of work (04_memory_model.md R112). -/
theorem working_eq {m : EStateM ε State α} {s : State} {r : EStateM.Result ε State α}
    (h : ∀ k, m (s.atWork k) = Ended.mapState (·.atWork k) r) (kept : Ended.mapState (·.atWork s.work) r = r) : working m s = r := by
  cases hw : s.work with
  | some k => rw [working_of_isSome m (by rw [hw]; rfl), ← kept, ← h]; rfl
  | none =>
    rw [working_of_none m hw, h, ← kept, hw]
    cases r <;> rfl

/-- What traps without an access traps so as a piece of work, whatever guest-physical address it names. -/
theorem working_trap {m : Run α} {s u : State} {code : BitVec 8} {src : BitVec 4} {addr : Option Word} {ei : Nat}
    (h : ∀ k, ∃ gpa, m (s.atWork k) = .error (.trap code src addr gpa ei) (u.atWork k)) (kept : u.work = s.work) :
    ∃ gpa, working m s = .error (.trap code src addr gpa ei) u := by
  cases hw : s.work with
  | some k =>
    obtain ⟨gpa, trapped⟩ := h s.work
    refine ⟨gpa, (working_of_isSome m (by rw [hw]; rfl)).trans (trapped.trans ?_)⟩
    rw [← kept, State.atWork_work]
  | none =>
    obtain ⟨gpa, trapped⟩ := h (some ⟨[], []⟩)
    refine ⟨gpa, ?_⟩
    rw [working_of_none m hw, trapped, ← State.atWork_work u, kept, hw]
    rfl

/-! ### An entry alone in the PIQ -/

/-- The engines of a hart whose queues are empty have nothing to take. -/
theorem State.pumpFor_quiet {s : State} (h : s.hart.quiet = true) (fuel : Nat) : s.pumpFor fuel = (false, s) := by
  obtain ⟨v, p, m⟩ := s.hart.quiet_iff.1 h
  have order : s.hart.queueOrder = [] := by
    simp [Hart.queueOrder, Hart.attached, Hart.headOrder, Hart.queueOf, v, p, m, sortBy]
  cases fuel with
  | zero => rfl
  | succ fuel => rw [State.pumpFor, order]; rfl

/-- An entry is alone in the queues of a hart, in the PIQ. -/
structure Hart.AloneInPiq (h : Hart) (e : Entry) : Prop where
  /-- The VIQ is empty. -/
  viq : h.viq = []
  /-- The entry stands in the PIQ. -/
  piq : h.piq = [e]
  /-- The MIQ is empty. -/
  miq : h.miq = []

/-- The engines take the entry that is alone in the PIQ. -/
theorem State.pumpFor_piq {s : State} {e : Entry} (h : s.hart.AloneInPiq e) (fuel : Nat) :
    s.pumpFor (fuel + 1) = match s.tryHead 2 e e.body with
      | .waits s => (false, s)
      | .trapped s => (true, s)
      | .moved s => s.pumpFor fuel := by
  obtain ⟨v, p, m⟩ := h
  have order : s.hart.queueOrder = [2] := by
    simp [Hart.queueOrder, Hart.attached, Hart.headOrder, Hart.queueOf, v, p, m, sortBy, insertBy]
  have unblocked : s.hart.blocked e = false := by
    unfold Hart.blocked
    split <;> simp [v, p, m]
  have head : s.hart.queueOf 2 = [e] := p
  have taken : s.takeOther 2 = s.tryHead 2 e e.body := by
    simp only [State.takeOther, head, unblocked, Bool.false_eq_true, if_false]
  rw [State.pumpFor, order, State.takeOne, if_neg (by decide), taken]
  cases s.tryHead 2 e e.body <;> rfl

/-- A hart with an entry in the PIQ, past the instruction at which the hart was `h`. -/
def Hart.holding (g : Hart) (e : Entry) (h : Hart) : Hart := { g with piq := [e], nextSeq := h.nextSeq + 1, pc := h.pc + 4, ld := 0 }

/-- A hart past the instruction at which it was `h`, its entry done with. -/
def Hart.after (g h : Hart) : Hart := { g with pc := h.pc + 4, ld := 0, nextSeq := h.nextSeq + 1 }

theorem Hart.popQueue_holding {g : Hart} (empty : g.piq = []) (e : Entry) (h : Hart) : (g.holding e h).popQueue 2 = g.after h := by
  show { g.after h with piq := ([] : List Entry) } = g.after h
  rw [← empty]
  rfl

theorem Hart.quiet_after (g h : Hart) : (g.after h).quiet = g.quiet := rfl

/-- A hart whose instruction has just been enqueued in the PIQ. -/
def Hart.issued (e : Entry) (h : Hart) : Hart := h.holding e h

theorem Hart.issued_alone {h : Hart} (quiet : h.quiet = true) (e : Entry) : (h.issued e).AloneInPiq e := by
  obtain ⟨v, -, m⟩ := h.quiet_iff.1 quiet
  exact ⟨v, rfl, m⟩

/-- An instruction that draws nothing from the generator, and waits for no `chform` or `chfree` (03_arithmetic.md R88; 09_chain.md R268). -/
structure Plain (i : Instr) : Prop where
  /-- Its entry takes no draw. -/
  undrawn : ∀ h ops, Hart.draws h i ops = none
  /-- It is no run. -/
  ready : ∀ h, Hart.runWaits h i = false

/-- The entry that an instruction with some scalar operands becomes. -/
def State.entry (s : State) (i : Instr) (rs : List (BitVec 6)) : Entry := entryOf s.hart i (rs.map s.hart.sreg)

/-- The hart as an engine finds it that has taken up the entry of an instruction. -/
theorem State.issued_hart (s : State) (e : Entry) (k : Option Work) : ((s.mapHart (Hart.issued e)).atWork k).hart = s.hart.issued e :=
  State.hart_setHart ..

/-- An instruction of the PIQ that nothing holds back is enqueued, and the engines take its entry (01_engines.md R13 to R16). -/
theorem issue_piq {s : State} {i : Instr} (free : Free s i) (plain : Plain i) (rs : List (BitVec 6)) :
    issue i 2 rs s = .next ((s.mapHart (Hart.issued (s.entry i rs))).pumpFor 2).2 := by
  obtain ⟨quiet, engines, noUnits, srq, bq⟩ := free
  obtain ⟨undrawn, ready⟩ := plain
  obtain ⟨v, p, m⟩ := s.hart.quiet_iff.1 quiet
  have acquiring : s.hart.acquiring = false := Hart.acquiring_quiet quiet
  have room : s.hart.hasRoom i 2 = true := by
    simp only [Hart.hasRoom, Hart.queueOf, v, p, m]
    cases k : givesSrq i <;> cases l : givesBq i <;> simp_all [queueCap]
  have enqueued : s.setHart (s.hart.enqueue i 2 (rs.map s.hart.sreg)) = s.mapHart (Hart.issued (s.entry i rs)) := by
    simp [Hart.enqueue, undrawn, Hart.modQueueOf, Hart.retire, p, State.entry, entryOf, State.mapHart, Hart.issued, Hart.holding, word]
  have alone := Hart.issued_alone quiet (s.entry i rs)
  have pumped : (s.mapHart (Hart.issued (s.entry i rs))).pump = (s.mapHart (Hart.issued (s.entry i rs))).pumpFor 2 := by
    have units : (s.mapHart (Hart.issued (s.entry i rs))).unitsApply = s.mapHart (Hart.issued (s.entry i rs)) := by
      rw [State.unitsApply, State.mapHart_hart]
      exact if_neg (by rw [show ((s.hart.issued (s.entry i rs)).unitsDue) = s.hart.unitsDue from rfl, noUnits]; decide)
    obtain ⟨v, p, m⟩ := alone
    rw [State.pump, units, State.mapHart_hart, v, p, m]
    exact if_neg (by rw [show (s.mapHart (Hart.issued (s.entry i rs))).engines = s.engines from rfl, engines, Hart.quiet, p]; simp)
  simp only [issue, acquiring, room, ready, enqueued, pumped, Bool.not_true, Bool.or_self, Bool.false_eq_true, if_false]

section
variable {s u : State} {i : Instr} {rs : List (BitVec 6)} (free : Free s i) (plain : Plain i)
include free plain

/-- An entry that completes leaves the PIQ. -/
theorem issue_piq_ok {g : Hart} {e : Entry} (h : working (runEntry (s.entry i rs)) (s.mapHart (Hart.issued (s.entry i rs))) =
    .ok () (u.setHart (g.holding e s.hart))) (quiet : g.quiet = true) : issue i 2 rs s = .next (u.setHart (g.after s.hart)) := by
  have alone := Hart.issued_alone free.1 (s.entry i rs)
  obtain ⟨-, empty, -⟩ := g.quiet_iff.1 quiet
  rw [issue_piq free plain, State.pumpFor_piq (by rw [State.mapHart_hart]; exact alone)]
  have body : (s.entry i rs).body (s.mapHart (Hart.issued (s.entry i rs))) = .ok () (u.setHart (g.holding e s.hart)) := h
  simp only [State.tryHead, body, State.hart_setHart, Hart.popQueue_holding empty, State.setHart_setHart]
  rw [State.pumpFor_quiet (by rw [State.hart_setHart, Hart.quiet_after]; exact quiet)]

/-- An entry that traps. -/
theorem issue_piq_trap {code : BitVec 8} {src : BitVec 4} {addr : Option Word} {gpa : Word} {ei : Nat}
    (h : working (runEntry (s.entry i rs)) (s.mapHart (Hart.issued (s.entry i rs))) = .error (.trap code src addr gpa ei) u) :
    issue i 2 rs s = .next (u.takeEngineTrap 2 code src addr gpa ei) := by
  have alone := Hart.issued_alone free.1 (s.entry i rs)
  rw [issue_piq free plain, State.pumpFor_piq (by rw [State.mapHart_hart]; exact alone)]
  have body : (s.entry i rs).body (s.mapHart (Hart.issued (s.entry i rs))) = .error (.trap code src addr gpa ei) u := h
  simp only [State.tryHead, body]

/-- An entry that waits, and not on fabric work. -/
theorem issue_piq_wait (h : working (runEntry (s.entry i rs)) (s.mapHart (Hart.issued (s.entry i rs))) = .error .wait u)
    (elsewhere : u.hart.onFabric i = false) : issue i 2 rs s = .next u := by
  have alone := Hart.issued_alone free.1 (s.entry i rs)
  rw [issue_piq free plain, State.pumpFor_piq (by rw [State.mapHart_hart]; exact alone)]
  have body : (s.entry i rs).body (s.mapHart (Hart.issued (s.entry i rs))) = .error .wait u := h
  have instr : (s.entry i rs).instr = i := rfl
  simp only [State.tryHead, body, instr, elsewhere, Bool.and_false, Bool.false_eq_true, if_false]

/-- An entry that completes and changes only the hart. -/
theorem issue_piq_hart {f : Hart → Hart} {g : Hart} {e : Entry}
    (h : ∀ k, runEntry (s.entry i rs) ((s.mapHart (Hart.issued (s.entry i rs))).atWork k) =
      .ok () (((s.mapHart (Hart.issued (s.entry i rs))).atWork k).mapHart f))
    (same : f (s.hart.issued (s.entry i rs)) = g.holding e s.hart) (quiet : g.quiet = true) :
    issue i 2 rs s = .next (s.setHart (g.after s.hart)) := by
  have mapped : (s.mapHart (Hart.issued (s.entry i rs))).mapHart f = s.setHart (g.holding e s.hart) := by
    rw [State.mapHart_mapHart, ← same]; rfl
  refine issue_piq_ok free plain (e := e) ?_ quiet
  rw [← mapped]
  exact working_eq h rfl

end

end Sys2Proof.Machine
end

section
/-!
PROOFS. Copies: the copies of the port engine on each state of a token.
-/

namespace Sys2Proof.Machine

open Sys2Proof.Claims

/-! ### Traps of the PIQ -/

/-- The trap of an engine holds the queues, with the head of its own at the beginning (01_engines.md R20). -/
theorem Hart.engineEntry_heldPiq {h : Hart} {e : Entry} (alone : h.AloneInPiq e) (code : BitVec 8) (src : BitVec 4) (addr : Option Word)
    (ei : Nat) :
    (heldOf (h.engineEntry 2 code src addr ei).held 2).map (fun e => (e.instr, e.prog)) = [(e.instr, 0)] ∧
    ∀ p ∈ [1, 2, 3], p ≠ 2 → heldOf (h.engineEntry 2 code src addr ei).held p = [] := by
  obtain ⟨v, p, m⟩ := alone
  simp [Hart.engineEntry, heldOf, Hart.modQueueOf, v, p, m, modHead]

/-- An entry alone in the PIQ stays so as its trap finds it. -/
theorem Hart.AloneInPiq.atTrap {h : Hart} {e : Entry} (alone : h.AloneInPiq e) : (h.atTrap 2 e).AloneInPiq (h.sized e) := by
  obtain ⟨v, p, m⟩ := alone
  exact ⟨v, congrArg (modHead _) p, m⟩

theorem tollFree_mapHart (s : State) {g : Hart → Hart} (kept : (g s.hart).gateWait = s.hart.gateWait) :
    tollFree (s.mapHart g) = (tollFree s).mapHart g := by
  unfold tollFree
  rw [State.mapHart_hart, kept]
  split <;> rfl

/-- An entry of the PIQ that its engine stops at its first element (01_engines.md R20; 05_hart.md R165). -/
theorem engineTraps_piq {s : State} {e : Entry} (quiet : s.hart.quiet = true) (handler : HasHandler s) (start : e.prog = 0)
    (pc : e.pc = s.hart.pc) (access : e.isAccess = false) {code : BitVec 8} (src : BitVec 4) (addr : Option Word) (gpa : Word)
    (hc : toRecord code = false) :
    EngineTraps s ((s.mapHart (Hart.issued e)).takeEngineTrap 2 code src addr gpa 0) e.instr 2 code src (addr.getD s.hart.faddr) := by
  have alone : (s.mapHart (Hart.issued e)).hart.AloneInPiq e := by rw [State.mapHart_hart]; exact Hart.issued_alone quiet e
  have handler' : HasHandler (s.mapHart (Hart.issued e)) := by rw [HasHandler, State.mapHart_hart]; exact handler
  have head : ((s.mapHart (Hart.issued e)).hart.queueOf 2).head? = some e := congrArg List.head? alone.piq
  have enters := entersEngine_takeEngineTrap (src := src) (addr := addr) (gpa := gpa) head handler' hc
  have held := Hart.engineEntry_heldPiq alone.atTrap code src addr 0
  have entered := State.takeEngineTrap_handler (src := src) (addr := addr) (gpa := gpa) head handler' hc
  rw [show e.prog.toNat = 0 by rw [start]; rfl] at enters entered
  have same : ((s.mapHart (Hart.issued e)).takeEngineTrap 2 code src addr gpa 0).hart.held =
      (((s.mapHart (Hart.issued e)).hart.atTrap 2 e).engineEntry 2 code src addr 0).held := by
    rw [entered, State.hart_setHart]
  rw [← same, Hart.sized_instr] at held
  obtain ⟨piq, others⟩ := held
  obtain ⟨cause, ei, epc, faddr, -, queue, heldPc, heldLd, heldSrq, heldBq, th, heldBit, status, state⟩ := enters
  generalize (s.mapHart (Hart.issued e)).takeEngineTrap 2 code src addr gpa 0 = t at *
  rw [State.mapHart_hart] at *
  have zero : t.hart.ei = 0 := ei.trans (by rw [start]; rfl)
  refine ⟨cause, zero, epc.trans (by rw [pc]), faddr, piq, others, queue, heldPc, heldLd, heldSrq, heldBq, th, heldBit, status,
    fun _ => ?rng, ?state⟩
  case rng => rw [state, State.hart_setHart]; rfl
  case state =>
    have rng : t.hart.rng = s.hart.rng := by rw [state, State.hart_setHart]; rfl
    have chain : ((s.hart.issued e).breakChain 8 0).chain = (s.hart.breakChain 8 0).chain :=
      Hart.breakChain_chain_congr (h := s.hart.issued e) (k := s.hart) rfl 8 0
    have cmask : stoppedMask e (s.hart.issued e).cmask = s.hart.cmask := if_neg (by simp [access])
    rw [tollFree_mapHart s rfl, chain, cmask, zero] at state
    rw [rng]
    obtain ⟨v, p, m⟩ := s.hart.quiet_iff.1 quiet
    refine state.trans ?_
    simp only [State.mapHart, State.setHart_setHart, v, p, m]
    rfl


/-- An entry of the PIQ, of which only AUX may have changed, that traps at its first element without an access. -/
theorem exists_engineTraps_piq {s : State} {i : Instr} {rs : List (BitVec 6)} (free : Free s i) (plain : Plain i) (handler : HasHandler s)
    (access : (s.entry i rs).isAccess = false) {code : BitVec 8} {src : BitVec 4} {addr : Option Word} (hc : toRecord code = false) (aux : Word)
    (h : ∀ k, ∃ gpa, runEntry (s.entry i rs) ((s.mapHart (Hart.issued (s.entry i rs))).atWork k) =
      .error (.trap code src addr gpa 0) ((s.mapHart (Hart.issued { s.entry i rs with aux := aux })).atWork k)) :
    ∃ t, issue i 2 rs s = .next t ∧ EngineTraps s t i 2 code src (addr.getD s.hart.faddr) := by
  obtain ⟨gpa, trapped⟩ := working_trap h rfl
  exact ⟨_, issue_piq_trap free plain trapped,
    engineTraps_piq (e := { s.entry i rs with aux := aux }) free.1 handler rfl rfl access src addr gpa hc⟩

/-! ### What a fresh entry does -/

theorem entry_skipped (s : State) (i : Instr) (rs : List (BitVec 6)) : (s.entry i rs).skipped = false := by
  simp [Entry.skipped, State.entry, entryOf]

theorem entry_prog (s : State) (i : Instr) (rs : List (BitVec 6)) : (s.entry i rs).prog = 0 := rfl

theorem theHart_bind (f : Hart → Run α) (s : State) : (theHart >>= f) s = f s.hart s := rfl

theorem waitUnless_bind {b : Bool} (h : b = true) (f : Unit → Run α) (s : State) : (waitUnless b >>= f) s = f () s := by
  subst h; rfl

/-- Where no store has timed out, an instruction that orders stores goes on (04_memory_model.md R141). -/
theorem lateTrap_bind {s : State} (onTime : s.hart.lateStores = []) (src : BitVec 4) (f : Unit → Run α) :
    (lateTrap src >>= f) s = f () s := by
  have nothing : lateTrap src s = .ok () s := by
    rw [lateTrap, theHart_bind, Hart.takeLate_nil _ _ onTime]; rfl
  exact run_bind_ok nothing f

/-! ### The entries of the copies -/

section
variable {e : Entry} {k : BitVec 4} {s : State} {tk : Token} (found : s.hart.copy k = tk)

theorem copyStart_starts {dst src len : Word} (fresh : e.skipped = false) (short : len.toNat < 2 ^ 40)
    (apart : rangesMeet dst src len.toNat = false) (found : s.hart.copy k = tk) (idle : tk.state ≠ .busy) :
    copyStart e k dst src len s = .ok () (s.mapHart (·.modCopy k fun _ =>
      { Token.reset with state := if len = 0 then .done else .busy, dst := dst, src := src, len := len })) := by
  subst found
  have legal : ¬ (2 ^ 40 ≤ len.toNat ∨ rangesMeet dst src len.toNat = true) := by
    rw [apart]; simpa using short
  rw [copyStart, fresh, if_neg Bool.false_ne_true, if_neg legal, theHart_bind, waitUnless_bind (by simpa using idle)]
  rfl

theorem copyStart_traps {dst src len : Word} (fresh : e.skipped = false)
    (illegal : 2 ^ 40 ≤ len.toNat ∨ rangesMeet dst src len.toNat = true) :
    copyStart e k dst src len s = .error (.trap eOperand 2 none 0 0) s := by
  rw [copyStart, fresh, if_neg Bool.false_ne_true, if_pos illegal]
  rfl

include found in
theorem copyTest_eq (fresh : e.skipped = false) :
    copyTest e k s = .ok () (s.mapHart fun h => { h with bq := h.bq ++ [⟨boolWord (tk.state ≠ .busy), 2⟩] }) := by
  subst found
  have idle : (!e.skipped && (s.hart.copy k).state != .busy) = decide ((s.hart.copy k).state ≠ .busy) := by
    rw [fresh]
    cases (s.hart.copy k).state <;> rfl
  rw [copyTest, theHart_bind, idle]
  rfl

/-- The head of the PIQ with its retry mark set or cleared (06_port.md R197; 13_context.md R382). -/
def Entry.marked (b : Bool) (e : Entry) : Entry := { e with aux := withBit e.aux 0 b }

/-- The hart with that mark of the head of its PIQ. -/
def Hart.markHead (b : Bool) (h : Hart) : Hart := { h with piq := modHead (Entry.marked b) h.piq }

variable (fresh : e.prog = 0) (onTime : s.hart.lateStores = [])
include found fresh onTime

theorem copyWait_done (done : tk.state = .done) : copyWait e k s = .ok () s := by
  subst found
  rw [copyWait, if_neg (by simp [fresh]), lateTrap_bind onTime, theHart_bind]
  simp only [done]
  rfl

theorem copyWait_busy (busy : tk.state = .busy) : copyWait e k s = .error .wait (s.mapHart (Hart.markHead false)) := by
  subst found
  rw [copyWait, if_neg (by simp [fresh]), lateTrap_bind onTime, theHart_bind]
  simp only [busy]
  rfl

/-- A `cwait` that is not marked as a retry raises the fault of its token, and is marked (06_port.md R197). -/
theorem copyWait_fault (unmarked : e.aux.getLsbD 0 = false) (fault : tk.state = .fault) :
    ∃ gpa, copyWait e k s = .error (.trap tk.cause 2 (some tk.addr) gpa 0) (s.mapHart (Hart.markHead true)) := by
  subst found
  rw [copyWait, if_neg (by simp [fresh]), lateTrap_bind onTime, theHart_bind]
  simp only [fault, unmarked, Bool.false_eq_true, if_false]
  exact ⟨_, rfl⟩

end

/-! ### The instructions -/

/-- The token of a copy that starts (06_port.md R195). -/
def startedCopy (h : Hart) (a b c : BitVec 6) : Token :=
  { Token.reset with state := if h.sreg c = 0 then .done else .busy, dst := h.sreg a, src := h.sreg b, len := h.sreg c }

theorem plain_acopy (a b c : BitVec 6) (k : BitVec 4) : Plain (.acopy a b c k) := ⟨fun _ _ => rfl, fun _ => rfl⟩

theorem plain_cwait (k : BitVec 4) : Plain (.cwait k) := ⟨fun _ _ => rfl, fun _ => rfl⟩

theorem plain_ctest (k : BitVec 4) : Plain (.ctest k) := ⟨fun _ _ => rfl, fun _ => rfl⟩

/-- The token of an entry is the one that the hart had before it was enqueued. -/
theorem issued_copy (s : State) (e : Entry) (κ : Option Work) (k : BitVec 4) :
    ((s.mapHart (Hart.issued e)).atWork κ).hart.copy k = s.hart.copy k := by
  rw [State.issued_hart]; rfl

theorem issued_lateStores {s : State} (onTime : s.hart.lateStores = []) (e : Entry) (κ : Option Work) :
    ((s.mapHart (Hart.issued e)).atWork κ).hart.lateStores = [] := by
  rw [State.issued_hart]; exact onTime

theorem Hart.copy_modCopy_ne (h : Hart) {k j : BitVec 4} (f : Token → Token) (apart : j ≠ k) : (h.modCopy k f).copy j = h.copy j :=
  Vector.getElem_set_ne k.isLt j.isLt fun e => apart (BitVec.eq_of_toNat_eq e.symm)

/-- Marking the head of the PIQ, of an entry that is alone there. -/
theorem State.issued_markHead (s : State) (e : Entry) (b : Bool) :
    (s.mapHart (Hart.issued e)).mapHart (Hart.markHead b) = s.mapHart (Hart.issued (e.marked b)) :=
  State.mapHart_mapHart ..

/-- Settles O36: each entry is taken at once, and does what its token's state says. -/
theorem copies : Obligations.Copies := by
  unfold Obligations.Copies
  refine ⟨fun s a b c k free short apart idle => ?starts, fun s a b c k free handler illegal => ?traps, fun s k free onTime done => ?done,
    fun s k free onTime fault handler code => ?fault, fun s k free onTime busy => ?busy, fun s k free => ?test⟩
  case starts =>
    have started := issue_piq_hart free (plain_acopy a b c k) (rs := [a, b, c]) (g := s.hart.modCopy k fun _ => startedCopy s.hart a b c)
      (fun κ => copyStart_starts (entry_skipped ..) short apart (issued_copy ..) idle) rfl free.1
    refine ⟨_, started, ?_⟩
    rw [State.hart_setHart]
    exact ⟨rfl, Hart.copy_modCopy s.hart k fun _ => startedCopy s.hart a b c, fun j apart =>
      Hart.copy_modCopy_ne s.hart (fun _ => startedCopy s.hart a b c) apart⟩
  case traps =>
    exact exists_engineTraps_piq free (plain_acopy a b c k) (rs := [a, b, c]) handler rfl rfl 0 fun κ =>
      ⟨0, copyStart_traps (entry_skipped ..) illegal⟩
  case done =>
    exact ⟨_, issue_piq_hart free (plain_cwait k) (rs := []) (g := s.hart) (f := id) (fun κ =>
      (copyWait_done (issued_copy ..) (entry_prog ..) (issued_lateStores onTime ..) done).trans (by rw [State.mapHart_id])) rfl free.1, rfl⟩
  case fault =>
    refine exists_engineTraps_piq (addr := some (s.hart.copy k).addr) free (plain_cwait k) (rs := []) handler rfl
      (toHandler_codes code).1 ((s.entry (.cwait k) []).marked true).aux fun κ => ?_
    obtain ⟨gpa, raised⟩ := copyWait_fault (issued_copy s _ κ k) (entry_prog s (.cwait k) []) (issued_lateStores onTime _ κ)
      BitVec.getLsbD_zero fault
    exact ⟨gpa, raised.trans (congrArg (fun t : State => EStateM.Result.error _ (t.atWork κ)) (s.issued_markHead _ true))⟩
  case busy =>
    have waits := working_eq (r := .error .wait (s.mapHart (Hart.issued ((s.entry (.cwait k) []).marked false)))) (fun κ =>
      (copyWait_busy (issued_copy s _ κ k) (entry_prog s (.cwait k) []) (issued_lateStores onTime _ κ) busy).trans
      (congrArg (fun t : State => EStateM.Result.error _ (t.atWork κ)) (s.issued_markHead _ false))) rfl
    refine ⟨_, issue_piq_wait free (plain_cwait k) (rs := []) waits rfl, ?_⟩
    rw [State.mapHart_hart]
    exact ⟨rfl, rfl, rfl⟩
  case test =>
    exact ⟨_, issue_piq_hart free (plain_ctest k) (rs := [])
      (g := { s.hart with bq := s.hart.bq ++ [⟨boolWord ((s.hart.copy k).state ≠ .busy), 2⟩] })
      (fun κ => copyTest_eq (issued_copy ..) (entry_skipped ..)) rfl free.1, rfl⟩

end Sys2Proof.Machine
end

section
/-!
PROOFS. ElementAccess: the access of one element, of whole bytes or of a half of a byte.
-/

namespace Sys2Proof.Machine

open Sys2Proof.Claims

/-! ### The places of an access -/

theorem length_of_mapM_ok {f : α → EStateM ε State β} {xs : List α} {ys : List β} {s t : State} (h : xs.mapM f s = .ok ys t) :
    ys.length = xs.length := by
  induction xs generalizing ys s with
  | nil => cases h; rfl
  | cons x xs ih =>
    rw [List.mapM_cons] at h
    obtain ⟨y, u, -, rest⟩ := exists_of_run_bind_ok h
    obtain ⟨zs, v, tail, last⟩ := exists_of_run_bind_ok rest
    cases last
    exact congrArg (· + 1) (ih tail)

/-- An access of `n` bytes finds `n` places. -/
theorem length_of_locate_ok {w : Agent} {acc : Access} {va : Word} {n : Nat} {s t : State} {locs : List Nat}
    (h : locate w acc va n s = .ok locs t) : locs.length = n := by
  obtain ⟨target, u, -, found⟩ := exists_of_run_bind_ok h
  cases target with
  | phys pa =>
    obtain ⟨v, u', -, found⟩ := exists_of_run_bind_ok (a := (get : Acc State)) found
    split at found
    · cases found
      simp
    · cases found
  | tile =>
    obtain ⟨v, u', -, found⟩ := exists_of_run_bind_ok (a := (get : Acc State)) found
    rw [length_of_mapM_ok found, List.length_range]

/-! ### Storing bytes -/

/-- Bytes written at places that no bad granule holds and that differ from each other. -/
theorem State.writeLocs_storesAt {s : State} (fn : BitVec 8) (addr : Word) {locs : List Nat} {n : Nat} (x : Nat) (size : locs.length = n)
    (good : ∀ l ∈ locs, s.badAt l = false) (apart : locs.Nodup) (wf : Memory.wf s.mem) :
    let t := s.writeLocs fn addr (locs.zip (toBytes n x))
    t = { s with mem := t.mem } ∧ StoresAt s t locs x := by
  have places : (locs.zip (toBytes n x)).map Prod.fst = locs := List.map_fst_zip (by rw [toBytes_length, size])
  have written := s.writeLocs_good fn addr (locs.zip (toBytes n x)) fun c hc => good _ (by rw [← places]; exact List.mem_map_of_mem hc)
  intro t
  refine ⟨?_, fun a ha => ?_, fun k hk => ?_⟩
  · have only := setBytes_only (fun _ => false) (locs.zip (toBytes n x)) s
    simp only [Bool.false_eq_true, if_false] at only
    rw [show t = _ from written]
    exact only
  · rw [show t = _ from written]
    exact setBytes_outside _ s wf a (by rw [places]; exact ha)
  · have byte : k < (toBytes n x).length := by rw [toBytes_length, ← size]; exact hk
    have cell : (locs[k], (toBytes n x)[k]) ∈ locs.zip (toBytes n x) := by
      rw [← List.getElem_zip (h := by rw [List.length_zip]; omega)]
      exact List.getElem_mem _
    rw [show t = _ from written, setBytes_inside _ s wf (by rw [places]; exact apart) _ cell]
    exact toBytes_getElem n x k byte

/-! ### Elements of whole bytes -/

section
variable {ag : Agent} {w i x : Nat} {va : Word} {s : State} (whole : w ≠ 4)
include whole

theorem loadAt_misaligned (misaligned : va.toNat % (w / 8) ≠ 0) : loadAt ag w va i s = .error ⟨eAlign, va, 0⟩ s := by
  rw [loadAt, if_neg whole, aligned, if_neg misaligned]
  rfl

theorem storeAt_misaligned (misaligned : va.toNat % (w / 8) ≠ 0) : storeAt ag w va i x s = .error ⟨eAlign, va, 0⟩ s := by
  rw [storeAt, if_neg whole, aligned, if_neg misaligned]
  rfl

theorem loadAt_aligned (fits : va.toNat % (w / 8) = 0) : loadAt ag w va i s = loadElem ag va (w / 8) s := by
  rw [loadAt, if_neg whole, aligned, if_pos fits]
  rfl

theorem storeAt_aligned (fits : va.toNat % (w / 8) = 0) : storeAt ag w va i x s = storeElem ag va (w / 8) x s := by
  rw [storeAt, if_neg whole, aligned, if_pos fits]
  rfl

end

/-! ### Elements of 4 bits -/

/-- An element of 4 bits is a half of its byte (03_arithmetic.md R78). -/
theorem half_of_byte (b : Byte) (i : Nat) : b.toNat / 16 ^ (i % 2) % 16 = if i % 2 = 0 then b.toNat % 16 else b.toNat / 16 := by
  have := b.isLt
  split
  next even => rw [even, Nat.pow_zero, Nat.div_one]
  next odd => rw [show i % 2 = 1 by omega, Nat.pow_one, Nat.mod_eq_of_lt (by omega)]

theorem loadAt_half {ag : Agent} {va : Word} {s u : State} {l : Nat} (i : Nat) (found : locate ag .load va 1 s = .ok [l] u)
    (onTime : u.hart.late = none) (good : u.badAt l = false) :
    loadAt ag 4 va i s = .ok (if i % 2 = 0 then (Memory.read u.mem l).toNat % 16 else (Memory.read u.mem l).toNat / 16) u := by
  have read := loadElem_found found onTime (by simpa using good)
  rw [loadAt, if_pos rfl, run_bind_ok read, ← half_of_byte]
  simp [ofBytes]
  rfl

/-- Four bits fit in either half of a byte. -/
theorem nibble_fits (x : Nat) : BitVec.ofNat 8 (x % 16) &&& 15#8 = BitVec.ofNat 8 (x % 16) ∧
    BitVec.ofNat 8 (x % 16 * 16) &&& 240#8 = BitVec.ofNat 8 (x % 16 * 16) := by
  have every : ∀ y : Fin 16, BitVec.ofNat 8 y &&& 15#8 = BitVec.ofNat 8 y ∧ BitVec.ofNat 8 (y * 16) &&& 240#8 = BitVec.ofNat 8 (y * 16) := by
    decide
  exact every ⟨x % 16, Nat.mod_lt _ (by decide)⟩

/-- A half of a byte that is written keeps the other half (04_memory_model.md R115). -/
theorem storeAt_half {ag : Agent} {va : Word} {s u : State} {l : Nat} (i x : Nat) (found : locate ag .store va 1 s = .ok [l] u)
    (onTime : u.hart.late = none) (good : u.badAt l = false) :
    storeAt ag 4 va i x s = .ok () (u.setByte l (if i % 2 = 0 then (Memory.read u.mem l &&& 0xF0) ||| BitVec.ofNat 8 (x % 16)
      else (Memory.read u.mem l &&& 0x0F) ||| BitVec.ofNat 8 (x % 16 * 16))) := by
  rw [storeAt, if_pos rfl, run_bind_ok found, run_bind_ok (lateAt_none _ _ _ _ _ _ onTime)]
  obtain ⟨low, high⟩ := nibble_fits x
  show EStateM.Result.ok () (List.foldl _ u [l]) = _
  by_cases even : i % 2 = 0
  · simp [even, State.writeHalf, good, low]
  · simp [even, State.writeHalf, good, high]

/-- Settles O32: an element of whole bytes is checked for its alignment and then accessed, and one of 4 bits is a half of the byte that its
address finds. -/
theorem elementAccess : Obligations.ElementAccess := by
  unfold Obligations.ElementAccess
  refine ⟨fun s u ag w va i x locs width => ⟨fun misaligned => ?misaligned,
      fun fits onTime good => ⟨fun found => ?load, fun found apart wf => ?store⟩⟩,
    fun s u ag va i x l onTime good wf => ⟨fun found => loadAt_half i found onTime good, fun found => ?half⟩⟩
  case half =>
    refine ⟨_, storeAt_half i x found onTime good, rfl, fun a => ?_⟩
    rw [State.setByte_mem, Memory.read_write _ _ _ wf]
  all_goals have whole : w ≠ 4 := by rintro rfl; simp at width
  case misaligned => exact ⟨loadAt_misaligned whole misaligned, storeAt_misaligned whole misaligned⟩
  case load => exact (loadAt_aligned whole fits).trans (loadElem_found found onTime good)
  case store =>
    exact ⟨_, (storeAt_aligned whole fits).trans (storeElem_found found onTime),
      State.writeLocs_storesAt ag.fn va x (length_of_locate_ok found) good apart wf⟩

end Sys2Proof.Machine
end

section
/-!
PROOFS. VectorStores and Streams fail: a store of an element translates its address, and over tables that overlap (see `overlappingTables`) the
walk that sets A and D writes a whole entry over bytes that are no table entry. So a vector store and a `tsend` change memory outside the
places that they store to by more than A and D bits (04_memory_model.md R110).
-/

namespace Sys2Proof.Machine

open Sys2Proof.Claims

/-- Those tables with the right to write in the stage-1 entry, and a hart with one element of i8 to store: its stream 0 stores one element at
address 0. -/
def overlappingStore : State :=
  let s := { overlappingTables with mem := Memory.write overlappingTables.mem entryAt 0x07 }
  s.setHart { s.hart with
    vl := 1, et := 0, streams := s.hart.streams.set 0 { Stream.reset with kind := .store, desc := #v[0, 0, 0x100000000, 0, 0], len := 1 } }

/-- The accesses succeed, and where the A bit of the stage-1 entry is set is none of the places they name. -/
def missesEntry : EStateM.Result Fail State (List Nat) → Bool
  | .ok ls _ => !ls.contains movedTo
  | .error _ _ => false

theorem missesEntry_iff {r : EStateM.Result Fail State (List Nat)} (h : missesEntry r = true) : ∃ ls u, r = .ok ls u ∧ movedTo ∉ ls := by
  cases r with
  | ok ls u => exact ⟨ls, u, rfl, by simpa [missesEntry] using h⟩
  | error e u => cases h

/-- The byte where an entry has been written whole, with A and D. -/
def entryMoved : Out → Bool
  | .next t => Memory.read t.mem movedTo == 0xC7
  | .fault _ | .refused _ => false

/-- Where the instruction leaves the entry, memory has changed there by more than A and D bits. -/
theorem not_storesOnly_of_entryMoved {i : Instr} {t : State} {ls : List Nat} (moved : entryMoved (exec i overlappingStore) = true)
    (executed : exec i overlappingStore = .next t) (elsewhere : movedTo ∉ ls) (zero : Memory.read overlappingStore.mem movedTo = 0) :
    ¬ StoresOnly overlappingStore t ls := by
  intro only
  obtain ⟨m, none_else, set⟩ := only movedTo elsewhere
  rw [executed] at moved
  rw [beq_iff_eq.1 moved, zero, show (0 : Byte) ||| m = m from BitVec.zero_or] at set
  rw [← set] at none_else
  exact absurd none_else (by decide)

theorem overlappingStore_wf : Memory.wf overlappingStore.mem ∧ Memory.read overlappingStore.mem movedTo = 0 := by
  decide +kernel

/-! ### The vector store -/

/-- The store of one element at address 0, as a row. -/
def storedRow : RowForm :=
  ⟨.unit, false, 0, 0, consecutive overlappingStore.hart.et (overlappingStore.hart.sreg 0 + overlappingStore.hart.sreg 0)⟩

theorem storedRow_checks : rowChecks overlappingStore.hart storedRow false := by
  have span : spanOk 0 (lanes overlappingStore.hart) = true := by decide +kernel
  exact ⟨rfl, span, fun h => absurd rfl h, fun vi h => nomatch h⟩

/-- Nothing holds the store back, it succeeds, and it writes the entry. -/
theorem overlappingStore_vst : Free overlappingStore (.vst 0 0 0 0) ∧ entryMoved (exec (.vst 0 0 0 0) overlappingStore) = true ∧
    missesEntry (working (rowProbes overlappingStore.hart storedRow .probeStore (activeBits overlappingStore.hart 0 (lanes overlappingStore.hart)) >>=
      fun _ => storePlaces overlappingStore.hart.agent (etSew overlappingStore.hart.et) storedRow.addr id
        (overlappingStore.hart.velem (etSew overlappingStore.hart.et) 0) (activeBits overlappingStore.hart 0 (lanes overlappingStore.hart)))
      overlappingStore) = true := by
  decide +kernel

/-- Refutes O34: the store writes the entry, whose V, R and W are set, over a byte that was zero and that it does not store to. -/
theorem not_vectorStores : ¬ Obligations.VectorStores := by
  unfold Obligations.VectorStores
  intro stores
  obtain ⟨free, moved, misses⟩ := overlappingStore_vst
  obtain ⟨wf, zero⟩ := overlappingStore_wf
  obtain ⟨ls, u, stored, elsewhere⟩ := missesEntry_iff misses
  obtain ⟨t, executed, -, only⟩ := stores overlappingStore u (.vst 0 0 0 0) storedRow ls rfl free storedRow_checks stored
  exact not_storesOnly_of_entryMoved moved executed elsewhere zero (only wf)

/-! ### The stream -/

/-- Nothing holds the `tsend` back, it succeeds, and it writes the entry. -/
theorem overlappingStore_tsend : let s := overlappingStore
    let st := s.hart.stream 0
    let n := min (lanes s.hart) (st.len - st.pos)
    (Free s (.tsend 0 0 0) ∧ st.kind = .store ∧ tyWidth (bits st.desc[1] 0 4) = etSew s.hart.et ∧ spanOk 0 (lanes s.hart) = true ∧ 0 < n) ∧
    entryMoved (exec (.tsend 0 0 0) s) = true ∧
    missesEntry (working (storePlaces s.hart.agent (etSew s.hart.et) (fun k => st.addr (st.pos + k)) (st.pos + ·)
      (s.hart.velem (etSew s.hart.et) 0) (activeBits s.hart 0 n)) s) = true := by
  decide +kernel

/-- Refutes O35 in its clause on `tsend`, which writes the entry as the vector store does. -/
theorem not_streams : ¬ Obligations.Streams := by
  unfold Obligations.Streams
  rintro ⟨-, -, sends, -⟩
  obtain ⟨⟨free, kind, width, span, elements⟩, moved, misses⟩ := overlappingStore_tsend
  obtain ⟨wf, zero⟩ := overlappingStore_wf
  obtain ⟨ls, u, stored, elsewhere⟩ := missesEntry_iff misses
  obtain ⟨t, executed, -, -, -, only⟩ := sends overlappingStore u 0 0 0 ls free kind width rfl span elements stored
  exact not_storesOnly_of_entryMoved moved executed elsewhere zero (only wf)

end Sys2Proof.Machine
end

section
/-!
PROOFS. An access looks at nothing of the hart that moves but the request that is to fail, the launch and the function, and one that succeeds
leaves the hart as it was. So it does the same before an instruction is enqueued as behind it.
-/

namespace Sys2Proof.Machine

open Sys2Proof.Claims

/-! ### Changes of the hart that an access does not see -/

/-- A change of a hart that leaves what accesses look at. -/
structure Unseen (g : Hart → Hart) : Prop where
  /-- The request that is to fail. -/
  late : ∀ h, (g h).late = h.late
  /-- The launch. -/
  seq : ∀ h, (g h).seq = h.seq
  /-- The function. -/
  fn : ∀ h, (g h).fn = h.fn
  /-- A request fails once, before the change or after it. -/
  clear : ∀ h, g { h with late := none } = { g h with late := none }

/-- An access does not see a change of the hart, and leaves the hart as it was where it succeeds. -/
structure Blind (g : Hart → Hart) (a : Acc α) : Prop where
  /-- It does the same with the hart changed. -/
  run : ∀ s : State, a (s.mapHart g) = Ended.mapState (·.mapHart g) (a s)
  /-- It succeeds with the hart as it was. -/
  kept : ∀ s x t, a s = .ok x t → t.hart = s.hart

section
variable {g : Hart → Hart}

theorem Blind.ok {a : Acc α} (blind : Blind g a) {s t : State} {x : α} (h : a s = .ok x t) :
    a (s.mapHart g) = .ok x (t.mapHart g) := by
  rw [blind.run, h]
  rfl

theorem Blind.error {a : Acc α} (blind : Blind g a) {s t : State} {e : Fail} (h : a s = .error e t) :
    a (s.mapHart g) = .error e (t.mapHart g) := by
  rw [blind.run, h]
  rfl

theorem Blind.pure (x : α) : Blind g (pure x : Acc α) := ⟨fun _ => rfl, fun _ _ _ h => by cases h; rfl⟩

theorem Blind.throw (e : Fail) : Blind g (throw e : Acc α) := ⟨fun _ => rfl, fun _ _ _ h => by cases h⟩

theorem Blind.bind {a : Acc α} {f : α → Acc β} (ha : Blind g a) (hf : ∀ x, Blind g (f x)) : Blind g (a >>= f) := by
  constructor
  · intro s
    have first := ha.run s
    cases h : a s with
    | ok x t => rw [run_bind_ok h, run_bind_ok (first.trans (by rw [h]; rfl)), (hf x).run]
    | error e t => rw [run_bind_error h, run_bind_error (first.trans (by rw [h]; rfl))]; rfl
  · intro s y u h
    obtain ⟨x, t, hx, hy⟩ := exists_of_run_bind_ok h
    exact ((hf x).kept t y u hy).trans (ha.kept s x t hx)

theorem Blind.ite {a b : Acc α} {p : Prop} [Decidable p] (ha : Blind g a) (hb : Blind g b) : Blind g (if p then a else b) := by
  split <;> assumption

/-- A computation that begins with a look at the package, and sees nothing of the hart there. -/
theorem Blind.get_bind {k : State → Acc α} (same : ∀ s : State, k (s.mapHart g) = k s) (h : ∀ s, Blind g (k s)) :
    Blind g (get >>= k) := by
  refine ⟨fun s => ?_, fun s x t hx => (h s).kept s x t hx⟩
  show k (s.mapHart g) (s.mapHart g) = _
  rw [same, (h s).run]
  rfl

theorem Blind.modify {f : State → State} (same : ∀ s : State, f (s.mapHart g) = (f s).mapHart g) (kept : ∀ s, (f s).hart = s.hart) :
    Blind g (modify f : Acc PUnit) :=
  ⟨fun s => congrArg (EStateM.Result.ok ()) (same s), fun s _ _ h => by cases h; exact kept s⟩

theorem Blind.mapM {f : α → Acc β} (h : ∀ x, Blind g (f x)) (xs : List α) : Blind g (xs.mapM f) := by
  induction xs with
  | nil => exact Blind.pure _
  | cons x xs ih => rw [List.mapM_cons]; exact (h x).bind fun _ => ih.bind fun _ => Blind.pure _

theorem Blind.forM {f : α → Acc PUnit} (h : ∀ x, Blind g (f x)) (xs : List α) : Blind g (xs.forM f) := by
  induction xs with
  | nil => exact Blind.pure _
  | cons x xs ih => exact (h x).bind fun _ => ih

/-! ### Bytes -/

theorem State.eccRecord_mapHart (s : State) (g : Hart → Hart) (fn : BitVec 8) (a : Nat) (addr : Word) :
    (s.mapHart g).eccRecord fn a addr = (s.eccRecord fn a addr).mapHart g := by
  unfold State.eccRecord
  rw [show (s.mapHart g).ownerOf a = s.ownerOf a from rfl]
  split <;> rfl

theorem State.eccRecord_hart (s : State) (fn : BitVec 8) (a : Nat) (addr : Word) : (s.eccRecord fn a addr).hart = s.hart := by
  unfold State.eccRecord
  split <;> rfl

theorem State.writeLocs_mapHart (s : State) (g : Hart → Hart) (fn : BitVec 8) (addr : Word) (cells : List (Nat × Byte)) :
    (s.mapHart g).writeLocs fn addr cells = (s.writeLocs fn addr cells).mapHart g := by
  have written (p : Nat × Byte → Bool) : cells.foldl (fun t c => if p c then t else t.setByte c.1 c.2) (s.mapHart g) =
      (cells.foldl (fun t c => if p c then t else t.setByte c.1 c.2) s).mapHart g :=
    List.foldl_hom (State.mapHart · g) fun t c => by split <;> rfl
  have all := written fun _ => false
  simp only [Bool.false_eq_true, if_false] at all
  unfold State.writeLocs
  simp only [show (s.mapHart g).badAt = s.badAt from rfl, show (s.mapHart g).work = s.work from rfl, written, all]
  split
  · rfl
  · split
    · rfl
    · split
      · generalize cells.foldl _ s = u
        exact State.eccRecord_mapHart (State.countUe { u with ecc := _ }) g fn _ addr
      · rfl

theorem State.writeLocs_hart (s : State) (fn : BitVec 8) (addr : Word) (cells : List (Nat × Byte)) : (s.writeLocs fn addr cells).hart = s.hart := by
  obtain ⟨m, e, c, r, f, z, k, h⟩ := s.writeLocs_only fn addr cells
  rw [h]; rfl

theorem readLocs_blind (locs : List Nat) (addr : Word) : Blind g (readLocs locs addr) := by
  constructor
  · intro s
    unfold readLocs
    rw [show (s.mapHart g).badAt = s.badAt from rfl]
    split <;> rfl
  · intro s x t h
    unfold readLocs at h
    split at h
    · cases h
    · cases h; rfl

/-! ### Translation -/

theorem readPte_blind (w : Agent) (a : Nat) (f : Fail) : Blind g (readPte w a f) := by
  have read := readLocs_blind (g := g) (dwLocs a) f.addr
  constructor
  · intro s
    unfold readPte
    rw [read.run, show (s.mapHart g).mapped = s.mapped from rfl, show (s.mapHart g).linkServes = s.linkServes from rfl]
    split
    · rfl
    · split
      · rfl
      · cases readLocs (dwLocs a) f.addr s <;> rfl
  · intro s x t h
    unfold readPte at h
    split at h
    · cases h
    · split at h
      · cases h
      · cases hr : readLocs (dwLocs a) f.addr s with
        | ok bs u => rw [hr] at h; cases h; exact read.kept s bs _ hr
        | error e u => rw [hr] at h; cases h

theorem setAd_blind (fn : BitVec 8) (a : Nat) (e : Word) (acc : Access) : Blind g (setAd fn a e acc) := by
  constructor
  · intro s
    unfold setAd
    split
    · rfl
    · exact congrArg (EStateM.Result.ok ()) (State.writeLocs_mapHart ..)
  · intro s x t h
    unfold setAd at h
    split at h
    · cases h; rfl
    · cases h; exact State.writeLocs_hart ..

theorem walk2_blind (w : Agent) (acc : Access) (gpa : Nat) (f : Fail) (ls : List WalkLevel) (table : Nat) :
    Blind g (walk2 w acc gpa f ls table) := by
  induction ls generalizing table with
  | nil => exact Blind.throw _
  | cons l rest ih =>
    refine (readPte_blind ..).bind fun e => Blind.ite (Blind.throw _) (Blind.ite (Blind.ite (Blind.throw _) ?_) (ih _))
    exact (setAd_blind ..).bind fun _ => Blind.pure _

theorem stage2_blind (w : Agent) (acc : Access) (va : Word) (gpa : Nat) : Blind g (stage2 w acc va gpa) := by
  refine Blind.get_bind (fun _ => rfl) fun s => ?_
  cases s.roots2[w.part.toNat]? with
  | none => exact Blind.throw _
  | some root => exact (walk2_blind ..).bind fun _ => Blind.get_bind (fun _ => rfl) fun s => Blind.ite (Blind.pure _) (Blind.throw _)

theorem tableLoc_blind (w : Agent) (acc : Access) (va : Word) (a : Nat) : Blind g (tableLoc w acc va a) :=
  Blind.ite (Blind.get_bind (fun _ => rfl) fun _ => Blind.ite (Blind.pure _) (Blind.throw _)) ((stage2_blind ..).bind fun _ => Blind.pure _)

theorem walk1_blind (w : Agent) (acc : Access) (va : Word) (ls : List WalkLevel) (table : Nat) : Blind g (walk1 w acc va ls table) := by
  induction ls generalizing table with
  | nil => exact Blind.throw _
  | cons l rest ih =>
    refine (tableLoc_blind ..).bind fun loc => (readPte_blind ..).bind fun e =>
      Blind.ite (Blind.throw _) (Blind.ite (Blind.ite (Blind.throw _) ?_) (ih _))
    refine Blind.get_bind (fun _ => rfl) fun s => Blind.ite (Blind.throw _) (Blind.ite ?_ (Blind.pure _))
    exact (tableLoc_blind ..).bind fun _ => (setAd_blind ..).bind fun _ => Blind.pure _

theorem stage2Kept_blind (w : Agent) (acc : Access) (va : Word) (gpa : Nat) : Blind g (stage2Kept w acc va gpa) := by
  refine Blind.get_bind (fun _ => rfl) fun s => ?_
  cases s.work.bind fun k => k.pins.find? fun c => c.covers2 w gpa with
  | none => exact stage2_blind ..
  | some c =>
    have place : Blind g (do
        let pa := c.loc + gpa - c.gpage * 0x2000
        let s ← get
        if s.mapped w pa then pure (pa, c.span2) else throw ⟨eHpage, va, word gpa⟩ : Acc (Nat × Nat)) :=
      Blind.get_bind (fun _ => rfl) fun s => Blind.ite (Blind.pure _) (Blind.throw _)
    exact Blind.ite ((stage2_blind ..).bind fun _ => place) place

theorem walkBoth_blind (w : Agent) (acc : Access) (va : Word) : Blind g (walkBoth w acc va) := by
  have cached (f : State → List CachedPage) (same : ∀ s : State, f (s.mapHart g) = f s) :
      Blind g (modify fun s => { s with tlb := f s } : Acc PUnit) :=
    Blind.modify (fun s => by rw [same]; rfl) fun _ => rfl
  refine Blind.get_bind (fun _ => rfl) fun s => (walk1_blind ..).bind fun ⟨t, e⟩ => ?_
  cases t with
  | tile => exact (Blind.pure _).bind fun _ => (cached _ fun _ => rfl).bind fun _ => Blind.pure _
  | phys gpa =>
    refine Blind.ite ?_ ((stage2Kept_blind ..).bind fun _ => (Blind.pure _).bind fun _ => (cached _ fun _ => rfl).bind fun _ => Blind.pure _)
    refine Blind.get_bind (fun _ => rfl) fun s => Blind.ite ?_ ((Blind.throw _).bind fun _ => ?_)
    · exact (Blind.pure _).bind fun _ => (cached _ fun _ => rfl).bind fun _ => Blind.pure _
    · exact (cached _ fun _ => rfl).bind fun _ => Blind.pure _

theorem State.agrees_mapHart (s : State) (g : Hart → Hart) (w : Agent) (acc : Access) (va : Word) (c : CachedPage) :
    (s.mapHart g).agrees w acc va c = s.agrees w acc va c := by
  unfold State.agrees
  rw [(walkBoth_blind w acc va).run]
  cases walkBoth w acc va s with
  | ok t u => cases t <;> rfl
  | error e u => rfl

theorem target_blind (c : CachedPage) (w : Agent) (va : Word) : Blind g (c.target w va) :=
  Blind.get_bind (fun _ => rfl) fun _ => Blind.ite (Blind.ite (Blind.throw _) (Blind.pure _)) (Blind.ite (Blind.pure _) (Blind.throw _))

theorem translateNew_blind (w : Agent) (acc : Access) (va : Word) : Blind g (translateNew w acc va) := by
  refine Blind.get_bind (fun s => ?_) fun s => ?_
  · rw [show (s.mapHart g).tlb = s.tlb from rfl, show (s.mapHart g).free = s.free from rfl]
    simp only [State.agrees_mapHart]
  · split
    · exact walkBoth_blind ..
    · exact Blind.ite (target_blind ..) (walkBoth_blind ..)

theorem State.pin_mapHart (s : State) (g : Hart → Hart) (c : CachedPage) : (s.mapHart g).pin c = (s.pin c).mapHart g := by
  unfold State.pin
  rw [show (s.mapHart g).work = s.work from rfl]
  split <;> rfl

theorem State.pin_hart (s : State) (c : CachedPage) : (s.pin c).hart = s.hart := by
  unfold State.pin
  split <;> rfl

theorem pinPage_blind (w : Agent) (acc : Access) (va : Word) (at_ : Option CachedPage) : Blind g (pinPage w acc va at_) := by
  constructor
  · intro s
    unfold pinPage
    rw [show (s.mapHart g).tlb = s.tlb from rfl]
    split
    · exact congrArg (EStateM.Result.ok ()) (State.pin_mapHart { s with work := _ } g _)
    · exact congrArg (EStateM.Result.ok ()) (State.pin_mapHart ..)
    · rfl
  · intro s x t h
    unfold pinPage at h
    split at h
    · cases h; exact State.pin_hart { s with work := _ } _
    · cases h; exact State.pin_hart ..
    · cases h; rfl

theorem pin_blind (c : CachedPage) : Blind g (modify (·.pin c) : Acc PUnit) :=
  Blind.modify (fun s => s.pin_mapHart g c) fun s => s.pin_hart c

theorem beside_blind (c : CachedPage) (w : Agent) (acc : Access) (va : Word) : Blind g (c.beside w acc va) :=
  Blind.ite (Blind.pure _) (Blind.ite (Blind.pure _) ((stage2Kept_blind ..).bind fun _ => Blind.pure _))

theorem translate_blind (w : Agent) (acc : Access) (va : Word) : Blind g (translate w acc va) := by
  refine Blind.ite (Blind.throw _) (Blind.get_bind (fun _ => rfl) fun s => ?_)
  split
  · exact translateNew_blind ..
  · split
    · split
      · exact (translateNew_blind ..).bind fun _ => (pinPage_blind ..).bind fun _ => Blind.pure _
      · next c _ =>
        have besidePage : Blind g (do
            let d ← c.beside w acc va
            modify (·.pin (d.shown acc))
            d.target w va : Acc Target) := (beside_blind ..).bind fun _ => (pin_blind _).bind fun _ => target_blind ..
        exact Blind.ite ((translateNew_blind ..).bind fun _ => besidePage) besidePage
    · exact Blind.ite (target_blind ..) ((translateNew_blind ..).bind fun _ => (pinPage_blind ..).bind fun _ => target_blind ..)

theorem locate_blind (w : Agent) (acc : Access) (va : Word) (n : Nat) : Blind g (locate w acc va n) := by
  refine (translate_blind ..).bind fun t => ?_
  cases t with
  | phys pa => exact Blind.get_bind (fun _ => rfl) fun s => Blind.ite (Blind.pure _) (Blind.throw _)
  | tile =>
    refine Blind.get_bind (fun _ => rfl) fun s => Blind.mapM (fun i => ?_) _
    split
    · exact Blind.pure _
    · exact Blind.throw _

/-! ### Elements -/

/-- A request that is to fail is the hart's, and is gone when it has failed (04_memory_model.md R141). -/
theorem lateAt_eq (w : Agent) (store : Bool) (locs : List Nat) (va : Word) (n : Nat) (s : State) :
    lateAt w store locs va n s = match s.hart.late with
      | none => .ok () s
      | some (a, code) =>
        if w.core.isSome && w.task == some s.hart.seq && decide ((a - va).toNat < n) &&
            (if code = eLink then locs.any isPeer else !store) then
          .error ⟨code, va, 0⟩ (s.mapHart fun h => { h with late := none })
        else .ok () s := rfl

variable (unseen : Unseen g)
include unseen

theorem lateAt_blind (w : Agent) (store : Bool) (locs : List Nat) (va : Word) (n : Nat) : Blind g (lateAt w store locs va n) := by
  have cleared (s : State) : (s.mapHart g).mapHart (fun h => { h with late := none }) = (s.mapHart fun h => { h with late := none }).mapHart g := by
    simp only [State.mapHart_mapHart, unseen.clear]
  constructor
  · intro s
    rw [lateAt_eq, lateAt_eq, State.mapHart_hart, unseen.late, unseen.seq]
    cases s.hart.late with
    | none => rfl
    | some r =>
      dsimp only
      rw [apply_ite (Ended.mapState fun t => t.mapHart g)]
      exact ite_congr rfl (fun _ => congrArg (EStateM.Result.error _) (cleared s)) fun _ => rfl
  · intro s x t h
    rw [lateAt_eq] at h
    cases hl : s.hart.late with
    | none => rw [hl] at h; cases h; rfl
    | some r =>
      rw [hl] at h
      obtain ⟨-, h⟩ | ⟨-, h⟩ := ite_eq_iff.1 h
      · cases h
      · cases h; rfl

theorem loadElem_blind (w : Agent) (va : Word) (n : Nat) : Blind g (loadElem w va n) :=
  (locate_blind ..).bind fun _ => (lateAt_blind unseen ..).bind fun _ => (readLocs_blind ..).bind fun _ => Blind.pure _

theorem loadAt_blind (w : Agent) (n : Nat) (va : Word) (i : Nat) : Blind g (loadAt w n va i) :=
  Blind.ite ((loadElem_blind unseen ..).bind fun _ => Blind.pure _)
    ((Blind.ite (Blind.pure _) (Blind.throw _)).bind fun _ => loadElem_blind unseen ..)

omit unseen in
theorem probeAt_blind (ag : Agent) (a : Access) (w : Nat) (va : Word) : Blind g (probeAt ag a w va) :=
  (Blind.ite (Blind.pure _) (Blind.throw _)).bind fun _ => (locate_blind ..).bind fun _ => Blind.pure _

end

/-! ### The end of a piece of work -/

theorem State.closeWork_mapHart (s : State) {g : Hart → Hart} (unseen : Unseen g) : (s.mapHart g).closeWork = s.closeWork.mapHart g := by
  have fn (t : State) : (t.mapHart g).harts[(t.mapHart g).cur].fn = t.harts[t.cur].fn :=
    (congrArg Hart.fn (t.mapHart_hart g)).trans (unseen.fn t.hart)
  unfold State.closeWork
  rw [show (s.mapHart g).work = s.work from rfl]
  split
  · rfl
  · refine List.foldl_hom (init := { s with work := none }) (State.mapHart · g) fun t x => ?_
    dsimp only
    rw [fn, State.writeLocs_mapHart]
    split
    · rfl
    · exact State.eccRecord_mapHart t.countUe g ..

theorem State.closeWork_hart (s : State) : s.closeWork.hart = s.hart := by
  unfold State.closeWork
  split
  · rfl
  · refine foldl_keeps State.hart _ (fun t x => ?_) _ _
    dsimp only
    split
    · exact State.writeLocs_hart ..
    · exact State.eccRecord_hart ..

/-- What a piece of work ends in, where another piece ends the same with the hart changed: it is so at their ends as well. -/
theorem working_mapHart {m : EStateM ε State α} {m' : EStateM ε' State β} {s u : State} {x : α} {y : β} {g g' : Hart → Hart}
    (unseen : Unseen g') (h : ∀ k t, m (s.atWork k) = .ok x t → m' ((s.mapHart g).atWork k) = .ok y (t.mapHart g')) (hm : working m s = .ok x u) :
    working m' (s.mapHart g) = .ok y (u.mapHart g') := by
  cases hw : s.work with
  | some k =>
    rw [working_of_isSome m (by rw [hw]; rfl)] at hm
    rw [working_of_isSome m' (by rw [show (s.mapHart g).work = s.work from rfl, hw]; rfl)]
    exact h s.work u hm
  | none =>
    rw [working_of_none m hw] at hm
    cases hr : m (s.atWork (some ⟨[], []⟩)) with
    | error e t => rw [hr] at hm; cases hm
    | ok z t =>
      rw [hr] at hm
      cases hm
      rw [working_of_none m' (show (s.mapHart g).work = none from hw), h _ _ hr]
      exact congrArg (EStateM.Result.ok y) (State.closeWork_mapHart t unseen)

/-- A piece of work that ends well has run to its end, and was closed there if it began there. -/
theorem exists_of_working_ok {m : EStateM ε State α} {s u : State} {x : α} (h : working m s = .ok x u) :
    ∃ k t, m (s.atWork k) = .ok x t ∧ (u = t ∨ u = t.closeWork) := by
  cases hw : s.work with
  | some k => exact ⟨s.work, u, (working_of_isSome m (by rw [hw]; rfl)).symm.trans h, .inl rfl⟩
  | none =>
    rw [working_of_none m hw] at h
    cases hr : m (s.atWork (some ⟨[], []⟩)) with
    | error e t => rw [hr] at h; cases h
    | ok z t => rw [hr] at h; cases h; exact ⟨_, t, hr, .inr rfl⟩

/-- What holds of a piece of work that ends well, from its beginning to its end. -/
theorem rel_of_working {R : State → State → Prop} (trans : ∀ {s t u}, R s t → R t u → R s u) (work : ∀ s k, R s (s.atWork k))
    (close : ∀ s, R s s.closeWork) {m : EStateM ε State α} (h : ∀ {s x t}, m s = .ok x t → R s t) {s u : State} {x : α}
    (hm : working m s = .ok x u) : R s u := by
  obtain ⟨k, t, ran, rfl | rfl⟩ := exists_of_working_ok hm
  · exact trans (work s k) (h ran)
  · exact trans (work s k) (trans (h ran) (close t))

/-- Accesses that succeed as a piece of work leave the hart as it was. -/
theorem Blind.working_hart {g : Hart → Hart} {a : Acc α} (blind : Blind g a) {s u : State} {x : α} (hm : working a s = .ok x u) :
    u.hart = s.hart :=
  rel_of_working (R := fun s t => t.hart = s.hart) (fun h k => k.trans h) (fun _ _ => rfl) State.closeWork_hart (blind.kept _ _ _) hm

/-- Accesses as a piece of work change what accesses can change. -/
theorem AccessOnly.of_working {m : EStateM ε State α} (h : ∀ {s x t}, m s = .ok x t → AccessOnly s t) {s u : State} {x : α}
    (hm : working m s = .ok x u) : AccessOnly s u :=
  rel_of_working (R := AccessOnly) (fun h k => h.trans k) AccessOnly.setWork AccessOnly.closeWork h hm

end Sys2Proof.Machine
end

section
/-!
PROOFS. Vector groups: what a group holds whose lowest elements are written (07_lane.md R202, R207), and the bits of a mask span.
-/

namespace Sys2Proof.Machine

open Sys2Proof.Claims

/-! ### Elements within a register -/

/-- A field of a number is one of its low part where it lies there. -/
theorem field_ofNat {m w n : Nat} (a : Nat) (h : m + w ≤ n) : (BitVec.ofNat n a).toNat / 2 ^ m % 2 ^ w = a / 2 ^ m % 2 ^ w := by
  obtain ⟨k, rfl⟩ := Nat.exists_eq_add_of_le h
  rw [BitVec.toNat_ofNat, add_assoc, pow_add, Nat.mod_mul_right_div_self, Nat.mod_mod_of_dvd _ (pow_dvd_pow 2 (Nat.le_add_right ..))]

/-- An element of a number whose lowest elements are replaced. -/
theorem field_of_packElems (w : Nat) (xs : List Nat) (old i : Nat) :
    (old / 2 ^ (xs.length * w) * 2 ^ (xs.length * w) + packElems w xs) / 2 ^ (i * w) % 2 ^ w =
      (xs[i]?).elim (old / 2 ^ (i * w) % 2 ^ w) (· % 2 ^ w) := by
  induction xs generalizing old i with
  | nil => simp [packElems]
  | cons y ys ih =>
    have shifted : old / 2 ^ ((y :: ys).length * w) * 2 ^ ((y :: ys).length * w) + packElems w (y :: ys) =
        y % 2 ^ w + 2 ^ w * (old / 2 ^ w / 2 ^ (ys.length * w) * 2 ^ (ys.length * w) + packElems w ys) := by
      rw [List.length_cons, Nat.succ_mul, Nat.add_comm (ys.length * w), pow_add, Nat.div_div_eq_div_mul]
      simp only [packElems, List.foldr_cons]
      ring
    have small : y % 2 ^ w < 2 ^ w := Nat.mod_lt _ (Nat.two_pow_pos w)
    rw [shifted]
    cases i with
    | zero => simp [Nat.mod_eq_of_lt small]
    | succ i =>
      rw [Nat.succ_mul, Nat.add_comm (i * w), pow_add, ← Nat.div_div_eq_div_mul, Nat.add_mul_div_left _ _ (Nat.two_pow_pos w),
        Nat.div_eq_of_lt small, Nat.zero_add, ih, Nat.div_div_eq_div_mul]
      rfl

/-- An element of a register whose lowest elements are replaced. -/
theorem overlay_field {w i : Nat} (fits : i * w + w ≤ 131072) (old : BitVec 131072) (xs : List Nat) :
    (overlay w old xs).toNat / 2 ^ (i * w) % 2 ^ w = (xs[i]?).elim (old.toNat / 2 ^ (i * w) % 2 ^ w) (· % 2 ^ w) := by
  rw [overlay, field_ofNat _ fits, field_of_packElems]

theorem overlay_nil (w : Nat) (old : BitVec 131072) : overlay w old [] = old := by
  simp only [overlay, packElems, List.length_nil, List.foldr_nil, Nat.zero_mul, pow_zero, Nat.div_one, Nat.mul_one, Nat.add_zero,
    BitVec.ofNat_toNat, BitVec.setWidth_eq]

/-- Every element of a register lies within it. -/
theorem field_le_of_lt_perReg {w i : Nat} (h : i < perReg w) : i * w + w ≤ 131072 := by
  rw [← Nat.succ_mul]
  exact (Nat.mul_le_mul_right w h).trans (Nat.div_mul_le_self ..)

/-! ### Registers of a group -/

/-- The elements of register `k` of a group. -/
def groupPart (w : Nat) (xs : List Nat) (k : Nat) : List Nat := (xs.drop (k * perReg w)).take (perReg w)

theorem groupPart_getElem? {w j : Nat} (h : j < perReg w) (xs : List Nat) (k : Nat) : (groupPart w xs k)[j]? = xs[k * perReg w + j]? := by
  rw [groupPart, List.getElem?_take_of_lt h, List.getElem?_drop]

/-- The vector registers and which of them are live. -/
abbrev VFile := Vector (BitVec 131072) 32 × BitVec 32

/-- Register `r`. -/
def VFile.reg (p : VFile) (r : Nat) : BitVec 131072 := (p.1[r]?).getD 0

/-- Register `k` of the group at `vn` takes its elements, and is live when there are any. -/
def VFile.putPart (w vn : Nat) (xs : List Nat) (p : VFile) (k : Nat) : VFile :=
  if (groupPart w xs k).isEmpty then p
  else (modAt p.1 (vn + k) fun r => overlay w r (groupPart w xs k), p.2 ||| BitVec.twoPow 32 (vn + k))

/-- The group of `g` registers at `vn` takes its elements. -/
def VFile.put (p : VFile) (w vn g : Nat) (xs : List Nat) : VFile := (List.range g).foldl (VFile.putPart w vn xs) p

/-- The vector registers of a hart. -/
def Hart.vfile (h : Hart) : VFile := (h.v, h.vLive)

/-- The hart with other vector registers. -/
def Hart.withVfile (h : Hart) (p : VFile) : Hart := { h with v := p.1, vLive := p.2 }

theorem Hart.setVelems_eq (h : Hart) (w vn g : Nat) (xs : List Nat) : h.setVelems w vn g xs = h.withVfile (h.vfile.put w vn g xs) :=
  List.foldl_hom (init := h.vfile) h.withVfile fun p k => by
    rw [VFile.putPart, apply_ite h.withVfile]
    rfl

theorem modAt_getElem?_self {v : Vector α n} {i : Nat} (h : i < n) (f : α → α) : (modAt v i f)[i]? = (v[i]?).map f := by
  rw [modAt, dif_pos h]
  simp [h]

theorem modAt_getElem?_ne (v : Vector α n) {i r : Nat} (h : r ≠ i) (f : α → α) : (modAt v i f)[r]? = v[r]? := by
  unfold modAt
  split
  · exact Vector.getElem?_set_ne _ h.symm
  · rfl

theorem VFile.putPart_reg_self (p : VFile) {vn k : Nat} (h : vn + k < 32) (w : Nat) (xs : List Nat) :
    (p.putPart w vn xs k).reg (vn + k) = overlay w (p.reg (vn + k)) (groupPart w xs k) := by
  unfold VFile.putPart
  split
  · next none => rw [List.isEmpty_iff.1 none, overlay_nil]
  · rw [VFile.reg, modAt_getElem?_self h, VFile.reg, Vector.getElem?_eq_getElem h]
    rfl

theorem VFile.putPart_reg_ne (p : VFile) {vn k r : Nat} (h : r ≠ vn + k) (w : Nat) (xs : List Nat) : (p.putPart w vn xs k).reg r = p.reg r := by
  unfold VFile.putPart
  split
  · rfl
  · rw [VFile.reg, modAt_getElem?_ne _ h, VFile.reg]

theorem VFile.putPart_live_ne (p : VFile) {vn k r : Nat} (h : r ≠ vn + k) (w : Nat) (xs : List Nat) :
    (p.putPart w vn xs k).2.getLsbD r = p.2.getLsbD r := by
  unfold VFile.putPart
  split
  · rfl
  · simp [BitVec.getLsbD_or, BitVec.getLsbD_twoPow, h.symm]

theorem VFile.put_succ (p : VFile) (w vn g : Nat) (xs : List Nat) : p.put w vn (g + 1) xs = (p.put w vn g xs).putPart w vn xs g := by
  rw [VFile.put, List.range_succ, List.foldl_append]
  rfl

/-- Registers outside a group are as they were. -/
theorem VFile.put_outside (p : VFile) {vn g r : Nat} (h : r < vn ∨ vn + g ≤ r) (w : Nat) (xs : List Nat) :
    (p.put w vn g xs).reg r = p.reg r ∧ (p.put w vn g xs).2.getLsbD r = p.2.getLsbD r := by
  induction g with
  | zero => exact ⟨rfl, rfl⟩
  | succ g ih =>
    have other : r ≠ vn + g := by omega
    obtain ⟨reg, live⟩ := ih (by omega)
    rw [VFile.put_succ, VFile.putPart_reg_ne _ other, VFile.putPart_live_ne _ other]
    exact ⟨reg, live⟩

/-- Registers of a group have taken their elements. -/
theorem VFile.put_inside (p : VFile) {vn g k : Nat} (h : k < g) (fits : vn + g ≤ 32) (w : Nat) (xs : List Nat) :
    (p.put w vn g xs).reg (vn + k) = overlay w (p.reg (vn + k)) (groupPart w xs k) := by
  induction g with
  | zero => omega
  | succ g ih =>
    rw [VFile.put_succ]
    by_cases last : k = g
    · subst last
      rw [VFile.putPart_reg_self _ (by omega), (p.put_outside (Or.inr le_rfl) w xs).1]
    · rw [VFile.putPart_reg_ne _ (by omega), ih (by omega) (by omega)]

/-! ### Elements of a group -/

theorem Hart.velem_eq (h : Hart) (w vn k : Nat) :
    h.velem w vn k = (h.vfile.reg (vn + k / perReg w)).toNat / 2 ^ (k % perReg w * w) % 2 ^ w := rfl

section
variable {h t : Hart} {w vn g : Nat} {xs : List Nat} (written : t.vfile = h.vfile.put w vn g xs) (fits : vn + g ≤ 32)
include written fits

/-- A written group holds the elements written, and its old ones past them (07_lane.md R202). -/
theorem Hart.velem_of_put {k : Nat} (inside : k < g * perReg w) : t.velem w vn k = (xs[k]?).elim (h.velem w vn k) (· % 2 ^ w) := by
  have some_register : 0 < perReg w := Nat.pos_of_ne_zero fun none => by simp [none] at inside
  have place : k % perReg w < perReg w := Nat.mod_lt _ some_register
  have register : k / perReg w < g := Nat.div_lt_of_lt_mul (by rwa [Nat.mul_comm])
  rw [Hart.velem_eq, written, VFile.put_inside _ register fits, overlay_field (field_le_of_lt_perReg place), groupPart_getElem? place,
    Nat.div_add_mod', Hart.velem_eq]

/-- A row that is `x` where that is something, and the old elements where not, is a written group. -/
theorem groupIs_of_put {x : Nat → Option Nat}
    (holds : ∀ k, k < g * perReg w → (xs[k]?).elim (h.velem w vn k) (· % 2 ^ w) = (x k).elim (h.velem w vn k) (· % 2 ^ w)) :
    GroupIs h t w vn g x := by
  refine ⟨fun k inside => ?_, fun r _ out => ?_⟩
  · rw [Hart.velem_of_put written fits inside, holds k inside]
    cases x k <;> rfl
  · obtain ⟨reg, live⟩ := h.vfile.put_outside out w xs
    rw [← written] at reg live
    exact ⟨congrArg BitVec.toNat reg, live⟩

end

theorem Hart.velem_lt (h : Hart) (w vn k : Nat) : h.velem w vn k < 2 ^ w := Nat.mod_lt _ (Nat.two_pow_pos w)

/-- A group at a multiple of its size lies within the registers (07_lane.md R202). -/
theorem group_fits {v : BitVec 5} {et : Word} (h : v.toNat % etGroup et = 0) : v.toNat + etGroup et ≤ 32 := by
  have below : v.toNat < 32 := v.isLt
  have size : bits et 4 2 < 4 := Nat.mod_lt _ (by decide)
  unfold etGroup at h ⊢
  generalize bits et 4 2 = k at h size ⊢
  interval_cases k <;> omega

/-- A written row with its tail (07_lane.md R207). -/
theorem withTail_getElem? {tp : Bool} {w g k : Nat} (inside : k < g * perReg w) (xs : List Nat) :
    (withTail tp w g xs)[k]? = if k < xs.length then xs[k]? else if tp = true ∧ 0 < xs.length then some 0 else none := by
  unfold withTail
  by_cases below : k < xs.length
  · rw [if_pos below]
    split
    · exact List.getElem?_append_left below
    · rfl
  · rw [if_neg below]
    have beyond : xs.length ≤ k := by omega
    cases xs with
    | nil => simp
    | cons x xs =>
      cases tp with
      | false => simpa using beyond
      | true =>
        simp only [List.isEmpty_cons, Bool.not_false, Bool.and_self, if_true, List.length_cons, Nat.zero_lt_succ, and_self]
        rw [List.getElem?_append_right beyond, List.getElem?_replicate, if_pos (by rw [List.length_cons] at *; omega)]

/-! ### Bits of a span -/

/-- The bits of a span one by one (07_lane.md R203). -/
theorem Hart.mbits_eq (h : Hart) (mn n : Nat) : h.mbits mn n = (List.range n).map (h.mbit mn) := by
  refine List.map_congr_left fun i below => ?_
  have spanned : i / 4096 < maskSpan n := by
    have := List.mem_range.1 below
    unfold maskSpan
    omega
  simp only [Hart.mbit, List.getElem?_map, List.getElem?_range spanned, Option.map_some, Option.getD_some]
  rfl

end Sys2Proof.Machine
end

section
/-!
PROOFS. Rows of vector loads: the elements of a row one by one, in ascending order, and what a load does with a row that is read in full or
up to an element that fails (06_port.md R175, R178, R180).
-/

namespace Sys2Proof.Machine

open Sys2Proof.Claims

/-! ### Rows -/

/-- The row of the elements `js`: an active one takes the next of the values loaded, an inactive one follows MP (06_port.md R175). -/
def loadedRow (mp : Bool) (b : Nat → Bool) (c : Nat → Nat) : List Nat → List Nat → List Nat
  | [], _ => []
  | j :: js, xs => if b j then xs.headD 0 :: loadedRow mp b c js xs.tail else (if mp then 0 else c j) :: loadedRow mp b c js xs

section
variable {mp : Bool} {b : Nat → Bool} {c : Nat → Nat}

theorem loadedRow_length (js xs : List Nat) : (loadedRow mp b c js xs).length = js.length := by
  induction js generalizing xs with
  | nil => rfl
  | cons j js ih =>
    rw [loadedRow]
    split <;> rw [List.length_cons, List.length_cons, ih]

theorem loadedRow_getElem? {js xs : List Nat} (all : xs.length = (js.filter b).length) {k : Nat} (h : k < js.length) :
    (loadedRow mp b c js xs)[k]? =
      if b js[k] then xs[((js.take k).filter b).length]? else some (if mp then 0 else c js[k]) := by
  induction js generalizing xs k with
  | nil => cases h
  | cons j js ih =>
    by_cases active : b j = true
    · rw [List.filter_cons_of_pos active, List.length_cons] at all
      obtain ⟨x, xs, rfl⟩ := List.exists_cons_of_length_eq_add_one all
      rw [loadedRow, if_pos active, List.headD_cons, List.tail_cons]
      cases k with
      | zero => simp [active]
      | succ k => simp [ih (Nat.succ.inj all) (Nat.lt_of_succ_lt_succ h), active]
    · rw [List.filter_cons_of_neg active] at all
      rw [loadedRow, if_neg active]
      cases k with
      | zero => simp [active]
      | succ k => simp [ih all (Nat.lt_of_succ_lt_succ h), active]

/-- The row of the elements below `n`. -/
theorem loadedRow_range_getElem? {n k : Nat} {xs : List Nat} (all : xs.length = ((List.range n).filter b).length) (h : k < n) :
    (loadedRow mp b c (List.range n) xs)[k]? =
      if b k then xs[((List.range k).filter b).length]? else some (if mp then 0 else c k) := by
  rw [loadedRow_getElem? all (by rwa [List.length_range]), List.getElem_range, List.take_range, Nat.min_eq_left h.le]

variable {f : Nat → Nat → Acc Nat} {s t u : State} {ys : List Nat} {r : Option (Nat × Fail)} {rest : List (Bool × Nat)}

/-! ### Elements in order -/

theorem rowUntil_active {i v x : Nat} (first : f i v s = .ok x t) (more : rowUntil f mp (i + 1) rest t = .ok (ys, r) u) :
    rowUntil f mp i ((true, v) :: rest) s = .ok (x :: ys, r) u := by
  have tried : tryRun (f i v) s = .ok (.ok x) t := by rw [tryRun, first]
  rw [rowUntil, if_pos rfl, run_bind_ok tried]
  exact run_bind_ok more _

theorem rowUntil_fails {i v : Nat} {e : Fail} (first : f i v s = .error e t) :
    rowUntil f mp i ((true, v) :: rest) s = .ok ([], some (i, e)) t := by
  have tried : tryRun (f i v) s = .ok (.error e) t := by rw [tryRun, first]
  rw [rowUntil, if_pos rfl, run_bind_ok tried]
  rfl

theorem rowUntil_inactive {i v : Nat} (more : rowUntil f mp (i + 1) rest s = .ok (ys, r) u) :
    rowUntil f mp i ((false, v) :: rest) s = .ok ((if mp then 0 else v) :: ys, r) u := by
  rw [rowUntil, if_neg Bool.false_ne_true]
  exact run_bind_ok more _

/-- Elements that are all read give their row, before what follows them. -/
theorem rowUntil_append {a : Nat → Acc Nat} {i n : Nat} {xs : List Nat} (read : ((List.range' i n).filter b).mapM a s = .ok xs t)
    (more : rowUntil (fun j _ => a j) mp (i + n) rest t = .ok (ys, r) u) :
    rowUntil (fun j _ => a j) mp i ((List.range' i n).map (fun j => (b j, c j)) ++ rest) s =
      .ok (loadedRow mp b c (List.range' i n) xs ++ ys, r) u := by
  induction n generalizing i s xs with
  | zero => cases read; exact more
  | succ n ih =>
    rw [← Nat.succ_add_eq_add_succ] at more
    rw [List.range'_succ, List.map_cons, List.cons_append, loadedRow]
    rw [List.range'_succ] at read
    by_cases active : b i = true
    · rw [List.filter_cons_of_pos active, List.mapM_cons] at read
      obtain ⟨x, s', first, read⟩ := exists_of_run_bind_ok read
      obtain ⟨xs, t', read, done⟩ := exists_of_run_bind_ok read
      cases done
      rw [active, if_pos rfl]
      exact rowUntil_active first (ih read more)
    · rw [List.filter_cons_of_neg active] at read
      rw [Bool.eq_false_iff.2 active, if_neg Bool.false_ne_true]
      exact rowUntil_inactive (ih read more)

/-- A row that is read in full. -/
theorem rowUntil_range {a : Nat → Acc Nat} {n : Nat} {xs : List Nat} (read : ((List.range n).filter b).mapM a s = .ok xs t) :
    rowUntil (fun j _ => a j) mp 0 ((List.range n).map fun j => (b j, c j)) s = .ok (loadedRow mp b c (List.range n) xs, none) t := by
  have row := rowUntil_append (c := c) (mp := mp) (rest := []) (u := t) (ys := []) (r := none) (by rwa [← List.range_eq_range']) rfl
  rwa [List.append_nil, List.append_nil, ← List.range_eq_range'] at row

/-- A row that is read up to an element that fails. -/
theorem rowUntil_range_fails {a : Nat → Acc Nat} {n k : Nat} {xs : List Nat} {e : Fail} (below : k < n) (active : b k = true)
    (read : ((List.range k).filter b).mapM a s = .ok xs t) (fails : a k t = .error e u) :
    rowUntil (fun j _ => a j) mp 0 ((List.range n).map fun j => (b j, c j)) s =
      .ok (loadedRow mp b c (List.range k) xs, some (k, e)) u := by
  obtain ⟨d, rfl⟩ := Nat.exists_eq_add_of_lt below
  rw [List.range_eq_range', Nat.add_assoc, ← List.range'_append, List.map_append, Nat.one_mul, Nat.zero_add, List.range'_succ, List.map_cons,
    active]
  have failed := rowUntil_fails (f := fun j _ => a j) (mp := mp) (rest := (List.range' (k + 1) d).map fun j => (b j, c j)) (v := c k) fails
  rw [List.range_eq_range'] at read ⊢
  have row := rowUntil_append (c := c) read (by rwa [Nat.zero_add])
  rwa [List.append_nil] at row

/-- A probe pass that no element fails. -/
theorem probeUntil_ok {p : Nat → Acc Unit} {i n : Nat} (probed : ((List.range' i n).filter b).forM p s = .ok () t) :
    probeUntil p i ((List.range' i n).map b) s = .ok none t := by
  induction n generalizing i s with
  | zero => cases probed; rfl
  | succ n ih =>
    rw [List.range'_succ, List.map_cons, probeUntil]
    rw [List.range'_succ] at probed
    by_cases active : b i = true
    · rw [List.filter_cons_of_pos active] at probed
      obtain ⟨x, s', first, probed⟩ := exists_of_run_bind_ok (a := p i) (f := fun _ => ((List.range' (i + 1) n).filter b).forM p) probed
      have tried : tryRun (p i) s = .ok (.ok x) s' := by rw [tryRun, first]
      rw [if_pos active, run_bind_ok tried]
      exact ih probed
    · rw [List.filter_cons_of_neg active] at probed
      rw [if_neg active]
      exact ih probed

end

/-- The probe pass of an access no element of which fails it. -/
theorem probeEnd_ok {h : Hart} {x : RowForm} {acc : Access} {n : Nat} {s t : State}
    (probed : rowProbes h x acc (activeBits h x.m.toNat n) s = .ok () t) :
    probeEnd x.form h.agent acc (etSew h.et) 0 x.addr (h.mbits x.m.toNat n) s = .ok none t := by
  unfold rowProbes at probed
  cases form : x.form with
  | unit => rw [form] at probed; cases probed; rfl
  | strided => rw [form] at probed; cases probed; rfl
  | indexed vi =>
    rw [form] at probed
    rw [Hart.mbits_eq]
    unfold activeBits at probed
    rw [List.range_eq_range'] at probed ⊢
    exact probeUntil_ok probed

end Sys2Proof.Machine
end

section
/-!
PROOFS. The vector loads: where the elements of a row are read as `VectorLoads` and `FirstFault` say, its entry completes with them.
-/

namespace Sys2Proof.Machine

open Sys2Proof.Claims

/-! ### The end of a load -/

/-- The hart with another FFMASK, where there is one. -/
def Hart.withFfmask (h : Hart) (ff : Option Word) : Hart := { h with ffmask := ff.getD h.ffmask }

/-- The hart with a row written, and FFMASK with what a first-fault load says (06_port.md R175, R181). -/
def Hart.withRow (x : RowForm) (et : Word) (xs : List Nat) (ff : Option Word) (h : Hart) : Hart :=
  (h.setVelems (etSew et) x.v.toNat (etGroup et) xs).withFfmask ff

theorem Hart.withRow_eq (x : RowForm) (et : Word) (xs : List Nat) (ff : Option Word) (h : Hart) : h.withRow x et xs ff =
    { h.withVfile (h.vfile.put (etSew et) x.v.toNat (etGroup et) xs) with ffmask := ff.getD h.ffmask } := by
  rw [Hart.withRow, Hart.setVelems_eq]; rfl

theorem modHart_setVelems_ffmask (x : RowForm) (et : Word) (xs : List Nat) (y : Word) (s : State) :
    (modHart (fun h => h.setVelems (etSew et) x.v.toNat (etGroup et) xs) >>= fun _ => modHart fun h => { h with ffmask := y }) s =
      .ok () (s.mapHart (Hart.withRow x et xs (some y))) :=
  congrArg (EStateM.Result.ok ())
    (s.mapHart_mapHart (fun h => h.setVelems (etSew et) x.v.toNat (etGroup et) xs) fun h => h.withFfmask (some y))

/-- An entry behind its instruction, and then a row: nothing of it is what accesses look at. -/
theorem unseen_issued (e : Entry) : Unseen (Hart.issued e) := ⟨fun _ => rfl, fun _ => rfl, fun _ => rfl, fun _ => rfl⟩

theorem unseen_withRow (e : Entry) (x : RowForm) (et : Word) (xs : List Nat) (ff : Option Word) :
    Unseen fun h => (h.issued e).withRow x et xs ff := by
  constructor <;> intro h <;> simp only [Hart.withRow_eq] <;> rfl

/-- The elements of a row before the first active one are no failing ones (06_port.md R180). -/
theorem firstSet_ne {b : Nat → Bool} {n k : Nat} (earlier : (List.range k).filter b ≠ []) :
    k ≠ (firstSet ((List.range n).map b)).getD 0 := by
  obtain ⟨j, there⟩ := List.exists_mem_of_ne_nil _ earlier
  obtain ⟨below, active⟩ := List.mem_filter.1 there
  rw [List.mem_range] at below
  intro same
  cases found : firstSet ((List.range n).map b) with
  | none => rw [found] at same; exact absurd same (by simp; omega)
  | some i =>
    rw [found, Option.getD_some] at same
    subst same
    obtain ⟨_, -, none_before⟩ := List.findIdx?_eq_some_iff_getElem.1 found
    have := none_before j below
    simp [active] at this

/-- The mask and the old elements of a row. -/
theorem Hart.mbits_zip_velems (h : Hart) (m w v n : Nat) :
    (h.mbits m n).zip (h.velems w v n) = (List.range n).map fun j => (h.mbit m j, h.velem w v j) := by
  rw [Hart.mbits_eq, Hart.velems, List.zip_map']

/-- The elements of a row below `k`, of which `xs` were loaded (06_port.md R175). -/
def Hart.rowOf (h : Hart) (x : RowForm) (k : Nat) (xs : List Nat) : List Nat :=
  loadedRow (etMp h.et) (h.mbit x.m.toNat) (h.velem (etSew h.et) x.v.toNat) (List.range k) xs

/-- The loads of some elements of a row. -/
def Hart.rowLoads (h : Hart) (x : RowForm) (is : List Nat) : Acc (List Nat) :=
  is.mapM fun j => loadAt h.agent (etSew h.et) (x.addr j) j

/-- What a load does with a row, and with the element of it that failed (06_port.md R175, R179, R180). -/
def loadEnd (e : Entry) (x : RowForm) (mask : List Bool) (ys : List Nat) (fail : Option (Nat × Fail)) : Run Unit :=
  match fail with
  | none => do
    modHart fun h => h.setVelems (etSew e.et) x.v.toNat (etGroup e.et) (withTail (etTp e.et) (etSew e.et) (etGroup e.et) ys)
    if x.ff then modHart fun h => { h with ffmask := ffWord false e.n }
  | some (k, err) => do
    modHart fun h => h.setVelems (etSew e.et) x.v.toNat (etGroup e.et) ys
    if x.ff && k != (firstSet mask).getD 0 && trims err.code then modHart fun h => { h with ffmask := ffWord true k }
    else failTrap 2 k err

section
variable {h : Hart} {e : Entry} {x : RowForm} {base step : Word} {n : Nat} {s t r u : State} {xs ys : List Nat}
variable (stands : s.hart = h) (counted : e.n = n) (fresh : e.prog.toNat = 0) (legal : x.form.ok true e.et x.v.toNat x.m.toNat n = true)
variable (typed : h.et = e.et) (addressed : x.form.addr h (etSew h.et) base step = x.addr)
variable (probed : rowProbes h x .load (activeBits h x.m.toNat n) s = .ok () t)
include stands counted fresh legal typed addressed probed

/-- A load that probes its elements without a fault reads its row and does with it what `loadEnd` says. -/
theorem portLoad_eq_loadEnd {fail : Option (Nat × Fail)}
    (row : rowUntil (fun j _ => loadAt h.agent (etSew h.et) (x.addr j) j) (etMp h.et) 0
      ((List.range n).map fun j => (h.mbit x.m.toNat j, h.velem (etSew h.et) x.v.toNat j)) t = .ok (ys, fail) u) :
    portLoad e x.form x.ff x.v.toNat x.m.toNat base step s = loadEnd e x (h.mbits x.m.toNat n) ys fail u := by
  subst counted
  have probes := probeEnd_ok probed
  rw [typed] at addressed row probes
  unfold portLoad checked
  rw [if_pos legal, theHart_bind, stands, fresh]
  dsimp only [List.take_zero, List.nil_append]
  rw [addressed, run_bind_ok probes, Option.map_none, Option.getD_none, Hart.mbits_zip_velems, List.take_of_length_le (by simp),
    List.drop_zero, run_bind_ok row, List.drop_zero, Nat.zero_add]
  cases fail <;> rfl

/-- A load whose elements are all read completes with them. -/
theorem portLoad_ok (read : h.rowLoads x (activeBits h x.m.toNat n) t = .ok xs u) :
    portLoad e x.form x.ff x.v.toNat x.m.toNat base step s =
      .ok () (u.mapHart (Hart.withRow x e.et (withTail (etTp e.et) (etSew e.et) (etGroup e.et) (h.rowOf x n xs))
        (if x.ff then some (ffWord false n) else none))) := by
  rw [portLoad_eq_loadEnd stands counted fresh legal typed addressed probed (rowUntil_range read), loadEnd, counted]
  cases x.ff with
  | false => rfl
  | true => exact modHart_setVelems_ffmask ..

/-- A first-fault load that is read up to an element that trims it completes with those below (06_port.md R180). -/
theorem portLoad_trimmed {k : Nat} {err : Fail} (below : k < n) (active : h.mbit x.m.toNat k = true)
    (read : h.rowLoads x (activeBits h x.m.toNat k) t = .ok xs r)
    (fails : loadAt h.agent (etSew h.et) (x.addr k) k r = .error err u) (ff : x.ff = true)
    (earlier : activeBits h x.m.toNat k ≠ []) (trim : trims err.code = true) :
    portLoad e x.form x.ff x.v.toNat x.m.toNat base step s =
      .ok () (u.mapHart (Hart.withRow x e.et (h.rowOf x k xs) (some (ffWord true k)))) := by
  have later := firstSet_ne (n := n) earlier
  have taken : (x.ff && k != (firstSet ((List.range n).map (h.mbit x.m.toNat))).getD 0 && trims err.code) = true := by
    simp [ff, later, trim]
  rw [portLoad_eq_loadEnd stands counted fresh legal typed addressed probed (rowUntil_range_fails below active read fails), loadEnd,
    Hart.mbits_eq, if_pos taken]
  exact modHart_setVelems_ffmask ..

end

/-! ### What the group then holds -/

/-- Element `j` of a row: loaded where it is active, and as MP says where not (06_port.md R175). -/
def Hart.rowAt (h : Hart) (x : RowForm) (xs : List Nat) (j : Nat) : Option Nat :=
  if h.mbit x.m.toNat j then xs[(activeBits h x.m.toNat j).length]? else if etMp h.et then some 0 else none

theorem Hart.rowOf_length (h : Hart) (x : RowForm) (n : Nat) (xs : List Nat) : (h.rowOf x n xs).length = n :=
  (loadedRow_length ..).trans List.length_range

section
variable {h : Hart} {x : RowForm} {n j : Nat} {xs : List Nat} (all : xs.length = (activeBits h x.m.toNat n).length)
include all

theorem Hart.rowOf_elim (below : j < n) :
    ((h.rowOf x n xs)[j]?).elim (h.velem (etSew h.et) x.v.toNat j) (· % 2 ^ etSew h.et) =
      (h.rowAt x xs j).elim (h.velem (etSew h.et) x.v.toNat j) (· % 2 ^ etSew h.et) := by
  have element := loadedRow_range_getElem? (mp := etMp h.et) (c := h.velem (etSew h.et) x.v.toNat) all below
  rw [Hart.rowOf, element, Hart.rowAt]
  by_cases active : h.mbit x.m.toNat j = true
  · rw [if_pos active, if_pos active]
    rfl
  · rw [if_neg active, if_neg active]
    cases etMp h.et with
    | true => rfl
    | false => exact Nat.mod_eq_of_lt (h.velem_lt ..)

/-- The group of a load whose elements were all read (07_lane.md R207). -/
theorem groupIs_loaded {t : Hart} (fits : x.v.toNat + etGroup h.et ≤ 32)
    (written : t.vfile = h.vfile.put (etSew h.et) x.v.toNat (etGroup h.et)
      (withTail (etTp h.et) (etSew h.et) (etGroup h.et) (h.rowOf x n xs))) :
    GroupIs h t (etSew h.et) x.v.toNat (etGroup h.et) (tailed (etTp h.et) n 0 (h.rowAt x xs)) := by
  refine groupIs_of_put written fits fun k inside => ?_
  rw [withTail_getElem? inside, Hart.rowOf_length, tailed]
  by_cases below : k < n
  · rw [if_pos below, if_pos below, Hart.rowOf_elim all below]
  · rw [if_neg below, if_neg below]

/-- The group of a load whose elements below `n` were read (06_port.md R180). -/
theorem groupIs_trimmed {t : Hart} (fits : x.v.toNat + etGroup h.et ≤ 32)
    (written : t.vfile = h.vfile.put (etSew h.et) x.v.toNat (etGroup h.et) (h.rowOf x n xs)) :
    GroupIs h t (etSew h.et) x.v.toNat (etGroup h.et) (fun j => if j < n then h.rowAt x xs j else none) := by
  refine groupIs_of_put written fits fun k _ => ?_
  by_cases below : k < n
  · rw [if_pos below, Hart.rowOf_elim all below]
  · rw [if_neg below, List.getElem?_eq_none (by rw [Hart.rowOf_length]; omega)]

end

/-! ### The vector loads as entries of the PIQ -/

theorem sextWord_eq {w : Nat} (x : Nat) (wide : 0 < w) : sextWord w x = (BitVec.ofNat w x).signExtend 64 := by
  obtain ⟨w, rfl⟩ := Nat.exists_eq_succ_of_ne_zero wide.ne'
  rw [sextWord, BitVec.signExtend, BitVec.toInt_eq_toNat_cond, BitVec.toNat_ofNat, Nat.succ_sub_one]
  have half : 2 * (x % 2 ^ (w + 1)) < 2 ^ (w + 1) ↔ x % 2 ^ (w + 1) < 2 ^ w := by rw [pow_succ]; omega
  simp only [half]
  push_cast
  rfl

theorem tyWidth_pos (t : Ty) : 0 < tyWidth t := by
  unfold tyWidth
  split <;> decide

/-- The instruction `i` loads the row `x` of the hart, as an entry of the PIQ with the operands `base` and `step`. -/
structure LoadsRow (s : State) (i : Instr) (x : RowForm) (rs : List (BitVec 6)) (base step : Word) : Prop where
  /-- It draws nothing. -/
  plain : Plain i
  /-- It goes into the PIQ. -/
  issues : exec i s = issue i 2 rs s
  /-- Its entry is a load. -/
  loads : runEntry (s.entry i rs) = portLoad (s.entry i rs) x.form x.ff x.v.toNat x.m.toNat base step
  /-- The addresses are those of the row. -/
  addressed : x.form.addr s.hart (etSew s.hart.et) base step = x.addr
  /-- As many elements as there are lanes. -/
  lanes : (s.entry i rs).n = lanes s.hart
  /-- A first-fault load is not indexed (06_port.md R180). -/
  unprobed : x.ff = true → ∀ vi, x.form ≠ .indexed vi

theorem exists_loadsRow {s : State} {i : Instr} {x : RowForm} (row : loadRow s.hart i = some x) :
    ∃ rs base step, LoadsRow s i x rs base step := by
  have imm (y : BitVec 12) : sextWord 12 y.toNat = y.signExtend 64 := by rw [sextWord_eq _ (by decide), BitVec.ofNat_toNat, BitVec.setWidth_eq]
  cases i with
  | vld v a b m => cases row; exact ⟨[a, b], _, _, ⟨fun _ _ => rfl, fun _ => rfl⟩, rfl, rfl, rfl, rfl, nofun⟩
  | vldff v a b m => cases row; exact ⟨[a, b], _, _, ⟨fun _ _ => rfl, fun _ => rfl⟩, rfl, rfl, rfl, rfl, fun _ => nofun⟩
  | vlds v a b m => cases row; exact ⟨[a, b], _, _, ⟨fun _ _ => rfl, fun _ => rfl⟩, rfl, rfl, rfl, rfl, nofun⟩
  | vldsff v a b m => cases row; exact ⟨[a, b], _, _, ⟨fun _ _ => rfl, fun _ => rfl⟩, rfl, rfl, rfl, rfl, fun _ => nofun⟩
  | vldI v a y =>
    cases row
    refine ⟨[a], _, _, ⟨fun _ _ => rfl, fun _ => rfl⟩, rfl, rfl, ?_, rfl, nofun⟩
    rw [imm]
    rfl
  | vldffI v a y =>
    cases row
    refine ⟨[a], _, _, ⟨fun _ _ => rfl, fun _ => rfl⟩, rfl, rfl, ?_, rfl, fun _ => nofun⟩
    rw [imm]
    rfl
  | vldx v a y m =>
    cases row
    refine ⟨[a], _, _, ⟨fun _ _ => rfl, fun _ => rfl⟩, rfl, rfl, funext fun j => ?_, rfl, nofun⟩
    exact congrArg (fun o => s.hart.sreg a + o * word (etSew s.hart.et / 8)) (sextWord_eq _ (tyWidth_pos _))
  | _ => cases row

/-- The checks at issue are those of the form (06_port.md R173). -/
theorem portForm_ok {h : Hart} {x : RowForm} (checks : rowChecks h x true) : x.form.ok true h.et x.v.toNat x.m.toNat (lanes h) = true := by
  obtain ⟨group, span, wide, index⟩ := checks
  unfold PortForm.ok groupOk
  cases form : x.form with
  | unit => simp [group, span]
  | strided => simp [group, span, wide (by rw [form]; nofun)]
  | indexed vi =>
    obtain ⟨aligned, apart⟩ := index vi form
    have separate : sameOrApart x.v.toNat (etGroup h.et) vi (etGroup h.et) = true := by
      obtain same | apart := apart rfl
      · simp [sameOrApart, same]
      · simp [sameOrApart, apart]
    simp [group, span, wide (by rw [form]; nofun), aligned, separate]

end Sys2Proof.Machine
end

section
/-!
PROOFS. `VectorLoadForms`: the accesses of a row are made behind its entry as they are made before it, and the entry completes.
-/

namespace Sys2Proof.Machine

open Sys2Proof.Claims

/-! ### What a row's accesses are behind its entry -/

theorem rowLoads_blind {g : Hart → Hart} (unseen : Unseen g) (h : Hart) (x : RowForm) (is : List Nat) : Blind g (h.rowLoads x is) :=
  Blind.mapM (fun _ => loadAt_blind unseen ..) _

theorem rowProbes_blind {g : Hart → Hart} (h : Hart) (x : RowForm) (acc : Access) (is : List Nat) : Blind g (rowProbes h x acc is) := by
  unfold rowProbes
  split
  · exact Blind.forM (fun _ => probeAt_blind ..) _
  · exact Blind.pure _
  · exact Blind.pure _

/-- The forms that are not indexed have no probe pass. -/
theorem rowProbes_unprobed {x : RowForm} (unprobed : ∀ vi, x.form ≠ .indexed vi) (h : Hart) (acc : Access) (is : List Nat) :
    rowProbes h x acc is = pure () := by
  unfold rowProbes
  split
  · next vi form => exact absurd form (unprobed vi)
  · rfl
  · rfl

theorem exists_of_failsAfter {a : Acc α} {b : Acc β} {s t : State} {x : α} {e : Fail} (h : failsAfter a b s = .ok (x, e) t) :
    ∃ r, a s = .ok x r ∧ b r = .error e t := by
  obtain ⟨y, r, first, h⟩ := exists_of_run_bind_ok h
  cases fails : b r with
  | ok z t' => rw [fails] at h; cases h
  | error e' t' => rw [fails] at h; cases h; exact ⟨r, first, fails⟩

/-! ### The entry -/

/-- An entry with a row written stands as the hart with the row does, holding the entry. -/
theorem issued_withRow (u h : Hart) (e : Entry) (x : RowForm) (et : Word) (ys : List Nat) (ff : Option Word)
    (seq : u.nextSeq = h.nextSeq) (pc : u.pc = h.pc) : (u.issued e).withRow x et ys ff = (u.withRow x et ys ff).holding e h := by
  rw [Hart.withRow_eq, Hart.withRow_eq, Hart.issued, Hart.holding, Hart.holding, ← seq, ← pc]
  rfl

theorem withRow_quiet (h : Hart) (x : RowForm) (et : Word) (ys : List Nat) (ff : Option Word) : (h.withRow x et ys ff).quiet = h.quiet := by
  rw [Hart.withRow_eq]
  rfl

section
variable {s u : State} {i : Instr} {x : RowForm} {rs : List (BitVec 6)} {base step : Word}
variable (free : Free s i) (loads : LoadsRow s i x rs base step)
include free loads

/-- A row written by an entry that has completed, past its instruction. -/
theorem exec_row {a : EStateM ε State α} {y : α} {ys : List Nat} {ff : Option Word}
    (read : working a s = .ok y u) (kept : ∃ l v, u.hart = { s.hart with late := l, vstat := v })
    (runs : ∀ k t, a (s.atWork k) = .ok y t →
      portLoad (s.entry i rs) x.form x.ff x.v.toNat x.m.toNat base step ((s.mapHart (Hart.issued (s.entry i rs))).atWork k) =
        .ok () ((t.mapHart (Hart.issued (s.entry i rs))).mapHart (Hart.withRow x s.hart.et ys ff))) :
    exec i s = .next (u.setHart ((u.hart.withRow x s.hart.et ys ff).after s.hart)) := by
  obtain ⟨l, v, at_end⟩ := kept
  have quiet : u.hart.quiet = true := by rw [at_end]; exact free.1
  rw [loads.issues]
  refine issue_piq_ok free loads.plain (e := s.entry i rs) ?_ ((withRow_quiet ..).trans quiet)
  rw [← issued_withRow _ _ _ _ _ _ _ (by rw [at_end]) (by rw [at_end])]
  refine working_mapHart (unseen_withRow (s.entry i rs) x s.hart.et ys ff) (fun k t first => ?_) read
  rw [loads.loads, runs k t first, State.mapHart_mapHart]

end

/-- The end of a row, as the statements say it. -/
theorem row_ends (u h : Hart) (x : RowForm) (et : Word) (ys : List Nat) (ff : Option Word) :
    (u.withRow x et ys ff).after h =
        { u with v := ((u.withRow x et ys ff).after h).v, vLive := ((u.withRow x et ys ff).after h).vLive, ffmask := ff.getD u.ffmask
                 pc := h.pc + 4, ld := 0, nextSeq := h.nextSeq + 1 } ∧
      ((u.withRow x et ys ff).after h).vfile = u.vfile.put (etSew et) x.v.toNat (etGroup et) ys := by
  rw [Hart.withRow_eq]
  exact ⟨rfl, rfl⟩

/-! ### FFMASK -/

/-- FFMASK where nothing was trimmed (06_port.md R181). -/
theorem ffWord_false {n : Nat} (h : n < 2 ^ 32) : ffWord false n = BitVec.ofNat 64 n := by
  rw [ffWord, Nat.mod_eq_of_lt h]
  simp [word]

/-- FFMASK with TRIM (06_port.md R181). -/
theorem ffWord_true {k : Nat} (h : k < 2 ^ 32) : ffWord true k = 0x8000000000000000 ||| BitVec.ofNat 64 k := by
  have joined := Nat.two_pow_add_eq_or_of_lt (h.trans (by decide : 2 ^ 32 < 2 ^ 63)) 1
  apply BitVec.eq_of_toNat_eq
  rw [ffWord, word, Nat.mod_eq_of_lt h, BitVec.toNat_or, BitVec.toNat_ofNat, BitVec.toNat_ofNat, Nat.mod_eq_of_lt (h.trans (by decide))]
  rw [Nat.mul_one] at joined
  rw [Bool.toNat_true, Nat.one_mul, Nat.mod_eq_of_lt (by omega), joined]
  rfl

/-- FFMASK after a load that was not trimmed. -/
theorem ffmask_untrimmed {n : Nat} (h : n < 2 ^ 32) (ff : Bool) (y : Word) :
    (if ff then some (ffWord false n) else none).getD y = if ff then BitVec.ofNat 64 n else y := by
  cases ff with
  | false => rfl
  | true => exact ffWord_false h

theorem lanes_lt (h : Hart) : lanes h < 2 ^ 32 := Nat.mod_lt _ (by decide)

theorem trims_iff (code : BitVec 8) : trims code = true ↔ code ∈ [0x02, 0x10, 0x11, (0x0F : BitVec 8)] := by
  simp [trims, eAlign, ePage, eHpage, eLink, or_assoc]

/-! ### The loads -/

/-- Every vector load whose active elements are read completes with them. -/
theorem vectorLoads : Claims.VectorLoads := by
  intro s u i x xs row free checks h is loaded
  obtain ⟨rs, base, step, loads⟩ := exists_loadsRow row
  let e := s.entry i rs
  let ys := withTail (etTp h.et) (etSew h.et) (etGroup h.et) (h.rowOf x (lanes h) xs)
  let ff := if x.ff then some (ffWord false (lanes h)) else none
  have probes : Blind (Hart.issued e) (rowProbes h x .load is) := rowProbes_blind ..
  have elements : Blind (Hart.issued e) (h.rowLoads x is) := rowLoads_blind (unseen_issued e) ..
  have kept : u.hart = h := (probes.bind fun _ => elements).working_hart loaded
  have moved := exec_row (ys := ys) (ff := ff) free loads loaded ⟨h.late, h.vstat, kept⟩ fun k t first => by
    obtain ⟨_, r, probed, read⟩ := exists_of_run_bind_ok first
    exact portLoad_ok (h := h.issued e) (s.issued_hart e k) loads.lanes rfl (portForm_ok checks) rfl loads.addressed
      (probes.ok probed) (elements.ok read)
  have all : xs.length = is.length := by
    obtain ⟨_, _, first, -⟩ := exists_of_working_ok loaded
    obtain ⟨_, _, -, read⟩ := exists_of_run_bind_ok first
    exact length_of_mapM_ok read
  obtain ⟨ended, written⟩ := row_ends h h x h.et ys ff
  refine ⟨_, moved, ?_, ?_⟩
  · rw [Past, State.hart_setHart, kept, ← ffmask_untrimmed (lanes_lt h)]
    exact congrArg u.setHart ended
  · rw [State.hart_setHart, kept]
    exact groupIs_loaded all (group_fits checks.1) written

/-- A first-fault load is trimmed at an element that fails and is not its first active one. -/
theorem firstFault : Claims.FirstFault := by
  intro s u i x xs k err row ff free checks h is below active earlier code loaded
  obtain ⟨rs, base, step, loads⟩ := exists_loadsRow row
  let e := s.entry i rs
  have elements : Blind (Hart.issued e) (h.rowLoads x is) := rowLoads_blind (unseen_issued e) ..
  have failing : Blind (Hart.issued e) (loadAt h.agent (etSew h.et) (x.addr k) k) := loadAt_blind (unseen_issued e) ..
  have only : AccessOnly s u := AccessOnly.of_working (fun first => by
    obtain ⟨r, read, fails⟩ := exists_of_failsAfter first
    exact ((AccessOk.mapM (fun _ => loadAt_ok ..) _).of_ok read).trans ((loadAt_ok ..).of_error fails)) loaded
  obtain ⟨-, l, v, kept⟩ := only.hartKept
  have moved := exec_row (ys := h.rowOf x k xs) (ff := some (ffWord true k)) free loads loaded ⟨l, v, kept⟩ fun w t first => by
    obtain ⟨r, read, fails⟩ := exists_of_failsAfter first
    exact portLoad_trimmed (h := h.issued e) (s.issued_hart e w) loads.lanes rfl (portForm_ok checks) rfl loads.addressed
      (congrFun (rowProbes_unprobed (loads.unprobed ff) ..) _) below active (elements.ok read)
      (failing.error fails) ff earlier ((trims_iff _).2 code)
  have all : xs.length = is.length := by
    obtain ⟨_, _, first, -⟩ := exists_of_working_ok loaded
    obtain ⟨_, read, -⟩ := exists_of_failsAfter first
    exact length_of_mapM_ok read
  obtain ⟨ended, written⟩ := row_ends u.hart h x h.et (h.rowOf x k xs) (some (ffWord true k))
  refine ⟨_, moved, ?_, ?_⟩
  · rw [Past, State.hart_setHart, ← ffWord_true (below.trans (lanes_lt h))]
    exact congrArg u.setHart (ended.trans (by rw [kept]; rfl))
  · rw [State.hart_setHart]
    rw [show u.hart.vfile = h.vfile by rw [kept]; rfl] at written
    exact groupIs_trimmed all (group_fits checks.1) written

/-- Settles O33, by reading the row of the entry element by element: an access does the same behind the entry as before it. -/
theorem vectorLoadForms : Obligations.VectorLoadForms := ⟨vectorLoads, firstFault⟩

end Sys2Proof.Machine
end

section
/-!
PROOFS. An entry alone in the queues: an engine instruction that nothing holds back, whichever its queue and whatever it draws, is taken by
its engine at once, and completes or traps there.
-/

namespace Sys2Proof.Machine

open Sys2Proof.Claims

/-! ### Taking the entry -/

/-- An entry is alone in the queues of a hart, in queue `q`. -/
structure Hart.AloneIn (h : Hart) (q : BitVec 2) (e : Entry) : Prop where
  /-- The queue is one of the three. -/
  queue : q = 1 ∨ q = 2 ∨ q = 3
  /-- The VIQ. -/
  viq : h.viq = if q = 1 then [e] else []
  /-- The PIQ. -/
  piq : h.piq = if q = 2 then [e] else []
  /-- The MIQ. -/
  miq : h.miq = if q = 3 then [e] else []

section
variable {h : Hart} {q : BitVec 2} {e : Entry} (alone : h.AloneIn q e)
include alone

theorem Hart.AloneIn.queueOf : h.queueOf q = [e] := by
  obtain ⟨rfl | rfl | rfl, v, p, m⟩ := alone
  · exact v
  · exact p
  · exact m

theorem Hart.AloneIn.head : (h.queueOf q).head? = some e := by rw [alone.queueOf]; rfl

theorem Hart.AloneIn.order (noRun : e.isRun = false) : h.queueOrder = [q] := by
  obtain ⟨rfl | rfl | rfl, v, p, m⟩ := alone
  all_goals
    simp at v p m
    simp [Hart.queueOrder, Hart.attached, Hart.headOrder, Hart.queueOf, v, p, m, sortBy, insertBy, noRun]

theorem Hart.AloneIn.blocked : h.blocked e = false := by
  unfold Hart.blocked
  obtain ⟨rfl | rfl | rfl, v, p, m⟩ := alone
  all_goals
    simp at v p m
    split <;> simp [v, p, m]

/-- The head of the queue leaves it. -/
theorem Hart.AloneIn.popped : (h.popQueue q).quiet = true := by
  obtain ⟨rfl | rfl | rfl, v, p, m⟩ := alone
  all_goals
    simp at v p m
    simp [Hart.popQueue, Hart.modQueueOf, Hart.quiet, v, p, m]

end

theorem Entry.isRun_of_ne {e : Entry} (noRun : ∀ n, e.instr ≠ .chrun n) : e.isRun = false := by
  unfold Entry.isRun
  split
  · next n run => exact absurd run (noRun n)
  · exact Bool.and_false _

/-- The engines take an entry that is alone in the queues and is no run. -/
theorem State.pumpFor_alone {s : State} {q : BitVec 2} {e : Entry} (alone : s.hart.AloneIn q e) (noRun : ∀ n, e.instr ≠ .chrun n)
    (fuel : Nat) : s.pumpFor (fuel + 1) = match s.tryHead q e e.body with
      | .waits s => (false, s)
      | .trapped s => (true, s)
      | .moved s => s.pumpFor fuel := by
  have still := Entry.isRun_of_ne noRun
  have taken : (if q = 1 then s.takeViq else s.takeOther q) = s.tryHead q e e.body := by
    by_cases viq : q = 1
    · subst viq
      have head : s.hart.viq = [e] := alone.queueOf
      simp only [if_true, State.takeViq, head, Hart.attached, still, alone.blocked, Bool.false_eq_true, if_false]
      split
      · next run _ => exact absurd run (noRun _)
      · rfl
    · rw [if_neg viq]
      simp only [State.takeOther, alone.queueOf, alone.blocked, Bool.false_eq_true, if_false]
  rw [State.pumpFor, alone.order still, State.takeOne, taken]
  cases s.tryHead q e e.body <;> rfl

/-! ### Enqueuing it -/

/-- A hart whose instruction has just been enqueued in queue `q`, with the generator as it then stands (03_arithmetic.md R88). -/
def Hart.issuedTo (q : BitVec 2) (e : Entry) (r : Word) (h : Hart) : Hart := ({ h.after h with rng := r } : Hart).modQueueOf q fun _ => [e]

theorem Hart.issuedTo_only (q : BitVec 2) (e : Entry) (r : Word) (h : Hart) : ∃ v p m, h.issuedTo q e r = { h with
    viq := v, piq := p, miq := m, rng := r, pc := h.pc + 4, ld := 0, nextSeq := h.nextSeq + 1 } :=
  ⟨_, _, _, Hart.modQueueOf_only ..⟩

theorem Hart.issuedTo_alone {h : Hart} {q : BitVec 2} (queue : q = 1 ∨ q = 2 ∨ q = 3) (quiet : h.quiet = true) (e : Entry) (r : Word) :
    (h.issuedTo q e r).AloneIn q e := by
  obtain ⟨v, p, m⟩ := h.quiet_iff.1 quiet
  obtain rfl | rfl | rfl := queue
  · exact ⟨Or.inl rfl, rfl, p, m⟩
  · exact ⟨Or.inr (Or.inl rfl), v, rfl, m⟩
  · exact ⟨Or.inr (Or.inr rfl), v, p, rfl⟩

theorem Hart.modQueueOf_congr {h : Hart} {q : BitVec 2} {f g : List Entry → List Entry} (same : f (h.queueOf q) = g (h.queueOf q)) :
    h.modQueueOf q f = h.modQueueOf q g := by
  unfold Hart.queueOf at same
  unfold Hart.modQueueOf
  by_cases one : q = 1
  · rw [if_pos one] at same
    rw [if_pos one, if_pos one, same]
  by_cases two : q = 2
  · rw [if_neg one, if_pos two] at same
    rw [if_neg one, if_neg one, if_pos two, if_pos two, same]
  by_cases three : q = 3
  · rw [if_neg one, if_neg two, if_pos three] at same
    rw [if_neg one, if_neg one, if_neg two, if_neg two, if_pos three, if_pos three, same]
  · simp only [one, two, three, if_false]

theorem Hart.queueOf_quiet {h : Hart} (quiet : h.quiet = true) (q : BitVec 2) : h.queueOf q = [] := by
  obtain ⟨v, p, m⟩ := h.quiet_iff.1 quiet
  unfold Hart.queueOf
  rw [v, p, m, ite_self, ite_self, ite_self]

/-- Enqueuing in an empty queue: `n` are the draws that the instruction takes (03_arithmetic.md R88). -/
theorem Hart.enqueue_quiet {h : Hart} (quiet : h.quiet = true) (q : BitVec 2) {i : Instr} {ops : List Word} {aux r : Word}
    (captured : aux = if (h.draws i ops).isSome then h.rng else 0) (drawn : r = h.rng + word ((h.draws i ops).getD 0) * rngStep) :
    h.enqueue i q ops = h.issuedTo q { entryOf h i ops with aux := aux } r := by
  simp only [Hart.enqueue, ← captured, ← drawn]
  have empty : ({ h with rng := r, nextSeq := h.nextSeq + 1 } : Hart).queueOf q = [] := Hart.queueOf_quiet quiet q
  refine (congrArg Hart.retire (Hart.modQueueOf_congr (g := fun _ => [{ entryOf h i ops with aux := aux }]) ?_)).trans ?_
  · rw [empty]
    rfl
  · unfold Hart.issuedTo Hart.modQueueOf
    split
    · rfl
    · split
      · rfl
      · split <;> rfl

theorem Hart.runWaits_quiet {h : Hart} (quiet : h.quiet = true) (i : Instr) : h.runWaits i = false := by
  obtain ⟨v, -, -⟩ := h.quiet_iff.1 quiet
  unfold Hart.runWaits
  split
  · simp [v]
  · rfl

theorem Hart.hasRoom_quiet {h : Hart} {i : Instr} (quiet : h.quiet = true) (srq : givesSrq i = true → h.srq.length < 16)
    (bq : givesBq i = true → h.bq.length < 16) (q : BitVec 2) : h.hasRoom i q = true := by
  obtain ⟨v, p, m⟩ := h.quiet_iff.1 quiet
  have capacity : 0 < queueCap q := by unfold queueCap; split <;> decide
  have returns (b : Bool) (n : Nat) (room : b = true → n < 16) : b = false ∨ n < 16 := by
    cases b with
    | false => exact Or.inl rfl
    | true => exact Or.inr (room rfl)
  simpa [Hart.hasRoom, Hart.queueOf_quiet quiet, capacity, v, p, m] using And.intro (returns _ _ srq) (returns _ _ bq)

/-- An instruction of queue `q` that nothing holds back, what its entry captures of the generator, and the generator behind it
(01_engines.md R16; 03_arithmetic.md R88). -/
structure Issues (s : State) (q : BitVec 2) (i : Instr) (rs : List (BitVec 6)) (aux r : Word) : Prop where
  /-- Nothing holds it back. -/
  free : Free s i
  /-- The queue is one of the three. -/
  queue : q = 1 ∨ q = 2 ∨ q = 3
  /-- It is no run. -/
  noRun : ∀ n, i ≠ .chrun n
  /-- What its entry captures. -/
  captured : aux = if (s.hart.draws i (rs.map s.hart.sreg)).isSome then s.hart.rng else 0
  /-- The generator behind it. -/
  drawn : r = s.hart.rng + word ((s.hart.draws i (rs.map s.hart.sreg)).getD 0) * rngStep

/-- The entry that an instruction becomes, with what it captures of the generator. -/
def State.entryWith (s : State) (i : Instr) (rs : List (BitVec 6)) (aux : Word) : Entry := { s.entry i rs with aux := aux }

/-- The package as the engine finds it that takes up the entry of an instruction. -/
def State.issuing (s : State) (q : BitVec 2) (i : Instr) (rs : List (BitVec 6)) (aux r : Word) : State :=
  s.mapHart (Hart.issuedTo q (s.entryWith i rs aux) r)

theorem State.issuing_hart (s : State) (q : BitVec 2) (i : Instr) (rs : List (BitVec 6)) (aux r : Word) (k : Option Work) :
    ((s.issuing q i rs aux r).atWork k).hart = s.hart.issuedTo q (s.entryWith i rs aux) r :=
  State.hart_setHart ..

section
variable {s : State} {q : BitVec 2} {i : Instr} {rs : List (BitVec 6)} {aux r : Word} (issues : Issues s q i rs aux r)
include issues

/-- The entry of an instruction is alone in the queues. -/
theorem Issues.alone : (s.issuing q i rs aux r).hart.AloneIn q (s.entryWith i rs aux) := by
  rw [State.issuing, State.mapHart_hart]
  exact Hart.issuedTo_alone issues.queue issues.free.1 _ _

/-- An instruction that nothing holds back is enqueued, and its engine takes the entry (01_engines.md R13 to R16). -/
theorem Issues.taken : issue i q rs s = .next (match (s.issuing q i rs aux r).tryHead q (s.entryWith i rs aux)
      (working (runEntry (s.entryWith i rs aux))) with
    | .waits t => t
    | .trapped t => t
    | .moved t => (t.pumpFor 1).2) := by
  have alone := issues.alone
  obtain ⟨⟨quiet, engines, noUnits, srq, bq⟩, queue, noRun, captured, drawn⟩ := issues
  have entered : s.setHart (s.hart.enqueue i q (rs.map s.hart.sreg)) = s.issuing q i rs aux r := by
    rw [Hart.enqueue_quiet quiet q captured drawn]
    rfl
  have pumped : (s.issuing q i rs aux r).pump = (s.issuing q i rs aux r).pumpFor 2 := by
    have due : (s.issuing q i rs aux r).hart.unitsDue = false := by
      rw [State.issuing, State.mapHart_hart, Hart.issuedTo, Hart.modQueueOf_unitsDue]
      exact noUnits
    have units : (s.issuing q i rs aux r).unitsApply = s.issuing q i rs aux r := by rw [State.unitsApply, due]; rfl
    have working : (s.issuing q i rs aux r).engines = true := engines
    rw [State.pump, units, working]
    obtain ⟨rfl | rfl | rfl, v, p, m⟩ := alone
    all_goals
      simp at v p m
      simp [Hart.quiet, v, p, m]
  rw [issue, Hart.acquiring_quiet quiet, Hart.hasRoom_quiet quiet srq bq q, Hart.runWaits_quiet quiet, entered, pumped,
    State.pumpFor_alone alone noRun]
  show Host.Outcome.next (Prod.snd _) = _
  rw [show (s.entryWith i rs aux).body = working (runEntry (s.entryWith i rs aux)) from rfl]
  cases (s.issuing q i rs aux r).tryHead q (s.entryWith i rs aux) (working (runEntry (s.entryWith i rs aux))) <;> rfl

/-- An entry that completes and changes only the hart, whose queues it leaves alone. -/
theorem Issues.completes {f : Hart → Hart} (runs : ∀ k, runEntry (s.entryWith i rs aux) ((s.issuing q i rs aux r).atWork k) =
      .ok () (((s.issuing q i rs aux r).atWork k).mapHart f))
    (alone : (f (s.hart.issuedTo q (s.entryWith i rs aux) r)).AloneIn q (s.entryWith i rs aux)) :
    issue i q rs s = .next (s.setHart ((f (s.hart.issuedTo q (s.entryWith i rs aux) r)).popQueue q)) := by
  have body : working (runEntry (s.entryWith i rs aux)) (s.issuing q i rs aux r) = .ok () ((s.issuing q i rs aux r).mapHart f) :=
    working_eq runs rfl
  rw [issues.taken, State.tryHead, body]
  simp only [State.issuing, State.mapHart, State.hart_setHart, State.setHart_setHart]
  rw [State.pumpFor_quiet (by rw [State.hart_setHart]; exact alone.popped)]

/-- An entry that traps at its first element without an access. -/
theorem Issues.traps {code : BitVec 8} {src : BitVec 4} {addr : Option Word} {gpa : Word}
    (runs : ∀ k, runEntry (s.entryWith i rs aux) ((s.issuing q i rs aux r).atWork k) =
      .error (.trap code src addr gpa 0) ((s.issuing q i rs aux r).atWork k)) :
    issue i q rs s = .next ((s.issuing q i rs aux r).takeEngineTrap q code src addr gpa 0) := by
  have body : working (runEntry (s.entryWith i rs aux)) (s.issuing q i rs aux r) =
    .error (.trap code src addr gpa 0) (s.issuing q i rs aux r) := working_eq runs rfl
  rw [issues.taken, State.tryHead, body]

end

/-! ### Its trap -/

theorem Hart.engineEntry_alone {h : Hart} {q : BitVec 2} {e : Entry} (alone : h.AloneIn q e) (code : BitVec 8) (src : BitVec 4)
    (addr : Option Word) (ei : Nat) :
    (heldOf (h.engineEntry q code src addr ei).held q).map (fun e => (e.instr, e.prog)) = [(e.instr, 0)] ∧
    ∀ p ∈ [1, 2, 3], p ≠ q → heldOf (h.engineEntry q code src addr ei).held p = [] := by
  obtain ⟨rfl | rfl | rfl, v, p, m⟩ := alone
  all_goals
    simp at v p m
    simp [Hart.engineEntry, heldOf, Hart.modQueueOf, v, p, m, modHead]

/-- An entry that is alone stays so as its trap finds it. -/
theorem Hart.AloneIn.atTrap {h : Hart} {q : BitVec 2} {e : Entry} (alone : h.AloneIn q e) : (h.atTrap q e).AloneIn q (h.sized e) := by
  obtain ⟨rfl | rfl | rfl, v, p, m⟩ := alone
  · exact ⟨Or.inl rfl, congrArg (modHead _) v, p, m⟩
  · exact ⟨Or.inr (Or.inl rfl), v, congrArg (modHead _) p, m⟩
  · exact ⟨Or.inr (Or.inr rfl), v, p, congrArg (modHead _) m⟩

theorem Hart.draws_eq_none {h : Hart} {i : Instr} (ops : List Word) (noRun : ∀ n, i ≠ .chrun n) (mode : etRm h.et ≠ 4) : h.draws i ops = none := by
  simp only [Hart.draws]
  split
  · simp [mode]
  · simp [mode]
  · next n => exact absurd rfl (noRun n)
  · rfl

/-- An instruction that draws nothing captures nothing. -/
theorem issues_undrawn {s : State} {q : BitVec 2} {i : Instr} (free : Free s i) (queue : q = 1 ∨ q = 2 ∨ q = 3) (noRun : ∀ n, i ≠ .chrun n)
    (rs : List (BitVec 6)) (undrawn : s.hart.draws i (rs.map s.hart.sreg) = none) : Issues s q i rs 0 s.hart.rng :=
  ⟨free, queue, noRun, by rw [undrawn]; rfl, by rw [undrawn]; simp [word]⟩

/-- What an entry captures, and the generator behind it, which only `rsr` moves. -/
theorem exists_issues {s : State} {q : BitVec 2} {i : Instr} (free : Free s i) (queue : q = 1 ∨ q = 2 ∨ q = 3) (noRun : ∀ n, i ≠ .chrun n)
    (rs : List (BitVec 6)) : ∃ aux r, Issues s q i rs aux r ∧ (etRm s.hart.et ≠ 4 → r = s.hart.rng) := by
  refine ⟨_, _, ⟨free, queue, noRun, rfl, rfl⟩, fun mode => ?_⟩
  rw [Hart.draws_eq_none _ noRun mode]
  simp [word]

/-- An entry that its engine stops at its first element (01_engines.md R20; 05_hart.md R165). -/
theorem exists_engineTraps {s : State} {q : BitVec 2} {i : Instr} (free : Free s i) (queue : q = 1 ∨ q = 2 ∨ q = 3)
    (noRun : ∀ n, i ≠ .chrun n) (rs : List (BitVec 6)) (handler : HasHandler s) (access : (s.entry i rs).isAccess = false) {code : BitVec 8}
    {src : BitVec 4} {addr : Option Word} {gpa : Word} (hc : toRecord code = false)
    (runs : ∀ aux r t, t.hart = s.hart.issuedTo q (s.entryWith i rs aux) r →
      runEntry (s.entryWith i rs aux) t = .error (.trap code src addr gpa 0) t) :
    ∃ t, issue i q rs s = .next t ∧ EngineTraps s t i q code src (addr.getD s.hart.faddr) := by
  obtain ⟨aux, r, issues, unmoved⟩ := exists_issues free queue noRun rs
  refine ⟨_, issues.traps fun k => runs aux r _ (s.issuing_hart q i rs aux r k), ?_⟩
  have alone := issues.alone
  obtain ⟨viq, piq, miq, at_issue⟩ : ∃ v p m, (s.issuing q i rs aux r).hart = { s.hart with
      viq := v, piq := p, miq := m, rng := r, pc := s.hart.pc + 4, ld := 0, nextSeq := s.hart.nextSeq + 1 } := by
    rw [State.issuing, State.mapHart_hart]
    exact Hart.issuedTo_only ..
  have handler' : HasHandler (s.issuing q i rs aux r) := by rw [HasHandler, at_issue]; exact handler
  have enters := entersEngine_takeEngineTrap (src := src) (addr := addr) (gpa := gpa) alone.head handler' hc
  have held := Hart.engineEntry_alone alone.atTrap code src addr 0
  have entered := State.takeEngineTrap_handler (src := src) (addr := addr) (gpa := gpa) alone.head handler' hc
  rw [show (s.entryWith i rs aux).prog.toNat = 0 from rfl] at enters entered
  have same : ((s.issuing q i rs aux r).takeEngineTrap q code src addr gpa 0).hart.held =
      (((s.issuing q i rs aux r).hart.atTrap q (s.entryWith i rs aux)).engineEntry q code src addr 0).held := by
    rw [entered, State.hart_setHart]
  rw [← same, Hart.sized_instr] at held
  obtain ⟨head, others⟩ := held
  obtain ⟨cause, ei, epc, faddr, -, number, heldPc, heldLd, heldSrq, heldBq, th, heldBit, status, state⟩ := enters
  have tolls : tollFree (s.issuing q i rs aux r) = (tollFree s).mapHart (Hart.issuedTo q (s.entryWith i rs aux) r) :=
    tollFree_mapHart s (Hart.modQueueOf_gateWait ..)
  generalize (s.issuing q i rs aux r).takeEngineTrap q code src addr gpa 0 = t at *
  have zero : t.hart.ei = 0 := ei
  have chain : ((s.issuing q i rs aux r).hart.breakChain 8 0).chain = (s.hart.breakChain 8 0).chain :=
    Hart.breakChain_chain_congr (by rw [at_issue]) 8 0
  have cmask : stoppedMask (s.entryWith i rs aux) (s.issuing q i rs aux r).hart.cmask = s.hart.cmask := by
    rw [at_issue]
    exact if_neg (by rw [show (s.entryWith i rs aux).isAccess = false from access]; simp)
  rw [tolls, State.mapHart, State.setHart_setHart, chain, cmask, zero] at state
  rw [at_issue] at faddr heldPc heldLd heldSrq heldBq status state
  have rng : t.hart.rng = r := by rw [state, State.hart_setHart]
  obtain ⟨v, p, m⟩ := s.hart.quiet_iff.1 free.1
  refine ⟨cause, zero, epc, faddr, head, others, number, heldPc, heldLd, heldSrq, heldBq, th, heldBit, status, fun mode => ?_, ?_⟩
  · rw [rng, unmoved mode]
  · rw [rng]
    refine state.trans ?_
    simp only [v, p, m]

end Sys2Proof.Machine
end

section
/-!
PROOFS. The checks at issue of the matrix engine.
-/

namespace Sys2Proof.Machine

open Sys2Proof.Claims

/-- A hart that awaits no units of a restore takes none up. -/
theorem State.unitsApply_of_not_due {s : State} (settled : s.hart.unitsDue = false) : s.unitsApply = s := by
  rw [State.unitsApply, settled]
  rfl

/-- `needUnit` of a hart that awaits no units looks at the units it has (10_matrix.md R301). -/
theorem needUnit_of_not_due {s : State} (settled : s.hart.unitsDue = false) :
    needUnit s = if s.hart.units = 0 then .error (.trap eLease 5 none 0 0) s else .ok () s := by
  have looks : needUnit s = (if s.unitsApply.hart.units = 0 && s.unitsApply.hart.unitsDue then throw .wait else haveUnit : Run Unit)
      s.unitsApply := rfl
  rw [looks, State.unitsApply_of_not_due settled, settled, Bool.and_false, if_neg Bool.false_ne_true, haveUnit, theHart_bind]
  split <;> rfl

/-- An instruction of the MIQ whose entry needs a unit before anything else (10_matrix.md R301). -/
structure NeedsUnit (i : Instr) (rs : List (BitVec 6)) : Prop where
  /-- It goes into the MIQ. -/
  issues : ∀ s, exec i s = issue i 3 rs s
  /-- It is no run. -/
  noRun : ∀ n, i ≠ .chrun n
  /-- It is no access of the fabric. -/
  access : ∀ s : State, (s.entry i rs).isAccess = false
  /-- Its entry needs a unit. -/
  needs : ∀ (s : State) aux, ∃ rest : Unit → Run Unit, runEntry (s.entryWith i rs aux) = needUnit >>= rest

theorem entryWith_skipped (s : State) (i : Instr) (rs : List (BitVec 6)) (aux : Word) : (s.entryWith i rs aux).skipped = false :=
  entry_skipped s i rs

theorem matrixMul_needs {e : Entry} (fresh : e.skipped = false) (live : Bool) (sp : Sparse) (c : BitVec 4) (a b x : Word) :
    ∃ rest, matrixMul e live sp c a b x = needUnit >>= rest := by
  rw [matrixMul, fresh]
  exact ⟨_, rfl⟩

theorem matrixLoad_needs {e : Entry} (fresh : e.skipped = false) (c : BitVec 4) (a : Word) : ∃ rest, matrixLoad e c a = needUnit >>= rest := by
  rw [matrixLoad, fresh]
  exact ⟨_, rfl⟩

theorem matrixStore_needs {e : Entry} (fresh : e.skipped = false) (c : BitVec 4) (a x : Word) :
    ∃ rest, matrixStore e c a x = needUnit >>= rest := by
  rw [matrixStore, fresh]
  exact ⟨_, rfl⟩

theorem matrixZero_needs {e : Entry} (fresh : e.skipped = false) (c : BitVec 4) : ∃ rest, matrixZero e c = needUnit >>= rest := by
  rw [matrixZero, fresh]
  exact ⟨_, rfl⟩

theorem matrixSkip_needs {e : Entry} (fresh : e.skipped = false) (a b x : Word) : ∃ rest, matrixSkip e a b x = needUnit >>= rest := by
  rw [matrixSkip, fresh]
  exact ⟨_, rfl⟩

theorem matrixPrune_needs {e : Entry} (fresh : e.skipped = false) (a b x : Word) : ∃ rest, matrixPrune e a b x = needUnit >>= rest := by
  rw [matrixPrune, fresh]
  exact ⟨_, rfl⟩

theorem matrixScale_needs {e : Entry} (fresh : e.skipped = false) (c : BitVec 4) (a : Word) :
    ∃ rest, matrixScale e c a = needUnit >>= rest := by
  rw [matrixScale, fresh]
  exact ⟨_, rfl⟩

theorem exists_needsUnit {i : Instr} (form : (mulForm i).isSome = true ∨ (∃ c a, i = .mldc c a) ∨ (∃ c a x, i = .mstc c a x) ∨
    (∃ c, i = .mzero c) ∨ (∃ a b x, i = .mskip a b x) ∨ (∃ a b x, i = .mprune a b x) ∨ (∃ c a, i = .mscale c a)) :
    ∃ rs, NeedsUnit i rs := by
  obtain mul | ⟨c, a, rfl⟩ | ⟨c, a, x, rfl⟩ | ⟨c, rfl⟩ | ⟨a, b, x, rfl⟩ | ⟨a, b, x, rfl⟩ | ⟨c, a, rfl⟩ := form
  · cases i with
    | mmac c a b x | mmacsa c a b x | mmacsb c a b x =>
      exact ⟨[a, b, x], fun _ => rfl, nofun, fun _ => rfl, fun s aux => matrixMul_needs (entryWith_skipped ..) ..⟩
    | _ => cases mul
  · exact ⟨[a], fun _ => rfl, nofun, fun _ => rfl, fun s aux => matrixLoad_needs (entryWith_skipped ..) ..⟩
  · exact ⟨[a, x], fun _ => rfl, nofun, fun _ => rfl, fun s aux => matrixStore_needs (entryWith_skipped ..) ..⟩
  · exact ⟨[], fun _ => rfl, nofun, fun _ => rfl, fun s aux => matrixZero_needs (entryWith_skipped ..) ..⟩
  · exact ⟨[a, b, x], fun _ => rfl, nofun, fun _ => rfl, fun s aux => matrixSkip_needs (entryWith_skipped ..) ..⟩
  · exact ⟨[a, b, x], fun _ => rfl, nofun, fun _ => rfl, fun s aux => matrixPrune_needs (entryWith_skipped ..) ..⟩
  · exact ⟨[a], fun _ => rfl, nofun, fun _ => rfl, fun s aux => matrixScale_needs (entryWith_skipped ..) ..⟩

/-- The checks of a multiply whose control word breaks its rules (10_matrix.md R305). -/
theorem matrixMul_traps {e : Entry} {s : State} {live : Bool} {sp : Sparse} {c : BitVec 4} {a b x : Word} (fresh : e.skipped = false)
    (settled : s.hart.unitsDue = false) (unit : s.hart.units ≠ 0) (bad : mulOk sp x = false) :
    matrixMul e live sp c a b x s = .error (.trap eOperand 5 none 0 0) s := by
  have checks : mulChecks sp a b x s = .error (.trap eOperand 5 none 0 0) s := by
    rw [mulChecks, theHart_bind, bad]
    rfl
  rw [matrixMul, fresh, if_neg Bool.false_ne_true, run_bind_ok ((needUnit_of_not_due settled).trans (if_neg unit))]
  exact run_bind_error checks _

theorem exists_mulEntry {s : State} {i : Instr} {sp : Sparse} {c : BitVec 4} {a b x : BitVec 6} (form : mulForm i = some (sp, c, a, b, x)) :
    NeedsUnit i [a, b, x] ∧ ∀ aux, runEntry (s.entryWith i [a, b, x] aux) =
      matrixMul (s.entryWith i [a, b, x] aux) true sp c (s.hart.sreg a) (s.hart.sreg b) (s.hart.sreg x) := by
  cases i with
  | mmac c a b x | mmacsa c a b x | mmacsb c a b x =>
    cases form
    exact ⟨⟨fun _ => rfl, nofun, fun _ => rfl, fun s aux => matrixMul_needs (entryWith_skipped ..) ..⟩, fun _ => rfl⟩
  | _ => cases form

/-- The units of a hart whose instruction has just been enqueued. -/
theorem issuedTo_units (q : BitVec 2) (e : Entry) (r : Word) (h : Hart) :
    (h.issuedTo q e r).units = h.units ∧ (h.issuedTo q e r).unitsDue = h.unitsDue := by
  obtain ⟨v, p, m, only⟩ := h.issuedTo_only q e r
  rw [only]
  exact ⟨rfl, rfl⟩

/-- What the matrix engine raises where a check at issue fails. -/
theorem matrixChecks : Claims.MatrixChecks := by
  refine ⟨fun s i form free handler none => ?lease, fun s i sp c a b x form free unit handler bad => ?operand⟩
  case lease =>
    obtain ⟨rs, issues, noRun, access, needs⟩ := exists_needsUnit form
    rw [issues]
    refine exists_engineTraps (addr := .none) (gpa := 0) free (Or.inr (Or.inr rfl)) noRun rs handler (access s) rfl fun aux r t found => ?_
    obtain ⟨units, due⟩ := issuedTo_units 3 (s.entryWith i rs aux) r s.hart
    obtain ⟨rest, needs⟩ := needs s aux
    rw [needs]
    exact run_bind_error ((needUnit_of_not_due (by rw [found, due]; exact free.2.2.1)).trans (if_pos (by rw [found, units]; exact none))) _
  case operand =>
    obtain ⟨⟨issues, noRun, access, -⟩, runs⟩ := exists_mulEntry (s := s) form
    rw [issues]
    refine exists_engineTraps (addr := none) (gpa := 0) free (Or.inr (Or.inr rfl)) noRun _ handler (access s) rfl fun aux r t found => ?_
    obtain ⟨units, due⟩ := issuedTo_units 3 (s.entryWith i [a, b, x] aux) r s.hart
    rw [runs]
    exact matrixMul_traps (entryWith_skipped ..) (by rw [found, due]; exact free.2.2.1) (by rw [found, units]; exact unit) bad

end Sys2Proof.Machine
end

section
/-!
PROOFS. What the entries of the lane engine do: rows computed element by element (07_lane.md R207), the flags they raise, and an instruction of
the VIQ whose entry completes.
-/

namespace Sys2Proof.Machine

open Sys2Proof.Claims

/-! ### Rows -/

/-- Element `i` of a row (07_lane.md R207): an active one takes its value, an inactive one follows MP. -/
def elemAt (mp : Bool) (b : Nat → Bool) (c : Nat → Nat) (f : Nat → Nat × Fl) (i : Nat) : Nat × Fl :=
  if b i then f i else (if mp then 0 else c i, 0)

/-- The row of an entry that starts at its first element. -/
theorem elementwise_range (mp : Bool) (n : Nat) (b : Nat → Bool) (c x y : Nat → Nat) (f : Nat → Nat → Nat → Nat → Nat × Fl) :
    elementwise mp 0 ((List.range n).map b) ((List.range n).map c) ((List.range n).map fun k => (x k, y k)) f =
      ((List.range n).map fun k => (elemAt mp b c (fun k => f k (x k) (y k) (c k)) k).1,
        (List.range n).foldl (fun acc k => acc ||| (elemAt mp b c (fun k => f k (x k) (y k) (c k)) k).2) 0) := by
  have row : ((((List.range n).map c).zip ((List.range n).map b)).zip ((List.range n).map fun k => (x k, y k))).zipIdx.map
      (fun (((c, b), x, y), i) => if i < 0 then (c, (0 : Fl)) else if b then f i x y c else (if mp then 0 else c, 0)) =
      (List.range n).map (elemAt mp b c fun k => f k (x k) (y k) (c k)) := by
    rw [List.zip_map', List.zip_map']
    apply List.ext_getElem
    · simp
    · intro k _ _
      simp [elemAt]
  refine (congrArg (fun r : List (Nat × Fl) => (r.map (·.1), r.foldl (fun acc x => acc ||| x.2) 0)) row).trans ?_
  rw [List.map_map, List.foldl_map]
  rfl

theorem VSrc.elems_eq (x : VSrc) (h : Hart) (w n : Nat) : x.elems h w n = (List.range n).map fun k => srcAt h w k x := by
  cases x with
  | reg r => rfl
  | lit x => simp [VSrc.elems, srcAt]

theorem srcAt_lt (h : Hart) (w k : Nat) (x : VSrc) : srcAt h w k x < 2 ^ w := by
  cases x with
  | reg r => exact h.velem_lt w r k
  | lit x => exact Nat.mod_lt _ (Nat.two_pow_pos w)

/-- A group written with a row below `n` and its tail (07_lane.md R207). -/
theorem groupIs_tailed {h t : Hart} {w d g n : Nat} {tp : Bool} {y : Nat → Nat} {x : Nat → Option Nat}
    (written : t.vfile = h.vfile.put w d g (withTail tp w g ((List.range n).map y))) (fits : d + g ≤ 32)
    (row : ∀ k, k < n → y k % 2 ^ w = (x k).elim (h.velem w d k) (· % 2 ^ w)) : GroupIs h t w d g (tailed tp n 0 x) := by
  refine groupIs_of_put written fits fun k inside => ?_
  rw [withTail_getElem? inside, List.length_map, List.length_range, tailed]
  by_cases below : k < n
  · rw [if_pos below, if_pos below, List.getElem?_map, List.getElem?_range below]
    exact row k below
  · rw [if_neg below, if_neg below]

/-- An element of a row computed under a mask, as the group then holds it. -/
theorem elemAt_mod (h : Hart) {w d k : Nat} {mp : Bool} {b : Nat → Bool} {f g : Nat → Nat × Fl}
    (same : b k = true → (f k).1 % 2 ^ w = (g k).1 % 2 ^ w) :
    (elemAt mp b (h.velem w d) f k).1 % 2 ^ w =
      (if b k then some (g k).1 else if mp then some 0 else none).elim (h.velem w d k) (· % 2 ^ w) := by
  unfold elemAt
  by_cases active : b k = true
  · rw [if_pos active, if_pos active]
    exact same active
  · rw [if_neg active, if_neg active]
    cases mp with
    | true => rfl
    | false => exact Nat.mod_eq_of_lt (h.velem_lt ..)

/-! ### Flags -/

theorem foldl_or_getLsbD (n : Nat) (fl : Nat → Word) (b : Nat) :
    ((List.range n).foldl (fun acc k => acc ||| fl k) 0).getLsbD b = true ↔ ∃ k, k < n ∧ (fl k).getLsbD b = true := by
  induction n with
  | zero => simp
  | succ n ih =>
    rw [List.range_succ, List.foldl_append, List.foldl_cons, List.foldl_nil, BitVec.getLsbD_or, Bool.or_eq_true, ih]
    constructor
    · rintro (⟨k, below, set⟩ | set)
      · exact ⟨k, by omega, set⟩
      · exact ⟨n, by omega, set⟩
    · rintro ⟨k, below, set⟩
      obtain below | rfl : k < n ∨ k = n := by omega
      · exact Or.inl ⟨k, below, set⟩
      · exact Or.inr set

/-- The flags of a row are those of its active elements (03_arithmetic.md R95). -/
theorem flagsOf_row {h t : Hart} {n : Nat} {mp : Bool} {b : Nat → Bool} {c : Nat → Nat} {f g : Nat → Nat × Fl}
    (flagged : t.vstat = h.vstat ||| (List.range n).foldl (fun acc k => acc ||| (elemAt mp b c f k).2) 0)
    (same : ∀ k, k < n → b k = true → (f k).2 = (g k).2) : FlagsOf h t n b fun k => (g k).2 := by
  intro j _
  rw [flagged, BitVec.getLsbD_or, Bool.or_eq_true, foldl_or_getLsbD]
  refine or_congr_right (exists_congr fun k => and_congr_right fun below => ?_)
  unfold elemAt
  by_cases active : b k = true
  · rw [if_pos active, same k below active, active]
    simp
  · rw [if_neg active]
    simp [active]

/-! ### Entries that complete -/

/-- The mask registers and which of them are live. -/
abbrev MFile := Vector (BitVec 4096) 96 × BitVec 96

/-- The mask registers of a hart. -/
def Hart.mfile (h : Hart) : MFile := (h.m, h.mLive)

/-- A hart with what the lane engine may have changed: vector and mask registers, VSTAT and the return entries. -/
def Hart.laneResult (h : Hart) (v : VFile) (m : MFile) (st : Word) (srq bq : List RetEntry) : Hart :=
  { h with v := v.1, vLive := v.2, m := m.1, mLive := m.2, vstat := st, srq := srq, bq := bq }

theorem checked_passes {src : BitVec 4} {e : Entry} {ok : Bool} (legal : ok = true) (body : Run Unit) : checked src e ok body = body := if_pos legal

theorem checked_traps {src : BitVec 4} {e : Entry} {ok : Bool} (fresh : e.skipped = false) (illegal : ok = false) (body : Run Unit) :
    checked src e ok body = operandTrap src := by
  rw [checked, illegal, fresh]
  rfl

/-- A hart whose instruction of the VIQ has just been enqueued. -/
def Hart.inViq (h : Hart) (e : Entry) (r : Word) : Hart := { h.after h with rng := r, viq := [e] }

section
variable (h : Hart) (e : Entry) (r : Word)

@[simp] theorem Hart.inViq_velem : (h.inViq e r).velem = h.velem := rfl

@[simp] theorem Hart.inViq_velems : (h.inViq e r).velems = h.velems := rfl

@[simp] theorem Hart.inViq_mbit : (h.inViq e r).mbit = h.mbit := rfl

@[simp] theorem Hart.inViq_mbits : (h.inViq e r).mbits = h.mbits := rfl

@[simp] theorem Hart.inViq_et : (h.inViq e r).et = h.et := rfl

@[simp] theorem Hart.inViq_vfile : (h.inViq e r).vfile = h.vfile := rfl

@[simp] theorem Hart.inViq_vstat : (h.inViq e r).vstat = h.vstat := rfl

end

theorem Hart.issuedTo_viq (h : Hart) (e : Entry) (r : Word) : h.issuedTo 1 e r = h.inViq e r := rfl

/-- A written group, with flags, is what the lane engine changes. -/
theorem Hart.setVelems_flag (h : Hart) (w d g : Nat) (xs : List Nat) (fl : Fl) :
    (h.setVelems w d g xs).flag fl = h.laneResult (h.vfile.put w d g xs) h.mfile (h.vstat ||| fl) h.srq h.bq := by
  have flagged (p : VFile) : (h.withVfile p).flag fl = h.laneResult p h.mfile (h.vstat ||| fl) h.srq h.bq := rfl
  exact (congrArg (·.flag fl) (h.setVelems_eq w d g xs)).trans (flagged _)

/-- A written group is what the lane engine changes. -/
theorem Hart.setVelems_laneResult (h : Hart) (w d g : Nat) (xs : List Nat) :
    h.setVelems w d g xs = h.laneResult (h.vfile.put w d g xs) h.mfile h.vstat h.srq h.bq := by
  have unflagged (p : VFile) : h.withVfile p = h.laneResult p h.mfile h.vstat h.srq h.bq := rfl
  exact (h.setVelems_eq w d g xs).trans (unflagged _)

/-- A hart with what the lane engine has changed, past its instruction, as the statements say it. -/
theorem Hart.laneResult_after (h : Hart) (v : VFile) (m : MFile) (st : Word) (srq bq : List RetEntry) (r : Word) :
    (({ h with rng := r } : Hart).laneResult v m st srq bq).after h =
      { h with v := v.1, vLive := v.2, m := m.1, mLive := m.2, vstat := st, srq := srq, bq := bq, rng := r
               pc := h.pc + 4, ld := 0, nextSeq := h.nextSeq + 1 } := rfl

section
variable {s : State} {i : Instr} {rs : List (BitVec 6)} {aux r : Word} (issues : Issues s 1 i rs aux r) {f : Hart → Hart}
  (runs : runEntry (s.entryWith i rs aux) = modHart f) {v : VFile} {m : MFile} {st : Word} {srq bq : List RetEntry}
include issues runs

/-- An instruction of the VIQ whose entry completes is done with, and what its entry has changed is changed (01_engines.md R13 to R16). -/
theorem Issues.lane
    (same : f (s.hart.inViq (s.entryWith i rs aux) r) = (s.hart.inViq (s.entryWith i rs aux) r).laneResult v m st srq bq) :
    issue i 1 rs s = .next (s.setHart ((({ s.hart with rng := r } : Hart).laneResult v m st srq bq).after s.hart)) := by
  obtain ⟨viq, piq, miq⟩ := s.hart.quiet_iff.1 issues.free.1
  have alone : ((s.hart.inViq (s.entryWith i rs aux) r).laneResult v m st srq bq).AloneIn 1 (s.entryWith i rs aux) :=
    ⟨Or.inl rfl, rfl, piq, miq⟩
  rw [issues.completes (fun k => by rw [runs]; rfl) (by rw [Hart.issuedTo_viq, same]; exact alone), Hart.issuedTo_viq, same]
  refine congrArg (fun h => Host.Outcome.next (s.setHart h)) ?_
  show { (({ s.hart with rng := r } : Hart).laneResult v m st srq bq).after s.hart with viq := ([] : List Entry) } = _
  rw [← viq]
  rfl

/-- One that changes vector registers and flags. -/
theorem Issues.vectors (same : f (s.hart.inViq (s.entryWith i rs aux) r) =
      (s.hart.inViq (s.entryWith i rs aux) r).laneResult v s.hart.mfile st s.hart.srq s.hart.bq) :
    ∃ t, issue i 1 rs s = .next t ∧
      Past s t { s.hart with v := t.hart.v, vLive := t.hart.vLive, vstat := t.hart.vstat, rng := r } ∧
      t.hart.vfile = v ∧ t.hart.vstat = st := by
  refine ⟨_, issues.lane runs same, ?_, ?_, ?_⟩
  all_goals rw [State.hart_setHart, Hart.laneResult_after]
  all_goals rfl

/-- One that changes mask registers and flags. -/
theorem Issues.masks (same : f (s.hart.inViq (s.entryWith i rs aux) r) =
      (s.hart.inViq (s.entryWith i rs aux) r).laneResult s.hart.vfile m st s.hart.srq s.hart.bq) :
    ∃ t, issue i 1 rs s = .next t ∧
      Past s t { s.hart with m := t.hart.m, mLive := t.hart.mLive, vstat := t.hart.vstat, rng := r } ∧
      t.hart.mfile = m ∧ t.hart.vstat = st := by
  refine ⟨_, issues.lane runs same, ?_, ?_, ?_⟩
  all_goals rw [State.hart_setHart, Hart.laneResult_after]
  all_goals rfl

/-- One that only returns results. -/
theorem Issues.returns (same : f (s.hart.inViq (s.entryWith i rs aux) r) =
      (s.hart.inViq (s.entryWith i rs aux) r).laneResult s.hart.vfile s.hart.mfile s.hart.vstat srq bq) :
    ∃ t, issue i 1 rs s = .next t ∧ Past s t { s.hart with srq := srq, bq := bq, rng := r } := by
  refine ⟨_, issues.lane runs same, ?_⟩
  rw [Hart.laneResult_after]
  rfl

end

section
variable {s : State} {i : Instr} {rs : List (BitVec 6)} {aux r : Word} (issues : Issues s 1 i rs aux r) {f : Hart → Hart}
  (runs : runEntry (s.entryWith i rs aux) = modHart f) {w d g n : Nat} {tp : Bool} {y : Nat → Nat} {x : Nat → Option Nat}
include issues runs

/-- One that writes a row with its tail into a group, and flags (07_lane.md R207). -/
theorem Issues.flaggedRow {fl : Fl} (same : f (s.hart.inViq (s.entryWith i rs aux) r) =
      ((s.hart.inViq (s.entryWith i rs aux) r).setVelems w d g (withTail tp w g ((List.range n).map y))).flag fl) (fits : d + g ≤ 32)
    (row : ∀ k, k < n → y k % 2 ^ w = (x k).elim (s.hart.velem w d k) (· % 2 ^ w)) :
    ∃ t, issue i 1 rs s = .next t ∧
      Past s t { s.hart with v := t.hart.v, vLive := t.hart.vLive, vstat := t.hart.vstat, rng := r } ∧
      GroupIs s.hart t.hart w d g (tailed tp n 0 x) ∧ t.hart.vstat = s.hart.vstat ||| fl := by
  obtain ⟨t, done, past, written, flagged⟩ := issues.vectors runs (same.trans (Hart.setVelems_flag ..))
  exact ⟨t, done, past, groupIs_tailed written fits row, flagged⟩

/-- One that writes a row with its tail into a group. -/
theorem Issues.row (same : f (s.hart.inViq (s.entryWith i rs aux) r) =
      (s.hart.inViq (s.entryWith i rs aux) r).setVelems w d g (withTail tp w g ((List.range n).map y))) (fits : d + g ≤ 32)
    (row : ∀ k, k < n → y k % 2 ^ w = (x k).elim (s.hart.velem w d k) (· % 2 ^ w)) :
    ∃ t, issue i 1 rs s = .next t ∧ Past s t { s.hart with v := t.hart.v, vLive := t.hart.vLive, rng := r } ∧
      GroupIs s.hart t.hart w d g (tailed tp n 0 x) := by
  obtain ⟨t, done, past, written, stat⟩ := issues.vectors runs (same.trans (Hart.setVelems_laneResult ..))
  rw [stat] at past
  exact ⟨t, done, past, groupIs_tailed written fits row⟩

end

end Sys2Proof.Machine
end

section
/-!
PROOFS. One element of the lane engine: the model's integers are the words of the statements, and its formats their formats (07_lane.md R214 to
R218; 03_arithmetic.md R75, R76).
-/

namespace Sys2Proof.Machine

open Sys2Proof.Claims

/-! ### Integers as words -/

theorem wrapInt_eq (w : Nat) (x : Int) : wrapInt w x = (BitVec.ofInt w x).toNat := by
  rw [BitVec.toNat_ofInt, wrapInt]
  push_cast
  rfl

theorem ofInt_toNat_sub (a b : BitVec w) : BitVec.ofInt w ((a.toNat : Int) - b.toNat) = a - b := by
  rw [Int.sub_eq_add_neg, BitVec.ofInt_add, BitVec.ofInt_neg]
  simp [BitVec.sub_eq_add_neg]

theorem signedOf_toNat (wide : 0 < w) (a : BitVec w) : signedOf w a.toNat = a.toInt := by
  obtain ⟨w, rfl⟩ := Nat.exists_eq_succ_of_ne_zero wide.ne'
  have half : 2 * a.toNat < 2 ^ (w + 1) ↔ a.toNat < 2 ^ w := by rw [pow_succ]; omega
  have small : (a.toNat : Int) % 2 ^ (w + 1) = a.toNat := by exact_mod_cast Nat.mod_eq_of_lt a.isLt
  rw [signedOf, BitVec.toInt_eq_toNat_cond, Nat.mod_eq_of_lt a.isLt, small]
  simp only [half, Nat.succ_sub_one]
  push_cast
  rfl

theorem elemInt_toNat (t : Ty) (a : BitVec (tyWidth t)) : elemInt t a.toNat = intOf (tySigned t) a := by
  unfold elemInt intOf
  split
  · exact signedOf_toNat (tyWidth_pos t) a
  · rw [Nat.mod_eq_of_lt a.isLt]

theorem intOf_inj {signed : Bool} {a b : BitVec w} : intOf signed a = intOf signed b ↔ a = b := by
  unfold intOf
  cases signed with
  | true => exact BitVec.toInt_inj
  | false => simp [BitVec.toNat_inj]

/-- The smaller and the larger of two words as integers of a type. -/
theorem intMinMax_toNat (isMax : Bool) (t : Ty) (a b : BitVec (tyWidth t)) :
    intMinMax isMax t a.toNat b.toNat = (if isMax then (if intOf (tySigned t) a < intOf (tySigned t) b then b else a)
      else if intOf (tySigned t) b < intOf (tySigned t) a then b else a).toNat := by
  have less : (if tySigned t then decide (signedOf (tyWidth t) a.toNat < signedOf (tyWidth t) b.toNat)
      else decide (a.toNat % 2 ^ tyWidth t < b.toNat % 2 ^ tyWidth t)) = decide (intOf (tySigned t) a < intOf (tySigned t) b) := by
    unfold intOf
    split
    · rw [signedOf_toNat (tyWidth_pos t), signedOf_toNat (tyWidth_pos t)]
    · rw [Nat.mod_eq_of_lt a.isLt, Nat.mod_eq_of_lt b.isLt]
      simp
  have least : intMinMax isMax t a.toNat b.toNat = if isMax then (if intOf (tySigned t) a < intOf (tySigned t) b then b.toNat else a.toNat)
      else if intOf (tySigned t) a < intOf (tySigned t) b then a.toNat else b.toNat := by
    unfold intMinMax
    dsimp only
    rw [less]
    simp
  rw [least]
  cases isMax with
  | true => simp [apply_ite BitVec.toNat]
  | false =>
    simp only [Bool.false_eq_true, if_false]
    obtain below | same | above := lt_trichotomy (intOf (tySigned t) a) (intOf (tySigned t) b)
    · rw [if_pos below, if_neg (by omega)]
    · rw [if_neg (by omega), if_neg (by omega), intOf_inj.1 same]
    · rw [if_neg (by omega), if_pos above]

theorem clampInt_eq (w : Nat) (signed : Bool) (x : Int) : clampInt w signed x = ((clampBits w signed x).1.toNat, (clampBits w signed x).2) := by
  unfold clampInt clampBits intRange
  cases signed
  all_goals
    simp only [Bool.false_eq_true, if_true, if_false, wrapInt_eq]
    split
    · rfl
    · split <;> rfl

/-- Division and remainder of words (03_arithmetic.md R76). -/
theorem intDiv_toNat (wide : 0 < w) (signed : Bool) (a b : BitVec w) : intDiv w signed a.toNat b.toNat =
    if b = 0 then ((BitVec.allOnes w).toNat, a.toNat, 0x02)
    else if signed then ((a.sdiv b).toNat, (a.srem b).toNat, 0) else ((a.udiv b).toNat, (a.umod b).toNat, 0) := by
  have zero : b.toNat = 0 ↔ b = 0 := by rw [← BitVec.toNat_inj]; rfl
  rw [intDiv, Nat.mod_eq_of_lt a.isLt, Nat.mod_eq_of_lt b.isLt]
  simp only [zero]
  split
  · simp [flDZ]
  · split
    · have quotient : BitVec.ofInt w (a.toInt.tdiv b.toInt) = a.sdiv b := BitVec.eq_of_toInt_eq (by rw [BitVec.toInt_ofInt, BitVec.toInt_sdiv])
      have remainder : BitVec.ofInt w (a.toInt.tmod b.toInt) = a.srem b := by rw [← BitVec.toInt_srem, BitVec.ofInt_toInt]
      rw [signedOf_toNat wide, signedOf_toNat wide, wrapInt_eq, wrapInt_eq, quotient, remainder]
    · rfl

/-- The high half of a product. -/
theorem wrapInt_mulh (signed : Bool) (a b : BitVec w) : wrapInt w (intOf signed a * intOf signed b / 2 ^ w) =
    (if signed then (a.signExtend (2 * w) * b.signExtend (2 * w)).extractLsb' w w
      else (a.zeroExtend (2 * w) * b.zeroExtend (2 * w)).extractLsb' w w).toNat := by
  have high (x : Int) : wrapInt w (x / 2 ^ w) = ((BitVec.ofInt (2 * w) x).extractLsb' w w).toNat := by
    have halves : x % 2 ^ (2 * w) / 2 ^ w = x / 2 ^ w % 2 ^ w := by
      have positive : (2 : Int) ^ w ≠ 0 := by positivity
      rw [two_mul, pow_add, Int.emod_def, Int.emod_def, mul_assoc, Int.sub_mul_ediv_left _ _ positive, Int.ediv_ediv_of_nonneg (by positivity)]
    obtain ⟨n, low⟩ := Int.eq_ofNat_of_zero_le (Int.emod_nonneg x (by positivity : (2 : Int) ^ (2 * w) ≠ 0))
    have below : n < 2 ^ w * 2 ^ w := by
      have := Int.emod_lt_of_pos x (by positivity : (0 : Int) < 2 ^ (2 * w))
      rw [low] at this
      rw [← pow_add, ← two_mul]
      exact_mod_cast this
    rw [wrapInt, ← halves, BitVec.extractLsb'_toNat, BitVec.toNat_ofInt, Nat.shiftRight_eq_div_pow]
    push_cast
    rw [low, Int.toNat_natCast, Nat.mod_eq_of_lt (Nat.div_lt_of_lt_mul below)]
    exact_mod_cast Int.toNat_natCast (n / 2 ^ w)
  have wide (x y : BitVec w) (signed : Bool) : BitVec.ofInt (2 * w) (intOf signed x) = if signed then x.signExtend (2 * w) else x.zeroExtend (2 * w) := by
    cases signed with
    | true => rfl
    | false => simp [intOf]
  rw [high, BitVec.ofInt_mul, wide a b, wide b a]
  cases signed <;> rfl

theorem wrapInt_abs (a : BitVec w) : wrapInt w a.toInt.natAbs = a.abs.toNat := by
  rw [wrapInt_eq, BitVec.abs]
  split
  · next negative =>
    rw [BitVec.msb_eq_toInt, decide_eq_true_iff] at negative
    rw [Int.ofNat_natAbs_of_nonpos negative.le, BitVec.ofInt_neg, BitVec.ofInt_toInt]
    rfl
  · next positive =>
    rw [BitVec.msb_eq_toInt, decide_eq_true_iff, not_lt] at positive
    rw [Int.natAbs_of_nonneg positive, BitVec.ofInt_toInt]

/-! ### One element -/

theorem tyFmt_of_int {t : Ty} (int : tyInt t = true) : tyFmt t = none := by
  have below : t < 8 := by simpa [tyInt] using int
  interval_cases t <;> rfl

/-- A type of class F is a format of its width, and no integer type (07_lane.md R209). -/
theorem exists_tyFmt {t : Ty} (float : classF t = true) : ∃ f, tyFmt t = some f ∧ f.width = tyWidth t ∧ tyInt t = false := by
  have types : t = 8 ∨ t = 9 ∨ t = 10 ∨ t = 11 := by simpa [classF, or_assoc] using float
  obtain rfl | rfl | rfl | rfl := types <;> exact ⟨_, rfl, rfl, rfl⟩

theorem elemAdd_int {t : Ty} (int : tyInt t = true) (rm : Rm) (a b : BitVec (tyWidth t)) : elemAdd t rm a.toNat b.toNat = ((a + b).toNat, 0) := by
  rw [elemAdd, tyFmt_of_int int, BitVec.toNat_add]

theorem elemMinMax_int {t : Ty} (int : tyInt t = true) (isMax : Bool) (a b : Nat) : elemMinMax isMax t a b = (intMinMax isMax t a b, 0) := by
  rw [elemMinMax, tyFmt_of_int int]

/-- Bit copies and bitwise operations on any type (07_lane.md R214, R216). -/
theorem elemOp_whole {op : ElemOp} (whole : op = .and ∨ op = .or ∨ op = .xor ∨ op = .merge ∨ op = .mv) (t : Ty) (rm : Rm) (signed : Bool)
    (a b c : BitVec (tyWidth t)) :
    elemOp op t rm a.toNat b.toNat c.toNat = ((elemBits op signed a b c).1.toNat, (elemBits op signed a b c).2) := by
  obtain rfl | rfl | rfl | rfl | rfl := whole
  · exact congrArg (·, 0) (BitVec.toNat_and ..).symm
  · exact congrArg (·, 0) (BitVec.toNat_or ..).symm
  · exact congrArg (·, 0) (BitVec.toNat_xor ..).symm
  · rfl
  · rfl

/-- The integer operations are those of words. -/
theorem elemOp_int {op : ElemOp} {t : Ty} (int : tyInt t = true) (accepted : op.accepts t = true) (rm : Rm) (a b c : BitVec (tyWidth t)) :
    elemOp op t rm a.toNat b.toNat c.toNat =
      ((elemBits op (tySigned t) a b c).1.toNat, (elemBits op (tySigned t) a b c).2) := by
  have noFmt := tyFmt_of_int int
  have wide := tyWidth_pos t
  cases op with
  | and => exact elemOp_whole (by simp) ..
  | or => exact elemOp_whole (by simp) ..
  | xor => exact elemOp_whole (by simp) ..
  | merge => exact elemOp_whole (by simp) ..
  | mv => exact elemOp_whole (by simp) ..
  | add => exact elemAdd_int int rm a b
  | sub =>
    simp only [elemOp, noFmt, wrapInt_eq, ofInt_toNat_sub]
    rfl
  | rsub =>
    simp only [elemOp, noFmt, wrapInt_eq, ofInt_toNat_sub]
    rfl
  | mul =>
    simp only [elemOp, noFmt, elemBits, BitVec.toNat_mul]
  | mulh =>
    simp only [elemOp, elemBits, elemInt_toNat, wrapInt_mulh]
  | div =>
    simp only [elemOp, noFmt, intDiv_toNat wide, elemBits]
    split
    · rfl
    · cases tySigned t <;> rfl
  | rem =>
    simp only [elemOp, intDiv_toNat wide, elemBits]
    split
    · rfl
    · cases tySigned t <;> rfl
  | min =>
    simp only [elemOp, elemMinMax_int int, intMinMax_toNat, elemBits]
    rfl
  | max =>
    simp only [elemOp, elemMinMax_int int, intMinMax_toNat, elemBits]
    rfl
  | shl =>
    simp only [elemOp, elemBits, Nat.mod_eq_of_lt b.isLt, BitVec.toNat_shiftLeft, Nat.shiftLeft_eq]
  | shr =>
    simp only [elemOp, elemBits, Nat.mod_eq_of_lt b.isLt, BitVec.toNat_ushiftRight, Nat.shiftRight_eq_div_pow]
  | sra =>
    simp only [elemOp, elemBits, Nat.mod_eq_of_lt b.isLt, signedOf_toNat wide, wrapInt_eq, BitVec.sshiftRight_eq, Int.shiftRight_eq_div_pow]
    push_cast
    rfl
  | adds => simp only [elemOp, elemBits, elemInt_toNat, clampInt_eq]
  | subs => simp only [elemOp, elemBits, elemInt_toNat, clampInt_eq]
  | mac =>
    simp only [elemOp, noFmt, elemBits, BitVec.toNat_add, BitVec.toNat_mul, Nat.add_mod_mod]
  | nmac =>
    have product : BitVec.ofInt (tyWidth t) ((c.toNat : Int) - a.toNat * b.toNat) = c - a * b := by
      rw [Int.sub_eq_add_neg, BitVec.ofInt_add, BitVec.ofInt_neg, BitVec.ofInt_mul]
      simp [BitVec.sub_eq_add_neg]
    simp only [elemOp, noFmt, wrapInt_eq, product]
    rfl
  | sqrt =>
    have types : classF t = true := accepted
    obtain ⟨f, -, -, other⟩ := exists_tyFmt types
    rw [int] at other
    cases other
  | abs =>
    simp only [elemOp, noFmt, signedOf_toNat wide, wrapInt_abs, elemBits]
    cases tySigned t <;> rfl
  | addmin =>
    simp only [elemOp, elemAdd_int int, elemMinMax_int int, intMinMax_toNat, elemBits]
    rfl

theorem nanRes_eq (f : Fmt) (nv : Bool) : f.nanRes nv = (f.canonNan, if nv then 0x01 else 0) := by
  cases nv <;> rfl

/-- The floating-point operations are those of the format. -/
theorem elemOp_float {op : ElemOp} {t : Ty} {f : Fmt} (fmt : tyFmt t = some f) (width : f.width = tyWidth t) (other : tyInt t = false)
    (accepted : op.accepts t = true) (arith : ¬ (op = .and ∨ op = .or ∨ op = .xor ∨ op = .merge ∨ op = .mv)) (rm : Rm) (a b c : Nat) :
    elemOp op t rm a b c = elemFloat f op rm a b c := by
  cases op with
  | and | or | xor | merge | mv => simp at arith
  | mulh | rem | shl | shr | sra | adds | subs => exact absurd (other.symm.trans accepted) Bool.false_ne_true
  | add | sub | rsub | mul | div | min | max | mac | nmac | sqrt => simp only [elemOp, elemAdd, elemMinMax, fmt, elemFloat]
  | abs => simp only [elemOp, fmt, elemFloat, nanRes_eq, width]
  | addmin => simp only [elemOp, elemAdd, elemMinMax, fmt, elemFloat]

theorem ElemOp.classF_of_accepts {op : ElemOp} {t : Ty} (accepted : op.accepts t = true)
    (arith : ¬ (op = .and ∨ op = .or ∨ op = .xor ∨ op = .merge ∨ op = .mv)) (other : tyInt t = false) : classF t = true := by
  cases op with
  | and | or | xor | merge | mv => simp at arith
  | mulh | rem | shl | shr | sra | adds | subs => exact absurd (other.symm.trans accepted) Bool.false_ne_true
  | sqrt => exact accepted
  | add | sub | mul | div | min | max | mac | nmac | abs | addmin | rsub =>
    simpa [ElemOp.accepts, classI, other] using accepted

/-- One element of the model is one of the statements, for the types that the operation accepts. -/
theorem elemOp_eq {op : ElemOp} {t : Ty} (accepted : op.accepts t = true) (rm : Rm) {a b c : Nat} (ha : a < 2 ^ tyWidth t)
    (hb : b < 2 ^ tyWidth t) (hc : c < 2 ^ tyWidth t) : elemOp op t rm a b c = elemResult op t rm a b c := by
  have back {x : Nat} (below : x < 2 ^ tyWidth t) : (BitVec.ofNat (tyWidth t) x).toNat = x := Nat.mod_eq_of_lt below
  unfold elemResult
  by_cases whole : op = .and ∨ op = .or ∨ op = .xor ∨ op = .merge ∨ op = .mv
  · rw [if_pos (Or.inl whole), ← elemOp_whole whole, back ha, back hb, back hc]
  by_cases int : tyInt t = true
  · rw [if_pos (Or.inr int), ← elemOp_int int accepted, back ha, back hb, back hc]
  · rw [if_neg (not_or.2 ⟨whole, int⟩)]
    obtain ⟨f, fmt, width, other⟩ := exists_tyFmt (ElemOp.classF_of_accepts accepted whole (Bool.eq_false_iff.2 int))
    rw [elemOp_float fmt width other accepted whole, fmt]

end Sys2Proof.Machine
end

section
/-!
PROOFS. The element-wise instructions and `vidx`, and what the lane engine raises where a check of the former fails (07_lane.md R207 to R209,
R214 to R219).
-/

namespace Sys2Proof.Machine

open Sys2Proof.Claims

/-! ### The instructions -/

/-- An instruction of the VIQ with some scalar operands. -/
structure InViq (i : Instr) (rs : List (BitVec 6)) : Prop where
  /-- It goes into the VIQ. -/
  issues : ∀ s, exec i s = issue i 1 rs s
  /-- It is no run. -/
  noRun : ∀ n, i ≠ .chrun n
  /-- It is no access of the fabric. -/
  access : ∀ s : State, (s.entry i rs).isAccess = false
  /-- It captures vl. -/
  lanes : ∀ (s : State) aux, (s.entryWith i rs aux).n = lanes s.hart

/-- One that draws nothing leaves the generator alone (03_arithmetic.md R88). -/
theorem InViq.undrawn {s : State} {i : Instr} {rs : List (BitVec 6)} (viq : InViq i rs) (free : Free s i)
    (undrawn : s.hart.draws i (rs.map s.hart.sreg) = none) : Issues s 1 i rs 0 s.hart.rng :=
  issues_undrawn free (Or.inl rfl) viq.noRun rs undrawn

/-- An element-wise instruction as an entry of the VIQ. -/
structure ElemEntry (s : State) (i : Instr) (x : ElemForm) (rs : List (BitVec 6)) : Prop where
  /-- It goes into the VIQ. -/
  viq : InViq i rs
  /-- It draws nothing. -/
  undrawn : s.hart.draws i (rs.map s.hart.sreg) = none
  /-- What its entry does. -/
  runs : ∀ aux, runEntry (s.entryWith i rs aux) =
    laneElem (s.entryWith i rs aux) x.op (if x.ints then classI else anyTy) x.d.toNat x.a x.b x.m.toNat

theorem immSrc_eq (x : BitVec 12) : immSrc x = .lit (x.signExtend 64).toNat := by
  rw [immSrc, sextWord_eq _ (by decide), BitVec.ofNat_toNat, BitVec.setWidth_eq]

theorem exists_elemEntry {s : State} {i : Instr} {x : ElemForm} (form : elemForm s.hart i = some x) : ∃ rs, ElemEntry s i x rs := by
  cases i with
  | vadd d a b m | vsub d a b m | vmul d a b m | vmulh d a b m | vdiv d a b m | vrem d a b m | vmin d a b m | vmax d a b m | vand d a b m
  | vor d a b m | vxor d a b m | vshl d a b m | vshr d a b m | vsra d a b m | vadds d a b m | vsubs d a b m | vmac d a b m | vnmac d a b m
  | vsqrt d a m | vabs d a m | vaddmin d a b m | vmerge d a b m | vmv d a m =>
    cases form
    exact ⟨[], ⟨fun _ => rfl, nofun, fun _ => rfl, fun _ _ => rfl⟩, rfl, fun _ => rfl⟩
  | vaddVs d a n m | vsubVs d a n m | vmulVs d a n m | vminVs d a n m | vmaxVs d a n m | vshlVs d a n m | vshrVs d a n m | vsraVs d a n m
  | vmacVs d a n m | vaddminVs d a n m | vrsubVs d a n m =>
    cases form
    exact ⟨[n], ⟨fun _ => rfl, nofun, fun _ => rfl, fun _ _ => rfl⟩, rfl, fun _ => rfl⟩
  | vbcast d n m =>
    cases form
    exact ⟨[n], ⟨fun _ => rfl, nofun, fun _ => rfl, fun _ _ => rfl⟩, rfl, fun _ => rfl⟩
  | vaddVi d a y | vandVi d a y | vorVi d a y | vxorVi d a y | vshlVi d a y | vshrVi d a y | vsraVi d a y | vrsubVi d a y =>
    cases form
    refine ⟨[], ⟨fun _ => rfl, nofun, fun _ => rfl, fun _ _ => rfl⟩, rfl, fun _ => ?_⟩
    rw [← immSrc_eq]
    rfl
  | _ => cases form

/-- The checks of the entry are those of the form (07_lane.md R209). -/
theorem elemChecks_eq (h : Hart) (x : ElemForm) :
    (x.op.accepts (etTy h.et) && (if x.ints then classI else anyTy) (etTy h.et) && groupOk x.d.toNat (etGroup h.et) &&
      x.a.ok x.d.toNat (etGroup h.et) && x.b.ok x.d.toNat (etGroup h.et) && spanOk x.m.toNat (lanes h)) = elemChecks h x := by
  unfold elemChecks groupOk
  cases x.ints <;> rfl

/-! ### What the entry computes -/

/-- Whether element `k` of a form is active: all are where the mask selects between the sources (07_lane.md R216). -/
def Hart.elemActive (h : Hart) (x : ElemForm) (k : Nat) : Bool := x.op = .merge || h.mbit x.m.toNat k

/-- The second source of element `k`: the first one where a `vmerge` is not to take the second. -/
def Hart.elemSecond (h : Hart) (x : ElemForm) (k : Nat) : Nat :=
  if x.op = .merge ∧ h.mbit x.m.toNat k = false then srcAt h (etSew h.et) k x.a else srcAt h (etSew h.et) k x.b

/-- The value of element `k`, as the engine computes it. -/
def Hart.elemValue (h : Hart) (x : ElemForm) (k : Nat) : Nat × Fl :=
  elemOp x.op (etTy h.et) (rmOf (etRm h.et)) (srcAt h (etSew h.et) k x.a) (h.elemSecond x k) (h.velem (etSew h.et) x.d.toNat k)

/-- The row of a form. -/
def Hart.elemRow (h : Hart) (x : ElemForm) (k : Nat) : Nat × Fl :=
  elemAt (etMp h.et) (h.elemActive x) (h.velem (etSew h.et) x.d.toNat) (h.elemValue x) k

theorem laneElem_eq {h : Hart} {e : Entry} (x : ElemForm) (et : e.et = h.et) (start : e.prog = 0) :
    h.laneElem e x.op x.d.toNat x.a x.b x.m.toNat =
      (h.setVelems (etSew h.et) x.d.toNat (etGroup h.et) (withTail (etTp h.et) (etSew h.et) (etGroup h.et)
        ((List.range e.n).map fun k => (h.elemRow x k).1))).flag ((List.range e.n).foldl (fun acc k => acc ||| (h.elemRow x k).2) 0) := by
  have picked : (if x.op = .merge then (((x.a.elems h (etSew h.et) e.n).zip (x.b.elems h (etSew h.et) e.n)).zip (h.mbits x.m.toNat e.n)).map
        (fun ((y, z), k) => (y, if k then z else y)) else (x.a.elems h (etSew h.et) e.n).zip (x.b.elems h (etSew h.et) e.n)) =
      (List.range e.n).map fun k => (srcAt h (etSew h.et) k x.a, h.elemSecond x k) := by
    rw [VSrc.elems_eq, VSrc.elems_eq, Hart.mbits_eq, List.zip_map', List.zip_map', List.map_map]
    unfold Hart.elemSecond
    by_cases merge : x.op = .merge
    · rw [if_pos merge]
      refine List.map_congr_left fun k _ => ?_
      cases bit : h.mbit x.m.toNat k <;> simp [merge, bit]
    · simp [merge]
  have mask : (if x.op = .merge then List.replicate e.n true else h.mbits x.m.toNat e.n) = (List.range e.n).map (h.elemActive x) := by
    unfold Hart.elemActive
    by_cases merge : x.op = .merge
    · simp [merge]
    · simp [merge, Hart.mbits_eq]
  have old : h.velems (etSew h.et) x.d.toNat e.n = (List.range e.n).map (h.velem (etSew h.et) x.d.toNat) := rfl
  have row := elementwise_range (etMp h.et) e.n (h.elemActive x) (h.velem (etSew h.et) x.d.toNat) (fun k => srcAt h (etSew h.et) k x.a)
    (h.elemSecond x) fun _ y z c => elemOp x.op (etTy h.et) (rmOf (etRm h.et)) y z c
  rw [← picked, ← mask, ← old] at row
  simp only [Hart.laneElem, et, start]
  exact congrArg (fun r : List Nat × Fl => (h.setVelems (etSew h.et) x.d.toNat (etGroup h.et)
    (withTail (etTp h.et) (etSew h.et) (etGroup h.et) r.1)).flag r.2) row

/-- The row of a form is that of the hart before its instruction was enqueued. -/
theorem elemRow_inViq (h : Hart) (e : Entry) (r : Word) (x : ElemForm) : (h.inViq e r).elemRow x = h.elemRow x := by
  have source (w k : Nat) (y : VSrc) : srcAt (h.inViq e r) w k y = srcAt h w k y := by cases y <;> rfl
  have second (k : Nat) : (h.inViq e r).elemSecond x k = h.elemSecond x k := by
    simp only [Hart.elemSecond, source, Hart.inViq_et, Hart.inViq_mbit]
  have active : (h.inViq e r).elemActive x = h.elemActive x := by
    unfold Hart.elemActive
    rw [Hart.inViq_mbit]
  have value : (h.inViq e r).elemValue x = h.elemValue x := by
    funext k
    rw [Hart.elemValue, source, second, Hart.inViq_et, Hart.inViq_velem, ← Hart.elemValue]
  funext k
  rw [Hart.elemRow, active, value, Hart.inViq_et, Hart.inViq_velem, ← Hart.elemRow]

/-- Element-wise instructions whose checks are met. -/
theorem laneElementwise : Claims.LaneElementwise := by
  intro s i x form free checks h w active b r
  obtain ⟨rs, viq, undrawn, runs⟩ := exists_elemEntry form
  have legal := checks
  simp only [elemChecks, Bool.and_eq_true, decide_eq_true_iff] at legal
  obtain ⟨⟨⟨⟨⟨accepted, -⟩, aligned⟩, -⟩, -⟩, -⟩ := legal
  have runs := (runs 0).trans (checked_passes (by rw [viq.lanes]; exact (elemChecks_eq h x).trans checks) _)
  have value (k : Nat) : h.elemValue x k = r k := elemOp_eq accepted _ (srcAt_lt ..) (by unfold Hart.elemSecond; split <;> exact srcAt_lt ..) (h.velem_lt ..)
  have same := laneElem_eq (h := h.inViq (s.entryWith i rs 0) h.rng) (e := s.entryWith i rs 0) x rfl rfl
  rw [viq.lanes, elemRow_inViq] at same
  obtain ⟨t, done, past, written, flagged⟩ := (viq.undrawn free undrawn).flaggedRow runs same (group_fits aligned)
    fun k _ => elemAt_mod h fun _ => by rw [value]
  exact ⟨t, (viq.issues s).trans done, past, written, flagsOf_row flagged fun k _ _ => by rw [value]⟩

/-- Element-wise instructions of which a check fails. -/
theorem laneChecks : Claims.LaneChecks := by
  intro s i x form free fails handler
  obtain ⟨rs, viq, undrawn, runs⟩ := exists_elemEntry form
  rw [viq.issues]
  refine exists_engineTraps (addr := none) (gpa := 0) free (Or.inl rfl) viq.noRun rs handler (viq.access s) rfl fun aux r t _ => ?_
  rw [runs, laneElem, checked_traps (entryWith_skipped ..) (by rw [viq.lanes]; exact (elemChecks_eq s.hart x).trans fails)]
  rfl

/-! ### vidx -/

/-- The row that `vidx` writes from its first element (07_lane.md R219). -/
theorem idxRow_eq (h : Hart) (w d n : Nat) (start step : Int) :
    ((h.velems w d n).zipIdx.map fun (c, i) => if i < (0 : BitVec 32).toNat then c else wrapInt w (start + i * step)) =
      (List.range n).map fun k : Nat => wrapInt w (start + k * step) := by
  apply List.ext_getElem <;> simp [Hart.velems]

/-- `vidx` with its checks met. -/
theorem laneIndex : Claims.LaneIndex := by
  intro s d start step free integer aligned
  have viq : InViq (.vidx d start step) [] := ⟨fun _ => rfl, nofun, fun _ => rfl, fun _ _ => rfl⟩
  have runs : runEntry (s.entryWith (.vidx d start step) [] 0) = laneIdx (s.entryWith (.vidx d start step) [] 0) d.toNat start step := rfl
  have runs := runs.trans (checked_passes (Bool.and_eq_true_iff.2 ⟨integer, decide_eq_true aligned⟩) _)
  rw [viq.issues]
  refine (viq.undrawn free rfl).row runs ?_ (group_fits aligned) fun k _ => congrArg (· % 2 ^ etSew s.hart.et) (wrapInt_eq ..)
  rw [viq.lanes]
  exact congrArg (fun xs => (s.hart.inViq _ _).setVelems (etSew s.hart.et) d.toNat (etGroup s.hart.et)
    (withTail (etTp s.hart.et) (etSew s.hart.et) (etGroup s.hart.et) xs)) (idxRow_eq ..)

/-- Settles O25, by the row that the lane engine computes element by element (07_lane.md R207) and the words of its operations. -/
theorem laneResults : Obligations.LaneResults := ⟨laneElementwise, laneIndex⟩

/-- Settles O26: a failing check is met by the engine at the entry's first element, which is alone in its queue. -/
theorem engineChecks : Obligations.EngineChecks := ⟨laneChecks, matrixChecks⟩

end Sys2Proof.Machine
end

section
/-!
PROOFS. `vcvt` (07_lane.md R221 to R223): its groups, its draws (03_arithmetic.md R88) and its row.
-/

namespace Sys2Proof.Machine

open Sys2Proof.Claims

/-! ### The group of the destination -/

/-- Every element width is a power of two (03_arithmetic.md R78). -/
theorem exists_tyWidth (t : Ty) : ∃ k, tyWidth t = 2 ^ k := by
  have widths : ∀ w ∈ [4, 8, 16, 32, 64], ∃ k, k < 7 ∧ w = 2 ^ k := by decide
  obtain ⟨k, -, width⟩ := widths (tyWidth t) (by unfold tyWidth; split <;> decide)
  exact ⟨k, width⟩

/-- A share of a power of two, of at least 1. -/
theorem max_one_two_pow_div (a b : Nat) : max 1 (2 ^ a / 2 ^ b) = 2 ^ (a - b) := by
  obtain small | large := Nat.lt_or_ge a b
  · rw [Nat.div_eq_of_lt (Nat.pow_lt_pow_right (by decide) small), Nat.sub_eq_zero_of_le small.le]
    rfl
  · rw [Nat.pow_div large (by decide)]
    exact max_eq_right Nat.one_le_two_pow

/-- A group of a power of two of registers, at a multiple of its size, lies within the registers (07_lane.md R202). -/
theorem two_pow_group_fits {v : BitVec 5} {k : Nat} (small : k ≤ 5) (aligned : v.toNat % 2 ^ k = 0) : v.toNat + 2 ^ k ≤ 32 := by
  obtain ⟨c, multiple⟩ := Nat.dvd_of_mod_eq_zero aligned
  have below : v.toNat < 2 ^ k * 2 ^ (5 - k) := by
    rw [← pow_add, Nat.add_sub_cancel' small]
    exact v.isLt
  rw [multiple] at below ⊢
  calc 2 ^ k * c + 2 ^ k = 2 ^ k * (c + 1) := (Nat.mul_succ ..).symm
    _ ≤ 2 ^ k * 2 ^ (5 - k) := Nat.mul_le_mul_left _ (Nat.lt_of_mul_lt_mul_left below)
    _ = 2 ^ 5 := by rw [← pow_add, Nat.add_sub_cancel' small]

/-- The destination group of a conversion lies within the registers (07_lane.md R222). -/
theorem cvtGroup_fits {v : BitVec 5} {et : Word} {dst src : Ty} (aligned : v.toNat % (cvtGroups et dst src).1 = 0) :
    v.toNat + (cvtGroups et dst src).1 ≤ 32 := by
  have size : bits et 4 2 < 4 := Nat.mod_lt _ (by decide)
  obtain ⟨i, wd⟩ := exists_tyWidth dst
  obtain ⟨j, ws⟩ := exists_tyWidth src
  obtain ⟨k, small, group⟩ : ∃ k, k ≤ 5 ∧ (cvtGroups et dst src).1 = 2 ^ k := by
    unfold cvtGroups etGroup
    by_cases narrower : tyWidth dst < tyWidth src
    · refine ⟨bits et 4 2 + i - j, ?_, ?_⟩
      · rw [wd, ws] at narrower
        have := (Nat.pow_lt_pow_iff_right (by decide)).1 narrower
        omega
      · simp only [narrower, if_true]
        rw [wd, ws, ← pow_add, max_one_two_pow_div]
    · exact ⟨bits et 4 2, by omega, by simp only [narrower, if_false]⟩
  rw [group] at aligned ⊢
  exact two_pow_group_fits small aligned

/-! ### The draws -/

/-- Whether `vcvt` draws (03_arithmetic.md R86, R88). -/
abbrev Hart.cvtDraws (h : Hart) (dst src : BitVec 4) : Prop := etRm h.et = 4 ∧ cvtStochastic src.toNat dst.toNat = true

theorem Hart.draws_vcvt (h : Hart) (d a : BitVec 5) (dst src : BitVec 4) (m : BitVec 7) (ops : List Word) :
    h.draws (.vcvt d a dst src m) ops = if h.cvtDraws dst src then some h.vl.toNat else none := by
  simp [Hart.draws]

/-- A conversion that nothing holds back captures the generator where it draws, and moves it on by vl draws (03_arithmetic.md R88). -/
theorem issues_vcvt {s : State} {d a : BitVec 5} {dst src : BitVec 4} {m : BitVec 7} (free : Free s (.vcvt d a dst src m)) :
    Issues s 1 (.vcvt d a dst src m) [] (if s.hart.cvtDraws dst src then s.hart.rng else 0)
      (if s.hart.cvtDraws dst src then s.hart.rng + s.hart.vl * 0x9E3779B97F4A7C15 else s.hart.rng) := by
  refine ⟨free, Or.inl rfl, nofun, ?_, ?_⟩ <;> rw [Hart.draws_vcvt] <;> by_cases draws : s.hart.cvtDraws dst src
  · rw [if_pos draws, if_pos draws]; rfl
  · rw [if_neg draws, if_neg draws]; rfl
  · rw [if_pos draws, if_pos draws]
    simp [word, rngStep]
  · rw [if_neg draws, if_neg draws]
    simp [word]

/-! ### The row -/

/-- The value of element `k` of a conversion, whose draws are those of the state `aux` of the generator (03_arithmetic.md R87). -/
def Hart.cvtValue (h : Hart) (aux : Word) (a : BitVec 5) (dst src : BitVec 4) (k : Nat) : Nat × Fl :=
  cvtElem src.toNat dst.toNat (if etRm h.et = 4 then .rsr (draw aux k) else rmOf (etRm h.et)) (etSat h.et)
    (h.velem (tyWidth src.toNat) a.toNat k)

theorem Hart.inViq_cvtValue (h : Hart) (e : Entry) (r aux : Word) (a : BitVec 5) (dst src : BitVec 4) :
    (h.inViq e r).cvtValue aux a dst src = h.cvtValue aux a dst src := by
  funext k
  rw [Hart.cvtValue, Hart.inViq_et, Hart.inViq_velem, Hart.cvtValue]

/-- The row of a conversion. -/
def Hart.cvtRow (h : Hart) (aux : Word) (d a : BitVec 5) (dst src : BitVec 4) (m : BitVec 7) (k : Nat) : Nat × Fl :=
  elemAt (etMp h.et) (h.mbit m.toNat) (h.velem (tyWidth dst.toNat) d.toNat) (h.cvtValue aux a dst src) k

theorem Hart.inViq_cvtRow (h : Hart) (e : Entry) (r aux : Word) (d a : BitVec 5) (dst src : BitVec 4) (m : BitVec 7) :
    (h.inViq e r).cvtRow aux d a dst src m = h.cvtRow aux d a dst src m := by
  funext k
  rw [Hart.cvtRow, Hart.inViq_et, Hart.inViq_mbit, Hart.inViq_velem, Hart.inViq_cvtValue, Hart.cvtRow]

/-- The effect of a conversion on the hart, where its destination has `gd` registers. -/
def Hart.laneCvt (h : Hart) (e : Entry) (gd : Nat) (d a : BitVec 5) (dst src : BitVec 4) (m : BitVec 7) : Hart :=
  let (ys, fl) := elementwise (etMp e.et) e.prog.toNat (h.mbits m.toNat e.n) (h.velems (tyWidth dst.toNat) d.toNat e.n)
    ((h.velems (tyWidth src.toNat) a.toNat e.n).zip (h.velems (tyWidth src.toNat) a.toNat e.n))
    (fun i x _ _ =>
      cvtElem src.toNat dst.toNat (if etRm e.et = 4 then .rsr (draw e.aux i) else rmOf (etRm e.et)) (etSat e.et) x)
  (h.setVelems (tyWidth dst.toNat) d.toNat gd (withTail (etTp e.et) (tyWidth dst.toNat) gd ys)).flag fl

theorem Hart.laneCvt_eq {h : Hart} {e : Entry} (gd : Nat) (d a : BitVec 5) (dst src : BitVec 4) (m : BitVec 7) (et : e.et = h.et)
    (start : e.prog = 0) : h.laneCvt e gd d a dst src m =
      (h.setVelems (tyWidth dst.toNat) d.toNat gd (withTail (etTp h.et) (tyWidth dst.toNat) gd
        ((List.range e.n).map fun k => (h.cvtRow e.aux d a dst src m k).1))).flag
        ((List.range e.n).foldl (fun acc k => acc ||| (h.cvtRow e.aux d a dst src m k).2) 0) := by
  have row := elementwise_range (etMp h.et) e.n (h.mbit m.toNat) (h.velem (tyWidth dst.toNat) d.toNat)
    (h.velem (tyWidth src.toNat) a.toNat) (h.velem (tyWidth src.toNat) a.toNat) fun i x _ _ =>
      cvtElem src.toNat dst.toNat (if etRm h.et = 4 then .rsr (draw e.aux i) else rmOf (etRm h.et)) (etSat h.et) x
  rw [← Hart.mbits_eq, ← List.zip_map', ← Hart.velems, ← Hart.velems] at row
  simp only [Hart.laneCvt, et, start]
  exact congrArg (fun r : List Nat × Fl => (h.setVelems (tyWidth dst.toNat) d.toNat gd
    (withTail (etTp h.et) (tyWidth dst.toNat) gd r.1)).flag r.2) row

/-- The checks of a conversion (07_lane.md R222). -/
def cvtChecks (et : Word) (n : Nat) (d a : BitVec 5) (dst src : BitVec 4) (m : BitVec 7) : Bool :=
  let wd := tyWidth dst.toNat
  let ws := tyWidth src.toNat
  let (gd, gs) := cvtGroups et dst.toNat src.toNat
  cvtOk src.toNat dst.toNat && etSew et == max wd ws && groupOk d.toNat gd && groupOk a.toNat gs && spanOk m.toNat n &&
    (if wd = ws then sameOrApart d.toNat gd a.toNat gs else !overlaps d.toNat gd a.toNat gs)

theorem cvtChecks_intro {et : Word} {n : Nat} {d a : BitVec 5} {dst src : BitVec 4} {m : BitVec 7}
    (legal : cvtOk src.toNat dst.toNat = true) (width : etSew et = max (tyWidth dst.toNat) (tyWidth src.toNat))
    (dAligned : d.toNat % (cvtGroups et dst.toNat src.toNat).1 = 0) (aAligned : a.toNat % (cvtGroups et dst.toNat src.toNat).2 = 0)
    (span : spanOk m.toNat n = true)
    (apart : if tyWidth dst.toNat = tyWidth src.toNat
      then d = a ∨ overlaps d.toNat (cvtGroups et dst.toNat src.toNat).1 a.toNat (cvtGroups et dst.toNat src.toNat).2 = false
      else overlaps d.toNat (cvtGroups et dst.toNat src.toNat).1 a.toNat (cvtGroups et dst.toNat src.toNat).2 = false) :
    cvtChecks et n d a dst src m = true := by
  have same : tyWidth dst.toNat = tyWidth src.toNat → (cvtGroups et dst.toNat src.toNat).1 = (cvtGroups et dst.toNat src.toNat).2 := by
    intro same
    simp [cvtGroups, same]
  simp only [cvtChecks, legal, width, groupOk, dAligned, aAligned, span, beq_self_eq_true, decide_true, Bool.and_self, Bool.true_and]
  by_cases equal : tyWidth dst.toNat = tyWidth src.toNat
  · rw [if_pos equal] at apart ⊢
    obtain rfl | apart := apart
    · simp [sameOrApart, same equal]
    · simp [sameOrApart, apart]
  · rw [if_neg equal] at apart ⊢
    rw [apart]
    rfl

/-- A conversion whose checks are met is its effect on the hart. -/
theorem laneCvt_eq {e : Entry} {d a : BitVec 5} {dst src : BitVec 4} {m : BitVec 7} (checks : cvtChecks e.et e.n d a dst src m = true) :
    laneCvt e d.toNat a.toNat dst.toNat src.toNat m.toNat =
      modHart fun h => h.laneCvt e (cvtGroups e.et dst.toNat src.toNat).1 d a dst src m := checked_passes checks _

/-- Settles O27, by the row of the conversion with the draws that its entry has captured. -/
theorem laneConvert : Obligations.LaneConvert := by
  intro s d a dst src m free h wd ws g gd gs drawn r legal width dAligned aAligned span apart
  have issues := issues_vcvt free
  have value : h.cvtValue (if s.hart.cvtDraws dst src then s.hart.rng else 0) a dst src = r := rfl
  generalize (if s.hart.cvtDraws dst src then s.hart.rng else 0) = aux at issues value
  have checks := cvtChecks_intro legal width dAligned aAligned span apart
  have same := (h.inViq (s.entryWith (.vcvt d a dst src m) [] aux) (if drawn then h.rng + h.vl * 0x9E3779B97F4A7C15 else h.rng)).laneCvt_eq
    (e := s.entryWith (.vcvt d a dst src m) [] aux) gd d a dst src m rfl rfl
  rw [Hart.inViq_cvtRow, Hart.inViq_et] at same
  obtain ⟨t, done, past, written, flagged⟩ := issues.flaggedRow (laneCvt_eq checks) same (cvtGroup_fits dAligned)
    fun k _ => elemAt_mod h fun _ => congrArg (fun f : Nat → Nat × Fl => (f k).1 % 2 ^ wd) value
  exact ⟨t, done, past, written, flagsOf_row flagged fun k _ _ => congrArg (fun f : Nat → Nat × Fl => (f k).2) value⟩

end Sys2Proof.Machine
end

section
/-!
PROOFS. Writing a span of mask registers, bit by bit (07_lane.md R203, R207).
-/

namespace Sys2Proof.Machine

open Sys2Proof.Claims

/-! ### Bits of a register -/

/-- A mask register whose lowest bits are replaced. -/
def maskOverlay (old : BitVec 4096) (xs : List Bool) : BitVec 4096 :=
  BitVec.ofNat 4096 (old.toNat / 2 ^ xs.length * 2 ^ xs.length + packMask xs)

/-- Packed bits are packed elements of one bit. -/
theorem packMask_eq (xs : List Bool) : packMask xs = packElems 1 (xs.map Bool.toNat) := by
  have bit (b : Bool) : b.toNat % 2 = b.toNat := by cases b <;> rfl
  simp only [packMask, packElems, List.foldr_map, bit, pow_one]

theorem maskOverlay_nil (old : BitVec 4096) : maskOverlay old [] = old := by simp [maskOverlay, packMask]

/-- A bit of a mask register whose lowest bits are replaced. -/
theorem maskOverlay_getLsbD {i : Nat} (inside : i < 4096) (old : BitVec 4096) (xs : List Bool) :
    (maskOverlay old xs).getLsbD i = (xs[i]?).getD (old.getLsbD i) := by
  have field := field_of_packElems 1 (xs.map Bool.toNat) old.toNat i
  rw [← packMask_eq, List.length_map, Nat.mul_one, Nat.mul_one, List.getElem?_map] at field
  rw [maskOverlay, BitVec.getLsbD_ofNat, decide_eq_true inside, Bool.true_and, Nat.testBit_eq_decide_div_mod_eq]
  cases got : xs[i]? with
  | none =>
    rw [got] at field
    rw [Option.getD_none, BitVec.getLsbD, Nat.testBit_eq_decide_div_mod_eq]
    exact congrArg (fun x : Nat => decide (x = 1)) field
  | some b =>
    rw [got] at field
    rw [show _ % 2 = _ from field]
    cases b <;> rfl

/-! ### Registers of a span -/

/-- The bits of register `k` of a span. -/
def maskPart (xs : List Bool) (k : Nat) : List Bool := (xs.drop (k * 4096)).take 4096

theorem maskPart_getElem? {j : Nat} (h : j < 4096) (xs : List Bool) (k : Nat) : (maskPart xs k)[j]? = xs[k * 4096 + j]? := by
  rw [maskPart, List.getElem?_take_of_lt h, List.getElem?_drop]

/-- Register `r`. -/
def MFile.reg (p : MFile) (r : Nat) : Option (BitVec 4096) := p.1[r]?

/-- Register `k` of the span at `mn` takes its bits, and is live when there are any. -/
def MFile.putPart (mn : Nat) (xs : List Bool) (p : MFile) (k : Nat) : MFile :=
  if (maskPart xs k).isEmpty then p
  else (modAt p.1 (mn + k) fun r => maskOverlay r (maskPart xs k), p.2 ||| BitVec.twoPow 96 (mn + k))

/-- The span of `k` registers at `mn` takes its bits. -/
def MFile.put (p : MFile) (mn k : Nat) (xs : List Bool) : MFile := (List.range k).foldl (MFile.putPart mn xs) p

/-- The hart with other mask registers. -/
def Hart.withMfile (h : Hart) (p : MFile) : Hart := { h with m := p.1, mLive := p.2 }

theorem Hart.setMbits_eq (h : Hart) (mn k : Nat) (xs : List Bool) : h.setMbits mn k xs = h.withMfile (h.mfile.put mn k xs) :=
  List.foldl_hom (init := h.mfile) h.withMfile fun p j => by
    rw [MFile.putPart, apply_ite h.withMfile]
    rfl

section
variable (p : MFile) {mn k : Nat} (xs : List Bool)

theorem MFile.putPart_reg_self (h : mn + k < 96) :
    (p.putPart mn xs k).reg (mn + k) = (p.reg (mn + k)).map fun r => maskOverlay r (maskPart xs k) := by
  unfold MFile.putPart
  split
  · next none => simp [List.isEmpty_iff.1 none, maskOverlay_nil]
  · exact modAt_getElem?_self h _

theorem MFile.putPart_reg_ne {r : Nat} (h : r ≠ mn + k) : (p.putPart mn xs k).reg r = p.reg r := by
  unfold MFile.putPart
  split
  · rfl
  · exact modAt_getElem?_ne _ h _

theorem MFile.putPart_live_ne {r : Nat} (h : r ≠ mn + k) : (p.putPart mn xs k).2.getLsbD r = p.2.getLsbD r := by
  unfold MFile.putPart
  split
  · rfl
  · simp [BitVec.getLsbD_or, BitVec.getLsbD_twoPow, h.symm]

theorem MFile.put_succ : p.put mn (k + 1) xs = (p.put mn k xs).putPart mn xs k := by
  rw [MFile.put, List.range_succ, List.foldl_append]
  rfl

/-- Registers outside a span are as they were. -/
theorem MFile.put_outside {r : Nat} (h : r < mn ∨ mn + k ≤ r) :
    (p.put mn k xs).reg r = p.reg r ∧ (p.put mn k xs).2.getLsbD r = p.2.getLsbD r := by
  induction k with
  | zero => exact ⟨rfl, rfl⟩
  | succ k ih =>
    have other : r ≠ mn + k := by omega
    obtain ⟨reg, live⟩ := ih (by omega)
    rw [MFile.put_succ, MFile.putPart_reg_ne _ _ other, MFile.putPart_live_ne _ _ other]
    exact ⟨reg, live⟩

/-- Registers of a span have taken their bits. -/
theorem MFile.put_inside {j : Nat} (h : j < k) (fits : mn + k ≤ 96) :
    (p.put mn k xs).reg (mn + j) = (p.reg (mn + j)).map fun r => maskOverlay r (maskPart xs j) := by
  induction k with
  | zero => omega
  | succ k ih =>
    rw [MFile.put_succ]
    by_cases last : j = k
    · subst last
      rw [MFile.putPart_reg_self _ _ (by omega), (p.put_outside xs (Or.inr le_rfl)).1]
    · rw [MFile.putPart_reg_ne _ _ (by omega), ih (by omega) (by omega)]

end

/-! ### Bits of a span -/

theorem Hart.mbit_eq (h : Hart) {mn : Nat} (written : 0 < mn) (i : Nat) :
    h.mbit mn i = ((h.mfile.reg (mn + i / 4096)).getD 0).getLsbD (i % 4096) := by
  rw [Hart.mbit, decide_eq_false written.ne', Bool.false_or]
  rfl

/-- A written span with its tail, bit by bit (07_lane.md R207). -/
theorem withMaskTail_getElem? {tp : Bool} {k i : Nat} (inside : i < 4096 * k) (xs : List Bool) :
    (withMaskTail tp k xs)[i]? = if i < xs.length then xs[i]? else if tp = true ∧ 0 < xs.length then some false else none := by
  unfold withMaskTail
  by_cases below : i < xs.length
  · rw [if_pos below]
    split
    · exact List.getElem?_append_left below
    · rfl
  · rw [if_neg below]
    have beyond : xs.length ≤ i := by omega
    cases xs with
    | nil => simp
    | cons x xs =>
      cases tp with
      | false => simpa using beyond
      | true =>
        simp only [List.isEmpty_cons, Bool.not_false, Bool.and_self, if_true, List.length_cons, Nat.zero_lt_succ, and_self]
        rw [List.getElem?_append_right beyond, List.getElem?_replicate, if_pos (by rw [List.length_cons] at *; omega)]

/-- A span written with a row below `n` and its tail (07_lane.md R207). -/
theorem spanIs_tailed {h t : Hart} {d n : Nat} {tp : Bool} {y : Nat → Bool} {x : Nat → Option Bool}
    (written : t.mfile = h.mfile.put d (maskSpan n) (withMaskTail tp (maskSpan n) ((List.range n).map y))) (legal : dstSpanOk d n = true)
    (row : ∀ k, k < n → y k = (x k).getD (h.mbit d k)) : SpanIs h t d n (tailed tp n false x) := by
  simp only [dstSpanOk, Bool.and_eq_true, decide_eq_true_iff] at legal
  obtain ⟨positive, fits⟩ := legal
  refine ⟨fun k inside => ?_, fun r _ out => ?_⟩
  · have place : k % 4096 < 4096 := Nat.mod_lt _ (by decide)
    have register : k / 4096 < maskSpan n := Nat.div_lt_of_lt_mul inside
    have valid : d + k / 4096 < 96 := by omega
    have bit : t.mbit d k = ((withMaskTail tp (maskSpan n) ((List.range n).map y))[k]?).getD (h.mbit d k) := by
      obtain ⟨old, held⟩ : ∃ old, h.mfile.reg (d + k / 4096) = some old := ⟨_, Vector.getElem?_eq_getElem valid⟩
      rw [Hart.mbit_eq _ positive, written, MFile.put_inside _ _ register fits, Hart.mbit_eq _ positive, held, Option.map_some, Option.getD_some,
        maskOverlay_getLsbD place, maskPart_getElem? place, Nat.div_add_mod', Option.getD_some]
    rw [bit, withMaskTail_getElem? inside, List.length_map, List.length_range, tailed]
    by_cases below : k < n
    · rw [if_pos below, if_pos below, List.getElem?_map, List.getElem?_range below]
      refine (row k below).trans ?_
      cases x k <;> rfl
    · rw [if_neg below, if_neg below]
      split <;> rfl
  · obtain ⟨reg, live⟩ := h.mfile.put_outside (withMaskTail tp (maskSpan n) ((List.range n).map y)) out
    rw [← written] at reg live
    exact ⟨reg, live⟩

/-- A written span is what the lane engine changes. -/
theorem Hart.setMbits_laneResult (h : Hart) (mn k : Nat) (xs : List Bool) :
    h.setMbits mn k xs = h.laneResult h.vfile (h.mfile.put mn k xs) h.vstat h.srq h.bq := by
  have unflagged (p : MFile) : h.withMfile p = h.laneResult h.vfile p h.vstat h.srq h.bq := rfl
  exact (h.setMbits_eq mn k xs).trans (unflagged _)

/-- A written span, with flags, is what the lane engine changes. -/
theorem Hart.setMbits_flag (h : Hart) (mn k : Nat) (xs : List Bool) (fl : Fl) :
    (h.setMbits mn k xs).flag fl = h.laneResult h.vfile (h.mfile.put mn k xs) (h.vstat ||| fl) h.srq h.bq := by
  have flagged (p : MFile) : (h.withMfile p).flag fl = h.laneResult h.vfile p (h.vstat ||| fl) h.srq h.bq := rfl
  exact (congrArg (·.flag fl) (h.setMbits_eq mn k xs)).trans (flagged _)

section
variable {s : State} {i : Instr} {rs : List (BitVec 6)} {aux r : Word} (issues : Issues s 1 i rs aux r) {f : Hart → Hart}
  (runs : runEntry (s.entryWith i rs aux) = modHart f) {d n : Nat} {tp : Bool} {y : Nat → Bool} {x : Nat → Option Bool}
include issues runs

/-- An instruction that writes a row of bits with its tail into a span, and flags (07_lane.md R207). -/
theorem Issues.flaggedSpan {fl : Fl} (same : f (s.hart.inViq (s.entryWith i rs aux) r) =
      ((s.hart.inViq (s.entryWith i rs aux) r).setMbits d (maskSpan n) (withMaskTail tp (maskSpan n) ((List.range n).map y))).flag fl)
    (legal : dstSpanOk d n = true) (row : ∀ k, k < n → y k = (x k).getD (s.hart.mbit d k)) :
    ∃ t, issue i 1 rs s = .next t ∧
      Past s t { s.hart with m := t.hart.m, mLive := t.hart.mLive, vstat := t.hart.vstat, rng := r } ∧
      SpanIs s.hart t.hart d n (tailed tp n false x) ∧ t.hart.vstat = s.hart.vstat ||| fl := by
  obtain ⟨t, done, past, written, flagged⟩ := issues.masks runs (same.trans (Hart.setMbits_flag ..))
  exact ⟨t, done, past, spanIs_tailed written legal row, flagged⟩

/-- One that writes a row of bits with its tail into a span. -/
theorem Issues.span (same : f (s.hart.inViq (s.entryWith i rs aux) r) =
      (s.hart.inViq (s.entryWith i rs aux) r).setMbits d (maskSpan n) (withMaskTail tp (maskSpan n) ((List.range n).map y)))
    (legal : dstSpanOk d n = true) (row : ∀ k, k < n → y k = (x k).getD (s.hart.mbit d k)) :
    ∃ t, issue i 1 rs s = .next t ∧ Past s t { s.hart with m := t.hart.m, mLive := t.hart.mLive, rng := r } ∧
      SpanIs s.hart t.hart d n (tailed tp n false x) := by
  obtain ⟨t, done, past, written, stat⟩ := issues.masks runs (same.trans (Hart.setMbits_laneResult ..))
  rw [stat] at past
  exact ⟨t, done, past, spanIs_tailed written legal row⟩

end

end Sys2Proof.Machine
end

section
/-!
PROOFS. The compares and the mask instructions (07_lane.md R210, R220, R224).
-/

namespace Sys2Proof.Machine

open Sys2Proof.Claims

/-! ### Compares -/

/-- The integer value of an element as that of a word (03_arithmetic.md R92). -/
theorem elemInt_eq {t : Ty} {x : Nat} (small : x < 2 ^ tyWidth t) : elemInt t x = intOf (tySigned t) (BitVec.ofNat (tyWidth t) x) := by
  rw [← elemInt_toNat, BitVec.toNat_ofNat, Nat.mod_eq_of_lt small]

/-- A compare as the engine computes it (07_lane.md R220; 03_arithmetic.md R92). -/
theorem cmpElem_eq (op : CmpOp) {t : Ty} {a b : Nat} (ha : a < 2 ^ tyWidth t) (hb : b < 2 ^ tyWidth t) : cmpElem op t a b = cmpResult op t a b := by
  unfold cmpElem cmpResult
  cases tyFmt t with
  | none =>
    rw [elemInt_eq ha, elemInt_eq hb]
    cases op <;> simp [bne, beq_eq_decide]
  | some f =>
    have ordered (x y : Fp) : (x.cmp y != .gt) = (x.cmp y == .lt || x.cmp y == .eq) := by cases x.cmp y <;> rfl
    cases op <;> simp [fpEq, fpLt, fpLe, flIf, flNV, ordered]

/-- The row of a compare. -/
def Hart.cmpRow (h : Hart) (op : CmpOp) (d a b m k : Nat) : Nat × Fl :=
  elemAt (etMp h.et) (h.mbit m) (fun k => (h.mbit d k).toNat) (fun k =>
    let r := cmpElem op (etTy h.et) (h.velem (etSew h.et) a k) (h.velem (etSew h.et) b k)
    (r.1.toNat, r.2)) k

theorem Hart.inViq_cmpRow (h : Hart) (e : Entry) (r : Word) (op : CmpOp) (d a b m : Nat) :
    (h.inViq e r).cmpRow op d a b m = h.cmpRow op d a b m := by
  funext k
  rw [Hart.cmpRow, Hart.inViq_et, Hart.inViq_mbit, Hart.inViq_velem, Hart.cmpRow]

/-- Bit `k` that a compare writes. -/
theorem Hart.cmpRow_bit (h : Hart) {op : CmpOp} {a b k : Nat} (m d : Nat) {r : Bool × Word}
    (value : cmpElem op (etTy h.et) (h.velem (etSew h.et) a k) (h.velem (etSew h.et) b k) = r) :
    ((h.cmpRow op d a b m k).1 == 1) = (if h.mbit m k then some r.1 else if etMp h.et then some false else none).getD (h.mbit d k) := by
  have bit (b : Bool) : (b.toNat == 1) = b := by cases b <;> rfl
  simp only [Hart.cmpRow, elemAt, value]
  by_cases active : h.mbit m k = true
  · rw [if_pos active, if_pos active]
    exact bit _
  · rw [if_neg active, if_neg active]
    cases etMp h.et with
    | true => rfl
    | false => exact bit _

/-- The effect of a compare on the hart. -/
def Hart.laneCmp (h : Hart) (e : Entry) (op : CmpOp) (d a b m : Nat) : Hart :=
  let (xs, fl) := elementwise (etMp e.et) e.prog.toNat (h.mbits m e.n) ((h.mbits d e.n).map Bool.toNat)
    ((h.velems (etSew e.et) a e.n).zip (h.velems (etSew e.et) b e.n))
    (fun _ x y _ => let (r, fl) := cmpElem op (etTy e.et) x y; (r.toNat, fl))
  (h.setMbits d (maskSpan e.n) (withMaskTail (etTp e.et) (maskSpan e.n) (xs.map (· == 1)))).flag fl

theorem Hart.laneCmp_eq {h : Hart} {e : Entry} (op : CmpOp) (d a b m : Nat) (et : e.et = h.et) (start : e.prog = 0) :
    h.laneCmp e op d a b m = (h.setMbits d (maskSpan e.n) (withMaskTail (etTp h.et) (maskSpan e.n)
        ((List.range e.n).map fun k => (h.cmpRow op d a b m k).1 == 1))).flag
      ((List.range e.n).foldl (fun acc k => acc ||| (h.cmpRow op d a b m k).2) 0) := by
  have row := elementwise_range (etMp h.et) e.n (h.mbit m) (fun k => (h.mbit d k).toNat)
    (h.velem (etSew h.et) a) (h.velem (etSew h.et) b) fun _ x y _ => let (r, fl) := cmpElem op (etTy h.et) x y; (r.toNat, fl)
  have old : (List.range e.n).map (fun k => (h.mbit d k).toNat) = (h.mbits d e.n).map Bool.toNat := by
    rw [Hart.mbits_eq, List.map_map]
    rfl
  rw [← Hart.mbits_eq, ← List.zip_map', ← Hart.velems, ← Hart.velems, old] at row
  simp only [Hart.laneCmp, et, start]
  refine (congrArg (fun r : List Nat × Fl => (h.setMbits d (maskSpan e.n)
    (withMaskTail (etTp h.et) (maskSpan e.n) (r.1.map (· == 1)))).flag r.2) row).trans ?_
  rw [List.map_map]
  rfl

/-- The rule on overlap for masks (07_lane.md R210). -/
theorem masksSameOrApart_intro {d m : BitVec 7} {n : Nat} (apart : m = 0 ∨ m = d ∨ overlaps d.toNat (maskSpan n) m.toNat (maskSpan n) = false) :
    masksSameOrApart d.toNat m.toNat n = true := by
  obtain rfl | rfl | apart := apart
  · simp [masksSameOrApart]
  · simp [masksSameOrApart, sameOrApart]
  · simp [masksSameOrApart, sameOrApart, apart]

/-- A compare as an entry of the VIQ. -/
theorem cmpForm_entry {i : Instr} {op : CmpOp} {d m : BitVec 7} {a b : BitVec 5} (form : cmpForm i = some (op, d, a, b, m)) :
    InViq i [] ∧ (∀ h : Hart, h.draws i [] = none) ∧
      ∀ e : Entry, e.instr = i → runEntry e = laneCmp e op d.toNat a.toNat b.toNat m.toNat := by
  cases i with
  | vseq _ _ _ _ | vsne _ _ _ _ | vslt _ _ _ _ | vsle _ _ _ _ =>
    cases form
    exact ⟨⟨fun _ => rfl, nofun, fun _ => rfl, fun _ _ => rfl⟩, fun _ => rfl, fun e instr => by rw [runEntry, instr]⟩
  | _ => cases form

/-- Compares whose checks are met. -/
theorem laneCompares : Claims.LaneCompares := by
  intro s i op d m a b form free h n w r types aAligned bAligned span legal apart
  obtain ⟨viq, undrawn, runs⟩ := cmpForm_entry form
  have checks : ((classI (etTy h.et) || classF (etTy h.et)) && groupOk a.toNat (etGroup h.et) && groupOk b.toNat (etGroup h.et) &&
      spanOk m.toNat n && dstSpanOk d.toNat n && masksSameOrApart d.toNat m.toNat n) = true := by
    simp only [Bool.or_eq_true_iff.2 types, groupOk, aAligned, bAligned, span, legal, masksSameOrApart_intro apart, decide_true, Bool.and_self]
  have runs : runEntry (s.entryWith i [] 0) = modHart fun h => h.laneCmp (s.entryWith i [] 0) op d.toNat a.toNat b.toNat m.toNat :=
    (runs _ rfl).trans (checked_passes (by rw [viq.lanes]; exact checks) _)
  have same := (h.inViq (s.entryWith i [] 0) h.rng).laneCmp_eq (e := s.entryWith i [] 0) op d.toNat a.toNat b.toNat m.toNat rfl rfl
  rw [viq.lanes, Hart.inViq_cmpRow] at same
  have value (k : Nat) : cmpElem op (etTy h.et) (h.velem w a.toNat k) (h.velem w b.toNat k) = r k := cmpElem_eq op (h.velem_lt ..) (h.velem_lt ..)
  obtain ⟨t, done, past, written, flagged⟩ := (viq.undrawn free (undrawn _)).flaggedSpan runs same legal
    fun k _ => h.cmpRow_bit m.toNat d.toNat (value k)
  exact ⟨t, (viq.issues s).trans done, past, written,
    flagsOf_row (g := fun k => ((r k).1.toNat, (r k).2)) flagged fun k _ _ => by rw [value]⟩

/-! ### Mask instructions -/

/-- The first set bit of a span, found from its list of bits or by its place. -/
theorem firstSet_mbits (h : Hart) (m n : Nat) : firstSet (h.mbits m n) = firstBit h m n := by
  rw [Hart.mbits_eq, firstSet, firstBit]
  induction n with
  | zero => rfl
  | succ n ih =>
    rw [List.range_succ, List.map_append, List.findIdx?_append, ih, List.find?_append, List.length_map, List.length_range]
    cases List.find? (h.mbit m) (List.range n) with
    | some j => rfl
    | none => cases bit : h.mbit m n <;> simp [bit]

/-- The row of a mask instruction, bit by bit (07_lane.md R224). -/
theorem maskRow_eq (h : Hart) (op : MaskOp) (a b n : Nat) :
    maskRow op (h.mbits a n) (h.mbits b n) = (List.range n).map fun k => maskOp op (firstBit h a n) k (h.mbit a k) (h.mbit b k) := by
  unfold maskRow
  rw [firstSet_mbits, Hart.mbits_eq, Hart.mbits_eq, List.zip_map']
  apply List.ext_getElem <;> simp

/-- The effect of a mask instruction on the hart, from bit `ei` up. -/
def Hart.laneMask (h : Hart) (e : Entry) (op : MaskOp) (d a b ei : Nat) : Hart :=
  h.setMbits d (maskSpan e.n) (withMaskTail (etTp e.et) (maskSpan e.n)
    (((h.mbits d e.n).zip (maskRow op (h.mbits a e.n) (h.mbits b e.n))).zipIdx.map (fun ((c, x), i) => if i < ei then c else x)))

theorem Hart.laneMask_eq (h : Hart) (e : Entry) (op : MaskOp) (d a b : Nat) :
    h.laneMask e op d a b 0 = h.setMbits d (maskSpan e.n) (withMaskTail (etTp e.et) (maskSpan e.n)
      ((List.range e.n).map fun k => maskOp op (firstBit h a e.n) k (h.mbit a k) (h.mbit b k))) := by
  rw [Hart.laneMask, maskRow_eq, Hart.mbits_eq, List.zip_map']
  refine congrArg (fun xs => h.setMbits d (maskSpan e.n) (withMaskTail (etTp e.et) (maskSpan e.n) xs)) ?_
  apply List.ext_getElem <;> simp

/-- A mask instruction as an entry of the VIQ. -/
structure MaskEntry (i : Instr) (f : Bool → Bool → Option Int → Bool) (cross : Bool) (d a b : BitVec 7) (op : MaskOp) : Prop where
  /-- What its entry does. -/
  runs : ∀ (s : State) aux, runEntry (s.entryWith i [] aux) = laneMask (s.entryWith i [] aux) op d.toNat a.toNat b.toNat
  /-- It goes into the VIQ. -/
  viq : InViq i []
  /-- It draws nothing. -/
  undrawn : ∀ h : Hart, h.draws i [] = none
  /-- Whether it is cross-element. -/
  crosses : op.cross = cross
  /-- Its bits. -/
  bit : ∀ first k x y, maskOp op first k x y = f x y (first.map fun j : Nat => (k : Int) - j)

theorem exists_maskEntry {i : Instr} {f : Bool → Bool → Option Int → Bool} {cross : Bool} {d a b : BitVec 7}
    (form : maskForm i = some (f, cross, d, a, b)) : ∃ op, MaskEntry i f cross d a b op := by
  cases i with
  | mand | mor | mxor | mandn | morn | mnand | mnor | mxnor | mmv | mnot | mclr | mset =>
    cases form
    exact ⟨_, fun _ _ => rfl, ⟨fun _ => rfl, nofun, fun _ => rfl, fun _ _ => rfl⟩, fun _ => rfl, rfl, fun _ _ x y => by cases x <;> cases y <;> rfl⟩
  | msetbf | msetif | msetof =>
    cases form
    refine ⟨_, fun _ _ => rfl, ⟨fun _ => rfl, nofun, fun _ => rfl, fun _ _ => rfl⟩, fun _ => rfl, rfl, fun first k x y => ?_⟩
    cases first with
    | none => rfl
    | some j => simp [maskOp, sub_eq_zero]
  | _ => cases form

/-- The rule on overlap for a source of a mask instruction (07_lane.md R210, R224). -/
theorem maskApart_intro {cross : Bool} {d x : BitVec 7} {n : Nat}
    (apart : x = 0 ∨ (cross = false ∧ x = d) ∨ overlaps d.toNat (maskSpan n) x.toNat (maskSpan n) = false) :
    (if cross = true then decide (x.toNat = 0) || !overlaps d.toNat (maskSpan n) x.toNat (maskSpan n) else masksSameOrApart d.toNat x.toNat n) =
      true := by
  cases cross with
  | false =>
    rw [if_neg Bool.false_ne_true]
    exact masksSameOrApart_intro (apart.imp_right (Or.imp_left And.right))
  | true =>
    rw [if_pos rfl]
    obtain rfl | ⟨crossed, -⟩ | apart := apart
    · rfl
    · cases crossed
    · rw [apart, Bool.not_false, Bool.or_true]

/-- A mask instruction whose checks are met is its effect on the hart. -/
theorem laneMask_eq {e : Entry} {op : MaskOp} {d a b : BitVec 7} (fresh : e.skipped = false) (start : e.prog.toNat = 0)
    (legal : dstSpanOk d.toNat e.n = true) (aSpan : spanOk a.toNat e.n = true) (bSpan : spanOk b.toNat e.n = true)
    (apart : ∀ x ∈ [a, b], x = 0 ∨ (op.cross = false ∧ x = d) ∨ overlaps d.toNat (maskSpan e.n) x.toNat (maskSpan e.n) = false) :
    laneMask e op d.toNat a.toNat b.toNat = modHart fun h => h.laneMask e op d.toNat a.toNat b.toNat 0 := by
  have aApart := maskApart_intro (apart a (by simp))
  have bApart := maskApart_intro (apart b (by simp))
  unfold laneMask
  simp only [fresh, start, Bool.and_false, Bool.false_eq_true, if_false, ite_self]
  refine (checked_passes ?_ _).trans rfl
  simp only [legal, aSpan, bSpan, aApart, bApart, Bool.and_self]

/-- Mask instructions whose checks are met. -/
theorem maskInstructions : Claims.MaskInstructions := by
  intro s i f cross d a b form free h n legal aSpan bSpan apart
  obtain ⟨op, runs, viq, undrawn, crosses, bit⟩ := exists_maskEntry form
  subst crosses
  have runs := (runs s 0).trans (laneMask_eq (entryWith_skipped ..) rfl (by rw [viq.lanes]; exact legal) (by rw [viq.lanes]; exact aSpan)
    (by rw [viq.lanes]; exact bSpan) (by rw [viq.lanes]; exact apart))
  have same := (h.inViq (s.entryWith i [] 0) h.rng).laneMask_eq (s.entryWith i [] 0) op d.toNat a.toNat b.toNat
  have first (m : Nat) : firstBit (h.inViq (s.entryWith i [] 0) h.rng) m n = firstBit h m n := by rw [firstBit, Hart.inViq_mbit, firstBit]
  rw [viq.lanes, first, Hart.inViq_mbit] at same
  have place (k : Nat) : ((firstBit h a.toNat n).map fun j : Nat => (k : Int) - j) = (firstBit h a.toNat n).map fun j => (k : Int) - j := by
    cases firstBit h a.toNat n <;> rfl
  obtain ⟨t, done, past, written⟩ := (viq.undrawn free (undrawn _)).span runs same legal
    (x := fun k => some (f (h.mbit a.toNat k) (h.mbit b.toNat k) ((firstBit h a.toNat n).map fun j => (k : Int) - j)))
    fun k _ => (bit ..).trans (congrArg (f _ _) (place k))
  exact ⟨t, (viq.issues s).trans done, past, written⟩

/-- Settles O28, by the bits that a compare and a mask instruction write, one by one. -/
theorem masksAndCompares : Obligations.MasksAndCompares := ⟨laneCompares, maskInstructions⟩


end Sys2Proof.Machine
end

section
/-!
PROOFS. The scalar results of the lane engine (07_lane.md R225).
-/

namespace Sys2Proof.Machine

open Sys2Proof.Claims

/-- A hart with an entry in its SRQ. -/
def Hart.returning (h : Hart) (x : Word) : Hart := { h with srq := h.srq ++ [⟨x, 1⟩] }

/-- A hart with an entry in its BQ. -/
def Hart.deciding (h : Hart) (b : Bool) : Hart := { h with bq := h.bq ++ [⟨boolWord b, 1⟩] }

theorem laneSrq_eq {e : Entry} {ok : Bool} (fresh : e.skipped = false) (legal : ok = true) (f : Hart → Word) :
    laneSrq e ok f = modHart fun h => h.returning (f h) := by
  rw [laneSrq, fresh, legal]
  rfl

theorem laneBq_eq {e : Entry} {ok : Bool} (fresh : e.skipped = false) (legal : ok = true) (f : Hart → Bool) :
    laneBq e ok f = modHart fun h => h.deciding (f h) := by
  rw [laneBq, fresh, legal]
  rfl

section
variable {s : State} {i : Instr} {rs : List (BitVec 6)} (viq : InViq i rs) (free : Free s i)
  (undrawn : s.hart.draws i (rs.map s.hart.sreg) = none) {ok : Bool} (legal : ok = true)
include viq free undrawn legal

/-- An instruction that returns a word. -/
theorem InViq.returns {f : Hart → Word} {x : Word} (runs : runEntry (s.entryWith i rs 0) = laneSrq (s.entryWith i rs 0) ok f)
    (value : f (s.hart.inViq (s.entryWith i rs 0) s.hart.rng) = x) :
    ∃ t, exec i s = .next t ∧ Past s t { s.hart with srq := s.hart.srq ++ [⟨x, 1⟩] } := by
  have runs := runs.trans (laneSrq_eq (entryWith_skipped ..) legal f)
  have same (h : Hart) (x : Word) : h.returning x = h.laneResult h.vfile h.mfile h.vstat (h.srq ++ [⟨x, 1⟩]) h.bq := rfl
  obtain ⟨t, done, past⟩ := (viq.undrawn free undrawn).returns runs (same ..)
  rw [value] at past
  exact ⟨t, (viq.issues s).trans done, past⟩

/-- An instruction that returns a condition. -/
theorem InViq.decides {f : Hart → Bool} {b : Bool} (runs : runEntry (s.entryWith i rs 0) = laneBq (s.entryWith i rs 0) ok f)
    (value : f (s.hart.inViq (s.entryWith i rs 0) s.hart.rng) = b) :
    ∃ t, exec i s = .next t ∧ Past s t { s.hart with bq := s.hart.bq ++ [⟨boolWord b, 1⟩] } := by
  have runs := runs.trans (laneBq_eq (entryWith_skipped ..) legal f)
  have same (h : Hart) (b : Bool) : h.deciding b = h.laneResult h.vfile h.mfile h.vstat h.srq (h.bq ++ [⟨boolWord b, 1⟩]) := rfl
  obtain ⟨t, done, past⟩ := (viq.undrawn free undrawn).returns runs (same ..)
  rw [value] at past
  exact ⟨t, (viq.issues s).trans done, past⟩

end

/-- The number of set bits of a span. -/
theorem mbits_filter_length (h : Hart) (m n : Nat) : ((h.mbits m n).filter id).length = (activeBits h m n).length := by
  rw [Hart.mbits_eq, List.filter_map, List.length_map]
  rfl

/-- An element as a scalar (07_lane.md R225). -/
theorem extWord_eq (t : Ty) (x : Nat) :
    extWord t x = if tySigned t then (BitVec.ofNat (tyWidth t) x).signExtend 64 else BitVec.ofNat 64 x := by
  rw [extWord, sextWord_eq _ (tyWidth_pos t)]

/-- Settles O29: each result is the value that the entry puts in its return queue. -/
theorem laneScalarResults : Obligations.LaneScalarResults := by
  refine ⟨fun s a b free aligned below => ?_, fun s m free span => ?_, fun s m free span => ?_, fun s m free span => ?_, fun s m free span => ?_⟩
  · have viq : InViq (.vext a b) [b] := ⟨fun _ => rfl, nofun, fun _ => rfl, fun _ _ => rfl⟩
    refine viq.returns free rfl (ok := groupOk a.toNat (etGroup s.hart.et) && decide ((s.hart.sreg b).toNat < lanes s.hart)) ?_ rfl ?_
    · simp only [groupOk, aligned, below, decide_true, Bool.and_self]
    · exact (congrArg (fun v => extWord (etTy s.hart.et) (v (etSew s.hart.et) a.toNat (s.hart.sreg b).toNat)) (Hart.inViq_velem ..)).trans
        (extWord_eq ..)
  · have viq : InViq (.mpop m) [] := ⟨fun _ => rfl, nofun, fun _ => rfl, fun _ _ => rfl⟩
    refine viq.returns free rfl span rfl ?_
    rw [viq.lanes, Hart.inViq_mbits, mbits_filter_length]
  · have viq : InViq (.mfind m) [] := ⟨fun _ => rfl, nofun, fun _ => rfl, fun _ _ => rfl⟩
    refine viq.returns free rfl span rfl ?_
    rw [viq.lanes, Hart.inViq_mbits, firstSet_mbits]
    cases firstBit s.hart m.toNat (lanes s.hart) <;> rfl
  · have viq : InViq (.mbany m) [] := ⟨fun _ => rfl, nofun, fun _ => rfl, fun _ _ => rfl⟩
    refine viq.decides free rfl span rfl ?_
    rw [viq.lanes, Hart.inViq_mbits, Hart.mbits_eq, List.any_map]
    rfl
  · have viq : InViq (.mball m) [] := ⟨fun _ => rfl, nofun, fun _ => rfl, fun _ _ => rfl⟩
    refine viq.decides free rfl span rfl ?_
    rw [viq.lanes, Hart.inViq_mbits, Hart.mbits_eq, List.all_map]
    rfl

end Sys2Proof.Machine
end

section
/-!
PROOFS. The cross-element instructions of the lane engine (07_lane.md R210, R211): their checks, and the reductions (R226).
-/

namespace Sys2Proof.Machine

open Sys2Proof.Claims

/-! ### The checks -/

/-- Two different groups at multiples of their size share no register (07_lane.md R202). -/
theorem overlaps_multiples {a b g : Nat} (ha : a % g = 0) (hb : b % g = 0) (other : a ≠ b) : overlaps a g b g = false := by
  obtain ⟨i, rfl⟩ := Nat.dvd_of_mod_eq_zero ha
  obtain ⟨j, rfl⟩ := Nat.dvd_of_mod_eq_zero hb
  have places : i ≠ j := fun same => other (by rw [same])
  have step (i j : Nat) (less : i < j) : g * i + g ≤ g * j := Nat.mul_succ g i ▸ Nat.mul_le_mul_left g less
  obtain less | less := Nat.lt_or_gt_of_ne places
  · simp only [overlaps, Bool.and_eq_false_iff, decide_eq_false_iff_not, not_lt]
    exact Or.inr (step i j less)
  · simp only [overlaps, Bool.and_eq_false_iff, decide_eq_false_iff_not, not_lt]
    exact Or.inl (step j i less)

/-- Groups that are apart share no register, pair by pair (07_lane.md R210). -/
theorem pairwise_of_groupsApart {g : Nat} {rs : List (BitVec 5)} (apart : groupsApart g rs) :
    (rs.map BitVec.toNat).Pairwise fun a b => overlaps a g b g = false := by
  obtain ⟨aligned, distinct⟩ := apart
  refine List.pairwise_map.2 (distinct.imp_of_mem fun {a b} ha hb other => ?_)
  exact overlaps_multiples (aligned a ha) (aligned b hb) fun same => other (BitVec.toNat_inj.1 same)

/-- A cross-element instruction whose checks are met is its effect on the hart. -/
theorem laneCross_eq {e : Entry} {ok : Bool} {m : Nat} {f : Hart → Hart} (rs : List (BitVec 5)) (fresh : e.skipped = false) (legal : ok = true)
    (apart : groupsApart (etGroup e.et) rs) (span : spanOk m e.n = true) : laneCross e ok (rs.map BitVec.toNat) m f = modHart f := by
  have aligned : (rs.map BitVec.toNat).all (groupOk · (etGroup e.et)) = true := by
    rw [List.all_map, List.all_eq_true]
    exact fun r mem => decide_eq_true (apart.1 r mem)
  unfold laneCross
  rw [fresh, if_neg Bool.false_ne_true]
  refine checked_passes ?_ _
  rw [legal, aligned, span, decide_eq_true (pairwise_of_groupsApart apart)]
  rfl

/-! ### The tree -/

section
variable (f : Nat → Nat → Nat × Fl)

theorem redComb_isSome (a b : Option Nat) : (redComb f a b).1.isSome = (a.isSome || b.isSome) := by
  cases a <;> cases b <;> rfl

/-- A level of the tree halves it. -/
theorem redLevel_length (ys : List (Option Nat)) : (redLevel f ys).1.length = (ys.length + 1) / 2 := by
  fun_induction redLevel f ys with
  | case1 a b rest _ _ _ _ _ _ ih =>
    simp_all
    omega
  | case2 => simp
  | case3 => rfl

/-- A level of the tree has something where there was something. -/
theorem redLevel_any (ys : List (Option Nat)) : (redLevel f ys).1.any Option.isSome = ys.any Option.isSome := by
  fun_induction redLevel f ys with
  | case1 a b rest y _ comb _ _ level ih =>
    have here := redComb_isSome f a b
    rw [comb] at here
    rw [level] at ih
    rw [List.any_cons, List.any_cons, List.any_cons, ih, ← Bool.or_assoc, ← here]
  | case2 | case3 => rfl

/-- Where nothing is active a level raises no flags. -/
theorem redLevel_flags {ys : List (Option Nat)} (inactive : ys.any Option.isSome = false) : (redLevel f ys).2 = 0 := by
  fun_induction redLevel f ys with
  | case1 a b rest _ _ comb _ _ level ih =>
    rw [List.any_cons, List.any_cons, Bool.or_eq_false_iff, Bool.or_eq_false_iff, Option.isSome_eq_false_iff, Option.isSome_eq_false_iff,
      Option.isNone_iff_eq_none, Option.isNone_iff_eq_none] at inactive
    obtain ⟨rfl, rfl, others⟩ := inactive
    cases comb
    have others := ih others
    rw [level] at others
    simpa using others
  | case2 | case3 => rfl

theorem redTree_succ (k : Nat) (ys : List (Option Nat)) :
    redTree f (k + 1) ys = ((redTree f k (redLevel f ys).1).1, (redLevel f ys).2 ||| (redTree f k (redLevel f ys).1).2) := rfl

/-- Where nothing is active the tree has no root and raises no flags (03_arithmetic.md R97). -/
theorem redTree_inactive (k : Nat) {ys : List (Option Nat)} (inactive : ys.any Option.isSome = false) : redTree f k ys = (none, 0) := by
  induction k generalizing ys with
  | zero =>
    cases ys with
    | nil => rfl
    | cons y ys =>
      rw [List.any_cons, Bool.or_eq_false_iff, Option.isSome_eq_false_iff, Option.isNone_iff_eq_none] at inactive
      obtain ⟨rfl, -⟩ := inactive
      rfl
  | succ k ih =>
    have level := redLevel_any f ys
    rw [inactive] at level
    rw [redTree_succ, ih level, redLevel_flags f inactive]
    rfl

/-- A reduction with nothing active (07_lane.md R226). -/
theorem reduce_inactive (init : Nat) {xs : List Nat} {mask : List Bool}
    (inactive : ((xs.zip mask).map fun (x, b) => if b then some x else none).any Option.isSome = false) :
    reduce f init xs mask = (init, 0x40) := by
  simp only [reduce, redTree_inactive f _ inactive]
  rfl

end

/-! ### Integer sums -/

section
variable {f : Nat → Nat → Nat × Fl} {w : Nat} (adds : ∀ x y, f x y = ((x + y) % 2 ^ w, 0))

/-- The sum of what is there. -/
def presentSum (ys : List (Option Nat)) : Nat := (ys.map (·.getD 0)).sum

include adds

theorem redComb_sum (a b : Option Nat) :
    (redComb f a b).2 = 0 ∧ (redComb f a b).1.getD 0 ≡ a.getD 0 + b.getD 0 [MOD 2 ^ w] := by
  cases a with
  | none => exact ⟨by cases b <;> rfl, by cases b <;> simp [redComb, Nat.ModEq]⟩
  | some x =>
    cases b with
    | none => exact ⟨rfl, Nat.ModEq.rfl⟩
    | some y =>
      simp only [redComb, adds]
      exact ⟨trivial, Nat.mod_modEq ..⟩

/-- A level of the tree keeps the sum. -/
theorem redLevel_sum (ys : List (Option Nat)) : (redLevel f ys).2 = 0 ∧ presentSum (redLevel f ys).1 ≡ presentSum ys [MOD 2 ^ w] := by
  fun_induction redLevel f ys with
  | case1 a b rest y fl comb zs fl' level ih =>
    obtain ⟨noFlags, here⟩ := redComb_sum adds a b
    rw [comb] at noFlags here
    rw [level] at ih
    obtain ⟨noOthers, others⟩ := ih
    refine ⟨(congrArg₂ (· ||| ·) noFlags noOthers).trans rfl, ?_⟩
    simpa [presentSum, Nat.add_assoc] using here.add others
  | case2 | case3 => exact ⟨rfl, Nat.ModEq.rfl⟩

/-- The root of the tree over enough levels is the sum of its places (03_arithmetic.md R97). -/
theorem redTree_sum {k : Nat} {ys : List (Option Nat)} (levels : ys.length ≤ 2 ^ k) :
    (redTree f k ys).2 = 0 ∧ (redTree f k ys).1.isSome = ys.any Option.isSome ∧ (redTree f k ys).1.getD 0 ≡ presentSum ys [MOD 2 ^ w] := by
  induction k generalizing ys with
  | zero =>
    match ys, levels with
    | [], _ => exact ⟨rfl, rfl, Nat.ModEq.rfl⟩
    | [y], _ => simp [redTree, presentSum, Nat.ModEq]
  | succ k ih =>
    obtain ⟨noFlags, level⟩ := redLevel_sum adds ys
    have shorter : (redLevel f ys).1.length ≤ 2 ^ k := by
      rw [redLevel_length]
      rw [pow_succ] at levels
      omega
    obtain ⟨noOthers, root, total⟩ := ih shorter
    rw [redTree_succ]
    exact ⟨by rw [noFlags, noOthers]; rfl, root.trans (redLevel_any f ys), total.trans level⟩

end

theorem le_two_pow_treeLevels (n : Nat) : n ≤ 2 ^ treeLevels n := by
  unfold treeLevels
  by_cases single : n ≤ 1
  · rw [if_pos single]
    exact single
  · rw [if_neg single]
    have := Nat.lt_log2_self (n := n - 1)
    omega

/-- An integer sum with something active (07_lane.md R226). -/
theorem reduce_sum {f : Nat → Nat → Nat × Fl} {w : Nat} (adds : ∀ x y, f x y = ((x + y) % 2 ^ w, 0)) (init : Nat) {xs : List Nat}
    {mask : List Bool} {ys : List (Option Nat)} (places : ((xs.zip mask).map fun (x, b) => if b then some x else none) = ys)
    (active : ys.any Option.isSome = true) : reduce f init xs mask = ((init + presentSum ys) % 2 ^ w, 0) := by
  obtain ⟨noFlags, root, total⟩ := redTree_sum adds (le_two_pow_treeLevels ys.length)
  rw [active] at root
  simp only [reduce, places]
  cases tree : redTree f (treeLevels ys.length) ys with
  | mk r fl =>
    rw [tree] at noFlags root total
    obtain ⟨x, rfl⟩ := Option.isSome_iff_exists.1 root
    cases noFlags
    simp only [adds]
    exact Prod.ext (Nat.ModEq.rfl.add total) rfl

/-! ### Reductions -/

/-- The places of a reduction: the active elements (03_arithmetic.md R97). -/
def Hart.redPlaces (h : Hart) (w a m n : Nat) : List (Option Nat) := (List.range n).map fun k => if h.mbit m k then some (h.velem w a k) else none

theorem redPlaces_eq (h : Hart) (w a m n : Nat) :
    (((h.velems w a n).zip (h.mbits m n)).map fun (x, b) => if b then some x else none) = h.redPlaces w a m n := by
  rw [Hart.velems, Hart.mbits_eq, List.zip_map', List.map_map]
  rfl

theorem redPlaces_any (h : Hart) (w a m n : Nat) : (h.redPlaces w a m n).any Option.isSome = !(activeBits h m n).isEmpty := by
  rw [Bool.eq_iff_iff]
  simp [Hart.redPlaces, activeBits]

theorem redPlaces_sum (h : Hart) (w a m n : Nat) : presentSum (h.redPlaces w a m n) = ((activeBits h m n).map (h.velem w a)).sum := by
  unfold presentSum Hart.redPlaces activeBits
  rw [List.map_map]
  induction List.range n with
  | nil => rfl
  | cons k ks ih => cases active : h.mbit m k <;> simp [active, ih]

/-- A reduction as an entry of the VIQ. -/
theorem redForm_entry {i : Instr} {op : RedOp} {d a b : BitVec 5} {m : BitVec 7} (form : redForm i = some (op, d, a, b, m)) :
    InViq i [] ∧ (∀ h : Hart, h.draws i [] = none) ∧ ∀ (s : State) aux,
      runEntry (s.entryWith i [] aux) = laneRed (s.entryWith i [] aux) op d.toNat a.toNat b.toNat m.toNat := by
  cases i with
  | vredsum | vredmin | vredmax | vredand | vredor | vredxor =>
    cases form
    exact ⟨⟨fun _ => rfl, nofun, fun _ => rfl, fun _ _ => rfl⟩, fun _ => rfl, fun _ _ => rfl⟩
  | _ => cases form

/-- The result of a reduction (07_lane.md R226). -/
def Hart.reduced (h : Hart) (op : RedOp) (a b m n : Nat) : Nat × Fl :=
  reduce (redStep op (etTy h.et) (rmOf (etRm h.et))) (h.velem (etSew h.et) b 0) (h.velems (etSew h.et) a n) (h.mbits m n)

theorem Hart.inViq_reduced (h : Hart) (e : Entry) (r : Word) (op : RedOp) (a b m n : Nat) :
    (h.inViq e r).reduced op a b m n = h.reduced op a b m n := by
  rw [Hart.reduced, Hart.inViq_et, Hart.inViq_velem, Hart.inViq_velems, Hart.inViq_mbits, Hart.reduced]

/-- The effect of a reduction on the hart. -/
def Hart.laneRed (h : Hart) (e : Entry) (op : RedOp) (d a b m : Nat) : Hart :=
  let (r, fl) := reduce (redStep op (etTy e.et) (rmOf (etRm e.et))) (h.velem (etSew e.et) b 0) (h.velems (etSew e.et) a e.n) (h.mbits m e.n)
  (h.setVelems (etSew e.et) d (etGroup e.et) (withTail (etTp e.et) (etSew e.et) (etGroup e.et) [r])).flag fl

theorem Hart.laneRed_eq {h : Hart} {e : Entry} (op : RedOp) (d a b m : Nat) (et : e.et = h.et) :
    h.laneRed e op d a b m = (h.setVelems (etSew h.et) d (etGroup h.et) (withTail (etTp h.et) (etSew h.et) (etGroup h.et)
      ((List.range 1).map fun _ => (h.reduced op a b m e.n).1))).flag (h.reduced op a b m e.n).2 := by
  simp only [Hart.laneRed, et]
  rfl

/-- A group holds at least one element (07_lane.md R202). -/
theorem group_elements_pos (et : Word) : 0 < etGroup et * perReg (etSew et) := by
  have some_element : 0 < perReg (etSew et) := by
    have small : etSew et ≤ 64 := by unfold etSew tyWidth; split <;> decide
    exact Nat.div_pos (small.trans (by decide)) (tyWidth_pos _)
  exact Nat.mul_pos (Nat.two_pow_pos _) some_element

/-- Reductions whose checks are met. -/
theorem reductions : Claims.Reductions := by
  intro s i op d a b m form free h t0 w n step init accepted apart span
  obtain ⟨viq, undrawn, runs⟩ := redForm_entry form
  have runs := (runs s 0).trans (laneCross_eq (f := fun h => h.laneRed (s.entryWith i [] 0) op d.toNat a.toNat b.toNat m.toNat) [d, a, b]
    (entryWith_skipped ..) accepted apart (by rw [viq.lanes]; exact span))
  have same := (h.inViq (s.entryWith i [] 0) h.rng).laneRed_eq (e := s.entryWith i [] 0) op d.toNat a.toNat b.toNat m.toNat rfl
  rw [viq.lanes, Hart.inViq_reduced] at same
  have fits : d.toNat + etGroup h.et ≤ 32 := group_fits (apart.1 d (by simp))
  obtain ⟨t, done, past, written, flagged⟩ := (viq.undrawn free (undrawn _)).flaggedRow runs same fits
    (x := fun _ => some (h.reduced op a.toNat b.toNat m.toNat n).1) fun _ _ => rfl
  have first : t.hart.velem w d.toNat 0 = (h.reduced op a.toNat b.toNat m.toNat n).1 % 2 ^ w := written.1 0 (group_elements_pos _)
  refine ⟨t, (viq.issues s).trans done, past, ?_, flagged, fun inactive => ?_, fun integer sum active => ?_⟩
  · refine (congrArg (GroupIs h t.hart w d.toNat (etGroup h.et)) (funext fun k => ?_)).mp written
    cases k with
    | zero => rfl
    | succ k => cases tp : etTp h.et <;> simp [tailed, tp]
  · have result : h.reduced op a.toNat b.toNat m.toNat n = (init, 0x40) :=
      reduce_inactive _ _ (by rw [redPlaces_eq, redPlaces_any, inactive]; rfl)
    rw [result] at first flagged
    exact ⟨first.trans (Nat.mod_eq_of_lt (h.velem_lt ..)), flagged⟩
  · have result : h.reduced op a.toNat b.toNat m.toNat n = ((init + ((activeBits h m.toNat n).map (h.velem w a.toNat)).sum) % 2 ^ w, 0) := by
      rw [← redPlaces_sum]
      refine reduce_sum (fun x y => ?_) _ (redPlaces_eq ..) (by rw [redPlaces_any]; simpa using active)
      rw [sum, redStep, elemAdd, tyFmt_of_int integer]
      rfl
    rw [result] at first flagged
    exact ⟨flagged.trans BitVec.or_zero, first.trans (Nat.mod_mod ..)⟩

end Sys2Proof.Machine
end

section
/-!
PROOFS. The scans (07_lane.md R227; 03_arithmetic.md R98).
-/

namespace Sys2Proof.Machine

open Sys2Proof.Claims

/-! ### The running value -/

/-- One step of a scan: the running value and its flags. -/
def scanStep (f : Nat → Nat → Nat × Fl) (x : Nat → Nat) (acc : Nat × Fl) (k : Nat) : Nat × Fl := ((f acc.1 (x k)).1, acc.2 ||| (f acc.1 (x k)).2)

/-- The running value of a scan before element `k`, from `init`, over the elements that `b` says are active. -/
def scanAt (f : Nat → Nat → Nat × Fl) (x : Nat → Nat) (b : Nat → Bool) (init k : Nat) : Nat × Fl :=
  ((List.range k).filter b).foldl (scanStep f x) (init, 0)

theorem scanAt_succ (f : Nat → Nat → Nat × Fl) (x : Nat → Nat) (b : Nat → Bool) (init k : Nat) :
    scanAt f x b init (k + 1) = if b k then scanStep f x (scanAt f x b init k) k else scanAt f x b init k := by
  rw [scanAt, List.range_succ, List.filter_append, List.foldl_append]
  cases active : b k <;> simp [active, scanAt]

/-- A scan with one element more. -/
theorem scanList_append (f : Nat → Nat → Nat × Fl) (inclusive : Bool) (l : List (Nat × Bool)) (x : Nat) (b : Bool) (p : Nat) :
    scanList f inclusive p (l ++ [(x, b)]) =
      if b then ((scanList f inclusive p l).1 ++ [some (if inclusive then (f (scanList f inclusive p l).2.1 x).1 else (scanList f inclusive p l).2.1)],
        (f (scanList f inclusive p l).2.1 x).1, (scanList f inclusive p l).2.2 ||| (f (scanList f inclusive p l).2.1 x).2)
      else ((scanList f inclusive p l).1 ++ [none], (scanList f inclusive p l).2.1, (scanList f inclusive p l).2.2) := by
  induction l generalizing p with
  | nil => cases b <;> simp [scanList]
  | cons y ys ih =>
    obtain ⟨y, active⟩ := y
    cases active with
    | true =>
      simp only [List.cons_append, scanList, if_true, ih]
      cases b <;> simp [BitVec.or_assoc]
    | false =>
      simp only [List.cons_append, scanList, Bool.false_eq_true, if_false, ih]
      cases b <;> simp

/-- A scan, element by element (03_arithmetic.md R98). -/
theorem scanList_range (f : Nat → Nat → Nat × Fl) (inclusive : Bool) (x : Nat → Nat) (b : Nat → Bool) (init n : Nat) :
    scanList f inclusive init ((List.range n).map fun k => (x k, b k)) =
      ((List.range n).map fun k => if b k then some (scanAt f x b init (if inclusive then k + 1 else k)).1 else none,
        scanAt f x b init n) := by
  induction n with
  | zero => rfl
  | succ n ih =>
    rw [List.range_succ, List.map_append, List.map_append, List.map_singleton, List.map_singleton, scanList_append, ih, scanAt_succ]
    cases active : b n with
    | false => simp
    | true => cases inclusive <;> simp [scanAt_succ, active, scanStep]

/-! ### Two groups -/

theorem velem_of_vreg {h t : Hart} {w vn g k : Nat} (same : ∀ j, j < g → t.vreg (vn + j) = h.vreg (vn + j)) (inside : k < g * perReg w) :
    t.velem w vn k = h.velem w vn k := by
  unfold Hart.velem
  rw [same (k / perReg w) (Nat.div_lt_of_lt_mul (by rwa [Nat.mul_comm]))]

/-- A group apart from one that is written keeps its elements. -/
theorem velem_of_apart {h t : Hart} {w d b g k : Nat} {x : Nat → Option Nat} (written : GroupIs h t w d g x) (fits : b + g ≤ 32)
    (apart : overlaps d g b g = false) (inside : k < g * perReg w) : t.velem w b k = h.velem w b k := by
  refine velem_of_vreg (fun j below => (written.2 (b + j) (by omega) ?_).1) inside
  simp only [overlaps, Bool.and_eq_false_iff, decide_eq_false_iff_not, not_lt] at apart
  omega

/-! ### Scans -/

/-- The running value of a scan on a hart. -/
def Hart.scanAt (h : Hart) (a b m k : Nat) : Nat × Fl :=
  Machine.scanAt (redStep .sum (etTy h.et) (rmOf (etRm h.et))) (h.velem (etSew h.et) a) (h.mbit m) (h.velem (etSew h.et) b 0) k

/-- The row of a scan: an active element takes the running value, an inactive one follows MP. -/
def Hart.scanRow (h : Hart) (inclusive : Bool) (d a b m k : Nat) : Nat :=
  (if h.mbit m k then some (h.scanAt a b m (if inclusive then k + 1 else k)).1 else none).getD
    (if etMp h.et then 0 else h.velem (etSew h.et) d k)

theorem Hart.inViq_scanAt (h : Hart) (e : Entry) (r : Word) (a b m : Nat) : (h.inViq e r).scanAt a b m = h.scanAt a b m := by
  funext k
  rw [Hart.scanAt, Hart.inViq_et, Hart.inViq_velem, Hart.inViq_mbit, Hart.scanAt]

theorem Hart.inViq_scanRow (h : Hart) (e : Entry) (r : Word) (inclusive : Bool) (d a b m : Nat) :
    (h.inViq e r).scanRow inclusive d a b m = h.scanRow inclusive d a b m := by
  funext k
  rw [Hart.scanRow, Hart.inViq_et, Hart.inViq_velem, Hart.inViq_mbit, Hart.inViq_scanAt, Hart.scanRow]

/-- The effect of a scan on the hart. -/
def Hart.laneScan (h : Hart) (e : Entry) (inclusive : Bool) (d a b m : Nat) : Hart :=
  let (ys, p, fl) := scanList (redStep .sum (etTy e.et) (rmOf (etRm e.et))) inclusive (h.velem (etSew e.et) b 0)
    ((h.velems (etSew e.et) a e.n).zip (h.mbits m e.n))
  let out := ((h.velems (etSew e.et) d e.n).zip ys).map (fun (c, y) => y.getD (if etMp e.et then 0 else c))
  let u := h.setVelems (etSew e.et) d (etGroup e.et) (withTail (etTp e.et) (etSew e.et) (etGroup e.et) out)
  if (h.mbits m e.n).any id then (u.setVelems (etSew e.et) b (etGroup e.et) [p]).flag fl else u.flag flEMPTY

/-- The vector registers behind a scan. -/
def Hart.scanned (h : Hart) (inclusive : Bool) (d a b m n : Nat) : VFile :=
  let p := h.vfile.put (etSew h.et) d (etGroup h.et)
    (withTail (etTp h.et) (etSew h.et) (etGroup h.et) ((List.range n).map (h.scanRow inclusive d a b m)))
  if (activeBits h m n).isEmpty then p else p.put (etSew h.et) b (etGroup h.et) [(h.scanAt a b m n).1]

/-- The flags of a scan. -/
def Hart.scanFlags (h : Hart) (a b m n : Nat) : Fl := if (activeBits h m n).isEmpty then flEMPTY else (h.scanAt a b m n).2

theorem Hart.laneScan_eq {h : Hart} {e : Entry} (inclusive : Bool) (d a b m : Nat) (et : e.et = h.et) :
    h.laneScan e inclusive d a b m =
      h.laneResult (h.scanned inclusive d a b m e.n) h.mfile (h.vstat ||| h.scanFlags a b m e.n) h.srq h.bq := by
  have scan := scanList_range (redStep .sum (etTy h.et) (rmOf (etRm h.et))) inclusive (h.velem (etSew h.et) a) (h.mbit m)
    (h.velem (etSew h.et) b 0) e.n
  rw [← List.zip_map', ← Hart.mbits_eq, ← Hart.velems] at scan
  have out : ((h.velems (etSew h.et) d e.n).zip ((List.range e.n).map fun k => if h.mbit m k then
      some (h.scanAt a b m (if inclusive then k + 1 else k)).1 else none)).map (fun (c, y) => y.getD (if etMp h.et then 0 else c)) =
      (List.range e.n).map (h.scanRow inclusive d a b m) := by
    rw [Hart.velems, List.zip_map', List.map_map]
    rfl
  have any : (h.mbits m e.n).any id = !(activeBits h m e.n).isEmpty := by
    rw [Hart.mbits_eq, Bool.eq_iff_iff]
    simp [activeBits]
  have effect : h.laneScan e inclusive d a b m =
      if (activeBits h m e.n).isEmpty then (h.setVelems (etSew h.et) d (etGroup h.et)
        (withTail (etTp h.et) (etSew h.et) (etGroup h.et) ((List.range e.n).map (h.scanRow inclusive d a b m)))).flag flEMPTY
      else ((h.setVelems (etSew h.et) d (etGroup h.et)
        (withTail (etTp h.et) (etSew h.et) (etGroup h.et) ((List.range e.n).map (h.scanRow inclusive d a b m)))).setVelems (etSew h.et) b
          (etGroup h.et) [(h.scanAt a b m e.n).1]).flag (h.scanAt a b m e.n).2 := by
    rw [← out, Hart.laneScan, et, scan, any]
    cases (activeBits h m e.n).isEmpty <;> rfl
  rw [effect, Hart.scanned, Hart.scanFlags]
  cases (activeBits h m e.n).isEmpty with
  | true => exact Hart.setVelems_flag ..
  | false =>
    have second (p : VFile) (xs : List Nat) (fl : Fl) : ((h.withVfile p).setVelems (etSew h.et) b (etGroup h.et) xs).flag fl =
        h.laneResult (p.put (etSew h.et) b (etGroup h.et) xs) h.mfile (h.vstat ||| fl) h.srq h.bq := Hart.setVelems_flag ..
    exact (congrArg (fun u : Hart => (u.setVelems (etSew h.et) b (etGroup h.et) [(h.scanAt a b m e.n).1]).flag (h.scanAt a b m e.n).2)
      (h.setVelems_eq ..)).trans (second ..)

theorem inViq_activeBits (h : Hart) (e : Entry) (r : Word) (m n : Nat) : activeBits (h.inViq e r) m n = activeBits h m n := by
  rw [activeBits, Hart.inViq_mbit, activeBits]

theorem Hart.inViq_scanned (h : Hart) (e : Entry) (r : Word) (inclusive : Bool) (d a b m n : Nat) :
    (h.inViq e r).scanned inclusive d a b m n = h.scanned inclusive d a b m n := by
  simp only [Hart.scanned, Hart.inViq_scanRow, Hart.inViq_scanAt, Hart.inViq_et, Hart.inViq_vfile, inViq_activeBits]

theorem Hart.inViq_scanFlags (h : Hart) (e : Entry) (r : Word) (a b m n : Nat) : (h.inViq e r).scanFlags a b m n = h.scanFlags a b m n := by
  simp only [Hart.scanFlags, Hart.inViq_scanAt, inViq_activeBits]

/-- A scan with nothing active runs on from its first value. -/
theorem scanAt_inactive {h : Hart} {m n : Nat} (a b : Nat) (inactive : activeBits h m n = []) :
    h.scanAt a b m n = (h.velem (etSew h.et) b 0, 0) := by
  rw [Hart.scanAt, Machine.scanAt, show (List.range n).filter (h.mbit m) = [] from inactive]
  rfl

theorem scanFlags_eq (h : Hart) (a b m n : Nat) :
    h.scanFlags a b m n = (h.scanAt a b m n).2 ||| (if activeBits h m n = [] then 0x40 else 0) := by
  rw [Hart.scanFlags]
  by_cases inactive : activeBits h m n = []
  · rw [scanAt_inactive a b inactive, if_pos inactive, if_pos (List.isEmpty_iff.2 inactive)]
    exact BitVec.zero_or.symm
  · rw [if_neg inactive, if_neg (mt List.isEmpty_iff.1 inactive)]
    exact BitVec.or_zero.symm

/-- The two groups that a scan writes: vd, and then vb with its carry-out (03_arithmetic.md R98). -/
theorem scan_groups {h t : Hart} {inclusive : Bool} {d a b m n : Nat} (written : t.vfile = h.scanned inclusive d a b m n)
    (dFits : d + etGroup h.et ≤ 32) (bFits : b + etGroup h.et ≤ 32) (apart : overlaps d (etGroup h.et) b (etGroup h.et) = false) :
    ∃ u, GroupIs h u (etSew h.et) d (etGroup h.et) (tailed (etTp h.et) n 0 fun k =>
        if h.mbit m k then some (h.scanAt a b m (if inclusive then k + 1 else k)).1 else if etMp h.et then some 0 else none) ∧
      GroupIs u t (etSew h.et) b (etGroup h.et) fun k => if k = 0 then some (h.scanAt a b m n).1 else none := by
  have row (k : Nat) : h.scanRow inclusive d a b m k % 2 ^ etSew h.et = (if h.mbit m k then
      some (h.scanAt a b m (if inclusive then k + 1 else k)).1 else if etMp h.et then some 0 else none).elim
        (h.velem (etSew h.et) d k) (· % 2 ^ etSew h.et) := by
    rw [Hart.scanRow]
    cases h.mbit m k with
    | true => rfl
    | false =>
      cases etMp h.et with
      | true => rfl
      | false => exact Nat.mod_eq_of_lt (h.velem_lt ..)
  have first : GroupIs h (h.withVfile (h.vfile.put (etSew h.et) d (etGroup h.et)
      (withTail (etTp h.et) (etSew h.et) (etGroup h.et) ((List.range n).map (h.scanRow inclusive d a b m))))) (etSew h.et) d (etGroup h.et)
      (tailed (etTp h.et) n 0 fun k =>
        if h.mbit m k then some (h.scanAt a b m (if inclusive then k + 1 else k)).1 else if etMp h.et then some 0 else none) :=
    groupIs_tailed rfl dFits fun k _ => row k
  refine ⟨_, first, ?_⟩
  by_cases inactive : activeBits h m n = []
  · simp only [Hart.scanned, inactive, List.isEmpty_nil, if_true] at written
    have same (w v k : Nat) : t.velem w v k = (h.withVfile t.vfile).velem w v k := rfl
    rw [← written] at first ⊢
    refine ⟨fun k inside => ?_, fun _ _ _ => ⟨rfl, rfl⟩⟩
    cases k with
    | zero =>
      rw [same, velem_of_apart first bFits apart inside, scanAt_inactive a b inactive]
      exact (Nat.mod_eq_of_lt (h.velem_lt ..)).symm
    | succ k => exact same ..
  · simp only [Hart.scanned, List.isEmpty_iff, inactive, if_false] at written
    refine groupIs_of_put written bFits fun k _ => ?_
    cases k <;> rfl

/-- A scan as an entry of the VIQ. -/
theorem scan_entry (inclusive : Bool) (d a b : BitVec 5) (m : BitVec 7) {i : Instr}
    (form : i = if inclusive then .vscan d a b m else .vscanx d a b m) :
    InViq i [] ∧ (∀ h : Hart, h.draws i [] = none) ∧ ∀ (s : State) aux,
      runEntry (s.entryWith i [] aux) = laneScan (s.entryWith i [] aux) inclusive d.toNat a.toNat b.toNat m.toNat := by
  subst form
  cases inclusive with
  | true => exact ⟨⟨fun _ => rfl, nofun, fun _ => rfl, fun _ _ => rfl⟩, fun _ => rfl, fun _ _ => rfl⟩
  | false => exact ⟨⟨fun _ => rfl, nofun, fun _ => rfl, fun _ _ => rfl⟩, fun _ => rfl, fun _ _ => rfl⟩

/-- Scans whose checks are met. -/
theorem scans : Claims.Scans := by
  intro s inclusive d a b m i h t0 w n g p free types apart span
  obtain ⟨viq, undrawn, runs⟩ := scan_entry inclusive d a b m (i := i) rfl
  have runs := (runs s 0).trans (laneCross_eq (f := fun h => h.laneScan (s.entryWith i [] 0) inclusive d.toNat a.toNat b.toNat m.toNat) [d, a, b]
    (entryWith_skipped ..) (Bool.or_eq_true_iff.2 types) apart (by rw [viq.lanes]; exact span))
  have same := (h.inViq (s.entryWith i [] 0) h.rng).laneScan_eq (e := s.entryWith i [] 0) inclusive d.toNat a.toNat b.toNat m.toNat rfl
  rw [viq.lanes, Hart.inViq_scanned, Hart.inViq_scanFlags, Hart.inViq_vstat] at same
  obtain ⟨t, done, past, written, flagged⟩ := (viq.undrawn free (undrawn _)).vectors runs same
  have dFits : d.toNat + g ≤ 32 := group_fits (apart.1 d (by simp))
  have bFits : b.toNat + g ≤ 32 := group_fits (apart.1 b (by simp))
  have disjoint : overlaps d.toNat g b.toNat g = false := by
    refine overlaps_multiples (apart.1 d (by simp)) (apart.1 b (by simp)) fun same => ?_
    have distinct := apart.2
    rw [BitVec.toNat_inj] at same
    simp [same] at distinct
  obtain ⟨u, first, second⟩ := scan_groups written dFits bFits disjoint
  refine ⟨t, (viq.issues s).trans done, past, fun k inside => ?_, ?_, fun k positive inside => ?_, fun r below outD outB => ?_, ?_⟩
  · exact (velem_of_apart second dFits ((Bool.and_comm ..).trans disjoint) inside).trans (first.1 k inside)
  · exact second.1 0 (group_elements_pos _)
  · obtain ⟨k, rfl⟩ := Nat.exists_eq_succ_of_ne_zero positive.ne'
    exact (second.1 _ inside).trans (velem_of_apart first bFits disjoint inside)
  · exact (second.2 r below outB).1.trans (first.2 r below outD).1
  · rw [flagged, scanFlags_eq, ← BitVec.or_assoc]
    rfl

/-- Settles O30, by the tree over the active elements and the running value before each element. -/
theorem reductionsAndScans : Obligations.ReductionsAndScans := ⟨reductions, scans⟩

end Sys2Proof.Machine
end

section
/-!
PROOFS. Slides and permutes, `vcompress` and `vexpand` (07_lane.md R228, R229).
-/

namespace Sys2Proof.Machine

open Sys2Proof.Claims

/-! ### Rows of moved elements -/

theorem velems_getD (h : Hart) {w a n j : Nat} (below : j < n) : ((h.velems w a n)[j]?).getD 0 = h.velem w a j := by
  simp [Hart.velems, below]

theorem mbits_getD (h : Hart) {m n j : Nat} (below : j < n) : ((h.mbits m n)[j]?).getD false = h.mbit m j := by
  simp [Hart.mbits_eq, below]

/-- A masked row, element by element. -/
theorem maskedRow_range (mp : Bool) (n : Nat) (c : Nat → Nat) (b : Nat → Bool) (f : Nat → Option Nat) :
    maskedRow mp ((List.range n).map c) ((List.range n).map b) f =
      (List.range n).map fun k => if b k then (f k).getD (c k) else if mp then 0 else c k := by
  unfold maskedRow
  rw [List.zip_map']
  apply List.ext_getElem <;> simp

/-- An element of a masked row, as the group then holds it. -/
theorem maskedElem_mod (h : Hart) {w d k : Nat} {mp b : Bool} {x y : Option Nat} (same : x.map (· % 2 ^ w) = y.map (· % 2 ^ w)) :
    (if b then x.getD (h.velem w d k) else if mp then 0 else h.velem w d k) % 2 ^ w =
      (if b then y else if mp then some 0 else none).elim (h.velem w d k) (· % 2 ^ w) := by
  have old : h.velem w d k % 2 ^ w = h.velem w d k := Nat.mod_eq_of_lt (h.velem_lt ..)
  cases b with
  | false => cases mp with
    | true => rfl
    | false => exact old
  | true => cases x <;> cases y <;> simp_all

/-- The hart with a masked row of moved elements written. -/
def Hart.moved (h : Hart) (e : Entry) (d m : Nat) (f : Nat → Option Nat) : Hart :=
  h.setVelems (etSew e.et) d (etGroup e.et) (withTail (etTp e.et) (etSew e.et) (etGroup e.et)
    (maskedRow (etMp e.et) (h.velems (etSew e.et) d e.n) (h.mbits m e.n) f))

theorem Hart.moved_eq {h : Hart} {e : Entry} (d m : Nat) (f : Nat → Option Nat) (et : e.et = h.et) :
    h.moved e d m f = h.setVelems (etSew h.et) d (etGroup h.et) (withTail (etTp h.et) (etSew h.et) (etGroup h.et)
      ((List.range e.n).map fun k => if h.mbit m k then (f k).getD (h.velem (etSew h.et) d k) else if etMp h.et then 0
        else h.velem (etSew h.et) d k)) := by
  rw [Hart.moved, et, Hart.velems, Hart.mbits_eq, maskedRow_range]

/-! ### Slides and permutes -/

/-- A slide or permute as an entry of the VIQ: its operands, the check of its own, and what it computes of a hart. -/
structure MoveEntry (s : State) (i : Instr) (d : BitVec 5) (rs : List (BitVec 5)) (m : BitVec 7) (f : Nat → Option Nat) (ops : List (BitVec 6))
    (ok : Bool) (x : Hart → Nat → Option Nat) : Prop where
  /-- It goes into the VIQ. -/
  viq : InViq i ops
  /-- It draws nothing. -/
  undrawn : s.hart.draws i (ops.map s.hart.sreg) = none
  /-- What its entry does. -/
  runs : runEntry (s.entryWith i ops 0) =
    laneCross (s.entryWith i ops 0) ok ((d :: rs).map BitVec.toNat) m.toNat fun h => h.moved (s.entryWith i ops 0) d.toNat m.toNat (x h)
  /-- Its own check is met. -/
  legal : ok = true
  /-- The elements it moves. -/
  places : ∀ k, k < lanes s.hart → (x s.hart k).map (· % 2 ^ etSew s.hart.et) = (f k).map (· % 2 ^ etSew s.hart.et)
  /-- The hart behind the entry has the same elements. -/
  same : ∀ e r, x (s.hart.inViq e r) = x s.hart

theorem exists_slideEntry {s : State} {i : Instr} {d a : BitVec 5} {b : BitVec 6} {m : BitVec 7} (op : SlideOp) {f : Nat → Option Nat}
    (viq : InViq i [b]) (undrawn : s.hart.draws i [s.hart.sreg b] = none) (runs : runEntry (s.entryWith i [b] 0) =
      laneSlide (s.entryWith i [b] 0) op d.toNat a.toNat m.toNat (s.entryWith i [b] 0).op0)
    (places : ∀ k, k < lanes s.hart →
      (slideElem op (s.hart.velems (etSew s.hart.et) a.toNat (lanes s.hart)) (lanes s.hart) (s.hart.sreg b) (etSew s.hart.et) k).map
        (· % 2 ^ etSew s.hart.et) = (f k).map (· % 2 ^ etSew s.hart.et)) :
    ∃ ops ok x, MoveEntry s i d [a] m f ops ok x :=
  ⟨[b], true, fun h => slideElem op (h.velems (etSew s.hart.et) a.toNat (s.entryWith i [b] 0).n) (s.entryWith i [b] 0).n (s.hart.sreg b)
    (etSew s.hart.et), viq, undrawn, runs, rfl, by rw [viq.lanes]; exact places, fun e r => by rw [Hart.inViq_velems]⟩

theorem exists_permEntry {s : State} {i : Instr} {d a b : BitVec 5} {rs : List (BitVec 5)} {m : BitVec 7} (op : PermOp) {f : Nat → Option Nat}
    (viq : InViq i []) (undrawn : s.hart.draws i [] = none)
    (runs : runEntry (s.entryWith i [] 0) = lanePerm (s.entryWith i [] 0) op d.toNat a.toNat b.toNat m.toNat)
    (groups : (if op = .perm ∨ op = .zip then [d.toNat, a.toNat, b.toNat] else [d.toNat, a.toNat]) = (d :: rs).map BitVec.toNat)
    (legal : op = .conflict → lanes s.hart ≤ 2 ^ etSew s.hart.et)
    (places : ∀ k, k < lanes s.hart → some (permElem op (s.hart.velems (etSew s.hart.et) a.toNat (lanes s.hart))
      (s.hart.velems (etSew s.hart.et) b.toNat (lanes s.hart)) (s.hart.mbits m.toNat (lanes s.hart)) (lanes s.hart) k) = f k) :
    ∃ ops ok x, MoveEntry s i d rs m f ops ok x := by
  refine ⟨[], _, fun h i => some (permElem op (h.velems (etSew s.hart.et) a.toNat (s.entryWith _ [] 0).n)
    (h.velems (etSew s.hart.et) b.toNat (s.entryWith _ [] 0).n) (h.mbits m.toNat (s.entryWith _ [] 0).n) (s.entryWith _ [] 0).n i), viq, undrawn,
    runs.trans (by rw [← groups]; rfl), ?_, fun k below => ?_, fun e r => ?_⟩
  · rw [viq.lanes]
    by_cases conflict : op = .conflict
    · rw [if_pos conflict]
      exact decide_eq_true (legal conflict)
    · rw [if_neg conflict]
  · rw [viq.lanes, places k below]
  · rw [Hart.inViq_velems, Hart.inViq_mbits]

theorem exists_moveEntry {s : State} {i : Instr} {d : BitVec 5} {rs : List (BitVec 5)} {m : BitVec 7} {f : Nat → Option Nat}
    (form : moveForm s.hart i = some (d, rs, m, f)) (fits : (∃ d a k, i = .vconflict d a k) → lanes s.hart ≤ 2 ^ etSew s.hart.et) :
    ∃ ops ok x, MoveEntry s i d rs m f ops ok x := by
  cases i with
  | vslideup d a b m =>
    cases form
    refine exists_slideEntry .up ⟨fun _ => rfl, nofun, fun _ => rfl, fun _ _ => rfl⟩ rfl rfl fun k below => ?_
    simp only [slideElem]
    rw [velems_getD _ (by omega)]
  | vslidedn d a b m =>
    cases form
    refine exists_slideEntry .down ⟨fun _ => rfl, nofun, fun _ => rfl, fun _ _ => rfl⟩ rfl rfl fun k below => ?_
    simp only [slideElem]
    by_cases inside : k + (s.hart.sreg b).toNat < lanes s.hart
    · rw [if_pos inside, if_pos (by omega), velems_getD _ inside]
    · rw [if_neg inside, if_neg (by omega)]
  | vslide1up d a b m =>
    cases form
    refine exists_slideEntry .up1 ⟨fun _ => rfl, nofun, fun _ => rfl, fun _ _ => rfl⟩ rfl rfl fun k below => ?_
    simp only [slideElem]
    rw [velems_getD _ (by omega)]
    split <;> simp
  | vslide1dn d a b m =>
    cases form
    refine exists_slideEntry .down1 ⟨fun _ => rfl, nofun, fun _ => rfl, fun _ _ => rfl⟩ rfl rfl fun k below => ?_
    simp only [slideElem]
    by_cases last : k + 1 = lanes s.hart
    · simp [last]
    · rw [if_neg last, if_neg last, velems_getD _ (by omega)]
  | vperm d a b m =>
    cases form
    refine exists_permEntry .perm ⟨fun _ => rfl, nofun, fun _ => rfl, fun _ _ => rfl⟩ rfl rfl rfl nofun fun k below => ?_
    simp only [permElem, velems_getD _ below]
    by_cases inside : s.hart.velem (etSew s.hart.et) b.toNat k < lanes s.hart
    · rw [if_pos inside, if_pos inside, velems_getD _ inside]
    · rw [if_neg inside, if_neg inside]
  | vrev d a m =>
    cases form
    refine exists_permEntry (b := a) .rev ⟨fun _ => rfl, nofun, fun _ => rfl, fun _ _ => rfl⟩ rfl rfl rfl nofun fun k below => ?_
    exact congrArg some (velems_getD _ (by omega))
  | vzip d a b m =>
    cases form
    refine exists_permEntry .zip ⟨fun _ => rfl, nofun, fun _ => rfl, fun _ _ => rfl⟩ rfl rfl rfl nofun fun k below => ?_
    simp only [permElem]
    rw [velems_getD _ (by omega), velems_getD _ (by omega)]
    split <;> rfl
  | vunzip d a m =>
    cases form
    refine exists_permEntry (b := a) .unzip ⟨fun _ => rfl, nofun, fun _ => rfl, fun _ _ => rfl⟩ rfl rfl rfl nofun fun k below => ?_
    simp only [permElem]
    by_cases even : k < (lanes s.hart + 1) / 2
    · rw [if_pos even, if_pos even, velems_getD _ (by omega)]
    · rw [if_neg even, if_neg even, velems_getD _ (by omega)]
  | vconflict d a m =>
    cases form
    refine exists_permEntry (b := a) .conflict ⟨fun _ => rfl, nofun, fun _ => rfl, fun _ _ => rfl⟩ rfl rfl rfl (fun _ => fits ⟨d, a, m, rfl⟩)
      fun k below => congrArg some ?_
    simp only [permElem, conflictOf]
    refine congrArg (fun l : List Nat => l.getLast?.getD k) (List.filter_congr fun j earlier => ?_)
    have before := (List.mem_range.1 earlier).trans below
    rw [mbits_getD _ before, velems_getD _ before, velems_getD _ below]
  | _ => cases form

/-- Slides and permutes whose checks are met. -/
theorem slidesAndPermutes : Claims.SlidesAndPermutes := by
  intro s i d rs m f form free apart span fits
  obtain ⟨ops, ok, x, viq, undrawn, runs, legal, places, unmoved⟩ := exists_moveEntry form fits
  have runs := runs.trans (laneCross_eq _ (entryWith_skipped ..) legal apart (by rw [viq.lanes]; exact span))
  have same := (s.hart.inViq (s.entryWith i ops 0) s.hart.rng).moved_eq (e := s.entryWith i ops 0) d.toNat m.toNat
    (x (s.hart.inViq (s.entryWith i ops 0) s.hart.rng)) rfl
  rw [viq.lanes, unmoved, Hart.inViq_velem, Hart.inViq_mbit] at same
  rw [viq.issues]
  exact (viq.undrawn free undrawn).row runs ((congrArg _ (unmoved ..)).trans same) (group_fits (apart.1 d (by simp)))
    fun k below => maskedElem_mod s.hart (places k below)

/-! ### vcompress -/

/-- The elements that `vcompress` moves are the active ones in order (07_lane.md R229). -/
theorem compressList_eq (h : Hart) (w a m n : Nat) : compressList (h.velems w a n) (h.mbits m n) = (activeBits h m n).map (h.velem w a) := by
  rw [compressList, Hart.velems, Hart.mbits_eq, List.zip_map', List.filterMap_map, activeBits]
  induction List.range n with
  | nil => rfl
  | cons k ks ih => cases active : h.mbit m k <;> simp_all

theorem VFile.put_nil (p : VFile) (w vn g : Nat) : p.put w vn g [] = p := by
  induction g with
  | zero => rfl
  | succ g ih =>
    rw [VFile.put_succ, ih, VFile.putPart, if_pos]
    simp [groupPart]

/-- What `vcompress` writes: the active elements, and zeros behind them under TP where vl is not 0. -/
def Hart.compressed (h : Hart) (a m n : Nat) : List Nat :=
  let xs := (activeBits h m n).map (h.velem (etSew h.et) a)
  if etTp h.et = true ∧ 0 < n then xs ++ List.replicate (etGroup h.et * perReg (etSew h.et) - xs.length) 0 else xs

/-- The effect of `vcompress` on the hart. -/
def Hart.laneCompress (h : Hart) (e : Entry) (d a m : Nat) : Hart :=
  let xs := compressList (h.velems (etSew e.et) a e.n) (h.mbits m e.n)
  if e.n = 0 then h
  else h.setVelems (etSew e.et) d (etGroup e.et)
    (if etTp e.et then xs ++ List.replicate (etGroup e.et * perReg (etSew e.et) - xs.length) 0 else xs)

theorem Hart.laneCompress_eq {h : Hart} {e : Entry} (d a m : Nat) (et : e.et = h.et) :
    h.laneCompress e d a m =
      h.laneResult (h.vfile.put (etSew h.et) d (etGroup h.et) (h.compressed a m e.n)) h.mfile h.vstat h.srq h.bq := by
  rw [Hart.laneCompress, compressList_eq, et, Hart.compressed]
  by_cases empty : e.n = 0
  · simp only [empty, if_true, activeBits, List.range_zero, List.filter_nil, List.map_nil, lt_irrefl, and_false, if_false, VFile.put_nil]
    rfl
  · have some_lanes : 0 < e.n := Nat.pos_of_ne_zero empty
    simp only [empty, if_false, some_lanes, and_true]
    exact Hart.setVelems_laneResult ..

theorem Hart.inViq_compressed (h : Hart) (e : Entry) (r : Word) (a m n : Nat) : (h.inViq e r).compressed a m n = h.compressed a m n := by
  simp only [Hart.compressed, inViq_activeBits, Hart.inViq_velem, Hart.inViq_et]

/-- Place `k` of what `vcompress` writes. -/
theorem Hart.compressed_getElem? (h : Hart) (a m n : Nat) {k : Nat} (inside : k < etGroup h.et * perReg (etSew h.et)) :
    (h.compressed a m n)[k]? = match (activeBits h m n)[k]? with
      | some j => some (h.velem (etSew h.et) a j)
      | none => if etTp h.et = true ∧ 0 < n then some 0 else none := by
  rw [Hart.compressed]
  cases place : (activeBits h m n)[k]? with
  | some j =>
    obtain ⟨below, -⟩ := List.getElem?_eq_some_iff.1 place
    have row : ((activeBits h m n).map (h.velem (etSew h.et) a))[k]? = some (h.velem (etSew h.et) a j) := by
      rw [List.getElem?_map, place]
      rfl
    split
    · rw [List.getElem?_append_left (by rwa [List.length_map]), row]
    · exact row
  | none =>
    have beyond : ((activeBits h m n).map (h.velem (etSew h.et) a)).length ≤ k := by
      rw [List.length_map]
      exact List.getElem?_eq_none_iff.1 place
    split
    · rw [List.getElem?_append_right beyond, List.getElem?_replicate, if_pos (by omega)]
    · exact List.getElem?_eq_none_iff.2 beyond

/-! ### vexpand -/

/-- Place `k` of what `vexpand` writes: an active one takes the next of the elements (07_lane.md R229). -/
theorem expandList_getElem? (mp : Bool) (xs : List Nat) (ps : List (Nat × Bool)) (k : Nat) :
    (expandList mp xs ps)[k]? = (ps[k]?).map fun (c, b) => if b then (xs[((ps.take k).filter (·.2)).length]?).getD 0 else if mp then 0 else c := by
  induction ps generalizing xs k with
  | nil => simp [expandList]
  | cons p ps ih =>
    obtain ⟨c, b⟩ := p
    cases k with
    | zero => cases b <;> simp [expandList, List.head?_eq_getElem?]
    | succ k => cases b <;> simp [expandList, ih, Nat.add_comm]

theorem expandList_eq (h : Hart) (mp : Bool) (w d a m n : Nat) :
    expandList mp (h.velems w a n) ((h.velems w d n).zip (h.mbits m n)) =
      (List.range n).map fun k => if h.mbit m k then h.velem w a (activeBits h m k).length else if mp then 0 else h.velem w d k := by
  apply List.ext_getElem?
  intro k
  rw [expandList_getElem?, show h.velems w d n = (List.range n).map (h.velem w d) from rfl, Hart.mbits_eq, List.zip_map', List.getElem?_map,
    List.getElem?_map]
  by_cases below : k < n
  · have consumed : ((((List.range n).map fun k => (h.velem w d k, h.mbit m k)).take k).filter (·.2)).length = (activeBits h m k).length := by
      rw [← List.map_take, List.take_range, min_eq_left below.le, List.filter_map, List.length_map]
      rfl
    have inside : (activeBits h m k).length < n := by
      have := List.length_filter_le (h.mbit m) (List.range k)
      rw [List.length_range] at this
      exact this.trans_lt below
    rw [consumed, velems_getD _ inside, List.getElem?_range below]
    rfl
  · have beyond : (List.range n)[k]? = none := List.getElem?_eq_none_iff.2 (by rw [List.length_range]; omega)
    rw [beyond]
    rfl

/-- The effect of `vexpand` on the hart. -/
def Hart.laneExpand (h : Hart) (e : Entry) (d a m : Nat) : Hart :=
  h.setVelems (etSew e.et) d (etGroup e.et) (withTail (etTp e.et) (etSew e.et) (etGroup e.et)
    (expandList (etMp e.et) (h.velems (etSew e.et) a e.n) ((h.velems (etSew e.et) d e.n).zip (h.mbits m e.n))))

/-- Element `k` that `vexpand` writes. -/
def Hart.expanded (h : Hart) (d a m k : Nat) : Nat :=
  if h.mbit m k then h.velem (etSew h.et) a (activeBits h m k).length else if etMp h.et then 0 else h.velem (etSew h.et) d k

theorem Hart.inViq_expanded (h : Hart) (e : Entry) (r : Word) (d a m : Nat) : (h.inViq e r).expanded d a m = h.expanded d a m := by
  funext k
  rw [Hart.expanded, inViq_activeBits, Hart.inViq_et, Hart.inViq_velem, Hart.inViq_mbit, Hart.expanded]

theorem Hart.laneExpand_eq {h : Hart} {e : Entry} (d a m : Nat) (et : e.et = h.et) :
    h.laneExpand e d a m = h.setVelems (etSew h.et) d (etGroup h.et)
      (withTail (etTp h.et) (etSew h.et) (etGroup h.et) ((List.range e.n).map (h.expanded d a m))) := by
  rw [Hart.laneExpand, et, expandList_eq]
  rfl

/-- `vcompress` and `vexpand` whose checks are met. -/
theorem compressAndExpand : Claims.CompressAndExpand := by
  constructor
  · intro s d a m free apart span h w act
    have viq : InViq (.vcompress d a m) [] := ⟨fun _ => rfl, nofun, fun _ => rfl, fun _ _ => rfl⟩
    have runs : runEntry (s.entryWith (.vcompress d a m) [] 0) =
        laneCompress (s.entryWith (.vcompress d a m) [] 0) d.toNat a.toNat m.toNat := rfl
    have runs := runs.trans (laneCross_eq (f := fun h => h.laneCompress (s.entryWith (.vcompress d a m) [] 0) d.toNat a.toNat m.toNat) [d, a]
      (entryWith_skipped ..) rfl apart (by rw [viq.lanes]; exact span))
    have same := (h.inViq (s.entryWith (.vcompress d a m) [] 0) h.rng).laneCompress_eq (e := s.entryWith (.vcompress d a m) [] 0)
      d.toNat a.toNat m.toNat rfl
    rw [viq.lanes, Hart.inViq_compressed, Hart.inViq_vstat] at same
    obtain ⟨t, done, past, written, stat⟩ := (viq.undrawn free rfl).vectors runs same
    rw [stat] at past
    exact ⟨t, (viq.issues s).trans done, past, groupIs_of_put written (group_fits (apart.1 d (by simp))) fun k inside =>
      congrArg (fun x : Option Nat => x.elim (h.velem w d.toNat k) (· % 2 ^ w)) (h.compressed_getElem? a.toNat m.toNat (lanes h) inside)⟩
  · intro s d a m free apart span h w
    have viq : InViq (.vexpand d a m) [] := ⟨fun _ => rfl, nofun, fun _ => rfl, fun _ _ => rfl⟩
    have runs : runEntry (s.entryWith (.vexpand d a m) [] 0) =
        laneExpand (s.entryWith (.vexpand d a m) [] 0) d.toNat a.toNat m.toNat := rfl
    have runs := runs.trans (laneCross_eq (f := fun h => h.laneExpand (s.entryWith (.vexpand d a m) [] 0) d.toNat a.toNat m.toNat) [d, a]
      (entryWith_skipped ..) rfl apart (by rw [viq.lanes]; exact span))
    have same := (h.inViq (s.entryWith (.vexpand d a m) [] 0) h.rng).laneExpand_eq (e := s.entryWith (.vexpand d a m) [] 0)
      d.toNat a.toNat m.toNat rfl
    rw [viq.lanes, Hart.inViq_expanded] at same
    rw [viq.issues]
    exact (viq.undrawn free rfl).row runs same (group_fits (apart.1 d (by simp)))
      fun k _ => maskedElem_mod h (x := some _) (y := some _) rfl

/-- Settles O31, by the row of the elements moved, and by counting the active places before each. -/
theorem permutes : Obligations.Permutes := ⟨slidesAndPermutes, compressAndExpand⟩

end Sys2Proof.Machine
end

section
/-!
PROOFS. `setvl` (07_lane.md R204): what it takes back first (09_chain.md R271), the grant (01_engines.md R24, R27), and VL.
-/

namespace Sys2Proof.Machine

open Sys2Proof.Claims

/-! ### Taking back what the core has lent -/

/-- One chain in the order in which lent stalls are taken back (01_engines.md R29; log 50). -/
def State.takeBackAt (s : State) (i : Fin 64) : State :=
  if s.harts[i].chain.lent.any (fun x => x.1 == s.hart.core && (s.ownedStalls s.hart.scopePart s.hart.core).getLsbD x.2) &&
      decide ((heldStalls s.hart.grant).length + (s.freeStalls s.hart).length < min s.hart.target.toNat s.hart.minStalls) then
    { s with harts := s.harts.set i (s.harts[i].breakChain 3 0) }
  else s

theorem State.takeBack_eq (s : State) : s.takeBack = (List.finRange 64).foldl State.takeBackAt s := rfl

/-- With its MIN or its target met nothing is taken back. -/
theorem State.takeBack_of_enough {s : State}
    (enough : min s.hart.target.toNat s.hart.minStalls ≤ (heldStalls s.hart.grant).length + (s.freeStalls s.hart).length) : s.takeBack = s := by
  rw [State.takeBack_eq]
  refine List.foldl_fixed' (fun i => ?_) _
  rw [State.takeBackAt, decide_eq_false (not_lt.2 enough), Bool.and_false, if_neg Bool.false_ne_true]

/-- A hart of which the core `core` has taken back what it lent to its chain, or not. -/
def Hart.TakenBack (core : Nat) (h k : Hart) : Prop := k = h ∨ ((∃ x ∈ h.chain.lent, x.1 = core) ∧ k = h.breakChain 3 0)

theorem Hart.TakenBack.core {core : Nat} {h k : Hart} (taken : h.TakenBack core k) : k.core = h.core := by
  obtain rfl | ⟨-, rfl⟩ := taken
  · rfl
  · rw [Hart.breakChain_only]
    rfl

theorem Hart.TakenBack.target {core : Nat} {h k : Hart} (taken : h.TakenBack core k) : k.target = h.target := by
  obtain rfl | ⟨-, rfl⟩ := taken
  · rfl
  · rw [Hart.breakChain_only]

/-- One chain: the others stay, and the package but its harts. -/
theorem State.takeBackAt_harts (s : State) (i : Fin 64) :
    (∃ k, s.takeBackAt i = { s with harts := s.harts.set i k } ∧ s.harts[i].TakenBack s.hart.core k) := by
  unfold State.takeBackAt
  split
  · next taken =>
    rw [Bool.and_eq_true, List.any_eq_true] at taken
    obtain ⟨⟨x, lent, mine⟩, -⟩ := taken
    rw [Bool.and_eq_true, beq_iff_eq] at mine
    exact ⟨_, rfl, Or.inr ⟨⟨x, lent, mine.1⟩, rfl⟩⟩
  · exact ⟨s.harts[i], by simp, Or.inl rfl⟩

/-- Some chains, each once, in turn. -/
theorem State.takeBack_harts (l : List (Fin 64)) (once : l.Nodup) (s : State) :
    ∃ hs, l.foldl State.takeBackAt s = { s with harts := hs } ∧ (∀ j : Fin 64, j ∉ l → hs[j] = s.harts[j]) ∧
      ∀ j : Fin 64, s.harts[j].TakenBack s.hart.core hs[j] := by
  induction l generalizing s with
  | nil => exact ⟨s.harts, rfl, fun _ _ => rfl, fun _ => Or.inl rfl⟩
  | cons i l ih =>
    obtain ⟨new, once⟩ := List.nodup_cons.1 once
    obtain ⟨k, step, taken⟩ := s.takeBackAt_harts i
    obtain ⟨hs, rest, others, all⟩ := ih once (s.takeBackAt i)
    have other (j : Fin 64) (ne : j ≠ i) : (s.takeBackAt i).harts[j] = s.harts[j] := by
      rw [step]
      exact Vector.getElem_set_ne i.isLt j.isLt fun same => ne (Fin.ext same.symm)
    have self : (s.takeBackAt i).harts[i] = k := by
      rw [step]
      exact Vector.getElem_set_self i.isLt
    have cores (j : Fin 64) : (s.takeBackAt i).harts[j].core = s.harts[j].core := by
      by_cases this : j = i
      · subst this
        rw [self]
        exact taken.core
      · rw [other j this]
    have core : (s.takeBackAt i).hart.core = s.hart.core := by
      have moved : (s.takeBackAt i).hart = (s.takeBackAt i).harts[s.cur] := by rw [step]; rfl
      rw [moved, cores, State.hart]
    refine ⟨hs, ?_, fun j out => ?_, fun j => ?_⟩
    · rw [List.foldl_cons, rest, step]
    · rw [List.mem_cons, not_or] at out
      rw [others j out.2, other j out.1]
    · by_cases this : j = i
      · subst this
        rw [others j new, self]
        exact taken
      · have later := all j
        rwa [core, other j this] at later

/-- What is taken back changes chains alone, each of which has something of the hart's core (09_chain.md R271). -/
theorem State.takeBack_only (s : State) :
    ∃ hs, s.takeBack = { s with harts := hs } ∧ ∀ j : Fin 64, s.harts[j].TakenBack s.hart.core hs[j] := by
  obtain ⟨hs, taken, -, all⟩ := State.takeBack_harts _ (List.nodup_finRange 64) s
  exact ⟨hs, s.takeBack_eq.trans taken, all⟩

theorem State.takeBack_target (s : State) : s.takeBack.hart.target = s.hart.target := by
  obtain ⟨hs, taken, all⟩ := s.takeBack_only
  rw [taken]
  exact (all s.cur).target

theorem State.takeBack_mem (s : State) : s.takeBack.mem = s.mem := by
  obtain ⟨hs, taken, -⟩ := s.takeBack_only
  rw [taken]

/-! ### Lists in order -/

theorem insertBy_perm (le : α → α → Bool) (x : α) (xs : List α) : (insertBy le x xs).Perm (x :: xs) := by
  induction xs with
  | nil => exact List.Perm.refl _
  | cons y ys ih =>
    rw [insertBy]
    split
    · exact List.Perm.refl _
    · exact (ih.cons y).trans (List.Perm.swap x y ys)

theorem sortBy_perm (le : α → α → Bool) (xs : List α) : (sortBy le xs).Perm xs := by
  induction xs with
  | nil => exact List.Perm.refl _
  | cons x xs ih => exact (insertBy_perm le x _).trans (ih.cons x)

/-! ### GRANT -/

/-- The stalls of a list as a number. -/
def stallBits (l : List Nat) : Nat := (l.map (2 ^ ·)).sum

theorem stallBits_testBit {l : List Nat} (once : l.Nodup) (k : Nat) : (stallBits l).testBit k = true ↔ k ∈ l := by
  have places := Finset.toFinset_bitIndices_sum_two_pow l.toFinset
  rw [List.sum_toFinset _ once] at places
  rw [stallBits, ← Nat.mem_bitIndices, ← List.mem_toFinset, places, List.mem_toFinset]

theorem grantOf_eq (l : List Nat) : grantOf l = word (2 ^ 16 * stallBits l + l.length) := by
  have sum (n : Nat) : l.foldl (fun n i => n + 2 ^ (16 + i)) n = n + 2 ^ 16 * stallBits l := by
    induction l generalizing n with
    | nil => rfl
    | cons i l ih =>
      have head : stallBits (i :: l) = 2 ^ i + stallBits l := rfl
      rw [List.foldl_cons, ih, head]
      ring
  rw [grantOf, sum, Nat.zero_add]

section
variable {l : List Nat} (once : l.Nodup) (below : ∀ k ∈ l, k < 16)
include once below

theorem stalls_length_le : l.length ≤ 16 := by
  have := (once.subperm fun k mem => List.mem_range.2 (below k mem)).length_le
  rwa [List.length_range] at this

theorem grantOf_toNat : (grantOf l).toNat = 2 ^ 16 * stallBits l + l.length := by
  have small : stallBits l < 2 ^ 16 := by
    refine Nat.lt_pow_two_of_testBit _ fun k above => ?_
    rw [Bool.eq_false_iff, Ne, stallBits_testBit once]
    exact fun mem => (below k mem).not_ge above
  have few := stalls_length_le once below
  rw [grantOf_eq, word, BitVec.toNat_ofNat]
  exact Nat.mod_eq_of_lt (by omega)

/-- MAP says which stalls a grant has (01_engines.md R24). -/
theorem grantOf_getLsbD (k : Nat) : (grantOf l).getLsbD (16 + k) = true ↔ k ∈ l := by
  have few := stalls_length_le once below
  rw [BitVec.getLsbD, grantOf_toNat once below, Nat.testBit_two_pow_mul_add _ (by omega), if_neg (by omega), Nat.add_sub_cancel_left,
    stallBits_testBit once]

/-- COUNT says how many (01_engines.md R24). -/
theorem grantOf_count : (grantOf l).toNat % 32 = l.length := by
  have few := stalls_length_le once below
  rw [grantOf_toNat once below]
  omega

end

/-- Stalls that no hart holds are not the hart's (01_engines.md R24, R27). -/
theorem not_held_of_free {s : State} (core : s.cur.val / 4 = s.hart.core) (runs : s.hart.run = .running) {k : Nat}
    (free : k ∈ s.freeStalls s.hart) : s.hart.grant.getLsbD (16 + k) = false := by
  rw [State.freeStalls, List.mem_filter, Bool.and_eq_true, Bool.and_eq_true, Bool.not_eq_true'] at free
  obtain ⟨-, ⟨-, unheld⟩, -⟩ := free
  rw [State.stallHeld, List.any_eq_false] at unheld
  have here : s.harts[4 * s.hart.core + s.cur.val % 4]? = some s.hart := by
    rw [← core, Nat.div_add_mod]
    exact Vector.getElem?_eq_getElem s.cur.isLt
  have mine := unheld (s.cur.val % 4) (List.mem_range.2 (Nat.mod_lt _ (by decide)))
  rw [here] at mine
  simp only [runs, Bool.and_eq_true, Bool.or_eq_true] at mine
  exact Bool.eq_false_iff.2 fun held => mine ⟨by decide, Or.inl held⟩

/-- The stalls of a grant: the lowest that the hart holds, and the lowest free ones up to the target (01_engines.md R27). -/
def State.granted (s : State) : List Nat :=
  (heldStalls s.hart.grant).take s.hart.target.toNat ++
    (s.freeStalls s.hart).take (s.hart.target.toNat - (heldStalls s.hart.grant).length)

theorem granted_below {s : State} {k : Nat} (mem : k ∈ s.granted) : k < 16 := by
  obtain held | free := List.mem_append.1 mem
  · exact List.mem_range.1 (List.mem_filter.1 (List.mem_of_mem_take held)).1
  · exact List.mem_range.1 (List.mem_filter.1 (List.mem_of_mem_take free)).1

theorem granted_nodup {s : State} (core : s.cur.val / 4 = s.hart.core) (runs : s.hart.run = .running) : s.granted.Nodup := by
  refine List.nodup_append.2 ⟨(List.nodup_range.filter _).sublist (List.take_sublist ..), (List.nodup_range.filter _).sublist (List.take_sublist ..),
    fun k held j free same => ?_⟩
  subst same
  have mine := (List.mem_filter.1 (List.mem_of_mem_take held)).2
  rw [not_held_of_free core runs (List.mem_of_mem_take free)] at mine
  exact Bool.false_ne_true mine

theorem granted_eq_nil {s : State} (target : s.hart.target ≠ 0) (none_left : s.granted = []) :
    heldStalls s.hart.grant ++ (s.freeStalls s.hart).take (s.hart.target.toNat - (heldStalls s.hart.grant).length) = [] := by
  obtain ⟨held, free⟩ := List.append_eq_nil_iff.1 none_left
  rw [free, List.append_nil]
  obtain zero | none_held := List.take_eq_nil_iff.1 held
  · exact absurd (BitVec.eq_of_toNat_eq zero) target
  · exact none_held

/-! ### The instruction -/

/-- A hart behind a `setvl` that gives it some stalls (07_lane.md R204). -/
def Hart.setvl (h : Hart) (d a : BitVec 6) (im : BitVec 12) (stalls : List Nat) : Hart :=
  let et := im.setWidth 64
  let vl := word (min (h.sreg a).toNat (vlCap stalls.length et))
  { h.setGrant (grantOf stalls) with et := et, vl := vl }.retireS 4 d vl

theorem execSetvl_eq {r : State} (d a : BitVec 6) (im : BitVec 12) (target : r.hart.target ≠ 0) :
    execSetvl d a im r = if (sortBy (· ≤ ·) r.takeBack.granted).isEmpty then .next r.takeBack
      else .next (r.takeBack.setHart (r.takeBack.hart.setvl d a im (sortBy (· ≤ ·) r.takeBack.granted))) := by
  have some_target : r.hart.target.toNat ≠ 0 := fun zero => target (BitVec.eq_of_toNat_eq zero)
  have stalls : (if r.hart.target.toNat ≤ (heldStalls r.takeBack.hart.grant).length
      then (heldStalls r.takeBack.hart.grant).take r.hart.target.toNat
      else heldStalls r.takeBack.hart.grant ++
        (r.takeBack.freeStalls r.takeBack.hart).take (r.hart.target.toNat - (heldStalls r.takeBack.hart.grant).length)) = r.takeBack.granted := by
    rw [State.granted, r.takeBack_target]
    split
    · next enough => rw [Nat.sub_eq_zero_of_le enough, List.take_zero, List.append_nil]
    · next short => rw [List.take_of_length_le (l := heldStalls r.takeBack.hart.grant) (by omega)]
  rw [execSetvl]
  simp only [some_target, if_false, stalls]
  rfl

section
variable {h : Hart} {d a : BitVec 6} {im : BitVec 12} {stalls : List Nat}

/-- A grant that has every stall of the chain's stages changes GRANT and the stalls that leave (09_chain.md R290). -/
theorem Hart.setGrant_kept {g : Word} (kept : ∀ k, k < 16 → h.chain.stalls.getLsbD k = true → g.getLsbD (16 + k) = true) :
    h.setGrant g = { h with grant := g, leaving := (h.setGrant g).leaving } := by
  have unlost : (List.range 16).any (fun k => h.chain.stalls.getLsbD k && !g.getLsbD (16 + k)) = false := by
    rw [List.any_eq_false]
    intro k mem
    rw [Bool.and_eq_true, Bool.not_eq_true', not_and, Bool.not_eq_false]
    exact kept k (List.mem_range.1 mem)
  simp only [Hart.setGrant, unlost, Bool.false_eq_true, if_false]

/-- A stall given up leaves once the entries before have finished (07_lane.md R205, R230). -/
theorem Hart.setGrant_leaving {g : Word} {k : Nat} (held : k ∈ heldStalls h.grant) (gone : g.getLsbD (16 + k) = false) :
    (k, h.nextSeq) ∈ (h.setGrant g).leaving := by
  refine List.mem_append_right _ (List.mem_map.2 ⟨k, List.mem_filter.2 ⟨held, ?_⟩, rfl⟩)
  rw [gone]
  rfl

/-- A grant changes GRANT, the stalls that leave, and the chain where it breaks. -/
theorem Hart.setGrant_only (h : Hart) (g : Word) :
    h.setGrant g = { h with chain := (h.setGrant g).chain, grant := g, leaving := (h.setGrant g).leaving } := by
  simp only [Hart.setGrant]
  generalize (List.range 16).any (fun k => h.chain.stalls.getLsbD k && !g.getLsbD (16 + k)) = lost
  cases lost with
  | false => rfl
  | true =>
    rw [if_pos rfl, Hart.breakChain_only]

/-- What `setvl` changes where the stalls of the chain's stages are kept. -/
theorem Hart.setvl_only (kept : ∀ k, k < 16 → h.chain.stalls.getLsbD k = true → (grantOf stalls).getLsbD (16 + k) = true) :
    h.setvl d a im stalls = { h with
      grant := grantOf stalls, leaving := (h.setGrant (grantOf stalls)).leaving, et := im.zeroExtend 64
      vl := word (min (h.sreg a).toNat (vlCap stalls.length (im.zeroExtend 64))), s := (h.setvl d a im stalls).s, ld := d, pc := h.pc + 4 } := by
  refine (Hart.retireS_only ..).trans ?_
  rw [← Hart.setvl, Hart.setGrant_kept kept]
  rfl

theorem Hart.setvl_sreg (n : BitVec 6) : (h.setvl d a im stalls).sreg n =
    if n = d ∧ n ≠ 0 then word (min (h.sreg a).toNat (vlCap stalls.length (im.zeroExtend 64))) else h.sreg n := by
  refine (Hart.sreg_retireS ..).trans ?_
  rw [Hart.setGrant_only]
  rfl

/-- VL behind a `setvl` (01_engines.md R28). -/
theorem vl_toNat (x : Word) (count : Nat) (im : BitVec 12) : (word (min x.toNat (vlCap count (im.zeroExtend 64)))).toNat =
    min x.toNat (count * 8 * (1024 / etSew (im.zeroExtend 64)) * 2 ^ (im.extractLsb' 4 2).toNat) := by
  have group : bits (im.zeroExtend 64) 4 2 = (im.extractLsb' 4 2).toNat := by
    have wide : (im.zeroExtend 64).toNat = im.toNat := BitVec.toNat_setWidth_of_le (by decide)
    rw [bits, wide, BitVec.extractLsb'_toNat, Nat.shiftRight_eq_div_pow]
  rw [word, BitVec.toNat_ofNat, Nat.mod_eq_of_lt ((min_le_left ..).trans_lt x.isLt), vlCap, etGroup, group]

/-- A stall that the hart gives up is still at work for an earlier entry of its VIQ (07_lane.md R205, R230). -/
theorem setvl_leaves {k : Nat} (kept : ∀ k, k < 16 → h.chain.stalls.getLsbD k = true → (grantOf stalls).getLsbD (16 + k) = true)
    (held : k ∈ heldStalls h.grant) (gone : (grantOf stalls).getLsbD (16 + k) = false)
    (earlier : ∃ e ∈ h.viq, e.isRun = false ∧ e.seq < h.nextSeq) : (h.setvl d a im stalls).leaves k = true := by
  obtain ⟨e, queued, noRun, before⟩ := earlier
  rw [Hart.setvl_only kept]
  unfold Hart.leaves
  rw [List.any_eq_true]
  refine ⟨_, Hart.setGrant_leaving held gone, ?_⟩
  rw [Bool.and_eq_true, List.any_eq_true]
  refine ⟨beq_self_eq_true _, e, by simp [queued], ?_⟩
  rw [noRun, Bool.not_false, Bool.true_and]
  exact decide_eq_true before

end

/-- A hart with the fields that `setvl` changes, as it then has them. -/
theorem Hart.setvl_fields {h k : Hart} {g e v : Word} {l : List (Nat × Nat)} {x : Vector Word 64} {d : BitVec 6} {pc : Word}
    (only : k = { h with grant := g, leaving := l, et := e, vl := v, s := x, ld := d, pc := pc }) :
    k = { h with grant := k.grant, leaving := k.leaving, et := k.et, vl := k.vl, s := k.s, ld := d, pc := pc } := by
  subst only
  rfl

/-- A `setvl` that finds its hart a stall (07_lane.md R204). -/
theorem setvl_grants (r s : State) (d a : BitVec 6) (im : BitVec 12) (taken : s = r.takeBack) (target : r.hart.target ≠ 0)
    (some_stall : s.granted ≠ []) (core : s.cur.val / 4 = s.hart.core) (runs : s.hart.run = .running)
    (kept : ∀ k, k < 16 → s.hart.chain.stalls.getLsbD k = true → k ∈ s.granted) :
    ∃ t, exec (.setvl d a im) r = .next t ∧
      (∀ k, k < 16 → (t.hart.grant.getLsbD (16 + k) = true ↔ k ∈ s.granted)) ∧
      (∀ k ∈ heldStalls s.hart.grant, k ∉ (heldStalls s.hart.grant).take s.hart.target.toNat → (∃ e ∈ s.hart.viq, e.isRun = false ∧ e.seq < s.hart.nextSeq) → t.hart.leaves k = true) ∧
      (t.hart.grant.toNat % 32 = s.granted.length) ∧ t.hart.et = im.zeroExtend 64 ∧
      t.hart.vl.toNat = min (s.hart.sreg a).toNat
        (s.granted.length * 8 * (1024 / etSew (im.zeroExtend 64)) * 2 ^ ((im.extractLsb' 4 2).toNat)) ∧
      (∀ n, t.hart.sreg n = if n = d ∧ n ≠ 0 then t.hart.vl else s.hart.sreg n) ∧
      t = s.setHart { s.hart with grant := t.hart.grant, leaving := t.hart.leaving, et := t.hart.et, vl := t.hart.vl, s := t.hart.s, ld := d,
                                  pc := s.hart.pc + 4 } ∧
      SameBytes r t := by
  have perm : (sortBy (· ≤ ·) s.granted).Perm s.granted := sortBy_perm ..
  have once := perm.nodup_iff.2 (granted_nodup core runs)
  have below (k : Nat) (mem : k ∈ sortBy (· ≤ ·) s.granted) : k < 16 := granted_below (perm.mem_iff.1 mem)
  have bit (k : Nat) : (grantOf (sortBy (· ≤ ·) s.granted)).getLsbD (16 + k) = true ↔ k ∈ s.granted :=
    (grantOf_getLsbD once below k).trans perm.mem_iff
  have only := Hart.setvl_only (d := d) (a := a) (im := im) fun k small uses => (bit k).2 (kept k small uses)
  have sreg := Hart.setvl_sreg (h := s.hart) (d := d) (a := a) (im := im) (stalls := sortBy (· ≤ ·) s.granted)
  have leaves {k : Nat} := setvl_leaves (d := d) (a := a) (im := im) (k := k) fun k small uses => (bit k).2 (kept k small uses)
  have done : exec (.setvl d a im) r = .next (s.setHart (s.hart.setvl d a im (sortBy (· ≤ ·) s.granted))) := by
    refine (execSetvl_eq d a im target).trans ?_
    rw [← taken, if_neg]
    rw [List.isEmpty_iff]
    exact fun none_left => some_stall (by rw [none_left] at perm; exact perm.symm.eq_nil)
  generalize s.hart.setvl d a im (sortBy (· ≤ ·) s.granted) = k at only sreg leaves done
  refine ⟨_, done, ?_⟩
  rw [State.hart_setHart]
  have grant : k.grant = grantOf (sortBy (· ≤ ·) s.granted) := by rw [only]
  have vl : k.vl = word (min (s.hart.sreg a).toNat (vlCap s.granted.length (im.zeroExtend 64))) := by rw [only, perm.length_eq]
  refine ⟨fun j _ => by rw [grant]; exact bit j, fun j held lost earlier => ?_, ?_, by rw [only], ?_, fun n => ?_, ?_, ?_⟩
  · refine leaves held (Bool.eq_false_iff.2 fun set => ?_) earlier
    obtain still | free := List.mem_append.1 ((bit j).1 set)
    · exact lost still
    · have unheld := not_held_of_free core runs (List.mem_of_mem_take free)
      rw [(List.mem_filter.1 held).2] at unheld
      exact Bool.false_ne_true unheld.symm
  · rw [grant, grantOf_count once below, perm.length_eq]
  · rw [vl]
    exact vl_toNat ..
  · rw [sreg, vl, perm.length_eq]
  · exact congrArg s.setHart (Hart.setvl_fields only)
  · intro x
    rw [State.setHart_mem, taken, r.takeBack_mem]

/-- A `setvl` whose hart's target is 0: the hart loses its grant and traps (01_engines.md R28). -/
theorem setvl_lapses (s : State) (d a : BitVec 6) (im : BitVec 12) (target : s.hart.target = 0) (quiet : s.hart.quiet = true)
    (handler : HasHandler s) : ∃ t, exec (.setvl d a im) s = .next t ∧
      EntersHandler (s.setHart (s.hart.setGrant 0)) t 0x04 0 s.hart.pc s.hart.faddr s.hart.ld := by
  have hart := State.hart_setHart s (s.hart.setGrant 0)
  have only := s.hart.setGrant_only 0
  have enters := (s.setHart (s.hart.setGrant 0)).takeHartTrap_enters eLease 0 none 0
    (by rw [HasHandler, hart, only]; exact handler) rfl
  have done : exec (.setvl d a im) s = .next ((s.setHart (s.hart.setGrant 0)).takeHartTrap eLease 0 none 0 false) := by
    show execSetvl d a im s = _
    rw [execSetvl, target]
    exact (if_pos rfl).trans (State.afterDrain_quiet s _ _ quiet)
  have pc : (s.hart.setGrant 0).pc = s.hart.pc := by rw [only]
  have faddr : (s.hart.setGrant 0).faddr = s.hart.faddr := by rw [only]
  have ld : (s.hart.setGrant 0).ld = s.hart.ld := by rw [only]
  rw [hart, pc, faddr, ld] at enters
  exact ⟨_, done, enters⟩

/-- Settles O19: the fold over the chains, the bits of GRANT, and the fields that `setvl` writes. -/
theorem setVl : Obligations.SetVl := by
  refine ⟨fun s enough => s.takeBack_of_enough enough, fun s j => ?_, ?_, setvl_lapses⟩
  · obtain ⟨hs, taken, all⟩ := s.takeBack_only
    rw [taken]
    exact all j
  · intro r s d a im own more taken target hown hmore some_stall core runs kept
    subst hown hmore
    exact setvl_grants r s d a im taken target (mt (granted_eq_nil (by rw [taken, r.takeBack_target]; exact target)) some_stall) core runs kept

end Sys2Proof.Machine
end

section
/-!
PROOFS. FabricAccesses, FabricAtomics and Windows fail as the stores of vectors do (see `overlappingStore`): an access of the fabric translates
its address, and over tables that overlap the walk that sets A and D writes a whole entry over bytes that are no table entry. So `fscatter`,
`fas` and `accmerge` change memory outside the places that they write by more than A and D bits (04_memory_model.md R110).
-/

namespace Sys2Proof.Machine

open Sys2Proof.Claims

/-- Those tables where the stage-1 leaf leads to the third GiB of the guest, as an RMW must not go to host memory: where the pointer of stage 2
leads once it has moved, that is the HBM4E whose first channel the partition owns, and the stage-1 root table is mapped there too, so that
every access of an instruction finds its way. The hart has one element of i32, and an open window at address 0 whose one word has one copy. -/
def overlappingFabric : State :=
  let s := { overlappingStore with
    mem := [(entryAt + 3, 0x80), (0x470008, 0x47), (0x47000B, 0x80), (0x47000E, 0x08), (0x470010, 0xC7)].foldl
      (fun (m : Memory) (c : Nat × Byte) => Memory.write m c.1 c.2) overlappingStore.mem
    parts := overlappingStore.parts.set 0 { Partition.reset with c0 := 1 } }
  s.setHart { s.hart with et := 2, windows := s.hart.windows.set 0 ⟨true, 0, 4, 2, 1, [(0, 1)]⟩ }

theorem overlappingFabric_wf : Memory.wf overlappingFabric.mem ∧ Memory.read overlappingFabric.mem movedTo = 0 := by
  decide +kernel

/-- The accesses succeed, and what they give meets a test. -/
def givesOk (p : α → Bool) : EStateM.Result Fail State α → Bool
  | .ok x _ => p x
  | .error _ _ => false

theorem exists_of_givesOk {p : α → Bool} {r : EStateM.Result Fail State α} (h : givesOk p r = true) : ∃ x u, r = .ok x u ∧ p x = true := by
  cases r with
  | ok x u => exact ⟨x, u, rfl, h⟩
  | error e u => cases h

/-- Places among which the entry does not lie that is written whole. -/
def sparesEntry (ls : List Nat) : Bool := !ls.contains movedTo

/-- An instruction that leaves a whole entry where a byte was zero that it does not write has changed memory there by more than A and D
bits. -/
theorem not_storesOnly_of_wholeEntry {i : Instr} {s t : State} {ls : List Nat} (moved : entryMoved (exec i s) = true)
    (executed : exec i s = .next t) (spares : sparesEntry ls = true) (zero : Memory.read s.mem movedTo = 0) : ¬ StoresOnly s t ls := by
  intro only
  obtain ⟨m, none_else, set⟩ := only movedTo (by simpa [sparesEntry] using spares)
  rw [executed] at moved
  rw [beq_iff_eq.1 moved, zero, show (0 : Byte) ||| m = m from BitVec.zero_or] at set
  rw [← set] at none_else
  exact absurd none_else (by decide)

/-- Nothing holds the `fscatter` back, it succeeds, and it writes the entry. -/
theorem overlappingFabric_fscatter : let h := overlappingFabric.hart
    let w := etSew h.et
    let addr := indexedAt h 0 (h.sreg 0)
    let act := activeBits h 0 (lanes h)
    Free overlappingFabric (.fscatter 0 0 0 0) ∧ fabricChecks h 0 0 0 false ∧ entryMoved (exec (.fscatter 0 0 0 0) overlappingFabric) = true ∧
    givesOk sparesEntry (working (do
      act.forM fun k => probeAt h.agent .probeStore w (addr k)
      act.forM fun k => checkRead h.agent .probeStore (addr k) (w / 8)
      storePlaces h.agent w addr id (h.velem w 0) act) overlappingFabric) = true := by
  decide +kernel

/-- Refutes O42 in its clause on `fscatter`, which writes the entry, whose V, R and W are set, over a byte that was zero and that it does not
store to. -/
theorem not_fabricAccesses : ¬ Obligations.FabricAccesses := by
  unfold Obligations.FabricAccesses
  rintro ⟨-, scatters⟩
  obtain ⟨free, checks, moved, gives⟩ := overlappingFabric_fscatter
  obtain ⟨wf, zero⟩ := overlappingFabric_wf
  obtain ⟨ls, u, stored, spares⟩ := exists_of_givesOk gives
  obtain ⟨t, executed, -, only⟩ := scatters overlappingFabric u 0 0 0 0 ls free checks stored
  exact not_storesOnly_of_wholeEntry moved executed spares zero (only wf)

/-- Nothing holds the `fas` back, it succeeds at places that are not the entry's, and it writes the entry. -/
theorem overlappingFabric_fas : let h := overlappingFabric.hart
    let w := etSew h.et
    let sum (k : Nat) : Nat := ((activeBits h 0 k).map (h.velem w 1)).sum
    (Free overlappingFabric (.fas 0 1 0 0) ∧ classI (etTy h.et) = true ∧ 32 ≤ w ∧ overlaps 0 (etGroup h.et) 1 (etGroup h.et) = false ∧
      1 % etGroup h.et = 0 ∧ spanOk 0 (lanes h) = true) ∧
    entryMoved (exec (.fas 0 1 0 0) overlappingFabric) = true ∧
    givesOk (fun r => sparesEntry r.1 && decide r.1.Nodup)
      (working (rmwThere h.agent (h.sreg 0) (w / 8) fun x => (x + sum (lanes h)) % 2 ^ w) overlappingFabric) = true := by
  decide +kernel

/-- Refutes O43 in its clause on `fas`: one RMW writes the entry beside the word that it updates. -/
theorem not_fabricAtomics : ¬ Obligations.FabricAtomics := by
  unfold Obligations.FabricAtomics
  rintro ⟨-, scans⟩
  obtain ⟨⟨free, integer, wide, apart, group, span⟩, moved, gives⟩ := overlappingFabric_fas
  obtain ⟨wf, zero⟩ := overlappingFabric_wf
  obtain ⟨⟨locs, old⟩, u, added, test⟩ := exists_of_givesOk gives
  obtain ⟨spares, once⟩ := Bool.and_eq_true_iff.1 test
  obtain ⟨t, executed, -, -, only⟩ := scans overlappingFabric u 0 1 0 0 locs old free integer wide rfl group apart span rfl added
  exact not_storesOnly_of_wholeEntry moved executed spares zero (only wf (of_decide_eq_true once)).1

/-- Nothing holds the `accmerge` back, it succeeds, and it writes the entry. -/
theorem overlappingFabric_accmerge : let h := overlappingFabric.hart
    Free overlappingFabric (.accmerge 0) ∧ (h.window 0).isOpen = true ∧ entryMoved (exec (.accmerge 0) overlappingFabric) = true ∧
    givesOk (fun r => sparesEntry r.1) (working (mergeAll h.agent (h.window 0) (rmOf (etRm h.et))) overlappingFabric) = true := by
  decide +kernel

/-- Refutes O44 in its clause on `accmerge`: the fold of one copy writes the entry beside the word that it updates. -/
theorem not_windows : ¬ Obligations.Windows := by
  unfold Obligations.Windows
  rintro ⟨-, -, -, merges, -⟩
  obtain ⟨free, opened, moved, gives⟩ := overlappingFabric_accmerge
  obtain ⟨wf, zero⟩ := overlappingFabric_wf
  obtain ⟨⟨ls, fl⟩, u, merged, spares⟩ := exists_of_givesOk gives
  obtain ⟨t, executed, -, -, -, only⟩ := merges overlappingFabric u 0 ls fl free opened merged
  exact not_storesOnly_of_wholeEntry moved executed spares zero (only wf)

end Sys2Proof.Machine
end

section
/-!
PROOFS. What the node instructions of the gather fabric do to the nodes and the streams: both are places of a vector that are changed in turn
(08_gather_fabric.md R243 to R245).
-/

namespace Sys2Proof.Machine

open Sys2Proof.Claims

/-! ### Places of a vector, changed in turn -/

/-- A vector with the places that are listed changed in turn. -/
def changed (v : Vector α n) (cs : List (Nat × (α → α))) : Vector α n := cs.foldl (fun v c => modAt v c.1 c.2) v

section
variable (v : Vector α n) {cs : List (Nat × (α → α))} {i : Nat} {f : α → α}

/-- A place that is not listed is as it was. -/
theorem changed_other (other : ∀ c ∈ cs, c.1 ≠ i) : (changed v cs)[i]? = v[i]? := by
  induction cs generalizing v with
  | nil => rfl
  | cons c cs ih =>
    rw [changed, List.foldl_cons, ← changed, ih _ fun d hd => other d (List.mem_cons_of_mem _ hd)]
    exact modAt_getElem?_ne v (other c List.mem_cons_self).symm c.2

/-- The last change of a place is made to what those before have left there. -/
theorem changed_last {ds : List (Nat × (α → α))} (inside : i < n) (last : ∀ d ∈ ds, d.1 ≠ i) :
    (changed v (cs ++ (i, f) :: ds))[i]? = ((changed v cs)[i]?).map f := by
  have split : changed v (cs ++ (i, f) :: ds) = changed (modAt (changed v cs) i f) ds := by
    rw [changed, List.foldl_append]
    rfl
  rw [split, changed_other _ last, modAt_getElem?_self inside]

/-- The last change in a list, by its place there. -/
theorem changed_at {k : Nat} (listed : cs[k]? = some (i, f)) (inside : i < n) (last : ∀ j d, k < j → cs[j]? = some d → d.1 ≠ i) :
    (changed v cs)[i]? = ((changed v (cs.take k))[i]?).map f := by
  obtain ⟨below, here⟩ := List.getElem?_eq_some_iff.1 listed
  have split : cs = cs.take k ++ (i, f) :: cs.drop (k + 1) := by rw [← here, ← List.drop_eq_getElem_cons, List.take_append_drop]
  have later : ∀ d ∈ cs.drop (k + 1), d.1 ≠ i := fun d hd => by
    obtain ⟨j, hj⟩ := List.mem_iff_getElem?.1 hd
    exact last (k + 1 + j) d (by omega) (by rw [← List.getElem?_drop]; exact hj)
  calc (changed v cs)[i]? = (changed v (cs.take k ++ (i, f) :: cs.drop (k + 1)))[i]? := by rw [← split]
    _ = ((changed v (cs.take k))[i]?).map f := changed_last v inside later

/-- A place that is listed once is changed so. -/
theorem changed_once (once : (cs.map Prod.fst).Nodup) (listed : (i, f) ∈ cs) (inside : i < n) : (changed v cs)[i]? = (v[i]?).map f := by
  obtain ⟨xs, ys, rfl⟩ := List.append_of_mem listed
  rw [List.map_append, List.map_cons, List.nodup_middle, List.nodup_cons, List.mem_append, not_or] at once
  have absent {zs : List (Nat × (α → α))} (none : i ∉ zs.map Prod.fst) : ∀ c ∈ zs, c.1 ≠ i :=
    fun c hc same => none (List.mem_map.2 ⟨c, hc, same⟩)
  rw [changed_last v inside (absent once.1.2), changed_other v (absent once.1.1)]

end

/-! ### The nodes a mask names -/

theorem mem_named {nodes : BitVec 8} {n : Nat} : n ∈ named nodes ↔ n < 8 ∧ nodes.getLsbD n = true := by
  simp [named]

theorem named_nodup (nodes : BitVec 8) : (named nodes).Nodup := List.nodup_range.filter _

theorem named_contains (nodes : BitVec 8) (n : BitVec 3) : (named nodes).contains n.toNat = nodes.getLsbD n.toNat := by
  rw [Bool.eq_iff_iff, List.contains_iff_mem, mem_named]
  exact and_iff_right n.isLt

/-- The tokens that stay are those on no link of the named routers. -/
theorem Hart.dropLinks_named (h : Hart) (nodes : BitVec 8) : h.dropLinks (named nodes) = { h with ftokens := otherTokens h nodes } := by
  simp only [Hart.dropLinks, named_contains]
  rfl

/-- The same change of each node that a mask names. -/
def eachNamed (nodes : BitVec 8) (f : FabricNode → FabricNode) : List (Nat × (FabricNode → FabricNode)) := (named nodes).map (·, f)

theorem foldl_modNode (h : Hart) (nodes : BitVec 8) (f : FabricNode → FabricNode) :
    (named nodes).foldl (fun h n => h.modNode n f) h = { h with fnodes := changed h.fnodes (eachNamed nodes f) } := by
  rw [changed, eachNamed, List.foldl_map]
  exact List.foldl_hom (init := h.fnodes) (fun v => { h with fnodes := v }) (g₁ := fun v n => modAt v n f) (g₂ := fun h n => h.modNode n f)
    fun _ _ => rfl

theorem Hart.fnode_eq (h : Hart) {n : Nat} (below : n < 8) : h.fnodes[n]? = some (h.fnode n) := by
  rw [Hart.fnode, Vector.getElem?_eq_getElem below, Option.getD_some]

/-- A node that a mask names is changed, and any other is as it was. -/
theorem fnode_of_eachNamed {h t : Hart} {nodes : BitVec 8} {f : FabricNode → FabricNode}
    (written : t.fnodes = changed h.fnodes (eachNamed nodes f)) {n : Nat} (below : n < 8) :
    t.fnode n = if nodes.getLsbD n then f (h.fnode n) else h.fnode n := by
  have once : ((eachNamed nodes f).map Prod.fst).Nodup := by simpa [eachNamed, Function.comp_def] using named_nodup nodes
  rw [Hart.fnode, written]
  split
  · next named =>
    rw [changed_once _ once (List.mem_map.2 ⟨n, mem_named.2 ⟨below, named⟩, rfl⟩) below, h.fnode_eq below]
    rfl
  · next unnamed =>
    refine congrArg (·.getD FabricNode.reset) (changed_other h.fnodes fun c listed => ?_)
    obtain ⟨m, hm, rfl⟩ := List.mem_map.1 listed
    rintro rfl
    exact unnamed (mem_named.1 hm).2

/-! ### Entries that complete -/

/-- A hart with the nodes, the streams and the tokens on the links that a node instruction leaves. -/
def Hart.withFabric (h : Hart) (ns : Vector FabricNode 8) (ts : Vector Stream 16) (ls : List FabricToken) : Hart :=
  { h with fnodes := ns, streams := ts, ftokens := ls }

theorem fabricOp_passes {e : Entry} {nodes : BitVec 8} (fresh : e.skipped = false) (nonempty : nodes ≠ 0) (body : Run Unit) :
    fabricOp e nodes body = body := by
  rw [fabricOp, fresh, if_neg nonempty]
  rfl

theorem fabricOp_empty {e : Entry} (fresh : e.skipped = false) (body : Run Unit) : fabricOp e 0 body = operandTrap 3 := by
  rw [fabricOp, fresh]
  rfl

/-- A hart with an entry in its VIQ, and its fabric changed: nothing of that is what accesses look at. -/
theorem unseen_withFabric (e : Entry) (r : Word) (ns : Vector FabricNode 8) (ts : Vector Stream 16) (ls : List FabricToken) :
    Unseen fun h => (h.inViq e r).withFabric ns ts ls := ⟨fun _ => rfl, fun _ => rfl, fun _ => rfl, fun _ => rfl⟩

section
variable {s u : State} {i : Instr} {rs : List (BitVec 6)} (viq : InViq i rs) (free : Free s i)
  (undrawn : s.hart.draws i (rs.map s.hart.sreg) = none) {ns : Vector FabricNode 8} {ts : Vector Stream 16} {ls : List FabricToken} {e : Entry}
include viq free undrawn

/-- A node instruction that makes some accesses and completes: `e` is its entry as they have left it. -/
theorem InViq.fabricAccess {a : EStateM ε State α} {x : α} (read : working a s = .ok x u) (kept : u.hart = s.hart)
    (runs : ∀ k t, a (s.atWork k) = .ok x t → runEntry (s.entryWith i rs 0) ((s.atWork k).mapHart (·.inViq (s.entryWith i rs 0) s.hart.rng)) =
      .ok () (t.mapHart fun h => (h.inViq e s.hart.rng).withFabric ns ts ls)) :
    ∃ t, exec i s = .next t ∧ Past u t { s.hart with fnodes := t.hart.fnodes, streams := t.hart.streams, ftokens := ls } ∧
      t.hart.fnodes = ns ∧ t.hart.streams = ts := by
  have issues := viq.undrawn free undrawn
  obtain ⟨noViq, noPiq, noMiq⟩ := s.hart.quiet_iff.1 free.1
  have body : working (runEntry (s.entryWith i rs 0)) (s.issuing 1 i rs 0 s.hart.rng) =
      .ok () (u.mapHart fun h => (h.inViq e s.hart.rng).withFabric ns ts ls) := working_mapHart (unseen_withFabric e s.hart.rng ns ts ls) runs read
  have popped : ((s.hart.inViq e s.hart.rng).withFabric ns ts ls).popQueue 1 = (s.hart.withFabric ns ts ls).after s.hart := by
    show { (s.hart.withFabric ns ts ls).after s.hart with viq := ([] : List Entry) } = _
    rw [← noViq]
    rfl
  have done : exec i s = .next (u.setHart ((s.hart.withFabric ns ts ls).after s.hart)) := by
    rw [viq.issues, issues.taken, State.tryHead, body]
    simp only [State.mapHart, State.hart_setHart, State.setHart_setHart, kept, popped]
    rw [State.pumpFor_quiet (by rw [State.hart_setHart]; exact free.1)]
  refine ⟨_, done, ?_, ?_, ?_⟩
  · rw [Past, State.hart_setHart, kept]
    rfl
  · rw [State.hart_setHart]
    rfl
  · rw [State.hart_setHart]
    rfl

/-- One that makes no access. -/
theorem InViq.fabric (runs : ∀ t : State, t.hart = s.hart.inViq (s.entryWith i rs 0) s.hart.rng →
      runEntry (s.entryWith i rs 0) t = .ok () (t.mapHart (·.withFabric ns ts ls))) :
    ∃ t, exec i s = .next t ∧ Past s t { s.hart with fnodes := t.hart.fnodes, streams := t.hart.streams, ftokens := ls } ∧
      t.hart.fnodes = ns ∧ t.hart.streams = ts := by
  have nothing : working (pure () : Run Unit) s = .ok () s := working_eq (fun _ => rfl) rfl
  refine viq.fabricAccess free undrawn nothing rfl (e := s.entryWith i rs 0) fun k t same => ?_
  cases same
  rw [runs _ (State.mapHart_hart ..), State.mapHart_mapHart]

end

/-! ### Starting and stopping -/

theorem inViq_fstart (nodes : BitVec 8) : InViq (.fstart nodes) [] := ⟨fun _ => rfl, nofun, fun _ => rfl, fun _ _ => rfl⟩

theorem inViq_fstop (nodes : BitVec 8) : InViq (.fstop nodes) [] := ⟨fun _ => rfl, nofun, fun _ => rfl, fun _ _ => rfl⟩

theorem inViq_fdrain (nodes : BitVec 8) : InViq (.fdrain nodes) [] := ⟨fun _ => rfl, nofun, fun _ => rfl, fun _ _ => rfl⟩

theorem inViq_fstat (nodes : BitVec 8) : InViq (.fstat nodes) [] := ⟨fun _ => rfl, nofun, fun _ => rfl, fun _ _ => rfl⟩

theorem inViq_fload (a : BitVec 6) (nodes : BitVec 8) : InViq (.fload a nodes) [a] := ⟨fun _ => rfl, nofun, fun _ => rfl, fun _ _ => rfl⟩

/-- What `fstart` makes of a node that it names (08_gather_fabric.md R244; log 69). -/
def FabricNode.started (m : FabricNode) : FabricNode :=
  match m.state with
  | .loaded => if blockStart m.block then m else { m with state := .running }
  | .stopped => { m with state := .running, watchdog := false }
  | .idle | .running | .done => m

/-- What `fstop` makes of one. -/
def FabricNode.halted (m : FabricNode) : FabricNode := if m.state = .running then { m with state := .stopped } else m

theorem fabricStart_ok {e : Entry} {nodes : BitVec 8} {t : State} (fresh : e.skipped = false) (nonempty : nodes ≠ 0)
    (startable : ∀ n ∈ named nodes, (t.hart.fnode n).state ≠ .idle ∧ (t.hart.fnode n).state ≠ .done) (whole : t.hart.graphOk = true) :
    fabricStart e nodes t = .ok () (t.mapHart fun h => { h with fnodes := changed h.fnodes (eachNamed nodes FabricNode.started) }) := by
  have legal : ¬ ((named nodes).any (fun n => (t.hart.fnode n).state = .idle ∨ (t.hart.fnode n).state = .done) ∨ !t.hart.graphOk) := by
    rw [whole]
    simpa using startable
  rw [fabricStart, fabricOp_passes fresh nonempty, theHart_bind]
  refine (congrFun (if_neg legal) t).trans (congrArg (fun h => EStateM.Result.ok () (t.setHart h)) ?_)
  exact foldl_modNode t.hart nodes FabricNode.started

theorem fabricStop_ok {e : Entry} {nodes : BitVec 8} {t : State} (fresh : e.skipped = false) (nonempty : nodes ≠ 0) :
    fabricStop e nodes t = .ok () (t.mapHart fun h => { h with fnodes := changed h.fnodes (eachNamed nodes FabricNode.halted) }) := by
  rw [fabricStop, fabricOp_passes fresh nonempty]
  exact congrArg (fun h => EStateM.Result.ok () (t.setHart h)) (foldl_modNode t.hart nodes FabricNode.halted)

theorem fabricStarts : Claims.FabricStarts := by
  intro s nodes free nonempty startable whole
  obtain ⟨t, done, past, written, streams⟩ := (inViq_fstart nodes).fabric free rfl (ns := changed s.hart.fnodes (eachNamed nodes FabricNode.started))
    (ts := s.hart.streams) (ls := s.hart.ftokens) fun t at_issue => by
      refine (fabricStart_ok (entryWith_skipped ..) nonempty (by rw [at_issue]; exact startable) (by rw [at_issue]; exact whole)).trans ?_
      rw [State.mapHart, State.mapHart, at_issue]
      rfl
  rw [streams] at past
  refine ⟨t, done, past, fun n below => ?_⟩
  rw [fnode_of_eachNamed written below, FabricNode.started]
  cases (s.hart.fnode n).state <;> rfl

theorem fabricStops : Claims.FabricStops := by
  intro s nodes free nonempty
  obtain ⟨t, done, past, written, streams⟩ := (inViq_fstop nodes).fabric free rfl (ns := changed s.hart.fnodes (eachNamed nodes FabricNode.halted))
    (ts := s.hart.streams) (ls := s.hart.ftokens) fun t at_issue => by
      refine (fabricStop_ok (entryWith_skipped ..) nonempty).trans ?_
      rw [State.mapHart, State.mapHart, at_issue]
      rfl
  rw [streams] at past
  refine ⟨t, done, past, fun n below => ?_⟩
  rw [fnode_of_eachNamed written below, FabricNode.halted, ite_and]

end Sys2Proof.Machine
end

section
/-!
PROOFS. `fdrain`, `fstat` and the empty mask of nodes (08_gather_fabric.md R242, R245, R246).
-/

namespace Sys2Proof.Machine

open Sys2Proof.Claims

/-! ### Nodes at rest -/

theorem State.fabricUntil_met {s : State} {p : Hart → Bool} (met : p s.hart = true) (fuel : Nat) : s.fabricUntil p fuel = s := by
  cases fuel with
  | zero => rfl
  | succ fuel => exact if_pos met

/-- Nothing is waited for where the named nodes are at rest. -/
theorem fabricRest_ok {p : NodeState → Bool} {ns : List Nat} {s : State} (rest : s.hart.atRest p ns = true) : fabricRest p ns s = .ok () s := by
  rw [fabricRest, State.fabricUntil_met (p := (·.atRest p ns)) rest]
  exact if_pos rest

theorem Hart.atRest_named {h : Hart} {nodes : BitVec 8} {p : NodeState → Bool} (states : ∀ n ∈ named nodes, p (h.fnode n).state = true)
    (tokens : ∀ x ∈ h.ftokens, nodes.getLsbD x.router.toNat = false) : h.atRest p (named nodes) = true := by
  simp only [Hart.atRest, named_contains, Bool.and_eq_true, List.all_eq_true, Bool.not_eq_true']
  exact ⟨states, tokens⟩

/-! ### Draining -/

/-- A stream as `fdrain` leaves it: unbound where a node fed it that is released (08_gather_fabric.md R245). -/
def Stream.drained (nodes : BitVec 8) (x : Stream) : Stream := if x.kind = .fabric ∧ nodes.getLsbD x.node.toNat = true then .reset else x

theorem fabricDrain_ok {e : Entry} {nodes : BitVec 8} {t : State} (fresh : e.skipped = false) (nonempty : nodes ≠ 0)
    (rest : t.hart.atRest (·.drained) (named nodes) = true) (paid : ∀ n ∈ named nodes, (t.hart.fnode n).owed = none) :
    fabricDrain e nodes t = .ok () (t.mapHart fun h => h.withFabric (changed h.fnodes (eachNamed nodes fun _ => .reset))
      (h.streams.map (Stream.drained nodes)) (otherTokens h nodes)) := by
  have nothing : (named nodes).findSome? (fun n => (t.hart.fnode n).owed) = none := List.findSome?_eq_none_iff.2 paid
  rw [fabricDrain, fabricOp_passes fresh nonempty, show maskNodes nodes = named nodes from rfl, run_bind_ok (fabricRest_ok rest), theHart_bind,
    nothing]
  simp only [Hart.dropLinks_named, foldl_modNode, named_contains]
  rfl

theorem fabricDrains : Claims.FabricDrains := by
  intro s nodes free nonempty rest paid
  obtain ⟨still, tokens⟩ := rest
  have drained : s.hart.atRest (·.drained) (named nodes) = true := by
    refine Hart.atRest_named (fun n hn => ?_) tokens
    obtain ⟨below, bit⟩ := mem_named.1 hn
    have halted := still n below bit
    cases state : (s.hart.fnode n).state with
    | running => exact absurd state halted
    | idle | loaded | stopped | done => rfl
  obtain ⟨t, done, past, nodesWritten, streamsWritten⟩ := (inViq_fdrain nodes).fabric free rfl
    (ns := changed s.hart.fnodes (eachNamed nodes fun _ => .reset)) (ts := s.hart.streams.map (Stream.drained nodes)) (ls := otherTokens s.hart nodes)
    fun t at_issue => by
      refine (fabricDrain_ok (entryWith_skipped ..) nonempty (by rw [at_issue]; exact drained) (by rw [at_issue]; exact paid)).trans ?_
      rw [State.mapHart, State.mapHart, at_issue]
      rfl
  refine ⟨t, done, past, fun n below => fnode_of_eachNamed nodesWritten below, fun y => ?_⟩
  simp only [Hart.stream, streamsWritten, Vector.getElem_map]
  rfl

/-! ### The status word -/

/-- The fields of a number that is put together of fields of one width, and what stands above them. -/
theorem field_of_sum {w : Nat} {c : Nat → Nat} (small : ∀ n, c n < 2 ^ w) (k m : Nat) :
    (∑ i ∈ Finset.range k, c i * 2 ^ (w * i) + m * 2 ^ (w * k)) / 2 ^ (w * k) = m ∧
    ∀ n, n < k → (∑ i ∈ Finset.range k, c i * 2 ^ (w * i) + m * 2 ^ (w * k)) / 2 ^ (w * n) % 2 ^ w = c n := by
  induction k generalizing c with
  | zero => exact ⟨by simp, nofun⟩
  | succ k ih =>
    obtain ⟨above, fields⟩ := ih fun n => small (n + 1)
    have shifted : ∑ i ∈ Finset.range (k + 1), c i * 2 ^ (w * i) + m * 2 ^ (w * (k + 1)) =
        c 0 + 2 ^ w * (∑ i ∈ Finset.range k, c (i + 1) * 2 ^ (w * i) + m * 2 ^ (w * k)) := by
      rw [Finset.sum_range_succ', mul_add (2 ^ w), Finset.mul_sum]
      simp only [Nat.mul_succ, pow_add, mul_zero, pow_zero, mul_one]
      rw [Finset.sum_congr rfl fun i _ => show c (i + 1) * (2 ^ (w * i) * 2 ^ w) = 2 ^ w * (c (i + 1) * 2 ^ (w * i)) by ring]
      ring
    have dropped (n : Nat) : (c 0 + 2 ^ w * (∑ i ∈ Finset.range k, c (i + 1) * 2 ^ (w * i) + m * 2 ^ (w * k))) / 2 ^ (w * (n + 1)) =
        (∑ i ∈ Finset.range k, c (i + 1) * 2 ^ (w * i) + m * 2 ^ (w * k)) / 2 ^ (w * n) := by
      rw [Nat.mul_succ, Nat.add_comm (w * n), pow_add, ← Nat.div_div_eq_div_mul, Nat.add_mul_div_left _ _ (Nat.two_pow_pos w),
        Nat.div_eq_of_lt (small 0), Nat.zero_add]
    rw [shifted]
    refine ⟨(dropped k).trans above, fun n below => ?_⟩
    cases n with
    | zero => simp [Nat.mod_eq_of_lt (small 0)]
    | succ n => rw [dropped, fields n (by omega)]

/-- What is added for the places that a condition names. -/
theorem foldl_word (p : Nat → Bool) (f : Nat → Nat) (b k : Nat) : ((List.range k).filter p).foldl (fun w n => w + word (f n)) (word b) =
    word (b + ∑ n ∈ Finset.range k, if p n then f n else 0) := by
  induction k with
  | zero => rfl
  | succ k ih =>
    rw [List.range_succ, List.filter_append, List.foldl_append, ih, Finset.sum_range_succ, ← Nat.add_assoc]
    cases named : p k with
    | true => simp [named, word, BitVec.ofNat_add]
    | false => simp [named]

/-- The code of a node in the status word of a mask. -/
def Hart.statusCode (h : Hart) (nodes : BitVec 8) (n : Nat) : Nat := if nodes.getLsbD n then (h.fnode n).state.code else 0

/-- Its watchdog bit there. -/
def Hart.statusBit (h : Hart) (nodes : BitVec 8) (n : Nat) : Nat := (nodes.getLsbD n && (h.fnode n).watchdog).toNat

theorem Hart.statusCode_lt (h : Hart) (nodes : BitVec 8) (n : Nat) : h.statusCode nodes n < 2 ^ 3 := by
  unfold Hart.statusCode
  split
  · cases (h.fnode n).state <;> decide
  · decide

theorem Hart.statusBit_lt (h : Hart) (nodes : BitVec 8) (n : Nat) : h.statusBit nodes n < 2 ^ 1 := Bool.toNat_lt _

/-- The status word: the codes, the watchdog bits above them, and the bell count above those (08_gather_fabric.md R246). -/
theorem Hart.fabricStatus_eq (h : Hart) (nodes : BitVec 8) : h.fabricStatus nodes =
    word (∑ n ∈ Finset.range 8, h.statusCode nodes n * 2 ^ (3 * n) +
      (∑ n ∈ Finset.range 8, h.statusBit nodes n * 2 ^ (1 * n) + h.bell.toNat * 2 ^ (1 * 8)) * 2 ^ (3 * 8)) := by
  have node (n : Nat) : (if nodes.getLsbD n then (h.fnode n).state.code * 2 ^ (3 * n) + (h.fnode n).watchdog.toNat * 2 ^ (24 + n) else 0) =
      h.statusCode nodes n * 2 ^ (3 * n) + h.statusBit nodes n * 2 ^ (1 * n) * 2 ^ (3 * 8) := by
    unfold Hart.statusCode Hart.statusBit
    cases nodes.getLsbD n with
    | true =>
      rw [if_pos rfl, if_pos rfl, Bool.true_and, pow_add]
      ring
    | false => simp
  refine (foldl_word nodes.getLsbD _ _ 8).trans (congrArg word ?_)
  rw [Finset.sum_congr rfl fun n _ => node n, Finset.sum_add_distrib, ← Finset.sum_mul]
  ring

theorem Hart.fabricStatus_fields (h : Hart) (nodes : BitVec 8) : bits (h.fabricStatus nodes) 32 32 = h.bell.toNat ∧
    ∀ n, n < 8 → bits (h.fabricStatus nodes) (3 * n) 3 = h.statusCode nodes n ∧
      (h.fabricStatus nodes).getLsbD (24 + n) = (nodes.getLsbD n && (h.fnode n).watchdog) := by
  obtain ⟨above, codes⟩ := field_of_sum (h.statusCode_lt nodes) 8
    (∑ n ∈ Finset.range 8, h.statusBit nodes n * 2 ^ (1 * n) + h.bell.toNat * 2 ^ (1 * 8))
  obtain ⟨bell, flags⟩ := field_of_sum (h.statusBit_lt nodes) 8 h.bell.toNat
  rw [h.fabricStatus_eq]
  generalize ∑ n ∈ Finset.range 8, h.statusBit nodes n * 2 ^ (1 * n) + h.bell.toNat * 2 ^ (1 * 8) = high at *
  generalize ∑ n ∈ Finset.range 8, h.statusCode nodes n * 2 ^ (3 * n) + high * 2 ^ (3 * 8) = x at *
  have narrow : h.bell.toNat < 2 ^ 32 := h.bell.isLt
  refine ⟨?_, fun n below => ⟨?_, ?_⟩⟩
  · rw [bits, field_ofNat _ (by decide), show (2 : Nat) ^ 32 = 2 ^ (3 * 8) * 2 ^ (1 * 8) from rfl, ← Nat.div_div_eq_div_mul, above, bell]
    exact Nat.mod_eq_of_lt narrow
  · rw [bits, field_ofNat _ (by omega), codes n below]
  · have flag := flags n below
    rw [← above, Nat.one_mul, Nat.div_div_eq_div_mul, ← pow_add] at flag
    rw [word, BitVec.getLsbD_ofNat, decide_eq_true (by omega : 24 + n < 64), Bool.true_and, Nat.testBit_eq_decide_div_mod_eq,
      show x / 2 ^ (24 + n) % 2 = h.statusBit nodes n from flag, Hart.statusBit]
    cases nodes.getLsbD n && (h.fnode n).watchdog <;> rfl

theorem fabricStat_eq {e : Entry} {nodes : BitVec 8} (fresh : e.skipped = false) (nonempty : nodes ≠ 0) :
    fabricStat e nodes = modHart fun h => h.returning (h.fabricStatus nodes) := by
  rw [fabricStat, fresh, if_neg nonempty]
  rfl

theorem fabricStatus : Claims.FabricStatus := by
  intro s nodes free nonempty
  obtain ⟨bell, fields⟩ := s.hart.fabricStatus_fields nodes
  have same (h : Hart) (x : Word) : h.returning x = h.laneResult h.vfile h.mfile h.vstat (h.srq ++ [⟨x, 1⟩]) h.bq := rfl
  obtain ⟨t, done, past⟩ := ((inViq_fstat nodes).undrawn free rfl).returns (fabricStat_eq (entryWith_skipped ..) nonempty) (same ..)
  refine ⟨t, s.hart.fabricStatus nodes, ((inViq_fstat nodes).issues s).trans done, past, bell, fun n below => ?_⟩
  obtain ⟨code, flag⟩ := fields n below
  refine ⟨code.trans ?_, flag⟩
  unfold Hart.statusCode
  cases (s.hart.fnode n).state <;> rfl

/-! ### The empty mask -/

theorem fabricEmptyMask : Claims.FabricEmptyMask := by
  intro s i form free handler
  obtain ⟨rs, viq, runs⟩ : ∃ rs, InViq i rs ∧ ∀ aux, runEntry (s.entryWith i rs aux) = operandTrap 3 := by
    obtain rfl | rfl | rfl | rfl | ⟨a, rfl⟩ := form
    · exact ⟨[], inViq_fstart 0, fun _ => fabricOp_empty (entryWith_skipped ..) _⟩
    · exact ⟨[], inViq_fstop 0, fun _ => fabricOp_empty (entryWith_skipped ..) _⟩
    · exact ⟨[], inViq_fdrain 0, fun _ => fabricOp_empty (entryWith_skipped ..) _⟩
    · refine ⟨[], inViq_fstat 0, fun aux => ?_⟩
      show fabricStat (s.entryWith (.fstat 0) [] aux) 0 = _
      rw [fabricStat, entryWith_skipped]
      rfl
    · exact ⟨[a], inViq_fload a 0, fun _ => fabricOp_empty (entryWith_skipped ..) _⟩
  rw [viq.issues]
  exact exists_engineTraps (addr := none) (gpa := 0) free (Or.inl rfl) viq.noRun rs handler (viq.access s) rfl fun aux r t _ => by
    rw [runs]
    rfl

end Sys2Proof.Machine
end

section
/-!
PROOFS. `fload` (08_gather_fabric.md R232, R243): the blocks are read behind its entry as they are read before it, and each named node and each
stream that a block names takes what its last block gives it.
-/

namespace Sys2Proof.Machine

open Sys2Proof.Claims

/-! ### Reading the blocks -/

theorem readBlock_ok (w : Agent) (a : Word) : AccessOk (readBlock w a) := (loadDws_ok ..).bind fun _ => AccessOk.pure _

theorem readBlock_blind {g : Hart → Hart} (unseen : Unseen g) (w : Agent) (a : Word) : Blind g (readBlock w a) :=
  (Blind.mapM (fun _ => (loadElem_blind unseen ..).bind fun _ => Blind.pure _) _).bind fun _ => Blind.pure _

/-- An entry behind its instruction is not what accesses look at. -/
theorem unseen_inViq (e : Entry) (r : Word) : Unseen (·.inViq e r) := ⟨fun _ => rfl, fun _ => rfl, fun _ => rfl, fun _ => rfl⟩

/-- Accesses that succeed do so for an engine. -/
theorem mapM_acc_ok {src : BitVec 4} {ei : Nat} {f : α → Acc β} {xs : List α} {ys : List β} {s t : State} (h : xs.mapM f s = .ok ys t) :
    (xs.mapM fun x => acc src ei (f x)) s = .ok ys t := by
  induction xs generalizing ys s with
  | nil => cases h; rfl
  | cons x xs ih =>
    rw [List.mapM_cons] at h
    obtain ⟨y, u, first, rest⟩ := exists_of_run_bind_ok h
    obtain ⟨zs, v, tail, last⟩ := exists_of_run_bind_ok rest
    cases last
    rw [List.mapM_cons, run_bind_ok (show acc src ei (f x) s = .ok y u by rw [acc, first]), run_bind_ok (ih tail)]
    rfl

/-- The blocks kept with the entry at the head of the VIQ. -/
def Hart.keepBlocks (bs : List (Vector Word 9)) (h : Hart) : Hart := { h with viq := modHead (fun e => { e with blocks := bs }) h.viq }

theorem fabricBlocks_ok {e : Entry} {a : Word} {n : Nat} {t u : State} {bs : List (Vector Word 9)} (unread : e.blocks = [])
    (read : (List.range n).mapM (fun i => readBlock t.hart.agent (a + word (72 * i))) t = .ok bs u) :
    fabricBlocks e a n t = .ok bs (u.mapHart (Hart.keepBlocks bs)) := by
  rw [fabricBlocks, unread]
  show (theHart >>= _) t = _
  rw [theHart_bind, run_bind_ok (mapM_acc_ok read)]
  rfl

/-! ### Physical nodes -/

/-- What a core's physical nodes are taken by is the runs and the nodes of its harts. -/
theorem State.physFree_setHart (s : State) {h : Hart} (run : h.run = s.hart.run) (nodes : h.fnodes = s.hart.fnodes) (core : Nat) :
    (s.setHart h).physFree core = s.physFree core := by
  have slot (i : Nat) : ((s.setHart h).harts[i]?).map (fun h => (h.run, h.fnodes)) = (s.harts[i]?).map fun h => (h.run, h.fnodes) := by
    rw [State.setHart, Vector.getElem?_set]
    split
    · next here =>
      subst here
      rw [Vector.getElem?_eq_getElem s.cur.isLt, Option.map_some, Option.map_some, run, nodes]
      rfl
    · rfl
  refine List.filter_congr fun p _ => congrArg (! ·) ?_
  unfold State.physBusy
  refine congrArg (List.any _) (funext fun k => ?_)
  have same := slot (4 * core + k)
  cases old : s.harts[4 * core + k]? with
  | none =>
    rw [old, Option.map_none, Option.map_eq_none_iff] at same
    rw [same]
  | some g =>
    rw [old, Option.map_some, Option.map_eq_some_iff] at same
    obtain ⟨g', found, fields⟩ := same
    obtain ⟨runs, taken⟩ := Prod.mk.inj fields
    rw [found]
    simp only [runs, taken]

/-- Accesses that leave the hart that moves leave every hart. -/
theorem AccessOnly.harts_of_kept {s t : State} (only : AccessOnly s t) (kept : t.hart = s.hart) : t.harts = s.harts := by
  obtain ⟨-, m, l, e, c, r, f, z, w, a, rfl, -⟩ := only
  have same : ({ s.harts[s.cur] with late := a } : Hart) = s.harts[s.cur] := by simpa [State.hart] using kept
  simp only [same]
  exact Vector.set_getElem_self _

theorem State.physFree_congr {s t : State} (same : t.harts = s.harts) (core : Nat) : t.physFree core = s.physFree core := by
  unfold State.physFree State.physBusy
  rw [same]

theorem physFree_lt {s : State} {core p : Nat} (free : p ∈ s.physFree core) : p < 8 := List.mem_range.1 (List.mem_filter.1 free).1

/-! ### Loading the nodes -/

/-- The named nodes that are IDLE. -/
def Hart.freshNodes (h : Hart) (nodes : BitVec 8) : List Nat := (named nodes).filter fun n => (h.fnode n).state = .idle

/-- The physical node of a node: the next free one for one of the fresh nodes, and the one it has for any other. -/
def physFor (fresh free : List Nat) (n : Nat) (old : BitVec 3) : Nat :=
  match fresh.findIdx? (· == n) with
  | some i => (free[i]?).getD 0
  | none => old.toNat

theorem physFor_fresh {fresh free : List Nat} {n : Nat} (listed : n ∈ fresh) (enough : fresh.length ≤ free.length) (old : BitVec 3) :
    physFor fresh free n old ∈ free := by
  unfold physFor
  cases found : fresh.findIdx? (· == n) with
  | none => simpa using List.findIdx?_eq_none_iff.1 found n listed
  | some i =>
    obtain ⟨below, -⟩ := List.findIdx?_eq_some_iff_getElem.1 found
    dsimp only
    rw [List.getElem?_eq_getElem (by omega), Option.getD_some]
    exact List.getElem_mem _

theorem physFor_other {fresh : List Nat} {n : Nat} (unlisted : n ∉ fresh) (free : List Nat) (old : BitVec 3) :
    physFor fresh free n old = old.toNat := by
  have missing : fresh.findIdx? (· == n) = none := List.findIdx?_eq_none_iff.2 fun m hm => by
    rw [beq_eq_false_iff_ne]
    rintro rfl
    exact unlisted hm
  rw [physFor, missing]

/-- A node that a block makes LOADED. -/
def loadedNode (b : Vector Word 9) (phys : Nat) : FabricNode :=
  { FabricNode.reset with state := .loaded, block := b, phys := BitVec.ofNat 3 phys, grows := blockFollow b }

/-- A stream that node `n` feeds by a block. -/
def fedStream (n : Nat) (b : Vector Word 9) : Stream :=
  { Stream.reset with kind := .fabric, desc := #v[0, word (blockTy b), 0, 0, 0], len := blockOuts b, node := BitVec.ofNat 3 n }

/-- The stream that a block delivers to; one that delivers to its router has none, which is the number behind the last. -/
def streamPlace (b : Vector Word 9) : Nat := if blockOut b then 16 else blockT b

/-- What `fload` does to the nodes. -/
def nodeLoads (fresh free : List Nat) (cs : List (Nat × Vector Word 9)) : List (Nat × (FabricNode → FabricNode)) :=
  cs.map fun c => (c.1, fun m => loadedNode c.2 (physFor fresh free c.1 m.phys))

/-- What it does to the streams. -/
def streamLoads (cs : List (Nat × Vector Word 9)) : List (Nat × (Stream → Stream)) := cs.map fun c => (streamPlace c.2, fun _ => fedStream c.1 c.2)

theorem Hart.modAt_fnodes (h : Hart) (n : Nat) (f : FabricNode → FabricNode) : modAt h.fnodes n (fun _ => f (h.fnode n)) = modAt h.fnodes n f := by
  unfold modAt
  split
  · next below => rw [Option.some.inj ((h.fnode_eq below).symm.trans (Vector.getElem?_eq_getElem below))]
  · rfl

theorem Hart.loadNode_eq (h : Hart) (fresh free : List Nat) (n : Nat) (b : Vector Word 9) :
    h.loadNode n (physFor fresh free n (h.fnode n).phys) b =
      { h with fnodes := modAt h.fnodes n fun m => loadedNode b (physFor fresh free n m.phys)
               streams := modAt h.streams (streamPlace b) fun _ => fedStream n b } := by
  rw [← h.modAt_fnodes n fun m => loadedNode b (physFor fresh free n m.phys)]
  unfold Hart.loadNode streamPlace
  cases blockOut b <;> rfl

theorem foldl_loadNode (fresh free : List Nat) (cs : List (Nat × Vector Word 9)) (h : Hart) :
    cs.foldl (fun h c => h.loadNode c.1 (physFor fresh free c.1 (h.fnode c.1).phys) c.2) h =
      { h with fnodes := changed h.fnodes (nodeLoads fresh free cs), streams := changed h.streams (streamLoads cs) } := by
  induction cs generalizing h with
  | nil => rfl
  | cons c cs ih =>
    rw [List.foldl_cons, ih, Hart.loadNode_eq]
    rfl

/-! ### The entry -/

/-- What the entry does once its blocks are read: nothing is waited for, and the nodes are loaded one after the other. `h` is the hart that the
reads leave, and `free` are the physical nodes that are then free. -/
theorem fabricLoad_ok {e : Entry} {nodes : BitVec 8} {a : Word} {t u : State} {h : Hart} {bs : List (Vector Word 9)} {free : List Nat}
    (start : e.skipped = false) (nonempty : nodes ≠ 0) (aligned : a.toNat % 8 = 0) (unread : e.blocks = [])
    (read : (List.range (named nodes).length).mapM (fun i => readBlock t.hart.agent (a + word (72 * i))) t = .ok bs u)
    (legal : ∀ b ∈ bs, blockOk b none = true) (atEnd : u.hart = h) (alone : h.piq = [])
    (rest : h.atRest (·.replaceable) (named nodes) = true) (unused : u.physFree h.core = free)
    (room : (h.freshNodes nodes).length + 2 ≤ free.length) :
    fabricLoad e nodes a t = .ok () (u.setHart ((h.keepBlocks bs).withFabric
      (changed h.fnodes (nodeLoads (h.freshNodes nodes) free ((named nodes).zip bs))) (changed h.streams (streamLoads ((named nodes).zip bs)))
      (otherTokens h nodes))) := by
  subst atEnd
  have lawful : ¬ bs.any (fun b => !blockOk b none) = true := by simpa using legal
  have kept : (u.mapHart (Hart.keepBlocks bs)).hart = u.hart.keepBlocks bs := State.mapHart_hart ..
  have resting : (u.mapHart (Hart.keepBlocks bs)).hart.atRest (·.replaceable) (named nodes) = true := by rw [kept]; exact rest
  have left : (u.setHart (u.hart.keepBlocks bs)).physFree (u.hart.keepBlocks bs).core = free :=
    (State.physFree_setHart u (h := u.hart.keepBlocks bs) rfl rfl u.hart.core).trans unused
  rw [fabricLoad, fabricOp_passes start nonempty, show maskNodes nodes = named nodes from rfl]
  refine (congrFun (if_neg (by rw [aligned]; decide)) t).trans ?_
  rw [run_bind_ok (fabricBlocks_ok unread read), if_neg lawful, theHart_bind, waitUnless_bind (by rw [kept]; simp [Hart.keepBlocks, alone]),
    run_bind_ok (fabricRest_ok resting), theHart_bind, kept]
  show (waitUnless (decide ((u.hart.freshNodes nodes).length + 2 ≤
    ((u.setHart (u.hart.keepBlocks bs)).physFree (u.hart.keepBlocks bs).core).length)) >>= _) _ = _
  rw [waitUnless_bind (by rw [left]; exact decide_eq_true room)]
  refine congrArg (EStateM.Result.ok ()) ?_
  rw [State.mapHart, State.hart_setHart, State.setHart_setHart]
  beta_reduce
  rw [Hart.dropLinks_named, left]
  exact congrArg u.setHart (foldl_loadNode (u.hart.freshNodes nodes) free ((named nodes).zip bs)
    { u.hart.keepBlocks bs with ftokens := otherTokens (u.hart.keepBlocks bs) nodes })

/-- The reads of an `fload` (08_gather_fabric.md R243). -/
def blockReads (h : Hart) (a : BitVec 6) (nodes : BitVec 8) : Acc (List (Vector Word 9)) :=
  (List.range (named nodes).length).mapM fun i => readBlock h.agent (h.sreg a + word (72 * i))

theorem blockReads_blind {g : Hart → Hart} (unseen : Unseen g) (h : Hart) (a : BitVec 6) (nodes : BitVec 8) : Blind g (blockReads h a nodes) :=
  Blind.mapM (fun _ => readBlock_blind unseen ..) _

theorem blockReads_ok (h : Hart) (a : BitVec 6) (nodes : BitVec 8) : AccessOk (blockReads h a nodes) := AccessOk.mapM (fun _ => readBlock_ok ..) _

/-- The entry of an `fload` whose blocks can be read and are legal, of nodes that it may replace. -/
theorem fload_runs {s t : State} {a : BitVec 6} {nodes : BitVec 8} {k : Option Work} {bs : List (Vector Word 9)} (nonempty : nodes ≠ 0)
    (aligned : (s.hart.sreg a).toNat % 8 = 0) (read : blockReads s.hart a nodes (s.atWork k) = .ok bs t) (legal : ∀ b ∈ bs, blockOk b none = true)
    (quiet : s.hart.quiet = true) (rest : s.hart.atRest (·.replaceable) (named nodes) = true)
    (room : (s.hart.freshNodes nodes).length + 2 ≤ (s.physFree s.hart.core).length) :
    let e := s.entryWith (.fload a nodes) [a] 0
    runEntry e ((s.atWork k).mapHart (·.inViq e s.hart.rng)) = .ok () (t.mapHart fun h => (h.inViq { e with blocks := bs } s.hart.rng).withFabric
      (changed s.hart.fnodes (nodeLoads (s.hart.freshNodes nodes) (s.physFree s.hart.core) ((named nodes).zip bs)))
      (changed s.hart.streams (streamLoads ((named nodes).zip bs))) (otherTokens s.hart nodes)) := by
  intro e
  have blind := blockReads_blind (unseen_inViq e s.hart.rng) s.hart a nodes
  have kept : t.hart = s.hart := blind.kept (s.atWork k) bs t read
  have harts : t.harts = s.harts := ((blockReads_ok ..).of_ok read).harts_of_kept kept
  have behind : (List.range (named nodes).length).mapM (fun i => readBlock ((s.atWork k).mapHart (·.inViq e s.hart.rng)).hart.agent
      (s.hart.sreg a + word (72 * i))) ((s.atWork k).mapHart (·.inViq e s.hart.rng)) = .ok bs (t.mapHart (·.inViq e s.hart.rng)) := by
    rw [State.mapHart_hart]
    exact blind.ok read
  have unused : (t.mapHart (·.inViq e s.hart.rng)).physFree (s.hart.inViq e s.hart.rng).core = s.physFree s.hart.core :=
    (State.physFree_setHart t (h := t.hart.inViq e s.hart.rng) rfl rfl s.hart.core).trans (State.physFree_congr harts s.hart.core)
  have atEnd : (t.mapHart (·.inViq e s.hart.rng)).hart = s.hart.inViq e s.hart.rng := by rw [State.mapHart_hart, kept]
  obtain ⟨-, alone, -⟩ := s.hart.quiet_iff.1 quiet
  refine (fabricLoad_ok (entryWith_skipped ..) nonempty aligned rfl behind legal atEnd alone rest unused room).trans
    (congrArg (EStateM.Result.ok ()) ?_)
  rw [State.mapHart, State.setHart_setHart, State.mapHart, kept]
  rfl

/-! ### What the nodes and the streams then are -/

section
variable {h : Hart} {nodes : BitVec 8} {bs : List (Vector Word 9)}

/-- A named node is LOADED with its block, at the physical node that is its own. -/
theorem fnode_of_nodeLoads {t : Hart} {fresh free : List Nat} (written : t.fnodes = changed h.fnodes (nodeLoads fresh free ((named nodes).zip bs)))
    (blocks : bs.length = (named nodes).length) {i n : Nat} {b : Vector Word 9} (node : (named nodes)[i]? = some n) (block : bs[i]? = some b) :
    t.fnode n = loadedNode b (physFor fresh free n (h.fnode n).phys) := by
  obtain ⟨below, -⟩ := mem_named.1 (List.mem_of_getElem? node)
  have keys : (nodeLoads fresh free ((named nodes).zip bs)).map Prod.fst = named nodes := List.map_map.trans (List.map_fst_zip blocks.ge)
  have once : ((nodeLoads fresh free ((named nodes).zip bs)).map Prod.fst).Nodup := by rw [keys]; exact named_nodup nodes
  have listed : (n, b) ∈ (named nodes).zip bs := List.mem_of_getElem? (List.getElem?_zip_eq_some.2 ⟨node, block⟩)
  rw [Hart.fnode, written, changed_once _ once (List.mem_map.2 ⟨_, listed, rfl⟩) below, h.fnode_eq below]
  rfl

/-- A node that is not named is as it was. -/
theorem fnode_of_nodeLoads_other {t : Hart} {fresh free : List Nat}
    (written : t.fnodes = changed h.fnodes (nodeLoads fresh free ((named nodes).zip bs))) {n : Nat} (unnamed : nodes.getLsbD n = false) :
    t.fnode n = h.fnode n := by
  rw [Hart.fnode, written, Hart.fnode]
  refine congrArg (·.getD FabricNode.reset) (changed_other h.fnodes fun c listed => ?_)
  obtain ⟨⟨m, b⟩, hm, rfl⟩ := List.mem_map.1 listed
  rintro rfl
  rw [(mem_named.1 (List.of_mem_zip hm).1).2] at unnamed
  cases unnamed

theorem blockT_lt (b : Vector Word 9) : blockT b < 16 := Nat.mod_lt _ (by decide)

/-- A stream is fed by the last block that names it. -/
theorem stream_of_streamLoads {t : Hart} (written : t.streams = changed h.streams (streamLoads ((named nodes).zip bs))) {i n : Nat}
    {b : Vector Word 9} (node : (named nodes)[i]? = some n) (block : bs[i]? = some b) (fed : blockOut b = false)
    (last : ∀ (j : Nat) (c : Vector Word 9), i < j → bs[j]? = some c → blockOut c = true ∨ blockT c ≠ blockT b) {y : BitVec 4}
    (place : y.toNat = blockT b) : t.stream y = fedStream n b := by
  have listed : (streamLoads ((named nodes).zip bs))[i]? = some (blockT b, fun _ => fedStream n b) := by
    rw [streamLoads, List.getElem?_map, (List.getElem?_zip_eq_some (z := (n, b))).2 ⟨node, block⟩, Option.map_some, streamPlace, fed]
    rfl
  have found := changed_at h.streams listed (blockT_lt b) fun j d later hd => by
    rw [streamLoads, List.getElem?_map, Option.map_eq_some_iff] at hd
    obtain ⟨⟨m, c⟩, hc, rfl⟩ := hd
    have other := last j c later (List.getElem?_zip_eq_some.1 hc).2
    show streamPlace c ≠ blockT b
    unfold streamPlace
    split
    · exact (blockT_lt b).ne'
    · next out => exact other.resolve_left out
  rw [← place, ← written, Vector.getElem?_eq_getElem y.isLt, Vector.getElem?_eq_getElem y.isLt] at found
  exact Option.some.inj found

/-- A stream that no block names is as it was. -/
theorem stream_of_streamLoads_other {t : Hart} (written : t.streams = changed h.streams (streamLoads ((named nodes).zip bs))) {y : BitVec 4}
    (unnamed : ∀ b ∈ bs, blockOut b = true ∨ blockT b ≠ y.toNat) : t.stream y = h.stream y := by
  have found := changed_other h.streams (cs := streamLoads ((named nodes).zip bs)) (i := y.toNat) fun d hd => by
    obtain ⟨⟨m, c⟩, hc, rfl⟩ := List.mem_map.1 hd
    show streamPlace c ≠ y.toNat
    unfold streamPlace
    split
    · exact y.isLt.ne'
    · next out => exact (unnamed c (List.of_mem_zip hc).2).resolve_left out
  rw [← written, Vector.getElem?_eq_getElem y.isLt, Vector.getElem?_eq_getElem y.isLt] at found
  exact Option.some.inj found

end

theorem fedStream_ty (n : Nat) (b : Vector Word 9) : (fedStream n b).ty = blockTy b := by
  have small : blockTy b < 2 ^ 4 := Nat.mod_lt _ (by decide)
  show (word (blockTy b)).toNat / 2 ^ 0 % 2 ^ 4 = blockTy b
  rw [field_ofNat _ (by decide), pow_zero, Nat.div_one, Nat.mod_eq_of_lt small]

theorem fabricLoadsBlocks : Claims.FabricLoadsBlocks := by
  intro s u a nodes bs h fresh free nonempty aligned rest read legal unloaded room
  obtain ⟨still, tokens⟩ := rest
  have replaceable : h.atRest (·.replaceable) (named nodes) = true := by
    refine Hart.atRest_named (fun n hn => ?_) tokens
    obtain ⟨below, bit⟩ := mem_named.1 hn
    have halted := still n below bit
    have unready := unloaded n hn
    cases state : (h.fnode n).state with
    | running => exact absurd state halted
    | loaded => exact absurd state unready
    | idle | stopped | done => rfl
  have kept : u.hart = s.hart := (blockReads_blind (unseen_inViq (s.entry (.fload a nodes) [a]) s.hart.rng) h a nodes).working_hart read
  have blocks : bs.length = (named nodes).length := by
    obtain ⟨k, t, ran, -⟩ := exists_of_working_ok read
    rw [length_of_mapM_ok ran, List.length_range]
  obtain ⟨t, done, past, nodesWritten, streamsWritten⟩ := (inViq_fload a nodes).fabricAccess free rfl read kept
    fun k t first => fload_runs nonempty aligned first legal free.1 replaceable room
  refine ⟨t, done, past, fun i n b node block => ⟨BitVec.ofNat 3 (physFor fresh (s.physFree h.core) n (h.fnode n).phys),
    fnode_of_nodeLoads nodesWritten blocks node block, fun listed => ?_, fun unlisted => ?_, fun fed last y place => ?_⟩,
    fun n _ unnamed => fnode_of_nodeLoads_other nodesWritten unnamed, fun y unnamed => stream_of_streamLoads_other streamsWritten unnamed⟩
  · have found := physFor_fresh listed (by omega : fresh.length ≤ (s.physFree h.core).length) (h.fnode n).phys
    rw [BitVec.toNat_ofNat, Nat.mod_eq_of_lt (physFree_lt found)]
    exact found
  · rw [physFor_other unlisted, BitVec.ofNat_toNat, BitVec.setWidth_eq]
  · have below : n < 8 := (mem_named.1 (List.mem_of_getElem? node)).1
    rw [stream_of_streamLoads streamsWritten node block fed last place]
    exact ⟨rfl, rfl, rfl, rfl, Nat.mod_eq_of_lt below, fedStream_ty n b⟩

/-- Settles O45: each node instruction is an entry alone in the VIQ, and changes the places of the nodes that its mask names. -/
theorem fabricNodes : Obligations.FabricNodes :=
  ⟨fabricLoadsBlocks, fabricStarts, fabricStops, fabricDrains, fabricStatus, fabricEmptyMask⟩

end Sys2Proof.Machine
end

section
/-!
PROOFS. ChainControl fails: `chfree` has nothing to release where the chain is in state NONE (09_chain.md R281), so it leaves such a chain
as it stands, and only a released one is as at reset.
-/

namespace Sys2Proof.Machine

open Sys2Proof.Claims

/-- Nothing holds back a `chfree` of a chain in state NONE whose pin is set, and the pin stays set. -/
theorem pinnedWithoutChain_chfree : Free pinnedWithoutChain .chfree ∧ leavesPin (exec .chfree pinnedWithoutChain) = true := by
  decide +kernel

/-- Refutes O47 in its clause on `chfree` with no run attached, which has the chain as at reset: one in state NONE is not released, and
keeps its pin. -/
theorem not_chainControl : ¬ Obligations.ChainControl := by
  unfold Obligations.ChainControl
  rintro ⟨-, -, -, -, -, -, -, -, -, -, released, -⟩
  obtain ⟨free, pin⟩ := pinnedWithoutChain_chfree
  obtain ⟨t, executed, past⟩ := released pinnedWithoutChain free
  rw [executed, leavesPin, past, State.hart_setHart] at pin
  exact absurd pin (by decide)

end Sys2Proof.Machine
end

section
/-!
PROOFS. ChainAndNodeEvents fails: where the arbiter takes stalls from a run (01_engines.md R29), the event looks at the core that SCOPE
names (`Hart.core`; 04_memory_model.md R117), and the statement at the core of the hart's slot. A hart starts, and comes back from a save,
with the SCOPE of its slot (`scopeWord`), but the statement is about every state and asks nothing of SCOPE.
-/

namespace Sys2Proof.Machine

open Sys2Proof.Claims

/-- The hart of slot 0, which is one of core 0, with a SCOPE that names core 1 and a standing run on its one stall. The ceiling of core 0
is 0, so that core is one stall short; core 1 has no hart and is short of none. -/
def scopeOfOtherCore : State :=
  let s := State.reset.withFetchWord 32 0
  { s.setHart { s.hart with scope := 0x4100006, grant := 0x10001, chain := { Chain.reset with state := .standing, stalls := 1 } } with
    stallCeil := s.stallCeil.set 0 0 }

/-- The hart that an answer has in slot 0 holds stalls. -/
def leavesStalls : Out → Bool
  | .next t => !(heldStalls t.harts[0].grant).isEmpty
  | .fault _ | .refused _ => false

/-- The hart of slot 0 in that state. -/
abbrev hartOfOtherCore : Hart := scopeOfOtherCore.harts[(0 : Fin 64)]

/-- Its run stands, without a lent stall; it holds one stall and has a target of 0, and core 0 is one stall short. -/
theorem scopeOfOtherCore_meets : scopeOfOtherCore.runs 0 = true ∧ hartOfOtherCore.chain.state = .standing ∧ hartOfOtherCore.chain.lent = [] ∧
    heldStalls hartOfOtherCore.grant = [0] ∧ hartOfOtherCore.target = 0 ∧
    (atSlot scopeOfOtherCore 0).stallsShort 0 hartOfOtherCore.scopePart 0 = 1 := by
  decide +kernel

/-- The arbiter finds core 1 short of no stall, and takes none. -/
theorem scopeOfOtherCore_chainBreak : leavesStalls (exec (.chainBreak 0 3 0) scopeOfOtherCore) = true := by
  decide +kernel

/-- Refutes O58 in its clause on a stall taken from a run: core 0 is short of the one stall that the hart of slot 0 holds, and the event
leaves it the stall, since its SCOPE names core 1. -/
theorem not_chainAndNodeEvents : ¬ Obligations.ChainAndNodeEvents := by
  unfold Obligations.ChainAndNodeEvents
  rintro ⟨breaks, -⟩
  obtain ⟨runs, stands, lent, own, target, short⟩ := scopeOfOtherCore_meets
  have keep : max hartOfOtherCore.target.toNat ((heldStalls hartOfOtherCore.grant).length -
      (atSlot scopeOfOtherCore 0).stallsShort 0 hartOfOtherCore.scopePart 0) = 0 := by
    rw [own, target, short]
    rfl
  have holds : 0 < (heldStalls hartOfOtherCore.grant).length := by
    rw [own]
    exact Nat.one_pos
  obtain ⟨-, -, taken, -⟩ := breaks scopeOfOtherCore 0 0 runs (.inl stands)
  have ends := taken (by rw [lent]; rfl) (lt_of_eq_of_lt keep holds)
  have left := scopeOfOtherCore_chainBreak
  rw [show exec _ _ = _ from ends] at left
  exact absurd left (by decide +kernel)

end Sys2Proof.Machine
end

section
/-!
PROOFS. MatrixTransfers and Pruning fail as the stores of vectors do (see `overlappingStore`): `mstc` and `mprune` translate the addresses that
they store to, and over tables that overlap the walk that sets A and D writes a whole entry over bytes that are no table entry. So they change
memory outside the places of their rows by more than A and D bits (04_memory_model.md R110).
-/

namespace Sys2Proof.Machine

open Sys2Proof.Claims

/-- Those tables, and a hart with a matrix unit that has a control word in s1. -/
def overlappingMatrix (x : Word) : State :=
  overlappingFabric.setHart { overlappingFabric.hart with units := 1, s := overlappingFabric.hart.s.set 1 x }

theorem overlappingMatrix_wf (x : Word) : Memory.wf (overlappingMatrix x).mem ∧ Memory.read (overlappingMatrix x).mem movedTo = 0 :=
  overlappingFabric_wf

/-- The stores of `mstc` of c0, with the control word in s1, at the address in s0 (10_matrix.md R308). -/
def storedTile (h : Hart) : Acc (List (List Nat)) :=
  let k := h.sreg 1
  let src := storeSrc k
  let w := tyWidth (storeDst k)
  let drawn := etRm h.et = 4 ∧ cvtStochastic src (storeDst k) = true
  let r (n : Nat) : Nat × Word := cvtElem src (storeDst k)
    (if etRm h.et = 4 then .rsr (draw (if drawn then h.rng else 0) n) else rmOf (etRm h.et)) (etSat h.et) (tileAt h 0 n)
  (List.range 32).mapM fun i =>
    putBytes h.agent (h.sreg 0 + BitVec.ofNat 64 (i * 4 * w)) (max 1 (w / 8)) (rowBytes w (fun n => (r n).1) i)

/-- Nothing holds an `mstc` to f4e2m1 back, it succeeds, and it writes the entry. -/
theorem overlappingMatrix_mstc : let s := overlappingMatrix 0x0E
    (Free s (.mstc 0 0 1) ∧ HasUnit s ∧ storeOk (s.hart.sreg 1) = true ∧ (s.hart.sreg 0).toNat % 32 = 0) ∧
    entryMoved (exec (.mstc 0 0 1) s) = true ∧
    givesOk (fun ls => sparesEntry ls.flatten) (working (storedTile s.hart) s) = true := by
  decide +kernel

/-- Refutes O37 in its clause on `mstc`, which writes the entry, whose V, R and W are set, over a byte that was zero and that no row stores
to. -/
theorem not_matrixTransfers : ¬ Obligations.MatrixTransfers := by
  unfold Obligations.MatrixTransfers
  rintro ⟨-, stores⟩
  obtain ⟨⟨free, unit, legal, aligned⟩, moved, gives⟩ := overlappingMatrix_mstc
  obtain ⟨wf, zero⟩ := overlappingMatrix_wf 0x0E
  obtain ⟨ls, u, stored, spares⟩ := exists_of_givesOk gives
  obtain ⟨t, executed, -, -, only⟩ := stores (overlappingMatrix 0x0E) u 0 0 1 ls free unit legal aligned stored
  exact not_storesOnly_of_wholeEntry moved executed spares zero (only wf)

/-- Nothing holds an `mprune` of i8 to f4e2m1 back that keeps one element of sixteen, it succeeds, and it writes the entry. -/
theorem overlappingMatrix_mprune : let s := overlappingMatrix 0xE31
    (Free s (.mprune 0 0 1) ∧ HasUnit s ∧ pruneOk (s.hart.sreg 1) = true ∧ (s.hart.sreg 0).toNat % 32 = 0) ∧
    entryMoved (exec (.mprune 0 0 1) s) = true ∧
    givesOk (fun r => sparesEntry r.1)
      (working (pruneAll s.hart.agent s.hart.et (s.hart.sreg 0) (s.hart.sreg 0) (s.hart.sreg 1)) s) = true := by
  decide +kernel

/-- Refutes O41 in its clause on the accesses of `mprune`, which writes the entry as `mstc` does. -/
theorem not_pruning : ¬ Obligations.Pruning := by
  unfold Obligations.Pruning
  rintro ⟨prunes, -⟩
  obtain ⟨⟨free, unit, legal, aligned⟩, moved, gives⟩ := overlappingMatrix_mprune
  obtain ⟨wf, zero⟩ := overlappingMatrix_wf 0xE31
  obtain ⟨⟨ls, fl⟩, u, stored, spares⟩ := exists_of_givesOk gives
  obtain ⟨t, executed, -, only⟩ := prunes (overlappingMatrix 0xE31) u 0 0 1 ls fl free unit legal aligned aligned stored
  exact not_storesOnly_of_wholeEntry moved executed spares zero (only wf)

end Sys2Proof.Machine
end

section
/-!
PROOFS. An entry alone in the MIQ: one whose accesses succeed and that then completes, one that traps behind its accesses, and one that
waits.
-/

namespace Sys2Proof.Machine

open Sys2Proof.Claims

/-- An instruction of the MIQ with some scalar operands, which draws nothing from the generator (03_arithmetic.md R88). -/
structure InMiq (i : Instr) (rs : List (BitVec 6)) : Prop where
  /-- It goes into the MIQ. -/
  issues : ∀ s, exec i s = issue i 3 rs s
  /-- It is no run. -/
  noRun : ∀ n, i ≠ .chrun n
  /-- It is no access of the fabric. -/
  access : ∀ s : State, (s.entry i rs).isAccess = false
  /-- It draws nothing. -/
  undrawn : ∀ h ops, Hart.draws h i ops = none

/-- A hart with an entry in its MIQ, past the instruction at which it was `h`. -/
def Hart.inMiq (g : Hart) (e : Entry) (h : Hart) : Hart := { g.after h with miq := [e] }

theorem Hart.issuedTo_miq (h : Hart) (e : Entry) : h.issuedTo 3 e h.rng = h.inMiq e h := rfl

theorem Hart.inMiq_alone {g : Hart} (quiet : g.quiet = true) (e : Entry) (h : Hart) : (g.inMiq e h).AloneIn 3 e := by
  obtain ⟨v, p, -⟩ := g.quiet_iff.1 quiet
  exact ⟨Or.inr (Or.inr rfl), v, p, rfl⟩

theorem Hart.popQueue_inMiq {g : Hart} (quiet : g.quiet = true) (e : Entry) (h : Hart) : (g.inMiq e h).popQueue 3 = g.after h := by
  obtain ⟨-, -, m⟩ := g.quiet_iff.1 quiet
  show { g.after h with miq := ([] : List Entry) } = g.after h
  rw [← m]
  rfl

/-- The package whose hart has an entry in its MIQ and is past the instruction. -/
def State.withMiq (s : State) (e : Entry) : State := s.mapHart fun h => h.inMiq e h

@[simp] theorem State.withMiq_hart (s : State) (e : Entry) : (s.withMiq e).hart = s.hart.inMiq e s.hart := State.hart_setHart ..

/-! ### A hart put in the place of another -/

/-- A hart, but for what accesses look at. -/
def Hart.becomes (g h : Hart) : Hart := { g with late := h.late, seq := h.seq, fn := h.fn }

theorem unseen_becomes (g : Hart) : Unseen g.becomes := ⟨fun _ => rfl, fun _ => rfl, fun _ => rfl, fun _ => rfl⟩

/-- Two harts are the same to an access. -/
structure Hart.SameSeen (g h : Hart) : Prop where
  /-- The request that is to fail. -/
  late : g.late = h.late
  /-- The launch. -/
  seq : g.seq = h.seq
  /-- The function. -/
  fn : g.fn = h.fn

theorem Hart.SameSeen.becomes {g h : Hart} (same : g.SameSeen h) : g.becomes h = g := by
  obtain ⟨late, seq, fn⟩ := same
  rw [Hart.becomes, ← late, ← seq, ← fn]

/-- Accesses that see no change of the hart. -/
abbrev Sightless (a : Acc α) : Prop := ∀ g : Hart → Hart, Unseen g → Blind g a

theorem Sightless.hart {a : Acc α} (sightless : Sightless a) {s t : State} {x : α} (h : a s = .ok x t) : t.hart = s.hart :=
  (sightless _ (unseen_becomes s.hart)).kept s x t h

/-- They do the same with another hart that is the same to them. -/
theorem Sightless.setHart {a : Acc α} (sightless : Sightless a) {s t : State} {x : α} (h : a s = .ok x t) {g : Hart} (same : g.SameSeen s.hart) :
    a (s.setHart g) = .ok x (t.setHart g) := by
  have moved := (sightless _ (unseen_becomes g)).ok h
  rwa [State.mapHart, State.mapHart, sightless.hart h, same.becomes] at moved

/-! ### What the entry ends in -/

theorem unseen_inMiq (e : Entry) : Unseen fun h => h.inMiq e h := ⟨fun _ => rfl, fun _ => rfl, fun _ => rfl, fun _ => rfl⟩

theorem issuing_miq (s : State) (i : Instr) (rs : List (BitVec 6)) : s.issuing 3 i rs 0 s.hart.rng = s.withMiq (s.entryWith i rs 0) := rfl

/-- A piece of work that ends in an error where another piece ends well: it is so at their ends as well. -/
theorem working_mapHart_error {m : EStateM ε State α} {m' : EStateM ε' State β} {s u : State} {x : α} {e : ε'} {g g' : Hart → Hart}
    (unseen : Unseen g') (h : ∀ k t, m (s.atWork k) = .ok x t → m' ((s.mapHart g).atWork k) = .error e (t.mapHart g')) (hm : working m s = .ok x u) :
    working m' (s.mapHart g) = .error e (u.mapHart g') := by
  cases hw : s.work with
  | some k =>
    rw [working_of_isSome m (by rw [hw]; rfl)] at hm
    rw [working_of_isSome m' (by rw [show (s.mapHart g).work = s.work from rfl, hw]; rfl)]
    exact h s.work u hm
  | none =>
    rw [working_of_none m hw] at hm
    cases hr : m (s.atWork (some ⟨[], []⟩)) with
    | error e t => rw [hr] at hm; cases hm
    | ok z t =>
      rw [hr] at hm
      cases hm
      rw [working_of_none m' (show (s.mapHart g).work = none from hw), h _ _ hr]
      exact congrArg (EStateM.Result.error e) (State.closeWork_mapHart t unseen)

/-- An entry of the MIQ that its engine stops at its first element (01_engines.md R20; 05_hart.md R165). -/
theorem engineTraps_withMiq {s : State} {e : Entry} (quiet : s.hart.quiet = true) (handler : HasHandler s) (start : e.prog = 0)
    (pc : e.pc = s.hart.pc) (access : e.isAccess = false) {code : BitVec 8} (src : BitVec 4) (addr : Option Word) (gpa : Word)
    (hc : toRecord code = false) :
    EngineTraps s ((s.withMiq e).takeEngineTrap 3 code src addr gpa 0) e.instr 3 code src (addr.getD s.hart.faddr) := by
  have alone : (s.withMiq e).hart.AloneIn 3 e := by rw [State.withMiq_hart]; exact Hart.inMiq_alone quiet e s.hart
  have handler' : HasHandler (s.withMiq e) := by rw [HasHandler, State.withMiq_hart]; exact handler
  have enters := entersEngine_takeEngineTrap (src := src) (addr := addr) (gpa := gpa) alone.head handler' hc
  have held := Hart.engineEntry_alone alone.atTrap code src addr 0
  have entered := State.takeEngineTrap_handler (src := src) (addr := addr) (gpa := gpa) alone.head handler' hc
  rw [show e.prog.toNat = 0 by rw [start]; rfl] at enters entered
  have same : ((s.withMiq e).takeEngineTrap 3 code src addr gpa 0).hart.held =
      (((s.withMiq e).hart.atTrap 3 e).engineEntry 3 code src addr 0).held := by rw [entered, State.hart_setHart]
  rw [← same, Hart.sized_instr] at held
  obtain ⟨head, others⟩ := held
  obtain ⟨cause, ei, epc, faddr, -, queue, heldPc, heldLd, heldSrq, heldBq, th, heldBit, status, state⟩ := enters
  have tolls : tollFree (s.withMiq e) = (tollFree s).mapHart fun h => h.inMiq e h := tollFree_mapHart s rfl
  have chain : ((s.hart.inMiq e s.hart).breakChain 8 0).chain = (s.hart.breakChain 8 0).chain :=
    Hart.breakChain_chain_congr (h := s.hart.inMiq e s.hart) (k := s.hart) rfl 8 0
  have cmask : stoppedMask e s.hart.cmask = s.hart.cmask := if_neg (by simp [access])
  generalize (s.withMiq e).takeEngineTrap 3 code src addr gpa 0 = t at *
  have zero : t.hart.ei = 0 := ei.trans (by rw [start]; rfl)
  rw [State.withMiq_hart] at *
  rw [tolls, State.mapHart, State.setHart_setHart, chain, show (s.hart.inMiq e s.hart).cmask = s.hart.cmask from rfl, cmask, zero] at state
  have rng : t.hart.rng = s.hart.rng := by rw [state, State.hart_setHart]; rfl
  obtain ⟨v, p, m⟩ := s.hart.quiet_iff.1 quiet
  refine ⟨cause, zero, epc.trans (by rw [pc]), faddr, head, others, queue, heldPc, heldLd, heldSrq, heldBq, th, heldBit, status, fun _ => rng, ?_⟩
  rw [rng]
  refine state.trans ?_
  simp only [v, p, m]
  rfl

section
variable {s u : State} {i : Instr} {rs : List (BitVec 6)} (miq : InMiq i rs) (free : Free s i)
include miq free

/-- How its engine finds it. -/
theorem InMiq.issued : Issues s 3 i rs 0 s.hart.rng := issues_undrawn free (Or.inr (Or.inr rfl)) miq.noRun rs (miq.undrawn ..)

/-- Its entry completes, with the hart as `g` behind it. The entry may have changed to `e` in the meantime. -/
theorem InMiq.ends {g : Hart} {e : Entry} (quiet : g.quiet = true)
    (body : working (runEntry (s.entryWith i rs 0)) (s.withMiq (s.entryWith i rs 0)) = .ok () (u.setHart (g.inMiq e s.hart))) :
    exec i s = .next (u.setHart (g.after s.hart)) := by
  rw [miq.issues, (miq.issued free).taken, State.tryHead, issuing_miq, body]
  simp only [State.hart_setHart, State.setHart_setHart, Hart.popQueue_inMiq quiet]
  rw [State.pumpFor_quiet (by rw [State.hart_setHart]; exact quiet)]

/-- One whose accesses `a` succeed and whose entry then completes. -/
theorem InMiq.completes {a : Acc α} (sightless : Sightless a) {x : α} (read : working a s = .ok x u) {g : Hart} {e : Entry}
    (same : g.SameSeen s.hart) (quiet : g.quiet = true)
    (runs : ∀ t v, (∃ k, t = (s.withMiq (s.entryWith i rs 0)).atWork k) → t.hart = s.hart.inMiq (s.entryWith i rs 0) s.hart →
      v.hart = s.hart.inMiq (s.entryWith i rs 0) s.hart → a t = .ok x v →
      runEntry (s.entryWith i rs 0) t = .ok () (v.setHart (g.inMiq e s.hart))) :
    exec i s = .next (u.setHart (g.after s.hart)) ∧ u.hart = s.hart := by
  have kept : u.hart = s.hart := (sightless _ (unseen_becomes s.hart)).working_hart read
  have ends (t : State) (h : t.hart = s.hart) : t.mapHart (g.inMiq e s.hart).becomes = t.setHart (g.inMiq e s.hart) := by
    have seen : (g.inMiq e s.hart).SameSeen s.hart := ⟨same.late, same.seq, same.fn⟩
    rw [State.mapHart, h, seen.becomes]
  refine ⟨miq.ends free (e := e) quiet ?_, kept⟩
  refine (working_mapHart (unseen_becomes (g.inMiq e s.hart)) (fun k t first => ?_) read).trans (congrArg _ (ends u kept))
  have here : t.hart = s.hart := sightless.hart (s := s.atWork k) first
  have behind : a ((s.withMiq (s.entryWith i rs 0)).atWork k) = .ok x (t.withMiq (s.entryWith i rs 0)) :=
    (sightless _ (unseen_inMiq (s.entryWith i rs 0))).ok first
  refine (runs _ _ ⟨k, rfl⟩ (State.withMiq_hart ..) (by rw [State.withMiq_hart, here]) behind).trans ?_
  rw [ends t here, State.withMiq, State.mapHart, State.setHart_setHart]

/-- One that makes no access. -/
theorem InMiq.completes_here {g : Hart} {e : Entry} (same : g.SameSeen s.hart) (quiet : g.quiet = true)
    (runs : ∀ t, t.hart = s.hart.inMiq (s.entryWith i rs 0) s.hart →
      runEntry (s.entryWith i rs 0) t = .ok () (t.setHart (g.inMiq e s.hart))) :
    exec i s = .next (s.setHart (g.after s.hart)) := by
  have nothing : working (pure () : Acc Unit) s = .ok () s := working_eq (fun _ => rfl) rfl
  refine (miq.completes free (e := e) (fun _ _ => Blind.pure ()) nothing same quiet fun t v _ here _ done => ?_).1
  cases done
  exact runs t here

/-- One that its engine stops at once, without an access. -/
theorem InMiq.stops (handler : HasHandler s) {code : BitVec 8} {src : BitVec 4} {addr : Option Word} {gpa : Word} (hc : toRecord code = false)
    (runs : ∀ aux r t, t.hart = s.hart.issuedTo 3 (s.entryWith i rs aux) r →
      runEntry (s.entryWith i rs aux) t = .error (.trap code src addr gpa 0) t) :
    ∃ t, exec i s = .next t ∧ EngineTraps s t i 3 code src (addr.getD s.hart.faddr) := by
  rw [miq.issues]
  exact exists_engineTraps free (Or.inr (Or.inr rfl)) miq.noRun rs handler (miq.access s) hc runs

/-- One whose accesses `a` succeed and whose entry is then stopped, without another access. -/
theorem InMiq.stops_behind (handler : HasHandler s) {a : Acc α} (sightless : Sightless a) {x : α} (read : working a s = .ok x u)
    {code : BitVec 8} {src : BitVec 4} {addr : Option Word} {gpa : Word} (hc : toRecord code = false)
    (runs : ∀ t v, (∃ k, t = (s.withMiq (s.entryWith i rs 0)).atWork k) → t.hart = s.hart.inMiq (s.entryWith i rs 0) s.hart →
      a t = .ok x v → runEntry (s.entryWith i rs 0) t = .error (.trap code src addr gpa 0) v) :
    ∃ t, exec i s = .next t ∧ EngineTraps u t i 3 code src (addr.getD s.hart.faddr) := by
  have kept : u.hart = s.hart := (sightless _ (unseen_becomes s.hart)).working_hart read
  have body : working (runEntry (s.entryWith i rs 0)) (s.withMiq (s.entryWith i rs 0)) =
      .error (.trap code src addr gpa 0) (u.withMiq (s.entryWith i rs 0)) := by
    refine working_mapHart_error (unseen_inMiq (s.entryWith i rs 0)) (fun k t first => ?_) read
    exact runs _ _ ⟨k, rfl⟩ (State.withMiq_hart ..) ((sightless _ (unseen_inMiq (s.entryWith i rs 0))).ok first)
  refine ⟨(u.withMiq (s.entryWith i rs 0)).takeEngineTrap 3 code src addr gpa 0, ?_, ?_⟩
  · rw [miq.issues, (miq.issued free).taken, State.tryHead, issuing_miq, body]
  · rw [← kept]
    exact engineTraps_withMiq (by rw [kept]; exact free.1) (by rw [HasHandler, kept]; exact handler) rfl (by rw [kept]; rfl) (miq.access s)
      src addr gpa hc

/-- One that waits, and not on fabric work, stays in the MIQ. -/
theorem InMiq.waits (elsewhere : ∀ h : Hart, h.onFabric i = false)
    (runs : ∀ t, t.hart = s.hart.inMiq (s.entryWith i rs 0) s.hart → runEntry (s.entryWith i rs 0) t = .error .wait t) :
    exec i s = .next (s.withMiq (s.entryWith i rs 0)) := by
  have body : working (runEntry (s.entryWith i rs 0)) (s.withMiq (s.entryWith i rs 0)) = .error .wait (s.withMiq (s.entryWith i rs 0)) :=
    working_eq (fun k => runs _ (State.withMiq_hart ..)) rfl
  rw [miq.issues, (miq.issued free).taken, State.tryHead, issuing_miq, body]
  simp only [show (s.entryWith i rs 0).instr = i from rfl, elsewhere, Bool.and_false, Bool.false_eq_true, if_false]

end

end Sys2Proof.Machine
end

section
/-!
PROOFS. `mskip` (10_matrix.md R310).
-/

namespace Sys2Proof.Machine

open Sys2Proof.Claims

/-- A bit of a word behind a bit set, which may lie outside it. -/
theorem withBit_getLsbD_of_lt (w : Word) (i : Nat) (b : Bool) {k : Nat} (below : k < 64) :
    (withBit w i b).getLsbD k = if k = i then b else w.getLsbD k := by
  by_cases inside : i < 64
  · exact withBit_getLsbD w i k b inside
  · have other : k ≠ i := by omega
    rw [if_neg other, withBit]
    cases b <;> simp [below, other]

/-- Bits set one after the other from the places of a list (10_matrix.md R310). -/
theorem foldl_withBit_getLsbD (p : Nat → Bool) (us : List Nat) {g : Nat} (below : g < 64) :
    (us.zipIdx.foldl (fun (w : Word) (x : Nat × Nat) => withBit w x.2 (p x.1)) 0).getLsbD g = (us[g]?).any p := by
  induction us using List.reverseRecOn with
  | nil => simp
  | append_singleton us u ih =>
    rw [List.zipIdx_append, List.foldl_append]
    show (withBit _ (0 + us.length) (p u)).getLsbD g = _
    rw [Nat.zero_add, withBit_getLsbD_of_lt _ _ _ below, ih]
    obtain before | rfl | behind := Nat.lt_trichotomy g us.length
    · rw [if_neg before.ne, List.getElem?_append_left before]
    · simp
    · rw [if_neg behind.ne', List.getElem?_eq_none behind.le, List.getElem?_eq_none (by rw [List.length_append, List.length_singleton]; omega)]

/-- A hart with a unit, of which a restore requests nothing, passes `needUnit` (10_matrix.md R301). -/
theorem needUnit_ok {t : State} (settled : t.hart.unitsDue = false) (unit : t.hart.units ≠ 0) : needUnit t = .ok () t :=
  (needUnit_of_not_due settled).trans (if_neg unit)

theorem matrixAlign_ok {a : Word} {n : Nat} (aligned : a.toNat % n = 0) (t : State) : matrixAlign a n t = .ok () t :=
  congrFun (if_pos aligned) t

theorem acc_ok {a : Acc α} {src : BitVec 4} {ei : Nat} {s t : State} {x : α} (h : a s = .ok x t) : acc src ei a s = .ok x t := by
  rw [acc, h]

/-- The reads of `mskip`: the block maxima, `nb` of them, and the row bounds (10_matrix.md R310). -/
def skipReads (w : Agent) (a b : Word) (nb : Nat) : Acc (List Nat × List Nat) := do
  let us ← (List.range nb).mapM fun g => loadElem w (a + BitVec.ofNat 64 (4 * g)) 4
  let ms ← (List.range 32).mapM fun i => loadElem w (b + BitVec.ofNat 64 (4 * i)) 4
  pure (us, ms)

theorem skipReads_sightless (w : Agent) (a b : Word) (nb : Nat) : Sightless (skipReads w a b nb) := fun _ unseen =>
  (Blind.mapM (fun _ => loadElem_blind unseen ..) _).bind fun _ => (Blind.mapM (fun _ => loadElem_blind unseen ..) _).bind fun _ => Blind.pure _

/-- The skip mask that `mskip` builds (10_matrix.md R310). -/
def skipWord (x : Word) (us ms : List Nat) : Word :=
  us.zipIdx.foldl (fun (w : Word) (y : Nat × Nat) =>
    withBit w y.2 (ms.all fun m => sumBelow (fmtF32.decode y.1) (fmtF32.decode (bits x 0 32)) (fmtF32.decode m))) 0

theorem matrixSkip_ok {e : Entry} {a b x : Word} {t v : State} {us ms : List Nat} (fresh : e.skipped = false)
    (settled : t.hart.unitsDue = false) (unit : t.hart.units ≠ 0) (legal : bits x 38 26 = 0) (aligned : a.toNat % 4 = 0)
    (aligned' : b.toNat % 4 = 0) (read : skipReads t.hart.agent a b (bits x 32 6 + 1) t = .ok (us, ms) v) :
    matrixSkip e a b x t = .ok () (v.mapHart fun h => { h with skip := skipWord x us ms, skipV := true }) := by
  obtain ⟨us', r, first, rest⟩ := exists_of_run_bind_ok read
  obtain ⟨ms', v', second, last⟩ := exists_of_run_bind_ok rest
  cases last
  rw [matrixSkip, fresh, if_neg Bool.false_ne_true, run_bind_ok (needUnit_ok settled unit)]
  refine (congrFun (if_neg (not_not.2 legal)) t).trans ?_
  rw [run_bind_ok (matrixAlign_ok aligned t), run_bind_ok (matrixAlign_ok aligned' t), theHart_bind, run_bind_ok (acc_ok first),
    run_bind_ok (acc_ok second)]
  rfl

theorem inMiq_mskip (a b x : BitVec 6) : InMiq (.mskip a b x) [a, b, x] := ⟨fun _ => rfl, nofun, fun _ => rfl, fun _ _ => rfl⟩

/-- `mskip` with legal operands builds the mask from its reads. -/
theorem skipMask : Claims.SkipMask := by
  intro s u a b x us ms free unit h nb legal aligned aligned' read
  let mask := skipWord (h.sreg x) us ms
  obtain ⟨done, kept⟩ := (inMiq_mskip a b x).completes free (skipReads_sightless h.agent (h.sreg a) (h.sreg b) nb) read
    (e := s.entryWith (.mskip a b x) [a, b, x] 0) (g := { s.hart with skip := mask, skipV := true }) ⟨rfl, rfl, rfl⟩ free.1
    fun t v _ here later again => by
      have found : t.hart.agent = s.hart.agent := by rw [here]; rfl
      refine (matrixSkip_ok (entryWith_skipped ..) (by rw [here]; exact free.2.2.1) (by rw [here]; exact unit) legal aligned aligned'
        (by rw [found]; exact again)).trans ?_
      rw [State.mapHart, later]
      rfl
  refine ⟨_, done, ?_, fun g below => ?_⟩
  · rw [Past, State.hart_setHart, kept]
    rfl
  · rw [State.hart_setHart]
    show (skipWord (h.sreg x) us ms).getLsbD g = true ↔ _
    rw [skipWord, foldl_withBit_getLsbD (fun y => ms.all fun m => sumBelow (fmtF32.decode y) (fmtF32.decode (bits (h.sreg x) 0 32)) (fmtF32.decode m)) us below]
    simp only [Option.any_eq_true, List.all_eq_true]

end Sys2Proof.Machine
end

section
/-!
PROOFS. What the unit arbiter of a core does with the hart that moves changed (10_matrix.md R300), and what it leaves alone.
-/

namespace Sys2Proof.Machine

open Sys2Proof.Claims

/-! ### The arbiter in parts -/

/-- A hart is served: it has one unit of the pool, and takes more of it up to its request (10_matrix.md R300). -/
def unitGrant (acc : List (Nat × Nat) × Nat) (x : Nat × Hart) : List (Nat × Nat) × Nat :=
  (acc.1 ++ [(x.1, 1 + min acc.2 (x.2.mreq.toNat - 1))], acc.2 - min acc.2 (x.2.mreq.toNat - 1))

/-- The targets that are not 0, by hart number. -/
def unitTargets (now : Word) (pool : Nat) (hs : List (Nat × Hart)) : List (Nat × Nat) :=
  let first := (sortBy (unitFirst now) (hs.filter fun x => x.2.mreq != 0)).take pool
  (first.foldl unitGrant ([], pool - first.length)).1

/-- A hart with its target. -/
def withTarget (now : Word) (ts : List (Nat × Nat)) (x : Nat × Hart) : Nat × Hart :=
  match ts.lookup x.1 with
  | some t => (x.1, { x.2 with unitTarget := BitVec.ofNat 2 t, unitSince := now })
  | none => (x.1, { x.2 with unitTarget := 0 })

theorem State.arbitrateUnits_eq (s : State) (core : Nat) : s.arbitrateUnits core = s.putHarts core
    ((s.residents core).map (withTarget s.time (unitTargets s.time (min 3 ((s.unitCeil[core]?).getD 0)) (s.residents core)))) := rfl

theorem insertBy_map {f : α → α} {le : α → α → Bool} (same : ∀ x y, le (f x) (f y) = le x y) (x : α) (ys : List α) :
    insertBy le (f x) (ys.map f) = (insertBy le x ys).map f := by
  induction ys with
  | nil => rfl
  | cons y ys ih =>
    rw [List.map_cons, insertBy, insertBy, same, ih]
    split <;> rfl

theorem sortBy_map {f : α → α} {le : α → α → Bool} (same : ∀ x y, le (f x) (f y) = le x y) (xs : List α) :
    sortBy le (xs.map f) = (sortBy le xs).map f := by
  induction xs with
  | nil => rfl
  | cons x xs ih => rw [List.map_cons, sortBy, ih, insertBy_map same, sortBy]

/-! ### With the hart that moves changed -/

/-- A change of a hart that leaves what the unit arbiter looks at, and commutes with what it computes. -/
structure Unarbitrated (g : Hart → Hart) : Prop where
  /-- It runs as before. -/
  run : ∀ h, (g h).run = h.run
  /-- The priority. -/
  lease : ∀ h, (g h).lease = h.lease
  /-- The age. -/
  since : ∀ h, (g h).unitSince = h.unitSince
  /-- The request. -/
  mreq : ∀ h, (g h).mreq = h.mreq
  /-- A request is noted before the change or after it. -/
  asks : ∀ h r, g { h with mreq := r } = { g h with mreq := r }
  /-- So is a target that is not 0. -/
  serves : ∀ h t n, g { h with unitTarget := t, unitSince := n } = { g h with unitTarget := t, unitSince := n }
  /-- So is one that is 0. -/
  passes : ∀ h, g { h with unitTarget := 0 } = { g h with unitTarget := 0 }

/-- The hart of slot `i` changed among the numbered harts of a core. -/
def changedSlot (core i : Nat) (g : Hart → Hart) (x : Nat × Hart) : Nat × Hart := (x.1, if 4 * core + x.1 = i then g x.2 else x.2)

theorem State.mapHart_harts (s : State) (g : Hart → Hart) : (s.mapHart g).harts = modAt s.harts s.cur g := by
  rw [modAt, dif_pos s.cur.isLt]
  rfl

/-- A hart put in its slot, before its change or after it. -/
theorem modAt_put (v : Vector α n) (i j : Nat) (g : α → α) (h : α) :
    modAt (modAt v i g) j (fun _ => if j = i then g h else h) = modAt (modAt v j fun _ => h) i g := by
  unfold modAt
  by_cases same : j = i
  · subst same
    split <;> simp
  · simp only [if_neg same]
    split <;> split
    · next below inside => rw [Vector.set_comm _ _ (Ne.symm same), Vector.getElem_set_ne _ _ same]
    all_goals rfl

section
variable {g : Hart → Hart} (unseen : Unarbitrated g) {core i : Nat}
include unseen

/-- What the arbiter looks at of a hart in its slot is not changed. -/
theorem changedSlot_same (x : Nat × Hart) : (changedSlot core i g x).2.run = x.2.run ∧ (changedSlot core i g x).2.lease = x.2.lease ∧
    (changedSlot core i g x).2.unitSince = x.2.unitSince ∧ (changedSlot core i g x).2.mreq = x.2.mreq := by
  unfold changedSlot
  dsimp only
  split
  · exact ⟨unseen.run _, unseen.lease _, unseen.since _, unseen.mreq _⟩
  · exact ⟨rfl, rfl, rfl, rfl⟩

theorem unitFirst_changedSlot (now : Word) (x y : Nat × Hart) :
    unitFirst now (changedSlot core i g x) (changedSlot core i g y) = unitFirst now x y := by
  obtain ⟨-, lease, since, -⟩ := changedSlot_same (core := core) (i := i) unseen x
  obtain ⟨-, lease', since', -⟩ := changedSlot_same (core := core) (i := i) unseen y
  unfold unitFirst Hart.prio
  rw [lease, lease', since, since']
  rfl

theorem unitTargets_changedSlot (now : Word) (pool : Nat) (hs : List (Nat × Hart)) :
    unitTargets now pool (hs.map (changedSlot core i g)) = unitTargets now pool hs := by
  have asking : (fun x : Nat × Hart => x.2.mreq != 0) ∘ changedSlot core i g = fun x => x.2.mreq != 0 :=
    funext fun x => congrArg (· != 0) (changedSlot_same unseen x).2.2.2
  have grants (acc : List (Nat × Nat) × Nat) (x : Nat × Hart) : unitGrant acc (changedSlot core i g x) = unitGrant acc x := by
    rw [unitGrant, (changedSlot_same unseen x).2.2.2]
    rfl
  unfold unitTargets
  simp only [List.filter_map, asking, sortBy_map (unitFirst_changedSlot unseen now), ← List.map_take, List.length_map, List.foldl_map, grants]

theorem withTarget_changedSlot (now : Word) (ts : List (Nat × Nat)) (x : Nat × Hart) :
    withTarget now ts (changedSlot core i g x) = changedSlot core i g (withTarget now ts x) := by
  unfold withTarget
  rw [show (changedSlot core i g x).1 = x.1 from rfl]
  unfold changedSlot
  by_cases here : 4 * core + x.1 = i
  · cases ts.lookup x.1 with
    | some t =>
      dsimp only
      rw [if_pos here, if_pos here]
      exact congrArg (Prod.mk x.1) (unseen.serves x.2 ..).symm
    | none =>
      dsimp only
      rw [if_pos here, if_pos here]
      exact congrArg (Prod.mk x.1) (unseen.passes x.2).symm
  · cases ts.lookup x.1 with
    | some t =>
      dsimp only
      rw [if_neg here, if_neg here]
    | none =>
      dsimp only
      rw [if_neg here, if_neg here]

variable (s : State)

theorem State.residents_mapHart : (s.mapHart g).residents core = (s.residents core).map (changedSlot core s.cur g) := by
  have slots (k : Nat) : ((s.mapHart g).harts[4 * core + k]?).map (fun h => (k, h)) =
      ((s.harts[4 * core + k]?).map fun h => (k, h)).map (changedSlot core s.cur g) := by
    rw [State.mapHart_harts, Option.map_map]
    by_cases here : 4 * core + k = s.cur
    · rw [here, modAt_getElem?_self s.cur.isLt, Option.map_map]
      exact congrArg (Option.map · _) (funext fun h => by simp [changedSlot, here])
    · rw [modAt_getElem?_ne _ here]
      exact congrArg (Option.map · _) (funext fun h => by simp [changedSlot, here])
  have resident : (fun x : Nat × Hart => x.2.resident) ∘ changedSlot core s.cur g = fun x => x.2.resident := funext fun x => by
    show (changedSlot core s.cur g x).2.resident = x.2.resident
    rw [Hart.resident, (changedSlot_same unseen x).1, Hart.resident]
  unfold State.residents
  rw [funext slots, ← List.map_filterMap, List.filter_map, resident]

omit unseen in
theorem State.putHarts_mapHart (hs : List (Nat × Hart)) :
    (s.mapHart g).putHarts core (hs.map (changedSlot core s.cur g)) = (s.putHarts core hs).mapHart g := by
  have slots (v : Vector Hart 64) : (hs.map (changedSlot core s.cur g)).foldl (fun v x => modAt v (4 * core + x.1) fun _ => x.2) (modAt v s.cur g) =
      modAt (hs.foldl (fun v x => modAt v (4 * core + x.1) fun _ => x.2) v) s.cur g := by
    induction hs generalizing v with
    | nil => rfl
    | cons x hs ih =>
      rw [List.map_cons, List.foldl_cons, List.foldl_cons, ← ih]
      exact congrArg (fun v => (hs.map (changedSlot core s.cur g)).foldl (fun v x => modAt v (4 * core + x.1) fun _ => x.2) v)
        (modAt_put v s.cur (4 * core + x.1) g x.2)
  have harts := (State.mapHart_harts (s.putHarts core hs) g).symm
  unfold State.putHarts at harts ⊢
  rw [State.mapHart_harts, slots]
  exact congrArg (fun v => { s with harts := v }) harts

/-- The arbiter does the same with a hart changed that moves. -/
theorem State.arbitrateUnits_mapHart : (s.mapHart g).arbitrateUnits core = (s.arbitrateUnits core).mapHart g := by
  rw [State.arbitrateUnits_eq, State.arbitrateUnits_eq, ← State.putHarts_mapHart, State.residents_mapHart unseen,
    unitTargets_changedSlot unseen, List.map_map, List.map_map]
  exact congrArg _ (List.map_congr_left fun x _ => withTarget_changedSlot unseen ..)

/-- A request is noted and served the same. -/
theorem State.requestUnits_mapHart (r : BitVec 2) : (s.mapHart g).requestUnits r = (s.requestUnits r).mapHart g := by
  unfold State.requestUnits
  rw [State.mapHart_hart, unseen.mreq]
  split
  · rfl
  · rw [show (s.mapHart g).cur = s.cur from rfl, ← State.arbitrateUnits_mapHart unseen]
    refine congrArg (State.arbitrateUnits · _) ?_
    rw [State.mapHart, State.mapHart, State.hart_setHart, State.setHart_setHart, State.setHart_setHart]
    exact congrArg s.setHart (unseen.asks s.hart r).symm

end

/-! ### What a request leaves alone -/

/-- A hart but for what the unit arbiter computes. -/
def Hart.unarbitrated (h : Hart) : Hart := { h with mreq := 0, unitTarget := 0, unitSince := 0 }

theorem State.getElem?_of_mem_residents {s : State} {core : Nat} {x : Nat × Hart} (resident : x ∈ s.residents core) :
    s.harts[4 * core + x.1]? = some x.2 := by
  obtain ⟨found, -⟩ := List.mem_filter.1 resident
  obtain ⟨k, -, slot⟩ := List.mem_filterMap.1 found
  obtain ⟨h, here, rfl⟩ := Option.map_eq_some_iff.1 slot
  exact here

/-- Putting harts back in slots that look the same leaves every slot looking the same. -/
theorem State.putHarts_looks {s : State} {core : Nat} {hs : List (Nat × Hart)} (look : Hart → β)
    (same : ∀ x ∈ hs, (s.harts[4 * core + x.1]?).map look = some (look x.2)) (j : Nat) :
    ((s.putHarts core hs).harts[j]?).map look = (s.harts[j]?).map look := by
  show ((hs.foldl _ s.harts)[j]?).map look = _
  refine List.foldlRecOn (motive := fun v => (v[j]?).map look = (s.harts[j]?).map look) _ _ rfl fun v before x hx => ?_
  by_cases here : j = 4 * core + x.1
  · obtain below | above := Nat.lt_or_ge (4 * core + x.1) 64
    · rw [here, modAt_getElem?_self below, same x hx, Vector.getElem?_eq_getElem below]
      rfl
    · rw [modAt, dif_neg (by omega)]
      exact before
  · rw [modAt_getElem?_ne _ here]
    exact before

theorem State.requestUnits_looks (s : State) (r : BitVec 2) (j : Nat) :
    ((s.requestUnits r).harts[j]?).map Hart.unarbitrated = (s.harts[j]?).map Hart.unarbitrated := by
  unfold State.requestUnits
  split
  · rfl
  · have noted : ((s.setHart { s.hart with mreq := r }).harts[j]?).map Hart.unarbitrated = (s.harts[j]?).map Hart.unarbitrated := by
      show ((s.mapHart fun h => { h with mreq := r }).harts[j]?).map _ = _
      rw [State.mapHart_harts]
      by_cases here : j = s.cur
      · rw [here, modAt_getElem?_self s.cur.isLt, Option.map_map]
        rfl
      · rw [modAt_getElem?_ne _ here]
    rw [State.arbitrateUnits_eq, State.putHarts_looks _ fun x hx => ?_, noted]
    obtain ⟨y, resident, rfl⟩ := List.mem_map.1 hx
    have number (now : Word) (ts : List (Nat × Nat)) : (withTarget now ts y).1 = y.1 ∧
        (withTarget now ts y).2.unarbitrated = y.2.unarbitrated := by
      unfold withTarget
      split <;> exact ⟨rfl, rfl⟩
    rw [(number ..).1, (number ..).2, State.getElem?_of_mem_residents resident]
    rfl

theorem State.requestUnits_only (s : State) (r : BitVec 2) : ∃ v, s.requestUnits r = { s with harts := v } := by
  unfold State.requestUnits
  split
  · exact ⟨_, rfl⟩
  · exact ⟨_, rfl⟩

theorem State.requestUnits_cur (s : State) (r : BitVec 2) : (s.requestUnits r).cur = s.cur := by
  obtain ⟨v, only⟩ := s.requestUnits_only r
  rw [only]

/-- A request leaves the hart that moves as it is, but for what the arbiter computes. -/
theorem State.requestUnits_hart (s : State) (r : BitVec 2) : (s.requestUnits r).hart.unarbitrated = s.hart.unarbitrated := by
  have here := s.requestUnits_looks r s.cur
  obtain ⟨v, only⟩ := s.requestUnits_only r
  rw [only] at here ⊢
  rw [Vector.getElem?_eq_getElem s.cur.isLt, Vector.getElem?_eq_getElem s.cur.isLt, Option.map_some, Option.map_some] at here
  exact Option.some.inj here

/-- Each of its fields but those is the same. -/
theorem State.requestUnits_kept (s : State) (r : BitVec 2) (field : Hart → β) (kept : ∀ h : Hart, field h.unarbitrated = field h) :
    field (s.requestUnits r).hart = field s.hart := by
  rw [← kept, s.requestUnits_hart r, kept]

theorem State.requestUnits_atWork (s : State) (r : BitVec 2) (k : Option Work) : (s.atWork k).requestUnits r = (s.requestUnits r).atWork k := by
  unfold State.requestUnits
  rw [show (s.atWork k).hart = s.hart from rfl]
  split <;> rfl

end Sys2Proof.Machine
end

section
/-!
PROOFS. `mshape` (10_matrix.md R300): the units that a hart takes up, and the count that comes back.
-/

namespace Sys2Proof.Machine

open Sys2Proof.Claims

/-! ### Units -/

theorem unitMask_getLsbD (us : List Nat) {k : Nat} (below : k < 3) : (unitMask us).getLsbD k = decide (k ∈ us) := by
  have from_mask (w : BitVec 3) : (us.foldl (fun w u => w ||| BitVec.twoPow 3 u) w).getLsbD k = (w.getLsbD k || decide (k ∈ us)) := by
    induction us generalizing w with
    | nil => simp
    | cons u us ih =>
      have bit : (w ||| BitVec.twoPow 3 u).getLsbD k = (w.getLsbD k || decide (k = u)) := by
        rw [BitVec.getLsbD_or, BitVec.getLsbD_twoPow]
        by_cases same : u = k
        · simp [same, below]
        · simp [same, Ne.symm same]
      rw [List.foldl_cons, ih, bit, Bool.or_assoc]
      simp only [List.mem_cons, Bool.decide_or]
  have none_yet : (0 : BitVec 3).getLsbD k = false := BitVec.getLsbD_zero
  rw [unitMask, from_mask, none_yet, Bool.false_or]

/-- A mask of units, each named once, says how many they are. -/
theorem heldUnits_unitMask_length {us : List Nat} (once : us.Nodup) (below : ∀ u ∈ us, u < 3) : (heldUnits (unitMask us)).length = us.length := by
  refine ((List.perm_ext_iff_of_nodup (List.nodup_range.filter _) once).2 fun u => ?_).length_eq
  rw [List.mem_filter, List.mem_range]
  constructor
  · intro ⟨small, bit⟩
    rw [unitMask_getLsbD us small] at bit
    exact of_decide_eq_true bit
  · intro named
    exact ⟨below u named, (unitMask_getLsbD us (below u named)).trans (decide_eq_true named)⟩

/-- The units that a target gives a hart: the lowest that it holds, and the lowest free ones (10_matrix.md R300). -/
def State.unitsTaken (s : State) (target : Nat) : List Nat :=
  (heldUnits s.hart.units).take target ++ (s.freeUnits (s.cur.val / 4)).take (target - (heldUnits s.hart.units).length)

theorem State.unitsTaken_below {s : State} {target : Nat} : ∀ u ∈ s.unitsTaken target, u < 3 := by
  intro u taken
  obtain held | free := List.mem_append.1 taken
  · exact List.mem_range.1 (List.mem_filter.1 (List.mem_of_mem_take held)).1
  · exact List.mem_range.1 (List.mem_filter.1 (List.mem_of_mem_take free)).1

/-- A unit that no hart holds is not held by the hart that runs. -/
theorem unit_not_held_of_free {s : State} (runs : s.hart.run = .running) {u : Nat} (free : u ∈ s.freeUnits (s.cur.val / 4)) :
    s.hart.units.getLsbD u = false := by
  have mine := List.all_eq_true.1 (List.mem_filter.1 free).2 (s.cur.val % 4) (List.mem_range.2 (Nat.mod_lt _ (by decide)))
  have here : s.harts[4 * (s.cur.val / 4) + s.cur.val % 4]? = some s.hart := by
    rw [Nat.div_add_mod]
    exact Vector.getElem?_eq_getElem s.cur.isLt
  rw [here] at mine
  simpa [runs] using mine

theorem State.unitsTaken_nodup {s : State} (runs : s.hart.run = .running) {target : Nat} : (s.unitsTaken target).Nodup := by
  refine List.nodup_append.2 ⟨(List.nodup_range.filter _).sublist (List.take_sublist ..), (List.nodup_range.filter _).sublist (List.take_sublist ..),
    fun u held k free same => ?_⟩
  subst same
  have mine := (List.mem_filter.1 (List.mem_of_mem_take held)).2
  rw [unit_not_held_of_free runs (List.mem_of_mem_take free)] at mine
  exact Bool.false_ne_true mine

/-- A hart moves towards a target that is not 0 where it holds a unit or finds one. -/
theorem State.unitsFor_eq {s : State} {target : Nat} (is : s.hart.unitTarget.toNat = target) (some_target : 1 ≤ target)
    (found : heldUnits s.hart.units ++ s.freeUnits (s.cur.val / 4) ≠ []) : s.unitsFor = some (s.unitsTaken target) := by
  have any : (!(heldUnits s.hart.units).isEmpty || !(s.freeUnits (s.cur.val / 4)).isEmpty) = true := by
    rw [← Bool.not_and, Bool.not_eq_true', Bool.eq_false_iff, Ne, Bool.and_eq_true, List.isEmpty_iff, List.isEmpty_iff, ← List.append_eq_nil_iff]
    exact found
  rw [State.unitsFor, is]
  refine (if_pos (Bool.and_eq_true_iff.2 ⟨decide_eq_true some_target, any⟩)).trans (congrArg some ?_)
  unfold State.unitsTaken
  by_cases enough : target ≤ (heldUnits s.hart.units).length
  · rw [if_pos enough, Nat.sub_eq_zero_of_le enough, List.take_zero, List.append_nil]
  · rw [if_neg enough, List.take_of_length_le (Nat.le_of_not_le enough)]

/-- Which units are free is a matter of which harts run and of the units that they hold. -/
theorem State.freeUnits_congr {s t : State} {core : Nat}
    (same : ∀ j : Nat, ((t.harts[j]?).map fun h : Hart => (h.run, h.units)) = (s.harts[j]?).map fun h : Hart => (h.run, h.units)) :
    t.freeUnits core = s.freeUnits core := by
  have slot (v : State) (k u : Nat) : (match v.harts[4 * core + k]? with | some h => (h.run = .absent || !h.units.getLsbD u : Bool) | none => true) =
      (((v.harts[4 * core + k]?).map fun h : Hart => (h.run, h.units)).map fun x => (x.1 = .absent || !x.2.getLsbD u : Bool)).getD true := by
    cases v.harts[4 * core + k]? <;> rfl
  refine List.filter_congr fun u _ => congrArg (List.all _) (funext fun k => ?_)
  exact (slot t k u).trans ((congrArg (fun o => (Option.map _ o).getD true) (same _)).trans (slot s k u).symm)

theorem State.freeUnits_mapHart (s : State) {g : Hart → Hart} (run : ∀ h, (g h).run = h.run) (units : ∀ h, (g h).units = h.units) (core : Nat) :
    (s.mapHart g).freeUnits core = s.freeUnits core := by
  refine State.freeUnits_congr fun j => ?_
  rw [State.mapHart_harts]
  by_cases here : j = s.cur
  · rw [here, modAt_getElem?_self s.cur.isLt, Option.map_map]
    exact congrArg (Option.map · _) (funext fun h => Prod.ext (run h) (units h))
  · rw [modAt_getElem?_ne _ here]

theorem State.freeUnits_requestUnits (s : State) (r : BitVec 2) (core : Nat) : (s.requestUnits r).freeUnits core = s.freeUnits core := by
  refine State.freeUnits_congr fun j => ?_
  have looks := congrArg (Option.map fun h : Hart => (h.run, h.units)) (s.requestUnits_looks r j)
  rwa [Option.map_map, Option.map_map] at looks

/-- Other units change the units of a hart, and its run, by what it was. -/
theorem Hart.setUnits_only (h : Hart) (us : List Nat) : h.setUnits us = { h with chain := (h.setUnits us).chain, units := unitMask us } := by
  unfold Hart.setUnits
  dsimp only
  split
  · rw [Hart.breakChain_only]
  · rfl

theorem Hart.setUnits_chain_congr {h k : Hart} (same : h.chain = k.chain) (us : List Nat) : (h.setUnits us).chain = (k.setUnits us).chain := by
  unfold Hart.setUnits
  rw [same]
  dsimp only
  split
  · exact Hart.breakChain_chain_congr same 3 0
  · exact same

theorem Hart.setUnits_inMiq (g h : Hart) (e : Entry) (us : List Nat) : (g.inMiq e h).setUnits us = (g.setUnits us).inMiq e h := by
  rw [Hart.setUnits_only, Hart.setUnits_only g, Hart.setUnits_chain_congr (h := g.inMiq e h) (k := g) rfl]
  rfl

/-! ### The instruction -/

theorem unarbitrated_inMiq (e : Entry) : Unarbitrated fun h => h.inMiq e h :=
  ⟨fun _ => rfl, fun _ => rfl, fun _ => rfl, fun _ => rfl, fun _ _ => rfl, fun _ _ _ => rfl, fun _ => rfl⟩

/-- A hart with the units `us`, and their count returned through the SRQ (10_matrix.md R300). -/
def Hart.shaped (h : Hart) (us : List Nat) : Hart := { h.setUnits us with srq := h.srq ++ [⟨BitVec.ofNat 64 us.length, 3⟩] }

theorem Hart.shaped_inMiq (g h : Hart) (e : Entry) (us : List Nat) : (g.inMiq e h).shaped us = (g.shaped us).inMiq e h := by
  rw [Hart.shaped, Hart.setUnits_inMiq]
  rfl

/-- A request `r` for which the hart of a package takes up the units `us`. -/
def State.Serves (s : State) (r : BitVec 2) (us : List Nat) : Prop :=
  (r = 0 ∧ us = []) ∨ (r ≠ 0 ∧ s.unitsFor = some us ∧ (heldUnits (unitMask us)).length = us.length)

theorem matrixShape_ok {e : Entry} {a : Word} {r : BitVec 2} {us : List Nat} {t v : State} (fresh : e.skipped = false)
    (asked : BitVec.ofNat 2 (min a.toNat 3) = r) (requested : t.requestUnits r = v) (settled : v.hart.unitsDue = false) (serves : v.Serves r us) :
    matrixShape e a t = .ok () (v.setHart (v.hart.shaped us)) := by
  have still : v.setHart { v.hart with unitsDue := false } = v := by
    rw [← settled]
    exact State.setHart_hart v
  have queue : (v.hart.setUnits us).srq = v.hart.srq := by rw [Hart.setUnits_only]
  have starts : matrixShape e a t = (if r = 0 then (do modHart (·.setUnits []); pushSrq 3 0 : Run Unit) else do
      moveUnits; let h ← theHart; pushSrq 3 (word (heldUnits h.units).length)) v := by
    rw [matrixShape, fresh, if_neg Bool.false_ne_true, asked]
    have settles : modHart (fun h => { h with unitsDue := false }) v = .ok () v := congrArg (EStateM.Result.ok ()) still
    refine (run_bind_ok (a := fun t => .ok () (t.requestUnits r)) (congrArg (EStateM.Result.ok ()) requested) _).trans ?_
    exact run_bind_ok settles _
  rw [starts]
  obtain ⟨rfl, rfl⟩ | ⟨more, found, count⟩ := serves
  · rw [if_pos rfl]
    show EStateM.Result.ok () ((v.setHart (v.hart.setUnits [])).setHart { (v.setHart (v.hart.setUnits [])).hart with
      srq := (v.setHart (v.hart.setUnits [])).hart.srq ++ [⟨0, 3⟩] }) = _
    rw [State.hart_setHart, State.setHart_setHart, queue]
    rfl
  · have moves : moveUnits v = .ok () (v.setHart (v.hart.setUnits us)) := by
      show (match v.unitsFor with | some us => modHart (·.setUnits us) | none => throw .wait : Run Unit) v = _
      rw [found]
      rfl
    have held : (v.hart.setUnits us).units = unitMask us := by rw [Hart.setUnits_only]
    rw [if_neg more, run_bind_ok moves, theHart_bind, State.hart_setHart, held, count]
    show EStateM.Result.ok () ((v.setHart (v.hart.setUnits us)).setHart { (v.setHart (v.hart.setUnits us)).hart with
      srq := (v.setHart (v.hart.setUnits us)).hart.srq ++ [⟨word us.length, 3⟩] }) = _
    rw [State.hart_setHart, State.setHart_setHart, queue]
    rfl

theorem inMiq_mshape (a : BitVec 6) : InMiq (.mshape a) [a] := ⟨fun _ => rfl, nofun, fun _ => rfl, fun _ _ => rfl⟩

/-- The package with the entry in the MIQ serves the request as without it. -/
theorem State.serves_withMiq {s : State} {r : BitVec 2} {us : List Nat} (serves : s.Serves r us) (e : Entry) (k : Option Work) :
    ((s.withMiq e).atWork k).Serves r us := by
  refine serves.imp_right fun ⟨more, found, count⟩ => ⟨more, found ▸ ?_, count⟩
  have same : ((s.withMiq e).atWork k).freeUnits (s.cur.val / 4) = s.freeUnits (s.cur.val / 4) :=
    s.freeUnits_mapHart (g := fun h => h.inMiq e h) (fun _ => rfl) (fun _ => rfl) _
  have here : ((s.withMiq e).atWork k).hart = s.hart.inMiq e s.hart := State.withMiq_hart s e
  unfold State.unitsFor
  rw [here, show ((s.withMiq e).atWork k).cur = s.cur from rfl, same]
  rfl

/-- `mshape` for which the hart takes up the units `us`. -/
theorem mshape_takes {s : State} {a : BitVec 6} {r : BitVec 2} {us : List Nat} (asked : BitVec.ofNat 2 (min (s.hart.sreg a).toNat 3) = r)
    (free : Free s (.mshape a)) (serves : (s.requestUnits r).Serves r us) :
    exec (.mshape a) s = .next ((s.requestUnits r).setHart (((s.requestUnits r).hart.shaped us).after s.hart)) := by
  have quiet : ((s.requestUnits r).hart.shaped us).quiet = true := by
    rw [Hart.shaped, Hart.setUnits_only]
    exact (s.requestUnits_kept r Hart.quiet fun _ => rfl).trans free.1
  refine (inMiq_mshape a).ends free (e := s.entryWith (.mshape a) [a] 0) quiet (working_eq (fun k => ?_) ?_)
  · have requested : ((s.withMiq (s.entryWith (.mshape a) [a] 0)).atWork k).requestUnits r =
        ((s.requestUnits r).withMiq (s.entryWith (.mshape a) [a] 0)).atWork k := by
      rw [State.requestUnits_atWork, State.withMiq, State.requestUnits_mapHart (unarbitrated_inMiq _)]
      rfl
    have here : (((s.requestUnits r).withMiq (s.entryWith (.mshape a) [a] 0)).atWork k).hart =
        (s.requestUnits r).hart.inMiq (s.entryWith (.mshape a) [a] 0) s.hart := by
      refine (State.withMiq_hart ..).trans ?_
      unfold Hart.inMiq Hart.after
      rw [show (s.requestUnits r).hart.pc = s.hart.pc from s.requestUnits_kept r Hart.pc fun _ => rfl,
        show (s.requestUnits r).hart.nextSeq = s.hart.nextSeq from s.requestUnits_kept r Hart.nextSeq fun _ => rfl]
    refine (matrixShape_ok (entryWith_skipped ..) asked requested ?_ (State.serves_withMiq serves ..)).trans ?_
    · rw [here]
      exact (s.requestUnits_kept r Hart.unitsDue fun _ => rfl).trans free.2.2.1
    · rw [here, Hart.shaped_inMiq]
      exact congrArg (EStateM.Result.ok () ∘ (State.atWork · k)) (State.setHart_setHart ..)
  · obtain ⟨v, only⟩ := s.requestUnits_only r
    rw [only]
    rfl

/-- What is behind an `mshape` that takes up units. -/
theorem mshape_past {s : State} {a : BitVec 6} {r : BitVec 2} {us : List Nat} (asked : BitVec.ofNat 2 (min (s.hart.sreg a).toNat 3) = r)
    (free : Free s (.mshape a)) (serves : (s.requestUnits r).Serves r us) :
    ∃ t, exec (.mshape a) s = .next t ∧
      Past (s.requestUnits r) t { (s.requestUnits r).hart.setUnits us with srq := s.hart.srq ++ [⟨BitVec.ofNat 64 us.length, 3⟩] } ∧
      t.hart.units = unitMask us := by
  refine ⟨_, mshape_takes asked free serves, congrArg _ ?_, ?_⟩
  · unfold Hart.shaped Hart.after
    rw [show (s.requestUnits r).hart.pc = s.hart.pc from s.requestUnits_kept r Hart.pc fun _ => rfl,
      show (s.requestUnits r).hart.nextSeq = s.hart.nextSeq from s.requestUnits_kept r Hart.nextSeq fun _ => rfl,
      show (s.requestUnits r).hart.srq = s.hart.srq from s.requestUnits_kept r Hart.srq fun _ => rfl]
  · rw [State.hart_setHart, Hart.shaped, Hart.setUnits_only]
    rfl

/-- `mshape` gives every unit back, or takes up those of its target. -/
theorem unitRequest : Claims.UnitRequest := by
  intro s a free r u own target take
  constructor
  · intro none_asked
    obtain ⟨t, done, past, units⟩ := mshape_past (r := r) (us := []) rfl free (Or.inl ⟨none_asked, rfl⟩)
    exact ⟨t, done, past, units⟩
  · intro more some_target found runs
    have cur : u.cur = s.cur := s.requestUnits_cur r
    have units : u.hart.units = s.hart.units := s.requestUnits_kept r Hart.units fun _ => rfl
    have free_units : u.freeUnits (u.cur.val / 4) = s.freeUnits (s.cur.val / 4) := by rw [cur]; exact s.freeUnits_requestUnits r _
    have taken : u.unitsTaken target = take := by rw [State.unitsTaken, units, free_units]; rfl
    have once : take.Nodup := taken ▸ State.unitsTaken_nodup ((s.requestUnits_kept r Hart.run fun _ => rfl).trans runs)
    have below : ∀ k ∈ take, k < 3 := taken ▸ State.unitsTaken_below
    have finds : u.unitsFor = some take := taken ▸ State.unitsFor_eq rfl some_target (by rw [units, free_units]; exact found)
    obtain ⟨t, done, past, held⟩ := mshape_past rfl free (Or.inr ⟨more, finds, heldUnits_unitMask_length once below⟩)
    refine ⟨t, done, past, fun k small => ?_⟩
    rw [held, unitMask_getLsbD take small, decide_eq_true_iff]

/-- Settles O39: the mask is built from the reads, and the arbiter serves the request as without the entry in the MIQ. -/
theorem skipAndUnits : Obligations.SkipAndUnits := ⟨skipMask, unitRequest⟩

end Sys2Proof.Machine
end

section
/-!
PROOFS. The operand nodes (10_matrix.md R313, R314, R318).
-/

namespace Sys2Proof.Machine

open Sys2Proof.Claims

theorem loadDws_sightless (w : Agent) (a : Word) (n : Nat) : Sightless (loadDws w a n) :=
  fun _ unseen => Blind.mapM (fun _ => (loadElem_blind unseen ..).bind fun _ => Blind.pure _) _

theorem Hart.onode_modOnode_ne (h : Hart) {n k : BitVec 4} (other : k ≠ n) (f : OperandNode → OperandNode) :
    (h.modOnode n f).onode k = h.onode k :=
  Vector.getElem_set_ne n.isLt k.isLt fun same => other (BitVec.eq_of_toNat_eq same.symm)

/-- Two changes of a node that come to the same. -/
theorem Hart.modOnode_congr {h : Hart} {n : BitVec 4} {f g : OperandNode → OperandNode} (same : f (h.onode n) = g (h.onode n)) :
    h.modOnode n f = h.modOnode n g := by
  rw [Hart.modOnode, same, Hart.modOnode]

theorem Hart.modOnode_id (h : Hart) (n : BitVec 4) : h.modOnode n id = h := by
  show { h with onodes := h.onodes.set n.toNat (h.onodes[n.toNat]'n.isLt) n.isLt } = h
  rw [Vector.set_getElem_self]

/-- What an instruction leaves that completes and changes one node. -/
theorem past_modOnode {s u : State} (kept : u.hart = s.hart) (n : BitVec 4) (f : OperandNode → OperandNode) :
    let t := u.setHart ((s.hart.modOnode n f).after s.hart)
    Past u t { s.hart with onodes := t.hart.onodes } ∧ t.hart.onode n = f (s.hart.onode n) ∧ ∀ k, k ≠ n → t.hart.onode k = s.hart.onode k := by
  intro t
  have node (k : BitVec 4) : t.hart.onode k = (s.hart.modOnode n f).onode k := by rw [State.hart_setHart]; rfl
  refine ⟨?_, (node n).trans (Hart.onode_modOnode ..), fun k other => (node k).trans (Hart.onode_modOnode_ne _ other f)⟩
  rw [Past, State.hart_setHart, kept]
  rfl

/-! ### What the entries do -/

/-- A descriptor from the doublewords that were read. -/
theorem descriptor_eq {d : Vector Word 8} {xs : List Word} (read : d.toList = xs) : Vector.ofFn (fun i => (xs[i.val]?).getD 0) = d := by
  subst read
  ext i hi
  simp

section
variable {e : Entry} {n : BitVec 4} {t : State} (fresh : e.skipped = false)
include fresh

section
variable {a : Word} (rests : (t.hart.onode n).state ∉ [.running, .held]) (alone : t.hart.viq ++ t.hart.piq = [])
include rests alone

/-- `mnode` of a node at rest looks at its address, and at nothing before it (10_matrix.md R314). -/
theorem nodeConfig_ready : nodeConfig e n a t = (if a.toNat % 8 ≠ 0 then trapAt 5 eAlign (some a) 0
    else do
      let xs ← acc 5 0 (loadDws t.hart.agent a 8)
      let d : Vector Word 8 := Vector.ofFn (fun i => (xs[i.val]?).getD 0)
      let s ← get
      if !nodeOk d || !s.bufsHomed t.hart.agent d then operandTrap 5
      else modHart fun h => h.modOnode n fun _ => ⟨.armed, d, 0, 0, 0, none, none⟩ : Run Unit) t := by
  have goes : ((t.hart.onode n).state != .running && (t.hart.onode n).state != .held &&
      (t.hart.viq ++ t.hart.piq).all (fun f => e.seq < f.seq)) = true := by
    rw [alone]
    simpa using rests
  rw [nodeConfig, fresh, if_neg Bool.false_ne_true, theHart_bind, waitUnless_bind goes]

/-- `mnode` with a descriptor that can be read. -/
theorem nodeConfig_read {xs : List Word} {v : State} {d : Vector Word 8} (aligned : a.toNat % 8 = 0)
    (read : loadDws t.hart.agent a 8 t = .ok xs v) (desc : d.toList = xs) : nodeConfig e n a t =
      (if !nodeOk d || !v.bufsHomed t.hart.agent d then operandTrap 5
      else modHart fun h => h.modOnode n fun _ => ⟨.armed, d, 0, 0, 0, none, none⟩) v := by
  have gets : acc 5 0 (loadDws t.hart.agent a 8) t = .ok xs v := by rw [acc, read]
  rw [nodeConfig_ready fresh rests alone, if_neg (not_not.2 aligned), run_bind_ok gets, descriptor_eq desc]
  rfl

end

/-- `mnode` of a node that is at work waits. -/
theorem nodeConfig_waits (works : (t.hart.onode n).state ∈ [.running, .held]) (a : Word) : nodeConfig e n a t = .error .wait t := by
  have blocked : ((t.hart.onode n).state != .running && (t.hart.onode n).state != .held &&
      (t.hart.viq ++ t.hart.piq).all (fun f => e.seq < f.seq)) = false := by
    simp only [List.mem_cons, List.not_mem_nil, or_false] at works
    obtain state | state := works <;> rw [state] <;> rfl
  rw [nodeConfig, fresh, if_neg Bool.false_ne_true, theHart_bind, waitUnless, blocked]
  rfl

/-- `mfill` of a node without a descriptor (10_matrix.md R314). -/
theorem nodeFill_idle (state : (t.hart.onode n).state = .idle) : nodeFill e n t = .error (.trap eOperand 5 none 0 0) t := by
  rw [nodeFill, fresh, if_neg Bool.false_ne_true, theHart_bind, state]
  rfl

/-- An ARMED node started (10_matrix.md R314). -/
def OperandNode.start (o : OperandNode) : OperandNode := if o.state = .armed then { o with state := .running } else o

/-- A DONE node freed (10_matrix.md R314). -/
def OperandNode.freed (o : OperandNode) : OperandNode := if o.state = .done then .reset else o

/-- `mfill` of a node with a descriptor starts it where it is ARMED (10_matrix.md R314). -/
theorem nodeFill_starts (state : (t.hart.onode n).state ≠ .idle) : nodeFill e n t = .ok () (t.mapHart (·.modOnode n .start)) := by
  rw [nodeFill, fresh, if_neg Bool.false_ne_true, theHart_bind, State.mapHart]
  cases node : (t.hart.onode n).state with
  | idle => exact absurd node state
  | armed =>
    rw [Hart.modOnode_congr (f := .start) (g := fun o => { o with state := .running }) (if_pos node)]
    rfl
  | running | held | done =>
    rw [Hart.modOnode_congr (f := .start) (g := id) (if_neg (by rw [node]; nofun)), Hart.modOnode_id, State.setHart_hart]
    rfl

/-- `mwait` of a node at rest frees it where it is DONE (10_matrix.md R314). -/
theorem nodeWait_frees (state : (t.hart.onode n).state ∈ [.idle, .done]) : nodeWait e n t = .ok () (t.mapHart (·.modOnode n .freed)) := by
  simp only [List.mem_cons, List.not_mem_nil, or_false] at state
  rw [nodeWait, fresh, if_neg Bool.false_ne_true, theHart_bind, State.mapHart]
  obtain node | node := state
  · rw [Hart.modOnode_congr (f := .freed) (g := id) (if_neg (by rw [node]; nofun)), Hart.modOnode_id, State.setHart_hart, node]
    rfl
  · rw [Hart.modOnode_congr (f := .freed) (g := fun _ => .reset) (if_pos node), node]
    rfl

/-- `mwait` of an ARMED node (10_matrix.md R314). -/
theorem nodeWait_armed (state : (t.hart.onode n).state = .armed) : nodeWait e n t = .error (.trap eOperand 5 none 0 0) t := by
  rw [nodeWait, fresh, if_neg Bool.false_ne_true, theHart_bind, state]
  rfl

/-- `mwait` of a node that is at work (10_matrix.md R314). -/
theorem nodeWait_waits (works : (t.hart.onode n).state ∈ [.running, .held]) : nodeWait e n t = .error .wait t := by
  simp only [List.mem_cons, List.not_mem_nil, or_false] at works
  rw [nodeWait, fresh, if_neg Bool.false_ne_true, theHart_bind]
  obtain state | state := works <;> rw [state] <;> rfl

end

/-! ### The instructions -/

theorem inMiq_mnode (c : BitVec 4) (a : BitVec 6) : InMiq (.mnode c a) [a] := ⟨fun _ => rfl, nofun, fun _ => rfl, fun _ _ => rfl⟩

theorem inMiq_mfill (c : BitVec 4) : InMiq (.mfill c) [] := ⟨fun _ => rfl, nofun, fun _ => rfl, fun _ _ => rfl⟩

theorem inMiq_mwait (c : BitVec 4) : InMiq (.mwait c) [] := ⟨fun _ => rfl, nofun, fun _ => rfl, fun _ _ => rfl⟩

theorem inMiq_mstat (c : BitVec 4) : InMiq (.mstat c) [] := ⟨fun _ => rfl, nofun, fun _ => rfl, fun _ _ => rfl⟩

section
variable {s u : State} {i : Instr} {rs : List (BitVec 6)} (miq : InMiq i rs) (free : Free s i)
include miq free

/-- An instruction that changes one node, and makes no access. -/
theorem InMiq.changesNode {c : BitVec 4} {f : OperandNode → OperandNode}
    (runs : ∀ t, t.hart = s.hart.inMiq (s.entryWith i rs 0) s.hart →
      runEntry (s.entryWith i rs 0) t = .ok () (t.mapHart (·.modOnode c f))) :
    ∃ t, exec i s = .next t ∧ Past s t { s.hart with onodes := t.hart.onodes } ∧ t.hart.onode c = f (s.hart.onode c) ∧
      ∀ k, k ≠ c → t.hart.onode k = s.hart.onode k := by
  refine ⟨_, miq.completes_here free (g := s.hart.modOnode c f) (e := s.entryWith i rs 0) ⟨rfl, rfl, rfl⟩ free.1 fun t here => ?_,
    past_modOnode rfl c f⟩
  rw [runs t here, State.mapHart, here]
  rfl

end

section
variable {s u : State} {c : BitVec 4} {a : BitVec 6} {xs : List Word} {d : Vector Word 8}

theorem AccessOnly.tasks {s t : State} (only : AccessOnly s t) : t.tasks = s.tasks := by
  obtain ⟨-, m, l, e, c, r, f, z, w, a, rfl, -⟩ := only
  rfl

/-- The regions that buffers may lie in are those of the tasks. -/
theorem bufsHomed_congr {s t : State} (same : t.tasks = s.tasks) (w : Agent) (d : Vector Word 8) : t.bufsHomed w d = s.bufsHomed w d := by
  unfold State.bufsHomed State.regionsOf
  rw [same]

/-- The entry of an `mnode` whose descriptor can be read, behind its reads. -/
theorem mnode_read (free : Free s (.mnode c a)) (rests : (s.hart.onode c).state ∉ [.running, .held])
    (aligned : (s.hart.sreg a).toNat % 8 = 0) (read : working (loadDws s.hart.agent (s.hart.sreg a) 8) s = .ok xs u) (desc : d.toList = xs)
    {t v : State} (behind : ∃ k, t = (s.withMiq (s.entryWith (.mnode c a) [a] 0)).atWork k)
    (here : t.hart = s.hart.inMiq (s.entryWith (.mnode c a) [a] 0) s.hart) (again : loadDws s.hart.agent (s.hart.sreg a) 8 t = .ok xs v) :
    runEntry (s.entryWith (.mnode c a) [a] 0) t = (if !nodeOk d || !u.bufsHomed s.hart.agent d then operandTrap 5
      else modHart fun h => h.modOnode c fun _ => ⟨.armed, d, 0, 0, 0, none, none⟩ : Run Unit) v := by
  obtain ⟨viq, piq, -⟩ := s.hart.quiet_iff.1 free.1
  have none_before : t.hart.viq ++ t.hart.piq = [] := by
    rw [here]
    exact List.append_eq_nil_iff.2 ⟨viq, piq⟩
  have tasks : v.tasks = u.tasks := by
    obtain ⟨k, rfl⟩ := behind
    have first := ((loadDws_ok ..).of_ok again).tasks
    have last := (AccessOnly.of_working (loadDws_ok ..).of_ok read).tasks
    exact first.trans last.symm
  have agent : t.hart.agent = s.hart.agent := by rw [here]; rfl
  rw [← bufsHomed_congr tasks, ← agent]
  exact nodeConfig_read (entryWith_skipped ..) (by rw [here]; exact rests) none_before aligned (by rw [agent]; exact again) desc

theorem mnode_arms (free : Free s (.mnode c a)) (rests : (s.hart.onode c).state ∉ [.running, .held])
    (aligned : (s.hart.sreg a).toNat % 8 = 0) (read : working (loadDws s.hart.agent (s.hart.sreg a) 8) s = .ok xs u) (desc : d.toList = xs)
    (legal : nodeOk d = true) (homed : u.bufsHomed s.hart.agent d = true) :
    ∃ t, exec (.mnode c a) s = .next t ∧ Past u t { s.hart with onodes := t.hart.onodes } ∧
      t.hart.onode c = ⟨.armed, d, 0, 0, 0, none, none⟩ ∧ ∀ k, k ≠ c → t.hart.onode k = s.hart.onode k := by
  obtain ⟨done, kept⟩ := (inMiq_mnode c a).completes free (loadDws_sightless _ _ _) read (e := s.entryWith (.mnode c a) [a] 0)
    (g := s.hart.modOnode c fun _ => ⟨.armed, d, 0, 0, 0, none, none⟩) ⟨rfl, rfl, rfl⟩ free.1 fun t v behind here later again => by
      rw [mnode_read free rests aligned read desc behind here again, legal, homed]
      show EStateM.Result.ok () (v.setHart _) = _
      rw [later]
      rfl
  exact ⟨_, done, past_modOnode kept c _⟩

theorem mnode_refuses (free : Free s (.mnode c a)) (handler : HasHandler s) (rests : (s.hart.onode c).state ∉ [.running, .held])
    (aligned : (s.hart.sreg a).toNat % 8 = 0) (read : working (loadDws s.hart.agent (s.hart.sreg a) 8) s = .ok xs u) (desc : d.toList = xs)
    (illegal : nodeOk d = false ∨ u.bufsHomed s.hart.agent d = false) :
    ∃ t, exec (.mnode c a) s = .next t ∧ EngineTraps u t (.mnode c a) 3 0x03 5 s.hart.faddr := by
  refine (inMiq_mnode c a).stops_behind free handler (addr := none) (gpa := 0) (loadDws_sightless _ _ _) read rfl fun t v behind here again => ?_
  rw [mnode_read free rests aligned read desc behind here again, if_pos (by simpa using illegal)]
  rfl

end

/-- What `mstat` returns, field by field (10_matrix.md R318). -/
theorem statWord_fields {units code full valid used : Nat} (u : units < 4) (c : code < 8) (f : full < 16) (v : valid < 2) (k : used < 2 ^ 32) :
    let x := word (units * 2 ^ 62 + code * 2 ^ 59 + full * 2 ^ 55 + valid * 2 ^ 32 + used)
    bits x 62 2 = units ∧ bits x 59 3 = code ∧ bits x 55 4 = full ∧ bits x 33 22 = 0 ∧ (x.getLsbD 32 = decide (valid = 1)) ∧ bits x 0 32 = used := by
  intro x
  have value : x.toNat = units * 2 ^ 62 + code * 2 ^ 59 + full * 2 ^ 55 + valid * 2 ^ 32 + used :=
    (BitVec.toNat_ofNat ..).trans (Nat.mod_eq_of_lt (by omega))
  refine ⟨?_, ?_, ?_, ?_, ?_, ?_⟩
  case refine_5 =>
    rw [BitVec.getLsbD, value, Nat.testBit_eq_decide_div_mod_eq]
    exact decide_eq_decide.2 (by omega)
  all_goals
    rw [bits, value]
    omega

/-- Settles O40: each instruction is an entry alone in the MIQ, and does what the state of its node says. -/
theorem operandNodes : Obligations.OperandNodes := by
  refine ⟨fun s u c a xs d free rests aligned read desc => mnode_arms free rests aligned read desc,
    fun s u c a xs d free handler rests aligned read desc => mnode_refuses free handler rests aligned read desc,
    fun s c a free handler rests misaligned => ?misaligned, fun s i c form free works => ?waits, fun s c free handler armed => ?waitArmed,
    fun s c free state => ?fill, fun s c free handler idle => ?fillIdle, fun s c free state => ?free, fun s c free below => ?stat⟩
  case misaligned =>
    obtain ⟨viq, piq, -⟩ := s.hart.quiet_iff.1 free.1
    refine (inMiq_mnode c a).stops free handler (addr := some (s.hart.sreg a)) (gpa := 0) rfl fun aux r t here => ?_
    have none_before : t.hart.viq ++ t.hart.piq = [] := by
      rw [here]
      exact List.append_eq_nil_iff.2 ⟨viq, piq⟩
    exact (nodeConfig_ready (entryWith_skipped ..) (by rw [here]; exact rests) none_before).trans (congrFun (if_pos misaligned) t)
  case waits =>
    have stays {rs : List (BitVec 6)} (miq : InMiq i rs) (elsewhere : ∀ h : Hart, h.onFabric i = false)
        (runs : ∀ t, t.hart = s.hart.inMiq (s.entryWith i rs 0) s.hart → runEntry (s.entryWith i rs 0) t = .error .wait t) :
        ∃ t, exec i s = .next t ∧ t.hart.miq.map (·.instr) = [i] ∧ t.hart.pc = s.hart.pc + 4 ∧ t.hart.onodes = s.hart.onodes ∧ SameBytes s t :=
      ⟨_, miq.waits free elsewhere runs, by rw [State.withMiq_hart]; exact ⟨rfl, rfl, rfl, fun _ => rfl⟩⟩
    obtain ⟨a, rfl⟩ | rfl := form
    · exact stays (inMiq_mnode c a) (fun _ => rfl) fun t here => nodeConfig_waits (entryWith_skipped ..) (by rw [here]; exact works) _
    · exact stays (inMiq_mwait c) (fun _ => rfl) fun t here => nodeWait_waits (entryWith_skipped ..) (by rw [here]; exact works)
  case waitArmed =>
    refine (inMiq_mwait c).stops free handler (addr := none) (gpa := 0) rfl fun aux r t here => ?_
    exact nodeWait_armed (entryWith_skipped ..) (by rw [here]; exact armed)
  case fill =>
    exact (inMiq_mfill c).changesNode free (f := .start) fun t here => nodeFill_starts (entryWith_skipped ..) (by rw [here]; exact state)
  case fillIdle =>
    refine (inMiq_mfill c).stops free handler (addr := none) (gpa := 0) rfl fun aux r t here => ?_
    exact nodeFill_idle (entryWith_skipped ..) (by rw [here]; exact idle)
  case free =>
    exact (inMiq_mwait c).changesNode free (f := .freed) fun t here => nodeWait_frees (entryWith_skipped ..) (by rw [here]; exact state)
  case stat =>
    let o := s.hart.onode c
    let used := if o.state = .idle then 0 else o.used
    let x := word ((heldUnits s.hart.units).length * 2 ^ 62 + operandCode o.state * 2 ^ 59 + o.full.toNat * 2 ^ 55 + s.hart.skipV.toNat * 2 ^ 32 +
      used)
    have done := (inMiq_mstat c).completes_here free (e := s.entryWith (.mstat c) [] 0) (g := { s.hart with srq := s.hart.srq ++ [⟨x, 3⟩] })
      ⟨rfl, rfl, rfl⟩ free.1 fun t here => by
        show nodeStat (s.entryWith (.mstat c) [] 0) c t = _
        rw [nodeStat, theHart_bind, entryWith_skipped, pushSrq, modHart, here]
        rfl
    have units : (heldUnits s.hart.units).length < 4 := by
      have := (List.range 3).length_filter_le (fun u => s.hart.units.getLsbD u)
      rw [List.length_range] at this
      exact Nat.lt_succ_of_le this
    have small : used < 2 ^ 32 := by
      show (if o.state = .idle then 0 else o.used) < 2 ^ 32
      split
      · decide
      · exact below
    have code : operandCode o.state < 8 := by cases o.state <;> decide
    obtain ⟨hu, hc, hf, hz, hv, hk⟩ := statWord_fields units code o.full.isLt s.hart.skipV.toNat_lt small
    refine ⟨_, x, done, rfl, hu, hc.trans ?_, hf, hz, hv.trans ?_, hk⟩
    · show operandCode (s.hart.onode c).state = _
      cases (s.hart.onode c).state <;> rfl
    · cases s.hart.skipV <;> rfl

end Sys2Proof.Machine
end

section
/-!
PROOFS. Accumulators: their elements, K-groups added one after another (10_matrix.md R303; 03_arithmetic.md R99, R100), and what of the
hart that changes.
-/

namespace Sys2Proof.Machine

open Sys2Proof.Claims

/-! ### Elements of 32 bits -/

/-- The low 32 bits of an element. -/
def low32 (x : Nat) : Nat := x % 2 ^ 32

theorem low32_low32 (x : Nat) : low32 (low32 x) = low32 x := Nat.mod_mod ..

/-- The elements of an accumulator are its fields. -/
theorem Hart.tile_eq (h : Hart) (c : BitVec 4) : h.tile c = (List.range 1024).map (tileAt h c) := by
  refine List.map_congr_left fun n _ => ?_
  rw [tileAt, BitVec.extractLsb'_toNat, Nat.shiftRight_eq_div_pow]

/-- They are a matter of the accumulator. -/
theorem Hart.tile_congr {g h : Hart} (same : g.c = h.c) (c : BitVec 4) : g.tile c = h.tile c := by
  unfold Hart.tile
  rw [same]

theorem Hart.tile_getElem? (h : Hart) (c : BitVec 4) {n : Nat} (below : n < 1024) : (h.tile c)[n]? = some (tileAt h c n) := by
  rw [h.tile_eq, List.getElem?_map, List.getElem?_range below]
  rfl

/-- An accumulator keeps the low 32 bits of what is written. -/
theorem Hart.tile_setTile (h : Hart) (c : BitVec 4) {xs : List Nat} (full : xs.length = 1024) : (h.setTile c xs).tile c = xs.map low32 := by
  have stored : (h.setTile c xs).c[c.toNat]'c.isLt = BitVec.ofNat 32768 (packElems 32 xs) := Vector.getElem_set_self ..
  refine List.ext_getElem? fun n => ?_
  by_cases below : n < 1024
  · have field := field_of_packElems 32 xs 0 n
    rw [Nat.zero_div, Nat.zero_mul, Nat.zero_add, List.getElem?_eq_getElem (full ▸ below)] at field
    unfold Hart.tile
    rw [stored, List.getElem?_map, List.getElem?_range below, List.getElem?_map, List.getElem?_eq_getElem (full ▸ below), Option.map_some,
      Option.map_some, Nat.mul_comm 32 n, field_ofNat _ (by omega)]
    exact congrArg some field
  · rw [List.getElem?_eq_none (by rw [Hart.tile_eq, List.length_map, List.length_range]; omega),
      List.getElem?_eq_none (by rw [List.length_map]; omega)]

/-! ### A K-group on the low 32 bits -/

theorem decode_low32 (x : Nat) : fmtF32.decode (low32 x) = fmtF32.decode x := by
  have sign : x % 2 ^ 32 / 2 ^ 31 % 2 = x / 2 ^ 31 % 2 := by omega
  have exponent : x % 2 ^ 32 / 2 ^ 23 % 2 ^ 8 = x / 2 ^ 23 % 2 ^ 8 := by omega
  have fraction : x % 2 ^ 32 % 2 ^ 23 = x % 2 ^ 23 := by omega
  simp only [Fmt.decode, low32, show fmtF32.width - 1 = 31 from rfl, show fmtF32.frac = 23 from rfl, show fmtF32.expBits = 8 from rfl, sign,
    exponent, fraction]

theorem accumulate_low32 (rm : Rm) (x : Nat) (s : Sum) :
    low32 (accumulate rm (low32 x) s).1 = low32 (accumulate rm x s).1 ∧ (accumulate rm (low32 x) s).2 = (accumulate rm x s).2 := by
  unfold accumulate
  rw [decode_low32]
  dsimp only
  split
  · exact ⟨rfl, rfl⟩
  · split
    · exact ⟨rfl, rfl⟩
    · split
      · exact ⟨low32_low32 x, rfl⟩
      · exact ⟨rfl, rfl⟩

theorem wrapInt_low32 (x : Nat) (d : Int) : wrapInt 32 ((low32 x : Int) + d) = wrapInt 32 ((x : Int) + d) := by
  unfold wrapInt low32
  rw [Int.natCast_emod]
  exact congrArg Int.toNat (Int.emod_add_emod ..)

/-- What a K-group makes of element `n` (03_arithmetic.md R99, R100). -/
def mulElem (rm : Rm) (a b : Group) (y : Nat × Nat) : Nat × Fl :=
  let la := (a.lines[y.2 / 32]?).getD []
  let lb := (b.lines[y.2 % 32]?).getD []
  match tyFmt a.ty, tyFmt b.ty with
  | some fa, some fb => accumulate rm y.1 (groupSum fa fb la lb a.scales[y.2 / 32]? b.scales[y.2 % 32]?)
  | _, _ => (wrapInt 32 ((y.1 : Int) + groupInt a.ty b.ty la lb), 0)

theorem mulGroup_eq (rm : Rm) (a b : Group) (old : List Nat) : mulGroup rm a b old =
    ((old.zipIdx.map (mulElem rm a b)).map (·.1), (old.zipIdx.map (mulElem rm a b)).foldl (fun f x => f ||| x.2) 0) := rfl

theorem mulGroup_length (rm : Rm) (a b : Group) (old : List Nat) : (mulGroup rm a b old).1.length = old.length := by
  rw [mulGroup_eq, List.length_map, List.length_map, List.length_zipIdx]

theorem mulElem_low32 (rm : Rm) (a b : Group) (x n : Nat) : low32 (mulElem rm a b (low32 x, n)).1 = low32 (mulElem rm a b (x, n)).1 ∧
    (mulElem rm a b (low32 x, n)).2 = (mulElem rm a b (x, n)).2 := by
  unfold mulElem
  dsimp only
  split
  · exact accumulate_low32 ..
  · exact ⟨congrArg low32 (wrapInt_low32 ..), rfl⟩

/-- A K-group looks at the low 32 bits of the elements. -/
theorem mulGroup_low32 (rm : Rm) (a b : Group) (old : List Nat) :
    (mulGroup rm a b (old.map low32)).1.map low32 = (mulGroup rm a b old).1.map low32 ∧
      (mulGroup rm a b (old.map low32)).2 = (mulGroup rm a b old).2 := by
  rw [mulGroup_eq, mulGroup_eq, List.zipIdx_map]
  constructor
  · simp only [List.map_map]
    exact List.map_congr_left fun y _ => (mulElem_low32 rm a b y.1 y.2).1
  · dsimp only
    rw [List.map_map, List.foldl_map, List.foldl_map]
    have raised : (fun (f : Fl) (y : Nat × Nat) => f ||| ((mulElem rm a b ∘ Prod.map low32 id) y).2) = fun f y => f ||| (mulElem rm a b y).2 :=
      funext fun f => funext fun y => congrArg (f ||| ·) (mulElem_low32 rm a b y.1 y.2).2
    rw [raised]

/-! ### K-groups in order -/

/-- K-groups in order into the elements of an accumulator, with the flags they raise. -/
def mulFold (rm : Rm) (acc : List Nat × Word) (gs : List (Group × Group)) : List Nat × Word :=
  gs.foldl (fun acc p => ((mulGroup rm p.1 p.2 acc.1).1, acc.2 ||| (mulGroup rm p.1 p.2 acc.1).2)) acc

/-- A K-group into an accumulator of the hart. -/
def Hart.mulStep (rm : Rm) (c : BitVec 4) (h : Hart) (p : Group × Group) : Hart :=
  (h.setTile c (mulGroup rm p.1 p.2 (h.tile c)).1).flag (mulGroup rm p.1 p.2 (h.tile c)).2

/-- `k` is `h` with the elements `x` in accumulator `c` and the flags `x.2` raised, but for bits above the low 32. -/
structure Hart.Multiplied (h k : Hart) (c : BitVec 4) (x : List Nat × Word) : Prop where
  /-- The elements are those of an accumulator. -/
  full : x.1.length = 1024
  /-- The accumulator holds them. -/
  tile : k.tile c = x.1.map low32
  /-- The flags are raised. -/
  vstat : k.vstat = h.vstat ||| x.2
  /-- The other accumulators stay. -/
  others : ∀ d : BitVec 4, d ≠ c → k.c[d.toNat]'d.isLt = h.c[d.toNat]'d.isLt ∧ k.cLive.getLsbD d.toNat = h.cLive.getLsbD d.toNat
  /-- So does everything else. -/
  only : k = { h with c := k.c, cLive := k.cLive, vstat := k.vstat }

theorem Hart.Multiplied.refl (h : Hart) (c : BitVec 4) : h.Multiplied h c ((List.range 1024).map (tileAt h c), 0) := by
  refine ⟨by rw [List.length_map, List.length_range], ?_, BitVec.or_zero.symm, fun _ _ => ⟨rfl, rfl⟩, rfl⟩
  rw [h.tile_eq, List.map_map]
  exact List.map_congr_left fun n _ => (Nat.mod_eq_of_lt (BitVec.isLt _)).symm

theorem Hart.Multiplied.step {h k : Hart} {c : BitVec 4} {x : List Nat × Word} (so_far : h.Multiplied k c x) (rm : Rm) (p : Group × Group) :
    h.Multiplied (k.mulStep rm c p) c ((mulGroup rm p.1 p.2 x.1).1, x.2 ||| (mulGroup rm p.1 p.2 x.1).2) := by
  obtain ⟨full, tile, vstat, others, only⟩ := so_far
  obtain ⟨elements, flags⟩ := mulGroup_low32 rm p.1 p.2 x.1
  rw [← tile] at elements flags
  have full' : (mulGroup rm p.1 p.2 (k.tile c)).1.length = 1024 := by rw [mulGroup_length, k.tile_eq, List.length_map, List.length_range]
  refine ⟨by rw [mulGroup_length, full], ?_, ?_, fun d other => ?_, ?_⟩
  · exact (k.tile_setTile c full').trans elements
  · show k.vstat ||| _ = h.vstat ||| (x.2 ||| _)
    rw [flags, vstat, BitVec.or_assoc]
  · obtain ⟨same, live⟩ := others d other
    have apart : c.toNat ≠ d.toNat := fun e => other (BitVec.eq_of_toNat_eq e.symm)
    refine ⟨(Vector.getElem_set_ne c.isLt d.isLt apart).trans same, ?_⟩
    show (k.cLive ||| BitVec.twoPow 16 c.toNat).getLsbD d.toNat = _
    rw [BitVec.getLsbD_or, BitVec.getLsbD_twoPow, live]
    simp [apart]
  · rw [Hart.mulStep, only]
    rfl

theorem Hart.Multiplied.fold {h k : Hart} {c : BitVec 4} {x : List Nat × Word} (so_far : h.Multiplied k c x) (rm : Rm) (gs : List (Group × Group)) :
    h.Multiplied (gs.foldl (Hart.mulStep rm c) k) c (mulFold rm x gs) := by
  induction gs generalizing k x with
  | nil => exact so_far
  | cons p gs ih => exact ih (so_far.step rm p)

theorem Hart.Multiplied.tileIs {h k : Hart} {c : BitVec 4} {x : List Nat × Word} (done : h.Multiplied k c x) {s t : Hart} (c_s : s.c = h.c)
    (live_s : s.cLive = h.cLive) (c_t : t.c = k.c) (live_t : t.cLive = k.cLive) : TileIs s t c fun n => (x.1[n]?).getD 0 := by
  constructor
  · intro n below
    have element := k.tile_getElem? c below
    rw [done.tile, List.getElem?_map, List.getElem?_eq_getElem (done.full ▸ below)] at element
    show tileAt t c n = (x.1[n]?).getD 0 % 2 ^ 32
    rw [List.getElem?_eq_getElem (done.full ▸ below), tileAt]
    simp only [c_t]
    exact (Option.some.inj element).symm
  · intro d other
    simp only [c_s, live_s, c_t, live_t]
    exact done.others d other

/-! ### Integers -/

/-- An integer K-group adds its sum to element `n`, modulo 2^32. -/
theorem mulGroup_int {rm : Rm} {a b : Group} (ints : tyFmt a.ty = none) (old : List Nat) (n : Nat) (below : n < old.length) :
    ((((mulGroup rm a b old).1[n]?).getD 0 : Nat) : Int) = (((old[n]?).getD 0 : Nat) +
      groupInt a.ty b.ty ((a.lines[n / 32]?).getD []) ((b.lines[n % 32]?).getD [])) % 2 ^ 32 := by
  have elem : mulElem rm a b (old[n], n) =
      (wrapInt 32 ((old[n] : Int) + groupInt a.ty b.ty ((a.lines[n / 32]?).getD []) ((b.lines[n % 32]?).getD [])), 0) := by
    unfold mulElem
    rw [ints]
  rw [mulGroup_eq, List.getElem?_map, List.getElem?_map, List.getElem?_zipIdx, List.getElem?_eq_getElem below, Option.map_some, Option.map_some,
    Option.map_some, Nat.zero_add, elem]
  exact Int.toNat_of_nonneg (Int.emod_nonneg _ (by decide))

theorem mulFold_int {rm : Rm} {gs : List (Group × Group)} (ints : ∀ p ∈ gs, tyFmt p.1.ty = none ∧ tyFmt p.2.ty = none) (xs : List Nat) (fl : Word)
    (n : Nat) (below : n < xs.length) : (((((mulFold rm (xs, fl) gs).1[n]?).getD 0 : Nat) : Int) % 2 ^ 32) =
      ((((xs[n]?).getD 0 : Nat) : Int) + (gs.map fun p =>
        groupInt p.1.ty p.2.ty ((p.1.lines[n / 32]?).getD []) ((p.2.lines[n % 32]?).getD [])).sum) % 2 ^ 32 := by
  induction gs generalizing xs fl with
  | nil => rw [mulFold, List.foldl_nil, List.map_nil, List.sum_nil, add_zero]
  | cons p gs ih =>
    have first := mulGroup_int (rm := rm) (b := p.2) (ints p (List.mem_cons_self ..)).1 xs n below
    have rest := ih (fun q later => ints q (List.mem_cons_of_mem _ later)) (mulGroup rm p.1 p.2 xs).1 (fl ||| (mulGroup rm p.1 p.2 xs).2)
      (by rw [mulGroup_length]; exact below)
    rw [List.map_cons, List.sum_cons, ← add_assoc]
    refine rest.trans ?_
    rw [first, Int.emod_add_emod]

end Sys2Proof.Machine
end

section
/-!
PROOFS. The multiplies (10_matrix.md R303, R305, R306, R310, R315): their operand reads see nothing of what an accumulator holds, so the
K-groups read are those that are taken.
-/

namespace Sys2Proof.Machine

open Sys2Proof.Claims

/-! ### Operand reads -/

section
variable (w : Agent) (base : Word)

theorem loadBytes_sightless (n : Nat) : Sightless (loadBytes w base n) := fun _ unseen =>
  Blind.mapM (fun _ => (loadElem_blind unseen ..).bind fun _ => Blind.pure _) _

theorem loadScales_sightless (scaled : Bool) (kg g : Nat) : Sightless (loadScales w base scaled kg g) := fun _ unseen =>
  Blind.ite (Blind.mapM (fun _ => loadElem_blind unseen ..) _) (Blind.pure _)

theorem denseGroup_sightless (t : Ty) (kg : Nat) (scaled : Bool) (g : Nat) : Sightless (denseGroup w base t kg scaled g) := fun f unseen =>
  (Blind.mapM (fun _ => (loadBytes_sightless w _ _ f unseen).bind fun _ => Blind.pure _) _).bind fun _ =>
    (loadScales_sightless w _ scaled kg g f unseen).bind fun _ => Blind.pure _

theorem sparseMeta_sightless (x kg : Nat) (skip : Word) : Sightless (sparseMeta w base x kg skip) := fun f unseen => by
  refine (Blind.mapM (fun _ => (loadBytes_sightless w _ _ f unseen).bind fun _ => Blind.pure _) _).bind fun rows => ?_
  refine (Blind.mapM (fun _ => (loadBytes_sightless w _ _ f unseen).bind fun _ => Blind.pure _) _).bind fun cols => ?_
  dsimp only
  split
  · exact Blind.throw _
  · exact Blind.ite (Blind.throw _) (Blind.pure _)

theorem sparseGroup_sightless (x kg : Nat) (rows : List Nat) (scaled trs : Bool) (g : Nat) :
    Sightless (sparseGroup w base x kg rows scaled trs g) := fun f unseen =>
  (Blind.mapM (fun _ => (loadBytes_sightless w _ _ f unseen).bind fun _ => Blind.pure _) _).bind fun _ =>
    (loadScales_sightless w _ scaled kg g f unseen).bind fun _ => Blind.pure _

theorem readySparse_sightless (x : Word) (other : Ty) (tbytes : Option Nat) (skip : Word) :
    Sightless (readySparse w base x other tbytes skip) := fun f unseen =>
  (loadBytes_sightless w base 4 f unseen).bind fun _ =>
    Blind.ite (Blind.throw _) ((sparseMeta_sightless w base _ _ skip f unseen).bind fun _ => Blind.pure _)

end

theorem readyGroup_sightless (r : Ready) (w : Agent) (x : Word) (g : Nat) : Sightless (r.group w x g) := by
  cases r with
  | dense base t => exact denseGroup_sightless w base t _ _ g
  | sparse base hdr rows => exact sparseGroup_sightless w base hdr _ rows _ _ g

/-- An operand made ready: a sparse one by reading its header and metadata (10_matrix.md R299, R306). -/
def readyOperand (w : Agent) (sparse : Prop) [Decidable sparse] (base x : Word) (own other : Ty) (tbytes : Option Nat) (skip : Word) : Acc Ready :=
  if sparse then readySparse w base x other tbytes skip else pure (.dense base own)

theorem readyOperand_sightless (w : Agent) (sparse : Prop) [Decidable sparse] (base x : Word) (own other : Ty) (tbytes : Option Nat) (skip : Word) :
    Sightless (readyOperand w sparse base x own other tbytes skip) := fun f unseen =>
  Blind.ite (readySparse_sightless w base x other tbytes skip f unseen) (Blind.pure _)

/-- A K-group of both operands. -/
def readGroups (w : Agent) (x : Word) (ra rb : Ready) (g : Nat) : Acc (Group × Group) := do
  let ga ← ra.group w x g
  let gb ← rb.group w x g
  pure (ga, gb)

theorem readGroups_sightless (w : Agent) (x : Word) (ra rb : Ready) (g : Nat) : Sightless (readGroups w x ra rb g) := fun f unseen =>
  (readyGroup_sightless ra w x g f unseen).bind fun _ => (readyGroup_sightless rb w x g f unseen).bind fun _ => Blind.pure _

theorem mulOperands_eq (h : Hart) (sp : Sparse) (ka kb k pa pb skip : Word) : mulOperands h sp ka kb k pa pb skip = (do
    let ra ← readyOperand h.agent (sp = .a) pa k (mulAty k) (mulBty k) (refBytes h ka) skip
    let rb ← readyOperand h.agent (sp = .b) pb k (mulBty k) (mulAty k) (refBytes h kb) skip
    ((List.range (mulKg k)).filter fun g => !skip.getLsbD g).mapM (readGroups h.agent k ra rb)) := by
  cases sp <;> rfl

theorem mulOperands_sightless (h : Hart) (sp : Sparse) (ka kb k pa pb skip : Word) : Sightless (mulOperands h sp ka kb k pa pb skip) :=
  fun f unseen => mulOperands_eq h sp ka kb k pa pb skip ▸ (readyOperand_sightless _ _ _ _ _ _ _ _ f unseen).bind fun _ =>
    (readyOperand_sightless _ _ _ _ _ _ _ _ f unseen).bind fun _ => Blind.mapM (fun _ => readGroups_sightless _ _ _ _ _ f unseen) _

/-! ### K-groups one after another -/

/-- One K-group read and taken. -/
def takeGroup (w : Agent) (rm : Rm) (c : BitVec 4) (x : Word) (ra rb : Ready) (g : Nat) : Run Unit := do
  let ga ← acc 5 g (ra.group w x g)
  let gb ← acc 5 g (rb.group w x g)
  modHart fun h => h.mulStep rm c (ga, gb)

theorem acc_setHart {a : Acc α} (sightless : Sightless a) {src : BitVec 4} {ei : Nat} {s t : State} {y : α} (h : a s = .ok y t) {g : Hart}
    (same : g.SameSeen s.hart) : acc src ei a (s.setHart g) = .ok y (t.setHart g) := acc_ok (sightless.setHart h same)

theorem takeGroup_ok {w : Agent} {x : Word} {ra rb : Ready} {g : Nat} {p : Group × Group} {s t : State} (rm : Rm) (c : BitVec 4)
    (h : readGroups w x ra rb g s = .ok p t) {k : Hart} (same : k.SameSeen s.hart) :
    takeGroup w rm c x ra rb g (s.setHart k) = .ok () (t.setHart (k.mulStep rm c p)) := by
  obtain ⟨ga, v, first, rest⟩ := exists_of_run_bind_ok h
  obtain ⟨gb, v', second, last⟩ := exists_of_run_bind_ok rest
  cases last
  have kept : v.hart = s.hart := (readyGroup_sightless ra w x g).hart first
  rw [takeGroup, run_bind_ok (acc_setHart (readyGroup_sightless ra w x g) first same),
    run_bind_ok (acc_setHart (readyGroup_sightless rb w x g) second (kept ▸ same)), modHart, State.hart_setHart, State.setHart_setHart]

/-- The K-groups that a mask leaves, read and taken in order. -/
theorem takeGroups_ok {w : Agent} {x : Word} {ra rb : Ready} {rm : Rm} {c : BitVec 4} {skipped : Nat → Bool} {ns : List Nat}
    {ps : List (Group × Group)} {s t : State} (h : (ns.filter fun g => !skipped g).mapM (readGroups w x ra rb) s = .ok ps t) {k : Hart}
    (same : k.SameSeen s.hart) :
    (ns.forM fun g => if skipped g then pure () else takeGroup w rm c x ra rb g) (s.setHart k) = .ok () (t.setHart (ps.foldl (Hart.mulStep rm c) k)) := by
  induction ns generalizing s k ps with
  | nil => cases h; rfl
  | cons g ns ih =>
    by_cases skips : skipped g
    · rw [List.filter_cons_of_neg (by simp [skips])] at h
      refine (run_bind_ok (a := if skipped g then pure () else takeGroup w rm c x ra rb g) (congrFun (if_pos skips) _) _).trans ?_
      exact ih h same
    · rw [List.filter_cons_of_pos (by simp [skips]), List.mapM_cons] at h
      obtain ⟨p, v, first, rest⟩ := exists_of_run_bind_ok h
      obtain ⟨ps', v', others, last⟩ := exists_of_run_bind_ok rest
      cases last
      have kept : v.hart = s.hart := (readGroups_sightless w x ra rb g).hart first
      refine (run_bind_ok (a := if skipped g then pure () else takeGroup w rm c x ra rb g)
        ((congrFun (if_neg skips) _).trans (takeGroup_ok rm c first same)) _).trans ?_
      exact ih others (kept ▸ ⟨same.late, same.seq, same.fn⟩)

/-! ### The entry -/

/-- The K-groups of an entry, from the one that it has come to, and then the release of its buffers (10_matrix.md R306, R315). -/
def takeAll (e : Entry) (c : BitVec 4) (a b x skip : Word) (w : Agent) (ra rb : Ready) : Run Unit := do
  ((List.range (mulKg x)).drop e.prog.toNat).forM fun g => if skip.getLsbD g then pure () else takeGroup w (rmOf (etRm e.et)) c x ra rb g
  modHart fun h => h.releaseRefs a b

/-- The entry once it has taken the skip mask (10_matrix.md R303, R310). -/
def Entry.took (e : Entry) (skip : Word) : Entry := { e with started := true, aux := skip }

/-- The skip mask of a multiply of the hart (10_matrix.md R310). -/
def Hart.skipMask (h : Hart) : Word := if h.skipV then h.skip else 0

/-- A hart whose multiply at the head of the MIQ has taken the skip mask. -/
def Hart.multiplying (h : Hart) : Hart := { h with skipV := false, miq := modHead (·.took h.skipMask) h.miq }

theorem takeSkip_ok {e : Entry} (fresh : e.started = false) (s : State) : takeSkip e true s =
    .ok s.hart.skipMask (s.setHart s.hart.multiplying) := by
  rw [takeSkip, fresh, if_neg Bool.false_ne_true]
  rfl

theorem nodeOwes_ok {r : Word} {s : State} (owes : refNode r = true → (s.hart.onode (refNum r)).owed = none) : nodeOwes r s = .ok () s := by
  rw [nodeOwes, theHart_bind]
  cases node : refNode r with
  | false => rfl
  | true =>
    rw [if_pos rfl, owes node]
    rfl

theorem mulChecks_ok {sp : Sparse} {a b x : Word} {s : State} (legal : mulOk sp x = true) (refs : mulRefs s.hart sp a b x = none) :
    mulChecks sp a b x s = .ok () s := by
  rw [mulChecks, theHart_bind, legal, refs]
  rfl

section
variable {e : Entry} {sp : Sparse} {c : BitVec 4} {a b x pa pb : Word} {t v : State} {ps : List (Group × Group)}

/-- A multiply whose checks pass comes to its operands, having taken the skip mask (10_matrix.md R303, R305). -/
theorem matrixMul_begins (fresh : e.skipped = false) (begins : e.started = false) (settled : t.hart.unitsDue = false) (unit : t.hart.units ≠ 0)
    (legal : mulOk sp x = true) (refs : mulRefs t.hart sp a b x = none) (ready_a : refBase t.hart a 0 = some pa)
    (ready_b : refBase t.hart b (if refNode a && refNode b && refNum a == refNum b then 1 else 0) = some pb)
    (owes : ∀ r ∈ [a, b], refNode r = true → (t.hart.onode (refNum r)).owed = none) :
    matrixMul e true sp c a b x t = (acc 5 0 (readyOperand t.hart.agent (sp = .a) pa x (mulAty x) (mulBty x) (refBytes t.hart a) t.hart.skipMask) >>=
      fun ra => acc 5 0 (readyOperand t.hart.agent (sp = .b) pb x (mulBty x) (mulAty x) (refBytes t.hart b) t.hart.skipMask) >>= fun rb =>
      takeAll e c a b x t.hart.skipMask t.hart.agent ra rb) (t.setHart t.hart.multiplying) := by
  have owed (r : Word) (named : r ∈ [a, b]) : nodeOwes r (t.setHart t.hart.multiplying) = .ok () (t.setHart t.hart.multiplying) :=
    nodeOwes_ok (by rw [State.hart_setHart]; exact owes r named)
  rw [matrixMul, fresh, if_neg Bool.false_ne_true, run_bind_ok (needUnit_ok settled unit), run_bind_ok (mulChecks_ok legal refs),
    run_bind_ok (takeSkip_ok begins t), if_pos rfl, run_bind_ok (owed a (List.mem_cons_self ..)),
    run_bind_ok (owed b (List.mem_cons_of_mem _ (List.mem_cons_self ..)))]
  dsimp only
  rw [theHart_bind, State.hart_setHart, show refBase t.hart.multiplying a 0 = some pa from ready_a, show refBase t.hart.multiplying b _ = some pb from ready_b]
  cases sp <;> rfl

/-- One whose operands can be read takes their K-groups in order. -/
theorem matrixMul_ok (fresh : e.skipped = false) (begins : e.started = false) (first : e.prog = 0) (settled : t.hart.unitsDue = false)
    (unit : t.hart.units ≠ 0) (legal : mulOk sp x = true) (refs : mulRefs t.hart sp a b x = none) (ready_a : refBase t.hart a 0 = some pa)
    (ready_b : refBase t.hart b (if refNode a && refNode b && refNum a == refNum b then 1 else 0) = some pb)
    (owes : ∀ r ∈ [a, b], refNode r = true → (t.hart.onode (refNum r)).owed = none)
    (read : mulOperands t.hart sp a b x pa pb t.hart.skipMask t = .ok ps v) :
    matrixMul e true sp c a b x t =
      .ok () (v.setHart ((ps.foldl (Hart.mulStep (rmOf (etRm e.et)) c) t.hart.multiplying).releaseRefs a b)) := by
  rw [mulOperands_eq] at read
  obtain ⟨ra, r, read_a, rest⟩ := exists_of_run_bind_ok read
  obtain ⟨rb, r', read_b, groups⟩ := exists_of_run_bind_ok rest
  have kept : r.hart = t.hart := Sightless.hart (readyOperand_sightless _ _ _ _ _ _ _ _) read_a
  have kept' : r'.hart = t.hart := (Sightless.hart (readyOperand_sightless _ _ _ _ _ _ _ _) read_b).trans kept
  have same : t.hart.multiplying.SameSeen t.hart := ⟨rfl, rfl, rfl⟩
  have loop := takeGroups_ok (rm := rmOf (etRm e.et)) (c := c) (k := t.hart.multiplying) groups (kept' ▸ same)
  have whole : (List.range (mulKg x)).drop e.prog.toNat = List.range (mulKg x) := by rw [first]; exact List.drop_zero
  rw [matrixMul_begins fresh begins settled unit legal refs ready_a ready_b owes,
    run_bind_ok (acc_setHart (readyOperand_sightless _ _ _ _ _ _ _ _) read_a same),
    run_bind_ok (acc_setHart (readyOperand_sightless _ _ _ _ _ _ _ _) read_b (kept ▸ same)), takeAll, whole, run_bind_ok loop, modHart,
    State.hart_setHart, State.setHart_setHart]

end

theorem Hart.mulStep_inMiq (rm : Rm) (c : BitVec 4) (g h : Hart) (e : Entry) (p : Group × Group) :
    (g.inMiq e h).mulStep rm c p = (g.mulStep rm c p).inMiq e h := by
  have tile : (g.inMiq e h).tile c = g.tile c := Hart.tile_congr rfl c
  rw [Hart.mulStep, tile]
  rfl

theorem Hart.mulSteps_inMiq (rm : Rm) (c : BitVec 4) (g h : Hart) (e : Entry) (ps : List (Group × Group)) :
    ps.foldl (Hart.mulStep rm c) (g.inMiq e h) = (ps.foldl (Hart.mulStep rm c) g).inMiq e h := by
  induction ps generalizing g with
  | nil => rfl
  | cons p ps ih => rw [List.foldl_cons, List.foldl_cons, Hart.mulStep_inMiq, ih]

theorem Hart.releaseRefs_inMiq (g h : Hart) (e : Entry) (a b : Word) : (g.inMiq e h).releaseRefs a b = (g.releaseRefs a b).inMiq e h := by
  unfold Hart.releaseRefs
  cases refNode a <;> cases refNode b <;> rfl

/-- The buffers that are released are those of the nodes alone. -/
theorem Hart.releaseRefs_of_only {h k : Hart} (only : k = { h with c := k.c, cLive := k.cLive, vstat := k.vstat }) (a b : Word) :
    k.releaseRefs a b = { h with c := k.c, cLive := k.cLive, vstat := k.vstat, onodes := (h.releaseRefs a b).onodes } := by
  rw [only]
  unfold Hart.releaseRefs
  cases refNode a <;> cases refNode b <;> rfl

theorem Hart.releaseRefs_unskipped (h : Hart) (a b : Word) :
    (Hart.releaseRefs { h with skipV := false } a b).onodes = (h.releaseRefs a b).onodes := by
  unfold Hart.releaseRefs
  cases refNode a <;> cases refNode b <;> rfl

/-! ### The instruction -/

theorem inMiq_mul {i : Instr} {sp : Sparse} {c : BitVec 4} {a b x : BitVec 6} (form : mulForm i = some (sp, c, a, b, x)) : InMiq i [a, b, x] := by
  cases i with
  | mmac c a b x | mmacsa c a b x | mmacsb c a b x =>
    cases form
    exact ⟨fun _ => rfl, nofun, fun _ => rfl, fun _ _ => rfl⟩
  | _ => cases form

/-- Settles O38: the operand reads see nothing of the accumulator, so the groups read are taken one after another; the elements of the
accumulator follow those of the fold on their low 32 bits. -/
theorem matrixMultiply : Obligations.MatrixMultiply := by
  intro s u i sp c a b x pa pb gs form free unit h ka kb k skip same legal refs ready_a ready_b owes read out
  let h1 : Hart := { h with skipV := false }
  let k1 := gs.foldl (Hart.mulStep (rmOf (etRm h.et)) c) h1
  let e := s.entryWith i [a, b, x] 0
  have done : h1.Multiplied k1 c out := (Hart.Multiplied.refl h1 c).fold (rmOf (etRm h.et)) gs
  have final : k1.releaseRefs ka kb = { h1 with c := k1.c, cLive := k1.cLive, vstat := k1.vstat, onodes := (h1.releaseRefs ka kb).onodes } :=
    Hart.releaseRefs_of_only done.only ka kb
  have second : (if refNode ka && refNode kb && refNum ka == refNum kb then 1 else 0) = if same then 1 else 0 := by
    simp only [same, Bool.and_eq_true, beq_iff_eq, and_assoc]
  obtain ⟨executed, kept⟩ := (inMiq_mul form).completes free (mulOperands_sightless h sp ka kb k pa pb skip) read (e := e.took skip)
    (g := k1.releaseRefs ka kb) (by rw [final]; exact ⟨rfl, rfl, rfl⟩) (by rw [final]; exact free.1) fun t v _ here later again => by
      have entered : t.hart.multiplying = h1.inMiq (e.took skip) h := by rw [here]; rfl
      have operands : mulOperands t.hart sp ka kb k pa pb t.hart.skipMask t = .ok gs v := by rw [here]; exact again
      rw [(exists_mulEntry form).2, matrixMul_ok (entryWith_skipped ..) rfl rfl (by rw [here]; exact free.2.2.1) (by rw [here]; exact unit) legal
        (by rw [here]; exact refs) (by rw [here]; exact ready_a) (by rw [here, second]; exact ready_b) (by rw [here]; exact owes) operands,
        entered, Hart.mulSteps_inMiq, Hart.releaseRefs_inMiq]
      rfl
  have tile : TileIs h (u.setHart ((k1.releaseRefs ka kb).after s.hart)).hart c fun n => (out.1[n]?).getD 0 := by
    rw [State.hart_setHart, final]
    exact done.tileIs rfl rfl rfl rfl
  refine ⟨_, executed, ?past, tile, fun ints n below => ?int⟩
  case past =>
    rw [Past, State.hart_setHart, kept, final, done.vstat, Hart.releaseRefs_unskipped]
    rfl
  case int =>
    have here : (((List.range 1024).map (tileAt h c))[n]?).getD 0 = tileAt h c n := by
      rw [List.getElem?_map, List.getElem?_range below]
      rfl
    have full : ((List.range 1024).map (tileAt h c)).length = 1024 := by rw [List.length_map, List.length_range]
    rw [tile.1 n below, Int.natCast_emod]
    refine (mulFold_int ints _ 0 n (by rw [full]; exact below)).trans ?_
    rw [here]

end Sys2Proof.Machine
end
